-- ==== Sys2Proof/Word.lean ====
section
/-! DEFINITION. Words of the Loari architecture (01_words R9, R10, R11) and the plain shapes that the rest of the
package shares. Nothing here computes more than a width. -/

namespace Sys2Proof

/-- A 32-bit register, instruction, header or literal word (R9, R10). -/
abbrev Word := BitVec 32

/-- A 64-bit value: a pair (R13), the PC (R68), an address. -/
abbrev DWord := BitVec 64

/-- The smallest addressable unit of memory (R9). -/
abbrev Byte := BitVec 8

/-- A 7-bit operand code (R11). -/
abbrev Code := BitVec 7

/-- The 21-bit value of format M and of the MODE register (R10, R28). -/
abbrev ModeVal := BitVec 21

/-- One bit per lane of a team: bit `l` is lane `l`, mask word `w` is bits `32w+31 … 32w` (R69). -/
abbrev Mask := BitVec 1024

/-- A sparse table: pairs in strictly rising key order, none equal to what an unlisted key reads as.
Registers, predicates, accumulator tiles and memory are all held so (`Host.Cell` is the byte case). -/
abbrev Table (β : Type) := List (Nat × β)

end Sys2Proof
end

