-- ==== Sys2Proof/Syntax.lean ====
section
/-! DEFINITION. The instructions and steps of the device: one constructor for each row of the opcode table.
179 of them are instruction words (R33), with the operand codes that the word holds; the rest are the indivisible
steps that no word encodes (95_what_each_step_holds), with the operands that name what they act on. A step of a queue
(a packet, a transfer, a store-path entry, an announcement) names none: it acts on the item that the state selects.
Constructors with operands come first, in the table's order, then those with none. -/

namespace Sys2Proof

/-- Where an uncorrectable error strikes (R198, R242, R411). -/
inductive ErrSite where
  | register (team lane reg : Nat)      -- register file, R198
  | teamState (team : Nat)              -- team-state store
  | coreStore (loc : Nat)               -- core store or operand buffer, the 8 bytes that hold `loc`
  | l1Clean (core line : Nat)           -- a clean L1 line
  | l1Dirty (core line : Nat)           -- a dirty L1 line
  | arithmetic (team : Nat) (again : Bool)  -- residue mismatch; `again`: the retry mismatched too
  | accumulator (core tile elem : Nat)  -- SECDED error, R242
  | strip (core : Nat)                  -- the strip in progress on a core's engine: its second residue mismatch, R242
  | unattributed (core : Nat)           -- a fault of no one team, R198
  | tier (pa : Nat)                     -- a poisoned response of a second-tier port, R377
deriving DecidableEq, Repr

/-- What the patrol scrubber finds at a location (R375). -/
inductive ScrubFound where
  | clean | correctable | uncorrectable
deriving DecidableEq, Repr

/-- The units that run as lockstep duplicates (R411). -/
inductive LockUnit where
  | distributor
  | spindle (core eng : Nat)
deriving DecidableEq, Repr

/-- The shadow counts a slice compares at the end of an epoch (R334): gains and losses of one way more or less. -/
structure CarveCounts where
  scratchGain : Nat
  cacheLoss : Nat
  cacheGain : Nat
  scratchLoss : Nat
deriving DecidableEq, Repr

/-- A fabric packet as received (R419): header, payload, and whether SECDED could correct the header. -/
structure Packet where
  hdr : BitVec 128
  payload : List Byte
  headerOk : Bool
deriving DecidableEq, Repr

/-- A fabric flit as received (R416): header, packets of the payload, what a resync or fence payload restates, and
whether the CRC held after FEC. -/
structure Flit where
  hdr : DWord
  packets : List Packet
  restate : List Nat
  crcOk : Bool
deriving DecidableEq, Repr

inductive Instr where
  /-- MODE (R90). Writes all 21 bits of the team's MODE register from the value field. -/
  | mode (value : ModeVal)
  /-- MGUARD (R91). Writes the guard fields MODE[11:7] only. -/
  | mguard (value : ModeVal)
  /-- GETC (R92). Copies a control register into the destination. -/
  | getc (d a b : Code)
  /-- SETC (R93). Writes a control register from the leader lane's source value, subject to the register's checks. -/
  | setc (a b : Code)
  /-- TRAP (R124). Raises TRAPI for the whole mask, recording the argument. -/
  | trap (b : Code)
  /-- HCALL (R127). Fences, sends a service request to firmware or host and parks the team until the reply. -/
  | hcall (d a b : Code)
  /-- TLBINV (R361). Removes the context's matching translations from every TLB and waits for accesses using them. -/
  | tlbinv (a b : Code)
  /-- ADD (R95). Adds a and b element by element. -/
  | add (d a b : Code)
  /-- SUB (R95). Subtracts b from a element by element. -/
  | sub (d a b : Code)
  /-- MUL (R95). Multiplies a and b element by element. -/
  | mul (d a b : Code)
  /-- MULH (R95). Returns the high half of the double-width integer product. -/
  | mulh (d a b : Code)
  /-- MAC (R95). Fused multiply-add of a times b plus d into d. -/
  | mac (d a b : Code)
  /-- DIV (R95). Divides a by b element by element. -/
  | div (d a b : Code)
  /-- REM (R95). Computes the remainder of a by b element by element. -/
  | rem (d a b : Code)
  /-- MIN (R95). Takes the lesser of a and b element by element. -/
  | min (d a b : Code)
  /-- MAX (R95). Takes the greater of a and b element by element. -/
  | max (d a b : Code)
  /-- ABS (R96). Absolute value of each element. -/
  | abs (d a : Code)
  /-- NEG (R96). Negation of each element. -/
  | neg (d a : Code)
  /-- AND (R99). Bitwise AND of a and b. -/
  | and (d a b : Code)
  /-- OR (R99). Bitwise OR of a and b. -/
  | or (d a b : Code)
  /-- XOR (R99). Bitwise XOR of a and b. -/
  | xor (d a b : Code)
  /-- SHL (R99). Shifts each element left. -/
  | shl (d a b : Code)
  /-- SHR (R99). Shifts each element right, filling with zeros. -/
  | shr (d a b : Code)
  /-- SRA (R99). Shifts each element right, filling with the top bit. -/
  | sra (d a b : Code)
  /-- CLZ (R96). Counts leading zero bits of each element. -/
  | clz (d a : Code)
  /-- POPC (R96). Counts one bits of each element. -/
  | popc (d a : Code)
  /-- BFX (R100). Extracts a bit field of a into d. -/
  | bfx (d a b : Code)
  /-- BFI (R100). Inserts a bit field from a into d. -/
  | bfi (d a b : Code)
  /-- SEL (R101). Selects a or b per lane by the guard. -/
  | sel (d a b : Code)
  /-- MOV (R101). Copies a into d. -/
  | mov (d a : Code)
  /-- CVT (R102). Converts a from the source type in b to MODE.TYPE. -/
  | cvt (d a b : Code)
  /-- RNDI (R96). Rounds each floating-point element to an integral value. -/
  | rndi (d a : Code)
  /-- RCP (R96). Reciprocal of each element, rounded once. -/
  | rcp (d a : Code)
  /-- RSQ (R96). Reciprocal square root of each element, rounded once. -/
  | rsq (d a : Code)
  /-- SQRT (R96). Square root of each element, rounded once. -/
  | sqrt (d a : Code)
  /-- EXP2 (R97). Faithfully rounded 2 to the power x. -/
  | exp2 (d a : Code)
  /-- LOG2 (R97). Faithfully rounded base-2 logarithm. -/
  | log2 (d a : Code)
  /-- SINP (R97). Faithfully rounded sin(pi x). -/
  | sinp (d a : Code)
  /-- COSP (R97). Faithfully rounded cos(pi x). -/
  | cosp (d a : Code)
  /-- CMPEQ (R103). Writes predicate d with a equal to b. -/
  | cmpeq (d a b : Code)
  /-- CMPNE (R103). Writes predicate d with a not equal to b. -/
  | cmpne (d a b : Code)
  /-- CMPLT (R103). Writes predicate d with a less than b. -/
  | cmplt (d a b : Code)
  /-- CMPLE (R103). Writes predicate d with a less than or equal to b. -/
  | cmple (d a b : Code)
  /-- CMPUN (R103). Writes predicate d true when either input is NaN. -/
  | cmpun (d a b : Code)
  /-- PAND (R104). Predicate AND lane by lane. -/
  | pand (d a b : Code)
  /-- POR (R104). Predicate OR lane by lane. -/
  | por (d a b : Code)
  /-- PXOR (R104). Predicate XOR lane by lane. -/
  | pxor (d a b : Code)
  /-- PNOT (R104). Predicate NOT lane by lane. -/
  | pnot (d a : Code)
  /-- VANY (R105). Writes to every contributing lane the OR of a predicate over them. -/
  | vany (d a : Code)
  /-- VALL (R105). Writes to every contributing lane the AND of a predicate over them. -/
  | vall (d a : Code)
  /-- BALLOT (R105). Writes a 32-bit mask of a predicate over one mask word. -/
  | ballot (d a b : Code)
  /-- UNPK_QN4 (R107). Widens eight QN4 codes with a scale into a register run. -/
  | unpkQn4 (d a b : Code)
  /-- UNPK_F4 (R107). Widens eight E2M1 elements with a scale into a register run. -/
  | unpkF4 (d a b : Code)
  /-- UNPK_E4M3 (R107). Widens four E4M3 elements with a scale into a register run. -/
  | unpkE4m3 (d a b : Code)
  /-- UNPK_E5M2 (R107). Widens four E5M2 elements with a scale into a register run. -/
  | unpkE5m2 (d a b : Code)
  /-- UNPK_I8 (R107). Widens four INT8 elements with a scale into a register run. -/
  | unpkI8 (d a b : Code)
  /-- UNPK_BF (R107). Widens two bfloat16 elements with a scale into a register run. -/
  | unpkBf (d a b : Code)
  /-- UNPK_H (R107). Widens two binary16 elements with a scale into a register run. -/
  | unpkH (d a b : Code)
  /-- PACK_QN4 (R108). Narrows a register run scaled by b into eight QN4 codes. -/
  | packQn4 (d a b : Code)
  /-- PACK_F4 (R108). Narrows a register run scaled by b into eight E2M1 elements. -/
  | packF4 (d a b : Code)
  /-- PACK_E4M3 (R108). Narrows a register run scaled by b into four E4M3 elements. -/
  | packE4m3 (d a b : Code)
  /-- PACK_E5M2 (R108). Narrows a register run scaled by b into four E5M2 elements. -/
  | packE5m2 (d a b : Code)
  /-- PACK_I8 (R108). Narrows a register run scaled by b into four INT8 elements. -/
  | packI8 (d a b : Code)
  /-- PACK_BF (R108). Narrows a register run scaled by b into two bfloat16 elements. -/
  | packBf (d a b : Code)
  /-- PACK_H (R108). Narrows a register run scaled by b into two binary16 elements. -/
  | packH (d a b : Code)
  /-- XLN (R109). Delivers to each lane register a of the source lane named by b. -/
  | xln (d a b : Code)
  /-- XLNX (R109). Delivers to each lane register a of lane l XOR b. -/
  | xlnx (d a b : Code)
  /-- RDLANE (R110). Reads register a of one lane into d. -/
  | rdlane (d a b : Code)
  /-- TSUM (R111). Sums a over contributing lanes by the fixed tree. -/
  | tsum (d a : Code)
  /-- TMIN (R111). Minimum of a over contributing lanes. -/
  | tmin (d a : Code)
  /-- TMAX (R111). Maximum of a over contributing lanes. -/
  | tmax (d a : Code)
  /-- TSCAN (R112). Inclusive scan of a over contributing lanes. -/
  | tscan (d a : Code)
  /-- BR (R115). Branches the whole mask to the target. -/
  | br (b : Code)
  /-- BRC (R116). Conditional branch that may diverge, pushing a PENDING entry. -/
  | brc (d b : Code)
  /-- BRANY (R116). Branches when any active lane's predicate is true. -/
  | brany (d b : Code)
  /-- BRALL (R116). Branches when every active lane's predicate is true. -/
  | brall (d b : Code)
  /-- LOOP (R117). Decrements a scalar and branches while non-zero. -/
  | loop (d b : Code)
  /-- MARK (R118). Pushes a REJOIN entry and continues. -/
  | mark (b : Code)
  /-- CALL (R120). Pushes a CALL entry and transfers to the target. -/
  | call (b : Code)
  /-- CALLI (R121). Indirect call grouping lanes by 64-bit target. -/
  | calli (a : Code)
  /-- LDB (R143). Loads 1 byte per contributing lane. -/
  | ldb (d a b : Code)
  /-- LDH (R143). Loads 2 bytes per contributing lane. -/
  | ldh (d a b : Code)
  /-- LDW (R143). Loads 4 bytes per contributing lane. -/
  | ldw (d a b : Code)
  /-- LDD (R143). Loads 8 bytes per contributing lane. -/
  | ldd (d a b : Code)
  /-- LDQ (R143). Loads 16 bytes per contributing lane. -/
  | ldq (d a b : Code)
  /-- STB (R144). Stores 1 byte per contributing lane. -/
  | stb (d a b : Code)
  /-- STH (R144). Stores 2 bytes per contributing lane. -/
  | sth (d a b : Code)
  /-- STW (R144). Stores 4 bytes per contributing lane. -/
  | stw (d a b : Code)
  /-- STD (R144). Stores 8 bytes per contributing lane. -/
  | std (d a b : Code)
  /-- STQ (R144). Stores 16 bytes per contributing lane. -/
  | stq (d a b : Code)
  /-- LDWA (R145). Acquire load of 4 bytes at MODE.SCOPE. -/
  | ldwa (d a b : Code)
  /-- LDDA (R145). Acquire load of 8 bytes at MODE.SCOPE. -/
  | ldda (d a b : Code)
  /-- STWL (R146). Release store of 4 bytes at MODE.SCOPE. -/
  | stwl (d a b : Code)
  /-- STDL (R146). Release store of 8 bytes at MODE.SCOPE. -/
  | stdl (d a b : Code)
  /-- LDS (R147). One 4-byte scalar load for the team. -/
  | lds (d a b : Code)
  /-- LDSD (R147). One 8-byte scalar load for the team. -/
  | ldsd (d a b : Code)
  /-- PFT (R148). Requests lines ahead of use with no visible effect. -/
  | pft (d a b : Code)
  /-- CFLUSH (R149). Writes a dirty line home and invalidates the copy. -/
  | cflush (a b : Code)
  /-- CCLEAN (R149). Writes a dirty line home and keeps the copy clean. -/
  | cclean (a b : Code)
  /-- CINV (R149). Invalidates the copy, discarding dirty bytes in software-managed regions. -/
  | cinv (a b : Code)
  /-- ATADD (R153). Atomic add returning the old value. -/
  | atadd (d a b : Code)
  /-- ATAND (R153). Atomic AND returning the old value. -/
  | atand (d a b : Code)
  /-- ATOR (R153). Atomic OR returning the old value. -/
  | ator (d a b : Code)
  /-- ATXOR (R153). Atomic XOR returning the old value. -/
  | atxor (d a b : Code)
  /-- ATMIN (R153). Atomic minimum returning the old value. -/
  | atmin (d a b : Code)
  /-- ATMAX (R153). Atomic maximum returning the old value. -/
  | atmax (d a b : Code)
  /-- ATXCH (R153). Atomic exchange returning the old value. -/
  | atxch (d a b : Code)
  /-- ATCAS (R153). Atomic compare-and-swap returning the old value. -/
  | atcas (d a b : Code)
  /-- RMADD (R154). Reduction add at memory with no result. -/
  | rmadd (a b : Code)
  /-- RMAND (R154). Reduction AND at memory with no result. -/
  | rmand (a b : Code)
  /-- RMOR (R154). Reduction OR at memory with no result. -/
  | rmor (a b : Code)
  /-- RMXOR (R154). Reduction XOR at memory with no result. -/
  | rmxor (a b : Code)
  /-- RMMIN (R154). Reduction minimum at memory with no result. -/
  | rmmin (a b : Code)
  /-- RMMAX (R154). Reduction maximum at memory with no result. -/
  | rmmax (a b : Code)
  /-- BLD (R174). Loads 4 bytes and binds the register in refresh mode. -/
  | bld (d a b : Code)
  /-- BLDN (R174). Loads and binds the register in notify mode. -/
  | bldn (d a b : Code)
  /-- BLDD (R174). Loads 8 bytes and binds a pair in refresh mode. -/
  | bldd (d a b : Code)
  /-- UNBIND (R175). Removes the binding of d in each contributing lane. -/
  | unbind (d : Code)
  /-- BWAIT (R176). Parks until a watched binding has CHG set or a timeout expires. -/
  | bwait (d a b : Code)
  /-- BCHG (R177). Moves a binding's CHG bit to a predicate and clears it. -/
  | bchg (d a : Code)
  /-- BADD (R178). Atomic add at the bound address, updating the bound register. -/
  | badd (d a b : Code)
  /-- BCAS (R178). Atomic compare-and-swap at the bound address. -/
  | bcas (d a b : Code)
  /-- BXCH (R178). Atomic exchange at the bound address. -/
  | bxch (d a b : Code)
  /-- RBEGIN (R275). Opens an atomic region for the active lanes and pushes the handler entry. -/
  | rbegin (a : Code)
  /-- RLDW (R277). Loads 4 bytes as a new tagged region input. -/
  | rldw (d a b : Code)
  /-- RLDD (R277). Loads 8 bytes as a new tagged region input. -/
  | rldd (d a b : Code)
  /-- FORK (R202). Queues a program on a spindle. -/
  | fork (d a b : Code)
  /-- RDV (R203). Parks until the team's forked programs on an engine have ended and reports their status. -/
  | rdv (d a : Code)
  /-- EKILL (R204). Abandons every program of the workgroup on a spindle. -/
  | ekill (a : Code)
  /-- CPY4 (R212). Copies 4 bytes per lane through the streamer. -/
  | cpy4 (a b : Code)
  /-- CPY8 (R212). Copies 8 bytes per lane through the streamer. -/
  | cpy8 (a b : Code)
  /-- CPY16 (R212). Copies 16 bytes per lane through the streamer. -/
  | cpy16 (a b : Code)
  /-- CRA4 (R213). Adds 4 source bytes per lane into the destination. -/
  | cra4 (a b : Code)
  /-- CRA8 (R213). Adds 8 source bytes per lane into the destination. -/
  | cra8 (a b : Code)
  /-- CRA16 (R213). Adds 16 source bytes per lane into the destination. -/
  | cra16 (a b : Code)
  /-- CLOSE (R216). Closes the issuer's open copies into a numbered batch with a selector action. -/
  | close (d a b : Code)
  /-- WAITB (R220). Parks until every batch up to a number is complete. -/
  | waitb (a : Code)
  /-- SEMSET (R224). Sets a semaphore's value. -/
  | semset (a b : Code)
  /-- SEMINC (R224). Increments a semaphore, saturating. -/
  | seminc (a b : Code)
  /-- SEMACQ (R224). Parks until the semaphore can be decremented by b, then decrements it. -/
  | semacq (a b : Code)
  /-- SEMTRY (R224). Tries to decrement a semaphore and reports success in a predicate. -/
  | semtry (d a b : Code)
  /-- OBRES (R234). Creates an operand-buffer reservation record. -/
  | obres (d a : Code)
  /-- OBFREE (R235). Releases an operand-buffer reservation record. -/
  | obfree (a : Code)
  /-- MZERO (R243). Clears and claims an accumulator tile. -/
  | mzero (d : Code)
  /-- MMA (R244). Queues a matrix multiply-accumulate into a tile. -/
  | mma (d a b : Code)
  /-- MMAP (R245). Queues a paired multiply-accumulate sharing B with the partner core. -/
  | mmap (d a b : Code)
  /-- LDACC (R248). Reads one accumulator element per lane. -/
  | ldacc (d a b : Code)
  /-- STACC (R248). Writes one accumulator element per lane. -/
  | stacc (d a b : Code)
  /-- MTRQ (R249). Queues a requantising transpose into the operand buffer. -/
  | mtrq (a b : Code)
  /-- BARINIT (R258). Starts a new barrier generation and releases its waiters. -/
  | barinit (a b : Code)
  /-- ARRIVE (R259). Performs an arrival on a barrier and returns a phase token. -/
  | arrive (d a b : Code)
  /-- AWAIT (R259). Parks until a token's phase has passed or it is stale. -/
  | await (d a b : Code)
  /-- ARRWAIT (R259). Arrives and waits on the resulting token. -/
  | arrwait (d a b : Code)
  /-- BARINV (R258). Clears a barrier's LIVE bit and releases its waiters. -/
  | barinv (a : Code)
  /-- PARK (R262). Parks the team until woken or timed out. -/
  | park (d b : Code)
  /-- WAKE (R262). Wakes a team of the workgroup or sets its WAKEPEND. -/
  | wake (a : Code)
  /-- XCH (R320). Offers register values to a partner team and parks until matched. -/
  | xch (d a b : Code)
  /-- TENDER (R326). Submits a child launch record to the distributor. -/
  | tender (d a b : Code)
  /-- TCLASS (R325). Loads a task-class record of the context. -/
  | tclass (a b : Code)
  /-- CRSW (R350). Starts a region mode switch and returns a ticket. -/
  | crsw (d a b : Code)
  /-- CRWAIT (R351). Parks until a region switch ticket completes and returns its status. -/
  | crwait (d a : Code)
  /-- HANDOFF (R385). Gives handover regions to the host. -/
  | handoff (a b : Code)
  /-- TAKE (R385). Takes handover regions back from the host. -/
  | take (a b : Code)
  /-- HATTACH (R439). Attaches the team to a hank member. -/
  | hattach (d a : Code)
  /-- HDETACH (R440). Removes the team's attachment to a hank member. -/
  | hdetach (a : Code)
  /-- HQUERY (R441). Returns hank member presence, attachment mask or attach count. -/
  | hquery (d a : Code)
  /-- LOAD_DATA_RETURN (R137). A load's data arrives and is written to its register, completing the load. -/
  | loadDataReturn (k w : Nat)
  /-- REFRESH_STEAL (R189). The refresh sequencer steals a bank cycle to scrub one register-file row. -/
  | refreshSteal (core bank : Nat)
  /-- MACHINE_ERROR (R198). An uncorrectable error in a protected core structure is detected and handled. -/
  | machineError (site : ErrSite)
  /-- GETS (R340). A read request is performed at the home slice. -/
  | gets (agent line : Nat)
  /-- GETM (R340). A write request is performed at the home slice. -/
  | getm (agent line : Nat)
  /-- UPGRADE (R340). An S-to-M upgrade request is performed at the home slice. -/
  | upgrade (agent line : Nat)
  /-- GETH (R340). A streamer's hold request is performed at the home slice. -/
  | geth (agent line : Nat)
  /-- CLEAN_EVICTION_NOTICE (R340). A clean eviction notice updates the directory entry. -/
  | cleanEvictionNotice (agent line : Nat)
  /-- WRITEBACK (R340). A dirty writeback arrives at the home and updates the entry. -/
  | writeback (agent line : Nat)
  /-- WATCH (R340). A spill walker's watch request marks the line watched. -/
  | watch (agent line : Nat)
  /-- RENEWAL (R340). A lease renewal extends the entry's STAMP. -/
  | renewal (agent line : Nat)
  /-- INVALIDATION (R341). An invalidation reaches an agent, which sets PEND on bindings and acknowledges. -/
  | invalidation (agent line : Nat)
  /-- FORWARD (R340). A forwarded request reaches the owner, which supplies data and changes state. -/
  | forward (agent line : Nat)
  /-- RECALL (R345). A recall reaches a holder, which writes its held transfers or data home. -/
  | recall (agent line : Nat)
  /-- ACKNOWLEDGEMENT (R341). An invalidation acknowledgement reaches the requester, performing the write when the count is reached. -/
  | acknowledgement (agent line : Nat)
  /-- CHANGE_NOTICE (R171). A change notice for a watched line is resolved by the spill walker to PEND. -/
  | changeNotice (core line : Nat)
  /-- LEASE_EXPIRY (R336). A shared copy reaches its lease stamp and stops serving reads. -/
  | leaseExpiry (agent line : Nat)
  /-- RENEWAL_DUE (R343). A bobbin line at half its lease sends a renewal. -/
  | renewalDue (agent line : Nat)
  /-- LEASE_SWEEP (R343). The background sweeper clears sharer sets of expired entries. -/
  | leaseSweep (line : Nat)
  /-- DIRECTORY_ENTRY_UNCORRECTABLE (R348). An uncorrectable directory entry is rebuilt by recalling every agent. -/
  | directoryEntryUncorrectable (line : Nat)
  /-- REBALANCE_EPOCH (R331). At the end of an epoch the rebalancer may move one hot bucket. -/
  | rebalanceEpoch (die : Nat)
  /-- CARVE_EPOCH (R334). A slice compares shadow counts and moves its scratchpad boundary by a way. -/
  | carveEpoch (slice : Nat) (counts : CarveCounts)
  /-- PATROL_SCRUB (R375). The patrol scrubber reads and corrects HBM locations. -/
  | patrolScrub (pa : Nat) (found : ScrubFound)
  /-- LANE_COMMIT (R272). The commit engine takes a region lane's lines and drains, repairs or aborts it. -/
  | laneCommit (team lane : Nat)
  /-- REGION_TIMEOUT (R269). A region lane aborts with code 9 after 65,536 cycles without committing. -/
  | regionTimeout (team lane : Nat)
  /-- BWAIT_TIMEOUT (R176). A parked BWAIT's timeout expires and it completes. -/
  | bwaitTimeout (team : Nat)
  /-- PARK_TIMEOUT (R262). A PARK's timeout expires and it completes with status 1. -/
  | parkTimeout (team : Nat)
  /-- XCHTMO (R320). An unmatched XCH times out and raises XCHTMO. -/
  | xchtmo (team : Nat)
  /-- PAIRTMO (R246). An MMAP whose partner is absent for 65,536 cycles ends in error. -/
  | pairtmo (core : Nat)
  /-- SPINDLE_PROGRAM_START (R199). A spindle starts the next queued program. -/
  | spindleProgramStart (core eng : Nat)
  /-- SPINDLE_PROGRAM_END (R201). A program's EXIT completes once its operations are performed. -/
  | spindleProgramEnd (core eng : Nat)
  /-- ENGINE_OPERATION_START (R236). The matrix engine starts the operation at the head of its queue. -/
  | engineOperationStart (core : Nat)
  /-- MMA_STRIP (R237). An MMA strip whose rows are fetched is summed and completes. -/
  | mmaStrip (core : Nat)
  /-- MMAP_START (R246). Both cores of an MMAP pair start strip 0 in step. -/
  | mmapStart (core : Nat)
  /-- PAGE_RESPONSE (R363). A page request's response arrives and the faulting party resumes or traps. -/
  | pageResponse (k : Nat) (ok : Bool)
  /-- ATS_INVALIDATION (R361). An invalidation from the host IOMMU drops cached translations. -/
  | atsInvalidation (ctx : Nat) (va : DWord) (kind : Nat)
  /-- PLACEMENT_RESPONSE (R403). System software's answer to a placement request admits a workgroup or re-requests. -/
  | placementResponse (ctx k : Nat) (value : Word)
  /-- HCALL_REPLY (R127). A service reply unparks the HCALL team with its status. -/
  | hcallReply (team : Nat) (status : Word)
  /-- BID (R322). A core's bid with its computed cost reaches the distributor and is ranked. -/
  | bid (ann core : Nat)
  /-- SERVICE_END_WORKGROUP (R452). System software ends a workgroup through the service port with status 9. -/
  | serviceEndWorkgroup (wg : Nat)
  /-- PREEMPTION (R368). A workgroup is stopped and its state saved. -/
  | preemption (wg : Nat)
  /-- RESTORE (R321). A saved workgroup is restored onto a core that meets its needs. -/
  | restore (wg core : Nat)
  /-- CLOCK_THROTTLE (R410). Firmware lowers or raises core clocks on power or junction limits. -/
  | clockThrottle (core : Nat) (up : Bool)
  /-- THERMAL_SHUTDOWN (R410). At 115 C every workgroup ends and the device enters reset. -/
  | thermalShutdown (die : Nat)
  /-- KICK_RELEASE (R381). Host kick RELEASE moves HOST regions to RELEASED. -/
  | kickRelease (port : Nat)
  /-- KICK_ACQUIRE (R381). Host kick ACQUIRE flushes DEVICE regions and passes them to HOST. -/
  | kickAcquire (port : Nat)
  /-- TAKE_RESUME (R381). A TAKE waiting on a HOST region proceeds once the region leaves HOST. -/
  | takeResume (team : Nat)
  /-- HOST_READ_SHARED (R388). The host reads a half-line shared through the bridge. -/
  | hostReadShared (port line half : Nat)
  /-- HOST_READ_OWNERSHIP (R388). The host reads a half-line for ownership through the bridge. -/
  | hostReadOwnership (port line half : Nat)
  /-- HOST_WRITEBACK (R388). The host writes back a half-line to the bridge. -/
  | hostWriteback (port line half : Nat) (data : List Byte) (keep : Bool)
  /-- HOST_DROP_CLEAN (R388). The host drops a clean half-line. -/
  | hostDropClean (port line half : Nat)
  /-- SNOOP_TIMEOUT (R389). An unanswered back-invalidate snoop takes the host port down. -/
  | snoopTimeout (port : Nat)
  /-- HOST_UNCACHED_ACCESS (R387). A host access outside every window is performed at the home slice. -/
  | hostUncachedAccess (port pa size : Nat) (wr : Option (List Byte))
  /-- CONTEXT_DESCRIPTOR_WRITE (R392). A context descriptor field is written, starting the queue watch when VALID is set. -/
  | contextDescriptorWrite (ctx off : Nat) (value : DWord) (service : Bool)
  /-- BUCKET_TABLE_WRITE (R330). A host write of the bucket table moves a bucket in host-assisted mode. -/
  | bucketTableWrite (die bucket : Nat) (value : Byte)
  /-- COHERENT_WINDOW_WRITE (R387). A write to a coherent window register enables or changes a window. -/
  | coherentWindowWrite (port win off : Nat) (value : DWord)
  /-- CONFIG_WRITE (R412). A write to a configuration register without a row of its own. -/
  | configWrite (off : Nat) (value : DWord) (service : Bool)
  /-- DIRECTORY_DIAGNOSTIC_READ (R337). The service port reads a directory entry by line address. -/
  | directoryDiagnosticRead (pa : Nat)
  /-- HEATER_STEP (R409). Firmware steps each heater code to hold its ring at peak. -/
  | heaterStep (ring : Nat)
  /-- HEATER_CODE_WRITE (R409). In host-assisted tuning the host writes a heater code. -/
  | heaterCodeWrite (ring : Nat) (code : BitVec 12)
  /-- RING_OUT_OF_LOCK (R409). A ring out of lock stops its wavelength and traffic continues on the rest. -/
  | ringOutOfLock (channel wavelength : Nat)
  /-- LOCK_INTERFACE (R405). TDISP LOCK_INTERFACE freezes a context descriptor except budgets. -/
  | lockInterface (ctx : Nat)
  /-- RUN (R405). TDISP RUN enables the context's VALID. -/
  | run (ctx : Nat)
  /-- FLIT_DATA (R416). A data flit is received, checked and its packets delivered. -/
  | flitData (port : Nat) (flit : Flit)
  /-- FLIT_IDLE (R416). An idle flit is received carrying acknowledgements and returns. -/
  | flitIdle (port : Nat) (flit : Flit)
  /-- FLIT_RESYNC (R418). A resync flit restates credit counts and the expected sequence. -/
  | flitResync (port : Nat) (flit : Flit)
  /-- FLIT_RETRY_REQUEST (R417). A retry request makes the sender resend from the named sequence. -/
  | flitRetryRequest (port : Nat) (flit : Flit)
  /-- GROUP_FENCE (R428). A group-fence flit orders delivery across a port group change. -/
  | groupFence (port : Nat) (flit : Flit)
  /-- LINK_DOWN (R417). After 16 retries without progress or loss of lock the link is down and the port leaves its group. -/
  | linkDown (port : Nat)
  /-- PORT_UP (R428). A port comes back up and rejoins its group. -/
  | portUp (port : Nat)
  /-- UNLISTED_OPCODE (R33). An instruction word whose bits [31:21] hold an opcode not in the map raises ILLEGAL before any effect. -/
  | unlistedOpcode (w : Word)
  /-- UNUSED_FIELD_NOT_Z (R17). An instruction word whose unused field holds a code other than 124 (e.g. 0x00000000) raises OPERAND. -/
  | unusedFieldNotZ (w : Word)
  /-- BACK_INVALIDATE_SNOOP_ANSWER (R388). The host answers a back-invalidate snoop from the bridge, returning A data, and the bridge may then acknowledge. -/
  | backInvalidateSnoopAnswer (port line half : Nat) (data : Option (List Byte))
  /-- HOST_PORT_LINK_LOSS (R389). A host port's link is lost; the bridge answers pending requests from its own copy and host-dirty bytes are lost. -/
  | hostPortLinkLoss (port : Nat)
  /-- LOCKSTEP_MISMATCH (R411). A lockstep duplicate of the distributor or a spindle sequencer mismatches and the affected workgroups end with status 3. -/
  | lockstepMismatch (unit : LockUnit)
  /-- END_LAUNCH_BY_SYSTEM_SOFTWARE (R399). System software ends a launch whose gate never opens, completing it with status 9. -/
  | endLaunchBySystemSoftware (launch : Nat)
  /-- CORE_RE_ENABLE (R198). Firmware re-enables a core that was reported absent after an unattributable error. -/
  | coreReEnable (core : Nat)
  /-- NOP (R89). No operation; occupies one pass. -/
  | nop
  /-- YIELD (R94). Scheduling hint that makes the team yielding; no program-visible effect. -/
  | yield
  /-- BRK (R124). Raises BRK for the whole mask. -/
  | brk
  /-- SRET (R126). Leaves handler level, restoring MODE and mask and resuming at FAULTPC. -/
  | sret
  /-- JOIN (R119). Pops the divergence stack and continues at the popped entry. -/
  | join
  /-- RET (R122). Returns the current lanes to the topmost CALL entry. -/
  | ret
  /-- EXIT (R123). Removes the current lanes from the team, ending it when none remain. -/
  | exit
  /-- FENCEA (R150). Holds all later accesses until earlier reads complete. -/
  | fencea
  /-- FENCER (R150). Holds later writes until all earlier accesses complete. -/
  | fencer
  /-- FENCES (R150). Holds all later accesses until all earlier accesses complete. -/
  | fences
  /-- UNBALL (R175). Removes every binding of every lane of the team. -/
  | unball
  /-- RCOMMIT (R276). Hands the region lanes to the commit engine and parks until done. -/
  | rcommit
  /-- RABORT (R276). Aborts the contributing region lanes with code 10. -/
  | rabort
  /-- CLAUSE_START (R24). A clause issues once its WAIT flags are clear, setting its SETA and SETB flags. -/
  | clauseStart
  /-- STORE_PATH_DRAIN (R192). A store-path entry is written to the owned L1 line or the home and leaves the path. -/
  | storePathDrain
  /-- REGION_SWITCH (R346). A queued region switch drains, merges caches, rewrites leaves and releases the region. -/
  | regionSwitch
  /-- COPY_TRANSFER (R209). The streamer writes a copy transfer to its held destination. -/
  | copyTransfer
  /-- BATCH_COMPLETION (R215). A batch completes and its selector action is performed. -/
  | batchCompletion
  /-- TAIL_CHANGE (R394). The distributor's binding on TAIL reports a change and new launches are taken. -/
  | tailChange
  /-- GATE_OPEN (R399). A dependence word changes and the launch's gate opens or fails. -/
  | gateOpen
  /-- ANNOUNCEMENT (R401). The distributor announces a workgroup whose budgets pass. -/
  | announcement
  /-- BID_WINDOW_CLOSE (R323). The bid window closes and the best kept bid is awarded. -/
  | bidWindowClose
  /-- CONFIRM (R323). An awarded core confirms, and the workgroup is admitted. -/
  | confirm
  /-- WITHDRAW (R323). An awarded core withdraws and the next kept bid is awarded or the workgroup re-tendered. -/
  | withdraw
  /-- CONFIRM_TIMEOUT (R323). No answer within 32 cycles counts as withdraw. -/
  | confirmTimeout
  /-- RE_ANNOUNCE (R324). A held announcement that drew no bid is announced again after a resource-release event. -/
  | reAnnounce
  /-- CHILD_LAUNCH_TAKE (R326). The distributor takes a TENDER launch and reads its record. -/
  | childLaunchTake
  /-- GET_VERSION (R405). SPDM GET_VERSION request answered. -/
  | getVersion
  /-- GET_CAPABILITIES (R405). SPDM GET_CAPABILITIES request answered. -/
  | getCapabilities
  /-- NEGOTIATE_ALGORITHMS (R405). SPDM NEGOTIATE_ALGORITHMS request answered. -/
  | negotiateAlgorithms
  /-- GET_DIGESTS (R405). SPDM GET_DIGESTS request answered. -/
  | getDigests
  /-- GET_CERTIFICATE (R405). SPDM GET_CERTIFICATE request answered. -/
  | getCertificate
  /-- CHALLENGE (R405). SPDM CHALLENGE request answered. -/
  | challenge
  /-- GET_MEASUREMENTS (R405). SPDM GET_MEASUREMENTS request answered. -/
  | getMeasurements
  /-- KEY_EXCHANGE (R405). SPDM KEY_EXCHANGE request answered. -/
  | keyExchange
  /-- FINISH (R405). SPDM FINISH request answered. -/
  | finish
  /-- DEVICE_RESET (R412). After reset the controller verifies firmware and brings the device up to READY. -/
  | deviceReset
  /-- PKT_READ_SHARED (R420). A remote read-shared request packet arrives at the home. -/
  | pktReadShared
  /-- PKT_READ_EXCLUSIVE (R420). A remote read-exclusive request packet arrives at the home. -/
  | pktReadExclusive
  /-- PKT_UPGRADE (R420). A remote upgrade request packet arrives at the home. -/
  | pktUpgrade
  /-- PKT_UNCACHED_READ (R420). A remote uncached read packet arrives at the home. -/
  | pktUncachedRead
  /-- PKT_WRITE (R420). A remote write packet arrives at the home. -/
  | pktWrite
  /-- PKT_ATOMIC (R427). A remote atomic packet is performed at the home. -/
  | pktAtomic
  /-- PKT_REDUCTION (R427). A remote reduction packet is performed at the home. -/
  | pktReduction
  /-- PKT_RENEWAL (R425). A remote lease renewal packet arrives at the home. -/
  | pktRenewal
  /-- PKT_CLEAN_EVICTION_NOTICE (R420). A remote clean eviction notice packet arrives at the home. -/
  | pktCleanEvictionNotice
  /-- PKT_WRITEBACK (R420). A remote writeback packet arrives at the home. -/
  | pktWriteback
  /-- PKT_DATA (R420). A data response packet arrives at the requester. -/
  | pktData
  /-- PKT_DATA_ACK_COUNT (R420). A data response with acknowledgement count arrives. -/
  | pktDataAckCount
  /-- PKT_ACKNOWLEDGEMENT (R420). An acknowledgement response packet arrives. -/
  | pktAcknowledgement
  /-- PKT_WRITE_PERFORMED (R420). A write-performed response packet arrives. -/
  | pktWritePerformed
  /-- PKT_ERROR (R420). An error response packet (poison, permission) arrives. -/
  | pktError
  /-- PKT_INVALIDATE (R426). An invalidate packet reaches a peer proxy, which invalidates local copies and answers. -/
  | pktInvalidate
  /-- PKT_FORWARD (R426). A forward packet reaches a peer proxy. -/
  | pktForward
  /-- PKT_RECALL (R426). A recall packet reaches a peer proxy. -/
  | pktRecall
  /-- DETOUR_RELAY (R423). A relay's switch block forwards a detoured packet when buffers allow. -/
  | detourRelay
  /-- INVALIDATION_RESEND (R430). An unanswered invalidation-class packet is re-sent after 100 us. -/
  | invalidationResend
  /-- TRANSACTION_TIMEOUT (R430). A request or response lost for 200 us ends its transaction with fabric transport lost. -/
  | transactionTimeout
  /-- HANK_RESERVE (R434). A reserve packet makes a distributor tender a member with reservation only. -/
  | hankReserve
  /-- HANK_RESERVE_ANSWER (R434). A reserve answer reaches the origin, which commits or releases. -/
  | hankReserveAnswer
  /-- HANK_COMMIT (R434). A commit packet admits the reserved member. -/
  | hankCommit
  /-- HANK_RELEASE (R434). A release packet drops a member's reservation. -/
  | hankRelease
  /-- HANK_ATTACH (R439). An attach packet is counted at the member's device. -/
  | hankAttach
  /-- HANK_DETACH (R440). A detach packet is counted at the member's device. -/
  | hankDetach
  /-- DEPARTURE_NOTICE (R444). A departure notice marks a hank member departed. -/
  | departureNotice
  /-- WINDOW_READ (R437). A hank window read packet is performed at the member's store. -/
  | windowRead
  /-- WINDOW_WRITE (R437). A hank window write packet is performed at the member's store. -/
  | windowWrite
  /-- WINDOW_ATOMIC (R437). A hank window atomic or reduction packet is performed at the member's store. -/
  | windowAtomic
  /-- WINDOW_ANSWER (R437). A window answer packet completes the issuer's window access. -/
  | windowAnswer
  /-- PREEMPT_HANK (R443). A pre-empt packet saves a hank member. -/
  | preemptHank
  /-- WINDOW_BARRIER (R437). A hank window barrier operation packet is performed at the member's store. -/
  | windowBarrier
  /-- HANK_RESERVE_TIMEOUT (R434). A reserve unanswered for 64 us makes the origin release the attempt. -/
  | hankReserveTimeout
  /-- HANK_RETRY (R434). A failed hank placement is retried at a resource-release event or after 100 us. -/
  | hankRetry
  /-- DRAIN_HOLD (R435). After 1 ms pending a target core is put in drain hold. -/
  | drainHold
  /-- DRAIN_PREEMPT (R435). After 10 ms lower-priority workgroups on the target core are pre-empted. -/
  | drainPreempt
  /-- HANK_ABANDON (R435). After 50 ms the hank is abandoned and the launch completes with status 5. -/
  | hankAbandon
deriving DecidableEq, Repr

end Sys2Proof
end

