-- ==== Sys2Proof/Decode.lean ====
section
/-! DEFINITION. Decoding and encoding of instruction words (01_words R9, R10, R17, R33): a row for each opcode gives
the fields the instruction uses; an unused field holds 124. A word whose opcode is in no row decodes to the table's
UNLISTED_OPCODE step, and one whose unused field holds another code to UNUSED_FIELD_NOT_Z. -/

namespace Sys2Proof

/-- The code that an unused field must hold (R17). -/
def zCode : Code := 124

/-- Bits [31:21] of a word (R10). -/
def opcodeOf (w : Word) : Nat := (w >>> 21).toNat

/-- Bits [20:14] of a word (R10). -/
def dOf (w : Word) : Code := w.extractLsb' 14 7

/-- Bits [13:7] of a word (R10). -/
def aOf (w : Word) : Code := w.extractLsb' 7 7

/-- Bits [6:0] of a word (R10). -/
def bOf (w : Word) : Code := w.extractLsb' 0 7

/-- Bits [20:0] of a format M word (R10). -/
def valueOf (w : Word) : ModeVal := w.extractLsb' 0 21

/-- Which fields an entry uses, and the instruction they make. -/
inductive Form where
  | none (i : Instr)
  | m (f : ModeVal → Instr)
  | d (f : Code → Instr)
  | a (f : Code → Instr)
  | b (f : Code → Instr)
  | da (f : Code → Code → Instr)
  | db (f : Code → Code → Instr)
  | ab (f : Code → Code → Instr)
  | dab (f : Code → Code → Code → Instr)

/-- The instruction a form reads from a word; a field the form leaves unused must hold 124 (R17). -/
def Form.read (w : Word) : Form → Instr
  | .none i => if dOf w = zCode ∧ aOf w = zCode ∧ bOf w = zCode then i else .unusedFieldNotZ w
  | .m f => f (valueOf w)
  | .d f => if aOf w = zCode ∧ bOf w = zCode then f (dOf w) else .unusedFieldNotZ w
  | .a f => if dOf w = zCode ∧ bOf w = zCode then f (aOf w) else .unusedFieldNotZ w
  | .b f => if dOf w = zCode ∧ aOf w = zCode then f (bOf w) else .unusedFieldNotZ w
  | .da f => if bOf w = zCode then f (dOf w) (aOf w) else .unusedFieldNotZ w
  | .db f => if aOf w = zCode then f (dOf w) (bOf w) else .unusedFieldNotZ w
  | .ab f => if dOf w = zCode then f (aOf w) (bOf w) else .unusedFieldNotZ w
  | .dab f => f (dOf w) (aOf w) (bOf w)

/-- The system rows of the opcode map (R33). -/
def rowsSystem : List (Nat × Form) :=
  [(0x000, .none .nop), (0x001, .m .mode), (0x002, .m .mguard), (0x003, .dab .getc), (0x004, .ab .setc),
   (0x005, .none .yield), (0x006, .b .trap), (0x007, .none .brk), (0x008, .none .sret),
   (0x009, .dab .hcall), (0x00A, .ab .tlbinv)]

/-- The arith rows of the opcode map (R33). -/
def rowsArith : List (Nat × Form) :=
  [(0x010, .dab .add), (0x011, .dab .sub), (0x012, .dab .mul), (0x013, .dab .mulh), (0x014, .dab .mac),
   (0x015, .dab .div), (0x016, .dab .rem), (0x017, .dab .min), (0x018, .dab .max), (0x019, .da .abs),
   (0x01A, .da .neg), (0x01B, .dab .and), (0x01C, .dab .or), (0x01D, .dab .xor), (0x01E, .dab .shl),
   (0x01F, .dab .shr), (0x020, .dab .sra), (0x021, .da .clz), (0x022, .da .popc), (0x023, .dab .bfx),
   (0x024, .dab .bfi), (0x025, .dab .sel), (0x026, .da .mov), (0x027, .dab .cvt), (0x028, .da .rndi),
   (0x029, .da .rcp), (0x02A, .da .rsq), (0x02B, .da .sqrt), (0x02C, .da .exp2), (0x02D, .da .log2),
   (0x02E, .da .sinp), (0x02F, .da .cosp)]

/-- The compare rows of the opcode map (R33). -/
def rowsCompare : List (Nat × Form) :=
  [(0x040, .dab .cmpeq), (0x041, .dab .cmpne), (0x042, .dab .cmplt), (0x043, .dab .cmple),
   (0x044, .dab .cmpun), (0x048, .dab .pand), (0x049, .dab .por), (0x04A, .dab .pxor), (0x04B, .da .pnot),
   (0x04C, .da .vany), (0x04D, .da .vall), (0x04E, .dab .ballot)]

/-- The packed rows of the opcode map (R33). -/
def rowsPacked : List (Nat × Form) :=
  [(0x050, .dab .unpkQn4), (0x051, .dab .unpkF4), (0x052, .dab .unpkE4m3), (0x053, .dab .unpkE5m2),
   (0x054, .dab .unpkI8), (0x055, .dab .unpkBf), (0x056, .dab .unpkH), (0x058, .dab .packQn4),
   (0x059, .dab .packF4), (0x05A, .dab .packE4m3), (0x05B, .dab .packE5m2), (0x05C, .dab .packI8),
   (0x05D, .dab .packBf), (0x05E, .dab .packH)]

/-- The lanes rows of the opcode map (R33). -/
def rowsLanes : List (Nat × Form) :=
  [(0x060, .dab .xln), (0x061, .dab .xlnx), (0x062, .dab .rdlane), (0x063, .da .tsum), (0x064, .da .tmin),
   (0x065, .da .tmax), (0x066, .da .tscan)]

/-- The flow rows of the opcode map (R33). -/
def rowsFlow : List (Nat × Form) :=
  [(0x080, .b .br), (0x081, .db .brc), (0x082, .db .brany), (0x083, .db .brall), (0x084, .db .loop),
   (0x085, .b .mark), (0x086, .none .join), (0x087, .b .call), (0x088, .a .calli), (0x089, .none .ret),
   (0x08A, .none .exit)]

/-- The memory rows of the opcode map (R33). -/
def rowsMemory : List (Nat × Form) :=
  [(0x100, .dab .ldb), (0x101, .dab .ldh), (0x102, .dab .ldw), (0x103, .dab .ldd), (0x104, .dab .ldq),
   (0x108, .dab .stb), (0x109, .dab .sth), (0x10A, .dab .stw), (0x10B, .dab .std), (0x10C, .dab .stq),
   (0x110, .dab .ldwa), (0x111, .dab .ldda), (0x112, .dab .stwl), (0x113, .dab .stdl), (0x114, .dab .lds),
   (0x115, .dab .ldsd), (0x118, .dab .pft), (0x119, .ab .cflush), (0x11A, .ab .cclean),
   (0x11B, .ab .cinv), (0x11C, .none .fencea), (0x11D, .none .fencer), (0x11E, .none .fences)]

/-- The atomic rows of the opcode map (R33). -/
def rowsAtomic : List (Nat × Form) :=
  [(0x120, .dab .atadd), (0x121, .dab .atand), (0x122, .dab .ator), (0x123, .dab .atxor),
   (0x124, .dab .atmin), (0x125, .dab .atmax), (0x126, .dab .atxch), (0x127, .dab .atcas),
   (0x128, .ab .rmadd), (0x129, .ab .rmand), (0x12A, .ab .rmor), (0x12B, .ab .rmxor), (0x12C, .ab .rmmin),
   (0x12D, .ab .rmmax)]

/-- The bind rows of the opcode map (R33). -/
def rowsBind : List (Nat × Form) :=
  [(0x140, .dab .bld), (0x141, .dab .bldn), (0x142, .dab .bldd), (0x143, .d .unbind),
   (0x144, .none .unball), (0x145, .dab .bwait), (0x146, .da .bchg), (0x147, .dab .badd),
   (0x148, .dab .bcas), (0x149, .dab .bxch)]

/-- The region rows of the opcode map (R33). -/
def rowsRegion : List (Nat × Form) :=
  [(0x150, .a .rbegin), (0x151, .none .rcommit), (0x152, .none .rabort), (0x153, .dab .rldw),
   (0x154, .dab .rldd)]

/-- The engine rows of the opcode map (R33). -/
def rowsEngine : List (Nat × Form) :=
  [(0x200, .dab .fork), (0x201, .da .rdv), (0x202, .a .ekill), (0x208, .ab .cpy4), (0x209, .ab .cpy8),
   (0x20A, .ab .cpy16), (0x20C, .ab .cra4), (0x20D, .ab .cra8), (0x20E, .ab .cra16), (0x210, .dab .close),
   (0x211, .a .waitb), (0x214, .ab .semset), (0x215, .ab .seminc), (0x216, .ab .semacq),
   (0x217, .dab .semtry)]

/-- The matrix rows of the opcode map (R33). -/
def rowsMatrix : List (Nat × Form) :=
  [(0x240, .da .obres), (0x241, .a .obfree), (0x242, .d .mzero), (0x243, .dab .mma), (0x244, .dab .mmap),
   (0x245, .dab .ldacc), (0x246, .dab .stacc), (0x247, .ab .mtrq)]

/-- The sync rows of the opcode map (R33). -/
def rowsSync : List (Nat × Form) :=
  [(0x260, .ab .barinit), (0x261, .dab .arrive), (0x262, .dab .await), (0x263, .dab .arrwait),
   (0x264, .a .barinv), (0x265, .db .park), (0x266, .a .wake)]

/-- The cluster rows of the opcode map (R33). -/
def rowsCluster : List (Nat × Form) :=
  [(0x300, .dab .xch), (0x301, .dab .tender), (0x302, .ab .tclass)]

/-- The coherence rows of the opcode map (R33). -/
def rowsCoherence : List (Nat × Form) :=
  [(0x340, .dab .crsw), (0x341, .da .crwait), (0x348, .ab .handoff), (0x349, .ab .take)]

/-- The hank rows of the opcode map (R33). -/
def rowsHank : List (Nat × Form) :=
  [(0x380, .da .hattach), (0x381, .a .hdetach), (0x382, .da .hquery)]

/-- The opcode map (R33), 179 forms in all. -/
def opcodeMap : List (Nat × Form) :=
  rowsSystem ++ rowsArith ++ rowsCompare ++ rowsPacked ++ rowsLanes ++ rowsFlow ++ rowsMemory ++ rowsAtomic ++
  rowsBind ++ rowsRegion ++ rowsEngine ++ rowsMatrix ++ rowsSync ++ rowsCluster ++ rowsCoherence ++ rowsHank

/-- The form that an opcode has, if the map lists it. -/
def formOf (op : Nat) : Option Form := opcodeMap.lookup op

/-- The instruction of a word (R10, R17, R33). -/
def decodeWord (w : Word) : Instr :=
  match formOf (opcodeOf w) with
  | some f => f.read w
  | none => .unlistedOpcode w

/-- Why bytes are no instruction word. -/
inductive DecodeError where
  | truncated   -- fewer than the four bytes of a word
deriving DecidableEq, Repr

/-- Four bytes make a word, the first being bits [7:0] (R9). -/
def wordOfBytes (b0 b1 b2 b3 : Byte) : Word := b3 ++ b2 ++ b1 ++ b0

/-- Decoding of bytes in memory order: the instruction and the bytes that follow its word. -/
def decode : List Byte → Except DecodeError (Instr × List Byte)
  | b0 :: b1 :: b2 :: b3 :: rest => .ok (decodeWord (wordOfBytes b0 b1 b2 b3), rest)
  | _ => .error .truncated

/-- A register-format word (R10). -/
def mkWord (op : Nat) (d a b : Code) : Word := BitVec.ofNat 11 op ++ d ++ a ++ b

/-- A format M word (R10). -/
def mkModeWord (op : Nat) (v : ModeVal) : Word := BitVec.ofNat 11 op ++ v

/-- The word of an instruction (R10, R33); the steps that no word encodes have none. -/
def encode : Instr → Option Word
  | .nop => some (mkWord 0x000 zCode zCode zCode)
  | .mode v => some (mkModeWord 0x001 v)
  | .mguard v => some (mkModeWord 0x002 v)
  | .getc d a b => some (mkWord 0x003 d a b)
  | .setc a b => some (mkWord 0x004 zCode a b)
  | .yield => some (mkWord 0x005 zCode zCode zCode)
  | .trap b => some (mkWord 0x006 zCode zCode b)
  | .brk => some (mkWord 0x007 zCode zCode zCode)
  | .sret => some (mkWord 0x008 zCode zCode zCode)
  | .hcall d a b => some (mkWord 0x009 d a b)
  | .tlbinv a b => some (mkWord 0x00A zCode a b)
  | .add d a b => some (mkWord 0x010 d a b)
  | .sub d a b => some (mkWord 0x011 d a b)
  | .mul d a b => some (mkWord 0x012 d a b)
  | .mulh d a b => some (mkWord 0x013 d a b)
  | .mac d a b => some (mkWord 0x014 d a b)
  | .div d a b => some (mkWord 0x015 d a b)
  | .rem d a b => some (mkWord 0x016 d a b)
  | .min d a b => some (mkWord 0x017 d a b)
  | .max d a b => some (mkWord 0x018 d a b)
  | .abs d a => some (mkWord 0x019 d a zCode)
  | .neg d a => some (mkWord 0x01A d a zCode)
  | .and d a b => some (mkWord 0x01B d a b)
  | .or d a b => some (mkWord 0x01C d a b)
  | .xor d a b => some (mkWord 0x01D d a b)
  | .shl d a b => some (mkWord 0x01E d a b)
  | .shr d a b => some (mkWord 0x01F d a b)
  | .sra d a b => some (mkWord 0x020 d a b)
  | .clz d a => some (mkWord 0x021 d a zCode)
  | .popc d a => some (mkWord 0x022 d a zCode)
  | .bfx d a b => some (mkWord 0x023 d a b)
  | .bfi d a b => some (mkWord 0x024 d a b)
  | .sel d a b => some (mkWord 0x025 d a b)
  | .mov d a => some (mkWord 0x026 d a zCode)
  | .cvt d a b => some (mkWord 0x027 d a b)
  | .rndi d a => some (mkWord 0x028 d a zCode)
  | .rcp d a => some (mkWord 0x029 d a zCode)
  | .rsq d a => some (mkWord 0x02A d a zCode)
  | .sqrt d a => some (mkWord 0x02B d a zCode)
  | .exp2 d a => some (mkWord 0x02C d a zCode)
  | .log2 d a => some (mkWord 0x02D d a zCode)
  | .sinp d a => some (mkWord 0x02E d a zCode)
  | .cosp d a => some (mkWord 0x02F d a zCode)
  | .cmpeq d a b => some (mkWord 0x040 d a b)
  | .cmpne d a b => some (mkWord 0x041 d a b)
  | .cmplt d a b => some (mkWord 0x042 d a b)
  | .cmple d a b => some (mkWord 0x043 d a b)
  | .cmpun d a b => some (mkWord 0x044 d a b)
  | .pand d a b => some (mkWord 0x048 d a b)
  | .por d a b => some (mkWord 0x049 d a b)
  | .pxor d a b => some (mkWord 0x04A d a b)
  | .pnot d a => some (mkWord 0x04B d a zCode)
  | .vany d a => some (mkWord 0x04C d a zCode)
  | .vall d a => some (mkWord 0x04D d a zCode)
  | .ballot d a b => some (mkWord 0x04E d a b)
  | .unpkQn4 d a b => some (mkWord 0x050 d a b)
  | .unpkF4 d a b => some (mkWord 0x051 d a b)
  | .unpkE4m3 d a b => some (mkWord 0x052 d a b)
  | .unpkE5m2 d a b => some (mkWord 0x053 d a b)
  | .unpkI8 d a b => some (mkWord 0x054 d a b)
  | .unpkBf d a b => some (mkWord 0x055 d a b)
  | .unpkH d a b => some (mkWord 0x056 d a b)
  | .packQn4 d a b => some (mkWord 0x058 d a b)
  | .packF4 d a b => some (mkWord 0x059 d a b)
  | .packE4m3 d a b => some (mkWord 0x05A d a b)
  | .packE5m2 d a b => some (mkWord 0x05B d a b)
  | .packI8 d a b => some (mkWord 0x05C d a b)
  | .packBf d a b => some (mkWord 0x05D d a b)
  | .packH d a b => some (mkWord 0x05E d a b)
  | .xln d a b => some (mkWord 0x060 d a b)
  | .xlnx d a b => some (mkWord 0x061 d a b)
  | .rdlane d a b => some (mkWord 0x062 d a b)
  | .tsum d a => some (mkWord 0x063 d a zCode)
  | .tmin d a => some (mkWord 0x064 d a zCode)
  | .tmax d a => some (mkWord 0x065 d a zCode)
  | .tscan d a => some (mkWord 0x066 d a zCode)
  | .br b => some (mkWord 0x080 zCode zCode b)
  | .brc d b => some (mkWord 0x081 d zCode b)
  | .brany d b => some (mkWord 0x082 d zCode b)
  | .brall d b => some (mkWord 0x083 d zCode b)
  | .loop d b => some (mkWord 0x084 d zCode b)
  | .mark b => some (mkWord 0x085 zCode zCode b)
  | .join => some (mkWord 0x086 zCode zCode zCode)
  | .call b => some (mkWord 0x087 zCode zCode b)
  | .calli a => some (mkWord 0x088 zCode a zCode)
  | .ret => some (mkWord 0x089 zCode zCode zCode)
  | .exit => some (mkWord 0x08A zCode zCode zCode)
  | .ldb d a b => some (mkWord 0x100 d a b)
  | .ldh d a b => some (mkWord 0x101 d a b)
  | .ldw d a b => some (mkWord 0x102 d a b)
  | .ldd d a b => some (mkWord 0x103 d a b)
  | .ldq d a b => some (mkWord 0x104 d a b)
  | .stb d a b => some (mkWord 0x108 d a b)
  | .sth d a b => some (mkWord 0x109 d a b)
  | .stw d a b => some (mkWord 0x10A d a b)
  | .std d a b => some (mkWord 0x10B d a b)
  | .stq d a b => some (mkWord 0x10C d a b)
  | .ldwa d a b => some (mkWord 0x110 d a b)
  | .ldda d a b => some (mkWord 0x111 d a b)
  | .stwl d a b => some (mkWord 0x112 d a b)
  | .stdl d a b => some (mkWord 0x113 d a b)
  | .lds d a b => some (mkWord 0x114 d a b)
  | .ldsd d a b => some (mkWord 0x115 d a b)
  | .pft d a b => some (mkWord 0x118 d a b)
  | .cflush a b => some (mkWord 0x119 zCode a b)
  | .cclean a b => some (mkWord 0x11A zCode a b)
  | .cinv a b => some (mkWord 0x11B zCode a b)
  | .fencea => some (mkWord 0x11C zCode zCode zCode)
  | .fencer => some (mkWord 0x11D zCode zCode zCode)
  | .fences => some (mkWord 0x11E zCode zCode zCode)
  | .atadd d a b => some (mkWord 0x120 d a b)
  | .atand d a b => some (mkWord 0x121 d a b)
  | .ator d a b => some (mkWord 0x122 d a b)
  | .atxor d a b => some (mkWord 0x123 d a b)
  | .atmin d a b => some (mkWord 0x124 d a b)
  | .atmax d a b => some (mkWord 0x125 d a b)
  | .atxch d a b => some (mkWord 0x126 d a b)
  | .atcas d a b => some (mkWord 0x127 d a b)
  | .rmadd a b => some (mkWord 0x128 zCode a b)
  | .rmand a b => some (mkWord 0x129 zCode a b)
  | .rmor a b => some (mkWord 0x12A zCode a b)
  | .rmxor a b => some (mkWord 0x12B zCode a b)
  | .rmmin a b => some (mkWord 0x12C zCode a b)
  | .rmmax a b => some (mkWord 0x12D zCode a b)
  | .bld d a b => some (mkWord 0x140 d a b)
  | .bldn d a b => some (mkWord 0x141 d a b)
  | .bldd d a b => some (mkWord 0x142 d a b)
  | .unbind d => some (mkWord 0x143 d zCode zCode)
  | .unball => some (mkWord 0x144 zCode zCode zCode)
  | .bwait d a b => some (mkWord 0x145 d a b)
  | .bchg d a => some (mkWord 0x146 d a zCode)
  | .badd d a b => some (mkWord 0x147 d a b)
  | .bcas d a b => some (mkWord 0x148 d a b)
  | .bxch d a b => some (mkWord 0x149 d a b)
  | .rbegin a => some (mkWord 0x150 zCode a zCode)
  | .rcommit => some (mkWord 0x151 zCode zCode zCode)
  | .rabort => some (mkWord 0x152 zCode zCode zCode)
  | .rldw d a b => some (mkWord 0x153 d a b)
  | .rldd d a b => some (mkWord 0x154 d a b)
  | .fork d a b => some (mkWord 0x200 d a b)
  | .rdv d a => some (mkWord 0x201 d a zCode)
  | .ekill a => some (mkWord 0x202 zCode a zCode)
  | .cpy4 a b => some (mkWord 0x208 zCode a b)
  | .cpy8 a b => some (mkWord 0x209 zCode a b)
  | .cpy16 a b => some (mkWord 0x20A zCode a b)
  | .cra4 a b => some (mkWord 0x20C zCode a b)
  | .cra8 a b => some (mkWord 0x20D zCode a b)
  | .cra16 a b => some (mkWord 0x20E zCode a b)
  | .close d a b => some (mkWord 0x210 d a b)
  | .waitb a => some (mkWord 0x211 zCode a zCode)
  | .semset a b => some (mkWord 0x214 zCode a b)
  | .seminc a b => some (mkWord 0x215 zCode a b)
  | .semacq a b => some (mkWord 0x216 zCode a b)
  | .semtry d a b => some (mkWord 0x217 d a b)
  | .obres d a => some (mkWord 0x240 d a zCode)
  | .obfree a => some (mkWord 0x241 zCode a zCode)
  | .mzero d => some (mkWord 0x242 d zCode zCode)
  | .mma d a b => some (mkWord 0x243 d a b)
  | .mmap d a b => some (mkWord 0x244 d a b)
  | .ldacc d a b => some (mkWord 0x245 d a b)
  | .stacc d a b => some (mkWord 0x246 d a b)
  | .mtrq a b => some (mkWord 0x247 zCode a b)
  | .barinit a b => some (mkWord 0x260 zCode a b)
  | .arrive d a b => some (mkWord 0x261 d a b)
  | .await d a b => some (mkWord 0x262 d a b)
  | .arrwait d a b => some (mkWord 0x263 d a b)
  | .barinv a => some (mkWord 0x264 zCode a zCode)
  | .park d b => some (mkWord 0x265 d zCode b)
  | .wake a => some (mkWord 0x266 zCode a zCode)
  | .xch d a b => some (mkWord 0x300 d a b)
  | .tender d a b => some (mkWord 0x301 d a b)
  | .tclass a b => some (mkWord 0x302 zCode a b)
  | .crsw d a b => some (mkWord 0x340 d a b)
  | .crwait d a => some (mkWord 0x341 d a zCode)
  | .handoff a b => some (mkWord 0x348 zCode a b)
  | .take a b => some (mkWord 0x349 zCode a b)
  | .hattach d a => some (mkWord 0x380 d a zCode)
  | .hdetach a => some (mkWord 0x381 zCode a zCode)
  | .hquery d a => some (mkWord 0x382 d a zCode)
  | .clauseStart => none
  | .loadDataReturn _ _ => none
  | .storePathDrain => none
  | .refreshSteal _ _ => none
  | .machineError _ => none
  | .gets _ _ => none
  | .getm _ _ => none
  | .upgrade _ _ => none
  | .geth _ _ => none
  | .cleanEvictionNotice _ _ => none
  | .writeback _ _ => none
  | .watch _ _ => none
  | .renewal _ _ => none
  | .invalidation _ _ => none
  | .forward _ _ => none
  | .recall _ _ => none
  | .acknowledgement _ _ => none
  | .changeNotice _ _ => none
  | .leaseExpiry _ _ => none
  | .renewalDue _ _ => none
  | .leaseSweep _ => none
  | .directoryEntryUncorrectable _ => none
  | .rebalanceEpoch _ => none
  | .carveEpoch _ _ => none
  | .regionSwitch => none
  | .copyTransfer => none
  | .batchCompletion => none
  | .patrolScrub _ _ => none
  | .laneCommit _ _ => none
  | .regionTimeout _ _ => none
  | .bwaitTimeout _ => none
  | .parkTimeout _ => none
  | .xchtmo _ => none
  | .pairtmo _ => none
  | .spindleProgramStart _ _ => none
  | .spindleProgramEnd _ _ => none
  | .engineOperationStart _ => none
  | .mmaStrip _ => none
  | .mmapStart _ => none
  | .pageResponse _ _ => none
  | .atsInvalidation _ _ _ => none
  | .placementResponse _ _ _ => none
  | .hcallReply _ _ => none
  | .tailChange => none
  | .gateOpen => none
  | .announcement => none
  | .bid _ _ => none
  | .bidWindowClose => none
  | .confirm => none
  | .withdraw => none
  | .confirmTimeout => none
  | .reAnnounce => none
  | .childLaunchTake => none
  | .serviceEndWorkgroup _ => none
  | .preemption _ => none
  | .restore _ _ => none
  | .clockThrottle _ _ => none
  | .thermalShutdown _ => none
  | .kickRelease _ => none
  | .kickAcquire _ => none
  | .takeResume _ => none
  | .hostReadShared _ _ _ => none
  | .hostReadOwnership _ _ _ => none
  | .hostWriteback _ _ _ _ _ => none
  | .hostDropClean _ _ _ => none
  | .snoopTimeout _ => none
  | .hostUncachedAccess _ _ _ _ => none
  | .contextDescriptorWrite _ _ _ _ => none
  | .bucketTableWrite _ _ _ => none
  | .coherentWindowWrite _ _ _ _ => none
  | .configWrite _ _ _ => none
  | .directoryDiagnosticRead _ => none
  | .heaterStep _ => none
  | .heaterCodeWrite _ _ => none
  | .ringOutOfLock _ _ => none
  | .getVersion => none
  | .getCapabilities => none
  | .negotiateAlgorithms => none
  | .getDigests => none
  | .getCertificate => none
  | .challenge => none
  | .getMeasurements => none
  | .keyExchange => none
  | .finish => none
  | .lockInterface _ => none
  | .run _ => none
  | .deviceReset => none
  | .flitData _ _ => none
  | .flitIdle _ _ => none
  | .flitResync _ _ => none
  | .flitRetryRequest _ _ => none
  | .groupFence _ _ => none
  | .linkDown _ => none
  | .portUp _ => none
  | .pktReadShared => none
  | .pktReadExclusive => none
  | .pktUpgrade => none
  | .pktUncachedRead => none
  | .pktWrite => none
  | .pktAtomic => none
  | .pktReduction => none
  | .pktRenewal => none
  | .pktCleanEvictionNotice => none
  | .pktWriteback => none
  | .pktData => none
  | .pktDataAckCount => none
  | .pktAcknowledgement => none
  | .pktWritePerformed => none
  | .pktError => none
  | .pktInvalidate => none
  | .pktForward => none
  | .pktRecall => none
  | .detourRelay => none
  | .invalidationResend => none
  | .transactionTimeout => none
  | .hankReserve => none
  | .hankReserveAnswer => none
  | .hankCommit => none
  | .hankRelease => none
  | .hankAttach => none
  | .hankDetach => none
  | .departureNotice => none
  | .windowRead => none
  | .windowWrite => none
  | .windowAtomic => none
  | .windowAnswer => none
  | .preemptHank => none
  | .windowBarrier => none
  | .hankReserveTimeout => none
  | .hankRetry => none
  | .drainHold => none
  | .drainPreempt => none
  | .hankAbandon => none
  | .unlistedOpcode w => some w
  | .unusedFieldNotZ w => some w
  | .backInvalidateSnoopAnswer _ _ _ _ => none
  | .hostPortLinkLoss _ => none
  | .lockstepMismatch _ => none
  | .endLaunchBySystemSoftware _ => none
  | .coreReEnable _ => none

/-- The bytes of a word in memory order (R9). -/
def bytesOfWord (w : Word) : List Byte :=
  [w.extractLsb' 0 8, w.extractLsb' 8 8, w.extractLsb' 16 8, w.extractLsb' 24 8]

/-- The instruction that this decoder reads from a table row's word: words of the table are 32 bits, stored
little-endian (R9). -/
def decodeTableWord (nbits w : Nat) : Option Instr :=
  if nbits ≤ 32 then
    match decode (bytesOfWord (BitVec.ofNat 32 w)) with
    | .ok (i, _) => some i
    | .error _ => none
  else none

end Sys2Proof
end

