-- ==== Sys2Proof/Config.lean ====
section
/-! DEFINITION. What the architecture fixes as figures (R7) and the free values: what the spec leaves open is an opaque
constant here, applied to a counter of the state or to the operands it depends on, so that no proof can see it. -/

namespace Sys2Proof.Config

/-- Cores of the device (R7). -/
def cores : Nat := 192

/-- Store-path entries of a core (R192). -/
def storePath : Nat := 64

/-- Wait entries of a core (R260). -/
def waitEntries : Nat := 64

/-- Bobbins of a core (R7, R170). -/
def bobbins : Nat := 16384

/-- Divergence-stack entries in all (R75). -/
def stackDepth : Nat := 4096

/-- Cycles after which PARK's partners, XCH, MMAP pairs and regions time out (R246, R269, R320). -/
def longTimeout : Nat := 65536

/-! ## Free values -/

/-- Whether the read with number `n` of short-lived register key `k` finds 0, between 4,096 and 4,352 cycles after the
write (R190, log entry 5). -/
opaque expires : Nat → Nat → Bool

/-- The choice made where hardware picks one of several: an index, taken modulo how many there are (log entry 8). -/
opaque pick : Nat → Nat

/-- Which faithful neighbour a transcendental function returns: function, format, input bits (R97, log entry 9). -/
opaque faithfulAway : Nat → Nat → Nat → Bool

/-- Reference-clock ticks that pass during a step (R197, log entry 4). -/
opaque ticksElapsed : Nat → Nat

/-- Cycles that pass during a step beside the one that it takes (R184, R197, log entry 4). -/
opaque stall : Nat → Nat

/-- Whether a team's last instruction still occupies its slot, or a short-latency result that it needs is still to come
(R184, log entry 4). -/
opaque busy : Nat → Nat → Bool

/-- Whether an access that may use the old or the new table entry uses the old one (R360, log entry 5). -/
opaque oldTranslation : Nat → Bool

/-- A byte that the spec leaves open (R209, R383, log entry 5). -/
opaque freeByte : Nat → Byte

/-- Whether a byte that a side writes in a handover region that it does not hold is overwritten by the holder's write-back
(R383, log entry 5). -/
opaque overwritten : Nat → Nat → Bool

/-- A 32-bit word that the spec leaves open (log entry 5). -/
opaque freeWord : Nat → Word

/-- The SECDED check bits of a packet header, whose code the spec does not give (R419, log entry 14). -/
opaque checkBits : BitVec 120 → Byte

/-- The check bits of a directory entry as the diagnostic port reads it, whose code the spec does not give (R337, log
entry 14). -/
opaque entryEcc : BitVec 72 → Byte

/-- The ASSIST bits that firmware policy lets system software set (R407, log entry 13). -/
opaque assistAllowed : Byte

/-- How many devices firmware finds in the fabric, and this one's number, before bounds (R414, log entry 14). -/
opaque fabricSize : Nat

/-- This device's number in the fabric, before bounds (R414, log entry 14). -/
opaque fabricNumber : Nat

/-- The choice of the far end of a port's cable; from 36 on, that of a spare (R414, log entry 14). -/
opaque cabling : Nat → Nat

/-- Whether a device that could relay has a working port to a peer (R422, log entry 14). -/
opaque relayReaches : Nat → Nat → Nat → Bool

/-- Whether a write made on another device has reached a binding to a window there (R437, log entry 15). -/
opaque remoteChange : Nat → Nat → Bool

/-- Correctable errors that a row's scrub finds (R189, log entry 5). -/
opaque corrected : Nat → Nat

/-- Lines that a context moves to or from HBM or the second tier during a step (R402, log entry 4). -/
opaque linesMoved : Nat → Nat → Nat

/-- What the boot ROM measures as (R405, log entry 16). -/
opaque romDigest : Nat

/-- The answer to GET_MEASUREMENTS, whose form the spec leaves to its standard: of all that has been measured (R405, log entry 16). -/
opaque measurementAnswer : List (Nat × List Nat) → Word

/-- Whether a die's junction exceeds 105 °C (R410, log entry 4). -/
opaque overheated : Nat → Nat → Bool

/-- A context's activity estimate in watts (R402, log entry 4). -/
opaque activity : Nat → Nat → Nat

/-- The set of an L2 bank that a line falls in, before bounds (R328, log entry 64). -/
opaque l2Set : Nat → Nat

end Sys2Proof.Config
end

