-- ==== Sys2Proof/Machine/State.lean ====
section
/-! DEFINITION. The state of the device (00_scope … 25_hanks), as plain data: teams, workgroups, cores, coherence,
contexts and launches, hosts, service, fabric. INVENTORY.md lists each piece with the rule that names it. -/

namespace Sys2Proof.Machine

/-! ## Reasons to stop -/

/-- Why a run ends in a fault of the model. -/
inductive Fault where
  /-- An instruction was to execute and no team or spindle program is there to issue it; raised by every meaning of an
  instruction word. Safe: the device issues only for a resident team or a running program (R184, R199). -/
  | noIssuer
deriving DecidableEq, Repr

/-- Why a meaning is refused. -/
inductive Refusal where
  /-- An instruction that has no meaning yet, by its mnemonic; raised by `exec` only. Safe. -/
  | notModelled (mnemonic : String)
deriving DecidableEq, Repr

/-! ## Traps -/

/-- A trap as FAULTINFO records it (R36, R365): code, sub-code, argument. -/
structure Trap where
  code : Nat
  sub : Nat
  arg : BitVec 24
deriving DecidableEq, Repr

/-! ## Memory accesses -/

/-- How a location behaves: the region mode of its page (R138), a store of the device reached through the local
aperture (R131), or memory homed on a peer device (R357, R424). -/
inductive Space where
  | hardware | software | memSide | handover   -- region modes 0–3 of R357
  | store                                      -- lane slice, core scratchpad, cluster memory
  | chip                                       -- chip scratchpad: coherent lines of fixed place (R333)
  | opBuf                                      -- operand buffer (R195)
  | peer (dev : Nat) (memSide : Bool)          -- homed on device `dev`
  | member (m : Nat)                           -- hank member on another device (R437)
deriving DecidableEq, Repr

/-- The operation of an atomic or of a reduction at memory (R152). -/
inductive AtOp where
  | add | and | or | xor | min | max | xch | cas
deriving DecidableEq, Repr

/-- How loaded bytes fill a 32-bit register (R143). -/
inductive Ext where
  | none | zero | sign
deriving DecidableEq, Repr

/-- Where one 32-bit word of a result goes. -/
inductive Dest where
  | vec (lane reg : Nat)
  | scal (n : Nat)
  | none
deriving DecidableEq, Repr

/-- What an outstanding long-latency operation with a register result does when it is performed (R25). -/
inductive LoadKind where
  | plain
  | atomic (op : AtOp) (type : Nat) (operand other : DWord)
  /-- An atomic through a binding (R178): the bound register takes the memory value, `old` the old value. -/
  | bound (op : AtOp) (type : Nat) (operand other : DWord) (old : List Dest)
  | bind (notify size8 : Bool) (va : Nat) (spilled : Bool)
  /-- A region input (R277), already captured, or a bind load that binds no more (R163). -/
  | token
  /-- GETC of SPROG or MPROG (R92), read when the access reaches the engine. -/
  | sprog
  | mprog
  /-- ARRIVE (R257, R259): an arrival of a member, performed when what precedes it is; the value is its token. -/
  | arrive (m : Nat)
  /-- LDACC (R248): the value arrives from the engine queue. -/
  | acc (tile elem : Nat)
deriving DecidableEq, Repr

/-- One lane's outstanding access with a register result: the words still to be delivered, and the value once it is
fixed. `flag` 15 stands for no tracking flag (R24–R27); `chk` is MIXCHK.EN at its issue (R371). -/
structure Load where
  team : Nat
  seq : Nat
  lane : Nat
  kind : LoadKind
  space : Space
  loc : Nat
  size : Nat
  ext : Ext
  dests : List (Nat × Dest)
  flag : Nat
  setb : Nat
  scope : Nat
  short : Bool
  chk : Bool
  value : Option (BitVec 128)
deriving DecidableEq, Repr

/-- The bookkeeping of one write on its way: whose it is, its place in program order, the flag and scope it completes
at, and the binding it was made through (R161). -/
structure Tag where
  team : Nat
  seq : Nat
  flag : Nat
  scope : Nat
  own : Option Nat
deriving DecidableEq, Repr

/-- A reduction on its way to memory (R154): operation, type, operand, size. -/
structure Reduction where
  op : AtOp
  type : Nat
  operand : DWord
  size : Nat
deriving DecidableEq, Repr

/-- A store-path entry of a core (R192): bytes of one line, or one reduction. `hold` lists program-order places and
scopes: the entry is not performed before every earlier access of the team is complete there (R146, R150); till then only
its team reads it. `strong` are the strong accesses in it, each a team, a location and a size, 31 where MIXCHK was clear (R136,
R371); `merged` the stores
that have merged into it since (R192). -/
structure StoreEntry where
  core : Nat
  space : Space
  loc : Nat
  cells : List Host.Cell
  red : Option Reduction
  hold : List (Nat × Nat)
  strong : List (Nat × Nat × Nat)
  tag : Tag
  merged : List Tag
deriving DecidableEq, Repr

/-! ## Team -/

/-- A clause latched at its start (R19, R21): header, instruction words, literal words. -/
structure Clause where
  header : Word
  words : List Word
  lits : List Word
deriving DecidableEq, Repr

/-- A finished path of a divergence (R76): its lanes, its scalars, and the scalars it wrote. -/
structure PathRec where
  lanes : Mask
  scalars : Table Word
  written : BitVec 24
deriving DecidableEq, Repr

/-- An entry of the divergence stack (R73–R78), with the scalars R76 needs. -/
inductive DivEntry where
  | rejoin (addr : DWord) (mask : Mask) (atMark : Table Word) (outer : BitVec 24) (done : List PathRec)
  | pending (addr : DWord) (mask : Mask) (scalars : Table Word) (written : BitVec 24) (handler : Bool)
  | call (ret : DWord) (mode : ModeVal) (returned : Mask) (called : Mask) (atCall : Table Word) (outer : BitVec 24)
      (done : List PathRec)
deriving DecidableEq, Repr

/-- A binding of a register of a lane (R156). `loc` and `space` are where ADDR leads; `since` is when its line last changed,
`spilled` and `spilledAt` say whether and since when its bobbin is spilled, and `notice` that a change notice for it is on its
way (R170, R171); `held` are the bound bytes that a later fetch is compared with (R166): those last fetched in a
software-managed region, those of the time when the host took a handover region. -/
structure Binding where
  notify : Bool
  size8 : Bool
  addr : Nat
  space : Space
  loc : Nat
  chg : Bool
  pend : Bool
  spilled : Bool
  since : Nat
  spilledAt : Nat
  notice : Bool
  held : Option Nat
deriving DecidableEq, Repr

/-- A symbolic tag (R266): input number and constant. -/
structure RTag where
  input : Nat
  const : DWord
deriving DecidableEq, Repr

/-- An input of a region lane (R266): where it was loaded from, its width, its value, and whether it is concretised. -/
structure RInput where
  loc : Nat
  size : Nat
  value : BitVec 128
  concrete : Bool
deriving DecidableEq, Repr

/-- A compare constraint (R267): relation 0 EQ, 1 NE, 2 LT, 3 LE; `tagLeft` says on which side the input stands. -/
structure RConstraint where
  input : Nat
  relation : Nat
  const : DWord
  other : DWord
  tagLeft : Bool
  type : Nat
  outcome : Bool
deriving DecidableEq, Repr

/-- A buffered region store (R268), its data a value or a tag; `own` is the binding it was written through (R165), `chk`
MIXCHK.EN at its issue (R371). -/
structure RStore where
  space : Space
  loc : Nat
  size : Nat
  value : BitVec 128
  tag : Option RTag
  own : Option Nat
  flag : Nat
  chk : Bool
deriving DecidableEq, Repr

/-- The region state of one lane (R264–R274). -/
structure RLane where
  open_ : Bool
  repaired : Bool
  code : Nat
  inputs : List RInput
  constraints : Nat
  compares : List RConstraint
  stores : List RStore
  lines : List (Nat × Bool)
  tags : List (Nat × RTag)
  boundSaved : List (Nat × Word)
  start : Nat
deriving DecidableEq, Repr

/-- What a team that does not issue is waiting for (R184). -/
inductive Park where
  | running
  | access                                    -- held by an earlier acquire, fence, full store path or answer (R145–R150, R192)
  | member                                    -- a window of a member that has stopped issuing (R443)
  | page                                      -- fault service (R141)
  | drain (before : Nat)                      -- TLBINV, until accesses issued before it are complete (R361)
  | bwait (deadline : Option Nat) (expired : Bool)
  | await (token : Word) (loc : Nat) (status : Option Word)
  | park (deadline : Option Nat) (woken expired : Bool)
  | semacq (sem : Nat) (ticket : Nat)
  | waitb
  | rdv
  | hcall (service : Nat) (reply : Option Word)
  | xch (deadline : Nat) (wg tm tag : Nat) (offer : List (Nat × Word)) (got : Option (Nat × List (Nat × Word)))
  | crwait
  | attach (m : Nat) (answer : Option Bool)
  | detach (m : Nat) (answered : Bool)        -- HDETACH, until the member's device has counted it (R440)
  | commit
deriving DecidableEq, Repr

/-- Fault service that an instruction of the team waits for (R141, R363): pages asked for and not answered, whether an
answer was a failure, and the trap each lane holds for good. -/
structure Service where
  asked : List (Nat × Nat)
  failed : List (Nat × Trap)
  final : List (Nat × Trap)
  lanes : Mask
  scalar : Bool
deriving DecidableEq, Repr

/-- A team (R68). `live` is false of the placeholder that stands for "no team"; `focusRest` are the lanes that a focus stop
leaves for later, `focused` says that SRET has come back to complete them (R83). -/
structure Team where
  live : Bool
  uid : Nat
  wg : Nat
  role : Nat
  index : Nat
  size : Nat
  allot : Nat
  slice : Nat
  slot : Nat
  pc : DWord
  idx : Nat
  clause : Option Clause
  resumed : Bool
  mask : Mask
  v : Table Word
  s : Table Word
  p : Table Mask
  mode : ModeVal
  tstat : Word
  flags : BitVec 12
  stack : List DivEntry
  written : BitVec 24
  pathExtra : Mask
  batchLast : BitVec 16
  gen : Table Word
  clkLatch : Option Word
  bindings : List (Nat × Binding)
  region : List (Nat × RLane)
  shortLived : List (Nat × Nat)
  poison : List Nat
  wakePend : Bool
  stepctl : Word
  focusRest : Option Mask
  focused : Bool
  only : Option Mask
  checked : Bool
  saveMode : ModeVal
  saveMask : Mask
  faultPc : DWord
  faultInfo : Word
  faultMask : Mask
  pendTraps : List Trap
  pendErrs : List Trap
  park : Park
  service : Option Service
  fencer : List (Nat × Nat)
  attached : List Nat
  lastIssue : Option Nat
  yielding : Bool
  ending : Bool
  now : Nat
  fresh : Nat
deriving DecidableEq, Repr

/-! ## Workgroup -/

/-- A reservation record of the operand buffer (R233). `live` is cleared by OBFREE while operations still use it (R235). -/
structure ObRecord where
  num : Nat
  base : Nat
  size : Nat
  fmt : Nat
  bsoff : Nat
  ssoff : Nat
  live : Bool
deriving DecidableEq, Repr

/-- A semaphore's value and its waiters in order: ticket and amount (R222). -/
structure Sem where
  value : Word
  waiters : List (Nat × Word)
deriving DecidableEq, Repr

/-- What SPROG keeps of one spindle for a workgroup (R205). -/
structure SprogHalf where
  err : Bool
  code : Nat
  clauses : Nat
deriving DecidableEq, Repr

/-- MPROG of a workgroup (R241) beyond what the engine queue shows. -/
structure Mprog where
  err : Bool
  code : Nat
  acc : Nat
  strips : Nat
deriving DecidableEq, Repr

/-- A workgroup's place in a hank (R433), with the devices of the members, those departed (R444), and how many teams of
each member are attached to this one (R439). `key` names the
hank in packets: origin device and launch. -/
structure HankInfo where
  key : Nat
  hank : Nat
  size : Nat
  member : Nat
  hexp : Nat
  devices : List Nat
  wgs : List (Option Nat)
  departed : List Nat
  attachFrom : List Nat
deriving DecidableEq, Repr

/-- Resident, stopping for pre-emption (R368), saved, finishing after an end (R206, R442, R452), or gone. -/
inductive WgPhase where
  | resident | stopping | saved | finishing | ended
deriving DecidableEq, Repr

/-- A workgroup (R72, R188, R193, R222, R321). `group`, `segs` and `chip` are kept while it is saved: the cluster group
and the segment positions enabled then (R319), the Smin and Smax of a saved chip scratchpad (R332); `left` is the core it left
(R247), `back` the cluster to which its group's segments have come back without it (R319). `status` is what it ends with, `trap` the trap code of statuses 1 and 2 (R397).
`noticed` says that its departure has been told to the hank (R444). -/
structure Wg where
  uid : Nat
  ctx : Nat
  launch : Nat
  index : Nat
  core : Nat
  phase : WgPhase
  prio : Nat
  cls : Nat
  clm : Bool
  smin : Nat
  smax : Nat
  scratch : Nat
  teams : Nat
  regBytes : Nat
  storeBytes : Nat
  sems : List Sem
  tiles : List Nat
  records : List ObRecord
  sprog : List SprogHalf
  mprog : Mprog
  hank : Option HankInfo
  slots : List Nat
  status : Nat
  trap : Nat
  group : Option Nat
  segs : List Nat
  chip : Option (Nat × Nat)
  left : Nat
  back : Option Nat
  noticed : Bool
deriving DecidableEq, Repr

/-! ## Core -/

/-- A spindle program, queued, running or ended (R199–R206). `state` is R205's STATE; `ended` holds the result that RDV
reports: 0 for EXIT, else the trap code (R203), with `abnormal` for EKILL. -/
structure Prog where
  uid : Nat
  core : Nat
  eng : Nat
  wg : Nat
  team : Nat
  seq : Nat
  queued : Bool
  ended : Bool
  abnormal : Bool
  code : Nat
  state : Nat
  exiting : Bool
  scope : Nat
  pc : DWord
  idx : Nat
  clause : Option Clause
  s : Table Word
  flags : BitVec 12
  mode : ModeVal
  clauses : Nat
  waitTicket : Option Nat
  opSeq : Nat
deriving DecidableEq, Repr

/-- Where a matrix operand comes from (R229): address, row stride, format, scale record offset or reservation record. -/
structure Operand where
  addr : DWord
  stride : Nat
  fmt : Nat
  srec : Int
  record : Option ObRecord
deriving DecidableEq, Repr

/-- The operations of the matrix engine (R236). -/
inductive MOpKind where
  | zero (wide : Bool)
  | mma (pair : Bool) (a b : Operand)
  | store (writes : List (Nat × DWord)) (wide : Bool)
  | load (team seq : Nat) (wide : Bool)
  | mtrq (a : Operand) (dst : DWord) (record : ObRecord)
deriving DecidableEq, Repr

/-- One row of an operand: its elements, and per block along k the block scale and the skein scale. -/
structure OperandRow where
  fmt : Nat
  elems : List Nat
  scales : List (Nat × Nat)
deriving DecidableEq, Repr

/-- An operation in the engine queue (R236–R240): who issued it, its tile, its flag, its progress. `bRows` are the rows of B
that it has fetched (R237), none while it has not; `got` are the lines fetched for what comes next; `ready` is the cycle since
which an MMAP has what its next strip needs, for rows of `depth` elements (R246). -/
structure MOp where
  kind : MOpKind
  wg : Nat
  ctx : Nat
  issuer : Tag
  prog : Option Nat
  tile : Nat
  started : Bool
  stop : Bool
  strips : Nat
  count : Option Nat
  bRows : List OperandRow
  got : List Nat
  ready : Option Nat
  depth : Nat
deriving DecidableEq, Repr

/-- One transfer of a copy instruction (R207–R213), whose place in program order names the instruction. `dstVa` and
`srcVa` are addresses not translated yet; `add` is CRA's TYPE; `granted` says the hold on the destination line is in
force, `dropped` that it is not written; `asked` are pages in fault service, `tags` answers from peers to come. -/
structure Xfer where
  core : Nat
  issuer : Nat
  spindle : Bool
  ctx : Nat
  wg : Nat
  seq : Nat
  dstVa : Option DWord
  dstSpace : Space
  dst : Nat
  srcVa : Option DWord
  srcSpace : Space
  src : Nat
  size : Nat
  add : Option Nat
  staged : Option (BitVec 128)
  granted : Bool
  dropped : Bool
  done : Bool
  retried : Bool
  asked : List Nat
  tags : List Nat
  batch : Option (Nat × Nat)
  scope : Nat
  flag : Nat
deriving DecidableEq, Repr

/-- A closed batch (R214–R218). -/
structure Batch where
  team : Nat
  num : BitVec 16
  wg : Nat
  scope : Nat
  sel : Word
  space : Space
  loc : Nat
  gen : Nat
  genTag : Option Nat
  done : Bool
  error : Bool
deriving DecidableEq, Repr

/-- Per-core state that is not a list of its own. -/
structure Core where
  clock : Nat
  drainHold : Option Nat
  awards : List Nat
  refreshRow : Table Nat
  errors : Table Nat
  mmapCount : Table Nat
  failed : Bool
deriving DecidableEq, Repr

/-! ## Coherence -/

/-- STATE of a directory entry (R337). -/
inductive DirState where
  | di | ds | dx | do_ | dh
deriving DecidableEq, Repr

/-- A directory entry (R337): pointers in order, or the coarse vector when CRS is set. -/
structure DirEntry where
  st : DirState
  crs : Bool
  w : Bool
  owner : BitVec 9
  ptrs : List (BitVec 9)
  coarse : BitVec 32
  stamp : BitVec 16
deriving DecidableEq, Repr

/-- The states in which an agent holds a line (R336). -/
inductive CopyState where
  | s | e | m | o | h
deriving DecidableEq, Repr

/-- A line held by an agent. In a software-managed region it holds the bytes it fetched and its dirty bytes (R138). -/
structure Copy where
  agent : Nat
  line : Nat
  st : CopyState
  stamp : BitVec 16
  managed : Bool
  bytes : List Host.Cell
  dirty : List Host.Cell
  since : Nat
deriving DecidableEq, Repr

/-- The requests a home performs (R340): `pipe` is the read of a matrix load pipe, which holds its line shared only (R8); `drop`
is the home's own eviction of a line (R339). -/
inductive Req where
  | getS | pipe | getM | upgrade | getH | evict | writeback | watch | renew | drop
deriving DecidableEq, Repr

/-- A request waiting at a home slice (R328), with the bytes that a host chiplet, a host or a peer writes with it, and the packet
that a peer's request came in. -/
structure HomeReq where
  kind : Req
  agent : Nat
  line : Nat
  cells : List Host.Cell
  tags : List Tag
  pkt : Option Packet
deriving DecidableEq, Repr

/-- A request in progress under its line lock (R328, R341): answers needed and received, cores already notified; `stamp` is the
expiry that the home granted when it performed the request (R343, R352). -/
structure Txn where
  kind : Req
  agent : Nat
  line : Nat
  need : Nat
  got : Nat
  cells : List Host.Cell
  tags : List Tag
  notified : List Nat
  watchers : List Nat
  grant : CopyState
  pkt : Option Packet
  stamp : BitVec 16
deriving DecidableEq, Repr

/-- Messages that a home sends to agents (R340, R341, R345), and the answers to requesters. -/
inductive MsgKind where
  | inv | fwdRead | fwdWrite | recall | ack | change
deriving DecidableEq, Repr

/-- A message on its way to `agent` about `line`; `requester` waits for the answer; `sent` says that the answer of a
host or a peer is awaited. -/
structure Msg where
  kind : MsgKind
  agent : Nat
  line : Nat
  requester : Nat
  sent : Bool
deriving DecidableEq, Repr

/-- A cached translation (R360): context, page address bits [56:12], level, leaf entry. -/
structure TlbEntry where
  ctx : Nat
  page : Nat
  level : Nat
  leaf : DWord
deriving DecidableEq, Repr

/-- A page request in fault service (R362): context, page, access (0 read, 1 write, 2 fetch), sub-code and code of the
trap a failure gives, and the parties that wait: 0 team, 1 spindle program, 2 copy instruction, 3 matrix core. -/
structure PageReq where
  ctx : Nat
  page : Nat
  access : Nat
  trap : Trap
  parties : List (Nat × Nat)
  pri : Bool
deriving DecidableEq, Repr

/-- A region switch, queued or recorded (R346, R351): result 0 waiting, 1 completed, 2 refused. `draining` are the physical
pages whose accesses it holds, from the start of its drain on. -/
structure Switch where
  ctx : Nat
  ticket : Word
  base : DWord
  mode : Nat
  result : Nat
  conflicts : Nat
  draining : List Nat
deriving DecidableEq, Repr

/-- The die's chip scratchpad and bucket table (R330–R335): holder with its Smin and Smax, each slice's boundary less
Smin, CARVE, the bucket entries that differ from the reset table, each as its slice plus one; by slice the ways that a risen
boundary has still to take (R334, R339) and when it last compared its counts; by bucket the requests of the rebalancing epoch,
and when the epoch began (R331). -/
structure Die where
  holder : Option Nat
  smin : Nat
  smax : Nat
  bounds : Table Nat
  carve : Word
  buckets : Table Nat
  lag : Table Nat
  carved : Table Nat
  counts : Table Nat
  epoch : Nat
deriving DecidableEq, Repr

/-- Coherence state of the device (R336–R348). `l2` are the lines that the home slices hold, least recently used first
(R339). -/
structure Coherence where
  dir : Table DirEntry
  copies : List Copy
  reqs : List HomeReq
  txns : List Txn
  msgs : List Msg
  granules : Table Nat
  leaseL1 : Nat
  leasePeer : Nat
  l2 : List Nat
deriving DecidableEq, Repr

/-! ## Contexts, launches, tender -/

/-- A class record (R325). -/
structure ClassRec where
  w0 : Int
  w1 : Int
  w2 : Int
  w3 : Int
  c0 : Nat
  c1 : Nat
  c2 : Nat
  c3 : Nat
  aff : Option Nat
  win : Nat
  clm : Bool
deriving DecidableEq, Repr

/-- An entry of FQ or HRQ that waits for its RESP (R403). -/
structure QueueEntry where
  n : Nat
  kind : Nat
  sub : Nat
  arg0 : DWord
  arg1 : DWord
  party : Nat
  posted : Bool
deriving DecidableEq, Repr

/-- A context (R391–R394) with the state the device keeps for it: `tail` is the line that its bobbin on TAIL watches,
`tailRead` the TAIL up to which launches are being taken, `failedPages` the distributor's pages whose service failed; `writes`
are writes of the device itself that wait for their page (R362, R394, R397, R403). -/
structure Context where
  valid : Bool
  priv : Bool
  assist : Byte
  ptroot : DWord
  lbase : DWord
  lslots : Nat
  lq : DWord
  lqk : Nat
  fq : DWord
  hrq : DWord
  teamBudget : Nat
  bw : Nat
  depth : Nat
  power : Nat
  trapBase : DWord
  locked : Bool
  ignored : Nat
  head : Word
  spillBase : DWord
  hazchk : Word
  mixchk : Word
  classes : Table ClassRec
  ticket : Word
  fqTail : Nat
  hrqTail : Nat
  fqWait : List QueueEntry
  hrqWait : List QueueEntry
  slotsUsed : List Nat
  bucketLevel : Int
  placeAssist : Bool
  started : Bool
  tail : Option Nat
  tailPend : Bool
  tailRead : Option Word
  failedPages : List Nat
  writes : List (DWord × List Byte)
deriving DecidableEq, Repr

/-- A role of a launch record (R395). -/
structure Role where
  entry : DWord
  vregs : Nat
  sizew : Nat
  nteams : Nat
  slice : Nat
deriving DecidableEq, Repr

/-- How far a launch is (R397–R401). -/
inductive LaunchPhase where
  | gated | open_ | done
deriving DecidableEq, Repr

/-- A launch taken by the distributor (R394–R400); on the device of a hank member that another device placed, `origin`
names that device and its launch (R434). `order` is its place among launches, `next` the next workgroup to announce,
`ended` how many have ended or were given up. -/
structure Launch where
  id : Nat
  ctx : Nat
  record : DWord
  child : Bool
  roles : List Role
  prio : Nat
  indirect : Bool
  cls : Nat
  smin : Nat
  smax : Nat
  deps : List DWord
  hank : Nat
  scratch : Nat
  sems : Nat
  seed : Word
  count : Nat
  countAddr : DWord
  completion : DWord
  params : List Word
  hmap : DWord
  hexp : Nat
  order : Nat
  cluster : Option Nat
  origin : Option (Nat × Nat)
  phase : LaunchPhase
  next : Nat
  ended : Nat
  stopped : Bool
  status : Nat
  trap : Nat
deriving DecidableEq, Repr

/-- A child launch that TENDER enqueued (R326): record address, count, tenderer's cluster. -/
structure Child where
  ctx : Nat
  addr : DWord
  count : Nat
  cluster : Nat
  order : Nat
deriving DecidableEq, Repr

/-- Announcement phases (R323, R324). -/
inductive AnnPhase where
  | bidding | awarded | held | starved
deriving DecidableEq, Repr

/-- What an announcement is for: a workgroup of a launch, a saved workgroup by its name (R321, R369), or a member of a hank
attempt of an origin device, with the key and the number of the hank and the member (R434). -/
inductive AnnFor where
  | fresh
  | saved (wg : Nat)
  | hank (origin attempt key hank member : Nat)
deriving DecidableEq, Repr

/-- An announcement of a workgroup (R322–R324): the launch as it stood, its class record, the bids kept as cost and core
in rank order, the core awarded and when, how often it was re-tendered; `teams` are those that it brings; `again` says that resources were released since
it drew no bid, `since` is when its bid window or the award began. -/
structure Ann where
  id : Nat
  ctx : Nat
  spec : Launch
  wg : Nat
  cls : ClassRec
  purpose : AnnFor
  teams : Nat
  phase : AnnPhase
  since : Nat
  kept : List (Nat × Nat)
  awarded : Option Nat
  retenders : Nat
  again : Bool
deriving DecidableEq, Repr

/-! ## Hosts -/

/-- Bridge state of a line in a coherent window (R388): B is I, S, O or X; the halves I, S or A. -/
inductive BState where
  | i | s | o | x
deriving DecidableEq, Repr

/-- Host state of a half-line (R388). -/
inductive HalfState where
  | i | s | a
deriving DecidableEq, Repr

/-- A line that a bridge tracks (R388), with the halves whose snoop is not answered (R389), whether the snoop is down to
S only and asked by a message of the directory, and the half that a request of the host waits for. -/
structure BridgeLine where
  line : Nat
  b : BState
  h0 : HalfState
  h1 : HalfState
  dirty : Bool
  snoop0 : Bool
  snoop1 : Bool
  toShared : Bool
  asked : Bool
  wantHalf : Option (Nat × Bool)
  used : Nat
deriving DecidableEq, Repr

/-- A coherent window register (R387). -/
structure Window where
  base : Nat
  enabled : Bool
  count : Nat
deriving DecidableEq, Repr

/-- A host port: kick registers (R384), windows (R387), tracked lines (R388), link (R389), and the data returned to the
host, by address. -/
structure HostPort where
  up : Bool
  kbase : Nat
  ksize : Nat
  cmd : Nat
  busy : Bool
  drop : Bool
  err : Nat
  doneCount : Nat
  windows : Table Window
  lines : List BridgeLine
  dropped : Nat
  answers : List (Nat × List Byte)
deriving DecidableEq, Repr

/-- State of a handover region (R381). -/
inductive Handover where
  | device | host | released
deriving DecidableEq, Repr

/-- A HANDOFF or TAKE under way (R385): regions still to act on, in order. -/
structure Pass where
  take : Bool
  regions : List Nat
  tag : Tag
deriving DecidableEq, Repr

/-! ## Service -/

/-- The unit-presence block (R406). `wave` lists the channels whose WAVE differs from all ones. -/
structure Presence where
  part : Nat
  core : BitVec 192
  slice : BitVec 64
  hbmch : BitVec 256
  fport : BitVec 36
  hport : BitVec 2
  chiplet : BitVec 2
  tier : BitVec 4
  wave : Table Word
deriving DecidableEq, Repr

/-- An answer of the security responder (R405): port, request number in the order of R405's list, and the body, which
the spec leaves to the standard (log entry 16). -/
structure SpdmAnswer where
  port : Nat
  request : Nat
  body : Word
deriving DecidableEq, Repr

/-- The service controller (R404–R412). `fused` is the presence block as the part was made, which bring-up writes (R406). `measured` is each locked descriptor as it was measured, and under 16 what was measured at boot, `corrected` counts HBM
errors (R375), `lastEntry` is the diagnostic port's last reading (R337), `ignored` counts writes that policy forbids. -/
structure ServiceCtl where
  ready : Bool
  presence : Presence
  fused : Presence
  bank : Nat
  banksGood : List Bool
  bankVersion : List Word
  minVersion : Word
  firmwareFailed : Bool
  stuckInReset : Bool
  heater : Table (BitVec 12)
  corrected : Nat
  events : List Nat
  spdm : List SpdmAnswer
  measured : Table (List Nat)
  lastEntry : Option (BitVec 80)
  ignored : Nat
deriving DecidableEq, Repr

/-! ## Fabric -/

/-- A fabric port (R413–R418, R428): link, peer, sequence numbers, per-class counts, flits kept for retry, packets to
send; `fenced` says that a fence has come in, `held` are packets received and not delivered. -/
structure Port where
  up : Bool
  peer : Option Nat
  inGroup : Bool
  txSeq : Nat
  rxSeq : Nat
  ackSeq : Nat
  retries : Nat
  sent : List Nat
  ret : List Nat
  returned : List Nat
  unacked : List (Nat × List Packet)
  tx : List Packet
  fenced : Bool
  held : List Packet
deriving DecidableEq, Repr

/-- A request to a peer that waits for its answer (R419, R430): tag, kind of access, what waits; `want` is a party that
waits for a line: its kind (as in `PageReq`) and number; `strong` are the teams of the strong stores in it (R136). -/
structure Transaction where
  tag : Nat
  peer : Nat
  op : Nat
  line : Nat
  load : Option Nat
  write : List Tag
  lane : Nat
  want : Option (Nat × Nat)
  strong : List Nat
  resend : Packet
deriving DecidableEq, Repr

/-- A line that the local proxy of a peer holds (R425). -/
structure ProxyLine where
  peer : Nat
  line : Nat
  st : CopyState
  stamp : BitVec 16
deriving DecidableEq, Repr

/-- An attempt to place a hank (R434, R435): each member's answer; `target` is the stage of R435 that the hank has reached.
Once committed it is not `active`, and `answers` are the ends of its members. -/
structure Attempt where
  id : Nat
  launch : Nat
  hank : Nat
  answers : List (Option Nat)
  active : Bool
  restore : Bool
  pendingFor : Nat
  target : Option Nat
deriving DecidableEq, Repr

/-- A reservation that a distributor of this device holds for a hank member, with the class record that its announcement
kept (R325, R434); `mates` are the saved workgroups that come back with it to its cluster, and their cores (R319). -/
structure Reservation where
  origin : Nat
  attempt : Nat
  ctx : Nat
  launch : Launch
  member : Nat
  hank : Nat
  core : Nat
  cls : ClassRec
  mates : List (Nat × Nat)
deriving DecidableEq, Repr

/-- Fabric state (R413–R431) and the hank protocol (R434). -/
structure Fabric where
  dev : Nat
  ndev : Nat
  ports : Table Port
  rx : List Packet
  relay : List (Nat × Packet)
  txns : List Transaction
  nextTag : Nat
  proxy : List ProxyLine
  attempts : List Attempt
  reserved : List Reservation
  headerErrors : Nat
deriving DecidableEq, Repr

/-! ## The whole device -/

/-- Who issues the next instruction. -/
inductive Issuer where
  | team
  | spindle (prog : Nat)
deriving DecidableEq, Repr

/-- What happens next, when the schedule says so: a step of the table on the item `sel`, or an issue by a team or a
spindle program. -/
inductive Move where
  | ev (sel : Nat) (i : Instr)
  | team (uid : Nat)
  | spindle (prog : Nat)
deriving DecidableEq, Repr

/-- The state of the device. -/
structure State where
  cur : Team
  others : List Team
  issuer : Issuer
  wgs : List Wg
  cores : Table Core
  claims : Table Nat
  progs : List Prog
  matrix : Table (List MOp)
  tiles : Table (Table Word)
  tilePoison : Table (List Nat)
  freed : Table (List ObRecord)
  loads : List Load
  path : List StoreEntry
  xfers : List Xfer
  batches : List Batch
  mem : List Host.Cell
  poison : List Nat
  barriers : List Nat
  coh : Coherence
  dies : Table Die
  tlb : List TlbEntry
  pageReqs : List PageReq
  switches : List Switch
  ctxs : Table Context
  launches : List Launch
  children : List Child
  anns : List Ann
  pointer : Nat
  served : Nat
  ports : Table HostPort
  handover : Table Handover
  passes : List Pass
  tierSize : Table Nat
  hostSize : Table Nat
  svc : ServiceCtl
  fab : Fabric
  cycle : Nat
  ticks : DWord
  agenda : List Move
  sel : Nat
  fresh : Nat
  nextUid : Nat
  nextSeq : Nat
deriving DecidableEq, Repr

/-! ## Reset -/

/-- The placeholder for "no team": the device has none at reset (log entry 11). Its MODE is R28's reset value. -/
def Team.absent : Team where
  live := false
  uid := 0
  wg := 0
  role := 0
  index := 0
  size := 32
  allot := 8
  slice := 0
  slot := 0
  pc := 0
  idx := 0
  clause := Option.none
  resumed := false
  mask := 0
  v := []
  s := []
  p := []
  mode := 0x10
  tstat := 0
  flags := 0
  stack := []
  written := 0
  pathExtra := 0
  batchLast := 0
  gen := []
  clkLatch := Option.none
  bindings := []
  region := []
  shortLived := []
  poison := []
  wakePend := false
  stepctl := 0
  focusRest := Option.none
  focused := false
  only := Option.none
  checked := false
  saveMode := 0x10
  saveMask := 0
  faultPc := 0
  faultInfo := 0
  faultMask := 0
  pendTraps := []
  pendErrs := []
  park := .running
  service := Option.none
  fencer := []
  attached := []
  lastIssue := Option.none
  yielding := false
  ending := false
  now := 0
  fresh := 0

/-- A core of a full part after reset. -/
def Core.reset : Core where
  clock := 33
  drainHold := none
  awards := []
  refreshRow := []
  errors := []
  mmapCount := []
  failed := false

/-- An entry with every field zero (R337): no agent holds the line. -/
def DirEntry.empty : DirEntry where
  st := .di
  crs := false
  w := false
  owner := 0
  ptrs := []
  coarse := 0
  stamp := 0

/-- Chip scratchpad and buckets of a die after reset: CARVE.THRESH is 0x0100 (R335). -/
def Die.reset : Die where
  holder := none
  smin := 0
  smax := 0
  bounds := []
  carve := 0x100
  buckets := []
  lag := []
  carved := []
  counts := []
  epoch := 0

/-- The reset class record (R325): weights 0, WIN 3, CLM and AFF clear. -/
def ClassRec.reset : ClassRec where
  w0 := 0
  w1 := 0
  w2 := 0
  w3 := 0
  c0 := 0
  c1 := 0
  c2 := 0
  c3 := 0
  aff := none
  win := 3
  clm := false

/-- A context descriptor after reset: every field 0 (R391). -/
def Context.reset : Context where
  valid := false
  priv := false
  assist := 0
  ptroot := 0
  lbase := 0
  lslots := 0
  lq := 0
  lqk := 0
  fq := 0
  hrq := 0
  teamBudget := 0
  bw := 0
  depth := 0
  power := 0
  trapBase := 0
  locked := false
  ignored := 0
  head := 0
  spillBase := 0
  hazchk := 0
  mixchk := 0
  classes := []
  ticket := 0
  fqTail := 0
  hrqTail := 0
  fqWait := []
  hrqWait := []
  slotsUsed := []
  bucketLevel := 0
  placeAssist := false
  started := false
  tail := none
  tailPend := false
  tailRead := none
  failedPages := []
  writes := []

/-- A coherent window register after reset (R387). -/
def Window.reset : Window where
  base := 0
  enabled := false
  count := 0

/-- A host port after reset (R384, R387). -/
def HostPort.reset : HostPort where
  up := true
  kbase := 0
  ksize := 0
  cmd := 0
  busy := false
  drop := false
  err := 0
  doneCount := 0
  windows := []
  lines := []
  dropped := 0
  answers := []

/-- A full Tamnal 9608 (R1, R7): every unit enabled, no host-chiplet site populated (log entry 13). -/
def Presence.full : Presence where
  part := 0x9608
  core := BitVec.allOnes 192
  slice := BitVec.allOnes 64
  hbmch := BitVec.allOnes 256
  fport := BitVec.allOnes 36
  hport := 3
  chiplet := 0
  tier := 15
  wave := []

/-- The service controller after reset: READY clear (R412). -/
def ServiceCtl.reset : ServiceCtl where
  ready := false
  presence := Presence.full
  fused := Presence.full
  bank := 0
  banksGood := [true, true]
  bankVersion := [0, 0]
  minVersion := 0
  firmwareFailed := false
  stuckInReset := false
  heater := []
  corrected := 0
  events := []
  spdm := []
  measured := []
  lastEntry := none
  ignored := 0

/-- A fabric port before training (R414). -/
def Port.reset : Port where
  up := false
  peer := none
  inGroup := false
  txSeq := 0
  rxSeq := 0
  ackSeq := 0
  retries := 0
  sent := [0, 0, 0]
  ret := [0, 0, 0]
  returned := [0, 0, 0]
  unacked := []
  tx := []
  fenced := false
  held := []

/-- Fabric state after reset: DEV 0, NDEV 1 (R415). -/
def Fabric.reset : Fabric where
  dev := 0
  ndev := 1
  ports := []
  rx := []
  relay := []
  txns := []
  nextTag := 0
  proxy := []
  attempts := []
  reserved := []
  headerErrors := 0

/-- Coherence state after reset: no copies, every entry DI (R337), both leases N = 16 (R344). -/
def Coherence.reset : Coherence where
  dir := []
  copies := []
  reqs := []
  txns := []
  msgs := []
  granules := []
  leaseL1 := 16
  leasePeer := 16
  l2 := []

/-- The device right after reset. -/
def State.reset : State where
  cur := Team.absent
  others := []
  issuer := .team
  wgs := []
  cores := []
  claims := []
  progs := []
  matrix := []
  tiles := []
  tilePoison := []
  freed := []
  loads := []
  path := []
  xfers := []
  batches := []
  mem := []
  poison := []
  barriers := []
  coh := Coherence.reset
  dies := []
  tlb := []
  pageReqs := []
  switches := []
  ctxs := []
  launches := []
  children := []
  anns := []
  pointer := 0
  served := 15
  ports := []
  handover := []
  passes := []
  tierSize := []
  hostSize := []
  svc := ServiceCtl.reset
  fab := Fabric.reset
  cycle := 0
  ticks := 0
  agenda := []
  sel := 0
  fresh := 0
  nextUid := 1
  nextSeq := 1

end Sys2Proof.Machine
end

