-- ==== Sys2Proof/Machine/Base.lean ====
section
/-! DEFINITION. Sparse tables, byte order, lanes and the accessors of teams and of the device's parts. Every read and
write of a register goes through here. -/

namespace Sys2Proof.Machine

/-! ## Sparse tables -/

/-- What a key of a table reads as; `d` is what an unlisted key reads as. -/
def tget {β : Type} (d : β) : Table β → Nat → β
  | [], _ => d
  | (k, v) :: t, n => if n = k then v else tget d t n

/-- The table without a key. -/
def tdel {β : Type} : Table β → Nat → Table β
  | [], _ => []
  | (k, v) :: t, n => if n = k then tdel t n else (k, v) :: tdel t n

/-- The table with a key listed, in its place. -/
def tput {β : Type} : Table β → Nat → β → Table β
  | [], n, x => [(n, x)]
  | (k, v) :: t, n, x =>
    if n < k then (n, x) :: (k, v) :: t
    else if n = k then (n, x) :: t
    else (k, v) :: tput t n x

/-- A write: a value equal to what an unlisted key reads as removes the entry. -/
def tset {β : Type} [DecidableEq β] (d : β) (t : Table β) (n : Nat) (x : β) : Table β :=
  if x = d then tdel t n else tput t n x

/-- Keys strictly rise. -/
def rising {β : Type} : Table β → Bool
  | [] => true
  | [_] => true
  | (k, _) :: (k', v') :: t => decide (k < k') && rising ((k', v') :: t)

/-- The canonical form: rising keys, and no entry that an unlisted key would read as. -/
def twf {β : Type} [DecidableEq β] (d : β) (t : Table β) : Bool :=
  rising t && t.all (fun e => decide (e.2 ≠ d))

/-- The entry of a key of an association, if any. -/
def alook {β : Type} (l : List (Nat × β)) (n : Nat) : Option β := l.lookup n

/-- The association with a key's entry replaced or added in rising order. -/
def aput {β : Type} (l : List (Nat × β)) (n : Nat) (x : β) : List (Nat × β) := tput l n x

/-- The association without a key. -/
def adel {β : Type} (l : List (Nat × β)) (n : Nat) : List (Nat × β) := tdel l n

/-! ## Bits and bytes -/

/-- Low 32 bits of a pair: the even member (R13). -/
def loWord (x : DWord) : Word := x.extractLsb' 0 32

/-- High 32 bits of a pair: the odd member (R13). -/
def hiWord (x : DWord) : Word := x.extractLsb' 32 32

/-- A pair from its members (R13). -/
def pairOf (lo hi : Word) : DWord := hi ++ lo

/-- Bits [hi:lo] of a word as a number. -/
def bits (x : Nat) (lo len : Nat) : Nat := (x >>> lo) % 2 ^ len

/-- Sign extension of a word to 64 bits. -/
def sext64 (x : Word) : DWord := x.signExtend 64

/-- The number that little-endian bytes make (R9). -/
def leNat : List Byte → Nat
  | [] => 0
  | b :: bs => b.toNat + 256 * leNat bs

/-- The `n` low bytes of a number, lowest first (R9). -/
def leBytes : Nat → Nat → List Byte
  | 0, _ => []
  | n + 1, x => BitVec.ofNat 8 x :: leBytes n (x / 256)

/-- What a byte reads as where no cell is listed: memory's contents after power-on (log entry 1). -/
def unlistedByte : Byte := 0

/-- One byte of a list of cells. -/
def cellAt (m : List Host.Cell) (loc : Nat) : Byte := tget unlistedByte m loc

/-- `n` bytes from a location, lowest first. -/
def cellBytes (m : List Host.Cell) (loc : Nat) : Nat → List Byte
  | 0 => []
  | n + 1 => cellAt m loc :: cellBytes m (loc + 1) n

/-- The value of `n` bytes at a location (R9). -/
def cellNat (m : List Host.Cell) (loc n : Nat) : Nat := leNat (cellBytes m loc n)

/-- The cells that hold bytes from a location on. -/
def cellsFrom (loc : Nat) : List Byte → List Host.Cell
  | [] => []
  | b :: bs => (loc, b) :: cellsFrom (loc + 1) bs

/-- Memory with cells written over it, in canonical form. -/
def writeCells (m : List Host.Cell) (cs : List Host.Cell) : List Host.Cell :=
  cs.foldl (fun m c => tset unlistedByte m c.1 c.2) m

/-- The canonical form of memory: addresses strictly rising, no cell that an unlisted byte would read as. -/
def Memory.wf (m : List Host.Cell) : Bool := twf unlistedByte m

/-- The last byte that a list of cells gives a location, if it covers it. -/
def coverByte (cs : List Host.Cell) (loc : Nat) : Option Byte :=
  cs.foldl (fun r c => if c.1 = loc then some c.2 else r) none

/-! ## Locations

One list of cells holds all memory of the device. A location names a byte: physical addresses are their own number
(R373); the other stores get ranges of their own (log entry 2). -/

/-- Location `off` of store `kind`, number `id`. -/
def mkLoc (kind id off : Nat) : Nat := id * 2 ^ 64 + kind * 2 ^ 60 + off

/-- A byte of a workgroup's core scratchpad (R193). -/
def locScratch (wg off : Nat) : Nat := mkLoc 1 wg off

/-- A byte of a lane's slice in core store (R193). -/
def locSlice (team lane off : Nat) : Nat := mkLoc 2 team (lane * 2048 + off)

/-- A byte of a cluster segment, by the core that holds it and the claim it belongs to (R316, R317). -/
def locSegment (core off : Nat) : Nat := mkLoc 3 core off

/-- A byte of a die's chip scratchpad (R333). -/
def locChip (die off : Nat) : Nat := mkLoc 4 die off

/-- A byte of a core's operand buffer (R195). -/
def locBuffer (core off : Nat) : Nat := mkLoc 5 core off

/-- A byte homed on a peer device (R357). -/
def locPeer (dev pa : Nat) : Nat := mkLoc 6 dev pa

/-- A byte of the portion of a hank member on another device (R437). -/
def locMember (wg m off : Nat) : Nat := mkLoc 7 wg (m * 2 ^ 24 + off)

/-- The store that a location belongs to. -/
def locKind (loc : Nat) : Nat := (loc / 2 ^ 60) % 16

/-- The number of the store within its kind. -/
def locId (loc : Nat) : Nat := loc / 2 ^ 64

/-- The offset within the store. -/
def locOff (loc : Nat) : Nat := loc % 2 ^ 60

/-- The 128-byte line of a location (R336). -/
def lineOf (loc : Nat) : Nat := loc / 128

/-- The 8-byte granule that poison marks (R198, R375). -/
def granuleOf (loc : Nat) : Nat := loc / 8

/-! ## Lanes -/

/-- The lanes of a mask below the team size, ascending. -/
def lanesOf (size : Nat) (m : Mask) : List Nat := (List.range size).filter (fun l => m.getLsbD l)

/-- The mask of one lane. -/
def laneBit (l : Nat) : Mask := (1 : Mask) <<< l

/-- The mask of a list of lanes. -/
def maskOf (ls : List Nat) : Mask := ls.foldl (fun m l => m ||| laneBit l) 0

/-- Every lane of a team of `size` lanes (R68). -/
def fullMask (size : Nat) : Mask := BitVec.ofNat 1024 (2 ^ size - 1)

/-- Mask word `w` (R69). -/
def maskWord (m : Mask) (w : Nat) : Word := m.extractLsb' (32 * w) 32

/-- The summary word: bit `w` is set exactly when mask word `w` is not zero (R69). -/
def maskSummary (m : Mask) : Word :=
  BitVec.ofNat 32 ((List.range 32).foldl (fun a w => if maskWord m w = 0 then a else a + 2 ^ w) 0)

/-- The passes of an instruction: one for each mask word that is not zero (R70). -/
def passesOf (m : Mask) : Nat := ((List.range 32).filter (fun w => decide (maskWord m w ≠ 0))).length

/-! ## MODE and TSTAT fields (R28, R71) -/

/-- MODE.TYPE. -/
def Team.type (t : Team) : Nat := (t.mode.extractLsb' 17 4).toNat

/-- MODE.RND. -/
def Team.rnd (t : Team) : Nat := (t.mode.extractLsb' 14 3).toNat

/-- MODE.SAT. -/
def Team.sat (t : Team) : Bool := t.mode.getLsbD 13

/-- MODE.FTZ. -/
def Team.ftz (t : Team) : Bool := t.mode.getLsbD 12

/-- MODE.GUARD.EN. -/
def Team.guardEn (t : Team) : Bool := t.mode.getLsbD 11

/-- MODE.GUARD.INV. -/
def Team.guardInv (t : Team) : Bool := t.mode.getLsbD 10

/-- MODE.GUARD.P. -/
def Team.guardP (t : Team) : Nat := (t.mode.extractLsb' 7 3).toNat

/-- MODE.SCOPE. -/
def Team.scope (t : Team) : Nat := (t.mode.extractLsb' 4 3).toNat

/-- The checks of R29 on a MODE value: TYPE at most 11, RND at most 5, SCOPE at most 5, bits [3:0] zero. -/
def modeOk (v : ModeVal) : Bool :=
  decide ((v.extractLsb' 17 4).toNat ≤ 11) && decide ((v.extractLsb' 14 3).toNat ≤ 5) &&
    decide ((v.extractLsb' 4 3).toNat ≤ 5) && decide (v.extractLsb' 0 4 = 0)

/-- TYPEs of 64 bits: i64, u64, f64 (R14). -/
def wide (type : Nat) : Bool := type == 2 || type == 3 || type == 5

/-- TSTAT.HLEVEL: the team runs at handler level (R71). -/
def Team.hlevel (t : Team) : Bool := t.tstat.getLsbD 16

/-! ## Registers of a team -/

/-- Key of register `r` of lane `l` (R156: registers are kept per lane). -/
def vkey (l r : Nat) : Nat := l * 96 + r

/-- Whether a short-lived value has decayed: 0 kept, 1 either, 2 gone (R190). -/
def Team.decay (t : Team) (k : Nat) : Nat :=
  match alook t.shortLived k with
  | none => 0
  | some at_ => if t.now - at_ < 4096 then 0 else if t.now - at_ < 4352 then 1 else 2

/-- Whether a read of a marked register returns 0 instead of the written value (R190). -/
def Team.expired (t : Team) (k : Nat) : Bool :=
  match t.decay k with
  | 0 => false
  | 1 => Config.expires t.fresh k
  | _ => true

/-- Register `r` of lane `l`, as a read finds it. -/
def Team.vget (t : Team) (l r : Nat) : Word :=
  if t.expired (vkey l r) then 0 else tget 0 t.v (vkey l r)

/-- Scalar `n`. -/
def Team.sget (t : Team) (n : Nat) : Word := tget 0 t.s n

/-- Predicate `n` of every lane. -/
def Team.pmask (t : Team) (n : Nat) : Mask := tget 0 t.p n

/-- Predicate `n` of lane `l`. -/
def Team.pget (t : Team) (l n : Nat) : Bool := (t.pmask n).getLsbD l

/-- A lane's generator (R52). -/
def Team.gget (t : Team) (l : Nat) : Word := tget 0 t.gen l

/-- The clause's SL bit (R19). -/
def Clause.sl (c : Clause) : Bool := c.header.getLsbD 4

/-- ICNT (R19). -/
def Clause.icnt (c : Clause) : Nat := (c.header >>> 28).toNat

/-- LCNT (R19). -/
def Clause.lcnt (c : Clause) : Nat := (c.header.extractLsb' 25 3).toNat

/-- WAIT: bit `i` stands for flag `fi` (R19). -/
def Clause.wait (c : Clause) : BitVec 12 := c.header.extractLsb' 13 12

/-- SETA; 15 = none (R19). -/
def Clause.seta (c : Clause) : Nat := (c.header.extractLsb' 9 4).toNat

/-- SETB; 15 = none (R19). -/
def Clause.setb (c : Clause) : Nat := (c.header.extractLsb' 5 4).toNat

/-- YIELD (R19). -/
def Clause.yield (c : Clause) : Bool := c.header.getLsbD 3

/-- The bytes from a clause to the next one in memory (R114). -/
def Clause.length (c : Clause) : Nat := 4 * (1 + c.icnt + c.lcnt)

/-- Whether a header keeps R19. -/
def headerOk (h : Word) : Bool :=
  let c : Clause := ⟨h, [], []⟩
  decide (c.icnt ≠ 0) && decide (c.lcnt ≤ 4) && !(decide (12 ≤ c.seta) && decide (c.seta ≤ 14)) &&
    !(decide (12 ≤ c.setb) && decide (c.setb ≤ 14)) && decide (h.extractLsb' 0 3 = 0)

/-- LCNT of the current clause. -/
def Team.lcnt (t : Team) : Nat := (t.clause.map Clause.lcnt).getD 0

/-- Literal word `i` of the current clause (R11). -/
def Team.lit (t : Team) (i : Nat) : Word := (t.clause.bind (fun c => c.lits[i]?)).getD 0

/-- SETA of the current clause; 15 outside one. -/
def Team.seta (t : Team) : Nat := (t.clause.map Clause.seta).getD 15

/-- SETB of the current clause; 15 outside one. -/
def Team.setb (t : Team) : Nat := (t.clause.map Clause.setb).getD 15

/-- SL of the current clause. -/
def Team.sl (t : Team) : Bool := (t.clause.map Clause.sl).getD false

/-- The clause after this one in memory (R114). -/
def Team.nextPc (t : Team) : DWord := t.pc + BitVec.ofNat 64 ((t.clause.map Clause.length).getD 4)

/-! ## The lanes an instruction acts for -/

/-- The lanes whose guard passes (R31). -/
def Team.guardMask (t : Team) : Mask :=
  if t.guardEn then (if t.guardInv then ~~~ (t.pmask t.guardP) else t.pmask t.guardP) else BitVec.allOnes 1024

/-- The lanes that an instruction may act for: the active mask, or of it the lanes that a replay or a focus stop still
owes (R83, R142). -/
def Team.activeMask (t : Team) : Mask :=
  match t.only with
  | some m => t.mask &&& m
  | none => t.mask

/-- The contributing lanes: active, with a true guard (R31, R86). -/
def Team.contrib (t : Team) : Mask := t.activeMask &&& t.guardMask

/-- Contributing lanes in ascending order. -/
def Team.contribLanes (t : Team) : List Nat := lanesOf t.size t.contrib

/-- Active lanes in ascending order. -/
def Team.activeLanes (t : Team) : List Nat := lanesOf t.size t.activeMask

/-- The leader lane (R15). -/
def Team.leader (t : Team) : Option Nat := t.contribLanes.head?

/-- The lowest active lane, whatever the guard. -/
def Team.lowest (t : Team) : Option Nat := t.activeLanes.head?

/-! ## Writing registers -/

/-- Whether a binding covers the register of a key: its own, or the odd one of an 8-byte binding (R156). -/
def Team.covered (t : Team) (k : Nat) : Bool :=
  (alook t.bindings k).isSome || (k % 96 ≠ 0 && ((alook t.bindings (k - 1)).map Binding.size8).getD false)

/-- Sets the mark of a written vector register: short-lived under SL unless bound, otherwise unmarked (R190). -/
def Team.markWrite (t : Team) (short : Bool) (k : Nat) : List (Nat × Nat) :=
  if short && !t.covered k then aput t.shortLived k t.now else adel t.shortLived k

/-- Writes register `r` of lane `l`. DESIGN CHOICE: a write ends the register's poison, for which R198 gives no end (log entry 74). -/
def Team.vset (t : Team) (short : Bool) (l r : Nat) (x : Word) : Team :=
  { t with
    v := tset 0 t.v (vkey l r) x
    shortLived := t.markWrite short (vkey l r)
    poison := t.poison.filter (fun k => k ≠ vkey l r) }

/-- Writes scalar `n`; the current path has written it (R76). -/
def Team.sset (t : Team) (n : Nat) (x : Word) : Team :=
  { t with s := tset 0 t.s n x, written := t.written ||| ((1 : BitVec 24) <<< n) }

/-- Writes predicate `n` in the lanes of a mask. -/
def Team.pset (t : Team) (n : Nat) (lanes values : Mask) : Team :=
  { t with p := tset 0 t.p n ((t.pmask n &&& ~~~ lanes) ||| (values &&& lanes)) }

/-- Sets a lane's generator. -/
def Team.gset (t : Team) (l : Nat) (g : Word) : Team := { t with gen := tset 0 t.gen l g }

/-! ## Parts of the device -/

/-- A core. -/
def State.core (s : State) (c : Nat) : Core := tget Core.reset s.cores c

/-- Replaces a core. -/
def State.setCore (s : State) (c : Nat) (x : Core) : State := { s with cores := tset Core.reset s.cores c x }

/-- A context (R391). -/
def State.ctx (s : State) (c : Nat) : Context := tget Context.reset s.ctxs c

/-- Replaces a context. -/
def State.setCtx (s : State) (c : Nat) (x : Context) : State := { s with ctxs := tset Context.reset s.ctxs c x }

/-- A die's scratchpad and buckets. -/
def State.die (s : State) (d : Nat) : Die := tget Die.reset s.dies d

/-- Replaces a die. -/
def State.setDie (s : State) (d : Nat) (x : Die) : State := { s with dies := tset Die.reset s.dies d x }

/-- A host port. -/
def State.hostPort (s : State) (p : Nat) : HostPort := tget HostPort.reset s.ports p

/-- Replaces a host port. -/
def State.setHostPort (s : State) (p : Nat) (x : HostPort) : State := { s with ports := tset HostPort.reset s.ports p x }

/-- A workgroup by its name. -/
def State.wg? (s : State) (u : Nat) : Option Wg := s.wgs.find? (fun w => w.uid == u)

/-- Changes one workgroup. -/
def State.modWg (s : State) (u : Nat) (f : Wg → Wg) : State :=
  { s with wgs := s.wgs.map (fun w => if w.uid == u then f w else w) }

/-- The issuing team's workgroup. -/
def State.curWg (s : State) : Option Wg := s.wg? s.cur.wg

/-- The issuing team's core; 0 where it has no workgroup. -/
def State.curCore (s : State) : Nat := (s.curWg.map Wg.core).getD 0

/-- The issuing team's context number. -/
def State.curCtxNum (s : State) : Nat := (s.curWg.map Wg.ctx).getD 0

/-- The issuing team's context. -/
def State.curCtx (s : State) : Context := s.ctx s.curCtxNum

/-- Every team, the issuing one first. -/
def State.teams (s : State) : List Team := s.cur :: s.others

/-- A live team by its name. -/
def State.team? (s : State) (u : Nat) : Option Team := s.teams.find? (fun t => t.live && t.uid == u)

/-- Changes every team. -/
def State.mapTeams (s : State) (f : Team → Team) : State := { s with cur := f s.cur, others := s.others.map f }

/-- Changes one team. -/
def State.modTeam (s : State) (u : Nat) (f : Team → Team) : State :=
  s.mapTeams (fun t => if t.live && t.uid == u then f t else t)

/-- Replaces the issuing team. -/
def State.setCur (s : State) (t : Team) : State := { s with cur := t }

/-- The core of a team. -/
def State.teamCore (s : State) (t : Team) : Nat := ((s.wg? t.wg).map Wg.core).getD 0

/-- The teams of a workgroup. -/
def State.wgTeams (s : State) (u : Nat) : List Team := s.teams.filter (fun t => t.live && t.wg == u)

/-- A launch by its name. -/
def State.launch? (s : State) (id : Nat) : Option Launch := s.launches.find? (fun l => l.id == id)

/-- Changes one launch. -/
def State.modLaunch (s : State) (id : Nat) (f : Launch → Launch) : State :=
  { s with launches := s.launches.map (fun l => if l.id == id then f l else l) }

/-- Advances the counter that free values are applied to. -/
def State.draw (s : State) : State := { s with fresh := s.fresh + 1 }

/-- Takes the next place in program order (R280). -/
def State.takeSeq (s : State) : State := { s with nextSeq := s.nextSeq + 1 }

/-- Whether a core is enabled (R4, R198). -/
def State.coreOn (s : State) (c : Nat) : Bool := s.svc.presence.core.getLsbD c

/-- Whether slice `j` of die `d` is enabled. -/
def State.sliceOn (s : State) (d j : Nat) : Bool := s.svc.presence.slice.getLsbD (16 * d + j)

/-- The cluster of a core (R315). -/
def clusterOf (core : Nat) : Nat := core / 8

/-- The die of a core (R196). -/
def dieOf (core : Nat) : Nat := core / 48

end Sys2Proof.Machine
end

