-- ==== Sys2Proof/Machine/Numbers.lean ====
section
/-! DEFINITION. Number formats and arithmetic (02_numbers R43–R62): formats, exact values, the one rounding, the
floating-point operations, the integer operations and the conversions. A value is (-1)^neg · m · 2^e exactly, and is
rounded once. -/

namespace Sys2Proof.Machine

/-! ## Flags in TSTAT order (R58, R71) -/

/-- NV. -/
def fNV : Nat := 16
/-- DZ. -/
def fDZ : Nat := 8
/-- OF. -/
def fOF : Nat := 4
/-- UF. -/
def fUF : Nat := 2
/-- NX. -/
def fNX : Nat := 1

/-- The result of one element: bits, exception flags, and whether it was rounded, which takes a draw under RND 5
(R52). -/
structure Elem where
  bits : Nat
  flags : Nat
  drew : Bool
deriving DecidableEq, Repr

/-- A result without rounding. -/
def Elem.plain (x : Nat) : Elem := ⟨x, 0, false⟩

/-! ## Formats (R43) -/

/-- A floating-point format: exponent and fraction width, bias, magnitude codes of the largest finite value, of
infinity (of what an overflow gives where there is none) and of the canonical NaN, whether it has infinities, and
whether it is one of the four formats that FTZ applies to (R55). -/
structure Fmt where
  eb : Nat
  mb : Nat
  bias : Nat
  maxCode : Nat
  infCode : Nat
  nanCode : Nat
  hasInf : Bool
  ieee : Bool
deriving DecidableEq, Repr

/-- binary64. -/
def binary64 : Fmt := ⟨11, 52, 1023, 0x7FEFFFFFFFFFFFFF, 0x7FF0000000000000, 0x7FF8000000000000, true, true⟩
/-- binary32. -/
def binary32 : Fmt := ⟨8, 23, 127, 0x7F7FFFFF, 0x7F800000, 0x7FC00000, true, true⟩
/-- binary16. -/
def binary16 : Fmt := ⟨5, 10, 15, 0x7BFF, 0x7C00, 0x7E00, true, true⟩
/-- bfloat16. -/
def bfloat16 : Fmt := ⟨8, 7, 127, 0x7F7F, 0x7F80, 0x7FC0, true, true⟩
/-- E4M3. -/
def e4m3 : Fmt := ⟨4, 3, 7, 0x7E, 0x7F, 0x7F, false, false⟩
/-- E5M2. -/
def e5m2 : Fmt := ⟨5, 2, 15, 0x7B, 0x7C, 0x7E, true, false⟩
/-- E2M1. -/
def e2m1 : Fmt := ⟨2, 1, 1, 7, 7, 0, false, false⟩

/-- The weight of the sign bit. -/
def Fmt.signBit (f : Fmt) : Nat := 2 ^ (f.eb + f.mb)

/-- A magnitude code with its sign. -/
def Fmt.signed (f : Fmt) (neg : Bool) (code : Nat) : Nat := if neg then f.signBit + code else code

/-- A floating-point datum: NaN, infinity, or (-1)^neg · m · 2^e. -/
inductive Num where
  | nan (signalling : Bool)
  | inf (neg : Bool)
  | fin (neg : Bool) (m : Nat) (e : Int)
deriving DecidableEq, Repr

/-- The datum that a code stands for (R43, R53). -/
def Fmt.unpack (f : Fmt) (x : Nat) : Num :=
  let neg := decide (f.signBit ≤ x % (2 * f.signBit))
  let mag := x % f.signBit
  let e := mag / 2 ^ f.mb
  let fr := mag % 2 ^ f.mb
  if f.maxCode < mag then
    if f.hasInf && mag == f.infCode then .inf neg
    else .nan (f.ieee && decide (fr < 2 ^ (f.mb - 1)))
  else if e = 0 then .fin neg fr (1 - (f.bias : Int) - f.mb)
  else .fin neg (2 ^ f.mb + fr) ((e : Int) - f.bias - f.mb)

/-- FTZ on an input: a subnormal is zero of the same sign (R55). -/
def Fmt.input (f : Fmt) (ftz : Bool) (x : Nat) : Num :=
  match f.unpack x with
  | .fin neg m e => if ftz && f.ieee && decide (m < 2 ^ f.mb) then .fin neg 0 e else .fin neg m e
  | n => n

/-! ## Rounding (R51, R52, R58) -/

/-- How results are rounded: RND, SAT, FTZ and the lane's next draw. RND 6 and 7 stand for the two faithful
neighbours of R97, toward zero and away from it. -/
structure Env where
  rnd : Nat
  sat : Bool
  ftz : Bool
  g : Word
deriving DecidableEq, Repr

/-- Rounding to nearest-even with nothing else: atomics, reductions, matrix sums (R51, R63, R151). -/
def Env.nearest : Env := ⟨0, false, false, 0⟩

/-- The environment with another rounding. -/
def Env.withRnd (env : Env) (r : Nat) : Env := { env with rnd := r }

/-- Whether to take the neighbour away from zero: `n` is the one toward zero, `rem` of 2^`sh` (and more when `sticky`)
is what lies beyond it. -/
def roundAway (env : Env) (neg : Bool) (n rem sh : Nat) (sticky : Bool) : Bool :=
  let inexact := decide (rem ≠ 0) || sticky
  let half := 2 ^ sh
  match env.rnd with
  | 0 => decide (half < 2 * rem) || (decide (half = 2 * rem) && (sticky || decide (n % 2 = 1)))
  | 1 => false
  | 2 => neg && inexact
  | 3 => !neg && inexact
  | 4 => decide (half ≤ 2 * rem)
  | 5 => inexact && decide (env.g.toNat < rem * 2 ^ 32 / half)
  | 6 => false
  | _ => inexact

/-- The value m · 2^e (and more when `sticky`) as a whole number of 2^q, rounded, and whether it was inexact. -/
def roundAt (env : Env) (neg : Bool) (m : Nat) (e q : Int) (sticky : Bool) : Nat × Bool :=
  if q ≤ e then (m * 2 ^ (e - q).toNat, sticky)
  else
    let sh := (q - e).toNat
    let n := m >>> sh
    let rem := m % 2 ^ sh
    ((if roundAway env neg n rem sh sticky then n + 1 else n), decide (rem ≠ 0) || sticky)

/-- The magnitude code that an overflow delivers (R51, R52, R56, R59). -/
def overflowCode (f : Fmt) (env : Env) (neg : Bool) : Nat :=
  if env.sat || env.rnd == 1 || env.rnd == 5 || (env.rnd == 2 && !neg) || (env.rnd == 3 && neg) then f.maxCode
  else f.infCode

/-- The exact value of a finite magnitude code, to compare with. -/
def Fmt.aboveMax (f : Fmt) (m : Nat) (e : Int) : Bool :=
  match f.unpack f.maxCode with
  | .fin _ mm me =>
    let lo := min e me
    decide (mm * 2 ^ (me - lo).toNat < m * 2 ^ (e - lo).toNat)
  | _ => false

/-- The one rounding of R51: the exact value (-1)^neg · m · 2^e, with more beyond m when `sticky`, to format `f`. -/
def Fmt.round (f : Fmt) (env : Env) (neg : Bool) (m : Nat) (e : Int) (sticky : Bool := false) : Elem :=
  if m = 0 && !sticky then ⟨f.signed neg 0, 0, true⟩
  else
    let emin : Int := 1 - f.bias
    let top : Int := e + (Nat.log2 m : Nat)
    let low : Int := emin - f.mb
    let q := max (top - f.mb) low
    let (n, inexact) := roundAt env neg m e q sticky
    let code := if n < 2 ^ f.mb then n else (q - low + 1).toNat * 2 ^ f.mb + (n - 2 ^ f.mb)
    if env.rnd == 5 && f.aboveMax m e then ⟨f.signed neg f.maxCode, fOF + fNX, true⟩
    else if f.maxCode < code then ⟨f.signed neg (overflowCode f env neg), fOF + fNX, true⟩
    else
      let tiny :=
        if env.rnd == 5 then decide (code < 2 ^ f.mb)
        else decide (top < emin) &&
          !(decide (top = emin - 1) && decide ((roundAt env neg m e (top - f.mb) sticky).1 = 2 ^ (f.mb + 1)))
      if tiny && env.ftz && f.ieee then ⟨f.signed neg 0, fUF + fNX, true⟩
      else ⟨f.signed neg code, (if inexact then (if tiny then fUF + fNX else fNX) else 0), true⟩

/-- Infinity, or the largest finite value under SAT (R56). -/
def Fmt.inf (f : Fmt) (env : Env) (neg : Bool) : Nat := f.signed neg (if env.sat then f.maxCode else f.infCode)

/-- A result that an infinite operand or a zero divisor makes infinite: no draw, but one where SAT makes it the largest finite value
(R52, R56, R102, log entry 22). -/
def Fmt.infElem (f : Fmt) (env : Env) (neg : Bool) (flags : Nat) : Elem := ⟨f.inf env neg, flags, env.sat⟩

/-- The canonical NaN with flags (R53). -/
def Fmt.nanElem (f : Fmt) (flags : Nat) : Elem := ⟨f.nanCode, flags, false⟩

/-- NV for a signalling NaN among the inputs (R53). -/
def snanFlag (xs : List Num) : Nat := if xs.any (fun x => x == .nan true) then fNV else 0

/-- Whether a datum is a NaN. -/
def Num.isNan : Num → Bool
  | .nan _ => true
  | _ => false

/-- Whether a datum is a zero. -/
def Num.isZero : Num → Bool
  | .fin _ 0 _ => true
  | _ => false

/-- The sign of a datum. -/
def Num.neg : Num → Bool
  | .nan _ => false
  | .inf n => n
  | .fin n _ _ => n

/-- The same datum with the other sign. -/
def Num.flip : Num → Num
  | .nan s => .nan s
  | .inf n => .inf !n
  | .fin n m e => .fin (!n) m e

/-- A magnitude at exponent `e'` with its sign. -/
def sval (neg : Bool) (m : Nat) (e lo : Int) : Int :=
  let v : Int := (m * 2 ^ (e - lo).toNat : Nat)
  if neg then -v else v

/-! ## Floating-point arithmetic (R57, R95, R96) -/

/-- An exact sum, rounded once. Zero sums are +0, or -0 under RND 2; sums of like zeros keep the sign. -/
def Fmt.sumFin (f : Fmt) (env : Env) (nx : Bool) (mx : Nat) (ex : Int) (ny : Bool) (my : Nat) (ey : Int) : Elem :=
  let lo := min ex ey
  let v := sval nx mx ex lo + sval ny my ey lo
  if v = 0 then
    let neg := if mx = 0 && my = 0 then (if env.rnd == 2 then nx || ny else nx && ny) else env.rnd == 2
    f.round env neg 0 lo
  else f.round env (decide (v < 0)) v.natAbs lo

/-- x + y. -/
def Fmt.add (f : Fmt) (env : Env) (x y : Num) : Elem :=
  match x, y with
  | .fin nx mx ex, .fin ny my ey => f.sumFin env nx mx ex ny my ey
  | .inf nx, .inf ny => if nx == ny then f.infElem env nx 0 else f.nanElem fNV
  | .inf nx, .fin _ _ _ => f.infElem env nx 0
  | .fin _ _ _, .inf ny => f.infElem env ny 0
  | x, y => f.nanElem (snanFlag [x, y])

/-- An exact product: NaN, infinity or a finite value, and NV for 0 × ∞ or a signalling NaN. -/
def mulNum (x y : Num) : Num × Nat :=
  match x, y with
  | .fin nx mx ex, .fin ny my ey => (.fin (nx != ny) (mx * my) (ex + ey), 0)
  | .inf nx, .inf ny => (.inf (nx != ny), 0)
  | .inf nx, .fin ny my _ => if my = 0 then (.nan false, fNV) else (.inf (nx != ny), 0)
  | .fin nx mx _, .inf ny => if mx = 0 then (.nan false, fNV) else (.inf (nx != ny), 0)
  | x, y => (.nan false, snanFlag [x, y])

/-- A datum delivered in a format with one rounding. -/
def Fmt.deliver (f : Fmt) (env : Env) (x : Num) (flags : Nat) : Elem :=
  match x with
  | .nan _ => f.nanElem flags
  | .inf n => f.infElem env n flags
  | .fin n m e => f.round env n m e

/-- x × y. -/
def Fmt.mul (f : Fmt) (env : Env) (x y : Num) : Elem :=
  let p := mulNum x y
  f.deliver env p.1 p.2

/-- x × y + z with one rounding; 0 × ∞ raises NV even when z is a quiet NaN (R95). -/
def Fmt.fma (f : Fmt) (env : Env) (x y z : Num) : Elem :=
  let p := mulNum x y
  let r := f.add env p.1 z
  match p.1 with
  | .nan _ => f.nanElem (p.2 ||| snanFlag [x, y, z])
  | _ => r

/-- The quotient of two magnitudes with at least `mb + 60` bits, and whether more lies beyond. -/
def quotient (f : Fmt) (mx my : Nat) : Nat × Nat × Bool :=
  let sh := f.mb + 62 + Nat.log2 (my + 1)
  ((mx <<< sh) / my, sh, decide ((mx <<< sh) % my ≠ 0))

/-- x ÷ y. -/
def Fmt.div (f : Fmt) (env : Env) (x y : Num) : Elem :=
  match x, y with
  | .fin nx mx ex, .fin ny my ey =>
    if my = 0 then
      if mx = 0 then f.nanElem fNV else f.infElem env (nx != ny) fDZ
    else if mx = 0 then f.round env (nx != ny) 0 0
    else
      let r := quotient f mx my
      f.round env (nx != ny) r.1 (ex - ey - r.2.1) r.2.2
  | .inf _, .inf _ => f.nanElem fNV
  | .inf nx, .fin ny _ _ => f.infElem env (nx != ny) 0
  | .fin nx _ _, .inf ny => .plain (f.signed (nx != ny) 0)
  | x, y => f.nanElem (snanFlag [x, y])

/-- IEEE remainder: exact (R95). -/
def Fmt.rem (f : Fmt) (env : Env) (x y : Num) : Elem :=
  match x, y with
  | .fin nx mx ex, .fin _ my ey =>
    if my = 0 then f.nanElem fNV
    else
      let lo := min ex ey
      let a := mx * 2 ^ (ex - lo).toNat
      let b := my * 2 ^ (ey - lo).toNat
      let q := a / b
      let r := a % b
      let up := decide (b < 2 * r) || (decide (b = 2 * r) && decide (q % 2 = 1))
      let res := if up then f.round (env.withRnd 0) (!nx) (b - r) lo else f.round (env.withRnd 0) nx r lo
      { res with drew := false }
  | .inf _, .fin _ _ _ => f.nanElem fNV
  | .inf _, .inf _ => f.nanElem fNV
  | .fin nx mx ex, .inf _ => { f.round (env.withRnd 0) nx mx ex with drew := false }
  | x, y => f.nanElem (snanFlag [x, y])

/-- The order of two data that are no NaN; with `zeros`, -0 lies below +0 (R54). -/
def numLt (zeros : Bool) (x y : Num) : Bool :=
  match x, y with
  | .inf nx, .inf ny => nx && !ny
  | .inf nx, _ => nx
  | _, .inf ny => !ny
  | .fin nx mx ex, .fin ny my ey =>
    let lo := min ex ey
    let a := sval nx mx ex lo
    let b := sval ny my ey lo
    decide (a < b) || (zeros && decide (a = b) && decide (mx = 0) && nx && !ny)
  | _, _ => false

/-- minimumNumber or maximumNumber; the operand chosen is delivered (R54). -/
def Fmt.minmax (f : Fmt) (env : Env) (isMax : Bool) (x y : Num) : Elem :=
  let fl := snanFlag [x, y]
  let pick (n : Num) : Elem := { f.deliver (env.withRnd 0) n fl with flags := fl, drew := false }
  match x.isNan, y.isNan with
  | true, true => f.nanElem fl
  | true, false => pick y
  | false, true => pick x
  | false, false => if isMax then (if numLt true x y then pick y else pick x)
    else (if numLt true y x then pick y else pick x)

/-- Whole square root by bits, highest first: `i` bits are left. -/
def isqrtBits (n : Nat) : Nat → Nat → Nat
  | 0, r => r
  | i + 1, r => if (r + 2 ^ i) * (r + 2 ^ i) ≤ n then isqrtBits n i (r + 2 ^ i) else isqrtBits n i r

/-- The whole square root. -/
def isqrt (n : Nat) : Nat := isqrtBits n (Nat.log2 n / 2 + 1) 0

/-- √x (R98). -/
def Fmt.sqrt (f : Fmt) (env : Env) (x : Num) : Elem :=
  match x with
  | .nan s => f.nanElem (if s then fNV else 0)
  | .inf true => f.nanElem fNV
  | .inf false => f.infElem env false 0
  | .fin neg m e =>
    if m = 0 then f.round env neg 0 0
    else if neg then f.nanElem fNV
    else
      let odd := e % 2 = 1
      let m1 := if odd then 2 * m else m
      let e1 := if odd then e - 1 else e
      let sh := f.mb + 62
      let n := m1 * 2 ^ (2 * sh)
      let r := isqrt n
      f.round env false r (e1 / 2 - sh) (decide (r * r ≠ n))

/-- 1 / √x (R98). -/
def Fmt.rsq (f : Fmt) (env : Env) (x : Num) : Elem :=
  match x with
  | .nan s => f.nanElem (if s then fNV else 0)
  | .inf true => f.nanElem fNV
  | .inf false => .plain 0
  | .fin neg m e =>
    if m = 0 then f.infElem env neg fDZ
    else if neg then f.nanElem fNV
    else
      let odd := e % 2 = 1
      let m1 := if odd then 2 * m else m
      let e1 := if odd then e - 1 else e
      let k := f.mb + 62 + Nat.log2 m1
      let n := 2 ^ (2 * k) / m1
      let r := isqrt n
      f.round env false r (-(e1 / 2) - k) (decide (r * r * m1 ≠ 2 ^ (2 * k)))

/-- 1 / x (R98). -/
def Fmt.rcp (f : Fmt) (env : Env) (x : Num) : Elem :=
  match x with
  | .nan s => f.nanElem (if s then fNV else 0)
  | .inf n => .plain (f.signed n 0)
  | .fin n m e => if m = 0 then f.infElem env n fDZ else f.div env (.fin false 1 0) (.fin n m e)

/-- A value rounded to a whole number under RND, and whether it changed (R59). -/
def roundInt (env : Env) (neg : Bool) (m : Nat) (e : Int) : Nat × Bool := roundAt env neg m e 0 false

/-- RNDI: an integral value of the same format (R59); an infinity is unchanged (IEEE 754-2019). -/
def Fmt.rndi (f : Fmt) (env : Env) (x : Num) : Elem :=
  match x with
  | .nan s => f.nanElem (if s then fNV else 0)
  | .inf n => f.infElem env n 0
  | .fin neg m e =>
    let r := roundInt env neg m e
    ⟨(f.round (env.withRnd 0) neg r.1 0).bits, (if r.2 then fNX else 0), true⟩

/-! ## Transcendental functions (R97, R98)

The exact value is bracketed in fixed point with 320 fraction bits, far inside the spacing of every format; which of
the two neighbours is delivered is the free value `Config.faithfulAway` (log entry 9). -/

/-- Fraction bits of the fixed point. -/
def fixBits : Nat := 320

/-- One in fixed point. -/
def fixOne : Nat := 2 ^ fixBits

/-- Σ t_k with t_{k+1} = t_k · z2 / 2^320, each term divided by 2k+1: the series of artanh. -/
def artanhSum (z2 : Nat) : Nat → Nat → Nat → Nat
  | 0, _, _ => 0
  | fuel + 1, k, t => t / (2 * k + 1) + artanhSum z2 fuel (k + 1) (t * z2 / fixOne)

/-- artanh of z (fixed point, z ≤ 1/3). -/
def artanhFix (z : Nat) : Nat := artanhSum (z * z / fixOne) 128 0 z

/-- ln 2 = 2 artanh(1/3). -/
def ln2Fix : Nat := 2 * artanhFix (fixOne / 3)

/-- arctan(1/n) by its series, terms with alternating signs. -/
def arctanInv (n : Nat) : Nat → Nat → Nat → Int
  | 0, _, _ => 0
  | fuel + 1, k, t => (if k % 2 = 0 then ((t / (2 * k + 1) : Nat) : Int) else -((t / (2 * k + 1) : Nat) : Int)) +
      arctanInv n fuel (k + 1) (t / (n * n))

/-- π by Machin's formula. -/
def piFix : Nat := (4 * (4 * arctanInv 5 80 0 (fixOne / 5) - arctanInv 239 40 0 (fixOne / 239))).toNat

/-- e^u for u in [0, 1): Taylor. -/
def expSum (u : Nat) : Nat → Nat → Nat → Nat
  | 0, _, _ => 0
  | fuel + 1, k, t => t + expSum u fuel (k + 1) (t * u / fixOne / (k + 1))

/-- Σ (-1)^k u^k / ((2k+1)! or (2k)!): the even series of sin(y)/y (`o` = 1) and cos y (`o` = 0) with u = y². -/
def trigSum (u o : Nat) : Nat → Nat → Nat → Int
  | 0, _, _ => 0
  | fuel + 1, k, t => (if k % 2 = 0 then (t : Int) else -(t : Int)) +
      trigSum u o fuel (k + 1) (t * u / fixOne / ((2 * k + 1 + o) * (2 * k + 2 + o)))

/-- m · 2^e in fixed point. -/
def toFix (m : Nat) (e : Int) : Nat :=
  if 0 ≤ e + fixBits then m * 2 ^ (e + fixBits).toNat else m >>> (-(e + fixBits)).toNat

/-- sin(π m 2^e) for a value in (0, 1/4], with relative precision: magnitude and exponent. -/
def sinPi (m : Nat) (e : Int) : Nat × Int :=
  let y := toFix m e * piFix / fixOne
  let c := min (trigSum (y * y / fixOne) 1 48 0 fixOne).toNat (fixOne - 1)
  (m * piFix * c, e - 2 * fixBits)

/-- cos(π m 2^e) for a value in (0, 1/4]. -/
def cosPi (m : Nat) (e : Int) : Nat × Int :=
  let y := toFix m e * piFix / fixOne
  (min (trigSum (y * y / fixOne) 0 48 0 fixOne).toNat (fixOne - 1), -fixBits)

/-- A faithful result from a magnitude that lies inside the bracket (R97); NX always. -/
def Fmt.faithful (f : Fmt) (env : Env) (away : Bool) (neg : Bool) (me : Nat × Int) : Elem :=
  let r := f.round { env with rnd := if away then 7 else 6 } neg me.1 me.2 true
  { r with flags := r.flags ||| fNX, drew := false }

/-- An exact result of a transcendental function. -/
def Fmt.exactElem (f : Fmt) (env : Env) (neg : Bool) (m : Nat) (e : Int) : Elem :=
  { f.round (env.withRnd 0) neg m e with drew := false }

/-- 2^x. -/
def Fmt.exp2 (f : Fmt) (env : Env) (away : Bool) (x : Num) : Elem :=
  match x with
  | .nan s => f.nanElem (if s then fNV else 0)
  | .inf true => .plain 0
  | .inf false => .plain (f.inf env false)
  | .fin neg m e =>
    if m = 0 then f.exactElem env false 1 0
    else
      let lim : Nat := 2 * f.bias + f.mb + 4
      let big : Bool := decide (14 ≤ e + (Nat.log2 m : Nat))
      if big then f.faithful env away false (1, if neg then -(lim : Int) else lim)
      else
        let whole : Int := if 0 ≤ e then (m * 2 ^ e.toNat : Nat) else (m >>> (-e).toNat : Nat)
        let exact := decide (0 ≤ e) || decide (m % 2 ^ (-e).toNat = 0)
        if exact then
          let n : Int := if neg then -whole else whole
          let r := f.exactElem env false 1 n
          if (1 - (f.bias : Int) - f.mb) ≤ n && n ≤ f.bias then r else f.faithful env away false (1, n)
        else
          let tiny := decide (e + (Nat.log2 m : Nat) < -200)
          if tiny then
            if neg then f.faithful env away false (fixOne - 1, -fixBits) else f.faithful env away false (fixOne, -fixBits)
          else
            let fx := toFix m e % fixOne
            let n : Int := if neg then -whole - 1 else whole
            let fr := if neg then fixOne - fx else fx
            f.faithful env away false (expSum (fr * ln2Fix / fixOne) 96 0 fixOne, n - fixBits)

/-- log₂ x. -/
def Fmt.log2 (f : Fmt) (env : Env) (away : Bool) (x : Num) : Elem :=
  match x with
  | .nan s => f.nanElem (if s then fNV else 0)
  | .inf true => f.nanElem fNV
  | .inf false => .plain (f.inf env false)
  | .fin neg m e =>
    if m = 0 then ⟨f.inf env true, fDZ, false⟩
    else if neg then f.nanElem fNV
    else
      let b := Nat.log2 m
      let n : Int := e + b
      if m = 2 ^ b then f.exactElem env (decide (n < 0)) n.natAbs 0
      else
        let y := m * 2 ^ (fixBits - b)
        let l := artanhFix ((y - fixOne) * fixOne / (y + fixOne)) * fixOne / artanhFix (fixOne / 3)
        let v : Int := n * fixOne + l
        f.faithful env away (decide (v < 0)) (if v < 0 then v.natAbs - 1 else v.natAbs, -fixBits)

/-- Bits [1:0] of ⌊2 · |x|⌋ and the rest of 2·|x| below it, as a magnitude at exponent `e`. -/
def halves (m : Nat) (e : Int) : Nat × Nat × Int :=
  if 0 ≤ e + 1 then ((m * 2 ^ (e + 1).toNat) % 4, 0, 0)
  else
    let sh := (-(e + 1)).toNat
    ((m >>> sh) % 4, m % 2 ^ sh, e)

/-- sin of π times a value in (0, 1/2) given as m · 2^e. -/
def sinHalf (m : Nat) (e : Int) : Nat × Int :=
  if m * 4 ≤ 2 ^ (-e).toNat then sinPi m e else cosPi (2 ^ ((-e).toNat - 1) - m) e

/-- cos of π times a value in (0, 1/2). -/
def cosHalf (m : Nat) (e : Int) : Nat × Int :=
  if m * 4 ≤ 2 ^ (-e).toNat then cosPi m e else sinPi (2 ^ ((-e).toNat - 1) - m) e

/-- sin(πx). -/
def Fmt.sinp (f : Fmt) (env : Env) (away : Bool) (x : Num) : Elem :=
  match x with
  | .nan s => f.nanElem (if s then fNV else 0)
  | .inf _ => f.nanElem fNV
  | .fin neg m e =>
    if m = 0 then f.exactElem env neg 0 0
    else
      let h := halves m e
      if h.2.1 = 0 then
        if h.1 % 2 = 0 then f.exactElem env false 0 0 else f.exactElem env (neg != decide (h.1 = 3)) 1 0
      else
        let me := if h.1 % 2 = 0 then sinHalf h.2.1 h.2.2 else cosHalf h.2.1 h.2.2
        f.faithful env away (neg != decide (2 ≤ h.1)) me

/-- cos(πx). -/
def Fmt.cosp (f : Fmt) (env : Env) (away : Bool) (x : Num) : Elem :=
  match x with
  | .nan s => f.nanElem (if s then fNV else 0)
  | .inf _ => f.nanElem fNV
  | .fin _ m e =>
    if m = 0 then f.exactElem env false 1 0
    else
      let h := halves m e
      if h.2.1 = 0 then
        if h.1 % 2 = 1 then f.exactElem env false 0 0 else f.exactElem env (decide (h.1 = 2)) 1 0
      else
        let me := if h.1 % 2 = 0 then cosHalf h.2.1 h.2.2 else sinHalf h.2.1 h.2.2
        f.faithful env away (decide (h.1 = 1 ∨ h.1 = 2)) me

/-! ## TYPEs (R28, R46) -/

/-- The floating-point format of a TYPE, if it is one. -/
def typeFmt (ty : Nat) : Option Fmt :=
  match ty with
  | 4 => some binary32
  | 5 => some binary64
  | 6 => some binary16
  | 7 => some bfloat16
  | _ => none

/-- Bits of an element. -/
def typeWidth (ty : Nat) : Nat :=
  if ty ≤ 1 || ty == 4 then 32 else if wide ty then 64 else if ty ≤ 9 then 16 else 8

/-- Elements of an operand. -/
def typeCount (ty : Nat) : Nat := if ty ≤ 5 then 1 else if ty ≤ 9 then 2 else 4

/-- Signed integer TYPEs. -/
def typeSigned (ty : Nat) : Bool := ty == 0 || ty == 2 || ty == 8 || ty == 10

/-- Element `e` of an operand (R46). -/
def elemOf (ty : Nat) (x : Nat) (e : Nat) : Nat := bits x (typeWidth ty * e) (typeWidth ty)

/-- Two's complement value of `w` bits. -/
def toInt (w : Nat) (signed : Bool) (x : Nat) : Int :=
  if signed && decide (2 ^ (w - 1) ≤ x) then (x : Int) - 2 ^ w else x

/-- The bits of an integer modulo 2^w. -/
def wrapInt (w : Nat) (v : Int) : Nat := (v % (2 ^ w : Int)).toNat

/-- The least value of an integer type. -/
def intMin (w : Nat) (signed : Bool) : Int := if signed then -(2 ^ (w - 1)) else 0

/-- The greatest value of an integer type. -/
def intMax (w : Nat) (signed : Bool) : Int := if signed then 2 ^ (w - 1) - 1 else 2 ^ w - 1

/-- A value clamped to the range of an integer type. -/
def clampInt (w : Nat) (signed : Bool) (v : Int) : Int := max (intMin w signed) (min (intMax w signed) v)

/-- An integer result: wrapped, or clamped with SAT (R56). -/
def intResult (w : Nat) (signed sat : Bool) (v : Int) : Nat :=
  wrapInt w (if sat then clampInt w signed v else v)

/-! ## Integer arithmetic (R57, R95, R96, R99) -/

/-- Integer DIV (R57). -/
def intDiv (w : Nat) (signed sat : Bool) (x y : Int) : Nat :=
  if y = 0 then 2 ^ w - 1 else intResult w signed sat (x.tdiv y)

/-- Integer REM (R57). -/
def intRem (w : Nat) (x y : Int) : Nat := if y = 0 then wrapInt w x else wrapInt w (x.tmod y)

/-- SHL, per element (R99). -/
def shlElem (w : Nat) (signed sat : Bool) (x n : Nat) : Nat :=
  if n < w then
    if sat then wrapInt w (clampInt w signed (toInt w signed x * 2 ^ n)) else (x <<< n) % 2 ^ w
  else if sat && decide (x ≠ 0) then
    wrapInt w (if toInt w signed x < 0 then intMin w signed else intMax w signed)
  else 0

/-- SHR, per element (R99). -/
def shrElem (w x n : Nat) : Nat := if n < w then x >>> n else 0

/-- SRA, per element: copies of bit w − 1 come in, for signed and unsigned TYPEs alike (R99). -/
def sraElem (w x n : Nat) : Nat :=
  wrapInt w (toInt w true x / 2 ^ (min n w))

/-- Leading zero bits of `w` bits. -/
def clzElem (w x : Nat) : Nat := if x = 0 then w else w - 1 - Nat.log2 x

/-- One bits. -/
def popElem (w x : Nat) : Nat := ((List.range w).filter (fun i => x.testBit i)).length

/-! ## Binary and unary operations on one element -/

/-- The operations that combine two elements (R95). -/
inductive BinOp where
  | add | sub | mul | mulh | div | rem | min | max
deriving DecidableEq, Repr

/-- One integer element. -/
def intBin (op : BinOp) (w : Nat) (signed sat : Bool) (x y : Nat) : Nat :=
  let a := toInt w signed x
  let b := toInt w signed y
  match op with
  | .add => intResult w signed sat (a + b)
  | .sub => intResult w signed sat (a - b)
  | .mul => intResult w signed sat (a * b)
  | .mulh => wrapInt w (a * b / 2 ^ w)
  | .div => intDiv w signed sat a b
  | .rem => intRem w a b
  | .min => if a ≤ b then x else y
  | .max => if b ≤ a then x else y

/-- One floating-point element; both operands under FTZ (R55). -/
def fltBin (op : BinOp) (f : Fmt) (env : Env) (x y : Nat) : Elem :=
  let a := f.input env.ftz x
  let b := f.input env.ftz y
  match op with
  | .add => f.add env a b
  | .sub => f.add env a b.flip
  | .mul => f.mul env a b
  | .mulh => .plain 0
  | .div => f.div env a b
  | .rem => f.rem env a b
  | .min => f.minmax env false a b
  | .max => f.minmax env true a b

/-- One element of a two-operand instruction. -/
def binElem (op : BinOp) (ty : Nat) (env : Env) (x y : Nat) : Elem :=
  match typeFmt ty with
  | some f => fltBin op f env x y
  | none => .plain (intBin op (typeWidth ty) (typeSigned ty) env.sat x y)

/-- One element of MAC: x × y + z (R95). -/
def macElem (ty : Nat) (env : Env) (x y z : Nat) : Elem :=
  let w := typeWidth ty
  let sg := typeSigned ty
  match typeFmt ty with
  | some f => f.fma env (f.input env.ftz x) (f.input env.ftz y) (f.input env.ftz z)
  | none => .plain (intResult w sg env.sat (toInt w sg x * toInt w sg y + toInt w sg z))

/-- The unary operations of R96 and R97. -/
inductive UnOp where
  | abs | neg | clz | popc | rndi | rcp | rsq | sqrt | exp2 | log2 | sinp | cosp
deriving DecidableEq, Repr

/-- The number by which the free neighbour of R97 is asked for. -/
def UnOp.code : UnOp → Nat
  | .exp2 => 0
  | .log2 => 1
  | .sinp => 2
  | .cosp => 3
  | _ => 4

/-- One floating-point element of a unary instruction. -/
def fltUn (op : UnOp) (f : Fmt) (env : Env) (x : Nat) : Elem :=
  let a := f.input env.ftz x
  let away := Config.faithfulAway op.code (f.eb * 64 + f.mb) x
  match op with
  | .abs => .plain (x % f.signBit)
  | .neg => .plain (f.signed (decide (x < f.signBit)) (x % f.signBit))
  | .clz => .plain 0
  | .popc => .plain 0
  | .rndi => f.rndi env a
  | .rcp => f.rcp env a
  | .rsq => f.rsq env a
  | .sqrt => f.sqrt env a
  | .exp2 => f.exp2 env away a
  | .log2 => f.log2 env away a
  | .sinp => f.sinp env away a
  | .cosp => f.cosp env away a

/-- One integer element of a unary instruction. -/
def intUn (op : UnOp) (w : Nat) (signed sat : Bool) (x : Nat) : Nat :=
  match op with
  | .abs => intResult w signed sat ((toInt w signed x).natAbs)
  | .neg => intResult w signed sat (-(toInt w signed x))
  | .clz => clzElem w x
  | .popc => popElem w x
  | _ => 0

/-- One element of a unary instruction. -/
def unElem (op : UnOp) (ty : Nat) (env : Env) (x : Nat) : Elem :=
  match typeFmt ty with
  | some f => fltUn op f env x
  | none => .plain (intUn op (typeWidth ty) (typeSigned ty) env.sat x)

/-! ## Draws (R52) and element sweeps (R47) -/

/-- The next state of a lane's generator, which is the draw. -/
def nextG (g : Word) : Word :=
  let g1 := g ^^^ (g <<< 13)
  let g2 := g1 ^^^ (g1 >>> 17)
  g2 ^^^ (g2 <<< 5)

/-- The seed of lane `l` of team `t` in workgroup `w` (R52). -/
def seedG (seed : Word) (w t l : Nat) : Word :=
  let g := seed ^^^ BitVec.ofNat 32 ((w * 32768 + t * 1024 + l + 1) * 0x9E3779B9)
  if g = 0 then 0x6D2B79F5 else g

/-- A lane's result: bits, flags, generator. -/
structure LaneRes where
  bits : Nat
  flags : Nat
  g : Word
deriving DecidableEq, Repr

/-- The elements of a list of operations, element `e` of width `w` shifted into place, each taking its draw from the
generator in ascending order. -/
def sweep (env : Env) (w : Nat) : List (Env → Elem) → Nat → LaneRes → LaneRes
  | [], _, r => r
  | op :: ops, e, r =>
    let next := nextG r.g
    let x := op { env with g := next }
    sweep env w ops (e + 1)
      ⟨r.bits + x.bits * 2 ^ (w * e), r.flags ||| x.flags, if env.rnd == 5 && x.drew then next else r.g⟩

/-- Every element of an operand of a TYPE. -/
def sweepType (ty : Nat) (env : Env) (g : Word) (op : Nat → Env → Elem) : LaneRes :=
  sweep env (typeWidth ty) ((List.range (typeCount ty)).map op) 0 ⟨0, 0, g⟩

/-! ## Compares (R103) -/

/-- The relations. -/
inductive Rel where
  | eq | ne | lt | le | un
deriving DecidableEq, Repr

/-- A compare of two data, and NV. -/
def relNum (r : Rel) (x y : Num) : Bool × Nat :=
  if x.isNan || y.isNan then
    ((r == .ne || r == .un), if r == .lt || r == .le then fNV else snanFlag [x, y])
  else
    match r with
    | .eq => (!numLt false x y && !numLt false y x, 0)
    | .ne => (numLt false x y || numLt false y x, 0)
    | .lt => (numLt false x y, 0)
    | .le => (!numLt false y x, 0)
    | .un => (false, 0)

/-- A compare of two integers. -/
def relInt (r : Rel) (a b : Int) : Bool :=
  match r with
  | .eq => decide (a = b)
  | .ne => decide (a ≠ b)
  | .lt => decide (a < b)
  | .le => decide (a ≤ b)
  | .un => false

/-- A compare under a TYPE. -/
def relType (r : Rel) (ty : Nat) (ftz : Bool) (x y : Nat) : Bool × Nat :=
  match typeFmt ty with
  | some f => relNum r (f.input ftz x) (f.input ftz y)
  | none => (relInt r (toInt (typeWidth ty) (typeSigned ty) x) (toInt (typeWidth ty) (typeSigned ty) y), 0)

/-! ## Conversions (R59, R102) -/

/-- The group of a TYPE for CVT: single, pairs, quads. -/
def typeGroup (ty : Nat) : Nat := if ty ≤ 5 then 0 else if ty ≤ 9 then 1 else 2

/-- A float to an integer: rounded, then clamped; clamping or NaN raises NV (R59). -/
def toIntElem (env : Env) (w : Nat) (signed : Bool) (x : Num) : Elem :=
  match x with
  | .nan _ => ⟨0, fNV, true⟩
  | .inf neg => ⟨wrapInt w (if neg then intMin w signed else intMax w signed), fNV, true⟩
  | .fin neg m e =>
    let r := roundInt env neg m e
    let v : Int := if neg then -(r.1 : Int) else r.1
    if v = clampInt w signed v then ⟨wrapInt w v, (if r.2 then fNX else 0), true⟩
    else ⟨wrapInt w (clampInt w signed v), fNV, true⟩

/-- One element of CVT. Equal types change only a NaN and, under FTZ, a subnormal (R102). -/
def cvtElem (src dst : Nat) (env : Env) (x : Nat) : Elem :=
  match typeFmt src, typeFmt dst with
  | some f, some g =>
    let a := f.input env.ftz x
    if src = dst then
      match a with
      | .nan s => g.nanElem (if s then fNV else 0)
      | .inf _ => .plain x
      | .fin neg m _ => if m = 0 then ⟨g.signed neg 0, 0, true⟩ else ⟨x, 0, true⟩
    else g.deliver env a (snanFlag [a])
  | some f, none => toIntElem env (typeWidth dst) (typeSigned dst) (f.input env.ftz x)
  | none, some g =>
    let v := toInt (typeWidth src) (typeSigned src) x
    g.round env (decide (v < 0)) v.natAbs 0
  | none, none =>
    ⟨intResult (typeWidth dst) (typeSigned dst) env.sat (toInt (typeWidth src) (typeSigned src) x), 0, true⟩

/-! ## Packed narrow formats (R48, R60–R62, R106) -/

/-- The narrow formats of PACK and UNPK. -/
inductive Narrow where
  | qn4 | f4 | e4m3 | e5m2 | i8 | bf | h
deriving DecidableEq, Repr

/-- Bits of a narrow element. -/
def Narrow.width : Narrow → Nat
  | .qn4 | .f4 => 4
  | .e4m3 | .e5m2 | .i8 => 8
  | .bf | .h => 16

/-- Elements of a packed register. -/
def Narrow.count (n : Narrow) : Nat := 32 / n.width

/-- Level i of the QN4 codebook, × 1,024 (R48). -/
def qn4Level (i : Nat) : Nat := [43, 130, 221, 318, 427, 555, 725, 1024].getD i 0

/-- The value of a QN4 code (R48). -/
def qn4Num (c : Nat) : Num := if 8 ≤ c then .fin false (qn4Level (c - 8)) (-10) else .fin true (qn4Level (7 - c)) (-10)

/-- The exact value of a narrow element; FTZ reaches only BF and H (R62). -/
def Narrow.num (n : Narrow) (ftz : Bool) (x : Nat) : Num :=
  match n with
  | .qn4 => qn4Num x
  | .f4 => e2m1.unpack x
  | .e4m3 => Machine.e4m3.unpack x
  | .e5m2 => Machine.e5m2.unpack x
  | .i8 => let v := toInt 8 true x; .fin (decide (v < 0)) v.natAbs 0
  | .bf => bfloat16.input ftz x
  | .h => binary16.input ftz x

/-- One element of UNPK (R62). -/
def unpkElem (n : Narrow) (f : Fmt) (env : Env) (x scale : Nat) : Elem :=
  f.mul env (n.num env.ftz x) (binary32.input env.ftz scale)

/-- Whether m · 2^e exceeds k / 2. -/
def aboveHalf (m : Nat) (e : Int) (k : Nat) : Bool :=
  let lo := min e (-1)
  decide (k * 2 ^ ((-1) - lo).toNat < m * 2 ^ (e - lo).toNat)

/-- The level that PACK.QN4 chooses for |y| × 1,024: midpoints doubled, a tie to the smaller magnitude (R61). -/
def qn4Index (m : Nat) (e : Int) : Nat :=
  ([173, 351, 539, 745, 982, 1280, 1749].filter (fun b => aboveHalf m (e + 10) b)).length

/-- PACK.QN4 (R61). -/
def packQn4 (y : Num) : Elem :=
  match y with
  | .nan _ => ⟨8, fNV, false⟩
  | .inf neg => ⟨if neg then 0 else 15, fOF + fNX, false⟩
  | .fin neg m e =>
    if m = 0 then .plain 8
    else
      let i := qn4Index m e
      let below := !aboveHalf m (e + 10) (2 * qn4Level i)
      let exact := below && aboveHalf m (e + 10) (2 * qn4Level i - 1) &&
        (decide (0 ≤ e + 10) || decide (m % 2 ^ (-(e + 10)).toNat = 0))
      let beyond := aboveHalf m (e + 10) 2048
      ⟨if neg then 7 - i else 8 + i, (if beyond then fOF + fNX else if exact then 0 else fNX), false⟩

/-- A directed mode toward zero for a sign (R60). -/
def Env.towardZero (env : Env) (neg : Bool) : Bool :=
  env.rnd == 1 || (env.rnd == 2 && !neg) || (env.rnd == 3 && neg)

/-- One element of PACK: the exact product converted (R60). An infinite product in a format with infinities is exact: it stays
infinite with no flag and no draw (R52), and is the largest finite value only with SAT (R55). -/
def packElem (n : Narrow) (env : Env) (x : Num) (scale : Nat) : Elem :=
  let p := mulNum x (binary32.input env.ftz scale)
  match n with
  | .qn4 => packQn4 p.1
  | .i8 => toIntElem env 8 true p.1
  | .h => binary16.deliver env p.1 p.2
  | .bf => bfloat16.deliver env p.1 p.2
  | .e5m2 => Machine.e5m2.deliver env p.1 p.2
  | .e4m3 =>
    match p.1 with
    | .nan _ => Machine.e4m3.nanElem p.2
    | .inf neg =>
      ⟨Machine.e4m3.signed neg (if env.sat || env.rnd == 5 || env.towardZero neg then 0x7E else 0x7F), fOF + fNX, true⟩
    | .fin neg m e => Machine.e4m3.round env neg m e
  | .f4 =>
    match p.1 with
    | .nan _ => ⟨0, fNV, true⟩
    | .inf neg => ⟨e2m1.signed neg 7, fOF + fNX, true⟩
    | .fin neg m e => e2m1.round env neg m e

end Sys2Proof.Machine
end

