-- ==== Sys2Proof/Machine/Memory.lean ====
section
/-! DEFINITION. Memory as the device's parties see it: what a core observes (R135, R137, R192), performing a write and
what it reaches (R157, R270), observation points (R159), windows and translation (R129–R132, R356–R363). -/

namespace Sys2Proof.Machine

/-! ## Traps by name (R36) -/

/-- A trap with sub-code 0 and no argument. -/
def Trap.of (code : Nat) : Trap := ⟨code, 0, 0⟩
/-- ILLEGAL. -/
def tILLEGAL : Trap := .of 1
/-- OPERAND. -/
def tOPERAND : Trap := .of 2
/-- ALIGN. -/
def tALIGN : Trap := .of 3
/-- PAGE with a sub-code (R365). -/
def tPAGE (sub : Nat) : Trap := ⟨4, sub, 0⟩
/-- ACCESS with a sub-code (R450). -/
def tACCESS (sub : Nat) : Trap := ⟨5, sub, 0⟩
/-- BARCLOB. -/
def tBARCLOB : Trap := .of 6
/-- BARGEN with a batch number. -/
def tBARGEN (n : Nat) : Trap := ⟨7, 0, BitVec.ofNat 24 n⟩
/-- BAROVER with a batch number, 0 for a team's arrival. -/
def tBAROVER (n : Nat) : Trap := ⟨8, 0, BitVec.ofNat 24 n⟩
/-- COPYERR with a batch number. -/
def tCOPYERR (n : Nat) : Trap := ⟨9, 0, BitVec.ofNat 24 n⟩
/-- FORKQ. -/
def tFORKQ : Trap := .of 10
/-- PAIRTMO. -/
def tPAIRTMO : Trap := .of 11
/-- XCHTMO. -/
def tXCHTMO : Trap := .of 12
/-- REGION. -/
def tREGION : Trap := .of 13
/-- HANKGONE with the member. -/
def tHANKGONE (m : Nat) : Trap := ⟨14, 0, BitVec.ofNat 24 m⟩
/-- MIXSIZE. -/
def tMIXSIZE : Trap := .of 15
/-- HAZARD. -/
def tHAZARD : Trap := .of 16
/-- EXPIRED. -/
def tEXPIRED : Trap := .of 17
/-- FPE with the exceptions raised. -/
def tFPE (flags : Nat) : Trap := ⟨18, 0, BitVec.ofNat 24 flags⟩
/-- TRAPI with the argument. -/
def tTRAPI (arg : Word) : Trap := ⟨19, 0, arg.extractLsb' 0 24⟩
/-- BRK: 0 instruction, 1 step, 2 focus. -/
def tBRK (sub : Nat) : Trap := ⟨20, sub, 0⟩
/-- MCHK: 0 register, 1 memory, 2 residue, 3 matrix. -/
def tMCHK (sub : Nat) : Trap := ⟨21, sub, 0⟩
/-- SPILLFULL. -/
def tSPILLFULL : Trap := .of 22

/-- The trap with the lowest code; the first of equals (R36). -/
def lowestTrap : List Trap → Option Trap
  | [] => none
  | t :: ts =>
    match lowestTrap ts with
    | none => some t
    | some u => if u.code < t.code then some u else some t

/-! ## Windows of the local aperture (R131) -/

/-- What an access needs: R358's permissions, and whether it is an atomic or reduction, a binding, or one that returns
nothing (R445). -/
structure Need where
  r : Bool
  w : Bool
  atomic : Bool
  bind : Bool
  posted : Bool
deriving DecidableEq, Repr

/-- Loads. -/
def Need.load : Need := ⟨true, false, false, false, false⟩
/-- Stores. -/
def Need.store : Need := ⟨false, true, false, false, false⟩
/-- Atomics. -/
def Need.rmw : Need := ⟨true, true, true, false, false⟩
/-- Reductions at memory, which return nothing. -/
def Need.red : Need := { Need.rmw with posted := true }
/-- Bind loads. -/
def Need.binding : Need := ⟨true, false, false, true, false⟩

/-- Where the local part of an address leads: to a store, or to a virtual address to translate. -/
inductive Pre where
  | direct (space : Space) (loc : Nat)
  | virtual (va : DWord)
deriving DecidableEq, Repr

/-- The base of the local aperture (R131). -/
def apertureBase : Nat := 0xFFFFF00000000000

/-- Whether an address lies in the local aperture. -/
def inAperture (va : DWord) : Bool := decide (apertureBase ≤ va.toNat)

/-- Whether an address is canonical (R130). -/
def canonical (va : DWord) : Bool := decide (va.extractLsb' 57 7 = 0 ∧ va.getLsbD 56 = false) ||
  decide (va.extractLsb' 57 7 = 127 ∧ va.getLsbD 56 = true)

/-- Enabled slices of a die, ascending (R333). -/
def State.diesSlices (s : State) (d : Nat) : List Nat := (List.range 16).filter (fun j => s.sliceOn d j)

/-- Whether the workgroup may use cluster memory: a CLM class, and the cluster held by its context (R317). -/
def State.clusterOpen (s : State) (w : Wg) : Bool :=
  w.clm && decide (alook s.claims (clusterOf w.core) = some w.ctx)

/-- The location of a lane-backing byte's virtual address (R359). -/
def backingVa (lbase : DWord) (slot lane off : Nat) : DWord :=
  lbase + BitVec.ofNat 64 ((slot * 1024 + lane) * 0x1000000 + off)

/-- An offset of the hank window (R437). -/
def State.hankPlace (s : State) (t : Team) (w : Wg) (off size : Nat) : Except Trap Pre :=
  match w.hank with
  | none => .error (tACCESS 1)
  | some h =>
    let m := off / 0x1000000
    let o := off % 0x1000000
    if h.size ≤ m || h.hexp < o + size || !(m == h.member || t.attached.contains m) then .error (tACCESS 1)
    else if h.devices.getD m s.fab.dev == s.fab.dev && !h.departed.contains m then
      match (h.wgs.getD m none) with
      | some u => .ok (.direct .store (locScratch u o))
      | none => .ok (.direct (.member m) (locMember w.uid m o))
    else .ok (.direct (.member m) (locMember w.uid m o))

/-- Stage 1 of an address (R140): alignment, then the window's allotment. -/
def State.stage1 (s : State) (t : Team) (lane : Nat) (va : DWord) (size : Nat) (need : Need) : Except Trap Pre :=
  if va.toNat % size ≠ 0 then .error tALIGN
  else if !inAperture va then .ok (.virtual va)
  else
    match s.wg? t.wg with
    | none => .error (tACCESS 1)
    | some w =>
      let win := (va.toNat - apertureBase) / 2 ^ 40
      let off := (va.toNat - apertureBase) % 2 ^ 40
      match win with
      | 0 =>
        if 0x1000000 ≤ off then .error (tACCESS 1)
        else if off < t.slice then .ok (.direct .store (locSlice t.uid lane off))
        else .ok (.virtual (backingVa (s.ctx w.ctx).lbase t.slot lane off))
      | 1 => if off + size ≤ w.scratch then .ok (.direct .store (locScratch w.uid off)) else .error (tACCESS 1)
      | 2 =>
        if 0x200000 ≤ off then .error (tACCESS 1)
        else
          let core := 8 * clusterOf w.core + off / 0x40000
          if !s.coreOn core then .error (tACCESS 1)
          else if !s.clusterOpen w then .error (tACCESS 3)
          else .ok (.direct .store (locSegment core (off % 0x40000)))
      | 3 =>
        let d := off / 2 ^ 32
        let o := off % 2 ^ 32
        if 4 ≤ d then .error (tACCESS 1)
        else if (s.die d).holder ≠ some w.ctx || w.smax == 0 then .error (tACCESS 3)
        else if (s.diesSlices d).length * (s.die d).smax * 0x80000 < o + size then .error (tACCESS 1)
        else .ok (.direct .chip (locChip d o))
      | 4 =>
        if need.atomic || need.bind then .error (tACCESS 1)
        else if w.records.any (fun r => r.live && decide (r.base ≤ off) && decide (off + size ≤ r.base + r.size)) then
          .ok (.direct .opBuf (locBuffer w.core off))
        else .error (tACCESS 1)
      | 5 => s.hankPlace t w off size
      | _ => .error (tACCESS 1)

/-! ## Translation (R356–R363) -/

/-- Enabled HBM channels (R373). -/
def State.channels (s : State) : Nat := ((List.range 256).filter (fun i => s.svc.presence.hbmch.getLsbD i)).length

/-- Whether `size` bytes from a physical address are backed (R373). -/
def State.backed (s : State) (pa size : Nat) : Bool :=
  let top := pa + size
  if pa < 0xC000000000 then decide (top ≤ s.channels * 0xC0000000) && decide (top ≤ 0xC000000000)
  else if 0x10000000000 ≤ pa && pa < 0x30000000000 then
    let p := (pa - 0x10000000000) / 0x8000000000
    let off := (pa - 0x10000000000) % 0x8000000000
    s.svc.presence.tier.getLsbD p && decide (off + size ≤ tget 0 s.tierSize p)
  else if 0x800000000000 ≤ pa then
    let p := (pa - 0x800000000000) / 0x400000000000
    let off := (pa - 0x800000000000) % 0x400000000000
    s.svc.presence.hport.getLsbD p && decide (off + size ≤ tget 0 s.hostSize p)
  else false

/-- Whether a physical address is host memory (R373). -/
def isHostPa (pa : Nat) : Bool := decide (0x800000000000 ≤ pa)

/-- Whether a physical address is second-tier memory (R373). -/
def isTierPa (pa : Nat) : Bool := decide (0x10000000000 ≤ pa) && decide (pa < 0x30000000000)

/-- A translation: the leaf, its level, the address of the entry. -/
structure Walk where
  leaf : DWord
  level : Nat
  entry : Nat
deriving DecidableEq, Repr

/-- The bytes that a leaf of a level maps; 64 KiB for a level-3 leaf with C (R356). -/
def pageBytes (leaf : DWord) (level : Nat) : Nat :=
  match level with
  | 1 => 2 ^ 30
  | 2 => 2 ^ 21
  | _ => if leaf.getLsbD 8 then 2 ^ 16 else 2 ^ 12

/-- PA field of an entry, as an address. -/
def entryPa (e : DWord) : Nat := (e.extractLsb' 12 36).toNat * 4096

/-- Bits of an entry other than PA[15:12], A and D, in which a C group agrees (R357). -/
def groupBits (e : DWord) : DWord := e &&& ~~~ (0xF0C0 : DWord)

/-- Whether an entry of a level is bad (R357, R362, R373). -/
def State.badEntry (s : State) (e : DWord) (level at_ : Nat) : Bool :=
  let leaf := e.getLsbD 1
  decide (e &&& 0xFE0F000000000820 ≠ 0) || (level == 0 && leaf) || (level == 3 && !leaf) ||
    (e.getLsbD 8 && !(leaf && level == 3)) ||
    (leaf && level == 1 && decide (entryPa e % 2 ^ 30 ≠ 0)) ||
    (leaf && level == 2 && decide (entryPa e % 2 ^ 21 ≠ 0)) ||
    (leaf && level == 3 && e.getLsbD 8 && !((List.range 16).all (fun i =>
      decide (groupBits (BitVec.ofNat 64 (cellNat s.mem (at_ / 128 * 128 + 8 * i) 8)) = groupBits e)))) ||
    (leaf && !e.getLsbD 56 &&
      (let pa := if e.getLsbD 8 then entryPa e / 2 ^ 16 * 2 ^ 16 else entryPa e
       let m := (e.extractLsb' 9 2).toNat
       !s.backed pa (pageBytes e level) || (m == 2 && (isTierPa pa || isHostPa pa)) || (m != 3 && isHostPa pa)))

/-- The index of an address at a level (R356). -/
def levelIndex (va : DWord) (level : Nat) : Nat :=
  match level with
  | 0 => (va.extractLsb' 39 18).toNat
  | 1 => (va.extractLsb' 30 9).toNat
  | 2 => (va.extractLsb' 21 9).toNat
  | _ => (va.extractLsb' 12 9).toNat

/-- The table walk from a level; `left` counts the levels below. A fault is PAGE's sub-code. -/
def State.walkFrom (s : State) (va : DWord) : Nat → Nat → Nat → Except Nat Walk
  | left, level, table =>
    let at_ := table + 8 * levelIndex va level
    let e := BitVec.ofNat 64 (cellNat s.mem at_ 8)
    if !e.getLsbD 0 then .error 0
    else if s.badEntry e level at_ then .error 3
    else if e.getLsbD 1 then .ok ⟨e, level, at_⟩
    else
      match left with
      | 0 => .error 3
      | n + 1 => s.walkFrom va n (level + 1) (entryPa e)

/-- The walk of a context's tables (R356). -/
def State.walk (s : State) (c : Nat) (va : DWord) : Except Nat Walk :=
  s.walkFrom va 3 0 ((s.ctx c).ptroot.extractLsb' 0 48).toNat

/-- Whether the context's page faults are host-assisted: row 1 of the duty-split table (R362, R407). -/
def Context.assistWalk (c : Context) : Bool := c.assist.getLsbD 1

/-- A cached translation of an address (R360). -/
def State.tlbEntry (s : State) (c : Nat) (va : DWord) : Option TlbEntry :=
  s.tlb.find? (fun t => t.ctx == c &&
    decide (va.toNat % 2 ^ 57 / pageBytes t.leaf t.level = t.page * 4096 / pageBytes t.leaf t.level))

/-- The physical place of an address under a leaf, and the byte within its page. -/
def leafPa (leaf : DWord) (level : Nat) (va : DWord) : Nat :=
  let n := pageBytes leaf level
  entryPa leaf / n * n + va.toNat % n

/-- The space of a leaf (R357): a peer's memory, or the region mode. -/
def leafSpace (leaf : DWord) : Space :=
  if leaf.getLsbD 56 then .peer (leaf.extractLsb' 52 4).toNat (decide (leaf.extractLsb' 9 2 = 2))
  else
    match (leaf.extractLsb' 9 2).toNat with
    | 0 => .hardware
    | 1 => .software
    | 2 => .memSide
    | _ => .handover

/-- The location of a leaf's bytes. -/
def leafLoc (leaf : DWord) (level : Nat) (va : DWord) : Nat :=
  if leaf.getLsbD 56 then locPeer (leaf.extractLsb' 52 4).toNat (leafPa leaf level va) else leafPa leaf level va

/-- The outcome of stage 2 for one address. -/
inductive Site where
  | at_ (space : Space) (loc : Nat)
  | gone (t : Trap)                       -- a fault that service does not handle
  | miss (t : Trap) (page : Nat)          -- a translation fault (R362)
deriving DecidableEq, Repr

/-! ## Where a byte stands -/

/-- Where a byte of a place stands. A lane's slice ends at the role's slice size: the bytes of an access that runs over its end
stand in lane backing (R72, R193, R359). -/
def State.storePlace (s : State) (loc : Nat) : Nat :=
  if locKind loc ≠ 2 then loc
  else
    match s.team? (locId loc) with
    | none => loc
    | some t =>
      let off := locOff loc % 2048
      if off < t.slice then loc
      else
        let c := ((s.wg? t.wg).map Wg.ctx).getD 0
        let va := backingVa (s.ctx c).lbase t.slot (locOff loc / 2048) off
        match s.tlbEntry c va, s.walk c va with
        | some e, _ => leafLoc e.leaf e.level va
        | none, .ok w => leafLoc w.leaf w.level va
        | none, .error _ => loc

/-- A byte of memory. -/
def State.memByte (s : State) (loc : Nat) : Byte := cellAt s.mem (s.storePlace loc)

/-- The value of `n` bytes of memory (R9). -/
def State.memNat (s : State) (loc n : Nat) : Nat := leNat ((List.range n).map (fun i => s.memByte (loc + i)))

/-! ## What a core observes -/

/-- Whether the parties of a core read an entry of its store path (R137): its own team always; the others once nothing
holds it back (R146, R150). -/
def StoreEntry.seenBy (e : StoreEntry) (c u : Nat) : Bool := e.core == c && (decide (e.hold = []) || e.tag.team == u)

/-- The store bytes that team `u` of core `c` reads before they are performed, oldest first: those of the core's store path
(R192). -/
def State.overlay (s : State) (c u : Nat) : List Host.Cell :=
  (s.path.filter (fun e => e.seenBy c u)).flatMap (fun e => e.cells)

/-- One byte as team `u` of core `c` observes it. -/
def State.seenByte (s : State) (c u loc : Nat) : Byte :=
  (coverByte (s.overlay c u) loc).getD (s.memByte loc)

/-- `n` bytes as a team of a core observes them, lowest first. -/
def State.seenBytes (s : State) (c u loc n : Nat) : List Byte := (List.range n).map (fun i => s.seenByte c u (loc + i))

/-- Their value (R9). -/
def State.seenNat (s : State) (c u loc n : Nat) : Nat := leNat (s.seenBytes c u loc n)

/-- The L1 copy of a software-managed line, one lease old at most (R138, R336): `State.expire` drops it then. -/
def State.managedCopy (s : State) (c line : Nat) : Option Copy :=
  s.coh.copies.find? (fun k => k.agent == c && k.line == line && k.managed)

/-- A byte of a software-managed region, served from the core's copy where it holds one (R138). -/
def State.managedByte (s : State) (c u loc : Nat) : Byte :=
  match coverByte (s.overlay c u) loc, s.managedCopy c (lineOf loc) with
  | some b, _ => b
  | none, some k => (coverByte k.dirty loc).getD ((coverByte k.bytes loc).getD (cellAt s.mem loc))
  | none, none => cellAt s.mem loc

/-- Whether the device holds the handover region of a location (R381). -/
def State.deviceHolds (s : State) (loc : Nat) : Bool :=
  decide (tget Handover.device s.handover (loc / 2 ^ 21) = Handover.device)

/-- The value that a read of `n` bytes takes at a place, for team `u` of core `c`. Where the host holds a handover region the
value is not fixed (R383, log entry 5). -/
def State.readAt (s : State) (c u : Nat) (space : Space) (loc n : Nat) : Nat :=
  match space with
  | .software => leNat ((List.range n).map (fun i => s.managedByte c u (loc + i)))
  | .handover => if s.deviceHolds loc then s.seenNat c u loc n
    else leNat ((List.range n).map (fun i => Config.freeByte (s.fresh * 16 + i)))
  | _ => s.seenNat c u loc n

/-- Whether any granule of an access is poisoned (R198, R375). -/
def State.poisoned (s : State) (loc n : Nat) : Bool :=
  (List.range ((n + 7) / 8 + 1)).any (fun i =>
    decide (granuleOf loc + i ≤ granuleOf (loc + n - 1)) && s.poison.contains (granuleOf loc + i))

/-- Granules that cells cover whole: a store of all 8 bytes clears poison (R198). -/
def clearsPoison (cells : List Host.Cell) (g : Nat) : Bool :=
  (List.range 8).all (fun i => (coverByte cells (8 * g + i)).isSome)

/-- Whether a read of the running team meets poison: a granule that its view covers whole with writes still on their way is
clear to it (R137, R198, R375). -/
def State.poisonMet (s : State) (loc n : Nat) : Bool :=
  (List.range ((n + 7) / 8 + 1)).any (fun i =>
    let g := granuleOf loc + i
    decide (g ≤ granuleOf (loc + n - 1)) && s.poison.contains g && !clearsPoison (s.overlay s.curCore s.cur.uid) g)

/-! ## Performing a write -/

/-- Whether a write to some lines reaches a binding (R157): not its own, and not in a software-managed region, where
lease expiry decides (R166). `own` is the key of the binding that the write is made through. -/
def reaches (lines : List Nat) (team : Nat) (own : Option Nat) (t : Team) (e : Nat × Binding) : Bool :=
  lines.contains (lineOf e.2.loc) && decide (e.2.space ≠ .software) && !(t.uid == team && own == some e.1)

/-- PEND set by a change of the line. -/
def Binding.mark (b : Binding) (now : Nat) : Binding :=
  { b with pend := true, notice := false, since := now }

/-- Sets PEND on the bindings that a write reaches, spilled ones included (R157, R171, R180). -/
def markBindings (lines : List Nat) (team : Nat) (own : Option Nat) (t : Team) : Team :=
  { t with bindings := t.bindings.map (fun e => if reaches lines team own t e then (e.1, e.2.mark t.now) else e) }

/-- A write of a team of the same core has entered the store path: PEND on the bindings that it reaches, and a change notice
for the spilled ones of other teams, which the walker resolves (R137, R157, R171, R289). -/
def noticeBindings (lines : List Nat) (team : Nat) (own : Option Nat) (t : Team) : Team :=
  { t with bindings := t.bindings.map (fun e =>
      if reaches lines team own t e then
        (e.1, if e.2.spilled && !e.2.pend && t.uid != team then { e.2 with notice := true } else e.2.mark t.now)
      else e) }

/-- Change notices of some lines resolved: PEND (R171, R180). -/
def settleNotices (lines : List Nat) (t : Team) : Team :=
  { t with bindings := t.bindings.map (fun e =>
      if e.2.notice && lines.contains (lineOf e.2.loc) then (e.1, e.2.mark t.now) else e) }

/-- Whether a team waits for a change notice of a line. -/
def awaitsNotice (line : Nat) (t : Team) : Bool := t.bindings.any (fun e => e.2.notice && lineOf e.2.loc == line)

/-- Marks the read-set lines that a write reaches (R270). -/
def markRegions (lines : List Nat) (t : Team) : Team :=
  { t with region := t.region.map (fun e =>
      (e.1, { e.2 with lines := e.2.lines.map (fun l => if lines.contains l.1 then (l.1, true) else l) })) }

/-- The lines of a list of cells, each once. -/
def linesOf (cells : List Host.Cell) : List Nat := (cells.map (fun c => lineOf c.1)).eraseDups

/-- A write that is performed reaches the distributor's bindings of TAIL (R394) and every binding and read set: in the cores
of `skip` it has reached what it reaches before, and only notices that are still on their way are resolved (R157, R180,
R270). -/
def State.reach (s : State) (cells : List Host.Cell) (team : Nat) (own : Option Nat) (skip : List Nat) : State :=
  let lines := linesOf cells
  let s := { s with ctxs := s.ctxs.map (fun (e : Nat × Context) =>
    if (e.2.tail.map lineOf).any (fun l => lines.contains l) then (e.1, { e.2 with tailPend := true }) else e) }
  s.mapTeams (fun t => if skip.contains (s.teamCore t) then settleNotices lines t
    else markRegions lines (markBindings lines team own t))

/-- Writes cells into memory at their coherence point. -/
def State.writeMem (s : State) (cells : List Host.Cell) : State :=
  { s with mem := writeCells s.mem (cells.map (fun c => (s.storePlace c.1, c.2))), poison := s.poison.filter (fun g => !clearsPoison cells g) }

/-- Performs a write and lets it reach every core but those in `skip`. -/
def State.perform (s : State) (cells : List Host.Cell) (team : Nat) (own : Option Nat) (skip : List Nat) : State :=
  (s.writeMem cells).reach cells team own skip

/-- A write by the side that does not hold a handover region (R383): at memory, past the holder's caches, whose write-back may
overwrite each of its bytes; no binding is reached. -/
def State.writePast (s : State) (cells : List Host.Cell) : State :=
  (s.writeMem (cells.filter (fun c => !Config.overwritten s.fresh c.1))).draw

/-- Performs a write in a space. Where the host holds a handover region it is performed at memory and no change reaches a
binding (R383). -/
def State.performIn (s : State) (space : Space) (cells : List Host.Cell) (team : Nat) (own : Option Nat) (skip : List Nat) :
    State :=
  match space, cells with
  | .handover, c :: _ => if s.deviceHolds c.1 then s.perform cells team own skip else s.writePast cells
  | _, _ => s.perform cells team own skip

/-! ## Accesses on their way -/

/-- Whether bytes overlap a range. -/
def overlaps (a n b m : Nat) : Bool := decide (a < b + m) && decide (b < a + n)

/-- Whether an entry touches a range of bytes. -/
def StoreEntry.touches (e : StoreEntry) (loc size : Nat) : Bool :=
  match e.red with
  | some r => overlaps e.loc r.size loc size
  | none => e.cells.any (fun c => decide (loc ≤ c.1) && decide (c.1 < loc + size))

/-- The tags of the stores in an entry. -/
def StoreEntry.tags (e : StoreEntry) : List Tag := e.tag :: e.merged

/-- Whether a load reads memory when its data returns: not a control register, a barrier arrival or an accumulator. -/
def LoadKind.reads (k : LoadKind) : Bool :=
  match k with
  | .sprog => false
  | .mprog => false
  | .arrive _ => false
  | .acc _ _ => false
  | _ => true

/-- Whether a load is an atomic. -/
def LoadKind.rmw (k : LoadKind) : Bool :=
  match k with
  | .atomic _ _ _ _ => true
  | .bound _ _ _ _ _ => true
  | _ => false

/-! ## Observation points (R159) -/

/-- The bytes that a binding binds. -/
def Binding.size (b : Binding) : Nat := if b.size8 then 8 else 4

/-- Whether a write that a team has issued to bytes of one of its refresh bindings is still without a value: a reduction or an
atomic that is not performed. An observation point takes the team's own writes from their issue on, and waits for it (R289). -/
def State.ownUnknown (s : State) (t : Team) (b : Binding) : Bool :=
  !b.notify && (s.path.any (fun e => e.red.isSome && e.tag.team == t.uid && e.touches b.loc b.size) ||
    s.loads.any (fun l => l.kind.rmw && l.value.isNone && l.team == t.uid && overlaps l.loc l.size b.loc b.size) ||
    s.fab.txns.any (fun x => (x.op == 0x06 || x.op == 0x39) && x.line == lineOf b.loc && x.write.any (fun g => g.team == t.uid)))

/-- Whether a binding has a change whose bytes are not there yet, which an observation point waits for: of a peer's memory the proxy
does not hold the line (R159, R425), or a write that has notified the core is not performed (R180, R341). -/
def State.unseen (s : State) (t : Team) (b : Binding) : Bool :=
  b.pend && (s.coh.txns.any (fun x => x.line == lineOf b.loc && x.notified.contains (s.teamCore t)) ||
    (!b.notify && (match b.space with
      | .peer _ _ => !s.fab.proxy.any (fun p => p.line == lineOf b.loc)
      | _ => false)))

/-- Whether an observation point of a team has to wait. -/
def State.obsWaits (s : State) (t : Team) : Bool :=
  t.bindings.any (fun e => (s.unseen t e.2 || s.ownUnknown t e.2) && !(match alook t.region (e.1 / 96) with
    | some r => r.open_
    | none => false))

/-- The bytes that a refresh takes (R159): while the host holds the region, those of the time when it took it (R166); in a
member's window on another device, those that came from there last, or this device's own store since (R437, log entry 15). -/
def State.refreshed (s : State) (t : Team) (b : Binding) : Nat :=
  let now := s.readAt (s.teamCore t) t.uid b.space b.loc b.size
  match b.space, b.held with
  | .handover, some x => if s.deviceHolds b.loc then now else x
  | .member _, some x => x
  | _, _ => now

/-- Whether another device's write has reached the bindings to a line of a member's window there: free (R437, log entry 15);
never in a departed member's (R169). -/
def State.awayChange (s : State) (t : Team) (b : Binding) : Bool :=
  match b.space with
  | .member m => !(((s.wg? t.wg).bind Wg.hank).any (fun h => h.departed.contains m)) && Config.remoteChange s.fresh (lineOf b.loc)
  | _ => false

/-- What another device's write has left in a bound place: free, the same for every binding of the place (log entry 15). -/
def State.awayValue (s : State) (b : Binding) : Nat :=
  let word (i : Nat) : Nat := (Config.freeWord (s.fresh + 2 ^ 64 * (b.loc / 4 + i + 1))).toNat
  word 0 + (if b.size8 then 2 ^ 32 * word 1 else 0)

/-- One binding at an observation point; a change whose bytes have still to come stays pending. In a departed member's window the
register keeps its value (R169). -/
def observeOne (s : State) (t : Team) (e : Nat × Binding) : Team :=
  let openLane := match alook t.region (e.1 / 96) with
    | some r => r.open_
    | none => false
  let gone := match e.2.space, (s.wg? t.wg).bind Wg.hank with
    | .member m, some h => h.departed.contains m
    | _, _ => false
  let away := s.awayChange t e.2
  if (e.2.pend || away) && !openLane && !s.unseen t e.2 then
    let b := { e.2 with pend := false, chg := true, held := if away then some (s.awayValue e.2) else e.2.held }
    let t := { t with bindings := aput t.bindings e.1 b, fresh := t.fresh + 1 }
    if b.notify || gone then t
    else
      let x := s.refreshed t b
      let t := { t with v := tset 0 t.v e.1 (BitVec.ofNat 32 x) }
      if b.size8 then { t with v := tset 0 t.v (e.1 + 1) (BitVec.ofNat 32 (x / 2 ^ 32)) } else t
  else t

/-- An observation point of a team: every lane, active or not (R159). -/
def State.observed (s : State) (t : Team) : Team :=
  t.bindings.foldl (fun t e => observeOne s t e) t

/-- An observation point of the issuing team. -/
def State.observe (s : State) : State := s.setCur (s.observed s.cur)

/-! ## Outstanding work of a team -/

/-- Write tags that a home has not performed yet. -/
def State.pendingTags (s : State) : List Tag :=
  s.path.flatMap StoreEntry.tags ++ s.coh.reqs.flatMap (fun r => r.tags) ++ s.coh.txns.flatMap (fun t => t.tags)

/-- Whether an entry of the store path has not reached every party of its core yet: it is held (R146, R150), it is a reduction,
whose value is not known (R154), or the walker has still to resolve a notice of it (R171, R289). -/
def State.entryOpen (s : State) (e : StoreEntry) : Bool :=
  decide (e.hold ≠ []) || e.red.isSome ||
    s.coh.msgs.any (fun m => decide (m.kind = MsgKind.change) && m.agent == e.core && m.line == lineOf e.loc)

/-- Tags of the writes that are performed at no scope yet (R137). -/
def State.openTags (s : State) : List Tag := (s.path.filter s.entryOpen).flatMap StoreEntry.tags

/-- Writes that wait for a peer's answer (R137: they hold at scope 5 only). -/
def State.peerTags (s : State) : List Tag := s.fab.txns.flatMap (fun t => t.write)

/-- Whether every memory access of a team before a place in program order is complete at a scope: reads satisfied,
writes performed (R137). -/
def State.accessesDone (s : State) (team seq scope : Nat) : Bool :=
  !s.loads.any (fun l => l.team == team && decide (l.seq < seq)) &&
    !s.openTags.any (fun t => t.team == team && decide (t.seq < seq)) &&
    (decide (scope ≤ 1) || !s.pendingTags.any (fun t => t.team == team && decide (t.seq < seq))) &&
    (decide (scope ≠ 5) || !s.peerTags.any (fun t => t.team == team && decide (t.seq < seq)))

/-- Whether every earlier read of a team is satisfied (FENCEA, R150). -/
def State.readsDone (s : State) (team seq : Nat) : Bool :=
  !s.loads.any (fun l => l.team == team && decide (l.seq < seq))

/-- Whether what an entry waits for is complete: the team's accesses before each place that holds it, at the scope there
(R146, R150). -/
def State.holdsMet (s : State) (e : StoreEntry) : Bool :=
  e.hold.all (fun h => s.accessesDone e.tag.team h.1 h.2)

/-- Whether a completion flag of a team tracks outstanding work (R24): loads, writes not performed at their scope,
copies, matrix operations. -/
def State.flagBusy (s : State) (team flag : Nat) : Bool :=
  let tagged (t : Tag) : Bool := t.team == team && t.flag == flag
  s.loads.any (fun l => l.team == team && (l.flag == flag || l.setb == flag)) ||
    s.pendingTags.any (fun t => tagged t && decide (2 ≤ t.scope)) || s.openTags.any tagged ||
    s.peerTags.any (fun t => tagged t && t.scope == 5) ||
    s.xfers.any (fun x => x.issuer == team && x.flag == flag && !x.granted && !x.done) ||
    s.matrix.any (fun q => q.2.any (fun o => tagged o.issuer)) ||
    s.passes.any (fun p => tagged p.tag)

/-- Register keys of a team that a load has not filled yet (R27). -/
def State.outstandingV (s : State) (team : Nat) : List Nat :=
  (s.loads.filter (fun l => l.team == team)).flatMap (fun l => l.dests.filterMap (fun d =>
    match d.2 with
    | .vec lane r => some (vkey lane r)
    | _ => none))

/-- Scalars of a team that a load has not filled yet. -/
def State.outstandingS (s : State) (team : Nat) : List Nat :=
  (s.loads.filter (fun l => l.team == team)).flatMap (fun l => l.dests.filterMap (fun d =>
    match d.2 with
    | .scal n => some n
    | _ => none))

/-! ## Translating (R356–R363) -/

/-- Whether an entry has an owner. -/
def DirEntry.owned (e : DirEntry) : Bool := e.st == .dx || e.st == .do_ || e.st == .dh

/-- The sharer set emptied: pointer form again. -/
def DirEntry.noSharers (e : DirEntry) : DirEntry := { e with crs := false, ptrs := [], coarse := 0 }

/-- The entry of a line that an agent alone has written (R340): its own, or no copy; watchers stay. -/
def DirEntry.writtenBy (e : DirEntry) (agent : Nat) : DirEntry :=
  if e.owned && decide (e.owner.toNat = agent) then { e.noSharers with st := .dx }
  else if e.w then { e with st := .di, owner := 0 }
  else { e.noSharers with st := .di, owner := 0 }

/-- A line's directory entry. -/
def State.dirEntry (s : State) (line : Nat) : DirEntry := tget DirEntry.empty s.coh.dir line

/-- Replaces a line's entry. -/
def State.setDir (s : State) (line : Nat) (e : DirEntry) : State :=
  { s with coh := { s.coh with dir := tset DirEntry.empty s.coh.dir line e } }

/-- Whether a host holds a half of a tracked line (R388). -/
def BridgeLine.held (b : BridgeLine) : Bool := b.h0 != .i || b.h1 != .i

/-- Drops every other agent's hardware-coherent copy of the lines of a write, and what bridges track of them for no
host. -/
def State.invalidateOthers (s : State) (agent : Nat) (lines : List Nat) : State :=
  let s := { s with
    coh := { s.coh with copies := s.coh.copies.filter (fun k =>
      k.managed || k.agent == agent || !lines.contains k.line) }
    ports := s.ports.map (fun (p : Nat × HostPort) =>
      (p.1, { p.2 with lines := p.2.lines.filter (fun b => b.held || !lines.contains b.line) })) }
  lines.foldl (fun s line => s.setDir line ((s.dirEntry line).writtenBy agent)) s

/-- A line that its home slice has written: no copy of it is left (R155, R340). -/
def State.atHomeSlice (s : State) (line : Nat) : State := s.invalidateOthers 0xFFFF [line]

/-- Sets A, and D on a write, on the entry that a walk read, with an atomic at its home that reaches bindings and read sets as
any write does (R157, R356, R357). -/
def State.touchEntry (s : State) (w : Walk) (wr : Bool) : State :=
  let e := w.leaf ||| 0x40 ||| (if wr then 0x80 else 0)
  if e = w.leaf then s
  else (s.perform (cellsFrom w.entry (leBytes 8 e.toNat)) 0 none []).atHomeSlice (lineOf w.entry)

/-- Adds a translation to the TLBs (R360). -/
def State.fillTlb (s : State) (c : Nat) (va leaf : DWord) (level : Nat) : State :=
  let e : TlbEntry := ⟨c, va.toNat % 2 ^ 57 / 4096, level, leaf⟩
  match s.tlbEntry c va with
  | some _ => s
  | none => { s with tlb := e :: s.tlb }

/-- The place of an address under a leaf, or the fault its permissions give (R358, R163). -/
def leafSite (leaf : DWord) (level : Nat) (va : DWord) (need : Need) (x : Bool) : Site :=
  let page := va.toNat % 2 ^ 57 / 4096
  if (need.r && !leaf.getLsbD 2) || (need.w && !leaf.getLsbD 3) || (x && !leaf.getLsbD 4) then
    .miss (tACCESS 0) page
  else if need.bind && decide (leaf.extractLsb' 9 2 = 2) then .gone (tACCESS 6)
  else .at_ (leafSpace leaf) (leafLoc leaf level va)

/-- Translation of a canonical address for a context. Where a cached entry differs from the tables, either may serve
until a TLBINV (R360); in host-assisted mode a cached entry serves until it is invalidated, and ATS answers where there is
none (R362, log entry 40). -/
def State.translate (s : State) (c : Nat) (va : DWord) (need : Need) (x : Bool := false) : State × Site :=
  if !canonical va then (s, .gone (tPAGE 1))
  else
    let page := va.toNat % 2 ^ 57 / 4096
    let old := s.tlbEntry c va
    match (s.ctx c).assistWalk, old.filter (fun t => t.leaf.getLsbD 0) with
    | true, some t => (s, leafSite t.leaf t.level va need x)
    | _, _ =>
      let viaOld (t : TlbEntry) : State × Site := (s.draw, leafSite t.leaf t.level va need x)
      match s.walk c va with
      | .error sub =>
        match old with
        | some t => if Config.oldTranslation s.fresh then viaOld t else (s.draw, .miss (tPAGE sub) page)
        | none => (s, .miss (tPAGE sub) page)
      | .ok w =>
        let stale := match old with
          | some t => decide (t.leaf &&& ~~~ (0xC0 : DWord) ≠ w.leaf &&& ~~~ (0xC0 : DWord))
          | none => false
        match old, stale && Config.oldTranslation s.fresh with
        | some t, true => viaOld t
        | _, _ =>
          let r := leafSite w.leaf w.level va need x
          match r with
          | .at_ _ _ => ((s.touchEntry w need.w).fillTlb c va w.leaf w.level, r)
          | _ => (s, r)

/-- Stage 2 of one lane's place (R140): translation, permissions, departed members, poison. -/
def State.stage2 (s : State) (c : Nat) (wg : Option Wg) (pre : Pre) (size : Nat) (need : Need) : State × Site :=
  let poisonCheck (s : State) (site : Site) : State × Site :=
    match site with
    | .at_ _ loc => if need.r && s.poisonMet loc size then (s, .gone (tMCHK 1)) else (s, site)
    | _ => (s, site)
  match pre with
  | .direct (.member m) loc =>
    let dead := match wg.bind Wg.hank with
      | some h => h.departed.contains m
      | none => false
    if dead && need.r && !need.posted then (s, .gone (tHANKGONE m)) else (s, .at_ (.member m) loc)
  | .direct space loc => poisonCheck s (.at_ space loc)
  | .virtual va =>
    let r := s.translate c va need
    poisonCheck r.1 r.2

/-! ## Service queues (R403) -/

/-- Reads a 64-bit word at a context's virtual address for the device itself; none where it is not mapped. -/
def State.readCtx (s : State) (c : Nat) (va : DWord) (n : Nat) : Option Nat :=
  match (s.translate c va Need.load).2 with
  | .at_ _ loc => some (cellNat s.mem loc n)
  | _ => none

/-- A read of a context's memory by the device itself sets A where it walks (R356). -/
def State.touchCtx (s : State) (c : Nat) (va : DWord) : State := (s.translate c va Need.load).1

/-- A write at a context's virtual address by the device itself, or the page that it misses. A peer's memory is written through the
store path, the context's number in the tag. -/
def State.writeNow (s : State) (c : Nat) (va : DWord) (bs : List Byte) : State × Option (Trap × Nat) :=
  match s.translate c va Need.store with
  | (s, .at_ (.peer d m) loc) =>
    ({ s with path := s.path ++ [⟨0, .peer d m, loc, cellsFrom loc bs, none, [], [], ⟨0, c, 15, 5, none⟩, []⟩] }, none)
  | (s, .at_ _ loc) => ((s.perform (cellsFrom loc bs) 0 none []).atHomeSlice (lineOf loc), none)
  | (s, .miss t page) => (s, some (t, page))
  | (s, .gone _) => (s, none)

/-- Writes bytes at a context's virtual address for the device itself: after its earlier writes, and after fault service of a page
that it misses (R362). -/
def State.writeCtx (s : State) (c : Nat) (va : DWord) (bs : List Byte) : State :=
  let wait (s : State) : State := s.setCtx c { s.ctx c with writes := (s.ctx c).writes ++ [(va, bs)] }
  if (s.ctx c).writes ≠ [] then wait s
  else
    match s.writeNow c va bs with
    | (s, some _) => wait s
    | (s, none) => s

/-- The 32 bytes of a queue entry with RESP zero (R403). -/
def queueBytes (kind sub : Nat) (arg0 arg1 : DWord) : List Byte :=
  leBytes 8 (kind + 256 * sub) ++ leBytes 8 arg0.toNat ++ leBytes 8 arg1.toNat ++ leBytes 8 0

/-- Whether queue entry `n` fits: HEAD has passed entry n − 256 (R403). -/
def State.queueRoom (s : State) (c : Nat) (base : DWord) (n : Nat) : Bool :=
  match s.readCtx c (base + 128) 4 with
  | some head => decide ((n - head) % 2 ^ 32 < 256)
  | none => true

/-- Writes an entry and TAIL of a queue into memory (R403). -/
def State.writeQueue (s : State) (c : Nat) (base : DWord) (e : QueueEntry) : State :=
  let s := s.writeCtx c (base + 256 + BitVec.ofNat 64 (32 * (e.n % 256))) (queueBytes e.kind e.sub e.arg0 e.arg1)
  s.writeCtx c base (leBytes 4 (e.n + 1))

/-- The virtual address of a page: bits [63:57] are copies of bit 56 (R130). -/
def pageVa (page : Nat) : DWord := (BitVec.ofNat 57 (page * 4096)).signExtend 64

/-- Appends a request to a context's fault queue; it waits in the device while the queue is full (R403). -/
def State.postFq (s : State) (c kind sub : Nat) (arg0 arg1 : DWord) (party : Nat) : State :=
  let s := s.touchCtx c ((s.ctx c).fq + 128)
  let x := s.ctx c
  let room := s.queueRoom c x.fq x.fqTail && !x.fqWait.any (fun e => !e.posted)
  let e : QueueEntry := ⟨x.fqTail, kind, sub, arg0, arg1, party, room⟩
  let s := s.setCtx c { x with fqTail := x.fqTail + 1, fqWait := x.fqWait ++ [e] }
  if room then s.writeQueue c x.fq e else s

/-- Appends a request to a context's host request queue (R403). -/
def State.postHrq (s : State) (c kind sub : Nat) (arg0 arg1 : DWord) (party : Nat) : State :=
  let s := s.touchCtx c ((s.ctx c).hrq + 128)
  let x := s.ctx c
  let room := s.queueRoom c x.hrq x.hrqTail && !x.hrqWait.any (fun e => !e.posted)
  let e : QueueEntry := ⟨x.hrqTail, kind, sub, arg0, arg1, party, room⟩
  let s := s.setCtx c { x with hrqTail := x.hrqTail + 1, hrqWait := x.hrqWait ++ [e] }
  if room then s.writeQueue c x.hrq e else s

/-! ## Fault service (R362, R363) -/

/-- The access number of a page request: 0 read, 1 write, 2 fetch (R403). -/
def Need.access (n : Need) : Nat := if n.w then 1 else 0

/-- Who a party of a page request is, as ARG1 names it (R403): workgroup index, core, team index, kind. -/
def State.partyArg (s : State) (wg team kind : Nat) : DWord :=
  match s.wg? wg with
  | none => BitVec.ofNat 64 (0xFFFF * 2 ^ 16 + 4 * 2 ^ 37)
  | some w => BitVec.ofNat 64 (w.index % 2 ^ 16 + w.core * 2 ^ 16 + team * 2 ^ 32 + kind * 2 ^ 37)

/-- Asks fault service for a page on behalf of a party (0 team, 1 spindle program, 2 copy instruction, 3 matrix operation,
4 distributor; and its number). One request stands for one page, whatever accesses fault in it (R360, R403). -/
def State.askPage (s : State) (c page access : Nat) (t : Trap) (party : Nat × Nat) (arg1 : DWord) : State :=
  if s.pageReqs.any (fun r => r.ctx == c && r.page == page) then
    { s with pageReqs := s.pageReqs.map (fun r =>
        if r.ctx == c && r.page == page && !r.parties.contains party then { r with parties := r.parties ++ [party] } else r) }
  else
    let assist := (s.ctx c).assistWalk
    let s := { s with pageReqs := s.pageReqs ++ [⟨c, page, access, t, [party], assist⟩] }
    if assist then s else s.postFq c 1 access (pageVa page) arg1 party.2

end Sys2Proof.Machine
end

