-- ==== Sys2Proof/Machine/Operands.lean ====
section
/-! DEFINITION. Operand codes (R11–R17, R69, R129): which codes each kind of field accepts, what a code reads, and which
registers an instruction reads and writes. -/

namespace Sys2Proof.Machine

/-! ## Kinds of code -/

/-- A vector register code. -/
def isV (c : Code) : Bool := decide (c.toNat < 96)
/-- A scalar code. -/
def isS (c : Code) : Bool := decide (96 ≤ c.toNat) && decide (c.toNat < 120)
/-- A literal code. -/
def isK (c : Code) : Bool := decide (120 ≤ c.toNat) && decide (c.toNat < 124)
/-- z. -/
def isZ (c : Code) : Bool := decide (c.toNat = 124)
/-- The scalar that a code names. -/
def sNum (c : Code) : Nat := c.toNat - 96

/-- A run of `n` vector registers from a code, below the allotment, aligned to `al` (R13, R69). -/
def vRun (t : Team) (n al : Nat) (c : Code) : Bool :=
  isV c && decide (c.toNat + n ≤ t.allot) && decide (c.toNat % al = 0)

/-- A run of scalars. -/
def sRun (n al : Nat) (c : Code) : Bool := isS c && decide (sNum c + n ≤ 24) && decide (sNum c % al = 0)

/-- A run of literals, each below LCNT (R12). -/
def kRun (t : Team) (n al : Nat) (c : Code) : Bool :=
  isK c && decide (c.toNat - 120 + n ≤ t.lcnt) && decide ((c.toNat - 120) % al = 0)

/-- A general source (R86): codes 0–126; a pair by its even code when `wide` (R13). -/
def srcOk (t : Team) (wd : Bool) (c : Code) : Bool :=
  let n := if wd then 2 else 1
  vRun t n n c || sRun n n c || kRun t n n c || (decide (124 ≤ c.toNat) && decide (c.toNat < 127))

/-- A general destination (R86): v below A, s, z; a pair when `wide`. -/
def dstOk (t : Team) (wd : Bool) (c : Code) : Bool :=
  let n := if wd then 2 else 1
  vRun t n n c || sRun n n c || isZ c

/-- A vector destination or z. -/
def vzOk (t : Team) (wd : Bool) (c : Code) : Bool := vRun t (if wd then 2 else 1) (if wd then 2 else 1) c || isZ c

/-- A vector register. -/
def vOk (t : Team) (wd : Bool) (c : Code) : Bool := vRun t (if wd then 2 else 1) (if wd then 2 else 1) c

/-- A scalar or z; an even one when `wide`. -/
def szOk (wd : Bool) (c : Code) : Bool := sRun (if wd then 2 else 1) (if wd then 2 else 1) c || isZ c

/-- A 64-bit base address (R129): even v below A, even s, k0:k1, k2:k3, z. -/
def baseOk (t : Team) (c : Code) : Bool := vRun t 2 2 c || sRun 2 2 c || kRun t 2 2 c || isZ c

/-- A 64-bit scalar address: even s, k0:k1, k2:k3, and z where `zOk` (R127, R147, R258, R350). -/
def sbaseOk (t : Team) (zOk : Bool) (c : Code) : Bool := sRun 2 2 c || kRun t 2 2 c || (zOk && isZ c)

/-- An s or k code, and z where `zOk`. -/
def skOk (t : Team) (zOk : Bool) (c : Code) : Bool := sRun 1 1 c || kRun t 1 1 c || (zOk && isZ c)

/-- A predicate code 0–7, or 0–15 where inversion is allowed (R16). -/
def predOk (inv : Bool) (c : Code) : Bool := decide (c.toNat < if inv then 16 else 8)

/-- A four-register destination or source (R143, R144): v4n below A, an s multiple of 4, z; as a source also k0–k3. -/
def quadOk (t : Team) (src : Bool) (c : Code) : Bool := vRun t 4 4 c || sRun 4 4 c || isZ c || (src && kRun t 4 4 c)

/-! ## Reading -/

/-- A 32-bit operand for a lane (R11). -/
def Team.opnd32 (t : Team) (l : Nat) (c : Code) : Word :=
  if isV c then t.vget l c.toNat
  else if isS c then t.sget (sNum c)
  else if isK c then t.lit (c.toNat - 120)
  else if c.toNat = 125 then BitVec.ofNat 32 l
  else if c.toNat = 126 then BitVec.ofNat 32 t.index
  else 0

/-- The next code of a run. -/
def codeAt (c : Code) (i : Nat) : Code := BitVec.ofNat 7 (c.toNat + i)

/-- A 64-bit operand for a lane (R13): li and ti are zero-extended, z is 0. -/
def Team.opnd64 (t : Team) (l : Nat) (c : Code) : DWord :=
  if isV c || isS c || isK c then pairOf (t.opnd32 l c) (t.opnd32 l (codeAt c 1))
  else (t.opnd32 l c).setWidth 64

/-- An operand under a width, as a number. -/
def Team.opndN (t : Team) (wd : Bool) (l : Nat) (c : Code) : Nat :=
  if wd then (t.opnd64 l c).toNat else (t.opnd32 l c).toNat

/-- `n` consecutive registers or literals as one number, lowest first; z is 0 (R144). -/
def Team.opndRun (t : Team) (l : Nat) (c : Code) : Nat → Nat
  | 0 => 0
  | n + 1 => if isZ c then 0 else (t.opnd32 l c).toNat + 2 ^ 32 * (t.opndRun l (codeAt c 1) n)

/-- A predicate source, inverted for codes 8–15 (R16). -/
def Team.predMask (t : Team) (c : Code) : Mask :=
  if c.toNat < 8 then t.pmask c.toNat else ~~~ (t.pmask (c.toNat - 8))

/-- The leader's 32-bit operand; 0 where no lane qualifies. -/
def Team.lead32 (t : Team) (c : Code) : Word := t.opnd32 (t.leader.getD 0) c

/-- The leader's 64-bit operand; 0 where no lane qualifies. -/
def Team.lead64 (t : Team) (c : Code) : DWord := t.opnd64 (t.leader.getD 0) c

/-- A 32-bit offset, sign-extended (R129). -/
def Team.offset (t : Team) (l : Nat) (c : Code) : DWord := sext64 (t.opnd32 l c)

/-- A lane's address: base plus offset (R129). -/
def Team.addr (t : Team) (l : Nat) (a b : Code) : DWord := t.opnd64 l a + t.offset l b

/-! ## Register use (R27, R190, R198) -/

/-- The operands that an instruction reads and writes: per code, how many registers; the keys of registers of other lanes that a
lane reads, the operands that are read across lanes, and those read in the leader lane for all (R109, R110, R266). -/
structure Uses where
  reads : List (Code × Nat)
  writes : List (Code × Nat)
  cross : Team → Nat → List Nat := fun _ _ => []
  across : List (Code × Nat) := []
  lead : List (Code × Nat) := []

/-- No operands. -/
def Uses.none : Uses := { reads := [], writes := [] }

/-- Vector register numbers of a list of runs. -/
def vRegsOf (u : List (Code × Nat)) : List Nat :=
  u.flatMap (fun e => if isV e.1 then (List.range e.2).map (fun i => e.1.toNat + i) else [])

/-- Scalar numbers of a list of runs. -/
def sRegsOf (u : List (Code × Nat)) : List Nat :=
  u.flatMap (fun e => if isS e.1 then (List.range e.2).map (fun i => sNum e.1 + i) else [])

/-- The keys of the vector registers that a lane reads, or that are read for it. -/
def Uses.keys (u : Uses) (t : Team) (l : Nat) : List Nat :=
  (vRegsOf u.reads).map (vkey l) ++ u.cross t l ++ (vRegsOf u.lead).map (vkey (t.leader.getD 0))

/-- The width in registers of an operand. -/
def regs (wd : Bool) : Nat := if wd then 2 else 1

/-! ## Literal words written to a destination -/

/-- The 32-bit words of a number, lowest first. -/
def wordsOf : Nat → Nat → List Word
  | 0, _ => []
  | n + 1, x => BitVec.ofNat 32 x :: wordsOf n (x / 2 ^ 32)

end Sys2Proof.Machine
end

