-- ==== Sys2Proof/Machine/Flags.lean ====
section
/-! DEFINITION. Exception flags and status (R58, R71, R83, R190): the sticky flags of TSTAT, enables, HLEVEL, EXPIRED. -/

namespace Sys2Proof.Machine

/-- The enables of TSTAT as exception bits (R71). -/
def Team.enables (t : Team) : Nat := bits t.tstat.toNat 5 5

/-- The exceptions raised whose enable is set (R58). -/
def Team.trapping (t : Team) (flags : Nat) : Nat := flags &&& t.enables

/-- Sets sticky exception flags (R58). -/
def Team.raiseFlags (t : Team) (flags : Nat) : Team := { t with tstat := t.tstat ||| BitVec.ofNat 32 (flags % 32) }

/-- Sets TSTAT.EXPIRED (R190). -/
def Team.setExpired (t : Team) : Team := { t with tstat := t.tstat ||| 0x400 }

/-- Sets or clears TSTAT.HLEVEL (R80, R81). -/
def Team.setHlevel (t : Team) (on : Bool) : Team :=
  { t with tstat := if on then t.tstat ||| 0x10000 else t.tstat &&& ~~~ 0x10000 }

/-- The RW bits of TSTAT (R71). -/
def tstatRw : Word := 0x7FF

/-- The reserved bits of TSTAT (R71): SIZEW and HLEVEL are RO and ignored, the others must be 0. -/
def tstatReserved : Word := 0xE0FEF800

/-- SETC of TSTAT: RW fields written, RO fields kept (R71). -/
def Team.writeTstat (t : Team) (x : Word) : Team :=
  { t with tstat := (t.tstat &&& ~~~ tstatRw) ||| (x &&& tstatRw) }

/-- The start value of TSTAT for a team of `size` lanes (R71). -/
def tstatStart (size : Nat) : Word := BitVec.ofNat 32 ((size / 32 - 1) * 2 ^ 24)

/-- The rounding environment of an instruction (R28). -/
def Team.env (t : Team) : Env := ⟨t.rnd, t.sat, t.ftz, 0⟩

/-- STEPCTL.EN (R372). -/
def Team.stepping (t : Team) : Bool := t.stepctl.getLsbD 31

/-- STEPCTL.FOCUS (R372). -/
def Team.focusing (t : Team) : Bool := t.stepctl.getLsbD 30

/-- STEPCTL.LANE (R372). -/
def Team.focusLane (t : Team) : Nat := bits t.stepctl.toNat 0 10

end Sys2Proof.Machine
end

