-- ==== Sys2Proof/Machine/Ops.lean ====
section
/-! DEFINITION. The operations shared by all meanings: the divergence stack (R73–R78), region aborts (R264–R273), taking a
trap and returning from it (R79–R82, R364–R366, R451), the end of a team and of a workgroup (R74, R452), and the way an
instruction issues (R22, R26, R27, R36, R83, R140). -/

namespace Sys2Proof.Machine

/-! ## Paths and their scalars (R76) -/

/-- The path that is running, as a record. -/
def Team.pathRec (t : Team) : PathRec := ⟨t.mask ||| t.pathExtra, t.s, t.written⟩

/-- Adds a finished path to the nearest REJOIN or CALL entry; paths that part without one never merge. -/
def recordPath (p : PathRec) : List DivEntry → List DivEntry
  | [] => []
  | .rejoin a m sc o done :: rest => .rejoin a m sc o (done ++ [p]) :: rest
  | .call r md ret cd sc o done :: rest => .call r md ret cd sc o (done ++ [p]) :: rest
  | e :: rest => e :: recordPath p rest

/-- The lowest lane of a mask. -/
def lowestLane (m : Mask) : Option Nat := ((List.range 1024).filter (fun l => m.getLsbD l)).head?

/-- The scalar that a merge leaves: rules 1, 2 and 3 of R76. -/
def mergeOne (low : Option Nat) (done : List PathRec) (base : Table Word) (n : Nat) : Word :=
  let wrote := done.filter (fun p => p.written.getLsbD n)
  match wrote.find? (fun p => match low with
      | some l => p.lanes.getLsbD l
      | none => false) with
  | some p => tget 0 p.scalars n
  | none =>
    match wrote.getLast? with
    | some p => tget 0 p.scalars n
    | none => tget 0 base n

/-- Every scalar merged. -/
def mergeScalars (low : Option Nat) (done : List PathRec) (base : Table Word) : Table Word :=
  (List.range 24).foldl (fun s n => tset 0 s n (mergeOne low done base n)) []

/-- What the paths wrote together. -/
def writtenBy (done : List PathRec) : BitVec 24 := done.foldl (fun w p => w ||| p.written) 0

/-- The lanes of the paths together. -/
def lanesBy (done : List PathRec) : Mask := done.foldl (fun w p => w ||| p.lanes) 0

/-! ## The divergence stack (R73–R78) -/

/-- The mask of an entry that can be skipped when empty; none of a CALL entry. -/
def DivEntry.mask? : DivEntry → Option Mask
  | .rejoin _ m _ _ _ => some m
  | .pending _ m _ _ _ => some m
  | .call _ _ _ _ _ _ _ => none

/-- The stack without the emptied PENDING and REJOIN entries on top (R73). -/
def skipEmptied : List DivEntry → List DivEntry
  | [] => []
  | e :: rest => if e.mask? = some 0 then skipEmptied rest else e :: rest

/-- Continues at a PENDING or REJOIN entry; `p` is the path that ends there, none when it leaves no record. -/
def Team.resumeAt (t : Team) (p : Option PathRec) (e : DivEntry) (rest : List DivEntry) : Team :=
  match e with
  | .pending addr m sc w handler =>
    if handler then
      { t with mask := m, pc := addr, idx := 0, clause := none, stack := rest,
               pathExtra := t.pathExtra ||| t.mask ||| (p.map PathRec.lanes).getD 0 }
    else
      { t with
        mask := m
        pc := addr
        idx := 0
        clause := none
        s := sc
        written := w
        pathExtra := 0
        stack := match p with
          | some p => recordPath p rest
          | none => rest }
  | .rejoin addr m base outer done =>
    let done := done ++ p.toList
    { t with
      mask := m
      pc := addr
      idx := 0
      clause := none
      s := mergeScalars (lowestLane m) done base
      written := outer ||| writtenBy done
      pathExtra := lanesBy done &&& ~~~ m
      stack := rest }
  | .call ret md returned called base outer done =>
    let done := done ++ p.toList
    { t with
      mask := returned
      mode := md
      pc := ret
      idx := 0
      clause := none
      s := mergeScalars (lowestLane called) done base
      written := outer ||| writtenBy done
      pathExtra := lanesBy done &&& ~~~ returned
      stack := rest }

/-- The scalars that the path on top of an entry wrote before it pushed the entry. -/
def DivEntry.outer : DivEntry → BitVec 24
  | .rejoin _ _ _ o _ => o
  | .pending _ _ _ _ _ => 0
  | .call _ _ _ _ _ o _ => o

/-- What a path wrote before it pushed the entries that are skipped: its own writes still, since nothing is merged there
(R73, R76). -/
def skippedWrites : List DivEntry → BitVec 24
  | [] => 0
  | e :: rest => if e.mask? = some 0 then e.outer ||| skippedWrites rest else 0

/-- A path with what it wrote before the entries it skips. -/
def PathRec.past (p : PathRec) (w : BitVec 24) : PathRec := { p with written := p.written ||| w }

/-- JOIN: pops the top entry that is not emptied; none is ILLEGAL (R73). -/
def Team.join (t : Team) (p : Option PathRec) : Option Team :=
  let w := skippedWrites t.stack
  match skipEmptied t.stack with
  | [] => none
  | .call _ _ _ _ _ _ _ :: _ => none
  | e :: rest => some (({ t with written := t.written ||| w }).resumeAt (p.map (fun (q : PathRec) => q.past w)) e rest)

/-- Unwinding after EXIT, from the top (R74); an empty stack ends the team. The path that ended has been executed, so its
writes count where an entry is popped (R76). -/
def Team.unwind (t : Team) (p : PathRec) : List DivEntry → Team
  | [] => { t with stack := [], mask := 0, clause := none, ending := true, bindings := [], park := .running }
  | .call ret md returned called base outer done :: rest =>
    if returned = 0 then ({ t with mode := md }).unwind (p.past outer) rest
    else t.resumeAt (some p) (.call ret md returned called base outer done) rest
  | e :: rest => if e.mask? = some 0 then t.unwind (p.past e.outer) rest else t.resumeAt (some p) e rest

/-- Lanes leave every mask that an entry holds (R74). -/
def DivEntry.without (lanes : Mask) : DivEntry → DivEntry
  | .rejoin a m sc o d => .rejoin a (m &&& ~~~ lanes) sc o d
  | .pending a m sc w h => .pending a (m &&& ~~~ lanes) sc w h
  | .call r md ret cd sc o d => .call r md (ret &&& ~~~ lanes) cd sc o d

/-- Bindings of lanes removed (R163). -/
def Team.unbindLanes (t : Team) (lanes : Mask) : Team :=
  { t with bindings := t.bindings.filter (fun e => !lanes.getLsbD (e.1 / 96)) }

/-- EXIT of the whole mask (R74). -/
def Team.exitLanes (t : Team) : Team :=
  let gone := t.mask
  let p := t.pathRec
  let t := { t.unbindLanes gone with mask := 0, stack := t.stack.map (DivEntry.without gone) }
  t.unwind p t.stack

/-- The CALL entry that lanes return through, found from the top: the lanes are added to its returned mask, and the path
to its records where a REJOIN entry stands between them, since the path is one of the callee's too (R77). None when there is
no CALL entry. -/
def returnTo (lanes : Mask) (p : PathRec) (crossed : Bool) : List DivEntry → Option (List DivEntry)
  | [] => none
  | .call r md ret cd sc o done :: rest =>
    some (.call r md (ret ||| lanes) cd sc o (if crossed then done ++ [p] else done) :: rest)
  | .rejoin a m sc o done :: rest => (returnTo lanes p true rest).map (fun r => .rejoin a m sc o done :: r)
  | e :: rest => (returnTo lanes p crossed rest).map (fun r => e :: r)

/-- RET (R77); none is ILLEGAL. -/
def Team.ret (t : Team) : Option Team :=
  let p := t.pathRec.past (skippedWrites t.stack)
  match returnTo t.mask p false (skipEmptied t.stack) with
  | none => none
  | some (e :: rest) => some (({ t with mask := 0 }).resumeAt (some p) e rest)
  | some [] => none

/-- Whether `n` more entries fit (R75). -/
def Team.stackRoom (t : Team) (n : Nat) : Bool := decide (t.stack.length + n ≤ Config.stackDepth)

/-! ## Regions: lanes and aborts (R264–R273) -/

/-- Lanes with an open region. -/
def Team.openLanes (t : Team) : Mask :=
  t.region.foldl (fun m e => if e.2.open_ then m ||| laneBit e.1 else m) 0

/-- Whether the team has a region open. -/
def Team.inRegion (t : Team) : Bool := t.region.any (fun e => e.2.open_)

/-- The lane's region state, if it ever opened one. -/
def Team.rlane? (t : Team) (l : Nat) : Option RLane := alook t.region l

/-- Whether a lane's region is open. -/
def Team.laneOpen (t : Team) (l : Nat) : Bool := ((t.rlane? l).map RLane.open_).getD false

/-- Closes a lane's region as aborted: buffered stores are discarded, bound registers return to their values at RBEGIN
(R165, R273). -/
def Team.abortLane (t : Team) (code l : Nat) : Team :=
  match t.rlane? l with
  | none => t
  | some r =>
    if r.open_ then
      let t := r.boundSaved.foldl (fun t e => { t with v := tset 0 t.v (vkey l e.1) e.2 }) t
      { t with region := aput t.region l { r with open_ := false, code := code, tags := [] } }
    else t

/-- Aborted lanes join the topmost handler entry (R264). -/
def joinHandler (lanes : Mask) : List DivEntry → List DivEntry
  | [] => []
  | .pending a m sc w true :: rest => .pending a (m ||| lanes) sc w true :: rest
  | e :: rest => e :: joinHandler lanes rest

/-- Aborts lanes: they leave the mask and every mask on the stack, and join the handler's (R264). The team continues
with what remains; an emptied mask is dealt with by `Team.afterAbort`. -/
def Team.abortLanes (t : Team) (lanes : Mask) (code : Nat) : Team :=
  let gone := lanes &&& t.openLanes
  if gone = 0 then t
  else
    let t := (lanesOf t.size gone).foldl (fun t l => t.abortLane code l) t
    { t with
      mask := t.mask &&& ~~~ gone
      stack := joinHandler gone (t.stack.map (DivEntry.without gone)) }

/-- After aborts: an emptied mask acts as JOIN, and nothing of the instruction that the lanes were in is owed; no lane left
anywhere ends the team (R73, R264). -/
def Team.afterAbort (t : Team) : Team :=
  if t.mask = 0 then
    let t := { t with only := none, checked := false, park := .running, service := none, focused := false }
    (t.join none).getD (t.unwind t.pathRec t.stack)
  else t

/-- Whether the team is at its commit. -/
def Team.committing (t : Team) : Bool := decide (t.park = Park.commit)

/-- A lane aborts outside an instruction of its team (R264, R269). -/
def Team.abortOutside (t : Team) (lanes : Mask) (code : Nat) : Team :=
  let t := t.abortLanes lanes code
  if t.committing then t else t.afterAbort

/-! ## The end of teams and workgroups (R74, R452) -/

/-- A team stops at once: taken out of any wait, its bindings and attachments gone, its pending traps discarded. It is
reaped when its issued work is done. -/
def Team.stop (t : Team) : Team :=
  { t with
    ending := true
    clause := none
    idx := 0
    park := .running
    service := none
    bindings := []
    attached := []
    region := []
    pendTraps := []
    pendErrs := []
    stack := [] }

/-- Results of a stopped team's outstanding reads are discarded; atomics and arrivals are still performed (R123, R452). -/
def discardLoads (stopped : Nat → Bool) (ls : List Load) : List Load :=
  ls.filterMap (fun l =>
    if stopped l.team then
      match l.kind with
      | .atomic _ _ _ _ => if l.value.isSome then none else some { l with dests := [(0, .none)] }
      | .bound _ _ _ _ _ => if l.value.isSome then none else some { l with dests := [(0, .none)] }
      | .arrive _ => some { l with dests := [(0, .none)] }
      | _ => none
    else some l)

/-- A workgroup stops with a status (R452): 1 trap without handler, 2 double trap, 3 machine check, 9 ended by system
software. Queued spindle programs go, a running one is abandoned as by EKILL. -/
def State.endWg (s : State) (u status trap : Nat) : State :=
  match s.wg? u with
  | none => s
  | some _ =>
    let stopped (n : Nat) : Bool := (s.team? n).any (fun t => t.wg == u)
    let s := { s with
      loads := discardLoads stopped s.loads
      progs := (s.progs.filter (fun (p : Prog) => !(p.wg == u && p.queued))).map (fun (p : Prog) =>
        if p.wg == u && !p.ended then
          ({ p with exiting := true, abnormal := true, clause := none, waitTicket := none, state := 4 } : Prog) else p)
      pageReqs := s.pageReqs.map (fun (r : PageReq) =>
        { r with parties := r.parties.filter (fun (p : Nat × Nat) => !(p.1 == 0 && stopped p.2)) }) }
    let s := s.mapTeams (fun t => if t.live && t.wg == u then t.stop else t)
    s.modWg u (fun w => { w with
      core := if w.phase == .saved then 0xFFFF else w.core
      phase := .finishing
      status := if w.status = 0 then status else w.status
      trap := if w.status = 0 then trap else w.trap })

/-! ## Taking a trap and returning from it -/

/-- FAULTPC of an instruction (R364): clause address bits [56:0], index in [63:60]. -/
def faultPcOf (pc : DWord) (idx : Nat) : DWord := (pc &&& 0x01FFFFFFFFFFFFFF) ||| (BitVec.ofNat 64 idx <<< 60)

/-- FAULTINFO of a trap (R365). -/
def Trap.info (t : Trap) : Word :=
  BitVec.ofNat 32 (t.code % 32 * 2 ^ 27 + t.sub % 8 * 2 ^ 24) ||| t.arg.setWidth 32

/-- Trap entry of a team (R80): the fault registers, the save slot, handler level, MODE 0x10, the mask kept, the PC at
the vector TRAPBASE + 0x100 × code, TRAPBASE's reserved bits taken as zero (R20, R79, log entry 67). Its first clause start is an
observation point (R23). -/
def Team.enterTrap (t : Team) (trapBase : DWord) (x : Trap) (fmask : Mask) (fpc : DWord) : Team :=
  { t.setHlevel true with
    faultPc := fpc
    faultInfo := x.info
    faultMask := fmask
    saveMode := t.mode
    saveMask := t.mask
    mode := 0x10
    pc := (trapBase &&& ~~~ (0xFFF : DWord)) + BitVec.ofNat 64 (0x100 * x.code)
    idx := 0
    clause := none
    only := none
    checked := false
    service := none
    park := .running
    resumed := false }

/-- Taking a trap (R79–R81): at handler level the workgroup ends with "double trap", with TRAPBASE 0 it ends with
"trap without handler"; otherwise the handler is entered. DESIGN CHOICE (log entry 68): a trap at handler level while TRAPBASE is 0
is a double trap, where R79 and R81 both speak. -/
def State.takeTrap (s : State) (x : Trap) (fmask : Mask) (fpc : DWord) : State :=
  if s.cur.hlevel then s.endWg s.cur.wg 2 x.code
  else if s.curCtx.trapBase = 0 then
    ({ s with cur := { s.cur with faultPc := fpc, faultInfo := x.info, faultMask := fmask } }).endWg s.cur.wg 1 x.code
  else s.setCur (s.cur.enterTrap s.curCtx.trapBase x fmask fpc)

/-- A trap at the instruction that is executing (R36). -/
def State.trapHere (s : State) (x : Trap) (fmask : Mask) : State :=
  s.takeTrap x fmask (faultPcOf s.cur.pc s.cur.idx)

/-- The clause address that FAULTPC holds (R364): bits [63:57] are copies of bit 56. -/
def Team.resumePc (t : Team) : DWord := (t.faultPc.extractLsb' 0 57).signExtend 64

/-- The instruction index that FAULTPC holds. -/
def Team.resumeIdx (t : Team) : Nat := (t.faultPc >>> 60).toNat

/-- Return from the handler (R81, R126, R142): MODE and mask from the save slot, handler level left, the PC and index
of FAULTPC; a recorded FAULTMASK, or what a focus stop still owes, limits the resumed instruction. -/
def Team.returnTrap (t : Team) : Team :=
  { t.setHlevel false with
    mode := t.saveMode
    mask := t.saveMask
    pc := t.resumePc
    idx := t.resumeIdx
    clause := none
    resumed := true
    only := if t.faultMask ≠ 0 then some t.faultMask else t.focusRest
    focused := if t.faultMask ≠ 0 then t.focused else t.focusRest.isSome
    focusRest := none }

/-- A trap kept for the team's next clause boundary (R451). -/
def Team.keepTrap (t : Team) (x : Trap) : Team :=
  if t.ending then t else { t with pendTraps := t.pendTraps ++ [x] }

/-- A list without the first entry equal to one. -/
def dropFirst (x : Trap) : List Trap → List Trap
  | [] => []
  | y :: ys => if y = x then ys else y :: dropFirst x ys

/-! ## Issuing an instruction -/

/-- A condition that stops an instruction: the lane it is tied to, if any, and the trap. -/
abbrev Cond := Option Nat × Trap

/-- How the body of an instruction ends. -/
inductive Res where
  | done (s : State)                                   -- completed: the team goes on with the next instruction
  | jump (s : State)                                   -- completed: the body has set the PC
  | stay (s : State)                                   -- the team waits; the instruction executes again
  | trap (s : State) (cs : List Cond) (fmask : Mask)   -- `fmask` 0: nothing has taken effect; else these lanes are owed
deriving DecidableEq, Repr

/-- The lanes that read an instruction's operands (R27, R86): the contributing lanes, or of a scalar destination the leader
alone; every contributing lane whatever the destination; the active lanes, or of a scalar destination the lowest; the lowest
active lane; the leader; every lane of the team, active or not, the team's scalars whatever its lanes (R147, R320). -/
inductive Readers where
  | contrib | all | active | lowest | leader | team
deriving DecidableEq, Repr

/-- What R22, R25, R83, R265 and R34 say of an instruction. -/
structure Spec where
  control : Bool := false
  whole : Bool := false
  cls : Nat := 0
  forbidden : Nat := 0      -- in a region: 1 aborts the contributing lanes, 2 the active lanes (code 8)
  tags : Nat := 0           -- in a region: 0 concretises what is read, 1 carries tags itself, 2 reads across lanes (R266)
  spindle : Bool := false
  lanes : Readers := .contrib
deriving DecidableEq, Repr

/-- The lanes that read an instruction's operands. -/
def Spec.readLanes (sp : Spec) (u : Uses) (t : Team) : List Nat :=
  let scalar := !(sRegsOf u.writes).isEmpty
  match sp.lanes with
  | .contrib => if scalar then t.leader.toList else t.contribLanes
  | .all => t.contribLanes
  | .active => if scalar then t.lowest.toList else t.activeLanes
  | .lowest => t.lowest.toList
  | .leader => t.leader.toList
  | .team => List.range t.size

/-- The lanes whose registers an instruction writes, as far as they are among those that read. -/
def Spec.writeLanes (sp : Spec) (u : Uses) (t : Team) : List Nat :=
  match sp.lanes with
  | .team => t.contribLanes
  | _ => sp.readLanes u t

/-- Whether an instruction reads or writes scalars: with no lane that qualifies it does nothing, but for control transfers and
those that act for the team (R15, R147). -/
def Spec.acts (sp : Spec) (u : Uses) (t : Team) : Bool := sp.control || !(sp.readLanes u t).isEmpty

/-- Whether an instruction makes one result of several lanes' operands, or one for the team: it takes effect in all its lanes
or in none. -/
def Spec.joint (sp : Spec) (u : Uses) : Bool := sp.whole || decide (sp.tags = 2) || !(sRegsOf u.writes).isEmpty

/-- A condition on the whole instruction. -/
def whenCond (b : Bool) (t : Trap) : List Cond := if b then [(none, t)] else []

/-- The conditions that every instruction shares (R22, R26). -/
def Spec.conds (sp : Spec) (t : Team) : List Cond :=
  let icnt := (t.clause.map Clause.icnt).getD 1
  whenCond (sp.control && decide (t.idx + 1 ≠ icnt)) tILLEGAL ++
    whenCond ((sp.cls == 1 && t.seta == 15) || (sp.cls == 2 && t.setb == 15)) tILLEGAL

/-- HAZARD under HAZCHK.HAZ: an access to a register whose load is outstanding (R27, R370). -/
def State.hazardConds (s : State) (sp : Spec) (u : Uses) : List Cond :=
  if s.curCtx.hazchk.getLsbD 0 then
    let ov := s.outstandingV s.cur.uid
    let os := s.outstandingS s.cur.uid
    ((sp.readLanes u s.cur).filter (fun l => (u.keys s.cur l).any (fun k => ov.contains k)) ++
        (sp.writeLanes u s.cur).filter (fun l => ((vRegsOf u.writes).map (vkey l)).any (fun k => ov.contains k))).map
        (fun l => (some l, tHAZARD)) ++
      whenCond (sp.acts u s.cur && (sRegsOf u.reads ++ sRegsOf u.lead ++ sRegsOf u.writes).any (fun n => os.contains n)) tHAZARD
  else []

/-- Lanes that read an expired value as 0 (R190). -/
def State.expiredLanes (s : State) (sp : Spec) (u : Uses) : List Nat :=
  if s.cur.shortLived = [] then []
  else (sp.readLanes u s.cur).filter (fun l => (u.keys s.cur l).any (fun k => s.cur.expired k))

/-- EXPIRED under HAZCHK.EXP (R190, R370). -/
def State.expiredConds (s : State) (sp : Spec) (u : Uses) : List Cond :=
  if s.curCtx.hazchk.getLsbD 1 then (s.expiredLanes sp u).map (fun l => (some l, tEXPIRED)) else []

/-- Lanes that read a poisoned register (R198). -/
def State.poisonLanes (s : State) (sp : Spec) (u : Uses) : List Nat :=
  if s.cur.poison = [] then []
  else (sp.readLanes u s.cur).filter (fun l => (u.keys s.cur l).any (fun k => s.cur.poison.contains k))

/-- The end of a clause under YIELD: the team yields, and its last issue is the clause's end (R186). -/
def Team.yieldsAfter (c : Option Clause) (t : Team) : Team :=
  if c.any Clause.yield then { t with yielding := true, lastIssue := some t.now } else t

/-- The clause after its last instruction, or the next instruction (R22, R186). -/
def Team.advance (t : Team) : Team :=
  let t := { t with
    only := none, checked := false, service := none, resumed := false, focused := t.focused && t.hlevel, fresh := t.fresh + 1, park := .running }
  match t.clause with
  | none => t
  | some c =>
    if t.idx + 1 < c.icnt then { t with idx := t.idx + 1 }
    else ({ t with pc := t.nextPc, idx := 0, clause := none }).yieldsAfter (some c)

/-- A transfer of control is complete, and with it the clause it stood in (R22, R186). What SRET limits the resumed
instruction to stays until it has executed. -/
def Team.landed (c : Option Clause) (t : Team) : Team :=
  ({ t with
    only := if t.resumed then t.only else none
    focused := t.focused && (t.hlevel || t.resumed)
    service := none
    fresh := t.fresh + 1 }).yieldsAfter c

/-- Whether step stops apply: STEPCTL.EN, not at handler level, not within a region (R372). -/
def Team.stepsNow (t : Team) : Bool := t.stepping && !t.hlevel && !t.inRegion

/-- Whether a team's instruction is followed by a step stop (R83, R372): under lane focus not on a path without the focus lane,
and not after the completion of an instruction that a focus stop divided. -/
def Team.stopsAfter (t : Team) : Bool :=
  t.stepsNow && (!t.focusing || (t.mask.getLsbD t.focusLane && !t.focused))

/-- The step stop after a completed instruction, which is an observation point (R83, R372). -/
def State.stepStop (before : Team) (s : State) : State :=
  if before.stopsAfter && s.cur.stepsNow && !s.cur.ending && s.cur.uid == before.uid then
    let s := s.observe
    s.takeTrap (tBRK 1) 0 (faultPcOf s.cur.pc s.cur.idx)
  else s

/-- After aborts inside an instruction that completed: the team goes on, or acts as under JOIN (R264). DESIGN CHOICE: a clause that
ends so has completed for YIELD, while one that conditions (code 6) cut off has not (R186, log entry 79). -/
def State.settleAborts (s : State) : State :=
  if s.cur.mask = 0 && !s.cur.ending then s.setCur (s.cur.afterAbort.yieldsAfter s.cur.clause) else s.setCur s.cur.advance

/-- The lanes that conditions are tied to, all active lanes when one is tied to none. -/
def condLanes (t : Team) (cs : List Cond) : Mask :=
  if cs.any (fun c => c.1.isNone) then t.mask else maskOf (cs.filterMap (fun c => c.1))

/-- An instruction that aborts a lane has no effect for it: the constraints that it recorded before do not count (R269). -/
def Team.uncount (t before : Team) : Team :=
  { t with region := t.region.map (fun e =>
      match alook before.region e.1 with
      | some b => if b.open_ && !e.2.open_ then (e.1, { e.2 with constraints := b.constraints }) else e
      | none => e) }

/-- An instruction in an open region (R265, R271): conditions abort their lanes with code 6 and the others execute. -/
def State.runRegion (run : State → Res) : Nat → State → State
  | 0, s => s.setCur (s.cur.abortLanes s.cur.mask 6).afterAbort
  | n + 1, s =>
    match run s with
    | .done r => (r.setCur (r.cur.uncount s.cur)).settleAborts
    | .jump r => r.setCur (r.cur.landed s.cur.clause)
    | .stay r => r.setCur (r.cur.uncount s.cur)
    | .trap r cs fmask =>
      if fmask = 0 then
        let t := (r.cur.abortLanes (condLanes r.cur cs) 6).uncount s.cur
        if t.mask = 0 then r.setCur t.afterAbort else State.runRegion run n (r.setCur t)
      else (r.setCur ((r.cur.abortLanes fmask 6).uncount s.cur)).settleAborts

/-- An instruction while a region is open (R265, R271). A forbidden instruction has no effect, and without a lane that it would
act for none aborts. -/
def State.issueRegion (sp : Spec) (cs : List Cond) (run : State → Res) (s : State) : State :=
  let bad := match sp.forbidden with
    | 0 => 0
    | 1 => s.cur.contrib
    | _ => s.cur.mask
  if sp.forbidden ≠ 0 then (s.setCur (s.cur.abortLanes bad 8)).settleAborts
  else if cs = [] then s.runRegion run 2
  else
    let t := s.cur.abortLanes (condLanes s.cur cs) 6
    if t.mask = 0 then s.setCur t.afterAbort else (s.setCur t).runRegion run 2

/-- Raises the lowest of the conditions (R36). -/
def State.raise (s : State) (cs : List Cond) (fmask : Mask) : State :=
  match lowestTrap (cs.map (fun c => c.2)) with
  | some x => s.trapHere x fmask
  | none => s

/-- The end of an instruction outside regions, or a wait; one for the check of its writes (R140) comes before all of it. `owed` are lanes that a poisoned register keeps from completing (R198,
R366); `rest` are the lanes that a focus stop leaves for later (R83). -/
def State.conclude (before : Team) (owed : Mask) (rest : Option Mask) (r : Res) : State :=
  match r with
  | .done s =>
    if owed ≠ 0 then s.trapHere (tMCHK 0) (owed ||| (rest.getD 0 &&& s.cur.guardMask))
    else
      match rest with
      | some m =>
        let s := s.observe
        (s.setCur { s.cur with only := none, focusRest := some m }).trapHere (tBRK 2) 0
      | none => State.stepStop before (s.setCur s.cur.advance)
  | .jump s => State.stepStop before (s.setCur (s.cur.landed before.clause))
  | .stay s =>
    if s.cur.checked && !before.checked then s.setCur { s.cur with only := before.only }
    else s.setCur { s.cur with
      focusRest := if rest.isSome then rest else s.cur.focusRest
      service := s.cur.service.map (fun v =>
        if owed = 0 then v else { v with final := v.final ++ [(0, tMCHK 0)], lanes := v.lanes ||| owed }) }
  | .trap s cs fmask =>
    s.raise (if owed = 0 then cs else cs ++ [(none, tMCHK 0)])
      (if fmask = 0 then 0 else fmask ||| owed ||| (rest.getD 0 &&& s.cur.guardMask))

/-- Whether a focus stop applies to an instruction (R83): the focus lane is active and nothing is owed yet. -/
def Spec.focusStop (sp : Spec) (t : Team) : Bool :=
  t.stepsNow && t.focusing && !sp.control && !sp.whole && t.only.isNone && t.mask.getLsbD t.focusLane

/-- The instruction executes: conditions first, then the body (R36, R140). Codes from HAZARD on may be higher than those that the body
finds in the stores of bound registers, or a poisoned register gives: the lowest of all is raised. -/
def State.execute (sp : Spec) (u : Uses) (conds : Team → State → List Cond) (run : State → Res) (s : State) : State :=
  let cs := sp.conds s.cur ++ conds s.cur s ++ s.hazardConds sp u ++ s.expiredConds sp u
  let s := if s.expiredLanes sp u = [] then s else s.setCur s.cur.setExpired
  let bad := s.poisonLanes sp u
  if s.cur.inRegion then s.issueRegion sp (cs ++ bad.map (fun l => (some l, tMCHK 0))) run
  else if cs ≠ [] then
    let more : List Cond := if cs.all (fun c => decide (16 ≤ c.2.code)) then
        (match run s with
          | .trap _ found fmask => if fmask = 0 then found else []
          | _ => []) ++ whenCond (decide (bad ≠ [])) (tMCHK 0)
      else []
    s.raise (cs ++ more) 0
  else
    let before := s.cur
    let owed := maskOf bad &&& s.cur.activeMask
    let focus := sp.focusStop s.cur
    let rest := if focus then some (s.cur.mask &&& ~~~ laneBit s.cur.focusLane)
      else if s.cur.hlevel then none else s.cur.focusRest
    let active := if focus then s.cur.mask &&& laneBit s.cur.focusLane else s.cur.activeMask
    if decide (bad ≠ []) && (sp.joint u || decide (maskOf (sp.readLanes u s.cur) &&& ~~~ owed = 0)) then s.raise [(none, tMCHK 0)] owed
    else if focus || decide (owed ≠ 0) then
      State.conclude before owed rest (run (s.setCur { s.cur with only := some (active &&& ~~~ owed) }))
    else State.conclude before 0 rest (run s)

/-- What fault service has left of an instruction (R141, R363): it still waits, it traps, or its lanes execute again. -/
def State.afterService (s : State) (v : Service) (go : State → State) : State :=
  if v.asked ≠ [] then s
  else
    let s := s.setCur { s.cur with
      park := match s.cur.park with
        | .xch d w m g o r => .xch d w m g o r
        | _ => .running
      service := none }
    match lowestTrap ((v.failed ++ v.final).map (fun e => e.2)) with
    | some x =>
      if s.cur.inRegion then
        let t := s.cur.abortLanes (maskOf ((v.failed ++ v.final).map (fun e => e.1))) 6
        if t.mask = 0 then s.setCur t.afterAbort else go (s.setCur { t with only := some v.lanes })
      else s.trapHere x (if v.scalar then 0 else v.lanes ||| (if s.cur.hlevel then 0 else s.cur.focusRest.getD 0 &&& s.cur.guardMask))
    | none => go (if v.scalar && decide (v.lanes ≠ 0) then s else s.setCur { s.cur with only := some v.lanes })

/-- A machine check that the team takes at its next instruction (R198): of its state, or of arithmetic. -/
def Team.dueCheck (t : Team) : Option Trap :=
  if decide (t.park = .running) && !t.inRegion then
    t.pendTraps.find? (fun x => x.code == 21 && (x.sub == 0 || x.sub == 2))
  else none

/-- A team issues an instruction. -/
def State.issueTeam (sp : Spec) (u : Uses) (conds : Team → State → List Cond) (run : State → Res) (s : State) : State :=
  match s.cur.service with
  | some v => s.afterService v (State.execute sp u conds run)
  | none =>
    match s.cur.dueCheck with
    | some x => (s.setCur { s.cur with pendTraps := dropFirst x s.cur.pendTraps }).trapHere x 0
    | none => State.execute sp u conds run s

end Sys2Proof.Machine
end

