-- ==== Sys2Proof/Machine/Directory.lean ====
section
/-! DEFINITION. Directory entries, leases, and the lines that agents hold (R336–R338, R343), with the L1's ways (R191) and
what becomes of a line that leaves it (R138, R269, R340). -/

namespace Sys2Proof.Machine

/-- Whether a binding pins a line in L1: translated memory does, the windows of stores do not (R170). -/
def pinsLine (space : Space) : Bool :=
  match space with
  | .store => false
  | .chip => false
  | .member _ => false
  | .opBuf => false
  | _ => true

/-- Whether a line is locked by a request in progress. -/
def State.locked (s : State) (line : Nat) : Bool := s.coh.txns.any (fun t => t.line == line)

/-! ## Entries (R337, R338) -/

/-- Whether an agent number is assigned and its unit enabled (R5, R8). -/
def State.agentOn (s : State) (a : Nat) : Bool :=
  let p := s.svc.presence
  if a < 192 then s.coreOn a
  else if 256 ≤ a && a < 448 then s.coreOn (a - 256)
  else if 448 ≤ a && a < 450 then p.chiplet.getLsbD (a - 448)
  else if 450 ≤ a && a < 452 then p.hport.getLsbD (a - 450)
  else if 452 ≤ a && a < 456 then p.tier.getLsbD (a - 452)
  else 464 ≤ a && decide (a - 464 < s.fab.ndev) && decide (a - 464 ≠ s.fab.dev)

/-- The coarse bit of an agent. -/
def coarseBit (a : Nat) : BitVec 32 := (1 : BitVec 32) <<< (a / 16)

/-- A sharer recorded (R338): the fifth turns pointers into the coarse vector. -/
def DirEntry.addSharer (e : DirEntry) (a : Nat) : DirEntry :=
  let p : BitVec 9 := BitVec.ofNat 9 a
  if e.crs then { e with coarse := e.coarse ||| coarseBit a }
  else if e.ptrs.contains p then e
  else if e.ptrs.length < 4 then { e with ptrs := e.ptrs ++ [p] }
  else { e with
    crs := true
    ptrs := []
    coarse := (e.ptrs ++ [p]).foldl (fun v q => v ||| coarseBit q.toNat) 0 }

/-- A sharer gone by notice: pointers only (R338). -/
def DirEntry.dropSharer (e : DirEntry) (a : Nat) : DirEntry :=
  if e.crs then e else { e with ptrs := e.ptrs.filter (fun p => decide (p.toNat ≠ a)) }

/-- Whether the entry records sharers. -/
def DirEntry.shared (e : DirEntry) : Bool := e.crs || decide (e.ptrs ≠ [])

/-- The sharers that an invalidation goes to (R341): pointers, or every assigned and enabled agent under a coarse bit. -/
def State.sharers (s : State) (e : DirEntry) : List Nat :=
  if e.crs then (List.range 480).filter (fun a => e.coarse.getLsbD (a / 16) && s.agentOn a)
  else e.ptrs.map BitVec.toNat

/-! ## Leases (R343) -/

/-- The reference clock in units of 64 ticks. -/
def State.units (s : State) : BitVec 16 := BitVec.ofNat 16 (s.ticks.toNat / 64)

/-- The expiry that a fill granted now receives: LEASEPEER for a peer proxy, LEASEL1 for the others. -/
def State.grantStamp (s : State) (agent : Nat) : BitVec 16 :=
  BitVec.ofNat 16 ((s.ticks.toNat + 2 ^ (if 464 ≤ agent then s.coh.leasePeer else s.coh.leaseL1)) / 64)

/-- Whether an entry's lease has expired. -/
def State.leaseOver (s : State) (st : BitVec 16) : Bool := decide ((s.units - st).toNat < 32768)

/-- The later of an expiry granted before and one granted now, as times from now on: one that has run out is the earlier. -/
def State.later (s : State) (old new : BitVec 16) : BitVec 16 :=
  if !s.leaseOver old && decide ((new - s.units).toNat < (old - s.units).toNat) then old else new

/-- STAMP after a grant (R340, R343): the latest expiry of a sharer. An entry without sharers has none outstanding (log
entry 71). -/
def State.nextStamp (s : State) (e : DirEntry) (new : BitVec 16) : BitVec 16 := if e.shared then s.later e.stamp new else new

/-- Time passes until the clock reaches a unit at the earliest (log entry 4). -/
def State.waitUnits (s : State) (u : BitVec 16) : State :=
  let d := (u - s.units).toNat
  if d = 0 ∨ 32768 ≤ d then s else { s with ticks := BitVec.ofNat 64 ((s.ticks.toNat / 64 + d) * 64) }

/-! ## Copies (R336) -/

/-- The copy of a line that an agent holds under the directory. -/
def State.copyAt (s : State) (agent line : Nat) : Option Copy :=
  s.coh.copies.find? (fun k => k.agent == agent && k.line == line && !k.managed)

/-- Drops an agent's copy. -/
def State.dropCopy (s : State) (agent line : Nat) : State :=
  { s with coh := { s.coh with copies := s.coh.copies.filter (fun k => k.managed || !(k.agent == agent && k.line == line)) } }

/-- Whether a core's line is pinned by a bobbin in its table (R170). -/
def State.pinned (s : State) (core line : Nat) : Bool :=
  s.teams.any (fun t => t.live && s.teamCore t == core &&
    t.bindings.any (fun b => lineOf b.2.loc == line && !b.2.spilled && pinsLine b.2.space))

/-- Whether a line stands in an open read set of a team of a core (R270). -/
def State.inReadSet (s : State) (core line : Nat) : Bool :=
  s.teams.any (fun t => t.live && s.teamCore t == core &&
    t.region.any (fun e => e.2.open_ && e.2.lines.any (fun l => l.1 == line)))

/-- Lanes whose read set holds a line that the L1 cannot keep abort with code 5 (R269, R270); a commit under way holds its
lines (R271). -/
def State.loseLine (s : State) (core line : Nat) : State :=
  s.mapTeams (fun t =>
    if t.live && s.teamCore t == core && !t.committing then
      let lanes := maskOf ((t.region.filter (fun e => e.2.open_ && e.2.lines.any (fun l => l.1 == line))).map (fun e => e.1))
      if lanes = 0 then t else t.abortOutside lanes 5
    else t)

/-- The entry after its owner has given the line up (R340): a clean copy, or one written back. -/
def DirEntry.ownerGone (e : DirEntry) : DirEntry := { e with st := if e.st == .do_ then .ds else .di, owner := 0 }

/-- The entry after an agent's clean eviction notice (R338, R340): the owner of a DX entry, or a sharer. -/
def DirEntry.noticed (e : DirEntry) (agent : Nat) : DirEntry :=
  if e.st == .dx && decide (e.owner.toNat = agent) then e.ownerGone
  else
    let e' := e.dropSharer agent
    if e.st == .ds && !e'.shared then { e' with st := .di } else e'

/-- The entry after a writeback (R340): the owner's; another's finds nothing to change. -/
def DirEntry.wroteBack (e : DirEntry) (agent : Nat) : DirEntry :=
  if (e.st == .dx || e.st == .do_) && decide (e.owner.toNat = agent) then e.ownerGone else e

/-- Whether a message of the directory to an agent about a line is on its way: what the agent sends meanwhile is dropped, or stands
for its answer (R342). -/
def State.asked (s : State) (agent line : Nat) : Bool :=
  s.coh.msgs.any (fun m => m.agent == agent && m.line == line && decide (m.kind ≠ MsgKind.ack) && decide (m.kind ≠ MsgKind.change))

/-- An agent gives up a line that it holds under the directory: the copy goes at once, a notice or a writeback goes to the home
(R340, R353). -/
def State.giveUp (s : State) (agent line : Nat) : State :=
  match s.copyAt agent line with
  | none => s
  | some k =>
    let s := s.dropCopy agent line
    if s.asked agent line then s
    else { s with coh := { s.coh with reqs := s.coh.reqs ++
      [⟨if k.st == .m || k.st == .o then .writeback else .evict, agent, line, [], [], none⟩] } }

/-! ## Holding a line (R8, R137, R155) -/

/-- Whether the directory tracks the lines of a place: hardware-coherent memory, a handover region that the device holds, chip
scratchpad. -/
def State.coherent (s : State) (space : Space) (loc : Nat) : Bool :=
  match space with
  | .hardware => true
  | .chip => true
  | .handover => s.deviceHolds loc
  | _ => false

/-- Whether a core's L1 holds a line exclusive or modified. -/
def State.owns (s : State) (core line : Nat) : Bool :=
  s.coh.copies.any (fun k => k.agent == core && k.line == line && !k.managed && (k.st == .m || k.st == .e))

/-- Whether an agent's request for a line is at its home. -/
def State.asking (s : State) (agent line : Nat) (kinds : List Req) : Bool :=
  s.coh.reqs.any (fun r => r.agent == agent && r.line == line && kinds.contains r.kind) ||
    s.coh.txns.any (fun t => t.agent == agent && t.line == line && kinds.contains t.kind)

/-- The request with which an agent asks for a line to write. -/
def State.writeReq (s : State) (agent line : Nat) : Req :=
  if (s.copyAt agent line).any (fun k => decide (k.st = CopyState.s)) then .upgrade else .getM

/-- An agent asks for a line exclusive, once. -/
def State.askExclusive (s : State) (agent line : Nat) : State :=
  if s.asking agent line [.getM, .upgrade] then s
  else { s with coh := { s.coh with reqs := s.coh.reqs ++ [⟨s.writeReq agent line, agent, line, [], [], none⟩] } }

/-- A core asks for a line to read, once. -/
def State.askShared (s : State) (core line : Nat) : State :=
  if (s.copyAt core line).isSome || s.asking core line [.getS, .pipe, .getM, .upgrade] then s
  else { s with coh := { s.coh with reqs := s.coh.reqs ++ [⟨.getS, core, line, [], [], none⟩] } }

/-- A matrix load pipe asks for a line under its core's L1 agent, shared only, once (R8, R345). -/
def State.askPipe (s : State) (core line : Nat) : State :=
  if (s.copyAt core line).isSome || s.asking core line [.getS, .pipe, .getM, .upgrade] then s
  else { s with coh := { s.coh with reqs := s.coh.reqs ++ [⟨.pipe, core, line, [], [], none⟩] } }

/-- A bobbin's line is in its core's L1, or watched for its spill walker (R170, R171). -/
def State.holdBound (s : State) (core : Nat) (space : Space) (loc : Nat) (spilled : Bool) : State :=
  let line := lineOf loc
  if !s.coherent space loc then s
  else if !spilled then (if pinsLine space then s.askShared core line else s)
  else if s.asking core line [.watch] then s
  else { s with coh := { s.coh with reqs := s.coh.reqs ++ [⟨.watch, core, line, [], [], none⟩] } }

/-- A core's bobbins of a line that it has lost fetch it again; the spilled ones, where asked, register again (R170, R339). -/
def State.rebind (s : State) (core line : Nat) (spilled : Bool) : State :=
  ((s.teams.filter (fun t => t.live && s.teamCore t == core)).flatMap (fun t =>
    (t.bindings.map (fun e => e.2)).filter (fun b => lineOf b.loc == line && (spilled || !b.spilled)))).foldl
    (fun s b => s.holdBound core b.space b.loc b.spilled) s

/-- The cores that have bobbins on a line. -/
def State.boundCores (s : State) (line : Nat) : List Nat :=
  ((s.teams.filter (fun t => t.live && t.bindings.any (fun e => lineOf e.2.loc == line))).map s.teamCore).eraseDups

/-- Every core's bobbins of some lines that have been taken from it fetch them again (R170). -/
def State.rebindAll (s : State) (lines : List Nat) : State :=
  lines.foldl (fun s line => (s.boundCores line).foldl (fun s c => s.rebind c line false) s) s

/-- Lines that every cache loses for another reason than a write: read sets that hold one abort with code 5 (R270). -/
def State.loseLines (s : State) (hit : Nat → Bool) : State :=
  s.mapTeams (fun t =>
    if t.live && !t.committing then
      let lanes := maskOf ((t.region.filter (fun e => e.2.open_ && e.2.lines.any (fun l => hit l.1))).map (fun e => e.1))
      if lanes = 0 then t else t.abortOutside lanes 5
    else t)

/-- A streamer's hold on a line ends: the line is home, its entry DI (R209, R345). -/
def State.releaseHold (s : State) (streamer line : Nat) : State :=
  let s := s.dropCopy streamer line
  let e := s.dirEntry line
  if e.st == .dh && decide (e.owner.toNat = streamer) then s.setDir line { e with st := .di, owner := 0 }
  else s

end Sys2Proof.Machine
end

