-- ==== Sys2Proof/Machine/Packets.lean ====
section
/-! DEFINITION. Packets and sending them to peers (R414, R418, R419, R422, R437), and the check of writes to members of a hank on other
devices (R140). -/

namespace Sys2Proof

/-! ## Packets (R419) -/

/-- A field of a header. -/
def Packet.field (p : Packet) (lo len : Nat) : Nat := (p.hdr.extractLsb' lo len).toNat

/-- CTX. -/
def Packet.ctx (p : Packet) : Nat := p.field 116 4
/-- SRC. -/
def Packet.src (p : Packet) : Nat := p.field 112 4
/-- DST. -/
def Packet.dst (p : Packet) : Nat := p.field 108 4
/-- CLASS. -/
def Packet.cls (p : Packet) : Nat := p.field 106 2
/-- OP. -/
def Packet.op (p : Packet) : Nat := p.field 100 6
/-- DET. -/
def Packet.det (p : Packet) : Bool := p.hdr.getLsbD 99
/-- TAG. -/
def Packet.tag (p : Packet) : Nat := p.field 84 12
/-- MISC. -/
def Packet.misc (p : Packet) : Nat := p.field 48 36
/-- PA. -/
def Packet.pa (p : Packet) : Nat := p.field 0 48

/-- The LEN code of a payload size (R419). -/
def lenCode (n : Nat) : Nat :=
  if n = 0 then 0 else if n ≤ 4 then 1 else if n ≤ 8 then 2 else if n ≤ 16 then 3 else if n ≤ 64 then 4
  else if n ≤ 128 then 5 else 6

/-- The payload bytes of a LEN code; code 7 selects none of the sizes. -/
def lenBytes (c : Nat) : Option Nat := [0, 4, 8, 16, 64, 128, 144][c]?

/-- A packet from its fields. -/
def mkPacket (ctx src dst cls op tag misc pa : Nat) (payload : List Byte) : Packet :=
  let body : BitVec 120 := BitVec.ofNat 120
    (pa % 2 ^ 48 + misc % 2 ^ 36 * 2 ^ 48 + tag % 2 ^ 12 * 2 ^ 84 + lenCode payload.length * 2 ^ 96 +
      op % 2 ^ 6 * 2 ^ 100 + cls % 4 * 2 ^ 106 + dst % 16 * 2 ^ 108 + src % 16 * 2 ^ 112 + ctx % 16 * 2 ^ 116)
  { hdr := Config.checkBits body ++ body
    payload := payload ++ List.replicate ((lenBytes (lenCode payload.length)).getD 0 - payload.length) 0
    headerOk := true }

/-- A packet with DET set or clear. -/
def Packet.withDet (p : Packet) (d : Bool) : Packet :=
  let body : BitVec 120 := (p.hdr.extractLsb' 0 120 &&& ~~~ ((1 : BitVec 120) <<< 99)) ||| (if d then (1 : BitVec 120) <<< 99 else 0)
  { p with hdr := Config.checkBits body ++ body }

end Sys2Proof

namespace Sys2Proof.Machine

/-- The bucket of a physical address (R330). -/
def bucketOf (pa : Nat) : Nat := (bits pa 7 12 ^^^ bits pa 19 12) ^^^ (bits pa 31 12 ^^^ bits pa 43 4)

/-! ## Ports (R414, R418) -/

/-- A fabric port. -/
def State.port (s : State) (n : Nat) : Port := tget Port.reset s.fab.ports n

/-- Replaces a fabric port. -/
def State.setPort (s : State) (n : Nat) (p : Port) : State :=
  { s with fab := { s.fab with ports := tset Port.reset s.fab.ports n p } }

/-- A peer's group: the ports that reach it, ascending (R414). -/
def State.group (s : State) (peer : Nat) : List Nat :=
  (List.range 36).filter (fun n => s.svc.presence.fport.getLsbD n &&
    (s.port n).up && (s.port n).inGroup && (s.port n).peer == some peer)

/-- Whether the sender may send a packet of a class (R418). -/
def Port.credit (p : Port) (c : Nat) : Bool :=
  decide ((p.sent.getD c 0 + 4096 - p.ret.getD c 0) % 4096 < 64)

/-- A flit without packets that advances the sequence: a resync flit, or a group fence (R418, R428). -/
def Port.mark (p : Port) : Port := { p with txSeq := (p.txSeq + 1) % 4096, unacked := p.unacked ++ [(p.txSeq, [])] }

/-- A packet leaves on a link as a flit of its own, kept until acknowledged (R417); every 1,024th flit is a resync flit
(R418). -/
def Port.emit (p : Port) (k : Packet) : Port :=
  let p := if p.txSeq % 1024 = 1023 then p.mark else p
  { p with
    txSeq := (p.txSeq + 1) % 4096
    sent := p.sent.set k.cls ((p.sent.getD k.cls 0 + 1) % 4096)
    unacked := p.unacked ++ [(p.txSeq, [k])] }

/-- Sends the waiting packets that credits and the retry window allow, in order per class (R417, R418). -/
def Port.pump (p : Port) : Nat → Port
  | 0 => p
  | n + 1 =>
    if 1024 ≤ p.unacked.length then p
    else
      match p.tx.zipIdx.find? (fun k => p.credit k.1.cls && !((p.tx.take k.2).any (fun j => j.cls == k.1.cls))) with
      | none => p
      | some k => Port.pump ({ p with tx := p.tx.eraseIdx k.2 }.emit k.1) n

/-- A packet joins a port's queue. -/
def Port.offer (p : Port) (k : Packet) : Port :=
  let q := { p with tx := p.tx ++ [k] }
  q.pump q.tx.length

/-- The port of a group for an address: i = b mod k; packets with no line address use i = 0 (R414). -/
def portFor (g : List Nat) (pa : Option Nat) : Option Nat :=
  g[(match pa with
    | some a => bucketOf a % g.length
    | none => 0)]?

/-- The relay to a peer none of whose ports work: the lowest-numbered device with working ports to both (R422). -/
def State.relayFor (s : State) (peer : Nat) : Option Nat :=
  (List.range s.fab.ndev).find? (fun r => decide (r ≠ s.fab.dev) && decide (r ≠ peer) &&
    decide (s.group r ≠ []) && Config.relayReaches s.fresh r peer)

/-- Sends a packet towards a device: on its group, by a relay, or nowhere (R414, R422, R430). -/
def State.sendTo (s : State) (peer : Nat) (pa : Option Nat) (k : Packet) : State :=
  match portFor (s.group peer) pa with
  | some n => s.setPort n ((s.port n).offer (k.withDet false))
  | none =>
    match s.relayFor peer with
    | none => s.draw
    | some r =>
      match portFor (s.group r) pa with
      | some n => (s.setPort n ((s.port n).offer (k.withDet true))).draw
      | none => s.draw

/-! ## Requests (R419, R430, R437) -/

/-- What waits for the answer to a request. -/
structure Waits where
  load : Option Nat := none
  write : List Tag := []
  lane : Nat := 0
  want : Option (Nat × Nat) := none
  strong : List Nat := []
deriving DecidableEq, Repr

/-- A request with a tag of its own, kept until it is answered (R419, R430). -/
def State.request (s : State) (peer ctx op misc pa line : Nat) (hasLine : Bool) (payload : List Byte) (w : Waits) : State :=
  let tag := s.fab.nextTag
  let k := mkPacket ctx s.fab.dev peer 0 op tag misc pa payload
  let x : Transaction := ⟨tag, peer, op, line, w.load, w.write, w.lane, w.want, w.strong, k⟩
  let s := { s with fab := { s.fab with nextTag := (tag + 1) % 4096, txns := s.fab.txns ++ [x] } }
  s.sendTo peer (if hasLine then some pa else none) k

/-- The member that a location of the hank window names (R437). -/
def memberOf (loc : Nat) : Nat := locOff loc / 2 ^ 24

/-- The window offset of a location. -/
def windowOff (loc : Nat) : Nat := locOff loc

/-- A request of the hank protocol on behalf of a workgroup: the hank's key in MISC, the hank number above the window
offset in PA (R434, R437, log entry 14). -/
def State.windowRequest (s : State) (wg op misc loc : Nat) (payload : List Byte) (w : Waits) : State :=
  match (s.wg? wg).bind (fun g => g.hank.map (fun h => (g, h))) with
  | none => s
  | some (g, h) =>
    s.request (h.devices.getD (memberOf loc) 0) g.ctx op (misc % 2 ^ 16 + h.key % 2 ^ 20 * 2 ^ 16)
      (windowOff loc + h.hank * 2 ^ 28) (lineOf loc) false payload w

/-! ## The check of a remote member's barrier words (R140) -/

/-- Whether a place is in the window of a member on another device that has not departed (R437, R444). -/
def State.farMember (s : State) (loc : Nat) : Bool :=
  locKind loc == 7 && !(s.curWg.bind Wg.hank).any (fun h => h.departed.contains (memberOf loc))

/-- The check that an instruction's writes to members on other devices, each a lane, a location and a size, touch no live barrier word:
each member's device is asked, and the team is held at the instruction until all have answered (R140). Nothing where there is no
such write, or where they have been checked. -/
def State.farCheck (s : State) (ws : List (Nat × Nat × Nat)) : Option Res :=
  let far := ws.filter (fun w => s.farMember w.2.1)
  if far = [] || s.cur.checked then none
  else
    let tags := (List.range far.length).map (fun i => (s.fab.nextTag + i) % 4096)
    let t := far.foldl (fun (t : State) w => t.windowRequest t.cur.wg 0x37 (w.2.2 + 256) w.2.1 [] { lane := w.1 }) s
    some (.stay (t.setCur { t.cur with
      park := .page
      checked := true
      service := some { asked := tags.map (fun g => (g, 9)), failed := [], final := [], lanes := t.cur.mask, scalar := true } }))

/-- Whether a request is such a check. -/
def Transaction.checks (x : Transaction) : Bool := x.op == 0x37 && x.resend.misc.testBit 8

end Sys2Proof.Machine
end

