-- ==== Sys2Proof/Machine/Access.lean ====
section
/-! DEFINITION. How instructions reach memory (R133–R150, R157–R161, R192): stage 1 and stage 2 over the lanes, entering
stores, recording and performing loads and atomics, register writes with the stores of bound registers, and the region
forms of all of these (R266–R270). -/

namespace Sys2Proof.Machine

/-! ## Stage 1 over lanes (R140) -/

/-- Whether a write would touch a live barrier word or its member mask (R140, R252). -/
def State.hitsBarrier (s : State) (loc size : Nat) : Bool :=
  s.barriers.any (fun b =>
    overlaps loc size b (if bits (cellNat s.mem b 8) 62 1 = 1 then 16 else 8))

/-- The stage-1 condition of one access, if any. -/
def State.stage1Cond (s : State) (t : Team) (need : Need) (lane : Nat) (va : DWord) (size : Nat) : List Cond :=
  match s.stage1 t lane va size need with
  | .error x => [(some lane, x)]
  | .ok (.direct _ loc) => if need.w && s.hitsBarrier loc size then [(some lane, tBARCLOB)] else []
  | .ok (.virtual _) => []

/-- Stage-1 conditions of a list of accesses: lane, address, size. -/
def State.stage1Conds (s : State) (t : Team) (need : Need) (xs : List (Nat × DWord × Nat)) : List Cond :=
  xs.flatMap (fun x => s.stage1Cond t need x.1 x.2.1 x.2.2)

/-- The place that stage 1 leaves of an access. -/
def State.preOf (s : State) (t : Team) (need : Need) (lane : Nat) (va : DWord) (size : Nat) : Pre :=
  match s.stage1 t lane va size need with
  | .ok p => p
  | .error _ => .virtual va

/-! ## Strong accesses of mixed sizes (R136, R371) -/

/-- The size under which a home records a strong access that is issued now: with MIXCHK clear none (R371), which 31 stands for. -/
def State.strongSize (s : State) (size : Nat) : Nat := if s.curCtx.mixchk.getLsbD 0 then size else 31

/-- The size under which a home records a strong access whose issuer had MIXCHK set or clear then. -/
def sizeUnder (chk : Bool) (size : Nat) : Nat := if chk then size else 31

/-- Whether a strong access meets a granule recorded with another size (R136). -/
def State.mixes (s : State) (loc size : Nat) : Bool :=
  let was := tget 0 s.coh.granules (loc / 16)
  decide (size ≠ 0) && decide (size ≠ 31) && was != 0 && was != size

/-- Whether a location has a home that records strong accesses: a slice or a memory-side unit, not a core's store (R136). -/
def recorded (loc : Nat) : Bool := locKind loc == 0 || locKind loc == 4 || locKind loc == 6

/-- Records the size of a strong access at the home and raises MIXSIZE where another size overlaps; size 0 is no strong access. -/
def State.noteStrong (s : State) (team loc size : Nat) : State :=
  if size = 0 || !recorded loc then s
  else
    let s' := { s with coh := { s.coh with granules := tset 0 s.coh.granules (loc / 16) (if size = 31 then 0 else size) } }
    if s.mixes loc size then s'.modTeam team (fun t => t.keepTrap tMIXSIZE) else s'

/-- The context of a team. -/
def State.ctxOfTeam (s : State) (u : Nat) : Nat := (((s.team? u).bind (fun t => s.wg? t.wg)).map Wg.ctx).getD 0

/-- Records the strong accesses of an entry: each a team, a location and a size. -/
def State.noteAll (s : State) (xs : List (Nat × Nat × Nat)) : State :=
  xs.foldl (fun s x => s.noteStrong x.1 x.2.1 x.2.2) s

/-! ## Copies of a line, and performing at once (R340–R342, log entry 6) -/

/-- Whether a host may have bytes of a line that are not performed yet: a half in A (R388). -/
def BridgeLine.owned (b : BridgeLine) : Bool := b.h0 == .a || b.h1 == .a

/-- Whether a host holds a half of a line with the right to write it. -/
def State.hostOwned (s : State) (line : Nat) : Bool :=
  s.ports.any (fun p => p.2.lines.any (fun b => b.line == line && b.owned))

/-- Whether a host holds a half of a line. -/
def State.hostHeld (s : State) (line : Nat) : Bool :=
  s.ports.any (fun p => p.2.lines.any (fun b => b.line == line && b.held))

/-- The snoops of a line: each A half down to S, or every held half to I (R388). -/
def BridgeLine.snoop (b : BridgeLine) (shared asked : Bool) : BridgeLine :=
  { b with
    snoop0 := if shared then b.h0 == .a else b.h0 != .i
    snoop1 := if shared then b.h1 == .a else b.h1 != .i
    toShared := shared
    asked := asked }

/-- Whether a snoop of a tracked line is not answered. -/
def BridgeLine.snooping (b : BridgeLine) : Bool := b.snoop0 || b.snoop1

/-- A bridge snoops a line for an access that its home performs itself. -/
def State.snoopLine (s : State) (line : Nat) (shared : Bool) : State :=
  { s with ports := s.ports.map (fun (p : Nat × HostPort) => (p.1, { p.2 with lines := p.2.lines.map (fun b =>
      if b.line == line && !b.snooping && (if shared then b.owned else b.held) then b.snoop shared false else b) })) }

/-! ## Copies and their holds (R207–R213) -/

/-- What a copy needs of its destination: CRA adds there, which the operand buffer does not take in. -/
def copyNeed (add : Bool) : Need := ⟨add, true, add, false, false⟩

/-- Whether a place is on another device. -/
def Space.remote : Space → Bool
  | .peer _ _ => true
  | .member _ => true
  | _ => false

/-- Whether a transfer's source is on another device. -/
def Xfer.farSource (x : Xfer) : Bool := x.srcSpace.remote

/-- Whether a transfer's destination is on another device. -/
def Xfer.farDest (x : Xfer) : Bool := x.dstSpace.remote

/-- Whether a destination line is held through the directory (R208): translated hardware-coherent or handover memory
and chip scratchpad. -/
def Xfer.viaHome (x : Xfer) : Bool :=
  match x.dstSpace with
  | .hardware => true
  | .handover => true
  | .chip => true
  | _ => false

/-- Where a transfer's destination lies, if its page is translated or can be now. -/
def State.dstNow (s : State) (x : Xfer) : Option Nat :=
  match x.dstVa with
  | none => some x.dst
  | some va =>
    match (s.translate x.ctx va (copyNeed x.add.isSome)).2 with
    | .at_ _ loc => some loc
    | _ => none

/-- Whether an issuer has a copy whose lines are not all held yet (R208). -/
def State.copiesOpen (s : State) (issuer seq : Nat) : Bool :=
  s.xfers.any (fun x => x.issuer == issuer && decide (x.seq < seq) && !x.granted && !x.done)

/-- Whether an issuer's access to a place must wait for an earlier copy of its own that writes there, and whose write no recall
brings about yet: its line is not held, or it lies on another device (R208, R210). Where the copy's page is not mapped, virtual
addresses decide; a place without one waits. -/
def State.copyAhead (s : State) (issuer seq : Nat) (va : Option Nat) (loc size : Nat) : Bool :=
  s.xfers.any (fun x => x.issuer == issuer && decide (x.seq < seq) && !x.done && (!x.granted || x.farDest) &&
    (match s.dstNow x, x.dstVa, va with
    | some dst, _, _ => overlaps loc size dst x.size
    | none, some v, some a => overlaps a size v.toNat x.size
    | none, _, _ => true))

/-- Whether a translated transfer must wait for an earlier copy of its issuer: one that writes its destination or its source
(R208, R210). -/
def State.copyWaits (s : State) (x : Xfer) : Bool :=
  s.copyAhead x.issuer x.seq none x.dst x.size || s.copyAhead x.issuer x.seq none x.src x.size

/-- Whether a granted transfer still has to write a line of a range. -/
def Xfer.holds (x : Xfer) (loc size : Nat) : Bool :=
  x.granted && !x.done && !x.farDest && decide (lineOf loc ≤ lineOf x.dst) && decide (lineOf x.dst ≤ lineOf (loc + size - 1))

/-- Sums of elements under a TYPE over `size` bytes (R151, R213). -/
def addElems (ty size old b : Nat) : Nat :=
  ((List.range (size * 8 / typeWidth ty)).map (fun e =>
    (binElem .add ty Env.nearest (elemOf ty old e) (elemOf ty b e)).bits * 2 ^ (typeWidth ty * e))).sum

/-- Changes the transfers of one copy instruction. -/
def State.modCopy (s : State) (core seq : Nat) (f : Xfer → Xfer) : State :=
  { s with xfers := s.xfers.map (fun x => if x.core == core && x.seq == seq then f x else x) }

/-- Changes one transfer. -/
def State.modXfer (s : State) (x y : Xfer) : State := { s with xfers := s.xfers.map (fun z => if z = x then y else z) }

/-- Held lines of a streamer that no transfer remains to write are released at once (R209). -/
def State.releaseIdle (s : State) (core : Nat) : State :=
  ((s.coh.copies.filter (fun k => k.agent == 256 + core && k.st == .h)).map Copy.line).foldl (fun s line =>
    if s.xfers.any (fun x => x.core == core && x.viaHome && x.granted && !x.done && lineOf x.dst == line) then s
    else s.releaseHold (256 + core) line) s

/-- A poisoned source (R211): the instruction is replayed once, its held lines released; the second time its transfers end with
no further write. -/
def State.copyPoison (s : State) (x : Xfer) : State :=
  (if x.retried then s.modCopy x.core x.seq (fun y => if y.done then y else { y with done := true, dropped := true })
   else s.modCopy x.core x.seq (fun y => { y with retried := true, done := false, granted := false, staged := none, tags := [] })).releaseIdle
    x.core

/-- The bytes that an atomic, a reduction or an add reads at the place where it is performed: memory's own (R137, R155, R213);
free while the host holds a handover region (R383, log entry 5). -/
def State.oldValue (s : State) (core team : Nat) (space : Space) (loc size : Nat) : Nat :=
  if decide (space = .handover) && !s.deviceHolds loc then s.readAt core team space loc size else s.memNat loc size

/-- The streamer writes one transfer (R207, R209, R213): dropped on a live barrier word. -/
def State.putXfer (s : State) (x : Xfer) : State :=
  if s.hitsBarrier x.dst x.size then (s.modXfer x { x with done := true, dropped := true }).releaseIdle x.core
  else if x.staged.isNone && s.poisoned x.src x.size then s.copyPoison x
  else
    let v := match x.staged with
      | some v => v.toNat
      | none => s.readAt x.core x.issuer x.srcSpace x.src x.size
    let new := match x.add with
      | some ty => addElems ty x.size (s.oldValue x.core x.issuer x.dstSpace x.dst x.size) v
      | none => v
    let s := s.performIn x.dstSpace (cellsFrom x.dst (leBytes x.size new)) 0 none []
    (s.modXfer x { x with done := true }).releaseIdle x.core

/-- A recall of the lines of a range: every granted transfer to them is written, in issue order, its source after the
transfers that hold that (R209). -/
def State.forceCopies : Nat → Nat → Nat → State → State
  | 0, _, _, s => s
  | n + 1, loc, size, s =>
    (s.xfers.filter (fun x => x.holds loc size)).foldl (fun s x =>
      let s := State.forceCopies n x.src x.size s
      match s.xfers.find? (fun y => y = x) with
      | some y => s.putXfer y
      | none => s) s

/-- A recall, where copies are under way at all. -/
def State.recallCopies (s : State) (loc size : Nat) : State :=
  if s.xfers = [] then s else State.forceCopies 3 loc size s

/-! ## The lines of an L1 (R138, R166, R191) -/

/-- A line leaves a core's L1: dirty bytes of a software-managed line go home under the byte mask (R138), a line under the
directory is given up (R340). -/
def State.dropL1 (s : State) (core line : Nat) : State :=
  let s := match s.managedCopy core line with
    | none => s
    | some k =>
      let s := { s with coh := { s.coh with copies := s.coh.copies.filter (fun x => decide (x ≠ k)) } }
      if k.dirty = [] then s else (s.recallCopies (line * 128) 128).writeMem k.dirty
  s.giveUp core line

/-- A way for a line in a core's L1: a full set gives up one of its lines that neither a bobbin pins nor a read set holds;
pseudo-LRU is not fixed further, so which one is free (R191, log entry 8). With none, a read-set line cannot be kept. -/
def State.l1Room (s : State) (core line : Nat) : State :=
  let set := ((s.coh.copies.filter (fun k => k.agent == core && k.line % 1024 == line % 1024 && k.line != line)).map
    Copy.line).eraseDups
  if set.length < 12 then s
  else
    let loose := set.filter (fun l => !s.pinned core l)
    let free := loose.filter (fun l => !s.inReadSet core l)
    let from_ := if free = [] then loose else free
    match from_[Config.pick s.fresh % from_.length]? with
    | some l => (s.draw.loseLine core l).dropL1 core l
    | none => s

/-- Installs a copy. -/
def State.setCopy (s : State) (agent line : Nat) (st : CopyState) (stamp : BitVec 16) : State :=
  let s := s.dropCopy agent line
  let s := if agent < 192 then s.l1Room agent line else s
  { s with coh := { s.coh with copies := s.coh.copies ++ [⟨agent, line, st, stamp, false, [], [], s.cycle⟩] } }

/-- A software-managed line fetched into a core's L1 with a lease (R138, R343). -/
def State.putManaged (s : State) (core line : Nat) (dirty : List Host.Cell) : State :=
  let s := (s.recallCopies (line * 128) 128).l1Room core line
  let k : Copy := ⟨core, line, .s, s.grantStamp core, true, cellsFrom (line * 128) (cellBytes s.mem (line * 128) 128), dirty, s.cycle⟩
  { s with coh := { s.coh with copies := s.coh.copies ++ [k] } }

/-- A software-managed line that a core reads is in its L1 (R138). -/
def State.fetchManaged (s : State) (core loc : Nat) : State :=
  if (s.managedCopy core (lineOf loc)).isSome then s else s.putManaged core (lineOf loc) []

/-- New bytes of a software-managed line in a core's copy: dirty there, no other core sees them (R138). -/
def State.dirtyManaged (s : State) (core : Nat) (cells : List Host.Cell) : State :=
  cells.foldl (fun s c =>
    let line := lineOf c.1
    if (s.managedCopy core line).isSome then
      { s with coh := { s.coh with copies := s.coh.copies.map (fun k =>
        if k.agent == core && k.line == line && k.managed then { k with dirty := aput k.dirty c.1 c.2 } else k) } }
    else s.putManaged core line [c]) s

/-- A software-managed copy's dirty bytes of a line are written home and the copy is invalidated (R138, R149). -/
def State.flushManaged (s : State) (core line : Nat) : State :=
  match s.managedCopy core line with
  | none => s
  | some k =>
    let s := { s with coh := { s.coh with copies := s.coh.copies.filter (fun x => decide (x ≠ k)) } }
    if k.dirty = [] then s else (s.recallCopies (line * 128) 128).writeMem k.dirty

/-- Whether a core has a binding on a software-managed line. -/
def State.boundManaged (s : State) (core line : Nat) : Bool :=
  s.teams.any (fun t => t.live && s.teamCore t == core &&
    t.bindings.any (fun e => decide (e.2.space = .software) && lineOf e.2.loc == line))

/-- A bound line of a software-managed region has been fetched: PEND where the bound bytes differ from those held (R166). -/
def State.markDiffering (s : State) (core line : Nat) : State :=
  s.mapTeams (fun t =>
    if t.live && s.teamCore t == core then
      { t with bindings := t.bindings.map (fun e =>
          if decide (e.2.space = .software) && lineOf e.2.loc == line then
            let now := s.readAt core t.uid .software e.2.loc e.2.size
            if e.2.held = some now then e else (e.1, { e.2 with held := some now, pend := true, since := t.now })
          else e) }
    else t)

/-- A bound line of a software-managed region that has left the L1 is fetched again (R166). -/
def State.refetchBound (s : State) (core line : Nat) : State :=
  if s.boundManaged core line then (s.fetchManaged core (line * 128)).markDiffering core line else s

/-- The bytes held by a binding of a software-managed region, or of a handover region, after a write made through it (R160, R166,
R382). -/
def Team.wrote (t : Team) (key : Nat) (cells : List Host.Cell) : Team :=
  match alook t.bindings key with
  | none => t
  | some b =>
    match (decide (b.space = .software) || decide (b.space = .handover)), b.held with
    | true, some x =>
      let bs := (List.range b.size).map (fun i =>
        (coverByte cells (b.loc + i)).getD (BitVec.ofNat 8 (x / 256 ^ i)))
      { t with bindings := aput t.bindings key { b with held := some (leNat bs) } }
    | _, _ => t

/-- The result of an atomic or reduction on an old value (R151, R152): integers wrap, floating point rounds to
nearest-even element by element, bitwise forms act on all bits. -/
def atomicNew (op : AtOp) (ty : Nat) (old b other : Nat) : Nat :=
  let w := if wide ty then 64 else 32
  let ews (f : Nat → Nat → Nat) : Nat :=
    ((List.range (typeCount ty)).map (fun e => f (elemOf ty old e) (elemOf ty b e) * 2 ^ (typeWidth ty * e))).sum
  match op with
  | .add => ews (fun x y => (binElem .add ty Env.nearest x y).bits)
  | .min => ews (fun x y => (binElem .min ty Env.nearest x y).bits)
  | .max => ews (fun x y => (binElem .max ty Env.nearest x y).bits)
  | .and => (old &&& b) % 2 ^ w
  | .or => (old ||| b) % 2 ^ w
  | .xor => (old ^^^ b) % 2 ^ w
  | .xch => b % 2 ^ w
  | .cas => if old = b % 2 ^ w then other % 2 ^ w else old

/-! ## Stage 2 over lanes (R140) -/

/-- The entries that a walk of an address reads are read coherently: copies that hold their lines have written them (R209,
R356). -/
def State.recallWalk (va : DWord) : Nat → Nat → Nat → State → State
  | left, level, table, s =>
    let at_ := table + 8 * levelIndex va level
    let s := s.recallCopies (lineOf at_ * 128) 128
    let e := BitVec.ofNat 64 (cellNat s.mem at_ 8)
    match left with
    | 0 => s
    | n + 1 => if e.getLsbD 0 && !e.getLsbD 1 then State.recallWalk va n (level + 1) (entryPa e) s else s

/-- A walk of a context's tables is about to be made, where copies are under way at all. -/
def State.beforeWalk (s : State) (c : Nat) (va : DWord) : State :=
  if s.xfers = [] then s else State.recallWalk va 3 0 ((s.ctx c).ptroot.extractLsb' 0 48).toNat s

/-- A place that stage 1 has left is about to be translated. -/
def State.beforePlace (s : State) (c : Nat) (p : Pre) : State :=
  match p with
  | .virtual va => s.beforeWalk c va
  | .direct _ _ => s

/-- Stage 2 of a list of accesses, in order: each lane's site. -/
def State.sites (need : Need) : List (Nat × DWord × Nat) → State → State × List (Nat × Site)
  | [], s => (s, [])
  | x :: xs, s =>
    let p := s.preOf s.cur need x.1 x.2.1 x.2.2
    let r := (s.beforePlace s.curCtxNum p).stage2 s.curCtxNum s.curWg p x.2.2 need
    let rest := State.sites need xs r.1
    (rest.1, (x.1, r.2) :: rest.2)

/-- The trap of a faulted site. -/
def Site.trap? : Site → Option Trap
  | .at_ _ _ => none
  | .gone t => some t
  | .miss t _ => some t

/-- The page that a site asks service for. -/
def Site.page? : Site → Option (Trap × Nat)
  | .miss t p => some (t, p)
  | _ => none

/-- Whether a site has no fault. -/
def Site.ok : Site → Bool
  | .at_ _ _ => true
  | _ => false

/-- The pages that fault service is asked for, each once. -/
def missPages (fs : List (Nat × Site)) : List (Trap × Nat) :=
  (fs.filterMap (fun f => f.2.page?)).foldl (fun l p => if l.any (fun q => q.2 == p.2) then l else l ++ [p]) []

/-- Asks service for a list of pages on behalf of the issuing team. -/
def State.askPages (s : State) (access : Nat) (wait : Bool) (ps : List (Trap × Nat)) : State :=
  ps.foldl (fun s p =>
    s.askPage s.curCtxNum p.2 access p.1 (if wait then (0, s.cur.uid) else (9, 0))
      (s.partyArg s.cur.wg s.cur.index 0)) s

/-- After stage 2 (R141): with no fault the instruction is complete; a fault that service handles parks the team until
every answer is in; otherwise the trap is taken for the lanes that have not completed. In a region the lanes abort at
once and service is still asked (R271). -/
def State.afterSites (s : State) (need : Need) (scalar : Bool) (rs : List (Nat × Site)) : Res :=
  let fs := rs.filter (fun f => !f.2.ok)
  let lanes := if scalar then 0 else maskOf (fs.map (fun f => f.1))
  let conds : List Cond := fs.filterMap (fun f => f.2.trap?.map (fun t => (some f.1, t)))
  let pages := missPages fs
  if fs = [] then .done s
  else if s.cur.inRegion then .trap (s.askPages need.access false pages) conds (maskOf (fs.map (fun f => f.1)))
  else if pages = [] then .trap s conds lanes
  else
    let s := s.askPages need.access true pages
    .stay (s.setCur { s.cur with
      park := .page
      service := some {
        asked := pages.map (fun p => (p.2, need.access))
        failed := []
        final := fs.filterMap (fun f =>
          match f.2 with
          | .gone t => some (f.1, t)
          | _ => none)
        lanes := if scalar then BitVec.allOnes 1024 else lanes
        scalar := scalar } })

/-- Whether a location is in a peer's memory or in a member's window on another device. -/
def farPlace (loc : Nat) : Bool := locKind loc == 6 || locKind loc == 7

/-! ## Performing at memory (R135–R138, R154, R155) -/

/-- Poison on a list of granules. -/
def State.addPoison (s : State) (gs : List Nat) : State := { s with poison := (s.poison ++ gs).eraseDups }

/-- The granules of a range. -/
def granulesOf (loc size : Nat) : List Nat :=
  (List.range (granuleOf (loc + size - 1) + 1 - granuleOf loc)).map (fun i => granuleOf loc + i)

/-- An atomic or a reduction at its place: the old value read and the new one written, adjacent in coherence order; in a
software-managed region at the home, on the line written back (R138, R155). Poisoned bytes stay poisoned and the team takes MCHK
(R198). The old and the new value. -/
def State.updateAt (s : State) (core team : Nat) (space : Space) (loc size : Nat) (own : Option Nat) (f : Nat → Nat) :
    State × Nat × Nat :=
  let line := lineOf loc
  let managed := decide (space = .software)
  let s := if managed then s.flushManaged core line else s
  let bad := s.poisoned loc size
  let old := s.oldValue core team space loc size
  let new := f old
  let cells := cellsFrom loc (leBytes size new)
  let s := (if decide (space = .handover) then s.draw else s).performIn space cells team own []
  let s := if bad then (s.addPoison ((granulesOf loc size).filter s.poison.contains)).modTeam team (fun t => t.keepTrap (tMCHK 1)) else s
  let s := match own with
    | some k => s.modTeam team (fun t => t.wrote k cells)
    | none => s
  (if managed then s.refetchBound core line else s, old, new)

/-! ## The store path (R192) -/

/-- Whether an entry touches bytes of another. -/
def StoreEntry.meets (e x : StoreEntry) : Bool :=
  match x.red with
  | some r => e.touches x.loc r.size
  | none => x.cells.any (fun c => e.touches c.1 1)

/-- Writes of an entry's bytes or its reduction at their point of performance; bytes of a software-managed region stay in the
core's copy, except reductions (R138). `skip` are the cores that the write has reached before. -/
def State.performEntry (s : State) (e : StoreEntry) (skip : List Nat) : State :=
  let s := (s.recallCopies (lineOf e.loc * 128) 128).noteAll e.strong
  match e.red with
  | some r => (s.updateAt e.core e.tag.team e.space e.loc r.size e.tag.own (fun old => atomicNew r.op r.type old r.operand.toNat 0)).1
  | none =>
    if decide (e.space = .software) then s.dirtyManaged e.core e.cells
    else s.performIn e.space e.cells e.tag.team e.tag.own skip

/-- The entries of a core's path that are performed before an access of a team to a range: those there that the team reads, and
earlier ones that lie over bytes of these. -/
def needed (core team loc size : Nat) : List StoreEntry → List StoreEntry
  | [] => []
  | e :: es =>
    let later := needed core team loc size es
    if e.seenBy core team && (e.touches loc size || later.any (fun x => x.meets e)) then e :: later else later

/-- An entry of the path is performed where it stands, and leaves it. -/
def State.performNow (s : State) (e : StoreEntry) : State :=
  let s := s.performEntry e [e.core]
  { s with path := s.path.erase e }

/-- A core's own pending writes to a range are performed, oldest first, before an atomic there (R135, R155). -/
def State.forceRange (s : State) (core team loc size : Nat) : State :=
  (needed core team loc size s.path).foldl State.performNow s

/-- The bindings and read sets of one core that a write of that core reaches as soon as it enters the store path (R137, R157,
R270), of the teams of a test; the walker resolves notices for spilled bobbins (R171). -/
def State.reachCore (s : State) (core : Nat) (cells : List Host.Cell) (team : Nat) (own : Option Nat) (who : Team → Bool) :
    State :=
  let lines := linesOf cells
  let s := s.mapTeams (fun t =>
    if s.teamCore t == core && who t then
      (let t := noticeBindings lines team own t
       if t.uid == team then t else markRegions lines t)
    else t)
  let due := lines.filter (fun line =>
    s.teams.any (fun t => s.teamCore t == core && awaitsNotice line t) &&
      !s.coh.msgs.any (fun m => m.kind == .change && m.agent == core && m.line == line))
  if due = [] then s
  else { s with coh := { s.coh with msgs := s.coh.msgs ++ due.map (fun line => ⟨.change, core, line, core, false⟩) } }

/-- Whether a store merges into an entry (R192): it lies over bytes held there, nothing holds the one more than the other, and
neither is a reduction; a packet to a peer names three strong stores at most. -/
def StoreEntry.takes (e x : StoreEntry) : Bool :=
  e.core == x.core && decide (e.space = x.space) && lineOf e.loc == lineOf x.loc && e.red.isNone && x.red.isNone &&
    (decide ((e.strong ++ x.strong).length ≤ 3) || !farPlace e.loc) &&
    (decide (x.hold = []) || decide (x.hold = e.hold)) && (decide (e.hold = []) || e.tag.team == x.tag.team) && e.meets x

/-- An entry with a store merged into it. -/
def StoreEntry.merge (e x : StoreEntry) : StoreEntry :=
  { e with cells := e.cells ++ x.cells, strong := e.strong ++ x.strong, merged := e.merged ++ x.tags }

/-- Adds a store to a path: merged into the last entry that lies over bytes of it, if that takes it, else an entry of its own
(R192). `es` is the path from its end. -/
def mergePath (x : StoreEntry) : List StoreEntry → Option (List StoreEntry)
  | [] => none
  | e :: es =>
    if e.core == x.core && e.meets x then (if e.takes x then some (e.merge x :: es) else none)
    else (mergePath x es).map (fun r => e :: r)

/-- A store enters the path (R192). -/
def addPath (x : StoreEntry) (es : List StoreEntry) : List StoreEntry :=
  match mergePath x es.reverse with
  | some r => r.reverse
  | none => es ++ [x]

/-- A write reaches its place (R137, R192): the operand buffer and stores of the device at once where nothing is before it,
everything else through the core's store path. A write that an earlier release or fence holds reaches its own team only. Writes
of one team to different places that no fence orders may be performed in either order: those that reach a store of the device are
performed at once, in program order (R318; DESIGN CHOICE, log entry 72). -/
def State.enterPath (s : State) (e : StoreEntry) : State :=
  let local_ := decide (e.space = .store) || decide (e.space = .opBuf)
  let s := match e.tag.own with
    | some k => s.modTeam e.tag.team (fun t => t.wrote k e.cells)
    | none => s
  if local_ && decide (e.hold = []) && !s.path.any (fun x => x.core == e.core && x.meets e) &&
      !s.copiesOpen e.tag.team e.tag.seq then s.performEntry e []
  else
    let s := { s with path := addPath e s.path }
    if e.red.isSome || (decide (e.space = .handover) && !s.deviceHolds e.loc) then s
    else s.reachCore e.core e.cells e.tag.team e.tag.own (fun t => decide (e.hold = []) || t.uid == e.tag.team)

/-! ## Loaded values reach their registers (R27, R139, R161, R174, R178, R190) -/

/-- The core of a team by its name. -/
def State.coreOf (s : State) (u : Nat) : Nat := ((s.team? u).map s.teamCore).getD 0

/-- Whether a register of a lane is bound. -/
def Team.isBound (t : Team) (l r : Nat) : Bool :=
  (alook t.bindings (vkey l r)).isSome ||
    (r ≠ 0 && ((alook t.bindings (vkey l (r - 1))).map Binding.size8).getD false)

/-- The binding that covers a register of a lane: its first register and its record. -/
def Team.boundAt (t : Team) (l r : Nat) : Option (Nat × Binding) :=
  match alook t.bindings (vkey l r) with
  | some b => some (r, b)
  | none =>
    if r = 0 then none
    else
      match alook t.bindings (vkey l (r - 1)) with
      | some b => if b.size8 then some (r - 1, b) else none
      | none => none

/-- The 32-bit words of a load's value: extension of a short one (R143), else the words in order. -/
def Load.word (l : Load) (i : Nat) : Word :=
  match l.value with
  | none => 0
  | some v =>
    match l.ext with
    | .none => BitVec.ofNat 32 (v.toNat / 2 ^ (32 * i))
    | .zero => BitVec.ofNat 32 (v.toNat % 2 ^ (8 * l.size))
    | .sign => (if l.size = 1 then (v.extractLsb' 0 8).signExtend 32 else (v.extractLsb' 0 16).signExtend 32)

/-- What holds a write back: the earlier fences of its team, and itself if it is a release, as far as the accesses before them
are not complete (R146, R150). -/
def State.holdOf (s : State) (team seq : Nat) (release : Option Nat) : List (Nat × Nat) :=
  let fences := ((s.team? team).map Team.fencer).getD []
  (fences.filter (fun h => decide (h.1 < seq)) ++ (release.map (fun scope => (seq, scope))).toList).filter
    (fun h => !s.accessesDone team h.1 h.2)

/-- The stores that a load's destination makes when it is a bound register (R139): through the binding's own place, held by the
fences before the load. -/
def State.storeThrough (s : State) (l : Load) (b : Binding) (key off size value : Nat) : State :=
  let loc := b.loc + off
  s.enterPath
    { core := s.coreOf l.team
      space := b.space
      loc := loc
      cells := cellsFrom loc (leBytes size value)
      red := none
      hold := s.holdOf l.team l.seq none
      strong := [(l.team, loc, sizeUnder l.chk size)]
      tag := ⟨l.team, l.seq, l.setb, l.scope, some key⟩
      merged := [] }

/-- One word of a load reaches its register; a bound register stores it (R27, R139, R190). -/
def State.deliver (s : State) (l : Load) (d : Dest) (w : Word) : State :=
  match d with
  | .none => s
  | .scal n => s.modTeam l.team (fun t => t.sset n w)
  | .vec lane r =>
    match s.team? l.team with
    | none => s
    | some t =>
      let through : Bool := match l.kind with
        | .bind _ _ _ _ => false
        | .bound _ _ _ _ _ => false
        | .token => false
        | _ => true
      let s' := s.modTeam l.team (fun t => t.vset l.short lane r w)
      if !through then s'
      else
        match t.boundAt lane r with
        | none => s'
        | some (f, b) => s'.storeThrough l b (vkey lane f) (4 * (r - f)) 4 w.toNat

/-- The 8-byte binding that two destinations lie over together, with their lane and first register. -/
def Team.pairOver (t : Team) : Option Dest → Option Dest → Option (Nat × Nat × Binding)
  | some (.vec l r), some (.vec l' r') =>
    match t.boundAt l r with
    | some (f, b) => if l' = l ∧ r' = r + 1 ∧ f = r ∧ b.size8 = true then some (l, r, b) else none
    | none => none
  | _, _ => none

/-- Two words of a load reach a pair over an 8-byte binding: one 8-byte store (R161). -/
def State.deliverPair (s : State) (l : Load) (x : Nat × Nat × Binding) (lo hi : Word) : State :=
  let s := s.modTeam l.team (fun t => (t.vset l.short x.1 x.2.1 lo).vset l.short x.1 (x.2.1 + 1) hi)
  s.storeThrough l x.2.2 (vkey x.1 x.2.1) 0 8 (pairOf lo hi).toNat

/-- Removes bindings of a lane that cover a register (R163, R174). -/
def Team.unbindReg (t : Team) (lane r : Nat) : Team :=
  match t.boundAt lane r with
  | none => t
  | some (f, _) => { t with bindings := adel t.bindings (vkey lane f) }

/-! ## Performing a load or an atomic -/

/-- Whether a team of a core may perform an atomic on some bytes now (R155): where the directory tracks the line the L1 holds it
exclusive, or its home slice performs it in chip scratchpad; the lines of the team's earlier copies are held, and no earlier write
there waits for such holds or for a release (R146, R208). -/
def State.mayRmw (s : State) (core team seq : Nat) (space : Space) (loc size : Nat) : Bool :=
  (!s.coherent space loc || (if decide (space = .chip) then !s.locked (lineOf loc) else s.owns core (lineOf loc))) &&
    !s.copiesOpen team seq &&
    (needed core team loc size s.path).all (fun e => decide (e.hold = []) && !e.tags.any (fun g => s.copiesOpen g.team g.seq))

/-- Whether a core reads some bytes where it stands: the directory does not track the line, or its home slice answers (chip
scratchpad), or the L1 holds it in a state that serves reads (R336), or the store path serves them all to the team (R192). -/
def State.readsHere (s : State) (core team : Nat) (space : Space) (loc size : Nat) : Bool :=
  !s.coherent space loc || decide (space = .chip) || (s.copyAt core (lineOf loc)).isSome ||
    (List.range size).all (fun i => (coverByte (s.overlay core team) (loc + i)).isSome)

/-- Whether a load of this device's memory can be performed now. -/
def State.loadReady (s : State) (l : Load) : Bool :=
  l.value.isSome || l.space.remote ||
    (if l.kind.rmw then s.mayRmw (s.coreOf l.team) l.team l.seq l.space l.loc l.size && !s.hostHeld (lineOf l.loc)
     else !s.hostOwned (lineOf l.loc) && s.readsHere (s.coreOf l.team) l.team l.space l.loc l.size)

/-- A read of a place that cannot be made yet asks for what it lacks: the line, or the bytes that a host holds (R340, R388). -/
def State.askRead (s : State) (core : Nat) (space : Space) (loc : Nat) : State :=
  if s.coherent space loc && decide (space ≠ .chip) then s.askShared core (lineOf loc) else s.snoopLine (lineOf loc) true

/-- A load that cannot be performed yet asks for what it lacks: the line, or the hosts' halves (R155, R340, R388). -/
def State.prepareLoad (s : State) (l : Load) : State :=
  let line := lineOf l.loc
  let core := s.coreOf l.team
  if !l.kind.rmw then s.askRead core l.space l.loc
  else if s.coherent l.space l.loc && decide (l.space ≠ .chip) then (if s.owns core line then s else s.askExclusive core line)
  else s.snoopLine line false

/-- A line that an L1 holds exclusive is written there. -/
def State.dirtyLine (s : State) (core line : Nat) : State :=
  { s with coh := { s.coh with copies := s.coh.copies.map (fun k =>
      if k.agent == core && k.line == line && !k.managed && k.st == .e then { k with st := .m } else k) } }

/-- An atomic performed at its place (R138, R153, R155), after the core's own writes there; a line of chip scratchpad at its home
slice. The old and the new value. -/
def State.performRmw (s : State) (l : Load) (op : AtOp) (ty : Nat) (b other : DWord) (own : Option Nat) :
    State × Nat × Nat :=
  let core := s.coreOf l.team
  let line := lineOf l.loc
  let s := (s.forceRange core l.team l.loc l.size).noteStrong l.team l.loc (sizeUnder l.chk l.size)
  let r := s.updateAt core l.team l.space l.loc l.size own (fun old => atomicNew op ty old b.toNat other.toNat)
  (if decide (l.space = .chip) then r.1.atHomeSlice line else r.1.dirtyLine core line, r.2)

/-- The value of a load fixed, and an atomic performed (R153, R178). -/
def State.performLoad (s : State) (l : Load) : State × Load :=
  if l.value.isSome then (s, l)
  else
    let s := s.recallCopies l.loc l.size
    match l.kind with
    | .atomic op ty b other =>
      let r := s.performRmw l op ty b other none
      (r.1, { l with value := some (BitVec.ofNat 128 r.2.1) })
    | .bound op ty b other _ =>
      let own := (l.dests.head?).bind (fun d =>
        match d.2 with
        | .vec lane rg => some (vkey lane rg)
        | _ => none)
      let r := s.performRmw l op ty b other own
      (r.1, { l with value := some (BitVec.ofNat 128 (r.2.2 + 2 ^ 64 * r.2.1)) })
    | _ =>
      let core := s.coreOf l.team
      let s := if decide (l.space = .software) then s.fetchManaged core l.loc else s
      let s := if decide (l.space = .handover) then s.draw else s
      (s, { l with value := some (BitVec.ofNat 128 (s.readAt core l.team l.space l.loc l.size)) })

/-- What a new binding holds to compare a later fetch with (R166): in a software-managed region the bytes fetched, in a handover
region that the host holds the bytes of that time. -/
def State.heldAt (s : State) (space : Space) (loc value : Nat) : Option Nat :=
  match space with
  | .software => some value
  | .handover => if s.deviceHolds loc then none else some value
  | _ => none

/-- A register that a binding covers carries no short-lived mark (R190). -/
def Team.unmark (t : Team) (keys : List Nat) : Team :=
  { t with shortLived := t.shortLived.filter (fun e => !keys.contains e.1) }

/-- A bind load is performed: the binding is registered with the read, all its words at once (R163, R174). -/
def State.bindReturn (s : State) (l : Load) (notify size8 : Bool) (va : Nat) (spilled : Bool) : State :=
  let r := s.performLoad { l with kind := .plain }
  match l.dests.head? with
  | some (_, .vec lane reg) =>
    let n := if size8 then 8 else 4
    let value := ((r.2.value.map BitVec.toNat).getD 0) % 256 ^ n
    let b : Binding := ⟨notify, size8, va, l.space, l.loc, false, false, spilled, r.1.cycle, r.1.cycle, false,
      r.1.heldAt l.space l.loc value⟩
    let s := r.2.dests.foldl (fun s d => s.deliver { r.2 with kind := l.kind } d.2 (r.2.word d.1)) r.1
    let s := s.holdBound (s.coreOf l.team) l.space l.loc spilled
    s.modTeam l.team (fun t =>
      let t := t.unbindReg lane reg
      let t := if size8 then t.unbindReg lane (reg + 1) else t
      ({ t with bindings := aput t.bindings (vkey lane reg) b }).unmark
        (if size8 then [vkey lane reg, vkey lane (reg + 1)] else [vkey lane reg]))
  | _ => r.1

/-- An atomic through a binding returns: the bound register takes the value left in memory, then the old value's
destination is written (R178). The value holds new below 2^64 and old above it. -/
def State.boundReturn (s : State) (l : Load) (old : List Dest) : State :=
  let r := s.performLoad l
  let s := r.2.dests.foldl (fun s d => s.deliver r.2 d.2 (r.2.word d.1)) r.1
  match (s.team? l.team).bind (fun t => t.pairOver old[0]? old[1]?) with
  | some x => s.deliverPair r.2 x (r.2.word 2) (r.2.word 3)
  | none => old.zipIdx.foldl (fun s d => s.deliver { r.2 with kind := .plain } d.1 (r.2.word (2 + d.2))) s

/-- A load of the list is performed: a binding is registered, an atomic through a binding returns, of the others the value is
fixed (R163, R178). -/
def State.settleLoad (s : State) (l : Load) : State :=
  let rest : State := { s with loads := s.loads.filter (fun (x : Load) => decide (x ≠ l)) }
  match l.kind with
  | .bind notify size8 va spilled => rest.bindReturn l notify size8 va spilled
  | .bound _ _ _ _ old => rest.boundReturn l old
  | _ =>
    let r := s.performLoad l
    { r.1 with loads := r.1.loads.map (fun x => if x = l then r.2 else x) }

/-- Loads of a team that overlap a range are performed before a later access of the team there (R135). Those of another
device are performed there, in the order of their requests. -/
def State.forceLoads (team loc size : Nat) : List Load → State → State
  | [], s => s
  | l :: ls, s =>
    State.forceLoads team loc size ls
      (if l.team == team && overlaps l.loc l.size loc size && l.value.isNone && !l.space.remote && l.kind.reads &&
          s.loads.contains l && s.loadReady l then s.settleLoad l else s)

/-- What an access does with the bytes it names. -/
inductive Touch where
  | read | write | rmw
deriving DecidableEq, Repr

/-- Whether a place is in the window of a member that is being pre-empted or is saved (R443): on this device by its workgroup, on
another by the issuer's own, which is pre-empted with it. -/
def State.memberStopped (s : State) (loc : Nat) : Bool :=
  let stopped (u : Nat) : Bool := (s.wg? u).any (fun w => w.phase == .stopping || w.phase == .saved)
  (locKind loc == 1 && decide (locId loc ≠ s.cur.wg) && stopped (locId loc)) || (locKind loc == 7 && stopped s.cur.wg)

/-- Whether a region switch holds the accesses to a place (R346). -/
def State.drained (s : State) (loc : Nat) : Bool :=
  s.switches.any (fun x => x.result == 0 && x.draining.contains (loc / 4096))

/-- Whether an access of the issuing team to some places (virtual address, location, size) must wait for an earlier access of
its own there: a load or atomic that cannot be performed yet, a copy that does not hold its lines (R135, R208); a read waits for
a reduction in the store path (R137), an atomic for a write that a release or fence holds (R146), one that leaves the device also
for every write of the team there and for its copies' holds, since it is on its way from its issue on (R135, R208); every access
waits for a member of the hank that has stopped issuing (R443), and for the region switch that drains its page (R346). -/
def State.mustWait (s : State) (how : Touch) (ps : List (Nat × Nat × Nat)) : Bool :=
  let u := s.cur.uid
  let core := s.curCore
  ps.any (fun p =>
    s.memberStopped p.2.1 || s.drained p.2.1 || s.copyAhead u s.nextSeq (some p.1) p.2.1 p.2.2 ||
    s.loads.any (fun l => l.team == u && l.value.isNone && l.kind.reads && !l.space.remote && overlaps l.loc l.size p.2.1 p.2.2 &&
      !s.loadReady l) ||
    (how == .read && s.path.any (fun e => e.red.isSome && e.seenBy core u && e.touches p.2.1 p.2.2)) ||
    (how == .rmw && s.path.any (fun e => e.core == core && e.tag.team == u &&
      (decide (e.hold ≠ []) || farPlace p.2.1) && e.touches p.2.1 p.2.2)) ||
    (how == .rmw && farPlace p.2.1 && s.copiesOpen u s.nextSeq))

/-- The places of accesses whose sites have no fault: virtual address, location, size. -/
def placesOf (acc : List (Nat × DWord × Nat)) (rs : List (Nat × Site)) : List (Nat × Nat × Nat) :=
  (acc.zip rs).filterMap (fun x =>
    match x.2.2 with
    | .at_ _ loc => some (x.1.2.1.toNat, loc, x.1.2.2)
    | _ => none)

/-! ## Entering stores -/

/-- One lane's store: place, size, data. `own` is the key of the binding it is made through (R161); a reduction
carries its operation. -/
structure LaneStore where
  lane : Nat
  va : DWord
  size : Nat
  value : Nat
  own : Option Nat
  strong : Bool
  red : Option Reduction
deriving DecidableEq, Repr

/-- A store of the issuing team reaches its place, after the team's own earlier reads of its bytes (R135, R137, R192). -/
def State.enterStore (s : State) (seq : Nat) (release : Bool) (ls : LaneStore) (space : Space) (loc : Nat) : State :=
  let t := s.cur
  let s := State.forceLoads t.uid loc ls.size s.loads s
  s.enterPath
    { core := s.curCore
      space := space
      loc := loc
      cells := if ls.red.isSome then [] else cellsFrom loc (leBytes ls.size ls.value)
      red := ls.red
      hold := s.holdOf t.uid seq (if release then some t.scope else none)
      strong := if ls.strong || ls.red.isSome then [(t.uid, loc, s.strongSize ls.size)] else []
      tag := ⟨t.uid, seq, t.setb, t.scope, ls.own⟩
      merged := [] }

/-- The order in which the lanes of one instruction reach bytes that several of them write: hardware chooses
(R135, R153, log entry 8). Without a conflict the order makes no difference. -/
def pickOrder {α : Type} (fresh : Nat) : Nat → List α → List α
  | 0, l => l
  | n + 1, l =>
    match l with
    | [] => []
    | [x] => [x]
    | x :: xs =>
      let k := Config.pick (fresh + n) % (xs.length + 1)
      match (x :: xs)[k]? with
      | some y => y :: pickOrder fresh n ((x :: xs).eraseIdx k)
      | none => x :: pickOrder fresh n xs

/-- Whether two places of a list overlap. -/
def anyOverlap : List (Nat × Nat) → Bool
  | [] => false
  | x :: xs => xs.any (fun y => overlaps x.1 x.2 y.1 y.2) || anyOverlap xs

/-- Lane stores with their sites, in the order they take effect. DESIGN CHOICE (R154): the coalescer combines no operands of lanes
before they reach memory; each is applied on its own, in an order that hardware chooses where lanes meet (log entry 8). -/
def State.storeOrder (s : State) (xs : List (LaneStore × Site)) : List (LaneStore × Site) :=
  let places := xs.filterMap (fun x =>
    match x.2 with
    | .at_ _ loc => some (loc, x.1.size)
    | _ => none)
  if anyOverlap places then pickOrder s.fresh xs.length xs else xs

/-- The stores whose sites have no fault enter, in order. -/
def State.enterStores (seq : Nat) (release : Bool) : List (LaneStore × Site) → State → State
  | [], s => s
  | x :: xs, s =>
    match x.2 with
    | .at_ space loc => State.enterStores seq release xs (s.enterStore seq release x.1 space loc)
    | _ => State.enterStores seq release xs s

/-! ## Region lanes: inputs, constraints, buffered stores (R266–R270) -/

/-- Replaces a lane's region state. -/
def Team.setRlane (t : Team) (l : Nat) (r : RLane) : Team := { t with region := aput t.region l r }

/-- Concretises an input: one constraint, once per input; none at the ninth constraint (R266, R269). -/
def RLane.concretise (r : RLane) (i : Nat) : Option RLane :=
  match r.inputs[i]? with
  | none => some r
  | some x =>
    if x.concrete then some r
    else if 8 ≤ r.constraints then none
    else some { r with inputs := r.inputs.set i { x with concrete := true }, constraints := r.constraints + 1 }

/-- The register that carries the tag of a register: itself, or the even one of a tagged pair (R266). -/
def RLane.tagKey (r : RLane) (reg : Nat) : Option Nat :=
  if (alook r.tags reg).isSome then some reg
  else if reg = 0 then none
  else
    match alook r.tags (reg - 1) with
    | some x => if (r.inputs[x.input]?.map RInput.size) = some 8 then some (reg - 1) else none
    | none => none

/-- The tag that a register of the lane carries. -/
def RLane.tag? (r : RLane) (reg : Nat) : Option RTag := (r.tagKey reg).bind (alook r.tags)

/-- Concretises the inputs of a lane's tagged registers among `rs`; a ninth constraint aborts it with code 3. -/
def Team.concretiseLane (t : Team) (l : Nat) (rs : List Nat) : Team :=
  match t.rlane? l with
  | none => t
  | some r =>
    if !r.open_ then t
    else
      let ins := rs.filterMap (fun k => (r.tag? k).map RTag.input)
      match ins.foldlM (fun r i => RLane.concretise r i) r with
      | some r => t.setRlane l r
      | none => t.abortLanes (laneBit l) 3

/-- Concretises what the lanes that read an instruction's operands read (R266). -/
def State.concretise (s : State) (sp : Spec) (u : Uses) : State :=
  let rs := vRegsOf u.reads
  let t := s.cur.leader.toList.foldl (fun t l => t.concretiseLane l (vRegsOf u.lead)) s.cur
  s.setCur ((sp.readLanes u s.cur).foldl (fun t l => t.concretiseLane l rs) t)

/-- Concretises the registers that a cross-lane instruction reads across lanes, in every region lane where they are tagged
(R266). -/
def State.concretiseAll (s : State) (u : Uses) : State :=
  let rs := vRegsOf u.across
  s.setCur ((lanesOf s.cur.size s.cur.openLanes).foldl (fun t l => t.concretiseLane l rs) s.cur)

/-- A write to registers of a lane removes their tags (R266). -/
def Team.dropTags (t : Team) (l : Nat) (rs : List Nat) : Team :=
  match t.rlane? l with
  | none => t
  | some r => if r.open_ then t.setRlane l { r with tags := r.tags.filter (fun e => !(rs.filterMap r.tagKey).contains e.1) } else t

/-- An instruction that fills registers of some lanes later has removed their tags (R266). -/
def State.dropDests (s : State) (lanes regs : List Nat) : State :=
  if s.cur.inRegion then s.setCur (lanes.foldl (fun t l => t.dropTags l regs) s.cur) else s

/-- Gives a register of a lane a tag. -/
def Team.setTag (t : Team) (l reg : Nat) (x : RTag) : Team :=
  match t.rlane? l with
  | none => t
  | some r => if r.open_ then t.setRlane l { r with tags := aput r.tags reg x } else t

/-- The tag of a lane's register, if its region is open; a bound register reads as untagged (R165). -/
def Team.tagOf (t : Team) (l reg : Nat) : Option RTag :=
  match t.rlane? l with
  | none => none
  | some r => if r.open_ && !t.isBound l reg then r.tag? reg else none

/-- Whether a region lane may access a place (R265). -/
def regionPlace (t : Team) (space : Space) (loc : Nat) : Bool :=
  match space with
  | .hardware => true
  | .peer _ m => !m
  | .store => locKind loc == 2 && locId loc == t.uid
  | _ => false

/-- Buffers a store of a region lane (R268): in place of one of the same address and size, or in a new slot; a ninth
slot aborts the lane with code 4. -/
def Team.bufferStore (t : Team) (l : Nat) (x : RStore) : Team :=
  match t.rlane? l with
  | none => t
  | some r =>
    if r.stores.any (fun y => y.loc == x.loc && y.size == x.size) then
      t.setRlane l { r with stores := r.stores.map (fun y => if y.loc == x.loc && y.size == x.size then x else y) }
    else if 8 ≤ r.stores.length then t.abortLanes (laneBit l) 4
    else t.setRlane l { r with stores := r.stores ++ [x] }

/-- The bytes of a lane's read: its buffered stores over memory (R266). -/
def regionBytes (r : RLane) (mem : List Byte) (loc : Nat) : List Byte :=
  r.stores.foldl (fun bs x =>
    bs.zipIdx.map (fun e =>
      if x.loc ≤ loc + e.2 && loc + e.2 < x.loc + x.size then
        BitVec.ofNat 8 (x.value.toNat / 256 ^ (loc + e.2 - x.loc)) else e.1)) mem

/-- What a read of a region lane gives (R266): value, tag, and the lane's new state; or the abort code. A tag that the destination
does not keep is concretised. A line read through the lane window is no line of the read set (R270). DESIGN CHOICE (R269, log
entry 73): of several capacities that one load would exceed, the abort code is the lowest of 2, 3 and 5. -/
def regionRead (r : RLane) (memBytes : List Byte) (loc size : Nat) (concrete keep inWindow : Bool) :
    Except Nat (RLane × Nat × Option RTag) :=
  match r.stores.find? (fun x => x.loc == loc && x.size == size) with
  | some x =>
    match x.tag.filter (fun _ => !keep) with
    | none => .ok (r, x.value.toNat, x.tag)
    | some g =>
      match r.concretise g.input with
      | some r' => .ok (r', x.value.toNat, none)
      | none => .error 3
  | none =>
    let overlap := r.stores.any (fun x => overlaps x.loc x.size loc size)
    let line := lineOf loc
    if 4 ≤ r.inputs.length then .error 2
    else if (concrete || overlap) && decide (8 ≤ r.constraints) then .error 3
    else if !inWindow && !r.lines.any (fun e => e.1 == line) && decide (16 ≤ r.lines.length) then .error 5
    else
      let v := leNat memBytes
      let c := concrete || overlap
      let i := r.inputs.length
      let r' := { r with
        inputs := r.inputs ++ [⟨loc, size, BitVec.ofNat 128 v, c⟩]
        constraints := r.constraints + (if c then 1 else 0)
        lines := if inWindow || r.lines.any (fun e => e.1 == line) then r.lines else r.lines ++ [(line, false)] }
      .ok (r', leNat (regionBytes r memBytes loc), if c then none else some ⟨i, 0⟩)

/-! ## Writing registers, with the stores of bound registers (R86, R161, R165) -/

/-- A lane's result: the words of consecutive registers. -/
abbrev LaneWords := Nat × List Word

/-- Writes a lane's words to registers from `d` on. -/
def Team.vrun (t : Team) (short : Bool) (l d : Nat) : List Word → Team
  | [] => t
  | w :: ws => (t.vset short l d w).vrun short l (d + 1) ws

/-- The stores of one lane's write through its bindings: 8 bytes when a pair covers an 8-byte binding, else 4 bytes a
register (R161). `pair` says that the operand is written in pairs. -/
def Team.boundStores (t : Team) (pair : Bool) (l d : Nat) (ws : List Word) : List LaneStore :=
  ws.zipIdx.filterMap (fun e =>
    let r := d + e.2
    match t.boundAt l r with
    | none => none
    | some (f, b) =>
      let key := vkey l f
      if b.size8 && pair then
        if r = f then
          some ⟨l, BitVec.ofNat 64 b.addr, 8, (pairOf e.1 (ws.getD (e.2 + 1) 0)).toNat, some key, true, none⟩
        else if e.2 = 0 then some ⟨l, BitVec.ofNat 64 (b.addr + 4), 4, e.1.toNat, some key, true, none⟩
        else none
      else some ⟨l, BitVec.ofNat 64 (b.addr + 4 * (r - f)), 4, e.1.toNat, some key, true, none⟩)

/-- A region lane's stores through its bindings are buffered with the region's; a place that a region may not access aborts the
lane with code 8 (R165, R265). -/
def State.bufferBound (s : State) (xs : List LaneStore) : State :=
  xs.foldl (fun s x =>
    match x.own.bind (fun k => alook s.cur.bindings k) with
    | none => s
    | some b =>
      let loc := b.loc + (x.va.toNat - b.addr)
      if !regionPlace s.cur b.space loc then s.setCur (s.cur.abortLanes (laneBit x.lane) 8)
      else s.setCur (s.cur.bufferStore x.lane ⟨b.space, loc, x.size, BitVec.ofNat 128 x.value, none, x.own, s.cur.setb,
        s.curCtx.mixchk.getLsbD 0⟩)) s

/-- The stores of the lanes' results through the bindings of a destination. -/
def Team.destStoresOf (t : Team) (pair : Bool) (d : Nat) (ws : List LaneWords) : List LaneStore :=
  if t.bindings = [] then [] else ws.flatMap (fun w => t.boundStores pair w.1 d w.2)

/-- The stage-1 conditions of the stores of a destination's bound registers (R140, R161). -/
def State.boundConds (s : State) (pair : Bool) (d : Code) (ws : List LaneWords) : List Cond :=
  if isV d then
    s.stage1Conds s.cur Need.store ((s.cur.destStoresOf pair d.toNat ws).map (fun x => (x.lane, x.va, x.size)))
  else []

/-- The team waits; the instruction executes again. -/
def State.parkOn (s : State) (p : Park) : Res := .stay (s.setCur { s.cur with park := p })

/-- How the issuing team waits for some places: a wait for a stopped member is one that a save keeps (R443). -/
def State.parkFor (s : State) (ps : List (Nat × Nat × Nat)) : Res :=
  s.parkOn (if ps.any (fun p => s.memberStopped p.2.1) then .member else .access)

/-- The team runs again. -/
def State.unpark (s : State) : State := s.setCur { s.cur with park := .running }

/-- The lines of some places that stores reach through the store path: the operand buffer and stores of the device need none. -/
def pathLine (loc : Nat) : Option Nat := if locKind loc = 0 ∨ locKind loc = 4 ∨ farPlace loc = true then some (lineOf loc) else none

/-- Registers that a load stores through as it writes them (R139): not those a binding instruction binds or updates, but
the old value's. -/
def LoadKind.throughDests (dests : List (Nat × Dest)) : LoadKind → List Dest
  | .bind _ _ _ _ => []
  | .bound _ _ _ _ old => old
  | .token => []
  | _ => dests.map (fun d => d.2)

/-- The lines that the bound destinations of a core's outstanding loads store to when their words return (R139): room in the store
path that these have taken at issue. -/
def State.throughLines (s : State) (core : Nat) : List Nat :=
  s.loads.flatMap (fun l =>
    match s.team? l.team with
    | none => []
    | some t =>
      if t.bindings = [] || s.teamCore t != core then []
      else (l.kind.throughDests l.dests).filterMap (fun d =>
        match d with
        | .vec lane r => (t.boundAt lane r).bind (fun b => pathLine b.2.loc)
        | _ => none))

/-- The lines that a core's store path holds or has room kept for; 64 of them fill it (R192). -/
def State.pathLines (s : State) (core : Nat) : List Nat :=
  (((s.path.filter (fun e => e.core == core)).map (fun e => lineOf e.loc)) ++ s.throughLines core).eraseDups

/-- Whether the store path of the issuing team's core has no room for stores to some places (R192): for more than its 64 lines it
has to be empty first. -/
def State.pathShort (s : State) (locs : List Nat) : Bool :=
  let held := s.pathLines s.curCore
  let new := ((locs.filterMap pathLine).filter (fun l => !held.contains l)).eraseDups
  decide (held ≠ []) && decide (new ≠ []) && decide (Config.storePath < held.length + new.length)

/-- The places of sites without fault. -/
def siteLocs (rs : List (Nat × Site)) : List Nat :=
  rs.filterMap (fun x =>
    match x.2 with
    | .at_ _ loc => some loc
    | _ => none)

/-- The places of accesses whose sites have no fault: lane, location, size. -/
def lanePlaces (acc : List (Nat × DWord × Nat)) (rs : List (Nat × Site)) : List (Nat × Nat × Nat) :=
  (acc.zip rs).filterMap (fun x =>
    match x.2.2 with
    | .at_ _ loc => some (x.1.1, loc, x.1.2.2)
    | _ => none)

/-- Register results of the lanes, written together with the stores of the bound registers among them; `also` is what else
becomes of the team for the lanes that complete. A lane whose store faults writes nothing and is owed (R140, R161). The instruction
waits for what its stores wait for and for room in the store path (R135, R192). -/
def State.writeLanes (s : State) (pair : Bool) (d : Nat) (ws : List LaneWords)
    (also : Team → List Nat → Team := fun t _ => t) : Res :=
  let t := s.cur
  let stores := t.destStoresOf pair d ws
  let put (t : Team) (ws : List LaneWords) : Team :=
    ws.foldl (fun t w => (t.vrun t.sl w.1 d w.2).dropTags w.1 ((List.range w.2.length).map (fun i => d + i)))
      (also t (ws.map (fun w => w.1)))
  let acc := stores.map (fun x => (x.lane, x.va, x.size))
  let cs := s.stage1Conds t Need.store acc
  if stores = [] then .done (s.setCur (put t ws))
  else if cs ≠ [] then .trap s cs 0
  else if t.inRegion then
    let r := State.sites Need.store acc s
    let bad := maskOf ((r.2.filter (fun x => !x.2.ok)).map (fun x => x.1))
    let s := r.1.bufferBound (stores.filter (fun x => !bad.getLsbD x.lane))
    (s.setCur (put s.cur (ws.filter (fun w => !bad.getLsbD w.1 && s.cur.mask.getLsbD w.1)))).afterSites Need.store false r.2
  else
      let r := State.sites Need.store acc s
      let s := r.1
      let bad := maskOf ((r.2.filter (fun x => !x.2.ok)).map (fun x => x.1))
      let good := (stores.zip (r.2.map (fun x => x.2))).filter (fun x => !bad.getLsbD x.1.lane)
      let seq := s.nextSeq
      let places := placesOf acc r.2
      if s.mustWait .write places || s.pathShort (places.map (fun p => p.2.1)) then s.parkFor places
      else (s.farCheck (lanePlaces acc r.2)).getD <|
        let s := (s.unpark.takeSeq.setCur (put s.unpark.cur (ws.filter (fun w => !bad.getLsbD w.1))))
        (State.enterStores seq false (s.storeOrder good) s).draw.afterSites Need.store false r.2

/-! ## Destinations (R15, R86) -/

/-- Scalar words from a scalar number on. -/
def Team.srun (t : Team) (n : Nat) : List Word → Team
  | [] => t
  | w :: ws => (t.sset n w).srun (n + 1) ws

/-- Writes a destination: per lane, once for a scalar (the leader's words), or not at all for z. `ws` holds the
contributing lanes' words in ascending order. -/
def State.writeDest (s : State) (pair : Bool) (d : Code) (ws : List LaneWords)
    (also : Team → List Nat → Team := fun t _ => t) : Res :=
  if isV d then s.writeLanes pair d.toNat ws also
  else
    let s := s.setCur (also s.cur (ws.map (fun w => w.1)))
    if isS d then
      match ws.head? with
      | some w => .done (s.setCur (s.cur.srun (sNum d) w.2))
      | none => .done s
    else .done s

/-- The lanes that an evaluation is made for: the leader alone for a scalar destination (R86). -/
def Team.evalLanes (t : Team) (d : Code) : List Nat := if isS d then t.leader.toList else t.contribLanes

/-! ## Loads -/

/-- The destinations of a loaded value: word `i` of the value to register `d + i` (R143). -/
def destsOf (l : Nat) (d : Code) (n : Nat) : List (Nat × Dest) :=
  (List.range n).map (fun i =>
    (i, if isV d then .vec l (d.toNat + i) else if isS d then .scal (sNum d + i) else .none))

/-- Records a load of the issuing team. Earlier loads of the team from overlapping bytes are satisfied first, so that
its reads of a byte follow coherence order (R135). -/
def State.addLoad (s : State) (x : Load) : State :=
  let s := State.forceLoads s.cur.uid x.loc x.size s.loads s
  { s with loads := s.loads ++ [x] }

/-- The flag that tracks a load's stores through bound registers: SETB, if it makes any (R25, R161). -/
def State.throughFlag (s : State) (kind : LoadKind) (dests : List (Nat × Dest)) : Nat :=
  if (kind.throughDests dests).any (fun d =>
      match d with
      | .vec l r => (s.cur.boundAt l r).isSome
      | _ => false) then s.cur.setb
  else 15

/-- A load record of the issuing team. -/
def State.mkLoad (s : State) (kind : LoadKind) (lane : Nat) (space : Space) (loc size : Nat) (ext : Ext)
    (dests : List (Nat × Dest)) : Load :=
  { team := s.cur.uid
    seq := s.nextSeq
    lane := lane
    kind := kind
    space := space
    loc := loc
    size := size
    ext := ext
    dests := dests
    flag := s.cur.seta
    setb := s.throughFlag kind dests
    scope := s.cur.scope
    short := s.cur.sl
    chk := s.curCtx.mixchk.getLsbD 0
    value := none }

/-- Where the words of one instruction go with each lane's site: loads of the lanes without fault are recorded. -/
def State.addLoads (kind : Nat → LoadKind) (size : Nat) (ext : Ext) (dests : Nat → List (Nat × Dest)) :
    List (Nat × Site) → State → State
  | [], s => s
  | x :: xs, s =>
    match x.2 with
    | .at_ space loc =>
      State.addLoads kind size ext dests xs
        (s.addLoad (s.mkLoad (kind x.1) x.1 space loc size ext (dests x.1)))
    | _ => State.addLoads kind size ext dests xs s

/-- The write permission that a load's bound destination needs is checked with the load itself (R139, R140). -/
def State.destStores (s : State) (lanes : List Nat) (d : Code) (n : Nat) : List (Nat × DWord × Nat) :=
  if !isV d || s.cur.bindings = [] then []
  else lanes.flatMap (fun l =>
    (s.cur.boundStores false l d.toNat (List.replicate n 0)).map (fun x => (l, x.va, x.size)))

/-- Joins two stage-2 sweeps: a lane faults when either does. -/
def joinSites (a b : List (Nat × Site)) : List (Nat × Site) :=
  a.map (fun x =>
    if !x.2.ok then x
    else
      match b.find? (fun y => y.1 == x.1 && !y.2.ok) with
      | some y => y
      | none => x)

/-- Whether an address lies in the lane window (R131). -/
def inLaneWindow (va : DWord) : Bool := inAperture va && decide ((va.toNat - apertureBase) / 2 ^ 40 = 0)

/-- A region lane's load (R266, R270): the value is read at once, a bound register takes it at once (R165), another register is
filled later. -/
def State.regionLoad (s : State) (lane : Nat) (space : Space) (loc size : Nat) (ext : Ext) (d : Code) (n : Nat)
    (tagged inWindow : Bool) : State :=
  match s.cur.rlane? lane with
  | none => s
  | some r =>
    if !regionPlace s.cur space loc then s.setCur (s.cur.abortLanes (laneBit lane) 8)
    else
      let s := s.recallCopies loc size
      match regionRead r (s.seenBytes s.curCore s.cur.uid loc size) loc size (!tagged) (isV d && !s.cur.isBound lane d.toNat) inWindow with
      | .error code => s.setCur (s.cur.abortLanes (laneBit lane) code)
      | .ok (r', v, tag) =>
        let t := (s.cur.setRlane lane r').dropTags lane ((List.range n).map (fun i => d.toNat + i))
        let t := match tag with
          | some g => if isV d then t.setTag lane d.toNat g else t
          | none => t
        let s := s.setCur t
        let x := s.mkLoad .token lane space loc size ext (destsOf lane d n)
        let x := { x with value := some (BitVec.ofNat 128 v) }
        let through := if isV d then s.cur.boundStores (decide (2 ≤ n)) lane d.toNat ((List.range n).map x.word) else []
        let s := s.bufferBound through
        let bound (e : Nat × Dest) : Bool :=
          match e.2 with
          | .vec l rg => s.cur.isBound l rg
          | _ => false
        let now := if s.cur.mask.getLsbD lane then x.dests.filter bound else []
        let s := now.foldl (fun s e => s.deliver x e.2 (x.word e.1)) s
        let later := x.dests.filter (fun e => !bound e)
        if later = [] then s else { s with loads := s.loads ++ [{ x with dests := later }] }

/-- Region loads of the lanes without fault; `window` are the lanes that read through the lane window. -/
def State.regionLoads (size : Nat) (ext : Ext) (d : Code) (n : Nat) (tagged : Bool) (window : Mask) :
    List (Nat × Site) → State → State
  | [], s => s
  | x :: xs, s =>
    match x.2 with
    | .at_ space loc =>
      State.regionLoads size ext d n tagged window xs
        (s.regionLoad x.1 space loc size ext d n tagged (window.getLsbD x.1))
    | _ => State.regionLoads size ext d n tagged window xs s

/-- A scalar load in a region (R147, R266): every open lane that is active takes it as an input, concretised at once, and the
team's scalar the value that the lowest of them reads (log entry 59). -/
def State.regionScalar (s : State) (space : Space) (loc size : Nat) (d : Code) (n : Nat) (inWindow : Bool) : State :=
  let lanes := lanesOf s.cur.size (s.cur.mask &&& s.cur.openLanes)
  if !regionPlace s.cur space loc then s.setCur (s.cur.abortLanes (maskOf lanes) 8)
  else
    let s := s.recallCopies loc size
    let bytes := s.seenBytes s.curCore s.cur.uid loc size
    let r := lanes.foldl (fun (r : Team × Option Nat) l =>
      match r.1.rlane? l with
      | none => r
      | some x =>
        match regionRead x bytes loc size true false inWindow with
        | .error code => (r.1.abortLanes (laneBit l) code, r.2)
        | .ok (x', v, _) => (r.1.setRlane l x', if r.2.isSome then r.2 else some v)) (s.cur, none)
    let s := s.setCur r.1
    match r.2 with
    | none => s
    | some v => { s with loads := s.loads ++ [{ s.mkLoad .token 0 space loc size .none (destsOf 0 d n) with
        value := some (BitVec.ofNat 128 v) }] }

end Sys2Proof.Machine
end

