-- ==== Sys2Proof/Machine/Issue.lean ====
section
/-! DEFINITION. Who issues an instruction: a team, or a spindle program, which executes as one lane with scalars s0–s15
only (R199–R201). -/

namespace Sys2Proof.Machine

/-! ## Spindle programs as one lane (R199, R200) -/

/-- A program by its name. -/
def State.prog? (s : State) (u : Nat) : Option Prog := s.progs.find? (fun p => p.uid == u)

/-- Changes one program. -/
def State.modProg (s : State) (u : Nat) (f : Prog → Prog) : State :=
  { s with progs := s.progs.map (fun p => if p.uid == u then f p else p) }

/-- A running program seen as a team of one lane without vector registers; GUARD is ignored, TSTAT and a generator it
does not have (the draws of RND 5 are free, log entry 5). -/
def Prog.asTeam (p : Prog) (g : Word) : Team :=
  { Team.absent with
    live := true
    uid := p.uid
    wg := p.wg
    size := 32
    allot := 0
    pc := p.pc
    idx := p.idx
    clause := p.clause
    mask := 1
    s := p.s
    mode := p.mode &&& ~~~ (0x800 : ModeVal)
    flags := p.flags
    park := match p.waitTicket with
      | some k => .semacq 0 k
      | none => .running
    gen := tset 0 [] 0 g }

/-- The program after its instruction. -/
def Prog.ofTeam (p : Prog) (t : Team) : Prog :=
  { p with
    pc := t.pc
    idx := t.idx
    clause := t.clause
    s := t.s
    waitTicket := match t.park with
      | .semacq _ k => some k
      | _ => none
    exiting := p.exiting || t.ending }

/-- The issuing program takes the place of the issuing team. -/
def State.asSpindle (s : State) (p : Prog) : State :=
  { s.draw with
    cur := { p.asTeam (Config.freeWord s.fresh) with attached := ((s.team? p.team).map Team.attached).getD [] }
    others := s.cur :: s.others }

/-- The team comes back, the program keeps what it did. -/
def State.unSpindle (s : State) (p : Nat) : State :=
  match s.others with
  | t :: ts => ({ s with cur := t, others := ts }).modProg p (fun q => q.ofTeam s.cur)
  | [] => s

/-- A program that stops at its instruction with a code: nothing more of it issues; it has ended once what it issued is
complete. A program that EKILL abandoned stays in STATE 4 till then (R201, R204, R205). -/
def Prog.stopWith (p : Prog) (code : Nat) : Prog :=
  { p with
    exiting := true
    abnormal := true
    code := if p.abnormal then p.code else code
    clause := none
    waitTicket := none
    state := if p.state = 4 then 4 else 1 }

/-- A program ends abnormally with a code (R201): it stops at its instruction, its open copies are closed into no batch,
SPROG.ERR is set and the first code kept. -/
def State.endProg (s : State) (u code : Nat) : State :=
  match s.prog? u with
  | none => s
  | some p =>
    let s := s.modProg u (fun q => if q.ended then q else q.stopWith code)
    s.modWg p.wg (fun w => { w with sprog := w.sprog.zipIdx.map (fun h =>
      if h.2 = p.eng then { h.1 with err := true, code := if h.1.err then h.1.code else code } else h.1) })

/-- The codes that a spindle program may not name (R200). -/
def spindleBad (e : Code × Nat) : Bool :=
  isV e.1 || (isS e.1 && decide (16 < sNum e.1 + e.2)) || decide (125 ≤ e.1.toNat)

/-- A spindle program issues an instruction. -/
def State.issueSpindle (sp : Spec) (u : Uses) (conds : Team → State → List Cond) (run : State → Res) (p : Prog)
    (s : State) : State :=
  let bad := (u.reads ++ u.writes).any spindleBad
  if !sp.spindle then s.endProg p.uid 1
  else
    let v := s.asSpindle p
    match lowestTrap ((sp.conds v.cur ++ conds v.cur v ++ whenCond bad tOPERAND).map (fun c => c.2)) with
    | some x => s.endProg p.uid x.code
    | none =>
      match run v with
      | .done r => ((r.setCur r.cur.advance).unSpindle p.uid).modProg p.uid (fun q => { q with state := 1 })
      | .jump r => ((r.setCur (r.cur.landed v.cur.clause)).unSpindle p.uid).modProg p.uid (fun q => { q with state := 1 })
      | .stay r => (r.unSpindle p.uid).modProg p.uid (fun q =>
          { q with state := if q.waitTicket.isSome then 2 else q.state })
      | .trap r cs _ =>
        let code := ((lowestTrap (cs.map (fun c => c.2))).map Trap.code).getD 0
        (r.unSpindle p.uid).endProg p.uid code

/-! ## Issue -/

/-- Inside a region, what an instruction reads is concretised first, unless it carries tags itself (R266). -/
def withTags (sp : Spec) (u : Uses) (run : State → Res) (s : State) : Res :=
  if s.cur.inRegion then
    let s := match sp.tags with
      | 0 => s.concretise sp u
      | 1 => s
      | _ => (s.concretise sp u).concretiseAll u
    if s.cur.mask = 0 then .done s else run s
  else run s

/-- The issue of one instruction, whoever issues it. -/
def issue (sp : Spec) (u : Uses) (conds : Team → State → List Cond) (run : State → Res) (s : State) :
    Host.Outcome State Fault Refusal :=
  match s.issuer with
  | .team =>
    if s.cur.live then .next (s.issueTeam sp u conds (withTags sp u run)) else .fault .noIssuer
  | .spindle n =>
    match s.prog? n with
    | some p => if p.ended || p.queued then .fault .noIssuer else .next (s.issueSpindle sp u conds run p)
    | none => .fault .noIssuer

/-- An instruction with no conditions of its own beyond the legality of its operand codes. -/
def okCond (b : Bool) : List Cond := whenCond (!b) tOPERAND

end Sys2Proof.Machine
end

