-- ==== Sys2Proof/Machine/Compute.lean ====
section
/-! DEFINITION. What arithmetic, compare, conversion and lane instructions share (R86–R88): evaluation over the lanes with
draws and exceptions, region tags of ADD, SUB, MOV and the compares (R266, R267), trees and scans (R65, R66). -/

namespace Sys2Proof.Machine

/-- Sets of TYPEs of R88. -/
def tyInt (ty : Nat) : Bool := ty ≤ 3
/-- i32, u32, i64, u64 and the packed integer TYPEs. -/
def tyIntAny (ty : Nat) : Bool := ty ≤ 3 || 8 ≤ ty
/-- The floating-point TYPEs. -/
def tyFloat (ty : Nat) : Bool := (typeFmt ty).isSome
/-- Signed integer or floating-point TYPEs. -/
def tySignedFloat (ty : Nat) : Bool := typeSigned ty || tyFloat ty

/-- Exception flags and generators after an evaluation, of the lanes that complete (R36, R52, R58). -/
def Team.takeResults (t : Team) (rs : List (Nat × LaneRes)) (lanes : List Nat) : Team :=
  (rs.filter (fun r => lanes.contains r.1)).foldl (fun t r => (t.gset r.1 r.2.g).raiseFlags r.2.flags) t

/-- The end of an evaluation over lanes (R36, R58, R86, R87): an enabled exception raises FPE, and a bound register's store what
stage 1 finds of it, with nothing written; otherwise flags, generators and the destination. `joint` says that the lanes share
one evaluation. -/
def State.finishLanes (s : State) (pair : Bool) (d : Code) (n : Nat) (rs : List (Nat × LaneRes)) (joint : Bool := false) :
    Res :=
  let flags := rs.foldl (fun f r => f ||| r.2.flags) 0
  let ws := rs.map (fun r => (r.1, wordsOf n r.2.bits))
  let cs : List Cond := (rs.filter (fun r => decide (s.cur.trapping r.2.flags ≠ 0))).map (fun r =>
    (if joint then none else some r.1, tFPE flags)) ++ s.boundConds pair d ws
  if cs ≠ [] then .trap s cs 0 else s.writeDest pair d ws (fun t lanes => t.takeResults rs lanes)

/-- An evaluation under MODE.TYPE for each lane of the destination (R86). -/
def State.evalType (s : State) (d : Code) (f : Team → Nat → LaneRes) : Res :=
  let t := s.cur
  s.finishLanes (wide t.type) d (regs (wide t.type)) ((t.evalLanes d).map (fun l => (l, f t l)))

/-- The uses of a two-operand instruction under MODE.TYPE. -/
def Team.uses3 (t : Team) (d a b : Code) : Uses :=
  let n := regs (wide t.type)
  { reads := [(a, n), (b, n)], writes := [(d, n)] }

/-- The uses of a one-operand instruction under MODE.TYPE. -/
def Team.uses2 (t : Team) (d a : Code) : Uses :=
  let n := regs (wide t.type)
  { reads := [(a, n)], writes := [(d, n)] }

/-- The team that issues: the program's view of a spindle (R199). -/
def State.issuing (s : State) : Team :=
  match s.issuer with
  | .team => s.cur
  | .spindle n => ((s.prog? n).map (fun p => p.asTeam 0)).getD s.cur

/-! ## Region tags (R266) -/

/-- Whether the conditions of R266 hold for an input of a size: i32 or u32 for 4 bytes, i64 or u64 for 8, SAT clear. -/
def Team.tagType (t : Team) (r : RLane) (x : RTag) : Bool :=
  let size := (r.inputs[x.input]?.map RInput.size).getD 0
  !t.sat && ((size == 4 && t.type ≤ 1) || (size == 8 && (t.type == 2 || t.type == 3)))

/-- The tag of an operand of a lane. -/
def Team.operandTag (t : Team) (l : Nat) (c : Code) : Option RTag := if isV c then t.tagOf l c.toNat else none

/-- Whether no register of an operand of a lane is tagged. -/
def Team.untagged (t : Team) (l : Nat) (c : Code) : Bool :=
  !isV c || ((t.tagOf l c.toNat).isNone && (!wide t.type || (t.tagOf l (c.toNat + 1)).isNone))

/-- The constant of a tag after an operation, wrapped to the input's width. -/
def Team.tagConst (t : Team) (v : Int) : DWord := BitVec.ofNat 64 (wrapInt (typeWidth t.type) v)

/-- The tag that ADD or SUB gives, if R266 gives one: exactly one tagged operand, and not SUB x − t. -/
def Team.addTag (t : Team) (sub : Bool) (l : Nat) (a b : Code) : Option RTag :=
  match t.rlane? l with
  | none => none
  | some r =>
    match t.operandTag l a, t.operandTag l b with
    | some x, none =>
      let y : Int := t.opndN (wide t.type) l b
      if t.untagged l b && t.tagType r x then
        some ⟨x.input, t.tagConst (if sub then (x.const.toNat : Int) - y else x.const.toNat + y)⟩ else none
    | none, some x =>
      if !sub && t.untagged l a && t.tagType r x then some ⟨x.input, t.tagConst ((x.const.toNat : Int) + t.opndN (wide t.type) l a)⟩ else none
    | _, _ => none

/-- The tag that MOV gives. -/
def Team.movTag (t : Team) (l : Nat) (a : Code) : Option RTag :=
  match t.rlane? l, t.operandTag l a with
  | some r, some x => if t.tagType r x then some x else none
  | _, _ => none

/-- Runs an instruction that carries tags itself: lanes whose tags it does not keep are concretised first, and the
others get their new tags after it. -/
def runTagged (u : Uses) (d : Code) (tag : Team → Nat → Option RTag) (run : State → Res) (s : State) : Res :=
  if !s.cur.inRegion then run s
  else
    let keep (t : Team) (l : Nat) : Option RTag := if isS d then none else tag t l
    let lanes := s.cur.evalLanes d
    let plan := lanes.filterMap (fun l => (keep s.cur l).map (fun x => (l, x)))
    let rs := vRegsOf u.reads
    let t := (lanes.filter (fun l => (keep s.cur l).isNone)).foldl (fun t l => t.concretiseLane l rs) s.cur
    if t.mask = 0 then .done (s.setCur t)
    else
      match run (s.setCur t) with
      | .done r => .done (r.setCur (plan.foldl (fun t e => if isV d then t.setTag e.1 d.toNat e.2 else t) r.cur))
      | r => r

/-! ## Binary and unary arithmetic (R95–R97) -/

/-- A two-operand arithmetic instruction. -/
def State.binary (op : BinOp) (d a b : Code) (s : State) : Res :=
  s.evalType d (fun t l =>
    let x := t.opndN (wide t.type) l a
    let y := t.opndN (wide t.type) l b
    sweepType t.type t.env (t.gget l) (fun e env => binElem op t.type env (elemOf t.type x e) (elemOf t.type y e)))

/-- A one-operand arithmetic instruction. -/
def State.unary (op : UnOp) (d a : Code) (s : State) : Res :=
  s.evalType d (fun t l =>
    let x := t.opndN (wide t.type) l a
    sweepType t.type t.env (t.gget l) (fun e env => unElem op t.type env (elemOf t.type x e)))

/-- The legality of a general two-operand instruction (R86, R88). -/
def okBinary (ty : Nat → Bool) (d a b : Code) (t : Team) : Bool :=
  ty t.type && dstOk t (wide t.type) d && srcOk t (wide t.type) a && srcOk t (wide t.type) b

/-- The legality of a general one-operand instruction whose b is unused. -/
def okUnary (ty : Nat → Bool) (d a : Code) (t : Team) : Bool :=
  ty t.type && dstOk t (wide t.type) d && srcOk t (wide t.type) a

/-- The issue of a two-operand instruction. -/
def issueBinary (sp : Spec) (ty : Nat → Bool) (d a b : Code) (run : State → Res) (s : State) :
    Host.Outcome State Fault Refusal :=
  issue { sp with whole := isS d } (s.issuing.uses3 d a b) (fun t _ => okCond (okBinary ty d a b t)) run s

/-- The issue of a one-operand instruction. -/
def issueUnary (sp : Spec) (ty : Nat → Bool) (d a : Code) (run : State → Res) (s : State) :
    Host.Outcome State Fault Refusal :=
  issue { sp with whole := isS d } (s.issuing.uses2 d a) (fun t _ => okCond (okUnary ty d a t)) run s

/-- Every TYPE. -/
def tyAll (_ : Nat) : Bool := true

/-- An instruction on whole registers, whatever the elements: bits in, bits out (R99, R101). -/
def State.bitwise (f : Team → Nat → Nat) (d : Code) (s : State) : Res :=
  s.evalType d (fun t l => ⟨f t l, 0, t.gget l⟩)

/-- An instruction per element of integers (R99). -/
def State.shifts (f : Nat → Bool → Bool → Nat → Nat → Nat) (d a b : Code) (s : State) : Res :=
  s.evalType d (fun t l =>
    let x := t.opndN (wide t.type) l a
    let y := t.opndN (wide t.type) l b
    sweepType t.type t.env (t.gget l) (fun e _ =>
      .plain (f (typeWidth t.type) (typeSigned t.type) t.sat (elemOf t.type x e) (elemOf t.type y e))))

/-! ## Compares (R103) -/

/-- The constraint that a compare records for a lane, if R266 lets it: one tagged operand, the TYPE that of its input. -/
def Team.cmpConstraint (t : Team) (rel : Nat) (l : Nat) (a b : Code) (outcome : Bool) : Option RConstraint :=
  match t.rlane? l with
  | none => none
  | some r =>
    match t.operandTag l a, t.operandTag l b with
    | some x, none =>
      if t.untagged l b && t.tagType r x then
        some ⟨x.input, rel, x.const, BitVec.ofNat 64 (t.opndN (wide t.type) l b), true, t.type, outcome⟩ else none
    | none, some x =>
      if t.untagged l a && t.tagType r x then
        some ⟨x.input, rel, x.const, BitVec.ofNat 64 (t.opndN (wide t.type) l a), false, t.type, outcome⟩ else none
    | _, _ => none

/-- Records a compare constraint; a ninth aborts the lane with code 3, before any effect (R269). -/
def Team.recordConstraint (t : Team) (l : Nat) (c : RConstraint) : Team :=
  match t.rlane? l with
  | none => t
  | some r =>
    if 8 ≤ r.constraints then t.abortLanes (laneBit l) 3
    else t.setRlane l { r with constraints := r.constraints + 1, compares := r.compares ++ [c] }

/-- A compare: predicate d of each contributing lane; an enabled NV raises FPE with no predicate written. -/
def State.compare (r : Rel) (rel : Nat) (d a b : Code) (s : State) : Res :=
  let eval (t : Team) (l : Nat) : Bool × Nat :=
    relType r t.type t.ftz (t.opndN (wide t.type) l a) (t.opndN (wide t.type) l b)
  let t := s.cur
  let rs := vRegsOf [(a, regs (wide t.type)), (b, regs (wide t.type))]
  let t := if !t.inRegion then t
    else t.contribLanes.foldl (fun t l =>
      match (if rel < 4 then t.cmpConstraint rel l a b (eval t l).1 else none) with
      | some c => t.recordConstraint l c
      | none => t.concretiseLane l rs) t
  let s := s.setCur t
  let lanes := t.contribLanes
  let flags := lanes.foldl (fun f l => f ||| (eval t l).2) 0
  if t.trapping flags ≠ 0 then
    .trap s ((lanes.filter (fun l => decide (t.trapping (eval t l).2 ≠ 0))).map (fun l => (some l, tFPE flags))) 0
  else .done (s.setCur ((t.raiseFlags flags).pset d.toNat (maskOf lanes) (maskOf (lanes.filter (fun l => (eval t l).1)))))

/-- The issue of a compare. -/
def issueCompare (ty : Nat → Bool) (d a b : Code) (run : State → Res) (s : State) : Host.Outcome State Fault Refusal :=
  let n := regs (wide s.issuing.type)
  issue { tags := 1 } { reads := [(a, n), (b, n)], writes := [] }
    (fun t _ => okCond (ty t.type && predOk false d && srcOk t (wide t.type) a && srcOk t (wide t.type) b)) run s

/-! ## Predicates and votes (R104, R105) -/

/-- A predicate instruction over the contributing lanes. -/
def State.predicate (f : Team → Mask) (d : Code) (s : State) : Res :=
  .done (s.setCur (s.cur.pset d.toNat (maskOf s.cur.contribLanes) (f s.cur)))

/-! ## Packed conversions (R106–R108) -/

/-- Registers of the wide run: `count` under f32, half of it under f16x2 or bf16x2 (R106). -/
def wideRegs (n : Narrow) (ty : Nat) : Nat := if ty = 4 then n.count else n.count / 2

/-- The TYPEs of the wide side. -/
def tyWideSide (ty : Nat) : Bool := ty == 4 || ty == 6 || ty == 7

/-- UNPK for one lane: the wide run as one number (R107). -/
def unpkLane (n : Narrow) (t : Team) (l : Nat) (a b : Code) : LaneRes :=
  let f := (typeFmt t.type).getD binary32
  let x := (t.opnd32 l a).toNat
  let w := if t.type = 4 then 32 else 16
  sweep t.env w ((List.range n.count).map (fun e env =>
    unpkElem n f env (bits x (n.width * e) n.width) (t.opnd32 l b).toNat)) 0 ⟨0, 0, t.gget l⟩

/-- Element `e` of the wide run, widened exactly to a binary32 datum, with FTZ (R108): what is subnormal in the element's own format
is flushed (R55, log entry 60). -/
def packSource (t : Team) (l : Nat) (a : Code) (e : Nat) : Num :=
  let f := (typeFmt t.type).getD binary32
  if t.type = 4 then f.input t.ftz (t.opnd32 l (codeAt a e)).toNat
  else f.input t.ftz (bits (t.opnd32 l (codeAt a (e / 2))).toNat (16 * (e % 2)) 16)

/-- PACK for one lane. -/
def packLane (n : Narrow) (t : Team) (l : Nat) (a b : Code) : LaneRes :=
  sweep t.env n.width ((List.range n.count).map (fun e env =>
    packElem n env (packSource t l a e) (t.opnd32 l b).toNat)) 0 ⟨0, 0, t.gget l⟩

/-- UNPK: each register of the run is a 32-bit write of its own. -/
def State.unpk (n : Narrow) (d a b : Code) (s : State) : Res :=
  let t := s.cur
  s.finishLanes false d (wideRegs n t.type) (t.contribLanes.map (fun l => (l, unpkLane n t l a b)))

/-- PACK. -/
def State.pack (n : Narrow) (d a b : Code) (s : State) : Res :=
  let t := s.cur
  s.finishLanes false d 1 (t.contribLanes.map (fun l => (l, packLane n t l a b)))

/-- The issue of UNPK (R106, R107). -/
def issueUnpk (n : Narrow) (d a b : Code) (run : State → Res) (s : State) : Host.Outcome State Fault Refusal :=
  issue {} { reads := [(a, 1), (b, 1)], writes := [(d, wideRegs n s.issuing.type)] }
    (fun t _ => okCond (tyWideSide t.type && vRun t (wideRegs n t.type) 1 d &&
      (vOk t false a || sRun 1 1 a || kRun t 1 1 a) && srcOk t false b)) run s

/-- The issue of PACK (R106, R108). -/
def issuePack (n : Narrow) (d a b : Code) (run : State → Res) (s : State) : Host.Outcome State Fault Refusal :=
  issue {} { reads := [(a, wideRegs n s.issuing.type), (b, 1)], writes := [(d, 1)] }
    (fun t _ => okCond (tyWideSide t.type && vzOk t false d && vRun t (wideRegs n t.type) 1 a && srcOk t false b)) run s

/-! ## Cross-lane reads (R109, R110) -/

/-- The lane that lane `l` reads from, or itself beyond the team (R109). -/
def sourceLane (t : Team) (l n : Nat) : Nat := if n < t.size then n else l

/-- Keys of a register run of a lane. -/
def laneKeys (l : Nat) (a : Code) (n : Nat) : List Nat := (List.range n).map (fun i => vkey l (a.toNat + i))

/-- XLN and XLNX: every source is read before any lane writes. -/
def State.crossLane (src : Team → Nat → Nat) (d a : Code) (s : State) : Res :=
  s.evalType d (fun t l => ⟨t.opndN (wide t.type) (src t l) a, 0, t.gget l⟩)

/-- The issue of a cross-lane read; `lead` says that the leader's b names the source lane. -/
def issueCross (src : Team → Nat → Nat) (lead : Bool) (d a b : Code) (run : State → Res) (s : State) :
    Host.Outcome State Fault Refusal :=
  let n := regs (wide s.issuing.type)
  issue { whole := true, tags := 2 }
    { reads := if lead then [] else [(b, 1)], lead := if lead then [(b, 1)] else [], writes := [(d, n)], cross := fun t l => laneKeys (src t l) a n, across := [(a, n)] }
    (fun t _ => okCond (dstOk t (wide t.type) d && vOk t (wide t.type) a && srcOk t false b)) run
    s

/-! ## Trees and scans (R65, R66) -/

/-- What a tree carries along: generator and flags. -/
abbrev TreeAcc := Word × Nat

/-- One combination of two present children: its draw, its flags. -/
def combine (env : Env) (f : Env → Nat → Nat → Elem) (x y : Nat) (acc : TreeAcc) : Nat × TreeAcc :=
  let next := nextG acc.1
  let r := f { env with g := next } x y
  (r.bits, (if env.rnd == 5 && r.drew then next else acc.1), acc.2 ||| r.flags)

/-- One level of the tree from the level below, nodes ascending; a node with one present child takes its value. -/
def treeLevel (env : Env) (f : Env → Nat → Nat → Elem) : List (Option Nat) → TreeAcc → List (Option Nat) × TreeAcc
  | x :: y :: rest, acc =>
    let r : Option Nat × TreeAcc := match x, y with
      | some u, some v => let c := combine env f u v acc; (some c.1, c.2)
      | some u, none => (some u, acc)
      | none, some v => (some v, acc)
      | none, none => (none, acc)
    let more := treeLevel env f rest r.2
    (r.1 :: more.1, more.2)
  | l, acc => (l, acc)

/-- Every level of the tree, leaves first; `n` levels above them. -/
def treeLevels (env : Env) (f : Env → Nat → Nat → Elem) : Nat → List (Option Nat) → TreeAcc →
    List (List (Option Nat)) × TreeAcc
  | 0, l, acc => ([l], acc)
  | n + 1, l, acc =>
    let up := treeLevel env f l acc
    let rest := treeLevels env f n up.1 up.2
    (l :: rest.1, rest.2)

/-- Levels above the leaves for a team size: log2 of the size rounded up to a power of two. -/
def treeDepth (size : Nat) : Nat := if size ≤ 1 then 0 else Nat.log2 (size - 1) + 1

/-- The leaves of element `e`: present in the contributing lanes, of a replay in those that it executes for (log entry 61). -/
def treeLeaves (t : Team) (a : Code) (e : Nat) : List (Option Nat) :=
  (List.range (2 ^ treeDepth t.size)).map (fun l =>
    if t.contrib.getLsbD l && decide (l < t.size) then some (elemOf t.type (t.opndN (wide t.type) l a) e) else none)

/-- The root of each element's tree, elements ascending, as one number. -/
def treeRoots (t : Team) (f : Env → Nat → Nat → Elem) (a : Code) : List Nat → TreeAcc → Nat × TreeAcc
  | [], acc => (0, acc)
  | e :: es, acc =>
    let r := treeLevels t.env f (treeDepth t.size) (treeLeaves t a e) acc
    let root := ((r.1.getLast?.bind List.head?).getD none).getD 0
    let more := treeRoots t f a es r.2
    (root * 2 ^ (typeWidth t.type * e) + more.1, more.2)

/-- TSUM, TMIN and TMAX (R65, R111): the draws come from the leader's generator. -/
def State.reduceTeam (op : BinOp) (d a : Code) (s : State) : Res :=
  let t := s.cur
  match t.leader with
  | none => .done s
  | some ld =>
    let r := treeRoots t (fun env x y => binElem op t.type env x y) a (List.range (typeCount t.type)) (t.gget ld, 0)
    let res (l : Nat) : LaneRes := ⟨r.1, r.2.2, if l = ld then r.2.1 else t.gget l⟩
    s.finishLanes (wide t.type) d (regs (wide t.type)) ((t.evalLanes d).map (fun l => (l, res l))) true

/-- The node of a level, if present. -/
def treeNode (levels : List (List (Option Nat))) (k i : Nat) : Option Nat := ((levels[k]?).bind (fun l => l[i]?)).getD none

/-- The blocks of [0..l] from the largest down: `k` levels are left, `start` lanes are covered, `left` remain (R66). -/
def scanJoin (env : Env) (f : Env → Nat → Nat → Elem) (levels : List (List (Option Nat))) :
    Nat → Nat → Nat → Option Nat → TreeAcc → Option Nat × TreeAcc
  | k, start, left, v, acc =>
    let size := 2 ^ k
    let use := decide (size ≤ left)
    let node := if use then treeNode levels k (start / size) else none
    let r : Option Nat × TreeAcc := match v, node with
      | some x, some y => let c := combine env f x y acc; (some c.1, c.2)
      | none, some y => (some y, acc)
      | v, none => (v, acc)
    match k with
    | 0 => r
    | k + 1 => scanJoin env f levels k (if use then start + size else start) (if use then left - size else left) r.1 r.2

/-- The joins of one element, lane by lane. -/
def scanLanes (env : Env) (f : Env → Nat → Nat → Elem) (levels : List (List (Option Nat))) (depth : Nat) :
    List Nat → TreeAcc → List (Nat × Nat) × TreeAcc
  | [], acc => ([], acc)
  | l :: ls, acc =>
    let r := scanJoin env f levels depth 0 (l + 1) none acc
    let more := scanLanes env f levels depth ls r.2
    ((l, r.1.getD 0) :: more.1, more.2)

/-- Every element's scan: its whole tree, then its joins. -/
def scanElems (t : Team) (f : Env → Nat → Nat → Elem) (a : Code) (lanes : List Nat) :
    List Nat → TreeAcc → List (Nat × Nat) → List (Nat × Nat) × TreeAcc
  | [], acc, out => (out, acc)
  | e :: es, acc, out =>
    let depth := treeDepth t.size
    let tree := treeLevels t.env f depth (treeLeaves t a e) acc
    let r := scanLanes t.env f tree.1 depth lanes tree.2
    let out := out.map (fun o => (o.1, o.2 + ((alook r.1 o.1).getD 0) * 2 ^ (typeWidth t.type * e)))
    scanElems t f a lanes es r.2 out

/-- TSCAN (R66, R112). -/
def State.scanTeam (d a : Code) (s : State) : Res :=
  let t := s.cur
  match t.leader with
  | none => .done s
  | some ld =>
    let lanes := t.contribLanes
    let r := scanElems t (fun env x y => binElem .add t.type env x y) a lanes (List.range (typeCount t.type))
      (t.gget ld, 0) (lanes.map (fun l => (l, 0)))
    s.finishLanes (wide t.type) d (regs (wide t.type)) (r.1.map (fun o =>
      (o.1, ⟨o.2, r.2.2, if o.1 = ld then r.2.1 else t.gget o.1⟩))) true

/-- The issue of a team reduction or scan. -/
def issueTree (scalarOk : Bool) (d a : Code) (run : State → Res) (s : State) : Host.Outcome State Fault Refusal :=
  issue { whole := true, tags := 2, lanes := .all } { s.issuing.uses2 d a with across := (s.issuing.uses2 d a).reads }
    (fun t _ => okCond (dstOk t (wide t.type) d && (scalarOk || !isS d) && srcOk t (wide t.type) a)) run s

end Sys2Proof.Machine
end

