-- ==== Sys2Proof/Machine/Arith.lean ====
section
/-! DEFINITION. The meanings of the arithmetic, compare, packed conversion and lane instructions (R89–R112). -/

namespace Sys2Proof.Machine

/-! ## Arithmetic (R95) -/

/-- ADD (R95); in a region it carries tags (R266). -/
def execAdd (d a b : Code) (s : State) : Host.Outcome State Fault Refusal :=
  issueBinary { tags := 1, spindle := true } tyAll d a b
    (runTagged (s.issuing.uses3 d a b) d (fun t l => t.addTag false l a b) (State.binary .add d a b)) s

/-- SUB (R95); in a region it carries tags (R266). -/
def execSub (d a b : Code) (s : State) : Host.Outcome State Fault Refusal :=
  issueBinary { tags := 1, spindle := true } tyAll d a b
    (runTagged (s.issuing.uses3 d a b) d (fun t l => t.addTag true l a b) (State.binary .sub d a b)) s

/-- MUL (R95). -/
def execMul (d a b : Code) (s : State) : Host.Outcome State Fault Refusal :=
  issueBinary {} tyAll d a b (State.binary .mul d a b) s

/-- MULH (R95): integer TYPEs only. -/
def execMulh (d a b : Code) (s : State) : Host.Outcome State Fault Refusal :=
  issueBinary {} tyIntAny d a b (State.binary .mulh d a b) s

/-- MAC (R95): d is the addend and the destination; a z destination reads 0. -/
def execMac (d a b : Code) (s : State) : Host.Outcome State Fault Refusal :=
  let n := regs (wide s.issuing.type)
  issue { whole := isS d } { reads := [(a, n), (b, n), (d, n)], writes := [(d, n)] }
    (fun t _ => okCond (okBinary tyAll d a b t))
    (fun s => s.evalType d (fun t l =>
      let x := t.opndN (wide t.type) l a
      let y := t.opndN (wide t.type) l b
      let z := t.opndN (wide t.type) l d
      sweepType t.type t.env (t.gget l) (fun e env =>
        macElem t.type env (elemOf t.type x e) (elemOf t.type y e) (elemOf t.type z e)))) s

/-- DIV (R57, R95). -/
def execDiv (d a b : Code) (s : State) : Host.Outcome State Fault Refusal :=
  issueBinary {} tyAll d a b (State.binary .div d a b) s

/-- REM (R57, R95). -/
def execRem (d a b : Code) (s : State) : Host.Outcome State Fault Refusal :=
  issueBinary {} tyAll d a b (State.binary .rem d a b) s

/-- MIN (R54, R95). -/
def execMin (d a b : Code) (s : State) : Host.Outcome State Fault Refusal :=
  issueBinary {} tyAll d a b (State.binary .min d a b) s

/-- MAX (R54, R95). -/
def execMax (d a b : Code) (s : State) : Host.Outcome State Fault Refusal :=
  issueBinary {} tyAll d a b (State.binary .max d a b) s

/-- ABS (R96). -/
def execAbs (d a : Code) (s : State) : Host.Outcome State Fault Refusal :=
  issueUnary {} tySignedFloat d a (State.unary .abs d a) s

/-- NEG (R96). -/
def execNeg (d a : Code) (s : State) : Host.Outcome State Fault Refusal :=
  issueUnary {} tySignedFloat d a (State.unary .neg d a) s

/-- CLZ (R96). -/
def execClz (d a : Code) (s : State) : Host.Outcome State Fault Refusal :=
  issueUnary {} tyIntAny d a (State.unary .clz d a) s

/-- POPC (R96). -/
def execPopc (d a : Code) (s : State) : Host.Outcome State Fault Refusal :=
  issueUnary {} tyIntAny d a (State.unary .popc d a) s

/-- RNDI (R59, R96). -/
def execRndi (d a : Code) (s : State) : Host.Outcome State Fault Refusal :=
  issueUnary {} tyFloat d a (State.unary .rndi d a) s

/-- RCP (R96, R98). -/
def execRcp (d a : Code) (s : State) : Host.Outcome State Fault Refusal :=
  issueUnary {} tyFloat d a (State.unary .rcp d a) s

/-- RSQ (R96, R98). -/
def execRsq (d a : Code) (s : State) : Host.Outcome State Fault Refusal :=
  issueUnary {} tyFloat d a (State.unary .rsq d a) s

/-- SQRT (R96, R98). -/
def execSqrt (d a : Code) (s : State) : Host.Outcome State Fault Refusal :=
  issueUnary {} tyFloat d a (State.unary .sqrt d a) s

/-- EXP2 (R97, R98). -/
def execExp2 (d a : Code) (s : State) : Host.Outcome State Fault Refusal :=
  issueUnary {} tyFloat d a (State.unary .exp2 d a) s

/-- LOG2 (R97, R98). -/
def execLog2 (d a : Code) (s : State) : Host.Outcome State Fault Refusal :=
  issueUnary {} tyFloat d a (State.unary .log2 d a) s

/-- SINP (R97, R98). -/
def execSinp (d a : Code) (s : State) : Host.Outcome State Fault Refusal :=
  issueUnary {} tyFloat d a (State.unary .sinp d a) s

/-- COSP (R97, R98). -/
def execCosp (d a : Code) (s : State) : Host.Outcome State Fault Refusal :=
  issueUnary {} tyFloat d a (State.unary .cosp d a) s

/-! ## Bits and shifts (R99, R100) -/

/-- AND (R99). -/
def execAnd (d a b : Code) (s : State) : Host.Outcome State Fault Refusal :=
  issueBinary {} tyAll d a b
    (State.bitwise (fun t l => t.opndN (wide t.type) l a &&& t.opndN (wide t.type) l b) d) s

/-- OR (R99). -/
def execOr (d a b : Code) (s : State) : Host.Outcome State Fault Refusal :=
  issueBinary {} tyAll d a b
    (State.bitwise (fun t l => t.opndN (wide t.type) l a ||| t.opndN (wide t.type) l b) d) s

/-- XOR (R99). -/
def execXor (d a b : Code) (s : State) : Host.Outcome State Fault Refusal :=
  issueBinary {} tyAll d a b
    (State.bitwise (fun t l => t.opndN (wide t.type) l a ^^^ t.opndN (wide t.type) l b) d) s

/-- SHL (R99). -/
def execShl (d a b : Code) (s : State) : Host.Outcome State Fault Refusal :=
  issueBinary {} tyIntAny d a b (State.shifts shlElem d a b) s

/-- SHR (R99). -/
def execShr (d a b : Code) (s : State) : Host.Outcome State Fault Refusal :=
  issueBinary {} tyIntAny d a b (State.shifts (fun w _ _ x n => shrElem w x n) d a b) s

/-- SRA (R99). -/
def execSra (d a b : Code) (s : State) : Host.Outcome State Fault Refusal :=
  issueBinary {} tyIntAny d a b (State.shifts (fun w _ _ x n => sraElem w x n) d a b) s

/-- The field of a control word (R100): position, and length cut to the width. -/
def fieldOf (w ctl : Nat) : Nat × Nat :=
  let pos := bits ctl 0 7
  let len := bits ctl 8 7
  (pos, if pos < w then min len (w - pos) else 0)

/-- BFX of one value (R100). -/
def bfxValue (w : Nat) (signed : Bool) (x ctl : Nat) : Nat :=
  let f := fieldOf w ctl
  let v := bits x f.1 f.2
  if signed && decide (f.2 ≠ 0) then wrapInt w (toInt f.2 true v) else v

/-- BFI of one value (R100). -/
def bfiValue (w : Nat) (old x ctl : Nat) : Nat :=
  let f := fieldOf w ctl
  old % 2 ^ f.1 + bits x 0 f.2 * 2 ^ f.1 + old / 2 ^ (f.1 + f.2) * 2 ^ (f.1 + f.2)

/-- BFX (R100): i32, u32, i64, u64. -/
def execBfx (d a b : Code) (s : State) : Host.Outcome State Fault Refusal :=
  issueBinary {} tyInt d a b
    (State.bitwise (fun t l => bfxValue (typeWidth t.type) (typeSigned t.type) (t.opndN (wide t.type) l a)
      (t.opnd32 l b).toNat) d) s

/-- BFI (R100): d is read and always written. -/
def execBfi (d a b : Code) (s : State) : Host.Outcome State Fault Refusal :=
  let n := regs (wide s.issuing.type)
  issue { whole := isS d } { reads := [(a, n), (b, n), (d, n)], writes := [(d, n)] }
    (fun t _ => okCond (okBinary tyInt d a b t))
    (State.bitwise (fun t l => bfiValue (typeWidth t.type) (t.opndN (wide t.type) l d) (t.opndN (wide t.type) l a)
      (t.opnd32 l b).toNat) d) s

/-! ## Selection, copy, conversion (R101, R102) -/

/-- SEL (R101): every active lane, the guard as selector. -/
def execSel (d a b : Code) (s : State) : Host.Outcome State Fault Refusal :=
  issueBinary { lanes := .active } tyAll d a b
    (fun s =>
      let t := s.cur
      let value (l : Nat) : Nat := t.opndN (wide t.type) l (if t.guardMask.getLsbD l then a else b)
      let lanes := if isS d then t.lowest.toList else t.activeLanes
      s.finishLanes (wide t.type) d (regs (wide t.type)) (lanes.map (fun l => (l, ⟨value l, 0, t.gget l⟩)))) s

/-- MOV (R101); in a region it carries tags (R266). -/
def execMov (d a : Code) (s : State) : Host.Outcome State Fault Refusal :=
  issueUnary { tags := 1, spindle := true } tyAll d a
    (runTagged (s.issuing.uses2 d a) d (fun t l => t.movTag l a)
      (State.bitwise (fun t l => t.opndN (wide t.type) l a) d)) s

/-- CVT (R59, R102): b is the source type itself. -/
def execCvt (d a b : Code) (s : State) : Host.Outcome State Fault Refusal :=
  let src := b.toNat
  let ws := wide src
  issue { whole := isS d } { reads := [(a, regs ws)], writes := [(d, regs (wide s.issuing.type))] }
    (fun t _ => okCond (decide (src ≤ 11) && typeGroup src == typeGroup t.type && dstOk t (wide t.type) d && srcOk t ws a))
    (fun s => s.evalType d (fun t l =>
      let x := t.opndN ws l a
      sweepType t.type t.env (t.gget l) (fun e env => cvtElem src t.type env (elemOf src x e)))) s

/-! ## Compares (R103) -/

/-- CMPEQ. -/
def execCmpeq (d a b : Code) (s : State) : Host.Outcome State Fault Refusal :=
  issueCompare (fun ty => ty ≤ 5) d a b (State.compare .eq 0 d a b) s

/-- CMPNE. -/
def execCmpne (d a b : Code) (s : State) : Host.Outcome State Fault Refusal :=
  issueCompare (fun ty => ty ≤ 5) d a b (State.compare .ne 1 d a b) s

/-- CMPLT. -/
def execCmplt (d a b : Code) (s : State) : Host.Outcome State Fault Refusal :=
  issueCompare (fun ty => ty ≤ 5) d a b (State.compare .lt 2 d a b) s

/-- CMPLE. -/
def execCmple (d a b : Code) (s : State) : Host.Outcome State Fault Refusal :=
  issueCompare (fun ty => ty ≤ 5) d a b (State.compare .le 3 d a b) s

/-- CMPUN: f32 and f64. -/
def execCmpun (d a b : Code) (s : State) : Host.Outcome State Fault Refusal :=
  issueCompare (fun ty => ty == 4 || ty == 5) d a b (State.compare .un 4 d a b) s

/-! ## Predicates and votes (R104, R105) -/

/-- PAND. -/
def execPand (d a b : Code) (s : State) : Host.Outcome State Fault Refusal :=
  issue {} Uses.none (fun _ _ => okCond (predOk false d && predOk true a && predOk true b))
    (State.predicate (fun t => t.predMask a &&& t.predMask b) d) s

/-- POR. -/
def execPor (d a b : Code) (s : State) : Host.Outcome State Fault Refusal :=
  issue {} Uses.none (fun _ _ => okCond (predOk false d && predOk true a && predOk true b))
    (State.predicate (fun t => t.predMask a ||| t.predMask b) d) s

/-- PXOR. -/
def execPxor (d a b : Code) (s : State) : Host.Outcome State Fault Refusal :=
  issue {} Uses.none (fun _ _ => okCond (predOk false d && predOk true a && predOk true b))
    (State.predicate (fun t => t.predMask a ^^^ t.predMask b) d) s

/-- PNOT. -/
def execPnot (d a : Code) (s : State) : Host.Outcome State Fault Refusal :=
  issue {} Uses.none (fun _ _ => okCond (predOk false d && predOk true a))
    (State.predicate (fun t => ~~~ t.predMask a) d) s

/-- VANY (R105): the OR over the contributing lanes, written to each of them. -/
def execVany (d a : Code) (s : State) : Host.Outcome State Fault Refusal :=
  issue { whole := true } Uses.none (fun _ _ => okCond (predOk false d && predOk true a))
    (State.predicate (fun t => if maskOf t.contribLanes &&& t.predMask a = 0 then 0 else BitVec.allOnes 1024) d) s

/-- VALL (R105). -/
def execVall (d a : Code) (s : State) : Host.Outcome State Fault Refusal :=
  issue { whole := true } Uses.none (fun _ _ => okCond (predOk false d && predOk true a))
    (State.predicate (fun t => if maskOf t.contribLanes &&& ~~~ t.predMask a = 0 then BitVec.allOnes 1024 else 0) d) s

/-- BALLOT (R105): a word of the vote, 32-bit whatever TYPE. -/
def execBallot (d a b : Code) (s : State) : Host.Outcome State Fault Refusal :=
  issue { whole := true } { reads := [(b, 1)], writes := [(d, 1)] }
    (fun t _ => okCond (dstOk t false d && predOk true a && srcOk t false b))
    (fun s =>
      let t := s.cur
      let vote := maskOf t.contribLanes &&& t.predMask a
      let word (l : Nat) : Word := let w := (t.opnd32 l b).toNat; if w < 32 then maskWord vote w else 0
      s.writeDest false d ((t.evalLanes d).map (fun l => (l, [word l])))) s

/-! ## Packed conversions (R106–R108) -/

/-- UNPK.QN4. -/
def execUnpkQn4 (d a b : Code) (s : State) : Host.Outcome State Fault Refusal :=
  issueUnpk .qn4 d a b (State.unpk .qn4 d a b) s
/-- UNPK.F4. -/
def execUnpkF4 (d a b : Code) (s : State) : Host.Outcome State Fault Refusal :=
  issueUnpk .f4 d a b (State.unpk .f4 d a b) s
/-- UNPK.E4M3. -/
def execUnpkE4m3 (d a b : Code) (s : State) : Host.Outcome State Fault Refusal :=
  issueUnpk .e4m3 d a b (State.unpk .e4m3 d a b) s
/-- UNPK.E5M2. -/
def execUnpkE5m2 (d a b : Code) (s : State) : Host.Outcome State Fault Refusal :=
  issueUnpk .e5m2 d a b (State.unpk .e5m2 d a b) s
/-- UNPK.I8. -/
def execUnpkI8 (d a b : Code) (s : State) : Host.Outcome State Fault Refusal :=
  issueUnpk .i8 d a b (State.unpk .i8 d a b) s
/-- UNPK.BF. -/
def execUnpkBf (d a b : Code) (s : State) : Host.Outcome State Fault Refusal :=
  issueUnpk .bf d a b (State.unpk .bf d a b) s
/-- UNPK.H. -/
def execUnpkH (d a b : Code) (s : State) : Host.Outcome State Fault Refusal :=
  issueUnpk .h d a b (State.unpk .h d a b) s
/-- PACK.QN4. -/
def execPackQn4 (d a b : Code) (s : State) : Host.Outcome State Fault Refusal :=
  issuePack .qn4 d a b (State.pack .qn4 d a b) s
/-- PACK.F4. -/
def execPackF4 (d a b : Code) (s : State) : Host.Outcome State Fault Refusal :=
  issuePack .f4 d a b (State.pack .f4 d a b) s
/-- PACK.E4M3. -/
def execPackE4m3 (d a b : Code) (s : State) : Host.Outcome State Fault Refusal :=
  issuePack .e4m3 d a b (State.pack .e4m3 d a b) s
/-- PACK.E5M2. -/
def execPackE5m2 (d a b : Code) (s : State) : Host.Outcome State Fault Refusal :=
  issuePack .e5m2 d a b (State.pack .e5m2 d a b) s
/-- PACK.I8. -/
def execPackI8 (d a b : Code) (s : State) : Host.Outcome State Fault Refusal :=
  issuePack .i8 d a b (State.pack .i8 d a b) s
/-- PACK.BF. -/
def execPackBf (d a b : Code) (s : State) : Host.Outcome State Fault Refusal :=
  issuePack .bf d a b (State.pack .bf d a b) s
/-- PACK.H. -/
def execPackH (d a b : Code) (s : State) : Host.Outcome State Fault Refusal :=
  issuePack .h d a b (State.pack .h d a b) s

/-! ## Lanes (R109–R112) -/

/-- XLN (R109): the source lane is b. -/
def execXln (d a b : Code) (s : State) : Host.Outcome State Fault Refusal :=
  let src (t : Team) (l : Nat) : Nat := sourceLane t l (t.opnd32 l b).toNat
  issueCross src false d a b (State.crossLane src d a) s

/-- XLNX (R109): the source lane is l XOR b. -/
def execXlnx (d a b : Code) (s : State) : Host.Outcome State Fault Refusal :=
  let src (t : Team) (l : Nat) : Nat := sourceLane t l (BitVec.ofNat 32 l ^^^ t.opnd32 l b).toNat
  issueCross src false d a b (State.crossLane src d a) s

/-- RDLANE (R110): one lane, named by the leader; beyond the team, the leader's own value. -/
def execRdlane (d a b : Code) (s : State) : Host.Outcome State Fault Refusal :=
  let src (t : Team) (_ : Nat) : Nat := sourceLane t (t.leader.getD 0) (t.lead32 b).toNat
  issueCross src true d a b (State.crossLane src d a) s

/-- TSUM (R111). -/
def execTsum (d a : Code) (s : State) : Host.Outcome State Fault Refusal :=
  issueTree true d a (State.reduceTeam .add d a) s

/-- TMIN (R111). -/
def execTmin (d a : Code) (s : State) : Host.Outcome State Fault Refusal :=
  issueTree true d a (State.reduceTeam .min d a) s

/-- TMAX (R111). -/
def execTmax (d a : Code) (s : State) : Host.Outcome State Fault Refusal :=
  issueTree true d a (State.reduceTeam .max d a) s

/-- TSCAN (R112): no scalar destination. -/
def execTscan (d a : Code) (s : State) : Host.Outcome State Fault Refusal :=
  issueTree false d a (State.scanTeam d a) s

end Sys2Proof.Machine
end

