-- ==== Sys2Proof/Machine/Homes.lean ====
section
/-! DEFINITION. Where lines are homed (R328, R330, R374), the ways of the L2 (R333, R339), and requests to peers (R420, R424, R427). -/

namespace Sys2Proof.Machine

/-! ## Homes -/

/-- The HBM channel of an address: the enabled channel of rank (r + q) mod E (R374). -/
def State.channelOf (s : State) (pa : Nat) : Nat :=
  let chans := (List.range 256).filter (fun i => s.svc.presence.hbmch.getLsbD i)
  let e := chans.length
  let g := pa / 4096
  if e = 0 then 0 else chans.getD ((g % e + g / e) % e) 0

/-- The byte's place within its channel: granules of 4 KiB, in the order of the channel's visits (R374). -/
def State.channelOffset (s : State) (pa : Nat) : Nat := pa / 4096 / s.channels * 4096 + pa % 4096

/-- The die that homes an address (R374). -/
def State.homeDie (s : State) (pa : Nat) : Nat :=
  if pa < 0xC000000000 then s.channelOf pa / 64 else bits pa 12 2

/-- The default slice of a bucket: the fold of its digits (R330). -/
def defaultSlice (b : Nat) : Nat := (bits b 0 4 ^^^ bits b 4 4) ^^^ bits b 8 4

/-- The slice that a bucket starts on: its default slice; the buckets of a die's disabled slices are dealt in ascending order to
its enabled slices, from the lowest (R6, R330). -/
def State.foldSlice (s : State) (d b : Nat) : Nat :=
  let x := defaultSlice b
  if s.sliceOn d x then x
  else
    let on := s.diesSlices d
    on.getD (((List.range b).filter (fun i => !s.sliceOn d (defaultSlice i))).length % on.length) x

/-- The slice of a die that homes a bucket: the table's entry (R330). `buckets` lists the entries that differ from the
reset table, each as its slice plus one. -/
def State.bucketSlice (s : State) (d b : Nat) : Nat :=
  match tget 0 (s.die d).buckets b with
  | 0 => s.foldSlice d b
  | n + 1 => n

/-- The home slice of an address (R328). -/
def State.homeSlice (s : State) (pa : Nat) : Nat :=
  let d := s.homeDie pa
  16 * d + s.bucketSlice d (bucketOf pa)

/-- The leaves that a context's tables give: of each table the entries that memory lists (R356). -/
def State.leavesFrom (s : State) : Nat → Nat → Nat → List Walk
  | left, level, table =>
    let bytes := if level = 0 then 2 ^ 21 else 2 ^ 12
    let at_ := ((s.mem.filter (fun c => decide (table ≤ c.1) && decide (c.1 < table + bytes))).map (fun c => c.1 / 8 * 8)).eraseDups
    at_.flatMap (fun a =>
      let e := BitVec.ofNat 64 (cellNat s.mem a 8)
      if !e.getLsbD 0 || s.badEntry e level a then []
      else if e.getLsbD 1 then [⟨e, level, a⟩]
      else
        match left with
        | 0 => []
        | n + 1 => s.leavesFrom n (level + 1) (entryPa e))

/-- The leaves of the valid contexts' tables (R356). -/
def State.tableLeaves (s : State) : List Walk :=
  (s.ctxs.filter (fun x => x.2.valid)).flatMap (fun x => s.leavesFrom 3 0 (x.2.ptroot.extractLsb' 0 48).toNat)

/-- The translations that the device may use now: cached ones, and the leaves of the valid contexts' tables (R356, R360). -/
def State.leaves (s : State) : List (DWord × Nat) :=
  s.tlb.map (fun t => (t.leaf, t.level)) ++ s.tableLeaves.map (fun w => (w.leaf, w.level))

/-- The region mode of a physical address, as the contexts' tables have it (R357); hardware-coherent where none names it (log entry
17). -/
def State.modeOfPa (s : State) (pa : Nat) : Nat :=
  let hit (x : DWord × Nat) : Bool :=
    let n := pageBytes x.1 x.2
    !x.1.getLsbD 56 && decide (entryPa x.1 / n = pa / n) && decide (x.1.extractLsb' 9 2 ≠ 0)
  ((s.leaves.find? hit).map (fun x => (x.1.extractLsb' 9 2).toNat)).getD 0

/-! ## The L2 of a home slice (R328, R333, R339) -/

/-- The ways of a slice that chip scratchpad pins: its boundary while the scratchpad is held, less what a risen one has still to
take (R333, R334, R339). -/
def State.boundary (s : State) (slice : Nat) : Nat :=
  let d := s.die (slice / 16)
  if d.holder.isNone then 0 else d.smin + tget 0 d.bounds (slice % 16) - tget 0 d.lag (slice % 16)

/-- The place of a chip-scratchpad line: slice, set, way (R333). -/
def State.chipPlace (s : State) (line : Nat) : Nat × Nat × Nat :=
  let d := locId (line * 128)
  let on := s.diesSlices d
  let n := locOff (line * 128) / 128
  let j := n / max 1 on.length
  (16 * d + on.getD (n % max 1 on.length) 0, j % 4096, j / 4096)

/-- Whether a line is chip scratchpad. -/
def chipLine (line : Nat) : Bool := locKind (line * 128) == 4

/-- The slice that homes a line, or holds the proxy's copy of a peer's (R328, R425). -/
def State.lineSlice (s : State) (line : Nat) : Nat :=
  let pa := locOff (line * 128)
  if chipLine line then (s.chipPlace line).1
  else if locKind (line * 128) = 6 then 16 * bits pa 12 2 + s.bucketSlice (bits pa 12 2) (bucketOf pa)
  else s.homeSlice (line * 128)

/-- The slice and set of a line. The bank is the line address bits [8:7] (R328); how a bank's set is chosen the spec leaves open
(log entry 64). -/
def State.l2Key (s : State) (line : Nat) : Nat :=
  s.lineSlice line * 4096 + (if chipLine line then (s.chipPlace line).2.1 else line % 4 + 4 * (Config.l2Set line % 1024))

/-- Whether a line is pinned in its way below the boundary (R333). -/
def State.l2Pinned (s : State) (line : Nat) : Bool :=
  chipLine line && decide ((s.chipPlace line).2.2 < s.boundary (s.chipPlace line).1)

/-- The other lines in the unpinned ways of a line's set, least recently used first; fewer than four lines fill no set, nor
half of one. -/
def State.l2Mates (s : State) (line : Nat) : List Nat :=
  if s.coh.l2.length < 4 then []
  else
    let key := s.l2Key line
    s.coh.l2.filter (fun x => x != line && s.l2Key x == key && !s.l2Pinned x)

/-- The unpinned ways of a line's set. -/
def State.l2Ways (s : State) (line : Nat) : Nat := 16 - s.boundary (s.lineSlice line)

/-- Whether a line needs a way that its set does not have free. -/
def State.l2Full (s : State) (line : Nat) : Bool :=
  let mates := s.l2Mates line
  decide (mates ≠ []) && !s.coh.l2.contains line && !s.l2Pinned line && decide (s.l2Ways line ≤ mates.length)

/-- A line used: in its set, the most recent. -/
def State.l2Touch (s : State) (line : Nat) : State :=
  { s with coh := { s.coh with l2 := s.coh.l2.filter (fun x => x != line) ++ [line] } }

/-- A line leaves the L2, and with it the sizes of strong accesses recorded there (R136, R331). -/
def State.l2Leave (s : State) (line : Nat) : State :=
  { s with coh := { s.coh with
    l2 := s.coh.l2.filter (fun x => x != line)
    granules := s.coh.granules.filter (fun g => decide (g.1 / 8 ≠ line)) } }

/-! ## Requests to peers (R420, R424, R427) -/

/-- Whether a bobbin or an open read set holds a peer's line, whose lease then renews in time (R170, R270, R425). -/
def State.proxyHeld (s : State) (line : Nat) : Bool :=
  s.teams.any (fun t => t.live && (t.bindings.any (fun e => lineOf e.2.loc == line) ||
    t.region.any (fun e => e.2.open_ && e.2.lines.any (fun l => l.1 == line))))

/-- The proxy's copy of a peer's line, if its lease has not run out (R336, R343, R425). -/
def State.proxyLine (s : State) (line : Nat) : Option ProxyLine :=
  s.fab.proxy.find? (fun p => p.line == line && (decide (p.st ≠ CopyState.s) || !s.leaseOver (p.stamp - 1)))

/-- The lines of peers that a team's observation points wait for are asked for (R159, R425). -/
def State.askUnseen (s : State) (t : Team) : State :=
  t.bindings.foldl (fun s e =>
    let line := lineOf e.2.loc
    match e.2.space with
    | .peer d _ =>
      if !s.unseen t e.2 || s.fab.txns.any (fun x => x.op == 0 && x.line == line) then s
      else s.request d (s.ctxOfTeam t.uid) 0x00 0 (locOff e.2.loc / 128 * 128) line true [] {}
    | _ => s) s

/-- Forgets the snapshots of uncached lines that engines have used (R427). -/
def State.dropSnaps (s : State) : State :=
  if s.fab.proxy = [] then s else { s with fab := { s.fab with proxy := s.fab.proxy.filter (fun p => decide (p.st ≠ CopyState.h)) } }

/-- Drops the proxy's copy of a line. -/
def State.dropProxy (s : State) (line : Nat) : State :=
  { s with fab := { s.fab with proxy := s.fab.proxy.filter (fun p => !(p.line == line)) } }

/-- The proxy gives up a peer's line: a notice, or a writeback of a dirty one; read sets lose the line, bobbins of which `again`
says so fetch it again (R339, R340, R353, R425). -/
def State.yieldProxy (s : State) (line : Nat) (again : Bool) : State :=
  match s.fab.proxy.find? (fun p => p.line == line) with
  | none => s.l2Leave line
  | some p =>
    let pa := locOff (line * 128)
    let bound := s.teams.any (fun t => t.live && t.bindings.any (fun e => lineOf e.2.loc == line))
    let s := (((s.dropProxy line).l2Leave line).loseLines (fun l => l == line))
    let s := match p.st with
      | .m => s.request p.peer 0 0x09 0 pa line true (cellBytes s.mem (line * 128) 128) {}
      | .h => s
      | _ => s.sendTo p.peer (some pa) (mkPacket 0 s.fab.dev p.peer 0 0x08 0 0 pa [])
    if bound && again then s.request p.peer 0 0x00 0 pa line true [] {} else s

/-- The proxy gives up a peer's line for want of room, or at a CFLUSH. -/
def State.evictProxy (s : State) (line : Nat) : State := s.yieldProxy line true

/-- The number that MISC gives an atomic operation: its place in R152's list, and the TYPE (R419); bit 3 says that MIXCHK was clear
at its issue (R371, log entry 14). -/
def atMisc (op : AtOp) (type : Nat) : Nat :=
  (match op with
    | .add => 0
    | .and => 1
    | .or => 2
    | .xor => 3
    | .min => 4
    | .max => 5
    | .xch => 6
    | .cas => 7) + type * 16

/-- The operation that MISC names. -/
def miscAt (m : Nat) : AtOp :=
  match m % 8 with
  | 0 => .add
  | 1 => .and
  | 2 => .or
  | 3 => .xor
  | 4 => .min
  | 5 => .max
  | 6 => .xch
  | _ => .cas

/-- The operands of an atomic in a payload. -/
def atomicPayload (size : Nat) (op : AtOp) (b other : DWord) : List Byte :=
  leBytes size b.toNat ++ (if op = .cas then leBytes size other.toNat else [])

/-- What MISC of a write, or of an acquire read, says of the strong accesses in it, three at most (R136, log entry 14): place in the
line and size. -/
def strongMisc (xs : List (Nat × Nat × Nat)) : Nat :=
  ((xs.take 3).zipIdx.map (fun x => (x.1.2.1 % 128 * 32 + x.1.2.2 % 32) * 4096 ^ x.2)).sum

/-- Asks a peer for what a load needs; `strong` is the size under which its home records an acquire, 0 for none (R136). The tag it
waits on, or none where nothing need be asked. -/
def State.askLoad (s : State) (ctx wg strong : Nat) (l : Load) : State × Option Nat :=
  let tag := s.fab.nextTag
  let w : Waits := { load := some l.seq, lane := l.lane }
  let rmw : Option (AtOp × Nat × DWord × DWord) := match l.kind with
    | .atomic op ty b c => some (op, ty, b, c)
    | .bound op ty b c _ => some (op, ty, b, c)
    | _ => none
  match l.space with
  | .peer d memSide =>
    match rmw with
    | some (op, ty, b, c) =>
      let s := s.yieldProxy (lineOf l.loc) false
      let tag := s.fab.nextTag
      (s.request d ctx 0x05 (atMisc op ty + (if l.chk then 0 else 8)) (locOff l.loc) (lineOf l.loc) true
        (atomicPayload l.size op b c) w, some tag)
    | none =>
      let note := if strong = 0 then 0 else strongMisc [(0, l.loc, strong)]
      if memSide then (s.request d ctx 0x03 (l.size + 256 * note) (locOff l.loc) (lineOf l.loc) true [] w, some tag)
      else if (s.proxyLine (lineOf l.loc)).isSome then (s, none)
      else
        match s.fab.txns.find? (fun x => x.op == 0 && x.line == lineOf l.loc && x.load == some l.seq) with
        | some x => (s, some x.tag)
        | none => (s.request d ctx 0x00 note (locOff l.loc / 128 * 128) (lineOf l.loc) true [] w, some tag)
  | .member _ =>
    match rmw with
    | some (op, ty, b, c) =>
      (s.windowRequest wg 0x39 (atMisc op ty + 256) l.loc (atomicPayload l.size op b c) w, some tag)
    | none => (s.windowRequest wg 0x37 l.size l.loc [] w, some tag)
  | _ => (s, none)

/-- Requests for the loads of one instruction: those answered from the proxy are satisfied at once, the others wait. -/
def State.askLoads (seq strong : Nat) : List Load → State → State × List Nat
  | [], s => (s, [])
  | l :: ls, s =>
    if l.seq = seq && l.value.isNone && l.space.remote then
      match s.askLoad s.curCtxNum s.cur.wg strong l with
      | (s, none) => State.askLoads seq strong ls (s.settleLoad l)
      | (s, some tag) =>
        let rest := State.askLoads seq strong ls s
        (rest.1, if rest.2.contains tag then rest.2 else tag :: rest.2)
    else State.askLoads seq strong ls s

/-- The issuing team stays at the instruction until every answer has arrived (R437, R141). -/
def Res.withAsks (asks : List Nat) (scalar : Bool) (r : Res) : Res :=
  let extra := asks.map (fun t => (t, 9))
  let held (s : State) (final : List (Nat × Trap)) (lanes : Mask) : Res :=
    .stay (s.setCur { s.cur with
      park := .page
      service := some { asked := extra, failed := [], final := final, lanes := lanes, scalar := scalar } })
  if asks = [] then r
  else
    match r with
    | .done s => held s [] 0
    | .jump s => held s [] 0
    | .stay s => .stay (s.setCur { s.cur with service := s.cur.service.map (fun v => { v with asked := v.asked ++ extra }) })
    | .trap s cs fmask => held s (cs.map (fun c => (c.1.getD 0, c.2))) fmask

/-- The members of a workgroup's hank on this device: each has a window of its own onto the same bytes (R437). -/
def State.hankMates (s : State) (wg : Nat) : List Nat :=
  match (s.wg? wg).bind Wg.hank with
  | none => [wg]
  | some h => (s.wgs.filter (fun w => w.hank.any (fun k => k.key == h.key && k.hank == h.hank))).map Wg.uid

/-- A location of a member's window as another member of the hank here names it. -/
def mateLoc (u loc : Nat) : Nat := mkLoc 7 u (locOff loc)

/-- Changes what the bindings of this device into the window hold of a range of it. -/
def State.holdViews (s : State) (mates : List Nat) (loc size : Nat) (f : Binding → Option Nat) : State :=
  s.mapTeams (fun t => { t with bindings := t.bindings.map (fun e =>
    if mates.any (fun u => overlaps e.2.loc e.2.size (mateLoc u loc) size) then (e.1, { e.2 with held := f e.2 }) else e) })

/-- What a binding into the window of a member on another device last took is what this device knows of those bytes (R159). -/
def State.knownViews (s : State) (mates : List Nat) (loc size : Nat) : List Host.Cell :=
  s.teams.flatMap (fun t => t.bindings.flatMap (fun e =>
    match e.2.space, e.2.held with
    | .member _, some x =>
      if mates.any (fun u => overlaps e.2.loc e.2.size (mateLoc u loc) size) then
        mates.flatMap (fun u => cellsFrom (mateLoc u e.2.loc) (leBytes e.2.size x))
      else []
    | _, _ => []))

/-- The device's own view of bytes in the window of a member on another device, which it has read or written there: bindings to them
take it from now on (R159, R437). -/
def State.ownView (s : State) (wg loc : Nat) (bytes : List (Nat × Byte)) : State :=
  let mates := s.hankMates wg
  let cells := mates.flatMap (fun u => bytes.map (fun b => (mateLoc u b.1, b.2)))
  ({ s with mem := writeCells (writeCells s.mem (s.knownViews mates loc 128)) cells } : State).holdViews mates loc 128 (fun _ => none)

/-- A write of this device into the window of a member on another device reaches the bindings and read sets of its own workgroup, but
on the cores that it has reached already, and of the hank's other members here (R157). -/
def State.reachWindow (s : State) (wg line team : Nat) (own : Option Nat) (skip : List Nat) : State :=
  let s := s.reach [(line * 128, 0)] team own skip
  ((s.hankMates wg).filter (fun u => decide (u ≠ wg))).foldl (fun s u => s.reach [(mateLoc u (line * 128), 0)] team own []) s

/-- A reduction of this device at a member on another device: what stands there now is known to its bindings no more (R159). -/
def State.loseView (s : State) (wg loc size : Nat) : State :=
  (s.holdViews (s.hankMates wg) loc size (fun b => some (s.awayValue b))).draw

/-- A store entry of a peer's memory or of another device's member leaves for it (R137, R427, R437). -/
def State.sendStore (s : State) (e : StoreEntry) (wg : Nat) : State :=
  let ctx := if e.tag.team = 0 then e.tag.seq else ((s.wg? wg).map Wg.ctx).getD 0
  let w : Waits := { write := e.tags, strong := e.strong.map (fun x => x.1) }
  let line := lineOf e.loc
  let image : List Byte :=
    leBytes 16 ((e.cells.map (fun c => 2 ^ (c.1 % 128))).eraseDups.sum) ++
      (List.range 128).map (fun i => (coverByte e.cells (line * 128 + i)).getD 0)
  match e.space with
  | .peer d _ =>
    match e.red with
    | some r =>
      let clear := e.strong.any (fun x => x.2.2 == 31)
      (s.yieldProxy line false).request d ctx 0x06 (atMisc r.op r.type + (if clear then 8 else 0)) (locOff e.loc) line true
        (leBytes r.size r.operand.toNat) w
    | none => (s.perform e.cells e.tag.team e.tag.own [e.core]).request d ctx 0x04 (strongMisc e.strong) (locOff e.loc / 128 * 128) line true
        image w
  | _ =>
    match e.red with
    | some r => s.windowRequest wg 0x39 (atMisc r.op r.type) e.loc (leBytes r.size r.operand.toNat) w
    | none => ((s.ownView wg (line * 128) e.cells).reachWindow wg line e.tag.team e.tag.own [e.core]).windowRequest wg 0x38 0
        (e.loc / 128 * 128) image w

/-! ## Making room in the L2 (R339) -/

/-- Whether no agent holds or watches a line. -/
def DirEntry.idle (e : DirEntry) : Bool := e.st == .di && !e.w && !e.shared

/-- The agent number that stands for the home itself, which evicts a line. -/
def homeAgent : Nat := 511

/-- The agent number under which the home recalls a line from a streamer and keeps it. -/
def recallAgent : Nat := 510

/-- The home asks for a line to be given up, once. -/
def State.askDrop (s : State) (agent line : Nat) : State :=
  if s.asking agent line [.drop] then s
  else { s with coh := { s.coh with reqs := s.coh.reqs ++ [⟨.drop, agent, line, [], [], none⟩] } }

/-- The home evicts a line: at once when no agent holds it, else by recalls and invalidations under its lock (R339). -/
def State.l2Evict (s : State) (line : Nat) : State :=
  if locKind (line * 128) = 6 then s.evictProxy line
  else if (s.dirEntry line).idle then (s.setDir line DirEntry.empty).l2Leave line else s.askDrop homeAgent line

/-- The victim of a set (R339): a line in DI, else the least recently used not held by a streamer. -/
def State.l2Victim (s : State) (line : Nat) : Option Nat :=
  let free := (s.l2Mates line).filter (fun x => !s.locked x)
  match free.find? (fun x => (s.dirEntry x).st == .di && !s.proxyHeld x) with
  | some x => some x
  | none => free.find? (fun x => (s.dirEntry x).st != .dh)

/-- A way is made free for a line that needs one. -/
def State.l2Room (s : State) (line : Nat) : State :=
  if !s.l2Full line then s
  else
    match s.l2Victim line with
    | some v => s.l2Evict v
    | none => s

/-- The lines in DH of a line's set, the longest held first (R339). -/
def State.l2Holds (s : State) (line : Nat) : List Nat :=
  let mates := s.l2Mates line
  (s.coh.copies.filter (fun k => k.st == .h && mates.contains k.line)).map Copy.line

/-- Whether a hold of a line would put more than half of the unpinned ways of its set into DH, holds under way included (R339). -/
def State.holdFull (s : State) (line : Nat) : Bool :=
  let mates := s.l2Mates line
  let coming := s.coh.txns.filter (fun t => t.kind == .getH && mates.contains t.line && (s.dirEntry t.line).st != .dh)
  decide (s.l2Ways line / 2 ≤ (s.l2Holds line).length + coming.length)

/-- The lines of a slice that fewer ways leave no room for, each with the agent that asks for it: a line in DH is recalled first, the
longest held, and holds above half the ways too; the others are evicted (R334, R339). Which way a line stands in is not tracked:
the least recently used lose theirs (log entry 64). -/
def State.crowded (s : State) (slice ways : Nat) : List (Nat × Nat) :=
  let mine := s.coh.l2.filter (fun x => s.lineSlice x == slice && !s.l2Pinned x)
  if mine.length ≤ ways / 2 then []
  else
    ((mine.map s.l2Key).eraseDups).flatMap (fun key =>
      let set := mine.filter (fun x => s.l2Key x == key)
      let held := (s.coh.copies.filter (fun k => k.st == .h && set.contains k.line)).map Copy.line
      let out := set.take (set.length - ways)
      (((held.take (held.length - ways / 2)) ++ out.filter held.contains).eraseDups.map (fun x => (recallAgent, x))) ++
        ((out.filter (fun x => !held.contains x)).map (fun x => (homeAgent, x))))

/-- A slice of a die takes the ways by which its boundary has risen, once no set holds a line there; till then it asks for those
lines (R334, R339). -/
def State.takeWays (s : State) (slice : Nat) : State :=
  let d := s.die (slice / 16)
  let i := slice % 16
  if tget 0 d.lag i = 0 then s
  else
    match s.crowded slice (16 - s.boundary slice - tget 0 d.lag i) with
    | [] => s.setDie (slice / 16) { d with lag := tset 0 d.lag i 0 }
    | out => out.foldl (fun s x => s.askDrop x.1 x.2) s

/-- A die whose boundaries have risen. -/
def State.takeDie (s : State) (die : Nat) : State := (s.diesSlices die).foldl (fun s i => s.takeWays (16 * die + i)) s

end Sys2Proof.Machine
end

