-- ==== Sys2Proof/Machine/System.lean ====
section
/-! DEFINITION. System and mode instructions (R89–R94, R127, R361) and the control registers (R35). -/

namespace Sys2Proof.Machine

/-- NOP (R89). -/
def execNop (s : State) : Host.Outcome State Fault Refusal := issue {} Uses.none (fun _ _ => []) (fun s => .done s) s

/-- YIELD (R94, R186): the team becomes yielding, its last-issue time the current cycle. -/
def execYield (s : State) : Host.Outcome State Fault Refusal :=
  issue {} Uses.none (fun _ _ => [])
    (fun s => .done (s.setCur { s.cur with yielding := true, lastIssue := some s.cur.now })) s

/-- MODE (R29, R90). -/
def execMode (v : ModeVal) (s : State) : Host.Outcome State Fault Refusal :=
  issue {} Uses.none (fun _ _ => whenCond (!modeOk v) tILLEGAL) (fun s => .done (s.setCur { s.cur with mode := v })) s

/-- MODE with its guard fields replaced: MODE[11:7] from value bits [4:0] (R29). -/
def withGuard (m v : ModeVal) : ModeVal := (m &&& ~~~ (0xF80 : ModeVal)) ||| ((v &&& 0x1F) <<< 7)

/-- MGUARD (R29, R91). -/
def execMguard (v : ModeVal) (s : State) : Host.Outcome State Fault Refusal :=
  issue {} Uses.none (fun _ _ => whenCond (decide (v.extractLsb' 5 16 ≠ 0)) tILLEGAL)
    (fun s => .done (s.setCur { s.cur with mode := withGuard s.cur.mode v })) s

/-! ## Reading control registers (R35, R92) -/

/-- The indices of R35. -/
def ctrlKnown (i : Nat) : Bool := i ≤ 0x12 && i != 0x07 || (0x40 ≤ i && i ≤ 0x47)

/-- The registers that SETC may write (R35). -/
def ctrlWritable (i : Nat) : Bool := [0x00, 0x01, 0x02, 0x0F, 0x10].contains i || (0x40 ≤ i && i ≤ 0x47)

/-- The 64-bit registers (R92). -/
def ctrlWide (i : Nat) : Bool := [0x02, 0x10, 0x46, 0x47].contains i

/-- RSTAT of a lane (R274). -/
def Team.rstat (t : Team) (l : Nat) : Word :=
  match t.rlane? l with
  | none => 0
  | some r => BitVec.ofNat 32 ((if r.open_ then 2 ^ 31 else 0) + (if r.repaired then 2 ^ 30 else 0) + r.code * 2 ^ 24 +
      r.lines.length * 2 ^ 16 + r.stores.length * 2 ^ 12 + r.constraints * 2 ^ 8 + r.inputs.length)

/-- The bobbins of a team (R170): register and line of each, and whether it is spilled. -/
def Team.bobbins (t : Team) : List (Nat × Nat × Bool) :=
  (t.bindings.map (fun e => (e.1 % 96, lineOf e.2.loc, e.2.spilled))).eraseDups

/-- BSUM (R173). -/
def Team.bsum (t : Team) : Word :=
  let b := t.bobbins
  BitVec.ofNat 32 (min 4095 (b.filter (fun x => x.2.2)).length * 2 ^ 16 + min 65535 b.length)

/-- BATCH.DONE (R221): every batch up to it is complete. -/
def State.batchDone (s : State) (t : Team) : BitVec 16 :=
  let open_ := (s.batches.filter (fun b => b.team == t.uid && !b.done)).map (fun b => (t.batchLast - b.num).toNat)
  match open_.foldl max 0, open_ with
  | _, [] => t.batchLast
  | far, _ => t.batchLast - BitVec.ofNat 16 far - 1

/-- Operations of a workgroup in the engine queue of its core that MPROG reports (R241). -/
def State.mmaOps (s : State) (w : Wg) : List MOp :=
  (tget [] s.matrix w.core).filter (fun o => o.wg == w.uid && (match o.kind with
    | .mma _ _ _ => true
    | _ => false))

/-- MPROG (R241). -/
def State.mprogWord (s : State) (w : Wg) : Word :=
  let err := (if w.mprog.err then 2 ^ 29 else 0) + w.mprog.code * 2 ^ 24
  match (s.mmaOps w).head? with
  | some o => BitVec.ofNat 32 (2 ^ 31 + (if o.stop then 2 ^ 30 else 0) + err + o.tile * 2 ^ 16 + o.strips)
  | none => BitVec.ofNat 32 (err + w.mprog.acc * 2 ^ 16 + w.mprog.strips)

/-- Whether a matrix operation of a program is stopped for fault service (R238). -/
def State.opStopped (s : State) (p : Prog) : Bool :=
  (tget [] s.matrix p.core).any (fun o => o.prog == some p.uid && o.stop)

/-- STATE of a running program (R205): while its matrix operation is in fault service it shows 3 (R238). -/
def State.progState (s : State) (p : Prog) : Nat :=
  if p.state ≤ 1 then (if s.opStopped p then 3 else 1) else p.state

/-- One half of SPROG (R205); CLAUSES keeps the count of the last program while none runs (log entry 63). -/
def State.sprogHalf (s : State) (w : Wg) (eng : Nat) : Word :=
  let mine := s.progs.filter (fun p => p.core == w.core && p.eng == eng && p.wg == w.uid && !p.ended)
  let run := mine.find? (fun p => !p.queued)
  let h := w.sprog.getD eng ⟨false, 0, 0⟩
  let state := (run.map s.progState).getD 0
  let clauses := (run.map (fun p => min 0xFFFFF p.clauses)).getD h.clauses
  BitVec.ofNat 32 (state * 2 ^ 29 + min 4 mine.length * 2 ^ 26 + (if h.err then 2 ^ 25 else 0) + h.code * 2 ^ 20 + clauses)

/-- CLUSTERID.CORES (R315). -/
def State.clusterCores (s : State) (core : Nat) : Nat :=
  ((List.range 8).map (fun j => if s.coreOn (8 * clusterOf core + j) then 2 ^ j else 0)).sum

/-- HANKIDX (R433). -/
def Wg.hankIdx (w : Wg) : Word :=
  match w.hank with
  | none => 0
  | some h => BitVec.ofNat 32 (2 ^ 31 + h.hank * 2 ^ 8 + (h.size - 1) * 2 ^ 4 + h.member)

/-- A control register as a lane reads it (R35); `word` is FAULTMASK's word number. -/
def State.ctrlRead (s : State) (i : Nat) (word lane : Nat) : Nat :=
  let t := s.cur
  let core := s.curCore
  match i with
  | 0x00 => t.tstat.toNat
  | 0x01 => t.mode.toNat
  | 0x02 => t.faultPc.toNat
  | 0x03 => t.faultInfo.toNat
  | 0x04 => (maskWord t.faultMask word).toNat
  | 0x05 => (t.rstat lane).toNat
  | 0x06 => t.bsum.toNat
  | 0x08 => (loWord s.ticks).toNat
  | 0x09 => (t.clkLatch.getD (hiWord s.ticks)).toNat
  | 0x0A => core
  | 0x0B => s.clusterCores core * 2 ^ 8 + clusterOf core
  | 0x0C => ((List.range 16).map (fun j => if s.sliceOn (dieOf core) j then 2 ^ (16 + j) else 0)).sum + dieOf core
  | 0x0D => s.fab.ndev * 2 ^ 16 + s.fab.dev
  | 0x0E => ((s.curWg.map Wg.hankIdx).getD 0).toNat
  | 0x0F => ((s.curWg.map s.mprogWord).getD 0).toNat
  | 0x10 => ((s.curWg.map (fun w => (s.sprogHalf w 0).toNat + 2 ^ 32 * (s.sprogHalf w 1).toNat)).getD 0)
  | 0x11 => (s.batchDone t).toNat * 2 ^ 16 + t.batchLast.toNat
  | 0x12 => t.stack.length
  | 0x40 => s.coh.leaseL1
  | 0x41 => s.coh.leasePeer
  | 0x42 => s.curCtx.mixchk.toNat
  | 0x43 => s.curCtx.hazchk.toNat
  | 0x44 => t.stepctl.toNat
  | 0x45 => (s.die (dieOf core)).carve.toNat
  | 0x46 => s.curCtx.spillBase.toNat
  | 0x47 => s.curCtx.trapBase.toNat
  | _ => 0

/-- The index that GETC and SETC name. -/
def Team.ctrlIndex (t : Team) (a : Code) : Nat := (t.lit (a.toNat - 120)).toNat

/-- The conditions that GETC and SETC share (R35, R92). -/
def ctrlConds (t : Team) (s : State) (a : Code) : List Cond :=
  let i := t.ctrlIndex a
  okCond (kRun t 1 1 a && ctrlKnown i) ++
    whenCond (decide (0x40 ≤ i) && ctrlKnown i && !s.curCtx.priv) (tACCESS 2)

/-- GETC of SPROG or MPROG is SETA-class (R25). -/
def ctrlCls (t : Team) (a : Code) : Nat :=
  if isK a && (t.ctrlIndex a = 0x0F || t.ctrlIndex a = 0x10) then 1 else 0

/-- GETC (R92). SPROG and MPROG are read when the access reaches the engine; CLOCKLO sets the latch (R197). -/
def execGetc (d a b : Code) (s : State) : Host.Outcome State Fault Refusal :=
  issue { cls := ctrlCls s.cur a, whole := isS d }
    { reads := [(a, 1)], lead := [(b, 1)], writes := [(d, regs (ctrlWide (s.cur.ctrlIndex a)))] }
    (fun t s =>
      let i := t.ctrlIndex a
      ctrlConds t s a ++
        okCond (dstOk t (ctrlWide i) d && (if i = 0x04 then srcOk t false b else isZ b) &&
          (i ≠ 0x04 || t.leader.isNone || decide ((t.lead32 b).toNat < 32))))
    (fun s =>
      let t := s.cur
      let i := t.ctrlIndex a
      let n := regs (ctrlWide i)
      let lanes := t.evalLanes d
      if i = 0x0F || i = 0x10 then
        let dests := lanes.flatMap (fun l => destsOf l d n)
        let x := s.mkLoad (if i = 0x0F then .mprog else .sprog) (t.leader.getD 0) .store 0 (4 * n) .none dests
        let s := if isV d then s.dropDests lanes ((List.range n).map (fun k => d.toNat + k)) else s
        .done { s.takeSeq with loads := if dests = [] then s.loads else s.loads ++ [x] }
      else
        let word := (t.lead32 b).toNat
        let ws := lanes.map (fun l => (l, wordsOf n (s.ctrlRead i word l)))
        s.writeDest (ctrlWide i) d ws (fun t lanes =>
          if i = 0x08 && decide (lanes ≠ []) then { t with clkLatch := some (hiWord s.ticks) } else t)) s

/-! ## Writing control registers (R93) -/

/-- Entries of a context's spill table in use: its spilled bobbins; 64 wait entries a core never overflow, since a core
has 32 teams (R171, R184, R260). -/
def State.spillCount (s : State) (c : Nat) : Nat :=
  ((s.teams.filter (fun t => t.live && ((s.wg? t.wg).map Wg.ctx).getD 0 == c)).map (fun t =>
    (t.bobbins.filter (fun b => b.2.2)).length)).sum

/-- The value check of a register (R29, R71, R79, R172, R241, R335, R344, R364, R370–R372); false raises OPERAND. -/
def State.ctrlCheck (s : State) (t : Team) (i x : Nat) : Bool :=
  match i with
  | 0x00 => decide (BitVec.ofNat 32 x &&& tstatReserved = 0)
  | 0x01 => decide (x < 2 ^ 21) && modeOk (BitVec.ofNat 21 x)
  | 0x02 => decide (bits x 57 3 = 0) && decide (x % 4 = 0) && decide (bits x 60 4 ≠ 15)
  | 0x0F =>
    match s.curWg with
    | none => false
    | some w =>
      let cur := (s.mprogWord w).toNat
      decide (bits x 20 4 = 0) && decide (bits x 5 11 = 0) && decide (bits x 0 5 ≤ 16) &&
        (bits cur 30 1 == 1 || bits x 0 5 == bits cur 0 5)
  | 0x10 => true
  | 0x40 => decide (10 ≤ x) && decide (x ≤ 21)
  | 0x41 => decide (10 ≤ x) && decide (x ≤ 21)
  | 0x42 => decide (x < 2)
  | 0x43 => decide (x < 4)
  | 0x44 => decide (bits x 0 10 < t.size)
  | 0x45 => decide (x < 2 ^ 17)
  | 0x46 => decide (bits x 0 4 ≤ 10) && decide (bits x 4 8 = 0) && decide (bits x 57 7 = 0) &&
      decide (s.spillCount s.curCtxNum = 0)
  | 0x47 => decide (x % 2 ^ 12 = 0)
  | _ => false

/-- The stopped operation takes the strip at which it resumes (R241). -/
def setStrips (wg n : Nat) : List MOp → List MOp
  | [] => []
  | o :: os =>
    match o.kind with
    | .mma _ _ _ => if o.wg == wg then (if o.stop then { o with strips := n } else o) :: os else o :: setStrips wg n os
    | _ => o :: setStrips wg n os

/-- A control register written. -/
def State.ctrlWrite (s : State) (i x : Nat) : State :=
  let t := s.cur
  let c := s.curCtxNum
  match i with
  | 0x00 => s.setCur (t.writeTstat (BitVec.ofNat 32 x))
  | 0x01 => s.setCur { t with mode := BitVec.ofNat 21 x }
  | 0x02 => s.setCur { t with faultPc := BitVec.ofNat 64 x }
  | 0x0F =>
    match s.curWg with
    | none => s
    | some w =>
      let s := { s with matrix := tset [] s.matrix w.core (setStrips w.uid (bits x 0 5) (tget [] s.matrix w.core)) }
      if bits x 29 1 = 1 then s.modWg w.uid (fun w => { w with mprog := { w.mprog with err := false, code := 0 } }) else s
  | 0x10 => s.modWg t.wg (fun w => { w with sprog := w.sprog.zipIdx.map (fun h =>
      if bits x (32 * h.2 + 25) 1 = 1 then { h.1 with err := false, code := 0 } else h.1) })
  | 0x40 => { s with coh := { s.coh with leaseL1 := x } }
  | 0x41 => { s with coh := { s.coh with leasePeer := x } }
  | 0x42 => s.setCtx c { s.ctx c with mixchk := BitVec.ofNat 32 x }
  | 0x43 => s.setCtx c { s.ctx c with hazchk := BitVec.ofNat 32 x }
  | 0x44 => s.setCur { t with stepctl := BitVec.ofNat 32 x &&& 0xC00003FF }
  | 0x45 =>
    let d := dieOf s.curCore
    s.setDie d { s.die d with carve := BitVec.ofNat 32 x }
  | 0x46 => s.setCtx c { s.ctx c with spillBase := BitVec.ofNat 64 x }
  | 0x47 => s.setCtx c { s.ctx c with trapBase := BitVec.ofNat 64 x }
  | _ => s

/-- SETC (R93): the leader lane's value; with no leader only the codes and the index are checked. -/
def execSetc (a b : Code) (s : State) : Host.Outcome State Fault Refusal :=
  issue { whole := true, lanes := .leader } { reads := [(a, 1), (b, regs (ctrlWide (s.cur.ctrlIndex a)))], writes := [] }
    (fun t s =>
      let i := t.ctrlIndex a
      let w := ctrlWide i
      let codes := srcOk t w b && ctrlWritable i
      ctrlConds t s a ++ okCond codes ++
        whenCond (codes && t.leader.isSome && !s.ctrlCheck t i (t.opndN w (t.leader.getD 0) b)) tOPERAND)
    (fun s =>
      let t := s.cur
      let i := t.ctrlIndex a
      match t.leader with
      | none => .done s
      | some l => .done (s.ctrlWrite i (t.opndN (ctrlWide i) l b))) s

/-! ## Waiting for the team's own accesses -/

/-- A release at a scope: goes on once every earlier access of the team is complete there (R146, R223, R257). -/
def State.released (s : State) (scope : Nat) (go : State → Res) : Res :=
  if s.accessesDone s.cur.uid s.nextSeq scope then go s.unpark else s.parkOn .access

/-! ## HCALL (R127, R128) -/

/-- HCALL: FENCES at system scope, the request, the wait for its status, FENCEA at system scope. Requests above 0xFF go
to the context's host request queue; those below to the service controller. -/
def execHcall (d a b : Code) (s : State) : Host.Outcome State Fault Refusal :=
  issue { forbidden := 1, whole := true } { reads := [(a, 1), (b, 2)], writes := [(d, 1)] }
    (fun t _ => okCond (szOk false d && kRun t 1 1 a && sbaseOk t true b && decide (t.ctrlIndex a ≤ 0xFFFF)))
    (fun s =>
      match s.cur.park with
      | .hcall _ (some st) =>
        let s := s.unpark
        .done (if isS d then s.setCur (s.cur.sset (sNum d) st) else s)
      | .hcall _ none => .stay s
      | _ =>
        s.released 5 (fun s =>
          let svc := s.cur.ctrlIndex a
          let wgIndex := (s.curWg.map Wg.index).getD 0
          let arg1 := BitVec.ofNat 64 (svc + wgIndex % 2 ^ 16 * 2 ^ 16 + s.cur.index * 2 ^ 32)
          let s := if svc < 0x100 then s else s.postHrq s.curCtxNum 4 0 (s.cur.opnd64 0 b) arg1 s.cur.uid
          s.parkOn (.hcall svc none))) s

/-! ## TLBINV (R361) -/

/-- Whether a cached translation is removed by a kind of TLBINV. -/
def tlbHit (c : Nat) (va : DWord) (kind : Nat) (e : TlbEntry) : Bool :=
  e.ctx == c &&
    match kind with
    | 0 => decide (va.toNat % 2 ^ 57 / pageBytes e.leaf e.level = e.page * 4096 / pageBytes e.leaf e.level)
    | 1 => overlaps (va.toNat % 2 ^ 57 / 2 ^ 21 * 2 ^ 21) (2 ^ 21)
        (e.page * 4096 / pageBytes e.leaf e.level * pageBytes e.leaf e.level) (pageBytes e.leaf e.level)
    | _ => true

/-- Removes translations of a context (R361). -/
def State.dropTlb (s : State) (c : Nat) (va : DWord) (kind : Nat) : State :=
  { s with tlb := s.tlb.filter (fun e => !tlbHit c va kind e) }

/-- The workgroup of an issuer: a team or a spindle program. -/
def State.issuerWg (s : State) (u : Nat) : Nat :=
  match s.team? u with
  | some t => t.wg
  | none => ((s.prog? u).map Prog.wg).getD 0

/-- Whether the bytes of a binding may differ from its register's contents, as far as the core can tell (R168): those in a member's
window on another device, or in a peer's line that is not held here, are not looked at. -/
def State.boundDiffers (s : State) (core : Nat) (t : Team) (key : Nat) (b : Binding) : Bool :=
  let n := if b.size8 then 8 else 4
  let held := (tget 0 t.v key).toNat + (if b.size8 then 2 ^ 32 * (tget 0 t.v (key + 1)).toNat else 0)
  let away : Bool := match b.space with
    | .member _ => true
    | .peer _ _ => !s.fab.proxy.any (fun p => p.line == lineOf b.loc)
    | _ => false
  away || decide (s.readAt core t.uid b.space b.loc n ≠ held)

/-- The place of a binding of translated memory as its context's entries give it now; the old one where they give none (R168,
R361). -/
def State.placeNow (s : State) (c : Nat) (b : Binding) : Binding :=
  if locKind b.loc = 0 ∨ locKind b.loc = 6 then
    match (s.translate c (BitVec.ofNat 64 b.addr) Need.load).2 with
    | .at_ space loc => { b with space := space, loc := loc }
    | _ => b
  else b

/-- Bindings of a context watch the places that the current entries name (R361): one whose place has changed reports a change, for the
writes there before it came, unless its bytes are those that it holds. -/
def State.rewatch (s : State) (c : Nat) : State :=
  let moved := s.teams.flatMap (fun t =>
    if t.live && t.bindings ≠ [] && s.ctxOfTeam t.uid == c && !(s.wg? t.wg).any (fun w => w.phase == .saved) then
      t.bindings.filterMap (fun e =>
        let b := s.placeNow c e.2
        if b.loc = e.2.loc then none else some (t, e.1, b))
    else [])
  moved.foldl (fun s x =>
    let core := s.teamCore x.1
    let b := { x.2.2 with pend := x.2.2.pend || x.2.2.notify || s.boundDiffers core x.1 x.2.1 x.2.2, since := s.cycle }
    (s.modTeam x.1.uid (fun t => { t with bindings := aput t.bindings x.2.1 b })).holdBound core b.space b.loc b.spilled) s

/-- Whether the context's accesses issued before a point are complete (R361): a team's, a spindle program's, and the stores that
another team's region holds back, which a team outside a region waits for. -/
def State.ctxAccessesDone (s : State) (c before : Nat) : Bool :=
  let mine (u : Nat) : Bool := ((s.wg? (s.issuerWg u)).map Wg.ctx) == some c
  (s.cur.inRegion || !s.teams.any (fun t => t.live && t.inRegion && mine t.uid && t.region.any (fun e => e.2.open_ && decide (e.2.stores ≠ [])))) &&
  !s.loads.any (fun l => mine l.team && decide (l.seq < before)) &&
    !s.pendingTags.any (fun t => mine t.team && decide (t.seq < before)) &&
    !s.peerTags.any (fun t => mine t.team && decide (t.seq < before)) &&
    !s.xfers.any (fun x => x.ctx == c && !x.done && decide (x.seq < before))

/-- TLBINV: a release at package scope, the removal, then the wait for accesses that used what was removed. -/
def execTlbinv (a b : Code) (s : State) : Host.Outcome State Fault Refusal :=
  issue { whole := true } { reads := [(a, 2), (b, 1)], writes := [] }
    (fun t _ => okCond (sbaseOk t true a && skOk t false b && (t.leader.isNone || decide ((t.lead32 b).toNat ≤ 2))))
    (fun s =>
      match s.cur.leader with
      | none => .done s
      | some l =>
        match s.cur.park with
        | .drain n => if s.ctxAccessesDone s.curCtxNum n then .done s.unpark else .stay s
        | _ =>
          s.released 4 (fun s =>
            let s := (s.dropTlb s.curCtxNum (s.cur.opnd64 l a) (s.cur.opnd32 l b).toNat).rewatch s.curCtxNum
            let n := s.nextSeq
            let s := s.takeSeq
            if s.ctxAccessesDone s.curCtxNum n then .done s else s.parkOn (.drain n))) s

end Sys2Proof.Machine
end

