-- ==== Sys2Proof/Machine/Mem.lean ====
section
/-! DEFINITION. Loads, stores, acquire and release accesses, scalar loads, prefetch, cache maintenance and fences
(R143–R150). -/

namespace Sys2Proof.Machine

/-! ## Loads (R143, R145, R277) -/

/-- What a load instruction is: bytes per lane, extension, whether it is an acquire, whether it keeps a region tag. -/
structure LoadForm where
  size : Nat
  ext : Ext := .none
  acquire : Bool := false
  tagged : Bool := false
deriving DecidableEq, Repr

/-- The registers that a load of a size fills. -/
def LoadForm.count (f : LoadForm) : Nat := (f.size + 3) / 4

/-- The accesses of the contributing lanes, of the leader alone for a scalar destination (R143). -/
def Team.loadAccesses (t : Team) (size : Nat) (d a b : Code) : List (Nat × DWord × Nat) :=
  (t.evalLanes d).map (fun l => (l, t.addr l a b, size))

/-- Peer lines that region loads of some sites need and the proxy does not hold (R265, R425). -/
def State.askRegion (s : State) (rs : List (Nat × Site)) : State × List Nat :=
  rs.foldl (fun r x =>
    match x.2 with
    | .at_ (.peer d false) loc =>
      if (r.1.proxyLine (lineOf loc)).isSome then r
      else
        let tag := r.1.fab.nextTag
        (r.1.request d r.1.curCtxNum 0x00 0 (locOff loc / 128 * 128) (lineOf loc) true [] {}, tag :: r.2)
    | _ => r) (s, [])

/-- The lanes that go on with the instruction when it stays for answers. -/
def Res.forLanes (lanes : Mask) (r : Res) : Res :=
  match r with
  | .stay s => .stay (s.setCur { s.cur with service := s.cur.service.map (fun v => { v with lanes := lanes }) })
  | r => r

/-- Satisfies the loads with a place in program order at once: an acquire's reads (R145). -/
def State.satisfy (seq : Nat) : List Load → State → State
  | [], s => s
  | l :: ls, s =>
    State.satisfy seq ls (if l.seq = seq && l.value.isNone && !l.space.remote && s.loads.contains l then s.settleLoad l else s)

/-- Whether a read that takes its value at once can be made of a place: another device answers for itself, no host holds bytes of
the line back, and the core reads there (R145, R270, R336, R388). -/
def State.servesNow (s : State) (space : Space) (loc size : Nat) : Bool :=
  space.remote || (!s.hostOwned (lineOf loc) && s.readsHere s.curCore s.cur.uid space loc size)

/-- The lanes whose sites a read cannot be made at yet, with their places. -/
def State.lacking (s : State) (size : Nat) (js : List (Nat × Site)) : List (Nat × Space × Nat) :=
  js.filterMap (fun x =>
    match x.2 with
    | .at_ space loc => if s.servesNow space loc size then none else some (x.1, space, loc)
    | _ => none)

/-- A scalar load in a region: a fault aborts every lane (R266, R271). -/
def State.runRegionScalar (s : State) (f : LoadForm) (d : Code) (inWindow : Bool) (js : List (Nat × Site)) : Res :=
  let s := js.foldl (fun s x =>
    match x.2 with
    | .at_ space loc => s.regionScalar space loc f.size d f.count inWindow
    | _ => s) s
  match s.takeSeq.afterSites Need.load true js with
  | .trap s cs _ => .trap s (cs.map (fun c => (none, c.2))) 0
  | r => r

/-- The loads of some lanes' sites (R139–R143, R145, R266): an acquire and a region's load take their values at once, the others when
their data returns. `window` are the lanes that read through the lane window. -/
def State.takeLoads (f : LoadForm) (scalar : Bool) (lanes window : Mask) (d : Code) (js : List (Nat × Site)) (s : State) : Res :=
  if s.cur.inRegion then
    let q := s.askRegion js
    if q.2 ≠ [] then (Res.withAsks q.2 scalar (.done q.1)).forLanes lanes
    else if scalar then q.1.runRegionScalar f d (decide (window ≠ 0)) js
    else (State.regionLoads f.size f.ext d f.count f.tagged window js q.1).takeSeq.afterSites Need.load false js
  else
    let seq := s.nextSeq
    let s := State.addLoads (fun _ => .plain) f.size f.ext (fun l => destsOf l d f.count) js s
    let q := State.askLoads seq (if f.acquire then s.strongSize f.size else 0) s.loads s
    let s := if f.acquire then State.satisfy seq q.1.loads q.1 else q.1
    let places := js.filterMap (fun x =>
      match x.2 with
      | .at_ _ loc => some loc
      | _ => none)
    let s := if f.acquire then places.foldl (fun s loc => s.noteStrong s.cur.uid loc (s.strongSize f.size)) s else s
    Res.withAsks q.2 scalar (s.takeSeq.afterSites Need.load scalar js)

/-- The body of a load. Where its value is taken at once, lanes whose line the core does not hold ask for it and execute when it has
come, those that fault after them (R145, R270, R340). -/
def State.runLoad (f : LoadForm) (scalar : Bool) (acc : List (Nat × DWord × Nat)) (d : Code) (s : State) : Res :=
  if acc = [] then .done s
  else
    let r := State.sites Need.load acc s
    let dst := s.destStores (acc.map (fun x => x.1)) d f.count
    let w := State.sites Need.store dst r.1
    let js := joinSites r.2 w.2
    let s := w.1
    let places := placesOf acc js
    let window := maskOf ((acc.filter (fun x => inLaneWindow x.2.1)).map (fun x => x.1))
    let lack := if f.acquire || s.cur.inRegion then s.lacking f.size js else []
    if s.mustWait .read places || s.pathShort (siteLocs w.2) then s.parkFor places
    else (s.farCheck (lanePlaces dst w.2)).getD <|
      if lack = [] then
      s.unpark.takeLoads f scalar (if scalar then BitVec.allOnes 1024 else maskOf (acc.map (fun x => x.1))) window d js
    else
      let s := lack.foldl (fun s x => s.askRead s.curCore x.2.1 x.2.2) s
      let now := js.filter (fun x => x.2.ok && !lack.any (fun y => y.1 == x.1))
      if now = [] then s.parkOn .access
      else
        let rest := maskOf (acc.map (fun x => x.1)) &&& ~~~ maskOf (now.map (fun x => x.1))
        match s.unpark.takeLoads f scalar (maskOf (acc.map (fun x => x.1))) window d now with
        | .done s => if s.cur.mask &&& rest = 0 then .done s else (s.setCur { s.cur with only := some rest }).parkOn .access
        | .stay s => if s.cur.inRegion then .stay s else (Res.stay s).forLanes rest
        | r => r

/-- The conditions of a load: operand codes, then stage 1 of its accesses and of the stores of bound destinations. -/
def loadConds (f : LoadForm) (ok : Bool) (d a b : Code) (t : Team) (s : State) : List Cond :=
  if !ok then [(none, tOPERAND)]
  else
    s.stage1Conds t Need.load (t.loadAccesses f.size d a b) ++
      s.stage1Conds t Need.store (s.destStores (t.evalLanes d) d f.count)

/-- The registers that a load reads and writes. -/
def loadUses (n : Nat) (d a b : Code) : Uses := { reads := [(a, 2), (b, 1)], writes := [(d, n)] }

/-- The issue of a load. -/
def issueLoad (f : LoadForm) (dOk : Team → Bool) (d a b : Code) (s : State) : Host.Outcome State Fault Refusal :=
  issue { cls := 1, whole := isS d } (loadUses f.count d a b)
    (fun t s => loadConds f (dOk t && baseOk t a && srcOk t false b) d a b t s)
    (fun s => s.runLoad f false (s.cur.loadAccesses f.size d a b) d) s

/-- Whether LDB and LDH extend the sign (R143): TYPE i32, i64, i16x2 or i8x4. -/
def Team.signExtends (t : Team) : Ext := if typeSigned t.type then .sign else .zero

/-- LDB (R143). -/
def execLdb (d a b : Code) (s : State) : Host.Outcome State Fault Refusal :=
  issueLoad { size := 1, ext := s.cur.signExtends } (fun t => dstOk t false d) d a b s

/-- LDH (R143). -/
def execLdh (d a b : Code) (s : State) : Host.Outcome State Fault Refusal :=
  issueLoad { size := 2, ext := s.cur.signExtends } (fun t => dstOk t false d) d a b s

/-- LDW (R143). -/
def execLdw (d a b : Code) (s : State) : Host.Outcome State Fault Refusal :=
  issueLoad { size := 4 } (fun t => dstOk t false d) d a b s

/-- LDD (R143). -/
def execLdd (d a b : Code) (s : State) : Host.Outcome State Fault Refusal :=
  issueLoad { size := 8 } (fun t => dstOk t true d) d a b s

/-- LDQ (R143). -/
def execLdq (d a b : Code) (s : State) : Host.Outcome State Fault Refusal :=
  issueLoad { size := 16 } (fun t => quadOk t false d) d a b s

/-- LDWA (R145). -/
def execLdwa (d a b : Code) (s : State) : Host.Outcome State Fault Refusal :=
  issueLoad { size := 4, acquire := true } (fun t => dstOk t false d) d a b s

/-- LDDA (R145). -/
def execLdda (d a b : Code) (s : State) : Host.Outcome State Fault Refusal :=
  issueLoad { size := 8, acquire := true } (fun t => dstOk t true d) d a b s

/-- The issue of a symbolic load: ILLEGAL with no region open (R277). -/
def issueSymbolic (size : Nat) (d a b : Code) (s : State) : Host.Outcome State Fault Refusal :=
  let f : LoadForm := { size := size, tagged := true }
  issue { cls := 1, tags := 0 } (loadUses f.count d a b)
    (fun t s => whenCond (!t.inRegion) tILLEGAL ++
      loadConds f (vOk t (decide (size = 8)) d && baseOk t a && srcOk t false b) d a b t s)
    (fun s => s.runLoad f false (s.cur.loadAccesses size d a b) d) s

/-- RLDW (R277). -/
def execRldw (d a b : Code) (s : State) : Host.Outcome State Fault Refusal := issueSymbolic 4 d a b s

/-- RLDD (R277). -/
def execRldd (d a b : Code) (s : State) : Host.Outcome State Fault Refusal := issueSymbolic 8 d a b s

/-! ## Scalar loads (R147) -/

/-- The address of a scalar load. -/
def Team.scalarAddr (t : Team) (a b : Code) : DWord := t.opnd64 0 a + t.offset 0 b

/-- The issue of a scalar load: one access for the team, whatever the guard and the mask; in the lane window it reaches
lane 0's slice. A stage-2 fault stops the whole access with FAULTMASK zero. -/
def issueScalarLoad (size : Nat) (d a b : Code) (s : State) : Host.Outcome State Fault Refusal :=
  let f : LoadForm := { size := size }
  issue { cls := 1, whole := true, lanes := .team } (loadUses f.count d a b)
    (fun t s =>
      if szOk (decide (size = 8)) d && sbaseOk t true a && (skOk t true b || decide (b.toNat = 126)) then
        (s.stage1Conds t Need.load [(0, t.scalarAddr a b, size)]).map (fun c => (none, c.2))
      else [(none, tOPERAND)])
    (fun s =>
      if s.cur.only = some 0 then .done s
      else s.runLoad f true [(0, s.cur.scalarAddr a b, size)] d) s

/-- LDS (R147). -/
def execLds (d a b : Code) (s : State) : Host.Outcome State Fault Refusal := issueScalarLoad 4 d a b s

/-- LDSD (R147). -/
def execLdsd (d a b : Code) (s : State) : Host.Outcome State Fault Refusal := issueScalarLoad 8 d a b s

/-! ## Stores (R144, R146) -/

/-- What a store instruction is. -/
structure StoreForm where
  size : Nat
  release : Bool := false
deriving DecidableEq, Repr

/-- The registers that a store's data stands in. -/
def StoreForm.count (f : StoreForm) : Nat := (f.size + 3) / 4

/-- A lane's data: the low bytes of d, or d and the registers after it (R144). -/
def Team.storeData (t : Team) (size l : Nat) (d : Code) : Nat :=
  (if size ≤ 4 then (t.opnd32 l d).toNat else t.opndRun l d (size / 4)) % 256 ^ size

/-- The stores of the contributing lanes. -/
def Team.laneStores (t : Team) (f : StoreForm) (d a b : Code) : List LaneStore :=
  t.contribLanes.map (fun l => ⟨l, t.addr l a b, f.size, t.storeData f.size l d, none, f.release, none⟩)

/-- Their accesses. -/
def storeAccesses (xs : List LaneStore) : List (Nat × DWord × Nat) := xs.map (fun x => (x.lane, x.va, x.size))

/-- A region lane's store is buffered (R268): a tagged register of the store's own size keeps its tag. -/
def State.regionStore (d : Code) (s : State) (x : LaneStore × Site) : State :=
  match x.2 with
  | .at_ space loc =>
    if !regionPlace s.cur space loc then s.setCur (s.cur.abortLanes (laneBit x.1.lane) 8)
    else
      let tag := (if isV d then s.cur.tagOf x.1.lane d.toNat else none).filter (fun g =>
        ((s.cur.rlane? x.1.lane).bind (fun r => r.inputs[g.input]?)).map RInput.size == some x.1.size)
      s.setCur (s.cur.bufferStore x.1.lane ⟨space, loc, x.1.size, BitVec.ofNat 128 x.1.value, tag, none, s.cur.setb,
        s.curCtx.mixchk.getLsbD 0⟩)
  | _ => s

/-- The tags of a store's data that it does not keep are concretised, as are those of its address (R266, R268). -/
def State.concretiseStore (f : StoreForm) (d a b : Code) (s : State) : State :=
  if !s.cur.inRegion then s
  else
    let keep (t : Team) (l : Nat) : Bool :=
      isV d && !f.release && (f.size == 4 || f.size == 8) &&
        ((t.tagOf l d.toNat).bind (fun g => (t.rlane? l).bind (fun r => r.inputs[g.input]?))).map RInput.size == some f.size
    s.setCur (s.cur.contribLanes.foldl (fun t l =>
      t.concretiseLane l (vRegsOf ([(a, 2), (b, 1)] ++ (if keep t l then [] else [(d, f.count)])))) s.cur)

/-- Stores that the store path takes in, in order, while its lines number at most 64 (R192), and those that it does not. Stores of
the device are reached through it only behind earlier ones. -/
def fitPath (lines : List Nat) : List (LaneStore × Site) → List (LaneStore × Site) × List (LaneStore × Site)
  | [] => ([], [])
  | x :: xs =>
    let line : Option Nat := match x.2 with
      | .at_ .store _ => none
      | .at_ .opBuf _ => none
      | .at_ _ loc => some (lineOf loc)
      | _ => none
    let lines' := (lines ++ line.toList).eraseDups
    if Config.storePath < lines'.length then ([], x :: xs)
    else
      let r := fitPath lines' xs
      (x :: r.1, r.2)

/-- The body of a store or reduction (R140, R144, R154, R192). A store that needs more entries than the path has free waits, lane by
lane. -/
def State.runStores (release : Bool) (need : Need) (d : Code) (xs : List LaneStore) (s : State) : Res :=
  if xs = [] then .done s
  else
    let r := State.sites need (storeAccesses xs) s
    let s := r.1
    let pairs := xs.zip (r.2.map (fun x => x.2))
    if s.cur.inRegion then (pairs.foldl (State.regionStore d) s).afterSites need false r.2
    else if Config.storePath ≤ (s.pathLines s.curCore).length || s.mustWait .write (placesOf (storeAccesses xs) r.2) then
      s.parkFor (placesOf (storeAccesses xs) r.2)
    else (s.farCheck (lanePlaces (storeAccesses xs) r.2)).getD <|
      let s := s.unpark
      let seq := s.nextSeq
      let fit := fitPath (s.pathLines s.curCore) (s.storeOrder pairs)
      let s := (State.enterStores seq release fit.1 s.takeSeq).draw
      let rest := fit.2 ++ fit.1.filter (fun x => !x.2.ok)
      if fit.2 = [] then s.afterSites need false r.2
      else (s.setCur { s.cur with only := some (maskOf (rest.map (fun x => x.1.lane))) }).parkOn .access

/-- The issue of a store. -/
def issueStore (f : StoreForm) (dOk : Team → Bool) (d a b : Code) (s : State) : Host.Outcome State Fault Refusal :=
  issue { cls := 2, tags := 1 } { reads := [(d, f.count), (a, 2), (b, 1)], writes := [] }
    (fun t s =>
      if dOk t && baseOk t a && srcOk t false b then
        s.stage1Conds t Need.store (storeAccesses (t.laneStores f d a b))
      else [(none, tOPERAND)])
    (fun s =>
      let s := s.concretiseStore f d a b
      s.runStores f.release Need.store d (s.cur.laneStores f d a b)) s

/-- Legal data of STD and STDL: an even v, an even s, k0, k2, z (R144). -/
def pairDataOk (t : Team) (d : Code) : Bool := vRun t 2 2 d || sRun 2 2 d || kRun t 2 2 d || isZ d

/-- STB (R144). -/
def execStb (d a b : Code) (s : State) : Host.Outcome State Fault Refusal :=
  issueStore { size := 1 } (fun t => srcOk t false d) d a b s

/-- STH (R144). -/
def execSth (d a b : Code) (s : State) : Host.Outcome State Fault Refusal :=
  issueStore { size := 2 } (fun t => srcOk t false d) d a b s

/-- STW (R144). -/
def execStw (d a b : Code) (s : State) : Host.Outcome State Fault Refusal :=
  issueStore { size := 4 } (fun t => srcOk t false d) d a b s

/-- STD (R144). -/
def execStd (d a b : Code) (s : State) : Host.Outcome State Fault Refusal :=
  issueStore { size := 8 } (fun t => pairDataOk t d) d a b s

/-- STQ (R144). -/
def execStq (d a b : Code) (s : State) : Host.Outcome State Fault Refusal :=
  issueStore { size := 16 } (fun t => quadOk t true d) d a b s

/-- STWL (R146). -/
def execStwl (d a b : Code) (s : State) : Host.Outcome State Fault Refusal :=
  issueStore { size := 4, release := true } (fun t => srcOk t false d) d a b s

/-- STDL (R146). -/
def execStdl (d a b : Code) (s : State) : Host.Outcome State Fault Refusal :=
  issueStore { size := 8, release := true } (fun t => pairDataOk t d) d a b s

/-! ## PFT (R148) -/

/-- A line prefetched into its home slice only. -/
def State.intoHome (s : State) (line : Nat) : State := if s.l2Full line then s.l2Room line else s.l2Touch line

/-- What a prefetch asks for one line: 0 into the L1 shared, 1 exclusive, 2 into the home slice only; of a peer's memory the line
from its home. Memory-side lines are not prefetched. -/
def State.prefetch (s : State) (hint : Nat) (space : Space) (loc : Nat) : State :=
  let core := s.curCore
  let line := lineOf loc
  match space with
  | .software => if hint = 2 then s.intoHome line else s.fetchManaged core loc
  | .peer d false =>
    let op := if hint = 1 then 0x01 else 0x00
    if (s.proxyLine line).any (fun p => hint ≠ 1 || p.st != .s) || s.fab.txns.any (fun x => x.op == op && x.line == line) then s
    else s.request d s.curCtxNum op 0 (locOff loc / 128 * 128) line true [] {}
  | .peer _ true => s
  | _ =>
    if !s.coherent space loc then s
    else
      match hint with
      | 0 => s.askShared core line
      | 1 => if s.owns core line then s else s.askExclusive core line
      | _ => s.intoHome line

/-- PFT: a request for each contributing lane's line; one that would fault, or that names the aperture, is dropped. The page's
A and D bits are not touched (log entry 65). -/
def State.runPft (hint : Nat) (a b : Code) (s : State) : Res :=
  .done ((s.cur.contribLanes.map (fun l => s.cur.addr l a b)).foldl (fun s va =>
    if inAperture va then s
    else
      match (s.translate s.curCtxNum va (if hint = 1 then Need.store else Need.load)).2 with
      | .at_ space loc => s.prefetch hint space loc
      | _ => s) s)

/-- PFT: changes no program-visible state and raises no trap for an address. -/
def execPft (d a b : Code) (s : State) : Host.Outcome State Fault Refusal :=
  issue {} { reads := [(a, 2), (b, 1)], writes := [] }
    (fun t _ => okCond (decide (d.toNat ≤ 2) && baseOk t a && srcOk t false b)) (State.runPft d.toNat a b) s

/-! ## Cache maintenance (R149) -/

/-- The permission that a maintenance instruction needs: CINV needs W, the others R. -/
def cacheNeed (inv : Bool) : Need := if inv then Need.store else Need.load

/-- The stage-1 condition of one lane: no alignment, a reserved or disallowed aperture address. -/
def State.cacheCond (s : State) (t : Team) (l : Nat) (va : DWord) : List Cond :=
  match s.stage1 t l va 1 (cacheNeed false) with
  | .error x => [(some l, x)]
  | .ok _ => []

/-- A software-managed copy of a line, written home and kept clean (R149). -/
def State.cleanManaged (s : State) (core line : Nat) : State :=
  match s.managedCopy core line with
  | none => s
  | some k =>
    let s := if k.dirty = [] then s else (s.recallCopies (line * 128) 128).writeMem k.dirty
    { s with coh := { s.coh with copies := s.coh.copies.map (fun x =>
        if x = k then { k with bytes := k.dirty.foldl (fun b c => aput b c.1 c.2) k.bytes, dirty := [] } else x) } }

/-- The bytes of a software-managed line dropped with the copy (CINV, R149). -/
def State.dropManaged (s : State) (core line : Nat) : State :=
  { s with
    coh := { s.coh with copies := s.coh.copies.filter (fun k => !(k.managed && k.agent == core && k.line == line)) } }

/-- An L1 line written home and kept clean (R149). The bytes are the coherent value already (log entry 6). -/
def State.cleanLine (s : State) (core line : Nat) : State :=
  match s.copyAt core line with
  | none => s
  | some k =>
    if k.st == .m then s.setCopy core line .e 0
    else if k.st == .o then
      let e := s.dirEntry line
      (s.setCopy core line .s (s.grantStamp core)).setDir line
        ({ e with st := .ds, owner := 0, stamp := s.nextStamp e (s.grantStamp core) }.addSharer core)
    else s

/-- An L1 line written home and invalidated (R149): read sets lose it, a bobbin fetches it again (R170, R269). -/
def State.flushLine (s : State) (core line : Nat) : State :=
  let s := (s.loseLine core line).giveUp core line
  if s.pinned core line then s.askShared core line else s

/-- Whether writes of the issuing team to a line are still on their way to the L1 or the home. -/
def State.writesOnWay (s : State) (line : Nat) : Bool :=
  let u := s.cur.uid
  let core := s.curCore
  s.path.any (fun e => e.core == core && lineOf e.loc == line && e.tags.any (fun g => g.team == u)) ||
    s.coh.txns.any (fun t => t.agent == core && t.line == line) ||
    s.fab.txns.any (fun x => x.line == line && x.write.any (fun g => g.team == u))

/-- One line acted on: 0 CFLUSH, 1 CCLEAN, 2 CINV; after the copies that hold it (R209). -/
def State.cacheLine (s : State) (kind : Nat) (space : Space) (loc : Nat) : State :=
  let core := s.curCore
  let line := lineOf loc
  let s := State.forceLoads s.cur.uid (line * 128) 128 s.loads (s.recallCopies (line * 128) 128)
  let coherent (s : State) : State := if kind = 1 then s.cleanLine core line else s.flushLine core line
  match space with
  | .software =>
    if kind = 1 then s.cleanManaged core line
    else ((if kind = 0 then s.flushManaged core line else s.dropManaged core line).loseLine core line).refetchBound core line
  | .hardware => coherent s
  | .handover => coherent s
  | .peer _ false => if kind = 1 then s else s.evictProxy line
  | _ => s

/-- The body of a maintenance instruction: lanes that name one line act on it once, after the team's own writes to it are at their
place. Only translated addresses and lane backing are acted on, lane backing as hardware-coherent memory is. -/
def State.runCache (kind : Nat) (a b : Code) (s : State) : Res :=
  let need := cacheNeed (kind = 2)
  let acc := s.cur.contribLanes.map (fun l => (l, s.cur.addr l a b, 1))
  let acc := acc.filter (fun x =>
    match s.preOf s.cur (cacheNeed false) x.1 x.2.1 1 with
    | .virtual _ => true
    | .direct _ _ => false)
  let backing := maskOf ((acc.filter (fun x => inAperture x.2.1)).map (fun x => x.1))
  let r := State.sites need acc s
  let s := r.1
  let lines := (r.2.filterMap (fun x =>
    match x.2 with
    | .at_ space loc => some (backing.getLsbD x.1, space, lineOf loc * 128)
    | _ => none)).eraseDups
  let places := (placesOf acc r.2).map (fun p => (p.1 / 128 * 128, p.2.1 / 128 * 128, 128))
  if s.mustWait .write places || lines.any (fun x => s.writesOnWay (lineOf x.2.2)) then s.parkFor places
  else (lines.foldl (fun s x => s.cacheLine (if x.1 && kind = 2 then 0 else kind) x.2.1 x.2.2) s.unpark).takeSeq.afterSites need false r.2

/-- The issue of a maintenance instruction. -/
def issueCache (kind : Nat) (a b : Code) (s : State) : Host.Outcome State Fault Refusal :=
  issue { cls := 2, forbidden := 1 } { reads := [(a, 2), (b, 1)], writes := [] }
    (fun t s =>
      if baseOk t a && srcOk t false b then t.contribLanes.flatMap (fun l => s.cacheCond t l (t.addr l a b))
      else [(none, tOPERAND)])
    (State.runCache kind a b) s

/-- CFLUSH (R149). -/
def execCflush (a b : Code) (s : State) : Host.Outcome State Fault Refusal := issueCache 0 a b s

/-- CCLEAN (R149). -/
def execCclean (a b : Code) (s : State) : Host.Outcome State Fault Refusal := issueCache 1 a b s

/-- CINV (R149): in hardware-coherent and handover memory as CFLUSH. -/
def execCinv (a b : Code) (s : State) : Host.Outcome State Fault Refusal := issueCache 2 a b s

/-! ## Fences (R150) -/

/-- FENCEA: every earlier read is satisfied before anything later. -/
def execFencea (s : State) : Host.Outcome State Fault Refusal :=
  issue { whole := true } Uses.none (fun _ _ => [])
    (fun s => if s.readsDone s.cur.uid s.nextSeq then .done s.unpark else s.parkOn .access) s

/-- FENCER: later writes are held until every earlier access is complete at SCOPE, beside what earlier fences hold them for. -/
def execFencer (s : State) : Host.Outcome State Fault Refusal :=
  issue { whole := true } Uses.none (fun _ _ => [])
    (fun s =>
      let u := s.cur.uid
      let open_ := s.cur.fencer.filter (fun h => !s.accessesDone u h.1 h.2)
      if s.accessesDone u s.nextSeq s.cur.scope then .done (s.setCur { s.cur with fencer := open_ })
      else .done ((s.setCur { s.cur with fencer := open_ ++ [(s.nextSeq, s.cur.scope)] }).takeSeq)) s

/-- FENCES: everything earlier is complete at SCOPE before anything later. -/
def execFences (s : State) : Host.Outcome State Fault Refusal :=
  issue { whole := true } Uses.none (fun _ _ => []) (fun s => s.released s.cur.scope (fun s => .done s)) s

end Sys2Proof.Machine
end

