-- ==== Sys2Proof/Machine/Atomic.lean ====
section
/-! DEFINITION. Atomics and reductions at memory (R151–R155). -/

namespace Sys2Proof.Machine

/-- The TYPEs of an operation (R152): addition and the extrema have no packed integer form. -/
def atTypeOk (op : AtOp) (ty : Nat) : Bool :=
  match op with
  | .add => decide (ty < 8)
  | .min => decide (ty < 8)
  | .max => decide (ty < 8)
  | _ => true

/-- Whether an earlier FENCER still holds the team's writes (R150). -/
def State.fenceHolds (s : State) : Bool :=
  s.cur.fencer.any (fun h => !s.accessesDone s.cur.uid h.1 h.2)

/-- Sites in the order in which conflicting lanes act: hardware chooses (R153, log entry 8). -/
def State.siteOrder (s : State) (size : Nat) (rs : List (Nat × Site)) : List (Nat × Site) :=
  let places := rs.filterMap (fun x =>
    match x.2 with
    | .at_ _ loc => some (loc, size)
    | _ => none)
  if anyOverlap places then pickOrder s.fresh rs.length rs else rs

/-- The accesses of an atomic: the address without offset (R151). -/
def Team.atAccesses (t : Team) (a : Code) : List (Nat × DWord × Nat) :=
  t.contribLanes.map (fun l => (l, t.opnd64 l a, if wide t.type then 8 else 4))

/-- The body of an atomic (R153). -/
def State.runAtomic (op : AtOp) (d a b : Code) (s : State) : Res :=
  let t := s.cur
  let wd := wide t.type
  let size := if wd then 8 else 4
  let acc := t.atAccesses a
  if acc = [] then .done s
  else
    let r := State.sites Need.rmw acc s
    let dst := s.destStores t.contribLanes d (regs wd)
    let w := State.sites Need.store dst r.1
    let js := joinSites r.2 w.2
    let s := w.1
    if s.fenceHolds || s.mustWait .rmw (placesOf acc js) || s.pathShort (siteLocs w.2) then s.parkFor (placesOf acc js)
    else (s.farCheck (lanePlaces acc js ++ lanePlaces dst w.2)).getD <|
    let s := s.unpark
    let seq := s.nextSeq
    let kind (l : Nat) : LoadKind :=
      .atomic op t.type (BitVec.ofNat 64 (t.opndN wd l b)) (BitVec.ofNat 64 (t.opndN wd l d))
    let s := State.addLoads kind size .none (fun l => destsOf l d (regs wd)) (s.siteOrder size js) s
    let q := State.askLoads seq 0 s.loads s
    Res.withAsks q.2 false (q.1.takeSeq.draw.afterSites Need.rmw false js)

/-- The issue of an atomic: d is a v code or z; ATCAS reads it (R151). -/
def issueAtomic (op : AtOp) (d a b : Code) (s : State) : Host.Outcome State Fault Refusal :=
  let n := regs (wide s.cur.type)
  issue { cls := 1, forbidden := 1 }
    { reads := [(a, 2), (b, n)] ++ (if op = .cas then [(d, n)] else []), writes := [(d, n)] }
    (fun t s =>
      if atTypeOk op t.type && vzOk t (wide t.type) d && baseOk t a && srcOk t (wide t.type) b then
        s.stage1Conds t Need.rmw (t.atAccesses a) ++
          s.stage1Conds t Need.store (s.destStores t.contribLanes d (regs (wide t.type)))
      else [(none, tOPERAND)])
    (State.runAtomic op d a b) s

/-- ATADD (R152). -/
def execAtadd (d a b : Code) (s : State) : Host.Outcome State Fault Refusal := issueAtomic .add d a b s
/-- ATAND (R152). -/
def execAtand (d a b : Code) (s : State) : Host.Outcome State Fault Refusal := issueAtomic .and d a b s
/-- ATOR (R152). -/
def execAtor (d a b : Code) (s : State) : Host.Outcome State Fault Refusal := issueAtomic .or d a b s
/-- ATXOR (R152). -/
def execAtxor (d a b : Code) (s : State) : Host.Outcome State Fault Refusal := issueAtomic .xor d a b s
/-- ATMIN (R54, R152). -/
def execAtmin (d a b : Code) (s : State) : Host.Outcome State Fault Refusal := issueAtomic .min d a b s
/-- ATMAX (R54, R152). -/
def execAtmax (d a b : Code) (s : State) : Host.Outcome State Fault Refusal := issueAtomic .max d a b s
/-- ATXCH (R152). -/
def execAtxch (d a b : Code) (s : State) : Host.Outcome State Fault Refusal := issueAtomic .xch d a b s
/-- ATCAS (R152): d is the new value, then receives the old one. -/
def execAtcas (d a b : Code) (s : State) : Host.Outcome State Fault Refusal := issueAtomic .cas d a b s

/-! ## Reductions at memory (R154) -/

/-- The lanes' reductions. -/
def Team.laneReductions (t : Team) (op : AtOp) (a b : Code) : List LaneStore :=
  let wd := wide t.type
  let size := if wd then 8 else 4
  t.contribLanes.map (fun l =>
    ⟨l, t.opnd64 l a, size, 0, none, true, some ⟨op, t.type, BitVec.ofNat 64 (t.opndN wd l b), size⟩⟩)

/-- The issue of a reduction at memory. -/
def issueReduction (op : AtOp) (a b : Code) (s : State) : Host.Outcome State Fault Refusal :=
  issue { cls := 2, forbidden := 1 } { reads := [(a, 2), (b, regs (wide s.cur.type))], writes := [] }
    (fun t s =>
      if atTypeOk op t.type && baseOk t a && srcOk t (wide t.type) b then
        s.stage1Conds t Need.red (storeAccesses (t.laneReductions op a b))
      else [(none, tOPERAND)])
    (fun s => s.runStores false Need.red 124 (s.cur.laneReductions op a b)) s

/-- RMADD (R154). -/
def execRmadd (a b : Code) (s : State) : Host.Outcome State Fault Refusal := issueReduction .add a b s
/-- RMAND (R154). -/
def execRmand (a b : Code) (s : State) : Host.Outcome State Fault Refusal := issueReduction .and a b s
/-- RMOR (R154). -/
def execRmor (a b : Code) (s : State) : Host.Outcome State Fault Refusal := issueReduction .or a b s
/-- RMXOR (R154). -/
def execRmxor (a b : Code) (s : State) : Host.Outcome State Fault Refusal := issueReduction .xor a b s
/-- RMMIN (R154). -/
def execRmmin (a b : Code) (s : State) : Host.Outcome State Fault Refusal := issueReduction .min a b s
/-- RMMAX (R154). -/
def execRmmax (a b : Code) (s : State) : Host.Outcome State Fault Refusal := issueReduction .max a b s

end Sys2Proof.Machine
end

