-- ==== Sys2Proof/Machine/Flow.lean ====
section
/-! DEFINITION. Control flow (R114–R126): branches, reconvergence, calls, EXIT, TRAP, BRK, SRET. -/

namespace Sys2Proof.Machine

/-- The target of a transfer: the current clause plus a signed offset (R114). -/
def Team.target (t : Team) (b : Code) : DWord := t.pc + t.offset 0 b

/-- ALIGN for a target that is used (R20, R114). -/
def alignCond (pc : DWord) : List Cond := whenCond (decide (pc.toNat % 4 ≠ 0)) tALIGN

/-- The PC at a clause address. -/
def Team.goTo (t : Team) (pc : DWord) : Team := { t with pc := pc, idx := 0, clause := none, resumed := false }

/-- What all control flow shares: last in its clause, one pass, no guard (R22, R114). -/
def controlSpec (forbidden : Nat) : Spec := { control := true, whole := true, forbidden := forbidden }

/-- BR (R115). -/
def execBr (b : Code) (s : State) : Host.Outcome State Fault Refusal :=
  issue { controlSpec 0 with spindle := true } { reads := [(b, 1)], writes := [] }
    (fun t _ => okCond (skOk t true b) ++ alignCond (t.target b))
    (fun s => .jump (s.setCur (s.cur.goTo (s.cur.target b)))) s

/-- The active lanes whose predicate is true (R116); the guard is ignored. -/
def Team.taken (t : Team) (d : Code) : Mask := t.mask &&& t.predMask d

/-- The active lanes whose predicate is false. -/
def Team.notTaken (t : Team) (d : Code) : Mask := t.mask &&& ~~~ t.predMask d

/-- BRC (R116): divides the mask when its lanes part, the not-taken lanes pending at next. In a region a division
aborts the lanes (R265). The scalars written since MARK count as written by each path (R76, log entry 62). -/
def execBrc (d b : Code) (s : State) : Host.Outcome State Fault Refusal :=
  issue (controlSpec 0) { reads := [(b, 1)], writes := [] }
    (fun t _ => okCond (predOk true d && skOk t true b) ++
      (if t.taken d = 0 then [] else alignCond (t.target b)) ++
      whenCond (decide (t.taken d ≠ 0) && decide (t.notTaken d ≠ 0) && !t.inRegion && !t.stackRoom 1) tSPILLFULL)
    (fun s =>
      let t := s.cur
      if t.taken d = 0 then .jump (s.setCur (t.goTo t.nextPc))
      else if t.notTaken d = 0 then .jump (s.setCur (t.goTo (t.target b)))
      else if t.inRegion then .done (s.setCur (t.abortLanes t.mask 8))
      else .jump (s.setCur { t.goTo (t.target b) with
        mask := t.taken d
        stack := .pending t.nextPc (t.notTaken d) t.s t.written false :: t.stack })) s

/-- BRANY (R116). -/
def execBrany (d b : Code) (s : State) : Host.Outcome State Fault Refusal :=
  issue (controlSpec 0) { reads := [(b, 1)], writes := [] }
    (fun t _ => okCond (predOk true d && skOk t true b) ++ (if t.taken d = 0 then [] else alignCond (t.target b)))
    (fun s => .jump (s.setCur (s.cur.goTo (if s.cur.taken d = 0 then s.cur.nextPc else s.cur.target b)))) s

/-- BRALL (R116). -/
def execBrall (d b : Code) (s : State) : Host.Outcome State Fault Refusal :=
  issue (controlSpec 0) { reads := [(b, 1)], writes := [] }
    (fun t _ => okCond (predOk true d && skOk t true b) ++ (if t.notTaken d = 0 then alignCond (t.target b) else []))
    (fun s => .jump (s.setCur (s.cur.goTo (if s.cur.notTaken d = 0 then s.cur.target b else s.cur.nextPc)))) s

/-- LOOP (R117): the scalar falls by one and the branch is taken while it is not zero. -/
def execLoop (d b : Code) (s : State) : Host.Outcome State Fault Refusal :=
  issue { controlSpec 0 with spindle := true } { reads := [(d, 1), (b, 1)], writes := [(d, 1)] }
    (fun t _ => okCond (isS d && skOk t true b) ++
      (if t.sget (sNum d) - 1 = 0 then [] else alignCond (t.target b)))
    (fun s =>
      let x := s.cur.sget (sNum d) - 1
      let dest := if x = 0 then s.cur.nextPc else s.cur.target b
      .jump (s.setCur ((s.cur.sset (sNum d) x).goTo dest))) s

/-- MARK (R118). -/
def execMark (b : Code) (s : State) : Host.Outcome State Fault Refusal :=
  issue (controlSpec 2) { reads := [(b, 1)], writes := [] }
    (fun t _ => okCond (skOk t true b) ++ alignCond (t.target b) ++ whenCond (!t.stackRoom 1) tSPILLFULL)
    (fun s =>
      let t := s.cur
      .jump (s.setCur { t.goTo t.nextPc with
        stack := .rejoin (t.target b) t.mask t.s t.written [] :: t.stack
        written := 0 })) s

/-- JOIN (R73, R119). -/
def execJoin (s : State) : Host.Outcome State Fault Refusal :=
  issue (controlSpec 2) Uses.none
    (fun t _ => whenCond ((t.join (some t.pathRec)).isNone) tILLEGAL)
    (fun s => .jump (s.setCur ((s.cur.join (some s.cur.pathRec)).getD s.cur))) s

/-- The CALL entry that a call pushes (R77). -/
def Team.callEntry (t : Team) : DivEntry := .call t.nextPc t.mode 0 t.mask t.s t.written []

/-- CALL (R77, R120). -/
def execCall (b : Code) (s : State) : Host.Outcome State Fault Refusal :=
  issue (controlSpec 2) { reads := [(b, 1)], writes := [] }
    (fun t _ => okCond (skOk t true b) ++ alignCond (t.target b) ++ whenCond (!t.stackRoom 1) tSPILLFULL)
    (fun s =>
      let t := s.cur
      .jump (s.setCur { t.goTo (t.target b) with stack := t.callEntry :: t.stack, written := 0 })) s

/-- The groups of equal targets, in ascending order of their lowest lanes (R78). -/
def Team.callGroups (t : Team) (a : Code) : List (DWord × Mask) :=
  (lanesOf t.size t.mask).foldl (fun gs l =>
    let x := t.opnd64 l a
    if gs.any (fun g => g.1 == x) then gs.map (fun g => if g.1 == x then (g.1, g.2 ||| laneBit l) else g)
    else gs ++ [(x, laneBit l)]) []

/-- CALLI (R78, R121): one CALL entry, one PENDING entry for each group but the lowest lane's. -/
def execCalli (a : Code) (s : State) : Host.Outcome State Fault Refusal :=
  issue { controlSpec 2 with lanes := .active } { reads := [(a, 2)], writes := [] }
    (fun t _ =>
      let gs := t.callGroups a
      okCond (vRun t 2 2 a) ++ gs.flatMap (fun g => alignCond g.1) ++
        whenCond (!t.stackRoom (gs.length)) tSPILLFULL)
    (fun s =>
      let t := s.cur
      match t.callGroups a with
      | [] => .jump (s.setCur (t.goTo t.nextPc))
      | g :: gs =>
        let pend := gs.map (fun x => DivEntry.pending x.1 x.2 t.s 0 false)
        .jump (s.setCur { t.goTo g.1 with
          mask := g.2
          stack := pend ++ t.callEntry :: t.stack
          written := 0 })) s

/-- RET (R77, R122). -/
def execRet (s : State) : Host.Outcome State Fault Refusal :=
  issue (controlSpec 2) Uses.none
    (fun t _ => whenCond (t.ret.isNone) tILLEGAL)
    (fun s => .jump (s.setCur (s.cur.ret.getD s.cur))) s

/-- A lane that exits takes no binding from a load still on its way (R123, R163). -/
def State.cutBinds (s : State) (team : Nat) (lanes : Mask) : State :=
  { s with loads := s.loads.map (fun (l : Load) =>
      if l.team == team && lanes.getLsbD l.lane then
        match l.kind with
        | .bind _ _ _ _ => ({ l with kind := .token } : Load)
        | _ => l
      else l) }

/-- EXIT (R74, R123); a spindle program ends when its work is complete (R201). -/
def execExit (s : State) : Host.Outcome State Fault Refusal :=
  issue { controlSpec 2 with spindle := true } Uses.none (fun _ _ => [])
    (fun s =>
      match s.issuer with
      | .team => .jump ((s.cutBinds s.cur.uid s.cur.mask).setCur s.cur.exitLanes)
      | .spindle _ => .jump (s.setCur { s.cur with ending := true, clause := none })) s

/-- A software trap (R124, R125): FAULTPC names next, index 0. In a region it is a trap condition (R271). -/
def State.softTrap (s : State) (x : Trap) : Res :=
  if s.cur.inRegion then .trap s [(none, x)] 0
  else .jump (s.takeTrap x 0 (faultPcOf s.cur.nextPc 0))

/-- TRAP (R124): the argument is b in the lowest active lane. -/
def execTrap (b : Code) (s : State) : Host.Outcome State Fault Refusal :=
  issue { controlSpec 2 with lanes := .lowest } { reads := [(b, 1)], writes := [] }
    (fun t _ => okCond (srcOk t false b))
    (fun s => s.softTrap (tTRAPI (s.cur.opnd32 ((lowestLane s.cur.mask).getD 0) b))) s

/-- BRK (R124). -/
def execBrk (s : State) : Host.Outcome State Fault Refusal :=
  issue (controlSpec 0) Uses.none (fun _ _ => []) (fun s => s.softTrap (tBRK 0)) s

/-- SRET (R81, R126): an observation point. -/
def execSret (s : State) : Host.Outcome State Fault Refusal :=
  issue (controlSpec 0) Uses.none
    (fun t _ => whenCond (!t.hlevel) tILLEGAL)
    (fun s =>
      if s.obsWaits s.cur then .stay (s.askUnseen s.cur)
      else .jump ((s.setCur s.cur.returnTrap).observe)) s

end Sys2Proof.Machine
end

