-- ==== Sys2Proof/Machine/Bind.lean ====
section
/-! DEFINITION. Bound registers: binding, bobbins and their spilling, waiting, and atomics through a binding
(R156–R178). -/

namespace Sys2Proof.Machine

/-! ## Bobbins (R170, R171) -/

/-- A bobbin: team, register, line, whether it is spilled, since when its line has not changed, and since when it is spilled. -/
structure Bobbin where
  team : Nat
  reg : Nat
  line : Nat
  spilled : Bool
  since : Nat
  spilledAt : Nat
  pinned : Bool
  ctx : Nat
deriving DecidableEq, Repr

/-- One entry for each team, register and line. -/
def addBobbin (b : Bobbin) (l : List Bobbin) : List Bobbin :=
  if l.any (fun x => x.team == b.team && x.reg == b.reg && x.line == b.line) then
    l.map (fun x => if x.team == b.team && x.reg == b.reg && x.line == b.line then
      { x with since := max x.since b.since } else x)
  else l ++ [b]

/-- The bobbins of a core: of bindings, and of bind loads on their way. -/
def State.coreBobbins (s : State) (core : Nat) : List Bobbin :=
  let ts := s.teams.filter (fun t => t.live && s.teamCore t == core)
  let ctxOf (t : Team) : Nat := ((s.wg? t.wg).map Wg.ctx).getD 0
  let bound := ts.flatMap (fun t => t.bindings.map (fun e =>
    (⟨t.uid, e.1 % 96, lineOf e.2.loc, e.2.spilled, e.2.since, e.2.spilledAt, pinsLine e.2.space, ctxOf t⟩ : Bobbin)))
  let coming := ts.flatMap (fun t => s.loads.filterMap (fun l =>
    match l.kind, l.dests.head? with
    | .bind _ _ _ sp, some (_, .vec _ r) =>
      if l.team == t.uid then some (⟨t.uid, r, lineOf l.loc, sp, s.cycle, s.cycle, pinsLine l.space, ctxOf t⟩ : Bobbin) else none
    | _, _ => none))
  (bound ++ coming).foldl (fun l b => addBobbin b l) []

/-- Entries of a context's spill table in use: one for each spilled bobbin, those of bind loads on their way included (R170, R171). -/
def State.spillUse (s : State) (c : Nat) : Nat :=
  let coming := s.loads.filterMap (fun l =>
    match l.kind, l.dests.head? with
    | .bind _ _ _ true, some (_, .vec _ r) => if s.ctxOfTeam l.team == c then some (l.team, r, lineOf l.loc) else none
    | _, _ => none)
  let there (x : Nat × Nat × Nat) : Bool := (s.team? x.1).any (fun t =>
    t.bindings.any (fun e => e.1 % 96 == x.2.1 && lineOf e.2.loc == x.2.2 && e.2.spilled))
  s.spillCount c + (coming.eraseDups.filter (fun x => !there x)).length

/-- Whether the spill table has room for one more entry beside `n` (R171, R172). -/
def State.spillRoom (s : State) (c n : Nat) : Bool :=
  let x := (s.ctx c).spillBase
  decide (x.extractLsb' 12 45 ≠ 0) && decide (s.spillUse c + n < 1024 * 2 ^ (x.extractLsb' 0 4).toNat)

/-- Spills or fills the bobbin of a team, register and line, its bind loads on their way included. -/
def State.setSpilled (s : State) (team reg line : Nat) (on : Bool) : State :=
  let s := { s with loads := s.loads.map (fun (l : Load) =>
    match l.kind, l.dests.head? with
    | .bind n w va _, some (_, .vec _ r) =>
      if l.team == team && r == reg && lineOf l.loc == line then ({ l with kind := .bind n w va on } : Load) else l
    | _, _ => l) }
  s.modTeam team (fun t => { t with bindings := t.bindings.map (fun e =>
    if e.1 % 96 == reg && lineOf e.2.loc == line then
      (e.1, { e.2 with spilled := on, spilledAt := if on then s.cycle else e.2.spilledAt }) else e) })

/-- The bobbin with the earliest time. -/
def oldestBobbin (time : Bobbin → Nat) (l : List Bobbin) : Option Bobbin :=
  l.foldl (fun r b =>
    match r with
    | none => some b
    | some x => if time b < time x then some b else some x) none

/-- A place for a binding's bobbin: in the table, or in the spill table; none raises SPILLFULL (R170, R171). `extra` are
the bobbins of the instruction's earlier lanes. -/
def State.placeBobbin (s : State) (extra : List Bobbin) (team reg : Nat) (space : Space) (loc : Nat) :
    State × Option Bool :=
  let c := s.curCtxNum
  let line := lineOf loc
  let old := s.coreBobbins s.curCore
  let bs := extra.foldl (fun l b => addBobbin b l) old
  let room := s.spillRoom c (extra.filter (fun b => b.spilled)).length
  match bs.find? (fun b => b.team == team && b.reg == reg && b.line == line) with
  | some b => (s, some b.spilled)
  | none =>
    let pinned := ((bs.filter (fun b => b.pinned && !b.spilled && b.line % 1024 == line % 1024)).map (fun b => b.line)).eraseDups
    let self : State × Option Bool := if room then (s, some true) else (s, none)
    if pinsLine space && !pinned.contains line && decide (8 ≤ pinned.length) then self
    else if (bs.filter (fun b => !b.spilled)).length < Config.bobbins then (s, some false)
    else
      match oldestBobbin Bobbin.since (old.filter (fun b => !b.spilled && b.ctx == c &&
          !extra.any (fun x => x.team == b.team && x.reg == b.reg && x.line == b.line))) with
      | none => self
      | some v =>
        if room then
          (let s := s.setSpilled v.team v.reg v.line true
           if s.asking s.curCore v.line [.watch] || !v.pinned then s
           else { s with coh := { s.coh with reqs := s.coh.reqs ++ [⟨.watch, s.curCore, v.line, [], [], none⟩] } }, some false)
        else (s, none)

/-- Spilled bobbins of a core are filled back as bobbins free, oldest spill first (R171). -/
def State.refill (s : State) (core : Nat) : Nat → State
  | 0 => s
  | n + 1 =>
    let bs := s.coreBobbins core
    let pins (b : Bobbin) : Bool :=
      let p := ((bs.filter (fun x => x.pinned && !x.spilled && x.line % 1024 == b.line % 1024)).map (fun x => x.line)).eraseDups
      !b.pinned || p.contains b.line || decide (p.length < 8)
    if (bs.filter (fun b => !b.spilled)).length < Config.bobbins then
      match oldestBobbin Bobbin.spilledAt (bs.filter (fun b => b.spilled && pins b)) with
      | none => s
      | some v => State.refill (s.setSpilled v.team v.reg v.line false) core n
    else s

/-! ## BLD, BLDN, BLDD (R174) -/

/-- Places for the bobbins of the lanes without fault; a lane without one faults with SPILLFULL. -/
def State.placeLanes (reg : Nat) : List Bobbin → List (Nat × Site) → State → State × List (Nat × Site × Bool)
  | _, [], s => (s, [])
  | extra, x :: xs, s =>
    match x.2 with
    | .at_ space loc =>
      match s.placeBobbin extra s.cur.uid reg space loc with
      | (s, some sp) =>
        let b : Bobbin := ⟨s.cur.uid, reg, lineOf loc, sp, s.cycle, s.cycle, pinsLine space, s.curCtxNum⟩
        let r := State.placeLanes reg (addBobbin b extra) xs s
        (r.1, (x.1, x.2, sp) :: r.2)
      | (s, none) =>
        let r := State.placeLanes reg extra xs s
        (r.1, (x.1, .gone tSPILLFULL, false) :: r.2)
    | f =>
      let r := State.placeLanes reg extra xs s
      (r.1, (x.1, f, false) :: r.2)

/-- Bind loads on their way to a register of lanes bind no more: a later binding or removal has come (R163, R174). -/
def State.cutBindsAt (s : State) (team : Nat) (lanes : Mask) (regs : List Nat) : State :=
  { s with loads := s.loads.map (fun (l : Load) =>
      if l.team == team && lanes.getLsbD l.lane && l.dests.any (fun d =>
          match d.2 with
          | .vec _ r => regs.contains r
          | _ => false) then
        match l.kind with
        | .bind _ _ _ _ => ({ l with kind := .token } : Load)
        | _ => l
      else l) }

/-- Removes the bindings of lanes that cover a register. -/
def Team.unbindAll (t : Team) (lanes : List Nat) (regs : List Nat) : Team :=
  lanes.foldl (fun t l => regs.foldl (fun t r => t.unbindReg l r) t) t

/-- The body of a bind load: the old bindings of its registers go first, then the new bobbins are placed (R174). Lanes that find no
place are left unbound (R171). -/
def State.runBind (notify size8 : Bool) (d a b : Code) (s : State) : Res :=
  let size := if size8 then 8 else 4
  let acc := s.cur.loadAccesses size d a b
  if acc = [] then .done s
  else if s.mustWait .read (placesOf acc (State.sites Need.binding acc s).2) then
    s.parkFor (placesOf acc (State.sites Need.binding acc s).2)
  else
    let s := s.unpark
    let r := State.sites Need.binding acc s
    let lanes := (r.2.filter (fun x => x.2.ok)).map (fun x => x.1)
    let rs := (List.range (regs size8)).map (fun i => d.toNat + i)
    let s := r.1.cutBindsAt r.1.cur.uid (maskOf lanes) rs
    let p := State.placeLanes d.toNat [] r.2 (s.setCur (s.cur.unbindAll lanes rs))
    let s := p.1
    let js := p.2.map (fun x => (x.1, x.2.1))
    let good := p.2.filter (fun x => x.2.1.ok)
    let seq := s.nextSeq
    let vaOf (l : Nat) : Nat := (s.cur.addr l a b).toNat % 2 ^ 64
    let spOf (l : Nat) : Bool := good.any (fun x => x.1 == l && x.2.2)
    let s := State.addLoads (fun l => .bind notify size8 (vaOf l) (spOf l)) size .none (fun l => destsOf l d (regs size8)) js s
    let q := State.askLoads seq 0 s.loads s
    Res.withAsks q.2 false (q.1.takeSeq.afterSites Need.binding false js)

/-- The issue of a bind load. -/
def issueBind (notify size8 : Bool) (d a b : Code) (s : State) : Host.Outcome State Fault Refusal :=
  issue { cls := 1, forbidden := 1 } (loadUses (regs size8) d a b)
    (fun t s =>
      if vOk t size8 d && baseOk t a && srcOk t false b then
        s.stage1Conds t Need.binding (t.loadAccesses (if size8 then 8 else 4) d a b)
      else [(none, tOPERAND)])
    (State.runBind notify size8 d a b) s

/-- BLD (R174). -/
def execBld (d a b : Code) (s : State) : Host.Outcome State Fault Refusal := issueBind false false d a b s
/-- BLDN (R174): TYPE selects its size. -/
def execBldn (d a b : Code) (s : State) : Host.Outcome State Fault Refusal := issueBind true (wide s.cur.type) d a b s
/-- BLDD (R174). -/
def execBldd (d a b : Code) (s : State) : Host.Outcome State Fault Refusal := issueBind false true d a b s

/-! ## UNBIND, UNBALL (R175) -/

/-- UNBIND (R175). -/
def execUnbind (d : Code) (s : State) : Host.Outcome State Fault Refusal :=
  issue { forbidden := 1 } Uses.none (fun t _ => okCond (vOk t false d))
    (fun s =>
      let s := s.cutBindsAt s.cur.uid s.cur.contrib [d.toNat]
      .done (s.setCur (s.cur.unbindAll s.cur.contribLanes [d.toNat]))) s

/-- UNBALL (R175): every binding of every lane, whatever mask and guard. In a region it aborts the region lanes. -/
def execUnball (s : State) : Host.Outcome State Fault Refusal :=
  issue { whole := true, forbidden := 2 } Uses.none (fun _ _ => [])
    (fun s =>
      let s := s.cutBindsAt s.cur.uid (fullMask s.cur.size) (List.range 96)
      .done (s.setCur { s.cur with bindings := [] })) s

/-! ## BWAIT, BCHG (R176, R177) -/

/-- The bindings that a lane watches: all of the lane's, or the one that covers a register. -/
def Team.watchedAt (t : Team) (a : Code) (l : Nat) : List (Nat × Binding) :=
  if isZ a then t.bindings.filter (fun e => e.1 / 96 == l)
  else ((t.boundAt l a.toNat).map (fun x => (vkey l x.1, x.2))).toList

/-- Those bindings without the registers that they bind. -/
def Team.watched (t : Team) (a : Code) (l : Nat) : List Binding := (t.watchedAt a l).map (fun e => e.2)

/-- Whether a lane's watched bindings have CHG set. -/
def Team.changed (t : Team) (a : Code) (l : Nat) : Bool := (t.watched a l).any (fun b => b.chg)

/-- BWAIT completes: an observation point, then the predicate. -/
def State.endBwait (d a : Code) (s : State) : Res :=
  let s := s.observe.unpark
  let vals := maskOf (s.cur.contribLanes.filter (fun l => s.cur.changed a l))
  .done (s.setCur (s.cur.pset d.toNat s.cur.contrib vals))

/-- The body of BWAIT. Its observation points wait for the lines that peers have changed (R159). -/
def State.runBwait (d a b : Code) (s : State) : Res :=
  let lanes := s.cur.contribLanes
  let t := s.cur.lead32 b
  if s.obsWaits s.cur then
    (let s := s.askUnseen s.cur
     if s.cur.park = .running then s.parkOn .access else .stay s)
  else if lanes.all (fun l => (s.cur.watched a l).isEmpty) then State.endBwait d a s
  else
    let s := s.observe
    if lanes.any (fun l => s.cur.changed a l) then State.endBwait d a s
    else
      match s.cur.park with
      | .bwait _ true => State.endBwait d a s
      | .bwait _ false => .stay s
      | _ =>
        if t = 0 then State.endBwait d a s
        else s.parkOn (.bwait (if t = 0xFFFFFFFF then none else some (s.cycle + t.toNat)) false)

/-- BWAIT (R176). -/
def execBwait (d a b : Code) (s : State) : Host.Outcome State Fault Refusal :=
  issue { forbidden := 1 } { reads := [], lead := [(b, 1)], writes := [] }
    (fun t _ => okCond (predOk false d && vzOk t false a && srcOk t false b))
    (State.runBwait d a b) s

/-- BCHG (R177). -/
def execBchg (d a : Code) (s : State) : Host.Outcome State Fault Refusal :=
  issue { forbidden := 1 } Uses.none (fun t _ => okCond (predOk false d && vOk t false a))
    (fun s =>
      let t := s.cur
      let lanes := t.contribLanes
      let vals := maskOf (lanes.filter (fun l => t.changed a l))
      let t := lanes.foldl (fun t l =>
        match t.boundAt l a.toNat with
        | some (f, b) => { t with bindings := aput t.bindings (vkey l f) { b with chg := false } }
        | none => t) t
      .done (s.setCur (t.pset d.toNat t.contrib vals))) s

/-! ## BADD, BCAS, BXCH (R178) -/

/-- Whether every contributing lane's d is the first register of a binding of the TYPE's width. -/
def Team.boundOk (t : Team) (d : Code) : Bool :=
  t.contribLanes.all (fun l =>
    match alook t.bindings (vkey l d.toNat) with
    | some b => b.size8 == wide t.type
    | none => false)

/-- The binding of a lane's d. -/
def Team.bindingOf (t : Team) (d : Code) (l : Nat) : Option Binding := alook t.bindings (vkey l d.toNat)

/-- Stage 2 of bound places: the permissions that ADDR's page gives now, departed members and poison (R140, R358). The place stays
the binding's. -/
def State.boundSites (size : Nat) : List (Nat × Binding) → State → State × List (Nat × Site)
  | [], s => (s, [])
  | x :: xs, s =>
    let p := match s.stage1 s.cur x.1 (BitVec.ofNat 64 x.2.addr) size Need.rmw with
      | .ok (.virtual va) => Pre.virtual va
      | _ => .direct x.2.space x.2.loc
    let r := (s.beforePlace s.curCtxNum p).stage2 s.curCtxNum s.curWg p size Need.rmw
    let site := match r.2 with
      | .at_ _ _ => Site.at_ x.2.space x.2.loc
      | f => f
    let rest := State.boundSites size xs r.1
    (rest.1, (x.1, site) :: rest.2)

/-- The body of an atomic through a binding; `old` is where the old value goes. -/
def State.runBound (op : AtOp) (d a : Code) (b : Option Code) (old : Option Code) (s : State) : Res :=
  let t := s.cur
  let wd := wide t.type
  let size := if wd then 8 else 4
  let bs := t.contribLanes.filterMap (fun l => (t.bindingOf d l).map (fun x => (l, x)))
  if bs = [] then .done s
  else if s.fenceHolds || s.mustWait .rmw (bs.map (fun x => (x.2.addr, x.2.loc, size))) then
    s.parkFor (bs.map (fun x => (x.2.addr, x.2.loc, size)))
  else
    let s := s.unpark
    let r := State.boundSites size bs s
    let dst := match old with
      | some c => r.1.destStores t.contribLanes c (regs wd)
      | none => []
    let w := State.sites Need.store dst r.1
    let js := joinSites r.2 w.2
    let s := w.1
    if s.pathShort (siteLocs w.2) then s.parkOn .access
    else (s.farCheck (bs.map (fun x => (x.1, x.2.loc, size)) ++ lanePlaces dst w.2)).getD <|
    let seq := s.nextSeq
    let oldDests (l : Nat) : List Dest := match old with
      | some c => (destsOf l c (regs wd)).map (fun e => e.2)
      | none => []
    let kind (l : Nat) : LoadKind :=
      .bound op t.type (BitVec.ofNat 64 (t.opndN wd l a))
        (BitVec.ofNat 64 (match b with
          | some c => t.opndN wd l c
          | none => 0)) (oldDests l)
    let s := State.addLoads kind size .none (fun l => destsOf l d (regs wd)) (s.siteOrder size js) s
    let q := State.askLoads seq 0 s.loads s
    Res.withAsks q.2 false (q.1.takeSeq.draw.afterSites Need.rmw false js)

/-- The conditions of an atomic through a binding. -/
def boundConds (op : AtOp) (bOk : Team → Bool) (d a : Code) (old : Option Code) (t : Team) (s : State) : List Cond :=
  let wd := wide t.type
  if atTypeOk op t.type && vOk t wd d && srcOk t wd a && bOk t && t.boundOk d then
    t.contribLanes.flatMap (fun l =>
      match t.bindingOf d l with
      | some x => if s.hitsBarrier x.loc (if wd then 8 else 4) then [(some l, tBARCLOB)] else []
      | none => []) ++
      (match old with
        | some c => s.stage1Conds t Need.store (s.destStores t.contribLanes c (regs wd))
        | none => [])
  else [(none, tOPERAND)]

/-- The issue of an atomic through a binding whose b receives the old value. -/
def issueBoundOld (op : AtOp) (d a b : Code) (s : State) : Host.Outcome State Fault Refusal :=
  let n := regs (wide s.cur.type)
  issue { cls := 1, forbidden := 1 } { reads := [(a, n)], writes := [(d, n), (b, n)] }
    (fun t s => boundConds op (fun t => vzOk t (wide t.type) b) d a (some b) t s)
    (State.runBound op d a none (some b)) s

/-- BADD (R178). -/
def execBadd (d a b : Code) (s : State) : Host.Outcome State Fault Refusal := issueBoundOld .add d a b s
/-- BXCH (R178). -/
def execBxch (d a b : Code) (s : State) : Host.Outcome State Fault Refusal := issueBoundOld .xch d a b s
/-- BCAS (R178): b replaces the memory value when that equals a. -/
def execBcas (d a b : Code) (s : State) : Host.Outcome State Fault Refusal :=
  let n := regs (wide s.cur.type)
  issue { cls := 1, forbidden := 1 } { reads := [(a, n), (b, n)], writes := [(d, n)] }
    (fun t s => boundConds .cas (fun t => srcOk t (wide t.type) b) d a none t s)
    (State.runBound .cas d a (some b) none) s

end Sys2Proof.Machine
end

