-- ==== Sys2Proof/Machine/Region.lean ====
section
/-! DEFINITION. Atomic regions (R264–R277): opening, commit by the commit engine with repair, abandoning, and code 9. -/

namespace Sys2Proof.Machine

/-! ## RBEGIN (R264, R275) -/

/-- Whether lanes lie in one mask word (R264). -/
def oneWord (m : Mask) : Bool := decide (passesOf m ≤ 1)

/-- The values of a lane's bound registers, by register number (R165). -/
def Team.boundValues (t : Team) (l : Nat) : List (Nat × Word) :=
  (t.bindings.filter (fun e => e.1 / 96 == l)).flatMap (fun e =>
    (e.1 % 96, tget 0 t.v e.1) :: (if e.2.size8 then [(e.1 % 96 + 1, tget 0 t.v (e.1 + 1))] else []))

/-- The region state of a lane at RBEGIN. -/
def Team.newRegion (t : Team) (l : Nat) : RLane where
  open_ := true
  repaired := false
  code := 0
  inputs := []
  constraints := 0
  compares := []
  stores := []
  lines := []
  tags := []
  boundSaved := t.boundValues l
  start := t.now

/-- Opens a region for lanes, their handler pending with an empty mask. -/
def Team.openRegion (t : Team) (handler : DWord) (lanes : List Nat) : Team :=
  { t with
    region := lanes.foldl (fun r l => aput r l (t.newRegion l)) t.region
    stack := .pending handler 0 t.s t.written true :: t.stack }

/-- RBEGIN (R275): the active lanes, whatever the guard. -/
def execRbegin (a : Code) (s : State) : Host.Outcome State Fault Refusal :=
  issue { whole := true, forbidden := 2 } { reads := [(a, 1)], writes := [] }
    (fun t _ =>
      let h := t.pc + t.offset 0 a
      okCond (skOk t false a) ++ whenCond (decide (h.toNat % 4 ≠ 0)) tALIGN ++
        whenCond (!oneWord t.mask) tREGION ++ whenCond (!t.stackRoom 1) tSPILLFULL)
    (fun s => .done (s.setCur (s.cur.openRegion (s.cur.pc + s.cur.offset 0 a) s.cur.activeLanes))) s

/-! ## RCOMMIT, RABORT (R276) -/

/-- The body of RCOMMIT: FENCES at SCOPE, the commit engine's work on every region lane, FENCES again, then the lanes
that committed go on. -/
def State.runCommit (s : State) : Res :=
  if s.cur.committing then
    if s.cur.inRegion then .stay s
    else if s.accessesDone s.cur.uid s.nextSeq s.cur.scope then
      let s := s.unpark
      if s.cur.mask = 0 then .jump (s.setCur s.cur.afterAbort) else .done s
    else .stay s
  else s.released s.cur.scope (fun s => s.parkOn .commit)

/-- RCOMMIT (R272, R276). -/
def execRcommit (s : State) : Host.Outcome State Fault Refusal :=
  issue { whole := true } Uses.none (fun t _ => whenCond (!t.inRegion && !t.committing) tILLEGAL) State.runCommit s

/-- RABORT (R276): the contributing lanes abort with code 10. -/
def execRabort (s : State) : Host.Outcome State Fault Refusal :=
  issue {} Uses.none (fun t _ => whenCond (!t.inRegion) tILLEGAL)
    (fun s => .done (s.setCur (s.cur.abortLanes s.cur.contrib 10))) s

/-! ## The commit engine (R272) -/

/-- A value plus a tag's constant, wrapped to the input's size. -/
def tagValue (r : RLane) (values : List Nat) (x : RTag) : Nat :=
  let size := (r.inputs[x.input]?.map RInput.size).getD 4
  (values.getD x.input 0 + x.const.toNat) % 256 ^ size

/-- The relation of a compare constraint on integers under a TYPE (R267). -/
def constraintHolds (r : RLane) (values : List Nat) (c : RConstraint) : Bool :=
  let v := tagValue r values ⟨c.input, c.const⟩
  let rel : Rel := match c.relation with
    | 0 => .eq
    | 1 => .ne
    | 2 => .lt
    | _ => .le
  let x := c.other.toNat
  (if c.tagLeft then relType rel c.type false v x else relType rel c.type false x v).1 == c.outcome

/-- Whether every constraint holds on fresh inputs (R267, R272). -/
def regionHolds (r : RLane) (fresh : List Nat) : Bool :=
  (r.inputs.zip fresh).all (fun e => !e.1.concrete || e.1.value == BitVec.ofNat 128 e.2) &&
    r.compares.all (constraintHolds r fresh)

/-- The bytes that a lane's stores write, in program order. -/
def regionCells (r : RLane) (values : List Nat) (x : RStore) : List Host.Cell :=
  let v := match x.tag with
    | some g => tagValue r values g
    | none => x.value.toNat
  cellsFrom x.loc (leBytes x.size v)

/-- A line of a peer that the proxy holds exclusive is written there, and goes home (R427). -/
def State.writeProxy (s : State) (t : Team) (dev line seq : Nat) (x : RStore) (cells : List Host.Cell) : State :=
  let s := s.perform cells t.uid x.own []
  let s := { s with fab := { s.fab with proxy := s.fab.proxy.map (fun (p : ProxyLine) => if p.line == line then { p with st := .m } else p) } }
  s.request dev (s.ctxOfTeam t.uid) 0x09 0 (locOff (line * 128)) line true (cellBytes s.mem (line * 128) 128)
    { write := [⟨t.uid, seq, x.flag, t.scope, x.own⟩] }

/-- One store of a committing lane, performed at its point of performance: the line is held exclusive. A store through a binding
is a strong access (R161). -/
def State.drainStore (s : State) (t : Team) (core seq : Nat) (r : RLane) (values : List Nat) (x : RStore) : State :=
  let cells := regionCells r values x
  let line := lineOf x.loc
  let s := if x.own.isSome then s.noteStrong t.uid x.loc (sizeUnder x.chk x.size) else s
  match x.space with
  | .peer d _ => s.writeProxy t d line seq x cells
  | _ => (s.perform cells t.uid x.own []).dirtyLine core line

/-- Registers of a repaired lane take their tags' fresh values (R272). -/
def Team.repairLane (t : Team) (l : Nat) (r : RLane) (fresh : List Nat) : Team :=
  r.tags.foldl (fun t e =>
    if t.isBound l e.1 then t
    else
      let v := tagValue r fresh e.2
      let t := t.vset false l e.1 (BitVec.ofNat 32 v)
      if (r.inputs[e.2.input]?.map RInput.size) = some 8 then t.vset false l (e.1 + 1) (BitVec.ofNat 32 (v / 2 ^ 32)) else t) t

/-- A lane's region closed as committed; its counts stay for RSTAT (R274). -/
def Team.closeLane (t : Team) (l : Nat) (r : RLane) (repaired : Bool) : Team :=
  t.setRlane l { r with open_ := false, repaired := repaired, code := 0, tags := [] }

/-- The lines that a lane's commit takes: its read set and its store lines (R272). -/
def RLane.commitLines (r : RLane) : List Nat :=
  (r.lines.map (fun e => e.1) ++ (r.stores.filter (fun x => decide (x.space ≠ .store))).map (fun x => lineOf x.loc)).eraseDups

/-- Whether a core holds a line exclusive: in its L1, or of a peer's memory at the proxy (R425). -/
def State.holdsLine (s : State) (core line : Nat) : Bool :=
  if locKind (line * 128) = 6 then s.fab.proxy.any (fun p => p.line == line && (p.st == .e || p.st == .m)) else s.owns core line

/-- Asks for a line exclusive: at its home here, or from the peer that homes it. -/
def State.takeLine (s : State) (core ctx line : Nat) : State :=
  let loc := line * 128
  if locKind loc = 6 then
    if s.fab.txns.any (fun x => (x.op == 1 || x.op == 2 || x.op == 9) && x.line == line) then s
    else s.request (locId loc) ctx (if (s.proxyLine line).any (fun p => p.st == .s) then 0x02 else 0x01) 0 (locOff loc) line true [] {}
  else s.askExclusive core line

/-- Writes of the core to a line that are on their way and that nothing holds back. -/
def State.ownWrites (s : State) (core line : Nat) : List StoreEntry :=
  s.path.filter (fun e => e.core == core && decide (e.hold = []) && lineOf e.loc == line)

/-- The commit engine takes one lane (R272): every line exclusive, the lowest first, and the team's earlier copies held or written
(R208); then, in one event, the core's own writes there, the check of the constraints and the lane's stores. -/
def State.commitLane (s : State) (t : Team) (l : Nat) (r : RLane) : State :=
  let core := s.teamCore t
  let lines := r.commitLines
  let missing := lines.filter (fun line => !s.holdsLine core line)
  let hosts := lines.filter s.hostHeld
  if hosts ≠ [] then hosts.foldl (fun s line => s.snoopLine line false) s
  else if missing ≠ [] then s.takeLine core (s.ctxOfTeam t.uid) (missing.foldl min (missing.headD 0))
  else if s.copiesOpen t.uid s.nextSeq || r.stores.any (fun x => s.copyAhead t.uid s.nextSeq none x.loc x.size) ||
      lines.any (fun line => (s.ownWrites core line).any (fun e => e.tags.any (fun g => s.copiesOpen g.team g.seq))) then s
  else
    let s := lines.foldl (fun s line => s.recallCopies (line * 128) 128) s
    let s := (s.path.filter (fun e => lines.any (fun line => (s.ownWrites core line).contains e))).foldl State.performNow s
    let r := ((s.team? t.uid).bind (fun t => t.rlane? l)).getD r
    let written := r.lines.any (fun e => e.2)
    let old := r.inputs.map (fun i => i.value.toNat)
    let fresh := r.inputs.map (fun i => s.seenNat core t.uid i.loc i.size)
    if written && !regionHolds r fresh then s.modTeam t.uid (fun t => t.abortLanes (laneBit l) 1)
    else
      let values := if written then fresh else old
      let seq := s.nextSeq
      let s := r.stores.foldl (fun s x => s.drainStore t core seq r values x) s.takeSeq
      s.modTeam t.uid (fun t =>
        let t := if written then t.repairLane l r fresh else t
        t.closeLane l ((t.rlane? l).getD r) written)

/-- LANE_COMMIT (R272): the lowest open lane of a team at its RCOMMIT. -/
def execLaneCommit (team lane : Nat) (s : State) : Host.Outcome State Fault Refusal :=
  .next (match s.team? team with
    | none => s
    | some t =>
      if t.committing && (lanesOf t.size t.openLanes).head? == some lane then
        match t.rlane? lane with
        | some r => s.commitLane t lane r
        | none => s
      else s)

/-- Time passes until a cycle at the earliest (log entry 4). -/
def State.waitUntil (s : State) (cycle : Nat) : State := { s with cycle := max s.cycle cycle }

/-- REGION_TIMEOUT (R269): code 9, 65,536 cycles after RBEGIN. -/
def execRegionTimeout (team lane : Nat) (s : State) : Host.Outcome State Fault Refusal :=
  .next (match s.team? team with
    | none => s
    | some t =>
      match t.rlane? lane with
      | some r =>
        if r.open_ then
          (s.waitUntil (r.start + Config.longTimeout)).modTeam team (fun t => t.abortOutside (laneBit lane) 9)
        else s
      | none => s)

end Sys2Proof.Machine
end

