-- ==== Sys2Proof/Machine/Sync.lean ====
section
/-! DEFINITION. Barrier words, parking and waking (R252–R262). -/

namespace Sys2Proof.Machine

/-! ## Barrier words (R252–R256) -/

/-- Fields of a barrier word. -/
def bLive (w : Nat) : Bool := bits w 63 1 == 1
/-- MEMB. -/
def bMemb (w : Nat) : Bool := bits w 62 1 == 1
/-- GEN. -/
def bGen (w : Nat) : Nat := bits w 48 8
/-- EXPECT. -/
def bExpect (w : Nat) : Nat := bits w 32 16
/-- COUNT. -/
def bCount (w : Nat) : Nat := bits w 16 16
/-- PHASE. -/
def bPhase (w : Nat) : Nat := bits w 0 16

/-- A word with COUNT and PHASE replaced. -/
def bWith (w count phase : Nat) : Nat := w / 2 ^ 32 * 2 ^ 32 + count % 2 ^ 16 * 2 ^ 16 + phase % 2 ^ 16

/-- The word with OVR set. -/
def bOverrun (w : Nat) : Nat := if bits w 61 1 = 1 then w else w + 2 ^ 61

/-- Whether a token is stale for a word (R255). -/
def tokenStale (tok : Word) (w : Nat) : Bool :=
  tok.getLsbD 31 || !bLive w || bGen w != bits tok.toNat 16 8

/-- Whether a token has passed (R255). -/
def tokenPassed (tok : Word) (w : Nat) : Bool :=
  bLive w && bGen w == bits tok.toNat 16 8 &&
    (let n := (bPhase w + 65536 - bits tok.toNat 0 16) % 65536
     decide (1 ≤ n) && decide (n ≤ 32767))

/-- The status that a wait on a token completes with now, if it does (R259). -/
def tokenStatus (tok : Word) (w : Nat) : Option Word :=
  if tokenStale tok w then some 1 else if tokenPassed tok w then some 0 else none

/-- Waits on a word that its new value releases (R258, R259); a saved one is looked at when it is restored. -/
def State.wakeAwaits (s : State) (loc : Nat) : State :=
  let w := cellNat s.mem loc 8
  let saved (t : Team) : Bool := (s.wg? t.wg).any (fun w => w.phase == .saved)
  s.mapTeams (fun t =>
    match t.park with
    | .await tok l none => if l = loc && !saved t then { t with park := .await tok l (tokenStatus tok w) } else t
    | _ => t)

/-- A barrier word written at its home, in chip scratchpad with every copy of its line invalidated (R155, R333); the waits on it
are looked at again. -/
def State.putBarrier (s : State) (loc w : Nat) (mask : Option Nat) : State :=
  let cells := cellsFrom loc (leBytes 8 w) ++ (match mask with
    | some m => cellsFrom (loc + 8) (leBytes 8 m)
    | none => [])
  let s := if chipLine (lineOf loc) then s.invalidateOthers homeAgent [lineOf loc] else s
  (s.perform cells 0 none []).wakeAwaits loc

/-- The outcome of an arrival (R254). -/
inductive Arrival where
  | dropped | overrun | counted
deriving DecidableEq, Repr

/-- An arrival at a word's home by member `m`; an engine's arrival carries the generation it captured (R217, R254). -/
def State.arriveAt (s : State) (loc m : Nat) (gen : Option Nat) : State × Arrival :=
  let w := cellNat s.mem loc 8
  let mask := cellNat s.mem (loc + 8) 8
  let bit := m % 64
  if !bLive w || (match gen with
      | some g => g != bGen w
      | none => false) then (s, .dropped)
  else if bMemb w && bits mask bit 1 == 1 then (s.putBarrier loc (bOverrun w) none, .overrun)
  else
    let count := bCount w + 1
    if count = bExpect w then
      (s.putBarrier loc (bWith w 0 (bPhase w + 1)) (if bMemb w then some 0 else none), .counted)
    else
      (s.putBarrier loc (bWith w count (bPhase w)) (if bMemb w then some (mask + 2 ^ bit) else none), .counted)

/-- The token of an arrival at a word as it stood before it (R255). -/
def tokenOf (w : Nat) : Word :=
  if bLive w then BitVec.ofNat 32 (bGen w * 2 ^ 16 + bPhase w) else BitVec.ofNat 32 (2 ^ 31 + bGen w * 2 ^ 16 + bPhase w)

/-- BARINIT at a word's home (R258). -/
def State.initAt (s : State) (loc : Nat) (ctl : Word) : State :=
  let w := cellNat s.mem loc 8
  let memb := ctl.getLsbD 16
  let new := 2 ^ 63 + (if memb then 2 ^ 62 else 0) + (bGen w + 1) % 256 * 2 ^ 48 + bits ctl.toNat 0 16 * 2 ^ 32
  let s := { s with barriers := if s.barriers.contains loc then s.barriers else s.barriers ++ [loc] }
  s.putBarrier loc new (if memb then some 0 else none)

/-- BARINV at a word's home (R258). -/
def State.invAt (s : State) (loc : Nat) : State :=
  let w := cellNat s.mem loc 8
  let s := { s with barriers := s.barriers.filter (fun b => decide (b ≠ loc)) }
  s.putBarrier loc (if bLive w then w - 2 ^ 63 else w) none

/-! ## Barrier addresses (R252, R253, R263) -/

/-- The stage-1 outcome of a barrier address: its place, or ALIGN or ACCESS. -/
def State.barrierPlace (s : State) (t : Team) (va : DWord) (align : Nat) : Except Trap (Space × Nat) :=
  if va.toNat % align ≠ 0 then .error tALIGN
  else
    match s.stage1 t (t.leader.getD 0) va 8 Need.load with
    | .error x => .error x
    | .ok (.direct space loc) =>
      match space with
      | .chip => .ok (space, loc)
      | .member _ => .ok (space, loc)
      | .store => if locKind loc = 2 then .error (tACCESS 1) else .ok (space, loc)
      | _ => .error (tACCESS 1)
    | .ok (.virtual va) =>
      if inAperture va then .error (tACCESS 1)
      else
        match (s.translate s.curCtxNum va Need.load).2 with
        | .at_ .memSide _ => .error (tACCESS 6)
        | .at_ (.peer _ true) _ => .error (tACCESS 6)
        | _ => .error (tACCESS 1)

/-- The place of a checked barrier address. -/
def State.barrierAt (s : State) (va : DWord) : Space × Nat :=
  match s.barrierPlace s.cur va 8 with
  | .ok p => p
  | .error _ => (.store, 0)

/-- The conditions of a barrier address for a team with a leader (R258, R259). -/
def State.barrierConds (s : State) (t : Team) (a : Code) (align : Nat) : List Cond :=
  if t.leader.isNone then []
  else
    match s.barrierPlace t (t.lead64 a) align with
    | .ok _ => []
    | .error x => [(none, x)]

/-- Whether a word's home cannot act on it now: a request holds its line (R328). -/
def State.wordBusy (s : State) (loc : Nat) : Bool := chipLine (lineOf loc) && s.locked (lineOf loc)

/-- The team's own earlier accesses to a word, and copies that hold its line, come first (R135, R209). -/
def State.settleWord (s : State) (loc : Nat) : State :=
  (State.forceLoads s.cur.uid loc 16 s.loads (s.recallCopies loc 16)).forceRange s.curCore s.cur.uid loc 16

/-- Whether a place is in a departed member's portion (R445). -/
def State.departedAt (s : State) (space : Space) : Option Nat :=
  match space with
  | .member m =>
    match s.curWg.bind Wg.hank with
    | some h => if h.departed.contains m then some m else none
    | none => none
  | _ => none

/-- A barrier operation on a word of a member on another device (R437): operation in MISC (0 BARINIT, 1 BARINV,
2 arrival, 3 wait, 4 arrival and wait), argument in the payload, the scalar for the answer in the transaction. -/
def State.remoteBarrier (s : State) (loc kind arg : Nat) (d : Code) : Res :=
  let tag := s.fab.nextTag
  let s := s.windowRequest s.cur.wg 0x3C kind loc (leBytes 8 arg)
    { load := some s.nextSeq, lane := if isS d then sNum d + 1 else 0 }
  Res.withAsks [tag] true (.done s)

/-- A barrier operation at home or away: HANKGONE for a departed member, a packet for another device, else `here`. -/
def State.barrierOp (s : State) (a : Code) (kind arg : Nat) (d : Code) (here : State → Nat → Res) : Res :=
  match s.cur.leader with
  | none => .done s
  | some _ =>
    let p := s.barrierAt (s.cur.lead64 a)
    match s.departedAt p.1, p.1 with
    | some m, _ => .trap s.unpark [(none, tHANKGONE m)] 0
    | none, .member _ => if s.memberStopped p.2 then s.parkOn .member else s.remoteBarrier p.2 kind arg d
    | none, _ =>
      if s.wordBusy p.2 || s.copiesOpen s.cur.uid s.nextSeq || s.mustWait .rmw [((s.cur.lead64 a).toNat, p.2, 16)] then
        s.parkFor [((s.cur.lead64 a).toNat, p.2, 16)]
      else here ((s.settleWord p.2).unpark) p.2

/-- Writes a status or token to d (R259). -/
def State.putStatus (s : State) (d : Code) (x : Word) : Res :=
  .done (if isS d then s.setCur (s.cur.sset (sNum d) x) else s)

/-! ## BARINIT, BARINV (R258) -/

/-- A legal control word of BARINIT. -/
def barCtlOk (x : Word) : Bool :=
  decide (x.extractLsb' 0 16 ≠ 0) && decide (x.extractLsb' 17 15 = 0) &&
    (!x.getLsbD 16 || decide ((x.extractLsb' 0 16).toNat ≤ 64))

/-- BARINIT (R258). -/
def execBarinit (a b : Code) (s : State) : Host.Outcome State Fault Refusal :=
  issue { whole := true, forbidden := 1 } { reads := [(a, 2), (b, 1)], writes := [] }
    (fun t s =>
      if sbaseOk t false a && skOk t false b && (t.leader.isNone || barCtlOk (t.lead32 b)) then
        s.barrierConds t a (if (t.lead32 b).getLsbD 16 then 16 else 8)
      else [(none, tOPERAND)])
    (fun s => s.barrierOp a 0 (s.cur.lead32 b).toNat 124 (fun s loc => .done (s.initAt loc (s.cur.lead32 b)))) s

/-- BARINV (R258). -/
def execBarinv (a : Code) (s : State) : Host.Outcome State Fault Refusal :=
  issue { whole := true, forbidden := 1 } { reads := [(a, 2)], writes := [] }
    (fun t s => if sbaseOk t false a then s.barrierConds t a 8 else [(none, tOPERAND)])
    (fun s => s.barrierOp a 1 0 124 (fun s loc => .done (s.invAt loc))) s

/-! ## ARRIVE, AWAIT, ARRWAIT (R259) -/

/-- The member number of an arriving instruction (R254). -/
def Team.memberNum (t : Team) (b : Code) : Nat := bits (t.lead32 b).toNat 0 6

/-- ARRIVE: its arrival follows what precedes it at SCOPE, and its token is its register result. On another device's
word the team waits for the release and then for the answer (R257, R445). -/
def execArrive (d a b : Code) (s : State) : Host.Outcome State Fault Refusal :=
  issue { cls := 1, whole := true, forbidden := 1 } { reads := [(a, 2), (b, 1)], writes := [(d, 1)] }
    (fun t s =>
      if szOk false d && sbaseOk t false a && skOk t true b then s.barrierConds t a 8 else [(none, tOPERAND)])
    (fun s =>
      match s.cur.leader with
      | none => .done s
      | some l =>
        let p := s.barrierAt (s.cur.lead64 a)
        match p.1 with
        | .member _ => s.released s.cur.scope (fun s => s.barrierOp a 2 (s.cur.memberNum b) d (fun s _ => .done s))
        | space =>
          let x := s.mkLoad (.arrive (s.cur.memberNum b)) l space p.2 8 .none (destsOf l d 1)
          .done { s.takeSeq with loads := s.loads ++ [x] }) s

/-- Errors of engine arrivals that AWAIT, ARRWAIT and WAITB raise, lowest code first, one at a time (R217, R256). -/
def State.raisePending (s : State) (go : State → Res) : Res :=
  match lowestTrap s.cur.pendErrs with
  | some x => .trap (s.setCur { s.cur with pendErrs := dropFirst x s.cur.pendErrs }) [(none, x)] 0
  | none => go s

/-- A wait on a token: completes at once, or parks. -/
def State.waitToken (s : State) (loc : Nat) (tok : Word) (d : Code) : Res :=
  match tokenStatus tok (cellNat s.mem loc 8) with
  | some st => s.unpark.putStatus d st
  | none => s.parkOn (.await tok loc none)

/-- A parked wait goes on: released with a status, into HANKGONE, or still parked. -/
def State.resumeWait (s : State) (d : Code) (status : Option Word) : Res :=
  match status with
  | some st => s.unpark.putStatus d st
  | none => .stay s

/-- AWAIT (R259). -/
def execAwait (d a b : Code) (s : State) : Host.Outcome State Fault Refusal :=
  issue { whole := true, forbidden := 1 } { reads := [(a, 2), (b, 1)], writes := [(d, 1)] }
    (fun t s =>
      if szOk false d && sbaseOk t false a && skOk t false b then s.barrierConds t a 8 else [(none, tOPERAND)])
    (fun s =>
      match s.cur.leader, s.cur.park with
      | none, _ => .done s
      | some _, .await _ _ st => s.resumeWait d st
      | some _, _ => s.raisePending (fun s =>
          s.barrierOp a 3 (s.cur.lead32 b).toNat d (fun s loc => s.waitToken loc (s.cur.lead32 b) d))) s

/-- ARRWAIT at its word's home: an overrun is precise and waits for nothing (R256). -/
def State.arrwaitAt (s : State) (loc : Nat) (m : Nat) (d : Code) : Res :=
  let tok := tokenOf (cellNat s.mem loc 8)
  match s.arriveAt loc m none with
  | (s, .overrun) => .trap s [(none, tBAROVER 0)] 0
  | (s, _) => s.waitToken loc tok d

/-- ARRWAIT (R259). -/
def execArrwait (d a b : Code) (s : State) : Host.Outcome State Fault Refusal :=
  issue { whole := true, forbidden := 1 } { reads := [(a, 2), (b, 1)], writes := [(d, 1)] }
    (fun t s =>
      if szOk false d && sbaseOk t false a && skOk t true b then s.barrierConds t a 8 else [(none, tOPERAND)])
    (fun s =>
      match s.cur.leader, s.cur.park with
      | none, _ => .done s
      | some _, .await _ _ st => s.resumeWait d st
      | some _, _ => s.raisePending (fun s => s.released s.cur.scope (fun s =>
          let m := s.cur.memberNum b
          s.barrierOp a 4 m d (fun s loc => s.arrwaitAt loc m d)))) s

/-! ## PARK, WAKE (R262) -/

/-- PARK (R262). A core's 64 wait entries hold its 32 teams, so none spills (R260). -/
def execPark (d b : Code) (s : State) : Host.Outcome State Fault Refusal :=
  issue { whole := true, forbidden := 1 } { reads := [(b, 1)], writes := [(d, 1)] }
    (fun t _ => okCond (szOk false d && skOk t true b))
    (fun s =>
      match s.cur.park with
      | .park _ woken expired =>
        if woken then s.unpark.putStatus d 0
        else if expired then s.unpark.putStatus d 1
        else .stay s
      | _ =>
        let n := s.cur.opnd32 0 b
        if s.cur.wakePend then (s.setCur { s.cur with wakePend := false }).putStatus d 0
        else if n = 0 then s.putStatus d 1
        else s.parkOn (.park (if n = 0xFFFFFFFF then none else some (s.cycle + n.toNat)) false false)) s

/-- WAKE reaches a team: a PARK is released, any other team keeps WAKEPEND. -/
def Team.woken (t : Team) : Team :=
  match t.park with
  | .park d false false => { t with park := .park d true false }
  | _ => { t with wakePend := true }

/-- WAKE (R262). -/
def execWake (a : Code) (s : State) : Host.Outcome State Fault Refusal :=
  issue { whole := true, forbidden := 1 } { reads := [(a, 1)], writes := [] }
    (fun t s => okCond (skOk t false a) ++
      whenCond (t.leader.isSome && decide (((s.curWg.map Wg.teams).getD 0) ≤ (t.lead32 a).toNat)) (tACCESS 5))
    (fun s =>
      match s.cur.leader with
      | none => .done s
      | some l =>
        let n := (s.cur.opnd32 l a).toNat
        s.released s.cur.scope (fun s =>
          .done (s.mapTeams (fun t => if t.live && !t.ending && t.wg == s.cur.wg && t.index == n then t.woken else t)))) s

/-- A deadline of a team's wait passes (log entry 4). -/
def State.passDeadline (s : State) (d : Option Nat) : State :=
  match d with
  | some n => s.waitUntil n
  | none => s

/-- The wait of a team that is not saved: the time of a saved one stands still (R176, R262, R367). -/
def State.waitOf (s : State) (team : Nat) : Option Park :=
  (s.team? team).bind (fun t => if (s.wg? t.wg).any (fun w => w.phase == .saved) then none else some t.park)

/-- BWAIT_TIMEOUT (R176). -/
def execBwaitTimeout (team : Nat) (s : State) : Host.Outcome State Fault Refusal :=
  .next (match s.waitOf team with
    | some (.bwait (some n) false) =>
      (s.passDeadline (some n)).modTeam team (fun t => { t with park := .bwait (some n) true })
    | _ => s)

/-- PARK_TIMEOUT (R262). -/
def execParkTimeout (team : Nat) (s : State) : Host.Outcome State Fault Refusal :=
  .next (match s.waitOf team with
    | some (.park (some n) false false) =>
      (s.passDeadline (some n)).modTeam team (fun t => { t with park := .park (some n) false true })
    | _ => s)

end Sys2Proof.Machine
end

