-- ==== Sys2Proof/Machine/Engine.lean ====
section
/-! DEFINITION. Spindle programs, copies, batches and semaphores (R199–R225). -/

namespace Sys2Proof.Machine

/-! ## FORK, RDV (R202–R204) -/

/-- Programs outstanding on a spindle, of every workgroup. -/
def State.outstanding (s : State) (core eng : Nat) : List Prog :=
  s.progs.filter (fun p => p.core == core && p.eng == eng && !p.ended)

/-- A program as FORK queues it (R199, R202). -/
def Team.newProg (t : Team) (uid core eng seq : Nat) (addr : DWord) (arg : Word) : Prog where
  uid := uid
  core := core
  eng := eng
  wg := t.wg
  team := t.uid
  seq := seq
  queued := true
  ended := false
  abnormal := false
  code := 0
  state := 1
  exiting := false
  scope := t.scope
  pc := addr
  idx := 0
  clause := none
  s := tset 0 [] 0 arg
  flags := 0
  mode := t.mode
  clauses := 0
  waitTicket := none
  opSeq := 0

/-- An engine code (R16). -/
def engOk (c : Code) : Bool := decide (c.toNat < 2)

/-- FORK (R202): a release at SCOPE that the program's start waits for. -/
def execFork (d a b : Code) (s : State) : Host.Outcome State Fault Refusal :=
  issue { whole := true, forbidden := 1 } { reads := [(a, 2), (b, 1)], writes := [] }
    (fun t s => okCond (engOk d && sbaseOk t false a && srcOk t false b) ++
      (if t.leader.isNone then []
       else alignCond (t.lead64 a) ++
        whenCond (decide (4 ≤ (s.outstanding (s.teamCore t) d.toNat).length)) tFORKQ))
    (fun s =>
      match s.cur.leader with
      | none => .done s
      | some l =>
        let p := s.cur.newProg s.nextUid s.curCore d.toNat s.nextSeq (s.cur.opnd64 l a) (s.cur.opnd32 l b)
        .done { s.takeSeq with progs := s.progs ++ [p], nextUid := s.nextUid + 1 }) s

/-- RDV (R203): the programs it reports are forgotten. -/
def execRdv (d a : Code) (s : State) : Host.Outcome State Fault Refusal :=
  issue { whole := true, forbidden := 1 } { reads := [], writes := [(d, 1)] }
    (fun _ _ => okCond (szOk false d && engOk a))
    (fun s =>
      let mine (p : Prog) : Bool := p.team == s.cur.uid && p.eng == a.toNat
      let ps := s.progs.filter mine
      if ps.any (fun p => !p.ended) then s.parkOn .rdv
      else
        let code := ((ps.find? (fun p => p.abnormal)).map Prog.code).getD 0
        let s := { s.unpark with progs := s.progs.filter (fun (p : Prog) => !mine p) }
        s.putStatus d (BitVec.ofNat 32 code)) s

/-- A program's place among the waiters of semaphores, withdrawn (R204). -/
def Wg.withdraw (w : Wg) (ticket : Nat) : Wg :=
  { w with sems := w.sems.map (fun (m : Sem) => { m with waiters := m.waiters.filter (fun e => decide (e.1 ≠ ticket)) }) }

/-- SPINDLE_PROGRAM_START (R199, R202): the next queued program, once its FORK's release is met. -/
def execSpindleProgramStart (core eng : Nat) (s : State) : Host.Outcome State Fault Refusal :=
  .next (let ps := s.outstanding core eng
    if ps.any (fun p => !p.queued) then s
    else
      match ps.head? with
      | none => s
      | some p =>
        if s.accessesDone p.team p.seq p.scope then s.modProg p.uid (fun q => { q with queued := false }) else s)

/-- Whether every operation and copy that a program issued is complete at its SCOPE (R201). -/
def State.progDone (s : State) (p : Prog) : Bool :=
  !s.pendingTags.any (fun t => t.team == p.uid && decide (2 ≤ p.scope)) &&
    !s.peerTags.any (fun t => t.team == p.uid && decide (p.scope = 5)) &&
    !s.xfers.any (fun x => x.issuer == p.uid && !x.done) &&
    !(tget [] s.matrix p.core).any (fun o => o.prog == some p.uid)

/-- The copies of a program that has ended and that no batch holds are forgotten (R201). -/
def State.dropOpen (s : State) (u : Nat) : State :=
  { s with xfers := s.xfers.filter (fun (x : Xfer) => !(x.issuer == u && x.done && x.batch.isNone)) }

/-- SPINDLE_PROGRAM_END (R201): a program that executed EXIT, or stopped abnormally, has ended once its work is performed. -/
def execSpindleProgramEnd (core eng : Nat) (s : State) : Host.Outcome State Fault Refusal :=
  .next (match (s.outstanding core eng).find? (fun p => !p.queued && p.exiting) with
    | some p =>
      if s.progDone p then
        (s.modProg p.uid (fun q => { q with ended := true, clause := none, state := 0 })).modWg p.wg (fun w =>
          { w with sprog := w.sprog.zipIdx.map (fun h => if h.2 = eng then { h.1 with clauses := min 0xFFFFF p.clauses } else h.1) })
          |>.dropOpen p.uid
      else s
    | none => s)

/-! ## Copies (R207–R213) -/

/-- A copy address operand: an even v below A, an even s, k0 or k2 (R212). -/
def copyOk (t : Team) (c : Code) : Bool := vRun t 2 2 c || sRun 2 2 c || kRun t 2 2 c

/-- Whether CRA takes a TYPE at a size (R213). -/
def craTypeOk (ty size : Nat) : Bool :=
  if ty ≤ 1 || ty == 4 || ty == 6 || ty == 7 then true else if wide ty then decide (8 ≤ size) else false

/-- Whether an address is in the lane window, which a spindle program may not name (R200). -/
def laneWindow (va : DWord) : Bool := inAperture va && decide ((va.toNat - apertureBase) / 2 ^ 40 = 0)

/-- Whether a spindle program issues, and on which spindle. -/
def State.spindleEng (s : State) : Option Nat :=
  match s.issuer with
  | .team => none
  | .spindle n => (s.prog? n).map Prog.eng

/-- The stage-1 conditions of one address of a copy (R207). -/
def State.copyCond (s : State) (t : Team) (need : Need) (size l : Nat) (va : DWord) : List Cond :=
  (if s.spindleEng.isSome && laneWindow va then [(some l, tACCESS 1)] else []) ++
    (match s.stage1 t l va size need with
      | .error x => [(some l, x)]
      | .ok _ => [])

/-- Where an address of a copy stands after stage 1. -/
def State.copyPre (s : State) (need : Need) (size l : Nat) (va : DWord) : Option DWord × Space × Nat :=
  match s.preOf s.cur need l va size with
  | .direct space loc => (none, space, loc)
  | .virtual va => (some va, .hardware, 0)

/-- A lane's transfer. -/
def State.newXfer (s : State) (size : Nat) (add : Option Nat) (l : Nat) (dst src : DWord) : Xfer :=
  let x := s.copyPre (copyNeed add.isSome) size l dst
  let y := s.copyPre Need.load size l src
  { core := s.curCore
    issuer := s.cur.uid
    spindle := s.spindleEng.isSome
    ctx := s.curCtxNum
    wg := s.cur.wg
    seq := s.nextSeq
    dstVa := x.1
    dstSpace := x.2.1
    dst := x.2.2
    srcVa := y.1
    srcSpace := y.2.1
    src := y.2.2
    size := size
    add := add
    staged := none
    granted := false
    dropped := false
    done := false
    retried := false
    asked := []
    tags := []
    batch := none
    scope := s.cur.scope
    flag := s.cur.setb }

/-- The issue of a copy: stage 1 is precise; the streamer does the rest (R211). Lanes' transfers are unordered: hardware
chooses (R210, log entry 8). -/
def issueCopy (size : Nat) (adds : Bool) (a b : Code) (s : State) : Host.Outcome State Fault Refusal :=
  issue { cls := 2, forbidden := 1, spindle := true } { reads := [(a, 2), (b, 2)], writes := [] }
    (fun t s =>
      whenCond (s.spindleEng == some 0) tILLEGAL ++
      (if copyOk t a && copyOk t b && (!adds || craTypeOk t.type size) then
        t.contribLanes.flatMap (fun l =>
          s.copyCond t (copyNeed adds) size l (t.opnd64 l a) ++ s.copyCond t Need.load size l (t.opnd64 l b))
      else [(none, tOPERAND)]))
    (fun s =>
      let t := s.cur
      let add := if adds then some t.type else none
      let xs := t.contribLanes.map (fun l => s.newXfer size add l (t.opnd64 l a) (t.opnd64 l b))
      .done { s.takeSeq.draw with xfers := s.xfers ++ pickOrder s.fresh xs.length xs }) s

/-- CPY4 (R212). -/
def execCpy4 (a b : Code) (s : State) : Host.Outcome State Fault Refusal := issueCopy 4 false a b s
/-- CPY8 (R212). -/
def execCpy8 (a b : Code) (s : State) : Host.Outcome State Fault Refusal := issueCopy 8 false a b s
/-- CPY16 (R212). -/
def execCpy16 (a b : Code) (s : State) : Host.Outcome State Fault Refusal := issueCopy 16 false a b s
/-- CRA4 (R213). -/
def execCra4 (a b : Code) (s : State) : Host.Outcome State Fault Refusal := issueCopy 4 true a b s
/-- CRA8 (R213). -/
def execCra8 (a b : Code) (s : State) : Host.Outcome State Fault Refusal := issueCopy 8 true a b s
/-- CRA16 (R213). -/
def execCra16 (a b : Code) (s : State) : Host.Outcome State Fault Refusal := issueCopy 16 true a b s

/-- The transfers of one copy instruction. -/
def State.copyOf (s : State) (core seq : Nat) : List Xfer := s.xfers.filter (fun x => x.core == core && x.seq == seq)

/-- A copy that cannot go on: its transfers end with no further write, its held lines are released (R211). -/
def State.failCopy (s : State) (core seq : Nat) : State :=
  (s.modCopy core seq (fun x =>
    if x.done then { x with asked := [], tags := [] } else { x with done := true, dropped := true, asked := [], tags := [] })).releaseIdle
    core

/-- One address of a transfer translated: its place, or the miss, or a final fault. -/
def State.translateEnd (s : State) (ctx : Nat) (va : Option DWord) (need : Need) (space : Space) (loc : Nat) : State × Site :=
  match va with
  | none => (s, .at_ space loc)
  | some v => s.translate ctx v need

/-- Translates the addresses of one copy instruction: its misses, and whether a fault is final (R211). -/
def State.translateCopy (s : State) (xs : List Xfer) : State × List (Trap × Nat × Nat) × Bool :=
  xs.foldl (fun r x =>
    let need := copyNeed x.add.isSome
    let d := r.1.translateEnd x.ctx x.dstVa need x.dstSpace x.dst
    let c := d.1.translateEnd x.ctx x.srcVa Need.load x.srcSpace x.src
    let miss (n : Need) (i : Site) : List (Trap × Nat × Nat) :=
      match i with
      | .miss t p => [(t, p, n.access)]
      | _ => []
    let gone (i : Site) : Bool :=
      match i with
      | .gone _ => true
      | _ => false
    let s := match d.2, c.2 with
      | .at_ ds dl, .at_ ss sl => c.1.modXfer x { x with dstSpace := ds, dst := dl, srcSpace := ss, src := sl }
      | _, _ => c.1
    (s, r.2.1 ++ miss need d.2 ++ miss Need.load c.2, r.2.2 || gone d.2 || gone c.2)) (s, [], false)

/-- The first stage of a copy: every page of the instruction translated, or in fault service, or the copy in error; a region switch
that drains one of the pages holds it back (R346). -/
def State.resolveCopy (s : State) (core seq : Nat) : State :=
  let xs := s.copyOf core seq
  let r := s.translateCopy xs
  if r.2.2 then r.1.failCopy core seq
  else if r.2.1 = [] && (r.1.copyOf core seq).any (fun x => s.drained x.dst || s.drained x.src) then r.1
  else if r.2.1 = [] then r.1.modCopy core seq (fun x => { x with dstVa := none, srcVa := none })
  else
    let wg := (xs.head?.map Xfer.wg).getD 0
    let s := r.2.1.foldl (fun s m =>
      s.askPage ((xs.head?.map Xfer.ctx).getD 0) m.2.1 m.2.2 m.1 (2, seq) (s.partyArg wg 0 2)) s
    let s := s.modCopy core seq (fun x => { x with asked := (r.2.1.map (fun m => m.2.1)).eraseDups })
    match xs.head? with
    | some x => if x.spindle then s.modProg x.issuer (fun p => { p with state := if p.state = 4 then 4 else 3 }) else s
    | none => s

/-- Sources on other devices are asked for (R424, R437). -/
def State.fetchRemote (s : State) (x : Xfer) : State :=
  let tag := s.fab.nextTag
  let wait (s : State) : State := s.modXfer x { x with tags := [tag] }
  match x.srcSpace with
  | .peer d memSide =>
    if !memSide && (s.proxyLine (lineOf x.src)).isSome then
      s.modXfer x { x with staged := some (BitVec.ofNat 128 (s.memNat x.src x.size)) }
    else if memSide then wait (s.request d x.ctx 0x03 x.size (locOff x.src) (lineOf x.src) true [] {})
    else wait (s.request d x.ctx 0x00 0 (locOff x.src / 128 * 128) (lineOf x.src) true [] {})
  | .member m =>
    if ((s.wg? x.wg).bind Wg.hank).any (fun h => h.departed.contains m) then s.modXfer x { x with done := true, dropped := true }
    else wait (s.windowRequest x.wg 0x37 x.size x.src [] {})
  | _ => s

/-- CRA fetches every source of the instruction before it adds anything (R213); a source that other copies hold is written
by them first (R209). -/
def State.stageCopy (s : State) (core seq : Nat) : State :=
  (s.copyOf core seq).foldl (fun s x =>
    if x.staged.isSome || x.done then s
    else if s.poisoned x.src x.size then s.copyPoison x
    else
      let s := s.recallCopies x.src x.size
      s.modXfer x { x with staged := some (BitVec.ofNat 128 (s.readAt x.core x.issuer x.srcSpace x.src x.size)) }) s

/-- Whether a host holds back bytes of a transfer's source (R209, R388). -/
def State.sourceHeld (s : State) (x : Xfer) : Bool :=
  !x.done && x.staged.isNone && !x.farSource && x.srcVa.isNone && s.hostOwned (lineOf x.src)

/-- Whether a transfer's destination line may be held for it: its pages are translated, its instruction has fetched what it
must fetch before it writes, no host holds back bytes of its source, and no earlier copy of its issuer must be written first
(R208–R211, R213). -/
def State.mayHold (s : State) (x : Xfer) : Bool :=
  (s.copyOf x.core x.seq).all (fun y => y.dstVa.isNone && y.srcVa.isNone &&
    (y.done || y.staged.isSome || (!y.farSource && y.add.isNone))) && !s.copyWaits x && !s.sourceHeld x

/-- Holds on the destination lines are requested; lines without a directory entry are held at once (R208). -/
def State.holdLines (s : State) (core seq : Nat) : State :=
  (s.copyOf core seq).foldl (fun s x =>
    if x.granted || x.done || !s.mayHold x then s
    else if !x.viaHome || (decide (x.dstSpace = .handover) && !s.deviceHolds x.dst) then s.modXfer x { x with granted := true }
    else
      let line := lineOf x.dst
      if s.coh.reqs.any (fun r => r.agent == 256 + core && r.line == line) ||
          s.coh.txns.any (fun t => t.agent == 256 + core && t.line == line) then s
      else { s with coh := { s.coh with reqs := s.coh.reqs ++ [⟨.getH, 256 + core, line, [], [], none⟩] } }) s

/-- A transfer to another device leaves for it, each element add on its own (R207, R213). In a hank window it is one request, done
when the member's device has answered: a live barrier word there drops it whole (R207, R437). -/
def State.sendXfer (s : State) (x : Xfer) : State :=
  let v := match x.staged with
    | some v => v.toNat
    | none => s.readAt x.core x.issuer x.srcSpace x.src x.size
  let tag : Tag := ⟨x.issuer, x.seq, 15, x.scope, none⟩
  let whole : Bool := match x.dstSpace with
    | .member _ => true
    | _ => x.add.isNone
  let n := if whole then x.size else if x.add.any wide then 8 else 4
  let departed : Bool := match x.dstSpace, (s.wg? x.wg).bind Wg.hank with
    | .member m, some h => h.departed.contains m
    | _, _ => false
  let sent : Xfer := match x.dstSpace with
    | .member _ => { x with tags := (List.range (x.size / n)).map (fun i => (s.fab.nextTag + i) % 4096) }
    | _ => { x with done := true }
  if departed then s.modXfer x { x with done := true, dropped := true }
  else
    let s := s.modXfer x sent
    let entry (i : Nat) : StoreEntry :=
      { core := x.core
        space := x.dstSpace
        loc := x.dst + n * i
        cells := if x.add.isSome then [] else cellsFrom x.dst (leBytes x.size v)
        red := x.add.map (fun ty => ⟨.add, ty, BitVec.ofNat 64 (v / 256 ^ (n * i) % 256 ^ n), n⟩)
        hold := []
        strong := []
        tag := tag
        merged := [] }
    match x.dstSpace, x.add with
    | .member _, some ty => s.windowRequest x.wg 0x39 (atMisc .add ty) x.dst (leBytes x.size v) { write := [tag] }
    | _, _ => (List.range (x.size / n)).foldl (fun s i => s.sendStore (entry i) x.wg) s

/-- One step of the streamer for a transfer: translation, fetching, holds, and at last the write. A transfer whose source or
destination an earlier copy of its issuer writes waits until that copy's write can be brought about, so that it finds it
(R208, R210). -/
def State.stepCopy (s : State) (x : Xfer) : State :=
  let xs := s.copyOf x.core x.seq
  if x.done || decide (x.tags ≠ []) ||
      xs.any (fun y => decide (y.asked ≠ []) || (decide (y.tags ≠ []) && !y.granted)) then s
  else if xs.any (fun y => y.dstVa.isSome || y.srcVa.isSome) then s.resolveCopy x.core x.seq
  else if xs.any (fun y => (y == x || x.add.isSome) && !y.done && s.copyWaits y) then s
  else if !x.granted && xs.any s.sourceHeld then
    (xs.filter s.sourceHeld).foldl (fun s y => s.snoopLine (lineOf y.src) true) s
  else
    match xs.find? (fun y => y.farSource && y.staged.isNone && !y.done && !s.copyWaits y) with
    | some y => s.fetchRemote y
    | none =>
      if x.add.isSome && xs.any (fun y => y.staged.isNone && !y.done) then s.stageCopy x.core x.seq
      else if !x.granted then s.holdLines x.core x.seq
      else if x.farDest then s.sendXfer x
      else s.recallCopies x.dst x.size

/-- COPY_TRANSFER (R209) for the selected transfer. -/
def execCopyTransfer (s : State) : Host.Outcome State Fault Refusal :=
  .next (match s.xfers[s.sel]? with
    | some x => s.stepCopy x
    | none => s)

/-! ## Semaphores (R222–R224) -/

/-- Waiters served in order while the value suffices. -/
def Sem.serve (m : Sem) : Nat → Sem
  | 0 => m
  | n + 1 =>
    match m.waiters with
    | (_, amount) :: rest => if amount.toNat ≤ m.value.toNat then Sem.serve ⟨m.value - amount, rest⟩ n else m
    | [] => m

/-- Changes a semaphore of a workgroup and looks at its waiters again. -/
def Wg.modSem (w : Wg) (i : Nat) (f : Sem → Sem) : Wg :=
  { w with sems := w.sems.zipIdx.map (fun e =>
      if e.2 = i then (let m := f e.1; m.serve m.waiters.length) else e.1) }

/-- A saturating increment (R222). -/
def satAdd (x y : Word) : Word := BitVec.ofNat 32 (min 0xFFFFFFFF (x.toNat + y.toNat))

/-- The conditions of a semaphore instruction. -/
def semConds (a b : Code) (dOk : Bool) (t : Team) (s : State) : List Cond :=
  okCond (skOk t false a && skOk t false b && dOk) ++
    whenCond (t.leader.isSome && decide (((s.wg? t.wg).map (fun w => w.sems.length)).getD 0 ≤ (t.lead32 a).toNat)) (tACCESS 5)

/-- A semaphore of the issuing workgroup. -/
def State.curSem (s : State) (i : Nat) : Sem := ((s.curWg.bind (fun w => w.sems[i]?))).getD ⟨0, []⟩

/-- SEMSET (R224): a release. -/
def execSemset (a b : Code) (s : State) : Host.Outcome State Fault Refusal :=
  issue { whole := true, forbidden := 1 } { reads := [(a, 1), (b, 1)], writes := [] } (semConds a b true)
    (fun s =>
      match s.cur.leader with
      | none => .done s
      | some l => s.released s.cur.scope (fun s => .done (s.modWg s.cur.wg (fun w =>
          w.modSem (s.cur.opnd32 l a).toNat (fun m => { m with value := s.cur.opnd32 l b }))))) s

/-- SEMINC (R224): a release. -/
def execSeminc (a b : Code) (s : State) : Host.Outcome State Fault Refusal :=
  issue { whole := true, forbidden := 1, spindle := true } { reads := [(a, 1), (b, 1)], writes := [] } (semConds a b true)
    (fun s =>
      match s.cur.leader with
      | none => .done s
      | some l => s.released s.cur.scope (fun s => .done (s.modWg s.cur.wg (fun w =>
          w.modSem (s.cur.opnd32 l a).toNat (fun m => { m with value := satAdd m.value (s.cur.opnd32 l b) }))))) s

/-- SEMACQ (R224): parks behind earlier waiters and until the value suffices; an acquire. -/
def execSemacq (a b : Code) (s : State) : Host.Outcome State Fault Refusal :=
  issue { whole := true, forbidden := 1, spindle := true } { reads := [(a, 1), (b, 1)], writes := [] } (semConds a b true)
    (fun s =>
      match s.cur.leader with
      | none => .done s
      | some l =>
        let i := (s.cur.opnd32 l a).toNat
        let n := s.cur.opnd32 l b
        let m := s.curSem i
        match s.cur.park with
        | .semacq _ k => if ((s.curWg.map Wg.sems).getD []).any (fun m => m.waiters.any (fun e => e.1 == k)) then .stay s else .done s.unpark
        | _ =>
          if m.waiters = [] && decide (n.toNat ≤ m.value.toNat) then
            .done (s.modWg s.cur.wg (fun w => w.modSem i (fun m => { m with value := m.value - n })))
          else
            let k := s.nextSeq
            (s.takeSeq.modWg s.cur.wg (fun w => w.modSem i (fun m => { m with waiters := m.waiters ++ [(k, n)] }))).parkOn
              (.semacq i k)) s

/-- SEMTRY (R224): an acquire when it succeeds. -/
def execSemtry (d a b : Code) (s : State) : Host.Outcome State Fault Refusal :=
  issue { whole := true, forbidden := 1 } { reads := [(a, 1), (b, 1)], writes := [] } (semConds a b (predOk false d))
    (fun s =>
      match s.cur.leader with
      | none => .done s
      | some l =>
        let i := (s.cur.opnd32 l a).toNat
        let n := s.cur.opnd32 l b
        let m := s.curSem i
        let ok := decide (m.waiters = []) && decide (n.toNat ≤ m.value.toNat)
        let s := if ok then s.modWg s.cur.wg (fun w => w.modSem i (fun m => { m with value := m.value - n })) else s
        .done (s.setCur (s.cur.pset d.toNat s.cur.contrib (if ok then s.cur.contrib else 0)))) s

/-! ## CLOSE and batches (R214–R218) -/

/-- The team whose counter names an issuer's batches (R214). -/
def State.batchOwner (s : State) : Nat :=
  match s.issuer with
  | .team => s.cur.uid
  | .spindle n => ((s.prog? n).map Prog.team).getD 0

/-- Whether a selector is one of R216's. -/
def selOk (x : Word) : Bool := decide (x.toNat < 64) || decide (x = 0x100) || decide (x = 0xFFFFFFFF)

/-- The conditions of CLOSE. -/
def closeConds (d a b : Code) (t : Team) (s : State) : List Cond :=
  let sel := t.lead32 a
  okCond (szOk false d && skOk t false a && sbaseOk t true b && (t.leader.isNone || selOk sel)) ++
    (if t.leader.isNone then []
     else
      whenCond (decide (sel.toNat < 64) &&
        decide (((s.wg? t.wg).map (fun w => w.sems.length)).getD 0 ≤ sel.toNat)) (tACCESS 5) ++
      (if sel = 0x100 then s.barrierConds t b 8 else []))

/-- Incomplete batches of a team. -/
def State.openBatches (s : State) (team : Nat) : Nat := (s.batches.filter (fun b => b.team == team && !b.done)).length

/-- What CLOSE reads: the barrier address only where the selector asks for it (R216). A spindle program's operand codes
are restricted whether they are read or not (R200). -/
def State.closeReads (s : State) (a b : Code) : List (Code × Nat) :=
  (a, 1) :: (if s.spindleEng.isSome || s.cur.lead32 a == 0x100 then [(b, 2)] else [])

/-- CLOSE (R216). -/
def execClose (d a b : Code) (s : State) : Host.Outcome State Fault Refusal :=
  issue { whole := true, forbidden := 1, spindle := true } { reads := s.closeReads a b, writes := [(d, 1)] } (closeConds d a b)
    (fun s =>
      match s.cur.leader with
      | none => .done s
      | some l =>
        let owner := s.batchOwner
        if 32767 ≤ s.openBatches owner then s.parkOn .access
        else
          let s := s.unpark
          let sel := s.cur.opnd32 l a
          let issuer := s.cur.uid
          let p : Space × Nat := if sel = 0x100 then s.barrierAt (s.cur.opnd64 l b) else (.store, 0)
          let num := (((s.team? owner).map Team.batchLast).getD 0) + 1
          let far : Bool := match p.1 with
            | .member _ => true
            | _ => false
          let tag := s.fab.nextTag
          let x : Batch := ⟨owner, num, s.cur.wg, s.cur.scope, sel, p.1, p.2, bGen (cellNat s.mem p.2 8),
            if far then some tag else none, false, false⟩
          let s := s.modTeam owner (fun t => { t with batchLast := num })
          let s := { s with
            batches := s.batches ++ [x]
            xfers := s.xfers.map (fun (y : Xfer) =>
              if y.issuer == issuer && y.batch.isNone then { y with batch := some (owner, num.toNat) } else y) }
          let s := if isS d then s.setCur (s.cur.sset (sNum d) (num.setWidth 32)) else s
          if far then
            let s := s.windowRequest s.cur.wg 0x37 8 p.2 [] {}
            if s.spindleEng.isSome then .done s else Res.withAsks [tag] true (.done s)
          else .done s) s

/-- An error of an engine's arrival, held for the team that owns the batch; SPROG keeps it once the team has exited
(R217, R219). -/
def State.batchErr (s : State) (team wg : Nat) (x : Trap) : State :=
  if (s.team? team).any (fun t => !t.ending) then s.modTeam team (fun t => { t with pendErrs := t.pendErrs ++ [x] })
  else s.modWg wg (fun w => { w with sprog := w.sprog.zipIdx.map (fun h =>
    if h.2 = 1 then { h.1 with err := true, code := if h.1.err then h.1.code else x.code } else h.1) })

/-- The arrival of a batch at its barrier word (R217, R254). -/
def State.batchArrive (s : State) (b : Batch) : State :=
  let m := ((s.team? b.team).map Team.index).getD 0
  match b.space with
  | .member k =>
    match (s.wg? b.wg).bind Wg.hank with
    | some h =>
      if h.departed.contains k then s.batchErr b.team b.wg (tHANKGONE k)
      else s.windowRequest b.wg 0x3C 5 b.loc (leBytes 8 (m + 256 * b.gen + 65536 * b.num.toNat)) { load := some b.team }
    | none => s
  | _ =>
    match (s.recallCopies b.loc 16).arriveAt b.loc m (some b.gen) with
    | (s, .dropped) => s.batchErr b.team b.wg (tBARGEN b.num.toNat)
    | (s, .overrun) => s.batchErr b.team b.wg (tBAROVER b.num.toNat)
    | (s, .counted) => s

/-- The transfers of a batch. -/
def State.batchXfers (s : State) (b : Batch) : List Xfer := s.xfers.filter (fun x => x.batch == some (b.team, b.num.toNat))

/-- Whether every transfer of a batch is written, and performed at its SCOPE, or dropped (R215). A barrier word that a write
under way still touches waits for that write (R286). -/
def State.batchReady (s : State) (b : Batch) : Bool :=
  b.genTag.isNone && !(decide (b.sel = 0x100) && !b.space.remote && s.wordBusy b.loc) && (s.batchXfers b).all (fun x => x.done &&
    (decide (b.scope ≠ 5) || !s.peerTags.any (fun t => t.team == x.issuer && t.seq == x.seq)))

/-- The selector's action (R216). -/
def State.batchAction (s : State) (b : Batch) : State :=
  if b.sel.toNat < 64 then s.modWg b.wg (fun w => w.modSem b.sel.toNat (fun m => { m with value := satAdd m.value 1 }))
  else if b.sel = 0x100 then s.batchArrive b
  else s

/-- A batch completes: its action is performed, an error is kept until WAITB reports it (R215, R218, R219). -/
def State.endBatch (s : State) (b : Batch) : State :=
  let bad := (s.batchXfers b).any (fun x => x.dropped)
  let awake := (s.team? b.team).any (fun t => !t.ending)
  let s := { s with
    xfers := s.xfers.filter (fun (x : Xfer) => !(x.batch == some (b.team, b.num.toNat)))
    batches := if bad && awake then s.batches.map (fun (c : Batch) => if c = b then { c with done := true, error := true } else c)
      else s.batches.filter (fun (c : Batch) => decide (c ≠ b)) }
  let s := if bad && !awake then s.batchErr b.team b.wg (tCOPYERR b.num.toNat) else s
  s.batchAction b

/-- BATCH_COMPLETION (R215) of the selected batch. -/
def execBatchCompletion (s : State) : Host.Outcome State Fault Refusal :=
  .next (match s.batches[s.sel]? with
    | some b => if !b.done && s.batchReady b then s.endBatch b else s
    | none => s)

/-! ## WAITB (R220) -/

/-- The oldest errored batch of a team that is not reported: closed earliest (R218). -/
def State.oldestError (s : State) (t : Team) : Option Batch :=
  (s.batches.filter (fun b => b.team == t.uid && b.done && b.error)).foldl (fun r b =>
    match r with
    | none => some b
    | some x => if (t.batchLast - x.num).toNat < (t.batchLast - b.num).toNat then some b else some x) none

/-- WAITB (R220): pending errors first, at issue and while it waits; then the batches. -/
def State.runWaitb (a : Code) (s : State) : Res :=
  match s.cur.leader with
  | none => .done s
  | some l =>
    let t := s.cur
    let e := s.oldestError t
    let errs := t.pendErrs ++ (e.map (fun b => tCOPYERR b.num.toNat)).toList
    match lowestTrap errs with
    | some x =>
      let s := if x.code = 9 then { s with batches := s.batches.filter (fun (b : Batch) => decide (some b ≠ e)) }
        else s.setCur { t with pendErrs := dropFirst x t.pendErrs }
      .trap s [(none, x)] 0
    | none =>
      let n : BitVec 16 := (t.opnd32 l a).setWidth 16
      let d := (t.batchLast - n).toNat
      if 32768 ≤ d then .done s.unpark
      else if s.batches.any (fun b => b.team == t.uid && !b.done &&
          decide (d ≤ (t.batchLast - b.num).toNat) && decide ((t.batchLast - b.num).toNat < 32768)) then s.parkOn .waitb
      else .done s.unpark

/-- WAITB (R220). -/
def execWaitb (a : Code) (s : State) : Host.Outcome State Fault Refusal :=
  issue { whole := true, forbidden := 1 } { reads := [(a, 1)], writes := [] } (fun t _ => okCond (skOk t false a))
    (State.runWaitb a) s

end Sys2Proof.Machine
end

