-- ==== Sys2Proof/Machine/MatrixNum.lean ====
section
/-! DEFINITION. The numbers of the matrix engine: formats, pairs and their K (R226, R229), exact group sums (R63, R64),
and the requantising of MTRQ (R250). -/

namespace Sys2Proof.Machine

/-! ## Formats and pairs (R226, R229) -/

/-- Bits of an element of a format code. -/
def fmtBits (f : Nat) : Nat :=
  match f with
  | 0 => 32
  | 1 => 64
  | 2 => 16
  | 3 => 16
  | 4 => 8
  | 5 => 8
  | 6 => 8
  | _ => 4

/-- Whether a format carries block scales: FP4 and QN4. -/
def fmtScaled (f : Nat) : Bool := f == 7 || f == 8

/-- The block length of a scaled format (R232). -/
def fmtBlock (f : Nat) : Nat := if f = 8 then 64 else 32

/-- E4M3 or E5M2. -/
def isFp8 (f : Nat) : Bool := f == 4 || f == 5
/-- BF16 or FP16. -/
def isHalf (f : Nat) : Bool := f == 2 || f == 3

/-- K of a pair of formats; none for a pair that the table does not hold (R226). -/
def pairK (fa fb : Nat) : Option Nat :=
  if fa == 8 && fb == 8 then some 256
  else if fa == 7 && fb == 7 then some 256
  else if fmtScaled fa && isFp8 fb then some 128
  else if isFp8 fa && isFp8 fb then some 128
  else if fa == 6 && fb == 6 then some 128
  else if fa == 8 && isHalf fb then some 64
  else if isHalf fa && isHalf fb then some 64
  else if fa == 0 && fb == 0 then some 32
  else if fa == 1 && fb == 1 then some 16
  else none

/-- The value of an element of a format (R43–R48). -/
def fmtNum (f x : Nat) : Num :=
  match f with
  | 0 => binary32.unpack x
  | 1 => binary64.unpack x
  | 2 => bfloat16.unpack x
  | 3 => binary16.unpack x
  | 4 => e4m3.unpack x
  | 5 => e5m2.unpack x
  | 6 => let v := toInt 8 true x; .fin (decide (v < 0)) v.natAbs 0
  | 7 => e2m1.unpack x
  | _ => qn4Num x

/-- The value of an E8M0 code (R44). -/
def e8m0Num (e : Nat) : Num := if e = 255 then .nan false else .fin false 1 ((e : Int) - 127)

/-! ## Group sums (R63, R64) -/

/-- An exact sum of products, rounded once to nearest-even: special values and signs as R64 says. -/
def groupSum (f : Fmt) (ps : List Num) : Nat :=
  let infs := ps.filterMap (fun p =>
    match p with
    | .inf n => some n
    | _ => none)
  if ps.any Num.isNan || (infs.contains true && infs.contains false) then f.nanCode
  else
    match infs.head? with
    | some n => f.signed n f.infCode
    | none =>
      let lo := ps.foldl (fun (l : Int) p =>
        match p with
        | .fin _ _ e => min l e
        | _ => l) 0
      let v := ps.foldl (fun (a : Int) p =>
        match p with
        | .fin n m e => a + sval n m e lo
        | _ => a) 0
      if v = 0 then (f.round Env.nearest (decide (ps ≠ []) && ps.all Num.neg) 0 0).bits
      else (f.round Env.nearest (decide (v < 0)) v.natAbs lo).bits

/-- The scales of a row's block. -/
def OperandRow.scale (r : OperandRow) (block : Nat) : Nat × Nat := r.scales.getD block (0, 0)

/-- A binary32 product rounded to nearest-even. -/
def mulBits (x : Nat) (y : Num) : Nat := (binary32.mul Env.nearest (binary32.unpack x) y).bits

/-- The value that group `g` of `n` elements adds (R63). -/
def groupValue (f : Fmt) (a b : OperandRow) (n g : Nat) : Nat :=
  let ks := (List.range n).map (fun i => g * n + i)
  let prods := ks.map (fun k => (mulNum (fmtNum a.fmt (a.elems.getD k 0)) (fmtNum b.fmt (b.elems.getD k 0))).1)
  if a.fmt = 8 || b.fmt = 8 then
    let sa := a.scale g
    let sb := b.scale g
    if (a.fmt = 8 && sa.1 = 0) || (b.fmt = 8 && sb.1 = 0) then 0
    else
      let s := groupSum f prods
      let s := if a.fmt = 8 then mulBits (mulBits s (.fin false sa.1 0)) (binary32.unpack sa.2) else s
      if b.fmt = 8 then mulBits (mulBits s (.fin false sb.1 0)) (binary32.unpack sb.2) else s
  else
    let one : Num := .fin false 1 0
    let sa := if a.fmt = 7 then e8m0Num (a.scale g).1 else one
    let sb := if b.fmt = 7 then e8m0Num (b.scale g).1 else one
    groupSum f (prods.map (fun p => (mulNum (mulNum p sa).1 sb).1))

/-- The length of a group (R63). -/
def groupLen (fa fb k : Nat) : Nat :=
  if fa = 8 || fb = 8 then 64 else if fa = 1 then 16 else if fa = 6 then k else 32

/-- One element of an MMA: the accumulator plus the groups in ascending order (R63). -/
def mmaElem (a b : OperandRow) (k acc : Nat) : Nat :=
  if a.fmt = 6 then
    let v := (List.range k).foldl (fun (s : Int) i =>
      s + toInt 8 true (a.elems.getD i 0) * toInt 8 true (b.elems.getD i 0)) (toInt 32 true acc)
    wrapInt 32 v
  else
    let f := if a.fmt = 1 then binary64 else binary32
    let n := groupLen a.fmt b.fmt k
    (List.range (k / n)).foldl (fun acc g =>
      (f.add Env.nearest (f.unpack acc) (f.unpack (groupValue f a b n g))).bits) acc

/-! ## MTRQ (R250) -/

/-- Whether |x| ≤ |y| for finite values. -/
def magLe (mx : Nat) (ex : Int) (my : Nat) (ey : Int) : Bool :=
  let lo := min ex ey
  decide (mx * 2 ^ (ex - lo).toNat ≤ my * 2 ^ (ey - lo).toNat)

/-- The greatest magnitude of finite values. -/
def maxMag (xs : List Num) : Nat × Int :=
  xs.foldl (fun r x =>
    match x with
    | .fin _ m e => if magLe m e r.1 r.2 then r else (m, e)
    | _ => r) (0, 0)

/-- Whether a value is not finite. -/
def notFinite (x : Num) : Bool :=
  match x with
  | .fin _ _ _ => false
  | _ => true

/-- ⌈M / F⌉ for finite magnitudes, F not zero. -/
def ceilDiv (m : Nat) (e : Int) (fm : Nat) (fe : Int) : Nat :=
  let lo := min e fe
  let n := m * 2 ^ (e - lo).toNat
  let d := fm * 2 ^ (fe - lo).toNat
  (n + d - 1) / d

/-- The QN4 code of x / (F × E8), compared exactly (R61). -/
def qn4Of (neg : Bool) (m : Nat) (e : Int) (fm : Nat) (fe : Int) (e8 : Nat) : Nat :=
  if m = 0 || e8 = 0 then 8
  else
    let lo := min e fe
    let x := m * 2 ^ (e - lo).toNat * 2048
    let d := fm * e8 * 2 ^ (fe - lo).toNat
    let i := ([173, 351, 539, 745, 982, 1280, 1749].filter (fun k => decide (k * d < x))).length
    if neg then 7 - i else 8 + i

/-- A square requantised to QN4: the skein scale, the E8 of each half row, the codes by row. -/
def requantQn4 (rows : List (List Num)) : Nat × List Nat × List (List Nat) :=
  let all := rows.flatten
  if all.any notFinite then
    (0x7FC00000, rows.flatMap (fun _ => [255, 255]), rows.map (fun r => r.map (fun _ => 8)))
  else
    let m := maxMag all
    let f := if m.1 = 0 then 0 else (binary32.div (Env.nearest.withRnd 3) (.fin false m.1 m.2) (.fin false 255 0)).bits
    let fm : Nat × Int := match binary32.unpack f with
      | .fin _ a b => (a, b)
      | _ => (1, 0)
    let e8 (b : List Num) : Nat := let mb := maxMag b; if mb.1 = 0 then 0 else ceilDiv mb.1 mb.2 fm.1 fm.2
    let codes (b : List Num) : List Nat :=
      let e := e8 b
      b.map (fun x =>
        match x with
        | .fin n a c => qn4Of n a c fm.1 fm.2 e
        | _ => 8)
    (f, rows.flatMap (fun r => [e8 (r.take 64), e8 (r.drop 64)]), rows.map (fun r => codes (r.take 64) ++ codes (r.drop 64)))

/-- The smallest E8M0 code e with M ≤ 6 × 2^(e − 127) (R250). -/
def fp4Scale (m : Nat) (e : Int) : Nat := ((List.range 255).find? (fun (c : Nat) => magLe m e 6 ((c : Int) - 127))).getD 254

/-- One block of 32 requantised to FP4: its scale code and its element codes. -/
def requantBlock (b : List Num) : Nat × List Nat :=
  if b.any notFinite then (0xFF, b.map (fun _ => 0))
  else
    let m := maxMag b
    let c := if m.1 = 0 then 0 else fp4Scale m.1 m.2
    (c, b.map (fun x =>
      match x with
      | .fin n a e => (e2m1.round Env.nearest n a (e - ((c : Int) - 127))).bits
      | _ => 0))

/-- A square requantised to FP4: block scales in order, and the codes by row. -/
def requantFp4 (rows : List (List Num)) : List Nat × List (List Nat) :=
  let bs := rows.map (fun r => (List.range 4).map (fun i => requantBlock ((r.drop (32 * i)).take 32)))
  (bs.flatMap (fun r => r.map (fun b => b.1)), bs.map (fun r => r.flatMap (fun b => b.2)))

/-- Nibbles packed into bytes, the even element low (R50). -/
def packNibbles : List Nat → List Byte
  | a :: b :: rest => BitVec.ofNat 8 (a % 16 + 16 * (b % 16)) :: packNibbles rest
  | [a] => [BitVec.ofNat 8 (a % 16)]
  | [] => []

end Sys2Proof.Machine
end

