-- ==== Sys2Proof/Machine/Matrix.lean ====
section
/-! DEFINITION. The matrix engine (R226–R251): reservations, the engine queue, operations in arrival order, strips, pairs,
and its steps. -/

namespace Sys2Proof.Machine

/-! ## Tiles (R227, R228) -/

/-- The key of a core's tile. -/
def tileKey (core tile : Nat) : Nat := core * 12 + tile

/-- The elements of a tile. -/
def State.tile (s : State) (core tile : Nat) : Table Word := tget [] s.tiles (tileKey core tile)

/-- The poisoned elements of a tile. -/
def State.tilePoisoned (s : State) (core tile : Nat) : List Nat := tget [] s.tilePoison (tileKey core tile)

/-- Replaces the elements of a tile. -/
def State.setTile (s : State) (core tile : Nat) (x : Table Word) : State :=
  { s with tiles := tset [] s.tiles (tileKey core tile) x }

/-- Replaces the poisoned elements of a tile. -/
def State.setTilePoison (s : State) (core tile : Nat) (x : List Nat) : State :=
  { s with tilePoison := tset [] s.tilePoison (tileKey core tile) x }

/-- A tile set to zero, its poison cleared. -/
def State.zeroTile (s : State) (core tile : Nat) : State := (s.setTile core tile []).setTilePoison core tile []

/-- The tiles that an operand names: one, or a pair of 64-bit elements. -/
def tilesOf (wd : Bool) (c : Code) : List Nat := if wd then [c.toNat, c.toNat + 1] else [c.toNat]

/-- A legal accumulator code (R16, R227). -/
def accOk (wd : Bool) (c : Code) : Bool := decide (c.toNat < 12) && (!wd || decide (c.toNat % 2 = 0))

/-- Whether a workgroup occupies its core: until it is saved or has ended. -/
def Wg.holdsCore (w : Wg) : Bool := w.phase == .resident || w.phase == .stopping || w.phase == .finishing

/-- Whether a reservation is for a saved workgroup, the member of a hank (R443). -/
def Reservation.saves (r : Reservation) (w : Wg) : Bool :=
  w.phase == .saved && w.hank.any (fun h => h.hank == r.hank && h.member == r.member &&
    r.launch.origin == some (h.key / 2 ^ 16, h.key % 2 ^ 16))

/-- Whether a reservation brings a saved workgroup back to a core: the member itself, or one that comes with it (R319, R443). -/
def Reservation.brings (r : Reservation) (w : Wg) (core : Nat) : Bool :=
  (r.core == core && r.saves w) || (w.phase == .saved && r.mates.contains (w.uid, core))

/-- The workgroups whose tiles and records take a core's: those that occupy it, and saved ones that it is reserved for
(R321, R434, R443). -/
def State.coreWgs (s : State) (core : Nat) : List Wg :=
  s.wgs.filter (fun w => (w.core == core && w.holdsCore) || s.fab.reserved.any (fun r => r.brings w core))

/-- The workgroup on a core that holds a tile. -/
def State.tileHolder (s : State) (core tile : Nat) : Option Nat :=
  ((s.coreWgs core).find? (fun w => w.tiles.contains tile)).map Wg.uid

/-- ACCESS for tiles: held by another workgroup, or free where that is not enough (R228). -/
def State.tileConds (s : State) (t : Team) (mustHold : Bool) (tiles : List Nat) : List Cond :=
  whenCond (tiles.any (fun n =>
    match s.tileHolder (s.teamCore t) n with
    | some u => u != t.wg
    | none => mustHold)) (tACCESS 4)

/-- Free tiles become the workgroup's and are set to zero (R228). -/
def State.claimTiles (s : State) (tiles : List Nat) : State :=
  tiles.foldl (fun s n =>
    match s.tileHolder s.curCore n with
    | some _ => s
    | none => (s.zeroTile s.curCore n).modWg s.cur.wg (fun w => { w with tiles := w.tiles ++ [n] })) s

/-! ## The queue (R236) -/

/-- The engine queue of a core. -/
def State.queue (s : State) (core : Nat) : List MOp := tget [] s.matrix core

/-- Replaces a core's queue. -/
def State.setQueue (s : State) (core : Nat) (q : List MOp) : State := { s with matrix := tset [] s.matrix core q }

/-- An operation of the issuer joins the queue; a full queue holds the issuer back. -/
def State.enqueue (s : State) (kind : MOpKind) (tile : Nat) (flag : Nat) : Res :=
  if 8 ≤ (s.queue s.curCore).length then s.parkOn .access
  else
    let s := s.unpark
    let o : MOp :=
      { kind := kind
        wg := s.cur.wg
        ctx := s.curCtxNum
        issuer := ⟨s.cur.uid, s.nextSeq, flag, s.cur.scope, none⟩
        prog := match s.issuer with
          | .team => none
          | .spindle n => some n
        tile := tile
        started := false
        stop := false
        strips := 0
        count := none
        bRows := []
        got := []
        ready := none
        depth := 0 }
    .done (s.takeSeq.setQueue s.curCore (s.queue s.curCore ++ [o]))

/-- Matrix operations on the stream spindle are ILLEGAL (R200). -/
def State.streamConds (s : State) : List Cond := whenCond (s.spindleEng == some 1) tILLEGAL

/-! ## Reservation records (R233–R235) -/

/-- The four words of a descriptor. -/
def Team.descWords (t : Team) (c : Code) : List Word := (List.range 4).map (fun i => t.opnd32 0 (codeAt c i))

/-- A descriptor code: a scalar multiple of four with four scalars, or k0 with LCNT 4 (R229). -/
def descOk (t : Team) (c : Code) : Bool := sRun 4 4 c || kRun t 4 4 c

/-- Word `i` of a descriptor as a number. -/
def descWord (ws : List Word) (i : Nat) : Nat := (ws.getD i 0).toNat

/-- Whether OBRES takes a descriptor's fields (R233, R234). -/
def obOk (ws : List Word) : Bool :=
  let w2 := descWord ws 2
  let w3 := descWord ws 3
  let f := bits w2 0 4
  let blen := bits w2 8 8
  decide (f < 9) && decide (bits w2 4 4 = 0) && decide (bits w2 16 16 = 0) &&
    decide (blen = if f = 8 then 64 else if f = 7 then 32 else 0) &&
    (fmtScaled f || decide (bits w3 0 16 = 0)) && (f == 8 || decide (bits w3 16 16 = 0))

/-- The live records of a core's workgroups. -/
def State.liveRecords (s : State) (core : Nat) : List ObRecord :=
  (s.coreWgs core).flatMap (fun w => w.records)

/-- Whether BASE and SIZE keep R233. -/
def obFits (ws : List Word) : Bool :=
  let base := descWord ws 0
  let size := descWord ws 1
  decide (base ≤ 0x5FF80) && decide (base % 128 = 0) && decide (0 < size) && decide (size % 128 = 0) &&
    decide (base + size ≤ 0x60000)

/-- Whether BASE and SIZE keep R233 and overlap no live record. -/
def State.obRange (s : State) (core : Nat) (ws : List Word) : Bool :=
  obFits ws && !(s.liveRecords core).any (fun r => overlaps (descWord ws 0) (descWord ws 1) r.base r.size)

/-- Whether an operation uses a record. -/
def MOp.usesRecord (o : MOp) (r : ObRecord) : Bool :=
  match o.kind with
  | .mma _ a b => a.record == some r || b.record == some r
  | .mtrq a _ x => a.record == some r || x == r
  | _ => false

/-- Released records of a core that operations still use (R235). -/
def State.heldRecords (s : State) (core : Nat) : List ObRecord :=
  (tget [] s.freed core).filter (fun r => (s.queue core).any (fun o => o.usesRecord r))

/-- OBRES (R234). DESIGN CHOICE: of several free numbers it takes the lowest. -/
def execObres (d a : Code) (s : State) : Host.Outcome State Fault Refusal :=
  issue { whole := true } { reads := [(a, 4)], writes := [(d, 1)] }
    (fun t s => okCond (szOk false d && descOk t a && (t.leader.isNone || obOk (t.descWords a))) ++
      whenCond (t.leader.isSome && !s.obRange (s.teamCore t) (t.descWords a))
        (if obFits (t.descWords a) then tACCESS 4 else tACCESS 1))
    (fun s =>
      if s.cur.leader.isNone then .done s
      else
        let ws := s.cur.descWords a
        let core := s.curCore
        let held := s.heldRecords core
        let live := s.liveRecords core
        let put (s : State) (x : Word) : Res := s.putStatus d x
        if held.any (fun r => overlaps (descWord ws 0) (descWord ws 1) r.base r.size) then s.parkOn .access
        else if 16 ≤ live.length then put s.unpark 0xFFFFFFFF
        else
          match (List.range 16).find? (fun n => !live.any (fun r => r.num == n) && !held.any (fun r => r.num == n)) with
          | none => s.parkOn .access
          | some n =>
            let w2 := descWord ws 2
            let w3 := descWord ws 3
            let r : ObRecord := ⟨n, descWord ws 0, descWord ws 1, bits w2 0 4, bits w3 0 16, bits w3 16 16, true⟩
            let s := { s.unpark with freed := tset [] s.freed core held }
            put (s.modWg s.cur.wg (fun w => { w with records := w.records ++ [r] })) (BitVec.ofNat 32 n)) s

/-- OBFREE (R235). -/
def execObfree (a : Code) (s : State) : Host.Outcome State Fault Refusal :=
  issue { whole := true } { reads := [(a, 1)], writes := [] }
    (fun t s => okCond (skOk t false a) ++
      whenCond (t.leader.isSome && !(((s.wg? t.wg).map Wg.records).getD []).any (fun r => r.num == (t.lead32 a).toNat)) (tACCESS 4))
    (fun s =>
      match s.cur.leader with
      | none => .done s
      | some l =>
        let n := (s.cur.opnd32 l a).toNat
        let gone := ((s.curWg.map Wg.records).getD []).filter (fun r => r.num == n)
        let s := s.modWg s.cur.wg (fun w => { w with records := w.records.filter (fun r => !(r.num == n)) })
        .done { s with freed := tset [] s.freed s.curCore (s.heldRecords s.curCore ++ gone) }) s

/-! ## Operands (R229, R230) -/

/-- Whether an address is in the operand-buffer window. -/
def inBuffer (va : DWord) : Bool := inAperture va && decide ((va.toNat - apertureBase) / 2 ^ 40 = 4)

/-- The offset of an operand-buffer address. -/
def bufferOff (va : DWord) : Nat := (va.toNat - apertureBase) % 2 ^ 40

/-- The record of a workgroup that holds an address. -/
def Wg.recordAt (w : Wg) (va : DWord) : Option ObRecord :=
  if inBuffer va then w.records.find? (fun r => decide (r.base ≤ bufferOff va) && decide (bufferOff va < r.base + r.size))
  else none

/-- An operand from its descriptor words. -/
def Wg.operand (w : Wg) (ws : List Word) : Operand :=
  let addr := pairOf (ws.getD 0 0) (ws.getD 1 0)
  let rec? := w.recordAt addr
  { addr := addr
    stride := descWord ws 2
    fmt := match rec? with
      | some r => r.fmt
      | none => bits (descWord ws 3) 0 4
    srec := match rec? with
      | some _ => 0
      | none => ((ws.getD 3 0).extractLsb' 8 24).toInt
    record := rec? }

/-- OPERAND conditions of word 3, which a record replaces (R229). -/
def descFieldsOk (o : Operand) (ws : List Word) : Bool :=
  o.record.isSome || inBuffer o.addr ||
    (decide (o.fmt < 9) && decide (bits (descWord ws 3) 4 4 = 0) && (fmtScaled o.fmt || decide (o.srec = 0)))

/-- Bytes of a row of K elements. -/
def rowBytes (fmt k : Nat) : Nat := k * fmtBits fmt / 8

/-- The number of the first element of a row (R232, R233). -/
def Operand.elemNum (o : Operand) (row : Nat) : Nat :=
  match o.record with
  | some r => 2 * (bufferOff o.addr - r.base + row * o.stride)
  | none => 2 * (row * o.stride)

/-- Whether a scaled operand's scales of its last element lie within its record (R233). -/
def Operand.scalesFit (o : Operand) (k : Nat) : Bool :=
  match o.record with
  | none => true
  | some r =>
    !fmtScaled o.fmt ||
      (let n := o.elemNum 127 + k - 1
       decide (16 * r.bsoff + n / fmtBlock o.fmt < r.size) &&
         (o.fmt != 8 || decide (16 * r.ssoff + 4 * (n / 16384) + 4 ≤ r.size)))

/-- An address in the operand buffer that no record of the workgroup holds. -/
def Operand.stray (o : Operand) : Bool := inBuffer o.addr && o.record.isNone

/-- ALIGN (R230); an operand outside every record has no format to ask about. -/
def Operand.alignConds (o : Operand) : List Cond :=
  whenCond (decide (o.stride % 16 ≠ 0) || decide (o.addr.toNat % 16 ≠ 0) ||
    (o.fmt == 8 && !o.stray && (decide (o.stride % 32 ≠ 0) || (match o.record with
      | some r => decide ((bufferOff o.addr - r.base) % 32 ≠ 0)
      | none => false)))) tALIGN

/-- What an operand outside every record raises (R230). -/
def Operand.strayConds (o : Operand) : List Cond := o.alignConds ++ whenCond o.stray (tACCESS 1)

/-- The conditions of R230 on an operand with rows of `k` elements. An extent with a non-canonical address raises none of them: R230
and R130 leave open whether it is ACCESS at issue, and the engine ends the operation with PAGE where it translates the address
(DESIGN CHOICE, log entry 75). -/
def Operand.conds (o : Operand) (k : Nat) : List Cond :=
  let rb := rowBytes o.fmt k
  let extent := 127 * o.stride + rb
  whenCond (decide (o.stride < rb)) tOPERAND ++
    o.alignConds ++
    whenCond (match o.record with
      | some r => !(decide (bufferOff o.addr + extent ≤ r.base + r.size) && o.scalesFit k)
      | none => decide (apertureBase < o.addr.toNat + extent)) (tACCESS 1)

/-! ## Issue: MZERO, MMA, MMAP, LDACC, STACC, MTRQ (R243–R249) -/

/-- MZERO (R243). -/
def execMzero (d : Code) (s : State) : Host.Outcome State Fault Refusal :=
  issue { cls := 2, whole := true, spindle := true } Uses.none
    (fun t s => s.streamConds ++ okCond (accOk (wide t.type) d) ++
      (if t.leader.isNone then [] else s.tileConds t false (tilesOf (wide t.type) d)))
    (fun s =>
      if s.cur.leader.isNone then .done s
      else
        let wd := wide s.cur.type
        match s.enqueue (.zero wd) d.toNat s.cur.setb with
        | .done r => .done (r.claimTiles (tilesOf wd d))
        | r => r) s

/-- The operands of an MMA as its issuer's workgroup reads them. -/
def State.mmaOperands (s : State) (t : Team) (a b : Code) : Operand × Operand :=
  match s.wg? t.wg with
  | some w => (w.operand (t.descWords a), w.operand (t.descWords b))
  | none => (⟨0, 0, 9, 0, none⟩, ⟨0, 0, 9, 0, none⟩)

/-- The conditions of MMA (R244). -/
def mmaConds (d a b : Code) (t : Team) (s : State) : List Cond :=
  if !(accOk false d && descOk t a && descOk t b) then [(none, tOPERAND)]
  else if t.leader.isNone then []
  else
    let o := s.mmaOperands t a b
    if !(descFieldsOk o.1 (t.descWords a) && descFieldsOk o.2 (t.descWords b)) then [(none, tOPERAND)]
    else if o.1.stray || o.2.stray then o.1.strayConds ++ o.2.strayConds
    else
      match pairK o.1.fmt o.2.fmt with
      | none => [(none, tOPERAND)]
      | some k =>
        okCond (accOk (decide (o.1.fmt = 1)) d) ++ o.1.conds k ++ o.2.conds k ++
          s.tileConds t true (tilesOf (decide (o.1.fmt = 1)) d)

/-- The uses of a matrix instruction's descriptors. -/
def descUses (a b : Code) : Uses := { reads := [(a, 4), (b, 4)], writes := [] }

/-- MMA (R244). -/
def execMma (d a b : Code) (s : State) : Host.Outcome State Fault Refusal :=
  issue { cls := 2, whole := true, spindle := true } (descUses a b)
    (fun t s => s.streamConds ++ mmaConds d a b t s)
    (fun s =>
      if s.cur.leader.isNone then .done s
      else
        let o := s.mmaOperands s.cur a b
        s.enqueue (.mma false o.1 o.2) d.toNat s.cur.setb) s

/-- The least K of the pairs that an A format takes part in (R226). -/
def leastK (fa : Nat) : Option Nat := (List.range 9).foldl (fun r fb =>
  match r, pairK fa fb with
  | some x, some y => some (min x y)
  | none, y => y
  | x, none => x) none

/-- The MMAPs of a context in a core's queue, with the numbers that they have or will have (R246). -/
def State.numbered (s : State) (core ctx : Nat) : List (Nat × MOp) :=
  let ops := (s.queue core).filter (fun o => o.ctx == ctx && (match o.kind with
    | .mma pair _ _ => pair
    | _ => false))
  let n := tget 0 (s.core core).mmapCount ctx
  ops.zipIdx.map (fun e => (match (ops.head?).bind MOp.count with
    | some m => m + e.2
    | none => n + 1 + e.2, e.1))

/-- The format of the even core's B for the next MMAP that a context issues on an odd core, where that core has its MMAP of the
number already (R245, R246). -/
def State.sharedB (s : State) (core ctx : Nat) : Option Nat :=
  let n := tget 0 (s.core core).mmapCount ctx + 1 + ((s.numbered core ctx).filter (fun e => e.2.count.isNone)).length
  ((s.numbered (core ^^^ 1) ctx).find? (fun e => e.1 == n)).bind (fun e =>
    match e.2.kind with
    | .mma _ _ b => some b.fmt
    | _ => none)

/-- The conditions of MMAP (R245): on the odd core B is the even core's, whose format is known once that core has issued its
MMAP; before that the odd core's own A is checked alone, for the least K its format may have. -/
def mmapConds (d a b : Code) (t : Team) (s : State) : List Cond :=
  let core := s.teamCore t
  whenCond (t.leader.isSome && !s.coreOn (core ^^^ 1)) (tACCESS 5) ++
    (if core % 2 = 0 then mmaConds d a b t s
     else if !(accOk false d && descOk t a && descOk t b) then [(none, tOPERAND)]
     else if t.leader.isNone then []
     else
       let o := (s.mmaOperands t a b).1
       if !descFieldsOk o (t.descWords a) then [(none, tOPERAND)]
       else if o.stray then o.strayConds
       else
         match (match s.sharedB core (((s.wg? t.wg).map Wg.ctx).getD 0) with
           | some fb => pairK o.fmt fb
           | none => leastK o.fmt) with
         | none => [(none, tOPERAND)]
         | some k =>
           okCond (accOk (decide (o.fmt = 1)) d) ++ o.conds k ++ s.tileConds t true (tilesOf (decide (o.fmt = 1)) d))

/-- MMAP (R245). -/
def execMmap (d a b : Code) (s : State) : Host.Outcome State Fault Refusal :=
  issue { cls := 2, whole := true, spindle := true } (descUses a b)
    (fun t s => s.streamConds ++ mmapConds d a b t s)
    (fun s =>
      if s.cur.leader.isNone then .done s
      else
        let o := s.mmaOperands s.cur a b
        s.enqueue (.mma true o.1 o.2) d.toNat s.cur.setb) s

/-- The element indices of the lanes, in stage 1 (R248). -/
def elemConds (t : Team) (b : Code) (lanes : List Nat) : List Cond :=
  lanes.flatMap (fun l => if 16383 < (t.opnd32 l b).toNat then [(some l, tACCESS 5)] else [])

/-- LDACC (R248): the read takes its place in the queue, the registers are filled from it. -/
def execLdacc (d a b : Code) (s : State) : Host.Outcome State Fault Refusal :=
  let n := regs (wide s.cur.type)
  issue { cls := 1, whole := isS d } { reads := [(b, 1)], writes := [(d, n)] }
    (fun t s =>
      let wd := wide t.type
      if dstOk t wd d && accOk wd a && srcOk t false b then
        elemConds t b (t.evalLanes d) ++ (if t.leader.isNone then [] else s.tileConds t true (tilesOf wd a)) ++
          s.stage1Conds t Need.store (s.destStores (t.evalLanes d) d (regs wd))
      else [(none, tOPERAND)])
    (fun s =>
      let t := s.cur
      let wd := wide t.type
      let lanes := t.evalLanes d
      if lanes = [] then .done s
      else
        let dst := s.destStores lanes d (regs wd)
        let w := State.sites Need.store dst s
        let s := w.1
        let lanes := lanes.filter (fun l => w.2.all (fun x => x.1 != l || x.2.ok))
        if s.pathShort (siteLocs w.2) then s.parkOn .access
        else (s.farCheck (lanePlaces dst w.2)).getD <|
        if lanes = [] then s.afterSites Need.store false w.2
        else
        let xs := lanes.map (fun l =>
          s.mkLoad (.acc a.toNat (t.opnd32 l b).toNat) l .store 0 (4 * regs wd) .none (destsOf l d (regs wd)))
        match s.enqueue (.load t.uid s.nextSeq wd) a.toNat 15 with
        | .done r =>
          let r := { (if isV d then r.dropDests lanes ((List.range (regs wd)).map (fun k => d.toNat + k)) else r) with
            loads := r.loads ++ xs }
          r.afterSites Need.store false w.2
        | r => r) s

/-- STACC (R248): lanes that write one element leave the value of one of them. -/
def execStacc (d a b : Code) (s : State) : Host.Outcome State Fault Refusal :=
  let n := regs (wide s.cur.type)
  issue { cls := 2 } { reads := [(d, n), (b, 1)], writes := [] }
    (fun t s =>
      let wd := wide t.type
      if srcOk t wd d && accOk wd a && srcOk t false b then
        elemConds t b t.contribLanes ++ (if t.leader.isNone then [] else s.tileConds t false (tilesOf wd a))
      else [(none, tOPERAND)])
    (fun s =>
      let t := s.cur
      let wd := wide t.type
      let xs := t.contribLanes.map (fun l => ((t.opnd32 l b).toNat, BitVec.ofNat 64 (t.opndN wd l d)))
      if xs = [] then .done s
      else
        match s.enqueue (.store (pickOrder s.fresh xs.length xs) wd) a.toNat t.setb with
        | .done r => .done (r.draw.claimTiles (tilesOf wd a))
        | r => r) s

/-- The record that an MTRQ destination lies in: live, of the source's format, at a multiple of 8,192 (R249). -/
def Wg.mtrqRecord (w : Wg) (fmt : Nat) (dst : DWord) : Option ObRecord :=
  (w.recordAt dst).filter (fun r => r.fmt == fmt && decide ((bufferOff dst - r.base) % 8192 = 0) &&
    decide (bufferOff dst + 8192 ≤ r.base + r.size) &&
    (let n := 2 * (bufferOff dst - r.base) + 16383
     decide (16 * r.bsoff + n / fmtBlock fmt < r.size) && (fmt != 8 || decide (16 * r.ssoff + 4 * (n / 16384) + 4 ≤ r.size))))

/-- MTRQ (R249). -/
def execMtrq (a b : Code) (s : State) : Host.Outcome State Fault Refusal :=
  issue { cls := 2, whole := true, spindle := true } { reads := [(a, 4), (b, 2)], writes := [] }
    (fun t s =>
      s.streamConds ++
      (if !(descOk t a && sbaseOk t false b) then [(none, tOPERAND)]
      else if t.leader.isNone then []
      else
        match s.wg? t.wg with
        | none => [(none, tACCESS 1)]
        | some w =>
          let o := w.operand (t.descWords a)
          if !descFieldsOk o (t.descWords a) then [(none, tOPERAND)]
          else if o.stray then o.strayConds
          else if !fmtScaled o.fmt then [(none, tOPERAND)]
          else o.conds 128 ++ whenCond ((w.mtrqRecord o.fmt (t.lead64 b)).isNone) (tACCESS 1)))
    (fun s =>
      match s.cur.leader, s.curWg with
      | some _, some w =>
        let o := w.operand (s.cur.descWords a)
        match w.mtrqRecord o.fmt (s.cur.lead64 b) with
        | some r => s.enqueue (.mtrq o (s.cur.lead64 b) r) 0 s.cur.setb
        | none => .done s
      | _, _ => .done s) s

/-! ## The load pipes (R231, R232) -/

/-- What the pipes find: operands ready, an answer to come, faults for service, or an error. -/
inductive Pipe where
  | ready
  | wait
  | fault (ts : List (Trap × Nat))
  | dead (t : Trap)
deriving DecidableEq, Repr

/-- What the pipes find where one line is still to come. -/
def pipeLater : State × Pipe → State × Pipe
  | (s, .ready) => (s, .wait)
  | r => r

/-- Asks a peer for a line on behalf of a party, unless it has asked for it already. -/
def State.wantLine (s : State) (who : Nat × Nat) (d ctx : Nat) (memSide : Bool) (loc : Nat) : State :=
  if s.fab.txns.any (fun x => (x.op == 0 || x.op == 3) && x.line == lineOf loc && x.want == some who) then s
  else s.request d ctx (if memSide then 0x03 else 0x00) (if memSide then 128 else 0) (locOff loc / 128 * 128) (lineOf loc) true []
    { want := some who }

/-- Whether an operation's fetch of some bytes has to wait for an earlier write of its issuer there: a copy, an atomic or a
reduction that is not performed yet (R208, R231). -/
def State.pipeBehind (s : State) (m : MOp) (va : DWord) (loc n : Nat) : Bool :=
  let t := m.issuer.team
  s.copyAhead t m.issuer.seq (some va.toNat) loc n ||
    s.loads.any (fun l => l.team == t && decide (l.seq < m.issuer.seq) && l.value.isNone && l.kind.rmw &&
      overlaps l.loc l.size loc n) ||
    s.path.any (fun e => e.tag.team == t && decide (e.tag.seq < m.issuer.seq) && e.red.isSome && e.touches loc n)

/-- Changes one operation of a core's queue; its place in program order names it. -/
def State.modOp (s : State) (core seq : Nat) (f : MOp → MOp) : State :=
  s.setQueue core ((s.queue core).map (fun o => if o.issuer.seq = seq then f o else o))

/-- Whether an operation has fetched a line (R237). -/
def State.hasLine (s : State) (core : Nat) (m : MOp) (line : Nat) : Bool :=
  (s.queue core).any (fun o => decide (o.issuer.seq = m.issuer.seq) && o.got.contains line)

/-- The line of some bytes comes to the core as its L1 agent holds it, shared (R8, R231), copies that hold it having written it
(R209); whether the operation has it. -/
def State.pipeLine (s : State) (core : Nat) (m : MOp) (space : Space) (loc n : Nat) : State × Bool :=
  let s := s.recallCopies loc n
  let line := lineOf loc
  if space = .software then (s.fetchManaged core loc, true)
  else if !s.coherent space loc || decide (space = .chip) || s.hasLine core m line then (s, true)
  else if (s.copyAt core line).isSome then (s.modOp core m.issuer.seq (fun o => { o with got := line :: o.got }), true)
  else (s.askPipe core line, false)

/-- Fetches the bytes at a list of addresses for an operation: pages, recalls of held lines, peers' lines, poison. All of them
are translated, also the address of a scale record or array within the local aperture, of which R230 and R232 say nothing
(DESIGN CHOICE, log entry 76). -/
def State.pipe (core : Nat) (m : MOp) : List (DWord × Nat) → State → State × Pipe
  | [], s => (s, .ready)
  | (va, n) :: xs, s =>
    match (s.beforeWalk m.ctx va).translate m.ctx va Need.load with
    | (s, .gone t) => (s, .dead t)
    | (s, .miss t p) =>
      match State.pipe core m xs s with
      | (s, .fault ts) => (s, .fault (if ts.any (fun x => x.2 == p) then ts else (t, p) :: ts))
      | (s, .dead t) => (s, .dead t)
      | (s, _) => (s, .fault [(t, p)])
    | (s, .at_ space loc) =>
      if s.pipeBehind m va loc n then pipeLater (State.pipe core m xs s)
      else
        match space with
        | .peer d side =>
          if (s.proxyLine (lineOf loc)).isSome then State.pipe core m xs s
          else pipeLater (State.pipe core m xs (s.wantLine (3, m.issuer.seq) d m.ctx side loc))
        | _ =>
          if s.poisoned loc n then (s, .dead (tMCHK 3))
          else if s.hostOwned (lineOf loc) then pipeLater (State.pipe core m xs (s.snoopLine (lineOf loc) true))
          else
            match s.pipeLine core m space loc n with
            | (s, true) => State.pipe core m xs s
            | (s, false) => pipeLater (State.pipe core m xs s)

/-- The byte addresses of a row, in chunks of 16. -/
def Operand.rowAddrs (o : Operand) (k row : Nat) : List (DWord × Nat) :=
  match o.record with
  | some _ => []
  | none => (List.range ((rowBytes o.fmt k + 15) / 16)).map (fun i =>
      (o.addr + BitVec.ofNat 64 (row * o.stride + 16 * i), 16))

/-- The scale record of an operand in memory (R232). -/
def Operand.scaleRec (o : Operand) : DWord := o.addr + BitVec.ofInt 64 (16 * o.srec)

/-- The addresses of the scale record. -/
def Operand.recAddrs (o : Operand) : List (DWord × Nat) :=
  if fmtScaled o.fmt && o.record.isNone then [(o.scaleRec, 8), (o.scaleRec + 8, 8)] else []

/-- The blocks along a row of K elements. -/
def Operand.blocks (o : Operand) (k : Nat) : Nat := (k + fmtBlock o.fmt - 1) / fmtBlock o.fmt

/-- The operand-buffer window. -/
def bufferBase : Nat := apertureBase + 4 * 2 ^ 40

/-- The ranges of the operand buffer that rows of an operand in a record take, elements and scales (R233). -/
def Operand.bufferRanges (o : Operand) (k : Nat) (rows : List Nat) : List (Nat × Nat) :=
  match o.record with
  | none => []
  | some r => rows.flatMap (fun row =>
      let n := o.elemNum row
      (bufferOff o.addr + row * o.stride, rowBytes o.fmt k) ::
        (if !fmtScaled o.fmt then []
         else (r.base + 16 * r.bsoff + n / fmtBlock o.fmt, o.blocks k) ::
          (if o.fmt = 8 then [(r.base + 16 * r.ssoff + 4 * (n / 16384), 4)] else [])))

/-- Ranges of the operand buffer for an operation: copies that hold them have written them, poison ends it (R209, R242). -/
def State.pipeBuffer (core : Nat) (m : MOp) : List (Nat × Nat) → State → State × Pipe
  | [], s => (s, .ready)
  | (off, n) :: xs, s =>
    let loc := locBuffer core off
    if s.pipeBehind m (BitVec.ofNat 64 (bufferBase + off)) loc n then (s, .wait)
    else
      let s := s.recallCopies loc n
      if s.poisoned loc n then (s, .dead (tMCHK 3)) else State.pipeBuffer core m xs s

/-- A value that a pipe reads at a virtual address or in the operand buffer. -/
def State.pipeRead (s : State) (core : Nat) (m : MOp) (va : DWord) (n : Nat) : Nat :=
  if inBuffer va then s.readAt core m.issuer.team .opBuf (locBuffer core (bufferOff va)) n
  else
    match (s.translate m.ctx va Need.load).2 with
    | .at_ space loc => s.readAt core m.issuer.team space loc n
    | _ => 0

/-- Where an operand's block and skein scales of an element are (R232, R233). -/
def State.scaleAddrs (s : State) (core : Nat) (m : MOp) (o : Operand) (n : Nat) : DWord × DWord :=
  match o.record with
  | some r =>
    let base := bufferBase + r.base
    (BitVec.ofNat 64 (base + 16 * r.bsoff + n / fmtBlock o.fmt), BitVec.ofNat 64 (base + 16 * r.ssoff + 4 * (n / 16384)))
  | none =>
    let b := s.pipeRead core m o.scaleRec 8
    let k := s.pipeRead core m (o.scaleRec + 8) 8
    (BitVec.ofNat 64 (b + n / fmtBlock o.fmt), BitVec.ofNat 64 (k + 4 * (n / 16384)))

/-- The addresses of the scales of a row in memory. -/
def State.scaleRow (s : State) (core : Nat) (m : MOp) (o : Operand) (k row : Nat) : List (DWord × Nat) :=
  if fmtScaled o.fmt && o.record.isNone then
    (List.range (o.blocks k)).flatMap (fun j =>
      let a := s.scaleAddrs core m o (o.elemNum row + j * fmtBlock o.fmt)
      (a.1, 1) :: (if o.fmt = 8 then [(a.2, 4)] else []))
  else []

/-- Fetches rows of an operand and their scales. -/
def State.pipeRows (s : State) (core : Nat) (m : MOp) (o : Operand) (k : Nat) (rows : List Nat) : State × Pipe :=
  match State.pipeBuffer core m (o.bufferRanges k rows) s with
  | (s, .ready) =>
    match State.pipe core m (o.recAddrs ++ rows.flatMap (fun r => o.rowAddrs k r)) s with
    | (s, .ready) => State.pipe core m (rows.flatMap (fun r => s.scaleRow core m o k r)) s
    | r => r
  | r => r

/-- A row of an operand as the engine reads it. -/
def State.operandRow (s : State) (core : Nat) (m : MOp) (o : Operand) (k row : Nat) : OperandRow :=
  let chunks := (List.range ((rowBytes o.fmt k + 15) / 16)).map (fun i =>
    s.pipeRead core m (o.addr + BitVec.ofNat 64 (row * o.stride + 16 * i)) 16 * 2 ^ (128 * i))
  let x := chunks.sum
  let w := fmtBits o.fmt
  { fmt := o.fmt
    elems := (List.range k).map (fun i => bits x (w * i) w)
    scales := if !fmtScaled o.fmt then []
      else (List.range (o.blocks k)).map (fun j =>
        let a := s.scaleAddrs core m o (o.elemNum row + j * fmtBlock o.fmt)
        (s.pipeRead core m a.1 1, if o.fmt = 8 then s.pipeRead core m a.2 4 else 0)) }

/-- Rows of an operand as the engine reads them. -/
def State.operandRows (s : State) (core : Nat) (m : MOp) (o : Operand) (k : Nat) (rows : List Nat) : List OperandRow :=
  rows.map (fun r => s.operandRow core m o k r)

/-! ## Operations of the engine (R236–R242) -/

/-- An operation no longer waits for pages or lines: it asks again if it goes on. -/
def State.dropOpWaits (s : State) (o : MOp) : State :=
  { s with
    pageReqs := s.pageReqs.map (fun (r : PageReq) =>
      { r with parties := r.parties.filter (fun p => decide (p ≠ (3, o.issuer.seq))) })
    fab := { s.fab with txns := s.fab.txns.map (fun (x : Transaction) =>
      if x.want = some (3, o.issuer.seq) then { x with want := none } else x) } }

/-- An operation leaves a core's queue, and waits for nothing more (R239). -/
def State.popOp (s : State) (core : Nat) (o : MOp) : State :=
  ((s.setQueue core ((s.queue core).filter (fun q => decide (q.issuer ≠ o.issuer)))).dropOpWaits o).dropSnaps

/-- Replaces the operation at the head. -/
def State.setHead (s : State) (core : Nat) (o : MOp) : State := s.setQueue core (o :: (s.queue core).tail)

/-- MPROG of a workgroup after an MMA or MMAP: the most recent one (R241). -/
def Wg.noteOp (w : Wg) (o : MOp) : Wg :=
  match o.kind with
  | .mma _ _ _ => { w with mprog := { w.mprog with acc := o.tile, strips := o.strips } }
  | _ => w

/-- An operation ends in error (R239): MPROG, the issuer's trap or the program's end. -/
def State.failOp (s : State) (core : Nat) (o : MOp) (x : Trap) : State :=
  let s := s.popOp core o
  let s := s.modWg o.wg (fun w =>
    let w := w.noteOp o
    { w with mprog := { w.mprog with err := true, code := if w.mprog.err then w.mprog.code else x.code } })
  match o.prog with
  | some p => s.endProg p x.code
  | none => s.modTeam o.issuer.team (fun t => t.keepTrap x)

/-- An operation stops for fault service (R238): it will fetch B again, and a spindle's half of SPROG shows STATE 3 meanwhile
(R205). -/
def State.stopOp (s : State) (core : Nat) (o : MOp) (ts : List (Trap × Nat)) : State :=
  let s := ts.foldl (fun s t => s.askPage o.ctx t.2 0 t.1 (3, o.issuer.seq) (s.partyArg o.wg 0 3)) s
  s.modOp core o.issuer.seq (fun o => { o with stop := true, bRows := [], got := [], ready := none })

/-- Whether pages that an operation waits for are still in service. -/
def State.opWaits (s : State) (o : MOp) : Bool := s.pageReqs.any (fun r => r.parties.contains (3, o.issuer.seq))

/-- LDACC's reads at their place (R248): a poisoned element leaves its lane unwritten and raises MCHK later. -/
def State.readAcc (s : State) (core : Nat) (o : MOp) (team seq : Nat) (wd : Bool) : State :=
  let tile := o.tile
  let mine (l : Load) : Bool := l.team == team && l.seq == seq
  let bad (e : Nat) : Bool := (s.tilePoisoned core tile).contains e || (wd && (s.tilePoisoned core (tile + 1)).contains e)
  let elem (l : Load) : Nat := match l.kind with
    | .acc _ e => e
    | _ => 0
  let value (e : Nat) : BitVec 128 := BitVec.ofNat 128 ((tget 0 (s.tile core tile) e).toNat +
    (if wd then 2 ^ 32 * (tget 0 (s.tile core (tile + 1)) e).toNat else 0))
  let hit := s.loads.any (fun l => mine l && bad (elem l))
  let s := { s with loads := s.loads.filterMap (fun (l : Load) =>
    if !mine l then some l else if bad (elem l) then none else some { l with value := some (value (elem l)) }) }
  let s := s.popOp core o
  if hit then s.modTeam team (fun t => t.keepTrap (tMCHK 3)) else s

/-- STACC's writes in order (R248). -/
def State.writeAcc (s : State) (core tile : Nat) (wd : Bool) (xs : List (Nat × DWord)) : State :=
  xs.foldl (fun s x =>
    let one (s : State) (t : Nat) (w : Word) : State :=
      (s.setTile core t (tset 0 (s.tile core t) x.1 w)).setTilePoison core t ((s.tilePoisoned core t).filter (fun e => decide (e ≠ x.1)))
    let s := one s tile (loWord x.2)
    if wd then one s (tile + 1) (hiWord x.2) else s) s

/-- The bytes that MTRQ writes: codes, block scales, skein scale (R250). -/
def State.mtrqBytes (s : State) (core : Nat) (m : MOp) (o : Operand) (dst : DWord) (r : ObRecord) : List (Nat × List Byte) :=
  let rows := s.operandRows core m o 128 (List.range 128)
  let value (x : OperandRow) (k : Nat) : Num :=
    let c := fmtNum o.fmt (x.elems.getD k 0)
    let sc := x.scale (k / fmtBlock o.fmt)
    if o.fmt = 8 then
      (if sc.1 = 0 then .fin false 0 0 else (mulNum (mulNum c (.fin false sc.1 0)).1 (binary32.unpack sc.2)).1)
    else (mulNum c (e8m0Num sc.1)).1
  let sqr := (List.range 128).map (fun i => rows.map (fun x => value x i))
  let n := 2 * (bufferOff dst - r.base)
  let bsAt := r.base + 16 * r.bsoff + n / fmtBlock o.fmt
  if o.fmt = 8 then
    let q := requantQn4 sqr
    [(bufferOff dst, q.2.2.flatMap packNibbles), (bsAt, q.2.1.map (fun e => BitVec.ofNat 8 e)),
      (r.base + 16 * r.ssoff + 4 * (n / 16384), leBytes 4 q.1)]
  else
    let q := requantFp4 sqr
    [(bufferOff dst, q.2.flatMap packNibbles), (bsAt, q.1.map (fun e => BitVec.ofNat 8 e))]

/-- MTRQ executed whole (R238, R249). DESIGN CHOICE (R250): all its bytes are written in one step, so that a load before its flag
clears finds the old bytes or the new ones, never a mix. Copies of other issuers that hold its destination write first, and
those of its own issuer (R208, R209). -/
def State.runMtrq (s : State) (core : Nat) (o : MOp) (a : Operand) (dst : DWord) (r : ObRecord) : State :=
  match s.pipeRows core o a 128 (List.range 128) with
  | (s, .ready) =>
    let ws := s.mtrqBytes core o a dst r
    if ws.any (fun w => s.pipeBehind o (BitVec.ofNat 64 (bufferBase + w.1)) (locBuffer core w.1) w.2.length) then s
    else
      let s := ws.foldl (fun s w => s.recallCopies (locBuffer core w.1) w.2.length) s
      (ws.foldl (fun s w => s.performIn .opBuf (cellsFrom (locBuffer core w.1) w.2) 0 none []) s).popOp core o
  | (s, .wait) => s
  | (s, .fault ts) => s.stopOp core o ts
  | (s, .dead t) => s.failOp core o t

/-! ## Pairs (R245–R247) -/

/-- The counted number of an MMAP at the head (R246). -/
def State.countMmap (s : State) (core : Nat) (o : MOp) : State :=
  match o.count with
  | some _ => s
  | none =>
    let c := s.core core
    let n := tget 0 c.mmapCount o.ctx + 1
    (s.setCore core { c with mmapCount := tset 0 c.mmapCount o.ctx n }).setHead core { o with count := some n }

/-- The core whose MMAPs pair with those of a core (R245); a saved operation pairs by the core that its workgroup left (R247). -/
def State.pairCore (s : State) (core : Nat) (o : MOp) : Nat :=
  (if core < 192 then core else ((s.wg? o.wg).map Wg.left).getD core) ^^^ 1

/-- The partner's operation when it is the pair of a counted MMAP (R246). -/
def State.partner (s : State) (core : Nat) (o : MOp) : Option MOp :=
  match (s.queue (s.pairCore core o)).head? with
  | some p =>
    match p.kind with
    | .mma true _ _ => if p.ctx = o.ctx && p.count = o.count && o.count.isSome then some p else none
    | _ => none
  | none => none

/-- Whether the pair of a counted MMAP stands in the partner's queue, at its head or behind another operation (R246, R247). -/
def State.pairedOp (s : State) (core : Nat) (o : MOp) : Bool :=
  (s.queue (core ^^^ 1)).any (fun p => p.ctx == o.ctx && p.count == o.count && o.count.isSome && (match p.kind with
    | .mma pair _ _ => pair
    | _ => false))

/-- Whether the partner's MMAP is saved with its workgroup, to come back to its core (R247). -/
def State.partnerSaved (s : State) (core : Nat) (o : MOp) : Bool :=
  s.matrix.any (fun q => decide (192 ≤ q.1) && q.2.any (fun p => p.ctx == o.ctx && p.started && p.count == o.count &&
    (s.wg? p.wg).any (fun w => w.left == core ^^^ 1)))

/-- Whether the partner's MMAP of this number has been counted and is at the head no more: the pair has ended. -/
def State.pairGone (s : State) (core : Nat) (o : MOp) : Bool :=
  match o.count with
  | some n => decide (n ≤ tget 0 (s.core (core ^^^ 1)).mmapCount o.ctx) && !s.pairedOp core o && !s.partnerSaved core o
  | none => false

/-- An MMAP ends in error, and its partner at the head with it. DESIGN CHOICE (R246): whatever ends the one, the partner ends
with PAIRTMO at once. -/
def State.failPair (s : State) (core : Nat) (o : MOp) (x : Trap) : State :=
  match s.partner core o with
  | some p => (s.failOp core o x).failOp (s.pairCore core o) p tPAIRTMO
  | none => s.failOp core o x

/-- An MMAP stops for fault service, and its partner at the same strip (R238, R245). -/
def State.stopPair (s : State) (core : Nat) (o : MOp) (ts : List (Trap × Nat)) : State :=
  let s := match s.partner core o with
    | some p => s.modOp (core ^^^ 1) p.issuer.seq (fun p => { p with stop := true, got := [], ready := none })
    | none => s
  s.stopOp core o ts

/-- The rows of A that an operation's next strip takes. -/
def MOp.nextRows (o : MOp) : List Nat := if 16 ≤ o.strips then [] else (List.range 8).map (fun i => 8 * o.strips + i)

/-- The format of the B that an MMAP at the head uses, where it is known: on the even core its own, on the odd core the
partner's (R245). -/
def State.pairFmt (s : State) (core : Nat) (o : MOp) : Option Nat :=
  match (if core % 2 = 0 then some o else s.partner core o) with
  | some p => (match p.kind with
    | .mma _ _ b => some b.fmt
    | _ => none)
  | none => o.bRows.head?.map OperandRow.fmt

/-- The K of an MMAP at the head; while the odd core does not know the even one's B, the least K of its own format
(R226, R246). -/
def State.pairDepth (s : State) (core : Nat) (o : MOp) : Nat :=
  match o.kind with
  | .mma _ a _ => ((s.pairFmt core o).bind (fun fb => pairK a.fmt fb)).getD ((leastK a.fmt).getD 0)
  | _ => 0

/-- Since when an MMAP at the head has what its next strip needs (R246). -/
def State.readyAt (s : State) (core : Nat) (o : MOp) : Option Nat :=
  if decide (s.pairDepth core o ≤ o.depth) then o.ready else none

/-- What is wrong with the odd core's A for the even core's B (R245), where that B came too late for the check at issue. -/
def State.pairWrong (s : State) (core : Nat) (o : MOp) : Option Trap :=
  if core % 2 = 0 || o.started then none
  else
    match o.kind, s.pairFmt core o with
    | .mma _ a _, some fb =>
      match pairK a.fmt fb with
      | none => some tOPERAND
      | some k => ((a.conds k).head?).map Prod.snd
    | _, _ => none

/-- An MMAP has what its next strip needs (R246). The timeout of a pair stands still while it is stopped, so the partner's
cycle counts anew from the end of the service. -/
def State.pairReady (s : State) (core : Nat) (o : MOp) : State :=
  let s := match s.partner core o with
    | some p => if o.stop then s.modOp (core ^^^ 1) p.issuer.seq (fun p => { p with ready := p.ready.map (max s.cycle) }) else s
    | none => s
  let k := s.pairDepth core o
  s.modOp core o.issuer.seq (fun o => { o with stop := false, got := [], ready := some s.cycle, depth := k })

/-- An MMAP's A rows of the next strip are fetched (R246). -/
def State.prepareRows (s : State) (core : Nat) (o : MOp) (a : Operand) : State :=
  match s.pipeRows core o a (s.pairDepth core o) o.nextRows with
  | (s, .ready) => s.pairReady core o
  | (s, .wait) => s
  | (s, .fault ts) => s.stopPair core o ts
  | (s, .dead t) => s.failPair core o t

/-- The even core of a pair fetches B, and each its A rows of the next strip (R246). DESIGN CHOICE: where the even core's MMAP came
too late for the odd core to check its format pair at issue (R245), the odd core's ends in error here (log entry 40). -/
def State.preparePair (s : State) (core : Nat) (o : MOp) (a b : Operand) : State :=
  match s.pairWrong core o with
  | some t => s.failPair core o t
  | none =>
    if core % 2 = 0 && decide (o.bRows = []) then
      let k := s.pairDepth core o
      match s.pipeRows core o b k (List.range 128) with
      | (s, .ready) =>
        let rows := s.operandRows core o b k (List.range 128)
        (s.modOp core o.issuer.seq (fun o => { o with bRows := rows, got := [] })).prepareRows core { o with bRows := rows } a
      | (s, .wait) => s
      | (s, .fault ts) => s.stopPair core o ts
      | (s, .dead t) => s.failPair core o t
    else s.prepareRows core o a

/-! ## Starting (R236, R237) -/

/-- The engine works at the operation at the head of the queue until its strips can begin (R236, R237): an MMA whose B is
fetched starts. -/
def State.startOp (s : State) (core : Nat) (o : MOp) : State :=
  if s.opWaits o then s
  else
    match o.kind with
    | .zero wd => ((if wd then [o.tile, o.tile + 1] else [o.tile]).foldl (fun s t => s.zeroTile core t) s).popOp core o
    | .store xs wd => (s.writeAcc core o.tile wd xs).popOp core o
    | .load team seq wd => s.readAcc core o team seq wd
    | .mtrq a dst r => s.runMtrq core { o with stop := false } a dst r
    | .mma false a b =>
      if o.bRows ≠ [] then s
      else
        match pairK a.fmt b.fmt with
        | none => s.failOp core o tOPERAND
        | some k =>
          match s.pipeRows core o b k (List.range 128) with
          | (s, .ready) => s.setHead core { o with started := true, stop := false, bRows := s.operandRows core o b k (List.range 128), got := [] }
          | (s, .wait) => s
          | (s, .fault ts) => s.stopOp core o ts
          | (s, .dead t) => s.failOp core o t
    | .mma true a b =>
      let s := s.countMmap core o
      match (s.queue core).head? with
      | some o =>
        if s.pairGone core o && !o.started then s.failOp core o tPAIRTMO
        else if (s.readyAt core o).isSome || (o.stop && (s.partner core o).any s.opWaits) then s
        else s.preparePair core o a b
      | none => s

/-- ENGINE_OPERATION_START (R236). -/
def execEngineOperationStart (core : Nat) (s : State) : Host.Outcome State Fault Refusal :=
  .next (match (s.queue core).head? with
    | some o => s.startOp core o
    | none => s)

/-! ## Strips (R237, R238) -/

/-- An accumulator element, 64 bits across a pair for FP64 (R227). -/
def State.accElem (s : State) (core tile : Nat) (wd : Bool) (e : Nat) : Nat :=
  (tget 0 (s.tile core tile) e).toNat + (if wd then 2 ^ 32 * (tget 0 (s.tile core (tile + 1)) e).toNat else 0)

/-- One strip summed into the tile (R237, R244). -/
def State.addStrip (s : State) (core : Nat) (o : MOp) (k : Nat) (as bs : List OperandRow) : State :=
  let wd := as.any (fun r => r.fmt == 1)
  (as.zip o.nextRows).foldl (fun s x =>
    (bs.zip (List.range 128)).foldl (fun s y =>
      let e := x.2 * 128 + y.2
      let v := mmaElem x.1 y.1 k (s.accElem core o.tile wd e)
      let s := s.setTile core o.tile (tset 0 (s.tile core o.tile) e (BitVec.ofNat 32 v))
      if wd then s.setTile core (o.tile + 1) (tset 0 (s.tile core (o.tile + 1)) e (BitVec.ofNat 32 (v / 2 ^ 32))) else s) s) s

/-- The tiles of an MMA. -/
def MOp.mmaTiles (o : MOp) : List Nat :=
  match o.kind with
  | .mma _ a _ => if a.fmt = 1 then [o.tile, o.tile + 1] else [o.tile]
  | _ => []

/-- Whether the tile rows of an operation's next strip are poisoned (R242). -/
def State.stripPoison (s : State) (core : Nat) (o : MOp) : Bool :=
  o.mmaTiles.any (fun t => (s.tilePoisoned core t).any (fun e => decide (e / 1024 = o.strips)))

/-- A second residue mismatch in a strip (R242): its elements are poisoned, the operation ends in error; a partner's with
it. -/
def State.stripMismatch (s : State) (core : Nat) : State :=
  match (s.queue core).head? with
  | some o =>
    if o.started && !o.stop && decide (o.strips < 16) && decide (o.mmaTiles ≠ []) then
      (o.mmaTiles.foldl (fun s t => s.setTilePoison core t ((s.tilePoisoned core t ++
        (List.range 1024).map (fun i => 1024 * o.strips + i)).eraseDups)) s).failPair core o (tMCHK 3)
    else s
  | none => s

/-- A strip whose rows are fetched is summed; the next one follows, or the operation ends. An operation whose STRIPS were set
to 16 has none left (R241). -/
def State.sumStrip (s : State) (core : Nat) (o : MOp) (a : Operand) (bs : List OperandRow) : State :=
  let fb := (bs.head?.map OperandRow.fmt).getD 9
  let k := (pairK a.fmt fb).getD 0
  let s := s.addStrip core o k (s.operandRows core o a k o.nextRows) bs
  let o' := { o with strips := min 16 (o.strips + 1), stop := false, bRows := bs, got := [] }
  if o'.strips < 16 then s.setHead core o' else (s.popOp core o).modWg o.wg (fun w => w.noteOp o')

/-- The A operand and K of an operation with its B rows. -/
def MOp.stripK (o : MOp) (bs : List OperandRow) : Option (Operand × Nat) :=
  match o.kind with
  | .mma _ a _ => (pairK a.fmt ((bs.head?.map OperandRow.fmt).getD 9)).map (fun k => (a, k))
  | _ => none

/-- A strip of an MMA, or the stop that a fault makes (R237, R238). -/
def State.runStrip (s : State) (core : Nat) (o : MOp) : State :=
  match o.stripK o.bRows with
  | none => s
  | some (a, k) =>
    match s.pipeRows core o a k o.nextRows with
    | (s, .ready) => if s.stripPoison core o then s.failPair core o (tMCHK 3) else s.sumStrip core o a o.bRows
    | (s, .wait) => s
    | (s, .fault ts) => s.stopPair core o ts
    | (s, .dead t) => s.failPair core o t

/-- One strip of both cores of a pair, in step; a fault or an error of one stops or ends both (R238, R245, R246). -/
def State.runPairStrip (s : State) (c0 : Nat) (o0 o1 : MOp) : State :=
  let c1 := c0 + 1
  match o0.stripK o0.bRows, o1.stripK o0.bRows with
  | some (a0, k0), some (a1, k1) =>
    match s.pipeRows c0 o0 a0 k0 o0.nextRows with
    | (s, .ready) =>
      match s.pipeRows c1 o1 a1 k1 o1.nextRows with
      | (s, .ready) =>
        if s.stripPoison c0 o0 then s.failPair c0 o0 (tMCHK 3)
        else if s.stripPoison c1 o1 then s.failPair c1 o1 (tMCHK 3)
        else (s.sumStrip c0 o0 a0 o0.bRows).sumStrip c1 o1 a1 o0.bRows
      | (s, .wait) => s
      | (s, .fault ts) => s.stopPair c1 o1 ts
      | (s, .dead t) => s.failPair c1 o1 t
    | (s, .wait) => s
    | (s, .fault ts) => s.stopPair c0 o0 ts
    | (s, .dead t) => s.failPair c0 o0 t
  | _, _ => s

/-- MMA_STRIP (R237) of the operation at a core's head. An MMAP runs with its partner; alone where the partner has no strip
left. -/
def State.stripStep (s : State) (core : Nat) : State :=
  match (s.queue core).head? with
  | none => s
  | some o =>
    if !o.started || o.stop || s.opWaits o then s
    else
      match o.kind with
      | .mma false _ _ => if o.bRows = [] then s else s.runStrip core o
      | .mma true _ _ =>
        match s.partner core o with
        | some p =>
          let o0 := if core % 2 = 0 then o else p
          let o1 := if core % 2 = 0 then p else o
          if p.started && !p.stop && o.ready.isSome && p.ready.isSome && !s.opWaits p then
            s.runPairStrip (core / 2 * 2) o0 o1
          else s
        | none =>
          if o.ready.isSome && decide (o.bRows ≠ []) && !s.pairedOp core o && !s.partnerSaved core o then s.runStrip core o else s
      | _ => s

/-- MMA_STRIP (R237). -/
def execMmaStrip (core : Nat) (s : State) : Host.Outcome State Fault Refusal := .next (s.stripStep core)

/-- Whether an MMAP that is ready has not waited too long for its partner (R246). -/
def State.pairInTime (s : State) (core : Nat) (o : MOp) : Bool :=
  (s.readyAt core o).any (fun n => decide (s.cycle < n + Config.longTimeout))

/-- MMAP_START (R246): both MMAPs of a number are at their heads and ready. -/
def State.startPair (s : State) (core : Nat) : State :=
  let c0 := core / 2 * 2
  match (s.queue c0).head?, (s.queue (c0 + 1)).head? with
  | some o0, some o1 =>
    match o0.kind, o1.kind with
    | .mma true _ _, .mma true _ _ =>
      if o0.count.isSome && decide (o0.ctx = o1.ctx) && decide (o0.count = o1.count) && !o0.started && !o1.started &&
          s.pairInTime c0 o0 && s.pairInTime (c0 + 1) o1 && !s.opWaits o0 && !s.opWaits o1 then
        (s.setHead c0 { o0 with started := true }).setHead (c0 + 1) { o1 with started := true, bRows := o0.bRows }
      else s
    | _, _ => s
  | _, _ => s

/-- MMAP_START (R246). -/
def execMmapStart (core : Nat) (s : State) : Host.Outcome State Fault Refusal := .next (s.startPair core)

/-- Whether a ready MMAP waits for a partner that is not ready, neither being stopped for fault service (R246); since when. -/
def State.lonePair (s : State) (core : Nat) : Option Nat :=
  match (s.queue core).head? with
  | some o =>
    match o.kind with
    | .mma true _ _ =>
      if o.stop || s.opWaits o then none
      else
        match s.partner core o with
        | some p => if (s.readyAt (core ^^^ 1) p).isSome || p.stop then none else s.readyAt core o
        | none => if o.started && !s.partnerSaved core o then none else s.readyAt core o
    | _ => none
  | none => none

/-- Whether a ready MMAP's time for its partner has run out before the pair could start (R246). -/
def State.pairLate (s : State) (core : Nat) : Option Nat :=
  match s.lonePair core, (s.queue core).head? with
  | some n, _ => some n
  | none, some o => if o.count.isSome && !o.started && !o.stop && !s.pairInTime core o then s.readyAt core o else none
  | none, none => none

/-- PAIRTMO (R246): no partner is ready within 65,536 cycles. -/
def execPairtmo (core : Nat) (s : State) : Host.Outcome State Fault Refusal :=
  .next (match s.pairLate core, (s.queue core).head? with
    | some n, some o => (s.waitUntil (n + Config.longTimeout)).failPair core o tPAIRTMO
    | _, _ => s)

/-! ## EKILL (R204) -/

/-- The MMA or MMAP of an abandoned program stops after its strip and leaves the queue; MPROG keeps its progress (R204,
R241). DESIGN CHOICE: in flight is an operation that has begun its strips; one at the head whose B is still being fetched stays
queued and runs, like those behind it (log entry 77). -/
def State.killOp (s : State) (core : Nat) (progs : List Nat) : State :=
  match (s.queue core).head? with
  | some o =>
    if o.started && o.prog.any (fun p => progs.contains p) then
      let s := match s.partner core o with
        | some p => s.failOp (core ^^^ 1) p tPAIRTMO
        | none => s
      (s.popOp core o).modWg o.wg (fun w => w.noteOp o)
    else s
  | none => s

/-- Abandons programs of a workgroup on a spindle (R204): queued ones are removed, the running one stops and is in STATE 4
until what it issued is done. -/
def State.killProgs (s : State) (wg core eng : Nat) : State :=
  let mine := (s.outstanding core eng).filter (fun p => p.wg == wg)
  let s := (mine.filter Prog.queued).foldl (fun s p => s.modProg p.uid (fun q => { q with ended := true, queued := false, state := 0 })) s
  let ps := mine.filter (fun p => !p.queued)
  let s := s.killOp core (ps.map Prog.uid)
  ps.foldl (fun s p =>
    let s := match p.waitTicket with
      | some k => s.modWg p.wg (fun w => w.withdraw k)
      | none => s
    (s.endProg p.uid 0).modProg p.uid (fun q => { q with state := 4 })) s

/-- EKILL (R204). -/
def execEkill (a : Code) (s : State) : Host.Outcome State Fault Refusal :=
  issue { whole := true, forbidden := 1 } Uses.none (fun _ _ => okCond (engOk a))
    (fun s => .done (s.killProgs s.cur.wg s.curCore a.toNat)) s

end Sys2Proof.Machine
end

