-- ==== Sys2Proof/Machine/Cluster.lean ====
section
/-! DEFINITION. Exchange between teams, class records and child launches (R320, R325, R326). -/

namespace Sys2Proof.Machine

/-! ## The issuing team of an event -/

/-- A team takes the issuing place; the team that held it goes back among the others. -/
def State.focusTeam (s : State) (u : Nat) : State :=
  if s.cur.live && s.cur.uid == u then s
  else
    match s.others.find? (fun t => t.live && t.uid == u) with
    | none => s
    | some t => { s with
        cur := t
        others := (if s.cur.live then [s.cur] else []) ++ s.others.filter (fun x => !(x.live && x.uid == u)) }

/-- A trap of a team at the instruction it waits in. -/
def State.trapTeam (s : State) (u : Nat) (x : Trap) : State :=
  match s.team? u with
  | none => s
  | some _ =>
    let s := s.focusTeam u
    (s.setCur { s.cur with park := .running, service := none }).trapHere x 0

/-! ## XCH (R320) -/

/-- The teams of every workgroup of a launch. -/
def Launch.teams (l : Launch) : Nat := (l.roles.map Role.nteams).sum

/-- The partner descriptor: workgroup, team, tag. -/
def xchFields (x : Word) : Nat × Nat × Nat := (bits x.toNat 0 16, bits x.toNat 16 5, bits x.toNat 21 11)

/-- Whether a workgroup and a team index are within a team's launch. -/
def State.partnerOk (s : State) (t : Team) (wg tm : Nat) : Bool :=
  match (s.wg? t.wg).bind (fun w => s.launch? w.launch) with
  | some l => decide (wg < l.count) && decide (tm < l.teams)
  | none => false

/-- The values that a team offers: register `a` of every lane, active or not. -/
def Team.offers (t : Team) (a : Code) : List (Nat × Word) := (List.range t.size).map (fun l => (l, t.vget l a.toNat))

/-- The team of the same launch that offers an exchange naming the issuer with a tag, its timeout not past (R320). -/
def State.offering (s : State) (t : Team) (wg tm tag : Nat) : Option Team :=
  match s.wg? t.wg with
  | none => none
  | some w =>
    s.teams.find? (fun u => u.live && decide (u.uid ≠ t.uid) && u.index == tm &&
      (s.wg? u.wg).any (fun x => x.launch == w.launch && x.index == wg && x.phase == .resident) &&
      (match u.park with
        | .xch n wg' tm' tag' _ none => decide (s.cycle ≤ n) && wg' == w.index && tm' == t.index && tag' == tag
        | _ => false))

/-- A partner's offer received by a team that waits in XCH. -/
def Team.matched (t : Team) (size : Nat) (offer : List (Nat × Word)) : Team :=
  match t.park with
  | .xch d wg tm tag o none => { t with park := .xch d wg tm tag o (some (size, offer)) }
  | _ => t

/-- What an exchange gives a lane: the partner's value, its own where the partner has no such lane. -/
def xchValue (own : List (Nat × Word)) (size : Nat) (theirs : List (Nat × Word)) (l : Nat) : Word :=
  if l < size then (theirs.lookup l).getD 0 else (own.lookup l).getD 0

/-- The values of a completed exchange written to the contributing lanes. -/
def State.endXch (s : State) (d : Code) (own : List (Nat × Word)) (size : Nat) (theirs : List (Nat × Word)) : Res :=
  let p := s.cur.park
  match s.unpark.writeLanes false d.toNat (s.cur.contribLanes.map (fun l => (l, [xchValue own size theirs l]))) with
  | .stay r => .stay (r.setCur { r.cur with park := p })
  | r => r

/-- The body of XCH: the offer is made and the team parks until it is matched. -/
def State.runXch (d a b : Code) (s : State) : Res :=
  match s.cur.park with
  | .xch _ _ _ _ own (some (size, theirs)) => s.endXch d own size theirs
  | .xch _ _ _ _ _ none => .stay s
  | _ =>
    let f := xchFields (s.cur.opnd32 ((lowestLane s.cur.mask).getD 0) b)
    let own := s.cur.offers a
    let deadline := s.cycle + Config.longTimeout
    if f.1 = (s.curWg.map Wg.index).getD 0 ∧ f.2.1 = s.cur.index then s.endXch d own s.cur.size own
    else
      match s.offering s.cur f.1 f.2.1 f.2.2 with
      | none => s.parkOn (.xch deadline f.1 f.2.1 f.2.2 own none)
      | some u =>
        let theirs := match u.park with
          | .xch _ _ _ _ o _ => o
          | _ => []
        (s.modTeam u.uid (fun u => u.matched s.cur.size own)).parkOn
          (.xch deadline f.1 f.2.1 f.2.2 own (some (u.size, theirs)))

/-- XCH (R320): under lane focus it executes for the whole mask. -/
def execXch (d a b : Code) (s : State) : Host.Outcome State Fault Refusal :=
  issue { whole := true, forbidden := 1, lanes := .team } { reads := [(a, 1), (b, 1)], writes := [(d, 1)] }
    (fun t s =>
      if vOk t false d && vOk t false a && skOk t false b then
        let f := xchFields (t.opnd32 ((lowestLane t.mask).getD 0) b)
        whenCond (!s.partnerOk t f.1 f.2.1) (tACCESS 5) ++
          s.stage1Conds t Need.store (s.destStores t.contribLanes d 1)
      else [(none, tOPERAND)])
    (State.runXch d a b) s

/-- XCHTMO (R320): an offer that no partner matched by its deadline is withdrawn. -/
def execXchtmo (team : Nat) (s : State) : Host.Outcome State Fault Refusal :=
  .next (match (s.team? team).map Team.park with
    | some (.xch d _ _ _ _ none) => (s.waitUntil d).trapTeam team tXCHTMO
    | _ => s)

/-! ## TCLASS (R325) -/

/-- A signed byte. -/
def byteInt (x : Nat) : Int := if 128 ≤ x % 256 then (x % 256 : Nat) - 256 else (x % 256 : Nat)

/-- A class record from its four words. -/
def classOf (ws : List Word) : ClassRec :=
  let w (i : Nat) : Nat := (ws.getD i 0).toNat
  { w0 := byteInt (bits (w 0) 0 8)
    w1 := byteInt (bits (w 0) 16 8)
    w2 := byteInt (bits (w 1) 0 8)
    w3 := byteInt (bits (w 1) 16 8)
    c0 := bits (w 0) 8 3
    c1 := bits (w 0) 24 3
    c2 := bits (w 1) 8 3
    c3 := bits (w 1) 24 3
    aff := if bits (w 3) 30 1 = 1 then some (w 2 + bits (w 3) 0 25 * 2 ^ 32) else none
    win := bits (w 3) 25 4
    clm := bits (w 3) 29 1 == 1 }

/-- Whether the reserved bits of a class descriptor are zero. -/
def classOk (ws : List Word) : Bool :=
  let w (i : Nat) : Nat := (ws.getD i 0).toNat
  decide (bits (w 0) 11 5 = 0) && decide (bits (w 0) 27 5 = 0) && decide (bits (w 1) 11 5 = 0) &&
    decide (bits (w 1) 27 5 = 0) && decide (bits (w 3) 31 1 = 0)

/-- TCLASS (R325). -/
def execTclass (a b : Code) (s : State) : Host.Outcome State Fault Refusal :=
  issue { whole := true } { reads := [(a, 1), (b, 4)], writes := [] }
    (fun t _ => okCond (skOk t false a && descOk t b &&
      (t.leader.isNone || (decide ((t.lead32 a).toNat < 64) && classOk (t.descWords b)))))
    (fun s =>
      match s.cur.leader with
      | none => .done s
      | some l =>
        let c := s.curCtx
        let n := (s.cur.opnd32 l a).toNat
        .done (s.setCtx s.curCtxNum { c with
          classes := tset ClassRec.reset c.classes n (classOf (s.cur.descWords b)) })) s

/-! ## TENDER (R326) -/

/-- Whether a launch has workgroups that are not admitted yet. -/
def State.notAdmitted (s : State) (l : Launch) : Bool :=
  (l.phase == .gated) || (l.phase == .open_ && (decide (l.next < l.count) ||
    s.anns.any (fun a => a.spec.id == l.id && a.purpose == .fresh)))

/-- Child launches of a context that are not fully admitted. -/
def State.childrenOpen (s : State) (c : Nat) : Nat :=
  (s.children.filter (fun x => x.ctx == c)).length +
    (s.launches.filter (fun l => l.ctx == c && l.child && s.notAdmitted l)).length

/-- TENDER (R326). -/
def execTender (d a b : Code) (s : State) : Host.Outcome State Fault Refusal :=
  issue { whole := true, forbidden := 1 } { reads := [(a, 2), (b, 1)], writes := [(d, 1)] }
    (fun t _ =>
      let n := (t.lead32 b).toNat
      okCond (szOk false d && sbaseOk t false a && skOk t false b &&
        (t.leader.isNone || (decide (n ≠ 0) && decide (n ≤ 65535)))) ++
        whenCond (t.leader.isSome && decide ((t.lead64 a).toNat % 64 ≠ 0)) tALIGN)
    (fun s =>
      match s.cur.leader with
      | none => .done s
      | some l =>
        s.released s.cur.scope (fun s =>
          if 256 ≤ s.childrenOpen s.curCtxNum then s.putStatus d 0xFFFFFFFF
          else
            let x : Child := ⟨s.curCtxNum, s.cur.opnd64 l a, (s.cur.opnd32 l b).toNat, clusterOf s.curCore, s.nextSeq⟩
            { s.takeSeq with children := s.children ++ [x] }.putStatus d 0)) s

end Sys2Proof.Machine
end

