-- ==== Sys2Proof/Machine/Launch.lean ====
section
/-! DEFINITION. Launch queues, launch records, dependences and completion (R390–R400, R432), and the pages that the
distributor reads. -/

namespace Sys2Proof.Machine

/-! ## What the distributor reads (R362, R394) -/

/-- The outcome of a read by the distributor: the value, a wait for service or a peer, or a failure. -/
inductive DistRead where
  | got (v : Nat)
  | wait
  | fail
deriving DecidableEq, Repr

/-- Asks service for a page that the distributor missed, unless its service has failed already (R362, R396). -/
def State.distMiss (s : State) (c access : Nat) (t : Trap) (page : Nat) : State × DistRead :=
  let x := s.ctx c
  if x.failedPages.contains page then
    (s.setCtx c { x with failedPages := x.failedPages.filter (fun p => decide (p ≠ page)) }, .fail)
  else (s.askPage c page access t (4, c) (s.partyArg 0 0 4), .wait)

/-- A read within one page of a context. -/
def State.distPart (s : State) (c : Nat) (va : DWord) (n : Nat) : State × DistRead :=
  match (s.beforeWalk c va).translate c va Need.load with
  | (s, .at_ (.peer d m) loc) =>
    if (s.proxyLine (lineOf loc)).isSome then (s, .got (cellNat s.mem loc n)) else (s.wantLine (4, c) d c m loc, .wait)
  | (s, .at_ space loc) =>
    if s.poisoned loc n then (s, .fail)
    else if s.hostOwned (lineOf loc) then (s.snoopLine (lineOf loc) true, .wait)
    else (s.recallCopies loc n, .got ((s.recallCopies loc n).readAt 0xFFFF 0 space loc n))
  | (s, .gone _) => (s, .fail)
  | (s, .miss t p) => s.distMiss c 0 t p

/-- A read of up to 256 bytes, as little-endian number, in parts that stay within a line. -/
def State.distRead (c : Nat) : Nat → DWord → Nat → State → State × DistRead
  | 0, _, _, s => (s, .got 0)
  | fuel + 1, va, n, s =>
    if n = 0 then (s, .got 0)
    else
      let k := min n (128 - va.toNat % 128)
      match s.distPart c va k with
      | (s, .got v) =>
        match State.distRead c fuel (va + BitVec.ofNat 64 k) (n - k) s with
        | (s, .got w) => (s, .got (v + 256 ^ k * w))
        | r => r
      | r => r

/-- A read by the distributor. -/
def State.dist (s : State) (c : Nat) (va : DWord) (n : Nat) : State × DistRead :=
  match State.distRead c 4 va n s with
  | (s, .got v) => (s.dropSnaps, .got v)
  | r => r

/-- Whether the distributor may write at an address (R396). -/
def State.distWritable (s : State) (c : Nat) (va : DWord) : State × DistRead :=
  match (s.beforeWalk c va).translate c va Need.store with
  | (s, .at_ _ _) => (s, .got 0)
  | (s, .gone _) => (s, .fail)
  | (s, .miss t p) => s.distMiss c 1 t p

/-! ## Launch records (R395, R432) -/

/-- Bytes of a record as a number. -/
def recField (r : Nat) (off n : Nat) : Nat := r / 256 ^ off % 256 ^ n

/-- Role `k` of a record. -/
def recRole (r k : Nat) : Role :=
  let w := recField r (0x50 + 16 * k) 4
  { entry := BitVec.ofNat 64 (recField r (0x48 + 16 * k) 8)
    vregs := bits w 0 7
    sizew := bits w 8 5
    nteams := bits w 16 8
    slice := bits (recField r (0x54 + 16 * k) 4) 0 12 }

/-- Whether a role in use keeps R395. -/
def recRoleOk (r k : Nat) : Bool :=
  let w := recField r (0x50 + 16 * k) 4
  let x := recRole r k
  decide (x.entry.toNat % 4 = 0) && decide (8 ≤ x.vregs) && decide (x.vregs ≤ 96) && decide (1 ≤ x.nteams) &&
    decide (x.nteams ≤ 32) && decide (x.slice ≤ 2048) && decide (bits w 7 1 = 0) && decide (bits w 13 3 = 0) &&
    decide (bits w 24 8 = 0) && decide (recField r (0x54 + 16 * k) 4 < 4096)

/-- The fields of word 0x00. -/
def recRoles (r : Nat) : Nat := bits (recField r 0 4) 0 3
/-- INDIRECT; ignored in a record that TENDER submits (R395). -/
def recIndirect (r : Nat) (child : Bool) : Bool := bits (recField r 0 4) 5 1 == 1 && !child
/-- DEPS. -/
def recDeps (r : Nat) : Nat := bits (recField r 0 4) 20 4
/-- HANK. -/
def recHank (r : Nat) : Nat := bits (recField r 0 4) 24 5

/-- Whether the hank fields keep R395 and R432. -/
def recHankOk (r ndev : Nat) : Bool :=
  let h := recHank r
  let map := recField r 0xC8 8
  let exp := recField r 0xD0 4
  if h = 0 then decide (map = 0) && decide (exp = 0)
  else decide (2 ≤ h) && decide (h ≤ 16) && decide (map < 16 ^ h) &&
    (List.range h).all (fun m => decide (bits map (4 * m) 4 < ndev)) && decide (exp < 2 ^ 20) &&
    decide (exp % 256 = 0) && decide (exp ≤ bits (recField r 4 4) 0 20)

/-- Whether a record at an address is valid (R395, R432). -/
def recOk (r : Nat) (addr : DWord) (child : Bool) (ndev : Nat) : Bool :=
  let w := recField r 0 4
  let count := recField r 0x10 4
  decide (addr.toNat % 64 = 0) && decide (1 ≤ recRoles r) && decide (recRoles r ≤ 4) && decide (bits w 29 3 = 0) &&
    decide (bits w 12 4 ≤ bits w 16 4) && decide (bits w 16 4 ≤ 8) && decide (recDeps r ≤ 8) &&
    decide (recField r 4 4 ≤ 786432) && decide (recField r 8 4 ≤ 64) && decide (recField r 0x14 4 = 0) &&
    (child || recIndirect r child || (decide (1 ≤ count) && decide (count ≤ 65535))) &&
    (!recIndirect r child || decide (recField r 0x18 8 % 4 = 0)) &&
    (List.range (recRoles r)).all (recRoleOk r) && recHankOk r ndev && decide (recField r 0xD4 44 = 0) &&
    (recHank r = 0 || recIndirect r child || child || decide (count % recHank r = 0))

/-- The launch that a record describes. -/
def launchOf (r : Nat) (id ctx : Nat) (addr : DWord) (child : Option Child) (order : Nat) : Launch :=
  let w := recField r 0 4
  { id := id
    ctx := ctx
    record := addr
    child := child.isSome
    roles := (List.range (recRoles r)).map (recRole r)
    prio := bits w 3 2
    indirect := recIndirect r child.isSome
    cls := bits w 6 6
    smin := bits w 12 4
    smax := bits w 16 4
    deps := (List.range (recDeps r)).map (fun i => BitVec.ofNat 64 (recField r (0x88 + 8 * i) 8))
    hank := recHank r
    scratch := recField r 4 4
    sems := recField r 8 4
    seed := BitVec.ofNat 32 (recField r 0xC 4)
    count := match child with
      | some c => c.count
      | none => recField r 0x10 4
    countAddr := BitVec.ofNat 64 (recField r 0x18 8)
    completion := BitVec.ofNat 64 (recField r 0x20 8)
    params := (List.range 8).map (fun i => BitVec.ofNat 32 (recField r (0x28 + 4 * i) 4))
    hmap := BitVec.ofNat 64 (recField r 0xC8 8)
    hexp := recField r 0xD0 4
    order := order
    cluster := child.map Child.cluster
    origin := none
    phase := .gated
    next := 0
    ended := 0
    stopped := false
    status := 0
    trap := 0 }

/-! ## Needs of a workgroup (R188, R193, R321) -/

/-- What a workgroup occupies of a core. -/
structure Needs where
  teams : Nat
  regs : Nat
  store : Nat
  sems : Nat
deriving DecidableEq, Repr

/-- The team size of a role. -/
def Role.size (r : Role) : Nat := 32 * (r.sizew + 1)

/-- The needs of a launch's workgroups. -/
def Launch.needs (l : Launch) : Needs where
  teams := l.teams
  regs := (l.roles.map (fun r => r.nteams * ((r.vregs + 7) / 8 * 8 * r.size * 4))).sum
  store := (l.scratch + 255) / 256 * 256 + (l.roles.map (fun r => r.nteams * ((r.size * r.slice + 15) / 16 * 16))).sum
  sems := l.sems

/-- Whether needs fit beside what is in use: 32 teams, 2 MiB of registers, 768 KiB of store, 64 semaphores (R7). -/
def Needs.fits (n used : Needs) : Bool :=
  decide (used.teams + n.teams ≤ 32) && decide (used.regs + n.regs ≤ 2097152) &&
    decide (used.store + n.store ≤ 786432) && decide (used.sems + n.sems ≤ 64)

/-! ## Completion (R397) -/

/-- The completion word: DONE, the trap code of statuses 1 and 2, the status. -/
def completionWord (status trap : Nat) : Nat :=
  2 ^ 63 + (if status = 1 ∨ status = 2 then trap % 256 * 256 else 0) + status % 256

/-- A launch completes: its word is written once and it is forgotten. -/
def State.completeLaunch (s : State) (l : Launch) (status : Nat) : State :=
  let s := { s with launches := s.launches.filter (fun (x : Launch) => !(x.id == l.id)) }
  if l.origin.isSome then s else s.writeCtx l.ctx l.completion (leBytes 8 (completionWord status l.trap))

/-- Takes a record that has been read (R396): dropped with a context fault, completed without running, or taken. False
in the second part: the completion word's page is still in service. -/
def State.takeRecord (s : State) (c : Nat) (addr : DWord) (r : Nat) (child : Option Child) : State × Bool :=
  let comp : DWord := BitVec.ofNat 64 (recField r 0x20 8)
  let w := if comp.toNat % 8 ≠ 0 then (s, DistRead.fail) else s.distWritable c comp
  match w with
  | (s, .wait) => (s, false)
  | (s, .fail) => (s.postFq c 3 2 addr 0 0, true)
  | (s, .got _) =>
    let l := launchOf r s.nextUid c addr child ((child.map Child.order).getD s.nextSeq)
    let s := { s.takeSeq with nextUid := s.nextUid + 1 }
    if !recOk r addr child.isSome s.fab.ndev ||
        (child.isSome && decide (l.hank ≠ 0) && decide (l.count % l.hank ≠ 0)) then (s.completeLaunch l 6, true)
    else if !l.needs.fits ⟨0, 0, 0, 0⟩ then (s.completeLaunch l 4, true)
    else ({ s with launches := s.launches ++ [l] }, true)

/-! ## The launch queue (R393, R394) -/

/-- Launches of a context taken and not complete. -/
def State.openLaunches (s : State) (c : Nat) : Nat :=
  (s.launches.filter (fun l => l.ctx == c && l.origin.isNone)).length

/-- HEAD moves past a slot. -/
def State.passSlot (s : State) (c : Nat) : State :=
  let x := s.ctx c
  let s := s.setCtx c { x with head := x.head + 1 }
  s.writeCtx c (x.lq + 128) (leBytes 4 (x.head + 1).toNat)

/-- The slot at HEAD is taken: its record is read and judged; what cannot be read is dropped (R396). -/
def State.takeSlot (s : State) (c : Nat) : State :=
  let x := s.ctx c
  let at_ : DWord := x.lq + 256 + BitVec.ofNat 64 (8 * (x.head.toNat % 2 ^ (x.lqk + 4)))
  match s.dist c at_ 8 with
  | (s, .wait) => s
  | (s, .fail) => (s.postFq c 3 3 at_ 0 0).passSlot c
  | (s, .got rec) =>
    let addr : DWord := BitVec.ofNat 64 rec
    match s.dist c addr 256 with
    | (s, .wait) => s
    | (s, .fail) => (s.postFq c 3 3 addr 0 0).passSlot c
    | (s, .got r) =>
      match s.takeRecord c addr r none with
      | (s, true) => s.passSlot c
      | (s, false) => s

/-- One step of the distributor on a context's queue: HEAD when it becomes VALID, TAIL when its line has changed, else
the next slot. -/
def State.tailStep (s : State) (c : Nat) : State :=
  let x := s.ctx c
  if !x.valid then s
  else if !x.started then
    match s.dist c (x.lq + 128) 4 with
    | (s, .got h) => s.setCtx c { s.ctx c with head := BitVec.ofNat 32 h, started := true, tailPend := true }
    | (s, .wait) => s
    | (s, .fail) => s.setCtx c { s.ctx c with started := true, tailPend := false }
  else
    match x.tailRead with
    | some t =>
      if x.head = t then s.setCtx c { x with tailRead := none }
      else if 1024 ≤ s.openLaunches c then s
      else s.takeSlot c
    | none =>
      if !x.tailPend then s
      else
        let place := match (s.translate c x.lq Need.load).2 with
          | .at_ _ loc => some loc
          | _ => none
        match s.dist c x.lq 4 with
        | (s, .wait) => s
        | (s, .fail) => s.setCtx c { s.ctx c with tailPend := false }
        | (s, .got v) =>
          let t : Word := BitVec.ofNat 32 v
          let s := s.setCtx c { s.ctx c with tailPend := false, tail := place }
          if 2 ^ (x.lqk + 4) < (t - x.head).toNat then s.postFq c 3 1 (t.setWidth 64) 0 0
          else s.setCtx c { s.ctx c with tailRead := some t }

/-- TAIL_CHANGE (R394) for the selected context. -/
def execTailChange (s : State) : Host.Outcome State Fault Refusal := .next (s.tailStep s.sel)

/-- CHILD_LAUNCH_TAKE (R326): the oldest child launch of the queue that can be read. -/
def execChildLaunchTake (s : State) : Host.Outcome State Fault Refusal :=
  .next (match s.children[s.sel]? with
    | none => s
    | some x =>
      let drop (s : State) : State := { s with children := s.children.filter (fun (y : Child) => decide (y ≠ x)) }
      match s.dist x.ctx x.addr 256 with
      | (s, .wait) => s
      | (s, .fail) => drop (s.postFq x.ctx 3 3 x.addr 0 0)
      | (s, .got r) =>
        match s.takeRecord x.ctx x.addr r (some x) with
        | (s, true) => drop s
        | (s, false) => s)

/-! ## Dependences and counts (R399, R400) -/

/-- What the dependence words say. -/
inductive Gate where
  | ready | waits | failed | unreadable
deriving DecidableEq, Repr

/-- Tests every dependence word. -/
def State.testDeps (c : Nat) : List DWord → State → State × Gate
  | [], s => (s, .ready)
  | d :: ds, s =>
    match s.dist c d 8 with
    | (s, .fail) => (s, .unreadable)
    | (s, .wait) =>
      let r := State.testDeps c ds s
      (r.1, if r.2 = .ready then .waits else r.2)
    | (s, .got v) =>
      if bits v 63 1 = 1 ∧ bits v 0 8 ≠ 0 then (s, .failed)
      else
        let r := State.testDeps c ds s
        (r.1, if bits v 63 1 = 0 ∧ r.2 = .ready then .waits else r.2)

/-- The gate opens: the count is fixed once (R400). -/
def State.openGate (s : State) (l : Launch) : State :=
  let open_ (s : State) (n : Nat) : State := s.modLaunch l.id (fun l => { l with count := n, phase := .open_ })
  if !l.indirect then open_ s l.count
  else
    match s.dist l.ctx l.countAddr 4 with
    | (s, .wait) => s
    | (s, .fail) => s.completeLaunch l 8
    | (s, .got n) =>
      if n = 0 then s.completeLaunch l 0
      else if 65535 < n ∨ (l.hank ≠ 0 ∧ n % l.hank ≠ 0) then s.completeLaunch l 6
      else open_ s n

/-- GATE_OPEN (R399) for the selected launch. -/
def execGateOpen (s : State) : Host.Outcome State Fault Refusal :=
  .next (match s.launches[s.sel]? with
    | none => s
    | some l =>
      if l.phase ≠ .gated then s
      else
        match State.testDeps l.ctx l.deps s with
        | (s, .ready) => s.openGate l
        | (s, .waits) => s
        | (s, .failed) => s.completeLaunch l 7
        | (s, .unreadable) => s.completeLaunch l 8)

/-- END_LAUNCH_BY_SYSTEM_SOFTWARE (R399): a launch whose gate has not opened completes with status 9. -/
def execEndLaunchBySystemSoftware (launch : Nat) (s : State) : Host.Outcome State Fault Refusal :=
  .next (match s.launch? launch with
    | some l => if l.phase = .gated then s.completeLaunch l 9 else s
    | none => s)

/-- SERVICE_END_WORKGROUP (R398, R452): status 9. -/
def execServiceEndWorkgroup (wg : Nat) (s : State) : Host.Outcome State Fault Refusal :=
  .next (if (s.wg? wg).any (fun w => w.phase == .resident || w.phase == .stopping || w.phase == .saved) then
    s.endWg wg 9 0 else s)

end Sys2Proof.Machine
end

