-- ==== Sys2Proof/Machine/Tender.lean ====
section
/-! DEFINITION. Placing workgroups (R317, R321, R322, R332, R401–R403, R434): needs and free resources, counters and costs, budgets,
announcements, and admission with the start values of R72. -/

namespace Sys2Proof.Machine

/-! ## What a core has left (R188, R193, R321) -/

/-- Adds needs. -/
def Needs.add (a b : Needs) : Needs := ⟨a.teams + b.teams, a.regs + b.regs, a.store + b.store, a.sems + b.sems⟩

/-- Register-file bytes of a team (R188). -/
def Team.regBytes (t : Team) : Nat := (t.allot + 7) / 8 * 8 * t.size * 4

/-- What a workgroup occupies: its teams that have not ended, its store, its semaphores. -/
def State.wgNeeds (s : State) (w : Wg) : Needs :=
  let ts := s.wgTeams w.uid
  ⟨ts.length, (ts.map Team.regBytes).sum, w.storeBytes, w.sems.length⟩

/-- What is reserved on a core: for members of hanks, new or saved, and for saved workgroups that come back with them (R319, R434,
R443). -/
def State.reservedNeeds (s : State) (core : Nat) : List Needs :=
  s.fab.reserved.flatMap (fun r =>
    (if r.core == core then [((s.wgs.find? r.saves).map s.wgNeeds).getD r.launch.needs] else []) ++
      ((r.mates.filter (fun m => m.2 == core)).filterMap (fun m => s.wg? m.1)).map s.wgNeeds)

/-- What is in use on a core, reservations for hank members included (R434). -/
def State.used (s : State) (core : Nat) : Needs :=
  let a := ((s.wgs.filter (fun w => w.core == core && w.holdsCore)).map s.wgNeeds).foldl Needs.add ⟨0, 0, 0, 0⟩
  (s.reservedNeeds core).foldl Needs.add a

/-- Whether a cluster is reserved for a hank member of a CLM class, of a context that satisfies a test (R317, R434). -/
def State.clusterReserved (s : State) (core : Nat) (ctx : Nat → Bool) : Bool :=
  s.fab.reserved.any (fun r => r.cls.clm && clusterOf r.core == clusterOf core && ctx r.ctx)

/-- Whether a workgroup of a CLM class may come to a core: its cluster is free, or held by the context and not being
saved (R317, R319). -/
def State.clusterFits (s : State) (core ctx : Nat) (clm : Bool) : Bool :=
  !clm || (!s.clusterReserved core (fun c => c != ctx) && (match alook s.claims (clusterOf core) with
    | none => true
    | some c => c == ctx &&
      !s.wgs.any (fun w => w.clm && w.phase == .stopping && clusterOf w.core == clusterOf core)))

/-- The reservations of cores of a die for workgroups that declare chip scratchpad (R332, R434). -/
def State.chipReserved (s : State) (core : Nat) : List Reservation :=
  s.fab.reserved.filter (fun r => decide (r.launch.smax ≠ 0) && dieOf r.core == dieOf core)

/-- Whether a workgroup that declares chip scratchpad may come to a core (R332). -/
def State.chipFits (s : State) (core ctx smax : Nat) : Bool :=
  let d := s.die (dieOf core)
  smax == 0 || (match d.holder with
    | none => (s.chipReserved core).all (fun r => r.ctx == ctx && r.launch.smax == smax &&
        !s.wgs.any (fun w => r.saves w && w.chip.isSome))
    | some c => c == ctx && decide (smax ≤ d.smax))

/-- Whether a core can take a workgroup of a launch (R322, R435). -/
def State.coreFits (s : State) (core : Nat) (l : Launch) (clm hank : Bool) : Bool :=
  decide (core < 192) && s.coreOn core && l.needs.fits (s.used core) && s.clusterFits core l.ctx clm &&
    s.chipFits core l.ctx l.smax && (hank || ((s.core core).drainHold).isNone)

/-! ## Counters and cost (R322) -/

/-- Whether a team is parked (R184): a wait for another device's answer to an access, or HDETACH's for its count, is none. -/
def Team.parked (t : Team) : Bool :=
  match t.park with
  | .running => false
  | .access => false
  | .drain _ => false
  | .commit => false
  | .detach _ _ => false
  | .page =>
    match t.service with
    | some v => v.asked.any (fun a => decide (a.2 ≠ 9))
    | none => true
  | _ => true

/-- Distance between dies: 0 the same, else by the XOR of their indices. -/
def dieDistance (a b near far : Nat) : Nat := if a = b then 0 else if a ^^^ b = 3 then far else near

/-- Counter 4: the distance to the tenderer's cluster. -/
def clusterDistance (core : Nat) (cluster : Option Nat) : Nat :=
  match cluster with
  | none => 0
  | some n =>
    let c := clusterOf core
    if c = n then 0
    else if c / 6 = n / 6 then (if (c % 6 - n % 6) + (n % 6 - c % 6) ≤ 2 then 1 else 2)
    else dieDistance (c / 6) (n / 6) 4 6

/-- An affinity address: bits [56:0] of a canonical address (R130, R325). -/
def affAddr (x : Nat) : Nat := if x < 2 ^ 56 then x else x + (2 ^ 64 - 2 ^ 57)

/-- Where a readable address of a context lies, with no page request. -/
def State.probe (s : State) (ctx : Nat) (va : Nat) : Option Nat :=
  match (s.translate ctx (BitVec.ofNat 64 va) Need.load).2 with
  | .at_ _ loc => some loc
  | _ => none

/-- A counter of a core. DESIGN CHOICE (R322): an affinity address in a peer's memory has no home slice on this device; bits [13:12] of
its place there stand for the die (log entry 80). -/
def State.counter (s : State) (a : Ann) (core c : Nat) : Nat :=
  let here := s.wgs.filter (fun w => w.core == core && w.holdsCore)
  let teams := s.teams.filter (fun t => t.live && here.any (fun w => w.uid == t.wg))
  let aff (f : Nat → Nat) : Nat := match a.cls.aff with
    | none => 0
    | some va =>
      match s.probe a.ctx (affAddr va) with
      | none => 0
      | some _ => f (affAddr va)
  match c with
  | 0 => (here.filter (fun w => w.ctx == a.ctx && w.cls == a.spec.cls)).length
  | 1 => (2097152 - (s.used core).regs) * 256 / 2097152
  | 2 => (teams.filter (fun t => !t.parked)).length
  | 3 => (teams.filter Team.parked).length
  | 4 => clusterDistance core a.spec.cluster
  | 5 => aff (fun va => (s.probe a.ctx va).elim 0 (fun loc =>
      if s.homeDie loc = dieOf core then 1 else dieDistance (s.homeDie loc) (dieOf core) 3 5))
  | 6 => aff (fun va => ((List.range 64).filter (fun i =>
      match s.probe a.ctx (va / 128 * 128 + 128 * i) with
      | some loc => s.coh.copies.any (fun k => k.agent == core && k.line == lineOf loc)
      | none => false)).length)
  | _ => min 255 (((s.core core).awards.filter (fun t => decide (s.cycle - t < 65536))).length)

/-- The cost of a bid (R322): exact, then clamped. -/
def State.cost (s : State) (a : Ann) (core : Nat) : Nat :=
  let term (w : Int) (c : Nat) : Int := if w = 0 then 0 else w * (s.counter a core c : Nat)
  let x := term a.cls.w0 a.cls.c0 + term a.cls.w1 a.cls.c1 + term a.cls.w2 a.cls.c2 + term a.cls.w3 a.cls.c3
  (max 0 (min x 65535)).toNat

/-! ## Budgets and order (R401, R402) -/

/-- Whether an announcement is in flight. -/
def Ann.inFlight (a : Ann) : Bool := a.phase == .bidding || a.phase == .awarded

/-- Teams of a context that are resident. -/
def State.residentTeams (s : State) (c : Nat) : Nat :=
  ((s.wgs.filter (fun w => w.ctx == c && w.holdsCore)).map (fun w => (s.wgTeams w.uid).length)).sum

/-- Teams of a context's workgroups announced and neither admitted nor given up, hank reservations included. -/
def State.announcedTeams (s : State) (c : Nat) : Nat :=
  ((s.anns.filter (fun a => a.ctx == c)).map Ann.teams).sum +
    ((s.fab.reserved.filter (fun r => r.ctx == c)).map (fun r =>
      r.launch.teams + (r.mates.map (fun m => (s.wgTeams m.1).length)).sum)).sum

/-- The three budgets of a context (R402). -/
def State.budgetsPass (s : State) (c n : Nat) : Bool :=
  let x := s.ctx c
  (x.teamBudget == 0 || decide (s.residentTeams c + s.announcedTeams c + n ≤ x.teamBudget)) &&
    (x.bw == 0 || decide (0 < x.bucketLevel)) &&
    (x.power == 0 || decide (Config.activity s.fresh c < x.power))

/-- Whether the context's pool has a slot for each team of one more workgroup, beside those reserved for confirmed awards
(R321, R359). Saved teams keep theirs. -/
def State.slotsLeft (s : State) (c n : Nat) : Bool :=
  decide ((s.ctx c).slotsUsed.length +
    ((s.fab.reserved.filter (fun r => r.ctx == c && !s.wgs.any r.saves)).map (fun r => r.launch.teams)).sum + n ≤ (s.ctx c).lslots)

/-- A context's next launch to announce from: the highest priority, then the oldest (R401). -/
def State.nextLaunch (s : State) (c : Nat) : Option Launch :=
  (s.launches.filter (fun l => l.ctx == c && l.phase == .open_ && !l.stopped && l.origin.isNone &&
      decide (l.next < l.count) && !s.fab.attempts.any (fun a => a.launch == l.id && a.active && !a.restore))).foldl (fun r l =>
    match r with
    | none => some l
    | some x => if x.prio < l.prio ∨ (x.prio = l.prio ∧ l.order < x.order) then some l else some x) none

/-- The launch that is announced next (R401, R402). -/
def State.pickLaunch (s : State) : Option Launch :=
  let cs := (List.range 16).map (fun i => (s.served + 1 + i) % 16)
  (cs.filterMap (fun c => (s.nextLaunch c).filter (fun l => s.budgetsPass c l.teams && s.slotsLeft c l.teams))).foldl
    (fun r l =>
      match r with
      | none => some l
      | some x => if x.prio < l.prio then some l else some x) none

/-! ## Announcing (R322, R324, R403) -/

/-- The class record of a context. -/
def Context.cls (c : Context) (n : Nat) : ClassRec := tget ClassRec.reset c.classes n

/-- Whether a context's placement is host-assisted (R324, R407). -/
def Context.placed (c : Context) : Bool := c.placeAssist || c.assist.getLsbD 2

/-- Asks system software to place a workgroup (R403). -/
def State.askPlace (s : State) (a : Ann) (sub : Nat) : State :=
  let m := match a.purpose with
    | .hank _ _ _ _ m => m
    | _ => 0
  s.postFq a.ctx 2 sub a.spec.record (BitVec.ofNat 64 (a.wg % 2 ^ 16 + m * 2 ^ 16)) a.id

/-- A workgroup is announced, or offered to system software. -/
def State.announce (s : State) (l : Launch) (wg : Nat) (purpose : AnnFor) (teams : Nat) (byHost : Bool) : State :=
  let a : Ann :=
    { id := s.nextUid
      ctx := l.ctx
      spec := l
      wg := wg
      cls := (s.ctx l.ctx).cls l.cls
      purpose := purpose
      teams := teams
      phase := if byHost then .starved else .bidding
      since := s.cycle
      kept := []
      awarded := none
      retenders := 0
      again := false }
  let s := { s with nextUid := s.nextUid + 1, anns := s.anns ++ [a] }
  if byHost then s.askPlace a 0 else s

/-- Changes one announcement. -/
def State.modAnn (s : State) (id : Nat) (f : Ann → Ann) : State :=
  { s with anns := s.anns.map (fun a => if a.id == id then f a else a) }

/-- An announcement ends. -/
def State.dropAnn (s : State) (id : Nat) : State :=
  { s with anns := s.anns.filter (fun (a : Ann) => !(a.id == id)) }

/-! ## Hank packets (R434, log entry 14) -/

/-- What names a hank's launch in packets: origin device and launch. -/
def hankKey (dev id : Nat) : Nat := dev * 2 ^ 16 + id % 2 ^ 16

/-- The payload of a reserve: all that a member's device needs of the launch. -/
def reservePayload (l : Launch) : List Byte :=
  let role (k : Nat) : Role := l.roles.getD k ⟨0, 8, 0, 0, 0⟩
  leBytes 8 (l.roles.length + l.prio * 8 + l.cls * 32 + l.smin * 2 ^ 11 + l.smax * 2 ^ 15 + l.hank * 2 ^ 19 +
    l.scratch * 2 ^ 24 + l.sems * 2 ^ 44) ++
    (List.range 4).flatMap (fun k => leBytes 8 (role k).entry.toNat ++
      leBytes 5 ((role k).vregs + (role k).sizew * 2 ^ 7 + (role k).nteams * 2 ^ 12 + (role k).slice * 2 ^ 20)) ++
    leBytes 4 l.seed.toNat ++ leBytes 4 l.count ++ l.params.flatMap (fun p => leBytes 4 p.toNat) ++
    leBytes 8 l.hmap.toNat ++ leBytes 4 l.hexp ++ leBytes 8 l.record.toNat

/-- The launch that a reserve describes on a member's device. -/
def launchFrom (bs : List Byte) (ctx origin id : Nat) : Launch :=
  let f (off n : Nat) : Nat := leNat ((bs.drop off).take n)
  let w := f 0 8
  let role (k : Nat) : Role :=
    let x := f (8 + 13 * k + 8) 5
    ⟨BitVec.ofNat 64 (f (8 + 13 * k) 8), bits x 0 7, bits x 7 5, bits x 12 8, bits x 20 12⟩
  { id := 0
    ctx := ctx
    record := BitVec.ofNat 64 (f 112 8)
    child := false
    roles := (List.range (bits w 0 3)).map role
    prio := bits w 3 2
    indirect := false
    cls := bits w 5 6
    smin := bits w 11 4
    smax := bits w 15 4
    deps := []
    hank := bits w 19 5
    scratch := bits w 24 20
    sems := bits w 44 7
    seed := BitVec.ofNat 32 (f 60 4)
    count := f 64 4
    countAddr := 0
    completion := 0
    params := (List.range 8).map (fun i => BitVec.ofNat 32 (f (68 + 4 * i) 4))
    hmap := BitVec.ofNat 64 (f 100 8)
    hexp := f 108 4
    order := 0
    cluster := none
    origin := some (origin, id)
    phase := .open_
    next := 0
    ended := 0
    stopped := false
    status := 0
    trap := 0 }

/-- The device of a hank's member. -/
def Launch.deviceOf (l : Launch) (m : Nat) : Nat := bits l.hmap.toNat (4 * m) 4

/-- The devices that a launch's hanks name, each once. -/
def Launch.devices (l : Launch) : List Nat := ((List.range l.hank).map l.deviceOf).eraseDups

/-- A hank packet goes to a device; to the device itself it is delivered at once. -/
def State.sendHank (s : State) (dst : Nat) (k : Packet) : State :=
  if dst = s.fab.dev then { s with fab := { s.fab with rx := s.fab.rx ++ [k] } } else s.sendTo dst none k

/-- A packet of a placement attempt: member and attempt in MISC below the key, the hank's number in PA. -/
def State.hankMsg (s : State) (dst ctx op tag key attempt member hank : Nat) (payload : List Byte) : State :=
  s.sendHank dst (mkPacket ctx s.fab.dev dst (if op = 0x31 then 1 else 0) op tag
    (member + attempt % 2 ^ 12 * 16 + key * 2 ^ 16) (hank * 2 ^ 28) payload)

/-- An attempt sends reserve to every member's device (R434). -/
def State.sendReserves (s : State) (l : Launch) (a : Attempt) : State :=
  (List.range l.hank).foldl (fun s m =>
    s.hankMsg (l.deviceOf m) l.ctx 0x30 0 (hankKey s.fab.dev l.id) a.id m a.hank (reservePayload l)) s

/-- The first attempt of a launch's next hank. -/
def State.startAttempt (s : State) (l : Launch) : State :=
  let a : Attempt := ⟨s.nextUid, l.id, l.next / l.hank, List.replicate l.hank none, true, false, s.cycle, none⟩
  ({ s with nextUid := s.nextUid + 1, fab := { s.fab with attempts := s.fab.attempts ++ [a] } }).sendReserves l a

/-- An award to a core is counted (R322). -/
def State.noteAward (s : State) (core : Nat) : State :=
  let c := s.core core
  s.setCore core { c with awards := c.awards.filter (fun t => decide (s.cycle - t < 65536)) ++ [s.cycle] }

/-- A member's device answers the origin: 0 reserved with a core, 1 none, 2 context not valid (R434). -/
def State.answerReserve (s : State) (ctx origin attempt key hank member result : Nat) : State :=
  s.hankMsg origin ctx 0x31 0 key attempt member hank (leBytes 4 result)

/-- A resource-release event: held announcements may be made again (R324). -/
def State.freeEvent (s : State) : State :=
  { s with anns := s.anns.map (fun (a : Ann) => if a.phase == .held then { a with again := true } else a) }

/-! ## Admission (R52, R72, R194, R317, R332) -/

/-- The seed of a lane's generator (R52). -/
def seedOf (seed : Word) (w t l : Nat) : Word :=
  let g := seed ^^^ BitVec.ofNat 32 ((w * 32768 + t * 1024 + l + 1) * 0x9E3779B9)
  if g = 0 then 0x6D2B79F5 else g

/-- The scalars of a team at admission (R72). -/
def startScalars (params : List Word) (w t r count : Nat) : Table Word :=
  let vals : List (Nat × Word) := params.zipIdx.map (fun e => (e.2, e.1)) ++
    [(8, BitVec.ofNat 32 w), (9, BitVec.ofNat 32 t), (10, BitVec.ofNat 32 r), (11, BitVec.ofNat 32 count),
      (22, 0), (23, 0xFFFFF000)]
  vals.foldl (fun s e => tset 0 s e.1 e.2) []

/-- A team at admission (R68, R72). -/
def startTeam (l : Launch) (role : Role) (r wg w uid index slot now : Nat) : Team :=
  { Team.absent with
    live := true
    uid := uid
    wg := wg
    role := r
    index := index
    size := role.size
    allot := role.vregs
    slice := role.slice
    slot := slot
    pc := role.entry
    mask := fullMask role.size
    s := startScalars l.params w index r l.count
    tstat := BitVec.ofNat 32 (role.sizew * 2 ^ 24)
    gen := (List.range role.size).map (fun k => (k, seedOf l.seed w index k))
    now := now }

/-- The roles of a launch's teams, in role order: role number and role. -/
def Launch.teamRoles (l : Launch) : List (Nat × Role) :=
  l.roles.zipIdx.flatMap (fun e => List.replicate e.1.nteams (e.2, e.1))

/-- Memory cells of a store dropped: it reads as zero. -/
def State.clearStore (s : State) (kind id : Nat) : State :=
  { s with
    mem := s.mem.filter (fun c => !(locKind c.1 == kind && locId c.1 == id))
    poison := s.poison.filter (fun g => !(locKind (8 * g) == kind && locId (8 * g) == id))
    barriers := s.barriers.filter (fun b => !(locKind b == kind && locId b == id)) }

/-- Memory cells of a store moved to another. -/
def State.moveStore (s : State) (kind a b : Nat) : State :=
  let mine := s.mem.filter (fun c => locKind c.1 == kind && locId c.1 == a)
  let move (x : Nat) : Nat := if locKind x == kind && locId x == a then mkLoc kind b (locOff x) else x
  { s with
    mem := writeCells (s.mem.filter (fun c => !(locKind c.1 == kind && locId c.1 == a)))
      (mine.map (fun c => (mkLoc kind b (locOff c.1), c.2)))
    poison := s.poison.map (fun g => move (8 * g) / 8)
    barriers := s.barriers.map move }

/-- Claims a free cluster for a context: every enabled segment is zero (R317). -/
def State.claimCluster (s : State) (core ctx : Nat) : State :=
  let n := clusterOf core
  match alook s.claims n with
  | some _ => s
  | none =>
    let s := { s with claims := aput s.claims n ctx }
    (List.range 8).foldl (fun s j => s.clearStore 3 (8 * n + j)) s

/-- The largest Smin of a context's resident launches on a die (R332). -/
def State.chipMin (s : State) (d ctx : Nat) : Nat :=
  ((s.wgs.filter (fun w => w.ctx == ctx && dieOf w.core == d && w.holdsCore && decide (w.smax ≠ 0))).map Wg.smin).foldl max 0

/-- A held scratchpad with another Smin: every slice's boundary stays, or rises to it (R332, R334). -/
def Die.withSmin (d : Die) (n : Nat) : Die :=
  { d with
    smin := n
    bounds := (List.range 16).foldl (fun b j => tset 0 b j (max n (d.smin + tget 0 d.bounds j) - n)) [] }

/-- A die's scratchpad changes; where a boundary rises, the slice has the ways still to take (R334, R339). -/
def State.moveBounds (s : State) (n : Nat) (d : Die) : State :=
  (s.setDie n { d with lag := (List.range 16).foldl (fun l j =>
    tset 0 l j (d.smin + tget 0 d.bounds j - s.boundary (16 * n + j))) [] }).takeDie n

/-- A chip scratchpad that nobody holds (R332). -/
def Die.released (d : Die) : Die := { d with holder := none, smin := 0, smax := 0, bounds := [], lag := [] }

/-- Claims a free chip scratchpad: every byte reads as zero (R332). -/
def State.claimChip (s : State) (core ctx smin smax : Nat) : State :=
  let d := dieOf core
  let x := s.die d
  if smax = 0 then s
  else
    match x.holder with
    | some _ => s.moveBounds d (x.withSmin (max x.smin smin))
    | none => (s.clearStore 4 d).moveBounds d { x with holder := some ctx, smin := smin, smax := smax, bounds := [] }

/-- Free backing slots of a context, lowest first. -/
def State.freeSlots (s : State) (c : Nat) : List Nat :=
  let x := s.ctx c
  (List.range x.lslots).filter (fun n => !x.slotsUsed.contains n)

/-- Tells the members of a hank on this device of one another. -/
def State.joinHank (s : State) (key hank m uid : Nat) : State :=
  let others := s.wgs.filterMap (fun w =>
    match w.hank with
    | some h => if h.key == key && h.hank == hank then some (h.member, w.uid) else none
    | none => none)
  { s with wgs := s.wgs.map (fun (w : Wg) =>
      match w.hank with
      | some h =>
        if h.key == key && h.hank == hank then
          { w with hank := some { h with wgs := (others.foldl (fun l o => l.set o.1 (some o.2)) h.wgs).set m (some uid) } }
        else w
      | none => w) }

/-- A workgroup is admitted to a core (R72, R194, R321): its resources, its teams and their start values. -/
def State.admitWg (s : State) (l : Launch) (w core : Nat) (cls : ClassRec) (hank : Option HankInfo) : State :=
  let uid := s.nextUid
  let roles := l.teamRoles
  let slots := (s.freeSlots l.ctx).take roles.length
  let s := if cls.clm then s.claimCluster core l.ctx else s
  let s := s.claimChip core l.ctx l.smin l.smax
  let g : Wg :=
    { uid := uid
      ctx := l.ctx
      launch := l.id
      index := w
      core := core
      phase := .resident
      prio := l.prio
      cls := l.cls
      clm := cls.clm
      smin := l.smin
      smax := l.smax
      scratch := l.scratch
      teams := roles.length
      regBytes := l.needs.regs
      storeBytes := l.needs.store
      sems := List.replicate l.sems ⟨0, []⟩
      tiles := []
      records := []
      sprog := [⟨false, 0, 0⟩, ⟨false, 0, 0⟩]
      mprog := ⟨false, 0, 0, 0⟩
      hank := hank
      slots := slots
      status := 0
      trap := 0
      group := none
      segs := []
      chip := none
      left := core
      back := none
      noticed := false }
  let ts := roles.zipIdx.map (fun e => startTeam l e.1.2 e.1.1 uid w (uid + 1 + e.2) e.2 (slots.getD e.2 0) s.cycle)
  let x := s.ctx l.ctx
  let s := s.setCtx l.ctx { x with slotsUsed := x.slotsUsed ++ slots }
  let s := { s with nextUid := uid + 1 + roles.length, wgs := s.wgs ++ [g], others := s.others ++ ts }
  match hank with
  | some h => s.joinHank h.key h.hank h.member uid
  | none => s

/-- The next enabled core index after one (R323). -/
def State.nextCore (s : State) (p : Nat) : Nat :=
  (((List.range 192).map (fun i => (p + 1 + i) % 192)).find? (fun c => s.coreOn c)).getD p

end Sys2Proof.Machine
end

