-- ==== Sys2Proof/Machine/Coherence.lean ====
section
/-! DEFINITION. The directory (R336–R345, R348): requests performed at the home slice under its line lock, invalidations
and acknowledgements, leases, rebuilding, rebalancing and boundaries (R331, R334). Values are in memory (log entry 6);
copies and entries say who holds a line and how. -/

namespace Sys2Proof.Machine

/-! ## Transactions (R328, R340, R341) -/

/-- Takes a request out of the queue. -/
def State.dropReq (s : State) (r : HomeReq) : State :=
  { s with coh := { s.coh with reqs := s.coh.reqs.filter (fun (x : HomeReq) => decide (x ≠ r)) } }

/-- The answer that a peer's operation calls for (R420): the line shared, the line to own, an acknowledgement, or that the
write is performed. -/
def answerOp (op : Nat) : Nat :=
  match op with
  | 0x00 => 0x10
  | 0x01 => 0x11
  | 0x02 => 0x12
  | _ => 0x13

/-- The strong stores that a write packet names: place and size (R136, log entry 14). -/
def strongOf (misc base : Nat) : List (Nat × Nat) :=
  ((List.range 3).map (fun i => misc / 4096 ^ i % 4096)).filterMap (fun x =>
    if x % 32 = 0 then none else some (base + x / 32, x % 32))

/-- Strong accesses of another device's teams reach their home one after another (R136); the mask of those that meet a granule
recorded with another size. -/
def State.noteFar : List (Nat × Nat) → State → State × Nat
  | [], s => (s, 0)
  | x :: xs, s =>
    let r := State.noteFar xs (s.noteStrong 0 x.1 x.2)
    (r.1, (if s.mixes x.1 x.2 then 1 else 0) + 2 * r.2)

/-- Answers a peer whose request has been performed as one of a kind (R340, R420): the line with its lease, the line to own where the
peer held it no more, or no data; in MISC, which of its strong accesses met another size (R136, log entry 14). -/
def State.replyPeer (s : State) (kind : Req) (k : Packet) (line : Nat) (stamp : BitVec 16) : State :=
  let op := if k.op = 0x02 ∧ kind ≠ .upgrade then 0x11 else answerOp k.op
  let bs := if op = 0x13 ∨ op = 0x12 then [] else cellBytes s.mem (line * 128) 128
  let n := if op = 0x13 ∨ op = 0x10 then State.noteFar (strongOf k.misc (line * 128)) s else (s, 0)
  let misc := if op = 0x13 then n.2 else if op = 0x10 then stamp.toNat + 65536 * n.2 else 0
  if bs ≠ [] && s.poisoned (line * 128) 128 then
    n.1.sendTo k.src (some k.pa) (mkPacket k.ctx s.fab.dev k.src 1 0x14 k.tag 0 k.pa [])
  else n.1.sendTo k.src (some k.pa) (mkPacket k.ctx s.fab.dev k.src 1 op k.tag misc k.pa bs)

/-- An acknowledgement to a peer (R420). -/
def State.ackPeer (s : State) (k : Packet) (misc : Nat) : State :=
  s.sendTo k.src (some k.pa) (mkPacket k.ctx s.fab.dev k.src 1 0x12 k.tag misc k.pa [])

/-- The transfers of a streamer whose line is held now and that may be written there (R208, R210). -/
def State.grantHold (s : State) (agent line : Nat) : State :=
  { s with xfers := s.xfers.map (fun (x : Xfer) =>
      if 256 + x.core == agent && lineOf x.dst == line && x.viaHome && !x.done && s.mayHold x then
        { x with granted := true } else x) }

/-- The entry after an invalidation of every other copy: the cores that watch on as sharers, W with them (R341). -/
def DirEntry.watchedBy (e : DirEntry) (watchers : List Nat) : DirEntry :=
  watchers.foldl DirEntry.addSharer { e.noSharers with w := decide (watchers ≠ []) }

/-- The entry after a write by an agent: its owner. A write that a peer's proxy sends through leaves the proxy a sharer, or the
owner that it was (R427). -/
def State.ownedBy (s : State) (t : Txn) (through : Bool) : State :=
  let was := s.dirEntry t.line
  let e := was.watchedBy t.watchers
  if through && !(was.st == .dx && decide (was.owner.toNat = t.agent)) then
    (s.dropCopy t.agent t.line).setDir t.line
      ({ e with st := .ds, owner := 0, stamp := s.nextStamp e t.stamp }.addSharer t.agent)
  else (s.setCopy t.agent t.line .m 0).setDir t.line { e with st := .dx, owner := BitVec.ofNat 9 t.agent }

/-- A slice whose boundary has risen takes its ways once nothing stands there (R334, R339). -/
def State.growDone (s : State) (line : Nat) : State :=
  let slice := s.lineSlice line
  if s.coh.reqs.any (fun r => r.kind == .drop && s.lineSlice r.line == slice) ||
      s.coh.txns.any (fun t => t.kind == .drop && s.lineSlice t.line == slice) then s
  else s.takeWays slice

/-- A bridge has its line (R388): the half that the host asked for, and its bytes for the host; `dirty` where the owner that forwarded
it had written it. -/
def State.bridgeFill (s : State) (agent line : Nat) (dirty : Bool) : State :=
  let port := agent - 450
  let p := s.hostPort port
  match p.lines.find? (fun b => b.line == line), s.copyAt agent line with
  | some b, some k =>
    let st : BState := match k.st with
      | .s => .s
      | .o => .o
      | _ => .x
    match b.wantHalf with
    | none => s.setHostPort port { p with lines := p.lines.map (fun x => if x = b then { b with b := st, dirty := b.dirty || dirty } else x) }
    | some (h, own) =>
      let half : HalfState := if own then .a else .s
      let b' : BridgeLine := { b with
        b := st
        dirty := b.dirty || dirty
        wantHalf := none
        h0 := if h = 0 then half else b.h0
        h1 := if h = 0 then b.h1 else half }
      s.setHostPort port { p with
        lines := p.lines.map (fun x => if x = b then b' else x)
        answers := p.answers ++ [(line * 128 + 64 * h, cellBytes s.mem (line * 128 + 64 * h) 64)] }
  | none, some k =>
    let e := s.dirEntry line
    (s.dropCopy agent line).setDir line
      (if k.st == .s then { e.dropSharer agent with st := if (e.dropSharer agent).shared || e.owned then e.st else .di }
       else { e with st := if e.shared then .ds else .di, owner := 0 })
  | _, none => s

/-- Whether a hold, a copy of its issuer, or an earlier entry of the core keeps an entry of the store path back (R146, R192, R208). -/
def State.pathBlocked (s : State) (e : StoreEntry) : Bool :=
  !s.holdsMet e || e.tags.any (fun g => s.copiesOpen g.team g.seq) ||
    (s.path.takeWhile (fun x => decide (x ≠ e))).any (fun x => x.core == e.core && x.meets e)

/-- The loads and atomics of a core that wait for a line and can be performed now are, in order (R155, R342). -/
def State.fillLoads (core line : Nat) : List Load → State → State
  | [], s => s
  | l :: ls, s =>
    State.fillLoads core line ls
      (if (l.kind.rmw || l.kind.reads) && l.value.isNone && !l.space.remote && s.coreOf l.team == core && lineOf l.loc == line &&
          s.loads.contains l && s.loadReady l then s.settleLoad l else s)

/-- The entries of a core's store path for a line that it owns now are performed, in order, as far as nothing keeps them back
(R137, R192). -/
def State.fillStores (core line : Nat) : List StoreEntry → State → State
  | [], s => s
  | e :: es, s =>
    State.fillStores core line es
      (if e.core == core && lineOf e.loc == line && s.coherent e.space e.loc && decide (e.space ≠ .chip) && s.path.contains e &&
          decide (e.hold = []) && !s.pathBlocked e && s.owns core line then (s.performNow e).dirtyLine core line else s)

/-- What a request leaves for its agent: a bridge serves its host; a core performs the loads, atomics and stores that have waited
for the line. -/
def State.filled (t : Txn) (s : State) : State :=
  if t.agent = 450 ∨ t.agent = 451 then s.bridgeFill t.agent t.line (t.grant == .m)
  else if 192 ≤ t.agent then s
  else
    let s := State.fillLoads t.agent t.line s.loads s
    if s.owns t.agent t.line then State.fillStores t.agent t.line s.path s else s

/-- The agent number under which an uncorrectable entry is rebuilt (R348). -/
def rebuildAgent : Nat := 509

/-- The cores whose walkers watch a line for spilled bobbins (R171). -/
def State.watchingCores (s : State) (line : Nat) : List Nat :=
  (List.range 192).filter (fun c => s.teams.any (fun t => t.live && s.teamCore t == c &&
    t.bindings.any (fun b => lineOf b.2.loc == line && b.2.spilled)))

/-- An entry that no agent holds, DI with its watchers declared anew (R348). -/
def State.rebuilt (s : State) (line : Nat) : DirEntry := DirEntry.empty.watchedBy (s.watchingCores line)

/-- A line given up: evicted by its home, kept after a recall, or its entry rebuilt (R339, R348). -/
def State.dropped (s : State) (agent line : Nat) : State :=
  let s := if agent = homeAgent then (s.setDir line DirEntry.empty).l2Leave line
    else if agent = rebuildAgent then s.setDir line (s.rebuilt line)
    else s
  s.growDone line

/-- The entry that the owner's answer to a forwarded read leaves (R340, R342): it keeps the line in O, shares it, or has it no
more. -/
def DirEntry.forwarded (e : DirEntry) (grant : CopyState) : DirEntry :=
  match grant with
  | .o => { e.dropSharer e.owner.toNat with st := .do_ }
  | .s => { e with st := .ds, owner := 0 }.addSharer e.owner.toNat
  | _ => e.ownerGone

/-- A read granted (R340, R342): exclusive where no other copy is left, else shared with a lease; a matrix load pipe's shared
always (R8). The expiry is that of the time at which the home performed it (R343, R352). -/
def State.granted (s : State) (t : Txn) : State :=
  let was := s.dirEntry t.line
  let e := if was.owned then was.forwarded t.grant else was
  if e.st == .di && t.kind != .pipe then
    (s.setCopy t.agent t.line .e 0).setDir t.line { e with st := .dx, owner := BitVec.ofNat 9 t.agent }
  else
    (s.setCopy t.agent t.line .s t.stamp).setDir t.line
      ({ e with st := if e.st == DirState.do_ then DirState.do_ else DirState.ds, stamp := s.nextStamp e t.stamp }.addSharer t.agent)

/-- A request is complete: every answer has arrived. A recall that it needed puts it back to the queue's head. An agent whose
unit has been lost meanwhile gets no copy, and the bytes of its write are performed (R198). -/
def State.complete (s : State) (t : Txn) : State :=
  let s := { s with coh := { s.coh with txns := s.coh.txns.filter (fun (x : Txn) => decide (x ≠ t)) } }
  let e := s.dirEntry t.line
  let reply (s : State) : State := match t.pkt with
    | some k => s.replyPeer t.kind k t.line t.stamp
    | none => s
  let on := s.agentOn t.agent
  if e.st == .dh && !(t.kind == .getH && e.owner.toNat == t.agent) then
    let s := s.releaseHold e.owner.toNat t.line
    if t.kind == .drop && t.agent == recallAgent then s.growDone t.line
    else { s with coh := { s.coh with reqs := ⟨t.kind, t.agent, t.line, t.cells, t.tags, t.pkt⟩ :: s.coh.reqs } }
  else
    match t.kind with
    | .getS => if on then reply (s.granted t) else if e.owned then s.setDir t.line (e.forwarded t.grant) else s
    | .pipe => if on then s.granted t else if e.owned then s.setDir t.line (e.forwarded t.grant) else s
    | .getH =>
      if !on then s.setDir t.line { e.watchedBy t.watchers with st := .di, owner := 0 }
      else if e.st == .dh then s.grantHold t.agent t.line
      else ((s.setCopy t.agent t.line .h 0).setDir t.line
        { e.watchedBy t.watchers with st := .dh, owner := BitVec.ofNat 9 t.agent }).grantHold t.agent t.line
    | .drop => s.dropped t.agent t.line
    | .watch => s
    | .renew => s
    | .evict => s
    | .writeback => s
    | _ =>
      let s := if t.cells = [] then s else s.perform t.cells 0 none t.notified
      if on then reply (s.ownedBy t (decide (464 ≤ t.agent) && t.pkt.any (fun k => decide (k.op = 0x04))))
      else s.setDir t.line { e.watchedBy t.watchers with st := .di, owner := 0 }

/-- A request is complete, and its agent has what it asked for. -/
def State.finish (s : State) (t : Txn) : State := State.filled t (s.complete t)

/-- Whether a request in progress invalidates its line (R342). -/
def Req.invalidates : Req → Bool
  | .getM => true
  | .upgrade => true
  | .getH => true
  | .drop => true
  | _ => false

/-- Whether what an agent has sent reaches the home after the home has begun with a request that concerns it (R342): a notice or a
renewal after an invalidation of its line, a notice or a writeback of an agent that is asked for the line. -/
def HomeReq.crosses (x r : HomeReq) (asked : List Nat) : Bool :=
  x.line == r.line && (match x.kind with
    | .evict => r.kind.invalidates || asked.contains x.agent
    | .writeback => asked.contains x.agent
    | .renew => r.kind.invalidates
    | _ => false)

/-- Notices and renewals that cross a request are dropped, a peer's renewal with an answer that renews nothing; a writeback is taken as
the answer, its bytes written (R342). -/
def State.crossed (s : State) (r : HomeReq) (asked : List Nat) : State :=
  let hit := s.coh.reqs.filter (fun x => x.crosses r asked)
  if hit = [] then s
  else
    hit.foldl (fun s x =>
      let s := if x.cells = [] then s else s.perform x.cells 0 none []
      match x.kind, x.pkt with
      | .writeback, some k => s.ackPeer k 0
      | .renew, some k => s.ackPeer k s.units.toNat
      | _, _ => s)
      { s with coh := { s.coh with reqs := s.coh.reqs.filter (fun x => !x.crosses r asked) } }

/-- Sends the messages of a request and waits for their answers; with none to wait for it is complete. The expiry that it may grant is
fixed now (R343, R352). -/
def State.openTxn (s : State) (r : HomeReq) (msgs : List (MsgKind × Nat)) : State :=
  let s := s.crossed r (msgs.map (fun m => m.2))
  let t : Txn := ⟨r.kind, r.agent, r.line, msgs.length, 0, r.cells, r.tags, [], [], .e, r.pkt, s.grantStamp r.agent⟩
  let s := { s with coh := { s.coh with
    txns := s.coh.txns ++ [t]
    msgs := s.coh.msgs ++ msgs.map (fun m => ⟨m.1, m.2, r.line, r.agent, false⟩) } }
  if msgs = [] then s.finish t else s

/-- The sharers that a write has to invalidate: none once their lease has expired and no walker watches (R343). A bridge whose host
still holds a half is asked all the same: the host's halves have no lease (R388). -/
def State.writeTargets (s : State) (e : DirEntry) (line agent : Nat) : List Nat :=
  if s.leaseOver e.stamp && !e.w then
    (s.sharers e).filter (fun a => decide (a ≠ agent) && (a == 450 || a == 451) &&
      (s.hostPort (a - 450)).lines.any (fun b => b.line == line && b.held))
  else (s.sharers e).filter (fun a => decide (a ≠ agent) && !(e.owned && decide (e.owner.toNat = a)))

/-- A renewal at its home (R340, R343): a line that is shared no more gets none. -/
def State.renewLease (s : State) (r : HomeReq) : State :=
  let e := s.dirEntry r.line
  if e.st == .ds || e.st == .do_ then
    let longer (k : Copy) : Copy := if k.agent == r.agent && k.line == r.line && !k.managed && k.st == .s then
        { k with stamp := s.later k.stamp (s.grantStamp r.agent) } else k
    let s := { s with coh := { s.coh with copies := s.coh.copies.map longer } }
    s.setDir r.line { e with stamp := s.nextStamp e (s.grantStamp r.agent) }
  else s

/-- A renewal's answer to a peer's proxy: the new expiry, or none where the line is shared no more (R343, R425). -/
def State.renewPeer (s : State) (r : HomeReq) : State :=
  let e := s.dirEntry r.line
  match r.pkt with
  | none => s.renewLease r
  | some k =>
    let on := (e.st == .ds || e.st == .do_) && (s.sharers e).contains r.agent
    (if on then s.renewLease r else s).ackPeer k (if on then s.grantStamp r.agent else s.units).toNat

/-- A dirty line comes home (R340): its bytes, where a packet brought them, and the owner gone from the entry. -/
def State.wroteLine (s : State) (r : HomeReq) : State :=
  let s := if r.cells = [] then s else s.perform r.cells 0 none []
  let s := (s.dropCopy r.agent r.line).setDir r.line ((s.dirEntry r.line).wroteBack r.agent)
  match r.pkt with
  | some k => s.ackPeer k 0
  | none => s

/-- The copy that a peer's notice speaks of; an agent of this device has dropped its own before (R353). -/
def State.dropGiven (s : State) (r : HomeReq) : State := if r.pkt.isSome then s.dropCopy r.agent r.line else s

/-- Whether an agent still holds a valid shared copy (R336, R340). -/
def State.sharerNow (s : State) (agent line : Nat) : Bool :=
  (s.copyAt agent line).any (fun k => k.st == .s && !s.leaseOver (k.stamp - 1))

/-- A request performed at its home slice (R340). An upgrade of an agent that is no valid sharer any more is a write that brings the
line. -/
def State.perform1 (s : State) (r : HomeReq) : State :=
  let r := if r.kind == .upgrade && !s.sharerNow r.agent r.line then { r with kind := .getM } else r
  let e := s.dirEntry r.line
  let owner : List (MsgKind × Nat) := if e.owner.toNat = r.agent then [] else [(.fwdWrite, e.owner.toNat)]
  let read : List (MsgKind × Nat) := if e.owner.toNat = r.agent then [] else [(.fwdRead, e.owner.toNat)]
  let invs : List (MsgKind × Nat) := (s.writeTargets e r.line r.agent).map (fun a => (MsgKind.inv, a))
  if e.st == .dh && !(r.kind == .getH && e.owner.toNat == r.agent) then s.openTxn r [(.recall, e.owner.toNat)]
  else
    match r.kind, e.st with
    | .getS, .dx => s.openTxn r read
    | .getS, .do_ => s.openTxn r read
    | .getS, _ => s.openTxn r []
    | .pipe, .dx => s.openTxn r read
    | .pipe, .do_ => s.openTxn r read
    | .pipe, _ => s.openTxn r []
    | .evict, _ => (s.dropGiven r).setDir r.line (e.noticed r.agent)
    | .writeback, _ => s.wroteLine r
    | .watch, .do_ => s.setDir r.line (if e.owner.toNat = r.agent then { e with w := true } else { e with w := true }.addSharer r.agent)
    | .watch, _ => s.setDir r.line ({ e with w := true }.addSharer r.agent)
    | .renew, _ => s.renewPeer r
    | _, .dx => s.openTxn r (owner ++ (if e.w then invs else []))
    | _, .do_ => s.openTxn r (owner ++ invs)
    | _, .dh => s.openTxn r []
    | _, _ => s.openTxn r invs

/-- Whether a request makes its home take the line in (R339). -/
def Req.fills : Req → Bool
  | .getS => true
  | .pipe => true
  | .getM => true
  | .upgrade => true
  | .getH => true
  | .watch => true
  | _ => false

/-- A request counted for its bucket in the epoch of its die's rebalancer (R331). -/
def State.countRequest (s : State) (line : Nat) : State :=
  if locKind (line * 128) ≠ 0 then s
  else
    let n := s.homeDie (line * 128)
    let d := s.die n
    let b := bucketOf (line * 128)
    s.setDie n { d with counts := tset 0 d.counts b (tget 0 d.counts b + 1) }

/-- A request taken by its bank (R328, R339): it waits while its line needs a way of its set, and a hold while the holds of its
set are at their limit, until the home has made room; else it is performed. -/
def State.serve (s : State) (r : HomeReq) : State :=
  let e := s.dirEntry r.line
  if r.kind.fills && s.l2Full r.line then s.l2Room r.line
  else if r.kind == .getH && e.st != .dh && s.holdFull r.line then
    match (s.l2Holds r.line).head? with
    | some line => s.askDrop recallAgent line
    | none => s
  else
    let s := (s.dropReq r).countRequest r.line
    State.perform1 (if r.kind.fills then s.l2Touch r.line else s) r

/-- The bank of a line (R328). -/
def State.bankOf (s : State) (line : Nat) : Nat :=
  4 * s.lineSlice line + (if chipLine line then (s.chipPlace line).2.1 % 4 else line % 4)

/-- Whether the boundary of a line's slice is changing, which holds its requests (R334). -/
def State.changing (s : State) (line : Nat) : Bool :=
  let slice := s.lineSlice line
  decide (tget 0 (s.die (slice / 16)).lag (slice % 16) ≠ 0)

/-- The queues of a slice (R328): by bank the entries of its conflict queue, the banks that take nothing more from the input queue,
and the entries that the input queue holds. -/
structure SliceQueues where
  conflicts : Table Nat
  stuck : List Nat
  input : Nat
deriving DecidableEq, Repr

/-- An earlier request of the slice in its queues (R328): a locked line's in the conflict queue of its bank, which holds eight; one
that the bank has yet to take, and what comes behind it, in the input queue. -/
def SliceQueues.take (q : SliceQueues) (bank : Nat) (locked : Bool) : SliceQueues :=
  if !q.stuck.contains bank && locked && decide (tget 0 q.conflicts bank < 8) then
    { q with conflicts := tset 0 q.conflicts bank (tget 0 q.conflicts bank + 1) }
  else { q with stuck := bank :: q.stuck, input := q.input + 1 }

/-- Whether a bank may take a request (R328): its line is free, every earlier request to the bank stands in the conflict queue,
which has room, and the 32 entries of the slice's input queue have let it in. Requests of the home itself stand in no queue. -/
def State.dispatchable (s : State) (r : HomeReq) : Bool :=
  if s.locked r.line then false
  else if r.kind == .drop then true
  else
    let before := (s.coh.reqs.takeWhile (fun x => decide (x ≠ r))).filter (fun x => decide (x.kind ≠ .drop))
    if before = [] then !s.changing r.line
    else
      let q := (before.filter (fun x => s.lineSlice x.line == s.lineSlice r.line)).foldl
        (fun q x => SliceQueues.take q (s.bankOf x.line) (s.locked x.line)) ⟨[], [], 0⟩
      !s.changing r.line && !q.stuck.contains (s.bankOf r.line) && decide (tget 0 q.conflicts (s.bankOf r.line) < 8) &&
        decide (q.input < 32)

/-- The oldest request of an agent for a line of some kinds. -/
def State.findReq (s : State) (agent line : Nat) (kinds : List Req) : Option HomeReq :=
  s.coh.reqs.find? (fun r => r.agent == agent && r.line == line && kinds.contains r.kind)

/-- Performs a waiting request of some kinds, when its bank takes it. -/
def State.serveReq (s : State) (agent line : Nat) (kinds : List Req) : State :=
  match s.findReq agent line kinds with
  | some r => if s.dispatchable r then s.serve r else s
  | none => s

/-- Whether a line number is one that the directory may track: memory homed here, or chip scratchpad. -/
def State.tracked (s : State) (line : Nat) : Bool :=
  (locKind (line * 128) == 0 && s.backed (line * 128) 128) || locKind (line * 128) == 4

/-- Whether an agent is a host chiplet in the package (R2, R380). -/
def State.isChiplet (s : State) (agent : Nat) : Bool := (agent == 448 || agent == 449) && s.agentOn agent

/-- Whether an agent makes requests of its own accord here: an L1, or a host chiplet, which acts like one (R2, R8); a handover
region is cached while the device holds it (R380). -/
def State.asksAlone (s : State) (agent line : Nat) : Bool :=
  ((agent < 192 && s.agentOn agent) || s.isChiplet agent) && s.tracked line && s.deviceHolds (line * 128) &&
    (match s.modeOfPa (line * 128) with
      | 0 => true
      | 3 => true
      | _ => false)

/-- The bytes that a host chiplet writes to a line: not fixed. -/
def State.chipletBytes (s : State) (line : Nat) : List Host.Cell :=
  cellsFrom (line * 128) ((List.range 128).map (fun i => Config.freeByte (s.fresh * 128 + i)))

/-- A host chiplet writes a line (R2): in its own copy where it holds it exclusive or the region is software-managed (R347),
past the caches in a region that the external host holds (R380, R383), else by a request of a kind. -/
def State.chipletWrite (s : State) (agent line : Nat) (kind : Req) : State :=
  if !s.isChiplet agent || !s.tracked line then s
  else if s.modeOfPa (line * 128) = 1 then
    s.draw.dirtyManaged agent ((s.chipletBytes line).drop (Config.pick s.fresh % 128) |>.take 1)
  else if !s.deviceHolds (line * 128) then s.draw.writeMem (s.chipletBytes line)
  else if !s.asksAlone agent line || s.asking agent line [.getS, .getM, .upgrade] then s
  else if s.owns agent line then
    ((s.perform (s.chipletBytes line) 0 none []).dirtyLine agent line).draw
  else { s.draw with coh := { s.coh with reqs := s.coh.reqs ++ [⟨kind, agent, line, s.chipletBytes line, [], none⟩] } }

/-- GETS (R340): a request that waits, or a read that an L1 or a host chiplet makes of its own; a chiplet fetches a
software-managed line with a lease (R138). -/
def execGets (agent line : Nat) (s : State) : Host.Outcome State Fault Refusal :=
  .next (if s.isChiplet agent && s.tracked line && s.modeOfPa (line * 128) = 1 then s.fetchManaged agent (line * 128)
    else State.serveReq (if s.asksAlone agent line then s.askShared agent line else s) agent line [.getS, .pipe])

/-- GETM (R340). -/
def execGetm (agent line : Nat) (s : State) : Host.Outcome State Fault Refusal :=
  .next ((s.chipletWrite agent line .getM).serveReq agent line [.getM])

/-- UPGRADE (R340). -/
def execUpgrade (agent line : Nat) (s : State) : Host.Outcome State Fault Refusal :=
  .next ((s.chipletWrite agent line .upgrade).serveReq agent line [.upgrade])

/-- GETH (R340): a streamer's hold. -/
def execGeth (agent line : Nat) (s : State) : Host.Outcome State Fault Refusal := .next (s.serveReq agent line [.getH])

/-- WATCH (R340): the spill walker's, for a line with a spilled bobbin. -/
def execWatch (agent line : Nat) (s : State) : Host.Outcome State Fault Refusal :=
  .next (let ask := decide (agent < 192) && (s.watchingCores line).contains agent && !s.asking agent line [.watch]
    let s := if ask then { s with coh := { s.coh with reqs := s.coh.reqs ++ [⟨.watch, agent, line, [], [], none⟩] } } else s
    s.serveReq agent line [.watch])

/-- RENEWAL (R340): dropped when it crosses an invalidation of its line (R342), else performed in its turn (R328). -/
def execRenewal (agent line : Nat) (s : State) : Host.Outcome State Fault Refusal :=
  .next (match s.findReq agent line [.renew] with
    | some r =>
      if s.coh.txns.any (fun t => t.line == line && t.kind.invalidates) then s.dropReq r
      else if s.dispatchable r then s.serve r
      else s
    | none => s)

/-- Whether an agent may give up its line of its own accord: an L1's line neither pinned by a bobbin nor in a read set, a host
chiplet's. -/
def State.mayEvict (s : State) (agent line : Nat) : Bool :=
  (agent < 192 && !s.pinned agent line && !s.inReadSet agent line) || agent == 448 || agent == 449

/-- CLEAN_EVICTION_NOTICE (R340): the notice reaches its home and is acted on in its turn (R328); with none on its way, an agent gives
up a clean copy and sends one (R353). -/
def execCleanEvictionNotice (agent line : Nat) (s : State) : Host.Outcome State Fault Refusal :=
  .next (if (s.findReq agent line [.evict]).isSome then s.serveReq agent line [.evict]
    else if (s.copyAt agent line).any (fun k => k.st == .s || k.st == .e) && s.mayEvict agent line then s.giveUp agent line
    else s)

/-- WRITEBACK (R340): a dirty line reaches its home and is acted on in its turn (R328); with none on its way, an agent gives up a
dirty copy. -/
def execWriteback (agent line : Nat) (s : State) : Host.Outcome State Fault Refusal :=
  .next (if (s.findReq agent line [.writeback]).isSome then s.serveReq agent line [.writeback]
    else if (s.copyAt agent line).any (fun k => k.st == .m || k.st == .o) && s.mayEvict agent line then s.giveUp agent line
    else s)

/-! ## Messages (R341, R342, R345) -/

/-- The channel of an agent: its cluster's, or one of its own (R379). -/
def channelOfAgent (a : Nat) : Nat := if a < 192 then clusterOf a else if 256 ≤ a && a < 448 then clusterOf (a - 256) else 1000 + a

/-- The writer and the channel of a message (R379): a slice's to an agent, an agent's acknowledgement to a requester, a core's own
walker's notice. -/
def State.wayOf (s : State) (m : Msg) : Nat × Nat :=
  match m.kind with
  | .ack => (10000 + channelOfAgent m.agent, channelOfAgent m.requester)
  | .change => (20000 + m.agent, m.agent)
  | _ => (s.lineSlice m.line, channelOfAgent m.agent)

/-- A message of some kinds to an agent about a line, if it is the next of its writer's on its channel to arrive (R379). -/
def State.findMsg (s : State) (agent line : Nat) (kinds : List MsgKind) : Option Msg :=
  (s.coh.msgs.find? (fun m => m.agent == agent && m.line == line && kinds.contains m.kind && !m.sent)).filter (fun m =>
    !((s.coh.msgs.takeWhile (fun x => decide (x ≠ m))).any (fun x => !x.sent && s.wayOf x == s.wayOf m)))

/-- Replaces a message. -/
def State.setMsg (s : State) (m : Msg) (ms : List Msg) : State :=
  { s with coh := { s.coh with msgs := s.coh.msgs.filter (fun (x : Msg) => decide (x ≠ m)) ++ ms } }

/-- A message answered: its acknowledgement goes to the requester. -/
def State.ackMsg (s : State) (m : Msg) : State := s.setMsg m [⟨.ack, m.agent, m.line, m.requester, false⟩]

/-- Changes the transaction of a line. -/
def State.modTxn (s : State) (line : Nat) (f : Txn → Txn) : State :=
  { s with coh := { s.coh with txns := s.coh.txns.map (fun t => if t.line == line then f t else t) } }

/-- What a write of a line reaches in a team of a core that it invalidates: bindings, spilled ones included, and read sets
(R171, R180, R270, R341). -/
def markAll (line : Nat) (t : Team) : Team := markRegions [line] (markBindings [line] 0 none t)

/-- Whether a request for a line brings a write that is performed when it is complete: bytes of its own, or a store or an atomic that
waits in its core for the line (R137, R155). -/
def State.bringsWrite (s : State) (t : Txn) : Bool :=
  decide (t.cells ≠ []) || ((t.kind == .getM || t.kind == .upgrade) &&
    (s.path.any (fun e => e.core == t.agent && lineOf e.loc == t.line) ||
      s.loads.any (fun l => l.kind.rmw && l.value.isNone && s.coreOf l.team == t.agent && lineOf l.loc == t.line)))

/-- A core takes an invalidation: PEND on every binding that the write reaches, before it acknowledges (R180, R341); a core that
still watches the line says so. An eviction changes no byte: read sets lose the line, bobbins register again (R269, R339). -/
def State.coreInvalidated (s : State) (core line : Nat) : State :=
  let s := s.dropCopy core line
  match s.coh.txns.find? (fun t => t.line == line) with
  | none => s
  | some t =>
    if t.kind == .drop then (s.loseLine core line).rebind core line true
    else
      let watching := (s.watchingCores line).contains core
      let writes := s.bringsWrite t
      let s := if writes then s.mapTeams (fun x => if x.live && s.teamCore x == core then markAll line x else x) else s
      (s.modTxn line (fun t => { t with
        notified := if writes then t.notified ++ [core] else t.notified
        watchers := if watching then t.watchers ++ [core] else t.watchers })).rebind core line false

/-- The expiry that the request in progress on a line may grant (R343, R352). -/
def State.txnStamp (s : State) (line : Nat) : BitVec 16 := ((s.coh.txns.find? (fun t => t.line == line)).map Txn.stamp).getD 0

/-- A message to a peer's proxy leaves as a packet (R426); a forwarded read names the expiry of the copy that stays (R352). -/
def State.sendInv (s : State) (m : Msg) (op : Nat) : State :=
  let d := m.agent - 464
  let misc := if m.kind = .fwdRead then 1 + 2 * (s.txnStamp m.line).toNat else 0
  (s.sendTo d (some (m.line * 128)) (mkPacket 0 s.fab.dev d 2 op 0 misc (m.line * 128) [])).setMsg m [{ m with sent := true }]

/-- A bridge's line is gone: no half, no copy. -/
def State.dropBridge (s : State) (port line : Nat) : State :=
  let p := s.hostPort port
  (s.setHostPort port { p with lines := p.lines.filter (fun b => !(b.line == line)) }).dropCopy (450 + port) line

/-- Changes what a bridge tracks of a line. -/
def State.modBridge (s : State) (port line : Nat) (f : BridgeLine → BridgeLine) : State :=
  let p := s.hostPort port
  s.setHostPort port { p with lines := p.lines.map (fun b => if b.line == line then f b else b) }

/-- A device read has been supplied by a bridge: O if its line is dirty, else S (R388). -/
def State.bridgeShared (s : State) (port : Nat) (b : BridgeLine) : State :=
  let agent := 450 + port
  let s := s.modBridge port b.line (fun x => { x with b := if x.dirty then .o else .s })
  if b.dirty then (s.setCopy agent b.line .o 0).modTxn b.line (fun t => { t with grant := .o })
  else (s.setCopy agent b.line .s (s.txnStamp b.line)).modTxn b.line (fun t => { t with grant := .s })

/-- A message of the directory at a bridge: the halves that the host holds are snooped first, and it answers when they
are (R388). -/
def State.bridgeMessage (s : State) (m : Msg) : State :=
  let port := m.agent - 450
  let shared := m.kind == .fwdRead
  match (s.hostPort port).lines.find? (fun b => b.line == m.line) with
  | none => (if shared then s.modTxn m.line (fun t => { t with grant := .e }) else s.dropCopy m.agent m.line).ackMsg m
  | some b =>
    if b.snooping || (if shared then b.owned else b.held) then
      (s.modBridge port m.line (fun b => { b.snoop shared true with
        snoop0 := b.snoop0 || (b.snoop shared true).snoop0
        snoop1 := b.snoop1 || (b.snoop shared true).snoop1 })).setMsg m [{ m with sent := true }]
    else if shared then (s.bridgeShared port b).ackMsg m
    else (s.dropBridge port m.line).ackMsg m

/-- INVALIDATION (R341): each target answers once, whether or not it holds a copy. -/
def execInvalidation (agent line : Nat) (s : State) : Host.Outcome State Fault Refusal :=
  .next (match s.findMsg agent line [.inv] with
    | none => s
    | some m =>
      if 464 ≤ agent then s.sendInv m 0x20
      else if agent == 450 || agent == 451 then s.bridgeMessage m
      else if agent < 192 then (s.coreInvalidated agent line).ackMsg m
      else (s.dropCopy agent line).ackMsg m)

/-- What an owner's copy becomes under a forwarded read, recorded for the requester: M and O stay as O, E becomes S;
no copy lets the home answer (R340, R342). The copy that stays shared has the expiry of the fill (R352). -/
def State.forwardRead (s : State) (agent line : Nat) : State :=
  match s.copyAt agent line with
  | none => s.modTxn line (fun t => { t with grant := .e })
  | some k =>
    if k.st == .e || k.st == .s then
      (s.setCopy agent line .s (s.txnStamp line)).modTxn line (fun t => { t with grant := .s })
    else (s.setCopy agent line .o 0).modTxn line (fun t => { t with grant := .o })

/-- FORWARD (R340). -/
def execForward (agent line : Nat) (s : State) : Host.Outcome State Fault Refusal :=
  .next (match s.findMsg agent line [.fwdRead, .fwdWrite] with
    | none => s
    | some m =>
      if 464 ≤ agent then
        (s.modTxn line (fun t => { t with grant := .s })).sendInv m 0x21
      else if agent == 450 || agent == 451 then s.bridgeMessage m
      else if m.kind == .fwdRead then (s.forwardRead agent line).ackMsg m
      else
      let dirty := (s.copyAt agent line).any (fun k => k.st == .m || k.st == .o)
      let s := if dirty then s.modTxn line (fun t => { t with grant := .m }) else s
      if agent < 192 then (s.coreInvalidated agent line).ackMsg m
      else (s.dropCopy agent line).ackMsg m)

/-- A recall at a streamer: it writes every transfer that holds the line, then answers; till then the recall has arrived. -/
def State.recallHold (s : State) (m : Msg) : State :=
  let s := s.recallCopies (m.line * 128) 128
  if s.xfers.any (fun x => x.holds (m.line * 128) 128) then s.setMsg m [{ m with sent := true }] else s.ackMsg m

/-- A recall that has arrived at a streamer and is not answered. -/
def State.heldRecall (s : State) (agent line : Nat) : Option Msg :=
  s.coh.msgs.find? (fun m => m.agent == agent && m.line == line && m.kind == .recall && m.sent && decide (agent < 464))

/-- RECALL (R345): the streamer writes every transfer that holds the line, then answers. For the home's own number it is the home
that begins to take a line back, for want of room in its L2 (R334, R339). -/
def execRecall (agent line : Nat) (s : State) : Host.Outcome State Fault Refusal :=
  .next (match s.findMsg agent line [.recall], s.heldRecall agent line with
    | some m, _ => if 464 ≤ agent then s.sendInv m 0x22 else s.recallHold m
    | none, some m => s.recallHold m
    | none, none => s.serveReq agent line [.drop])

/-- An acknowledgement counted at the requester; the last one completes the request (R341). -/
def State.countAck (s : State) (m : Msg) : State :=
  let s := s.setMsg m []
  match s.coh.txns.find? (fun t => t.line == m.line) with
  | none => s
  | some t =>
    let t' := { t with got := t.got + 1 }
    let s := s.modTxn m.line (fun _ => t')
    if t'.need ≤ t'.got then s.finish t' else s

/-- ACKNOWLEDGEMENT (R341). -/
def execAcknowledgement (agent line : Nat) (s : State) : Host.Outcome State Fault Refusal :=
  .next (match s.findMsg agent line [.ack] with
    | some m => s.countAck m
    | none => s)

/-- CHANGE_NOTICE (R171): the walker sets PEND on the spilled bindings that wait for it. -/
def execChangeNotice (core line : Nat) (s : State) : Host.Outcome State Fault Refusal :=
  .next (match s.findMsg core line [.change] with
    | none => s
    | some m => (s.setMsg m []).mapTeams (fun t => if t.live && s.teamCore t == core then settleNotices [line] t else t))

/-! ## Leases (R138, R166, R336, R343) -/

/-- Whether an agent's line renews its lease while it is held: a bobbin's, an open read set's, a host's half (R170, R270,
R388). -/
def State.renews (s : State) (agent line : Nat) : Bool :=
  s.pinned agent line || s.inReadSet agent line || ((agent == 450 || agent == 451) && s.hostHeld line)

/-- Whether a copy's lease has run out for its holder: one unit before STAMP (R336). -/
def State.copyOver (s : State) (k : Copy) : Bool := (k.managed || k.st == .s) && s.leaseOver (k.stamp - 1)

/-- A copy whose lease runs out (R336): of a software-managed line the dirty bytes go home, and a bound line is fetched again (R138,
R166). A line that renews has renewed by now, as long as no request has its line (R343, log entry 4); else it goes, and its bobbins
fetch it again. -/
def State.expireCopy (s : State) (k : Copy) : State :=
  if k.managed then (s.flushManaged k.agent k.line).refetchBound k.agent k.line
  else if s.renews k.agent k.line && !s.locked k.line then s.renewLease ⟨.renew, k.agent, k.line, [], [], none⟩
  else if k.agent = 450 ∨ k.agent = 451 then
    (if s.renews k.agent k.line then s else s.dropBridge (k.agent - 450) k.line)
  else if k.agent < 192 then ((s.dropCopy k.agent k.line).loseLine k.agent k.line).rebind k.agent k.line false
  else s.dropCopy k.agent k.line

/-- The context of a team that has a binding on a line. -/
def State.bindingCtx (s : State) (line : Nat) : Option Nat :=
  (s.teams.find? (fun t => t.live && t.bindings.any (fun b => lineOf b.2.loc == line))).bind (fun t =>
    (s.wg? t.wg).map Wg.ctx)

/-- A line that bindings watch is fetched again (R170, R426). -/
def State.fetchBound (s : State) (peer line : Nat) : State :=
  match s.bindingCtx line with
  | some c =>
    if s.fab.txns.any (fun x => x.op == 0 && x.line == line) then s
    else s.request peer c 0x00 0 (locOff (line * 128)) line true [] {}
  | none => s

/-- Whether a peer's shared line has left its proxy's lease behind. -/
def State.proxyOver (s : State) (p : ProxyLine) : Bool := decide (p.st = CopyState.s) && s.leaseOver (p.stamp - 1)

/-- A peer's line whose lease runs out leaves the proxy; read sets lose it, bobbins fetch it again (R336, R425). -/
def State.expireProxy (s : State) (p : ProxyLine) : State :=
  (((s.dropProxy p.line).l2Leave p.line).loseLines (fun l => l == p.line)).fetchBound p.peer p.line

/-- Whether the sweeper has visited an entry by now: its lease has been over for 1,048,576 ticks (R343). -/
def State.swept (s : State) (e : DirEntry) : Bool :=
  s.leaseOver e.stamp && decide (16384 ≤ (s.units - e.stamp).toNat) && !e.w && e.shared

/-- The sharers of an expired entry without a watcher forgotten (R338, R343). -/
def State.sweep (s : State) (line : Nat) : State :=
  let e := s.dirEntry line
  if !s.locked line && s.leaseOver e.stamp && !e.w && (e.st == .ds || e.st == .do_) then
    s.setDir line { e.noSharers with st := if e.st == .ds then .di else .do_ }
  else s

/-- What the passing of time ends: leases of copies and of peers' lines, sharers that no sweep may leave longer (R336, R343). -/
def State.expire (s : State) : State :=
  let s := (s.coh.copies.filter s.copyOver).foldl State.expireCopy s
  let s := (s.fab.proxy.filter s.proxyOver).foldl State.expireProxy s
  ((s.coh.dir.filter (fun x => s.swept x.2)).map (fun x => x.1)).foldl State.sweep s

/-- LEASE_EXPIRY (R336): time passes until a copy's lease, or that of a peer's line, is over. -/
def execLeaseExpiry (agent line : Nat) (s : State) : Host.Outcome State Fault Refusal :=
  .next (if locKind (line * 128) = 6 then
    (match s.fab.proxy.find? (fun p => p.line == line && decide (p.st = CopyState.s)) with
    | some p => (s.waitUnits (p.stamp - 1)).expire
    | none => s)
  else match s.coh.copies.find? (fun k => k.agent == agent && k.line == line && (k.managed || k.st == .s)) with
    | none => s
    | some k => (s.waitUnits (k.stamp - 1)).expire)

/-- RENEWAL_DUE (R343): a line that renews, at half its lease; a peer's line renews through the proxy (R425). -/
def execRenewalDue (agent line : Nat) (s : State) : Host.Outcome State Fault Refusal :=
  .next (if !s.renews agent line then s
    else if locKind (line * 128) = 6 then
      match s.proxyLine line with
      | none => s
      | some p =>
        if p.st ≠ .s then s
        else
        let s := (s.waitUnits (p.stamp - BitVec.ofNat 16 (2 ^ s.coh.leasePeer / 128))).expire
        if s.fab.txns.any (fun x => x.op == 7 && x.line == line) then s
        else s.request p.peer 0 0x07 0 (locOff (line * 128)) line true [] {}
    else
      match s.copyAt agent line with
      | none => s
      | some k =>
        if k.st == .s && (s.findReq agent line [.renew]).isNone then
          let s := (s.waitUnits (k.stamp - BitVec.ofNat 16 (2 ^ s.coh.leaseL1 / 128))).expire
          { s with coh := { s.coh with reqs := s.coh.reqs ++ [⟨.renew, agent, line, [], [], none⟩] } }
        else s)

/-- LEASE_SWEEP (R343): the sharers of an expired entry are forgotten. -/
def execLeaseSweep (line : Nat) (s : State) : Host.Outcome State Fault Refusal := .next (s.sweep line)

/-! ## Rebuilding, rebalancing, boundaries (R331, R334, R348) -/

/-- DIRECTORY_ENTRY_UNCORRECTABLE (R348): every agent gives its copy up, hosts and peers by answers that the home waits for;
the entry is rebuilt as DI with the watchers declared anew; a request in progress is tried again; several dirty answers are
reported. -/
def execDirectoryEntryUncorrectable (line : Nat) (s : State) : Host.Outcome State Fault Refusal :=
  .next (let mine := s.coh.copies.filter (fun k => k.line == line && !k.managed)
    let dirty := (mine.filter (fun k => k.st == .m || k.st == .o || k.st == .h)).length
    let s := s.recallCopies (line * 128) 128
    let again := (s.coh.txns.filter (fun t => t.line == line && !(t.agent == rebuildAgent))).map (fun t =>
      (⟨t.kind, t.agent, t.line, t.cells, t.tags, t.pkt⟩ : HomeReq))
    let far := (List.range 480).filter (fun a => (450 ≤ a && a < 452 || 464 ≤ a) && s.agentOn a)
    let s := { s with
      coh := { s.coh with
        copies := s.coh.copies.filter (fun k => k.managed || !(k.line == line))
        txns := s.coh.txns.filter (fun t => !(t.line == line))
        msgs := s.coh.msgs.filter (fun m => !(m.line == line) || decide (m.kind = MsgKind.change))
        reqs := again ++ s.coh.reqs }
      svc := if 2 ≤ dirty then { s.svc with events := s.svc.events ++ [0x348] } else s.svc }
    let s := (s.setDir line DirEntry.empty).openTxn ⟨.drop, rebuildAgent, line, [], [], none⟩ (far.map (fun a => (MsgKind.inv, a)))
    (((mine.map Copy.agent).filter (fun a => decide (a < 192))) ++ s.watchingCores line).eraseDups.foldl (fun s c =>
      (s.loseLine c line).rebind c line false) s)

/-- Whether a bucket's home lies on a die. -/
def State.inBucket (s : State) (die b loc : Nat) : Bool :=
  locKind loc == 0 && s.homeDie loc == die && bucketOf loc == b

/-- A bucket moves to another slice (R330, R331): the old slice keeps no line of it, entries go along unchanged, granule sizes are
forgotten; no value changes. -/
def State.moveBucket (s : State) (die b slice : Nat) : State :=
  let gone := s.coh.l2.filter (fun line => s.inBucket die b (line * 128) && (s.dirEntry line).idle)
  let d := s.die die
  let entry := if slice = s.foldSlice die b then 0 else slice + 1
  let s := s.setDie die { d with buckets := tset 0 d.buckets b entry }
  let s := gone.foldl (fun s line => (s.setDir line DirEntry.empty).l2Leave line) s
  { s with coh := { s.coh with granules := s.coh.granules.filter (fun g => !s.inBucket die b (16 * g.1)) } }

/-- The item of a list with the greatest measure, the first of equals. -/
def hottest (f : Nat → Nat) : List Nat → Option Nat
  | [] => none
  | x :: xs =>
    match hottest f xs with
    | none => some x
    | some y => if f y ≤ f x then some x else some y

/-- What the rebalancer decides from the requests of an epoch to each bucket of a die (R331): when the hottest slice has more than
1.25 times the mean, its hottest bucket that does not exceed half the difference to the coolest slice goes there. -/
def State.rebalance (s : State) (die : Nat) (count : Nat → Nat) : Option (Nat × Nat) :=
  let slices := s.diesSlices die
  let sum (i : Nat) : Nat := (((List.range 4096).filter (fun b => s.bucketSlice die b == i)).map count).sum
  let sums := slices.map (fun i => (i, sum i))
  let of (i : Nat) : Nat := (sums.lookup i).getD 0
  let total := (sums.map (fun x => x.2)).sum
  let top := (sums.map (fun x => x.2)).foldl max 0
  match hottest of slices, hottest (fun i => top - of i) slices with
  | some hot, some cool =>
    if 5 * total < 4 * slices.length * of hot then
      (hottest count ((List.range 4096).filter (fun b =>
        s.bucketSlice die b == hot && decide (2 * count b ≤ of hot - of cool)))).map (fun b => (b, cool))
    else none
  | _, _ => none

/-- The length of an epoch of the rebalancer and of the boundaries, in core cycles (R331, R334). -/
def epochCycles : Nat := 65536

/-- REBALANCE_EPOCH (R331): at the end of an epoch at most one bucket moves, in hardware mode, by the requests that the epoch
counted; the next epoch begins. -/
def execRebalanceEpoch (die : Nat) (s : State) : Host.Outcome State Fault Refusal :=
  .next (if 4 ≤ die || (s.ctx 0).assist.getLsbD 5 then s
    else
      let s := s.waitUntil ((s.die die).epoch + epochCycles)
      let d := s.die die
      let t := s.setDie die { d with counts := [], epoch := s.cycle }
      match s.rebalance die (fun b => tget 0 d.counts b) with
      | some (b, slice) => t.moveBucket die b slice
      | none => t)

/-- CARVE_EPOCH (R334, R335): every 65,536 cycles a slice's boundary moves by one way within Smin and Smax, by the counts of its
sampling sets and shadow tags, which are an input of the step (log entry 64). A way is taken from the cache once its sets have given
up what it leaves no room for (R339). -/
def execCarveEpoch (slice : Nat) (counts : CarveCounts) (s : State) : Host.Outcome State Fault Refusal :=
  .next (let n := slice / 16
    let i := slice % 16
    let was := s.die n
    if 4 ≤ n || !s.sliceOn n i || was.holder.isNone || was.carve.getLsbD 16 || decide (tget 0 was.lag i ≠ 0) then s
    else
      let s := s.waitUntil (tget 0 was.carved i + epochCycles)
      let d : Die := { was with carved := tset 0 was.carved i s.cycle }
      let c := d.smin + tget 0 d.bounds i
      let thresh : Int := (d.carve.extractLsb' 0 16).toNat
      let up : Int := (counts.scratchGain : Nat) - (counts.cacheLoss : Nat)
      let down : Int := (counts.cacheGain : Nat) - (counts.scratchLoss : Nat)
      if thresh < up then
        if d.smax ≤ c then s.setDie n d
        else (s.setDie n { d with bounds := tset 0 d.bounds i (c + 1 - d.smin), lag := tset 0 d.lag i 1 }).takeWays slice
      else if thresh < down && decide (d.smin < c) then s.setDie n { d with bounds := tset 0 d.bounds i (c - 1 - d.smin) }
      else s.setDie n d)

end Sys2Proof.Machine
end

