-- ==== Sys2Proof/Machine/Fetch.lean ====
section
/-! DEFINITION. The start of a clause (R19–R24, R451): fetching its words, the header, WAIT, pending traps, the flags and
the observation point; for teams and for spindle programs (R199–R201). -/

namespace Sys2Proof.Machine

/-- The outcome of fetching words. -/
inductive Fetch where
  | words (ws : List Word)
  | fault (t : Trap)
  | miss (t : Trap) (page : Nat)
  | wait
deriving DecidableEq, Repr

/-- What a fetch needs: X alone (R21, R358). -/
def Need.fetch : Need := ⟨false, false, false, false, false⟩

/-- One word of code (R21), as its issuer reads memory. -/
def State.fetchWord (s : State) (who : Nat × Nat) (core c : Nat) (va : DWord) : State × Fetch :=
  if inAperture va then (s, .fault (tACCESS 1))
  else
    match (s.beforeWalk c va).translate c va Need.fetch true with
    | (s, .at_ (.peer d m) loc) =>
      if (s.proxyLine (lineOf loc)).isSome then (s, .words [BitVec.ofNat 32 (cellNat s.mem loc 4)])
      else (s.wantLine who d c m loc, .wait)
    | (s, .at_ space loc) =>
      if s.poisoned loc 4 then (s, .fault (tMCHK 1))
      else if s.hostOwned (lineOf loc) then (s.snoopLine (lineOf loc) true, .wait)
      else
        let s := s.recallCopies loc 4
        (s, .words [BitVec.ofNat 32 (s.readAt core who.2 space loc 4)])
    | (s, .gone t) => (s, .fault t)
    | (s, .miss t p) => (s, .miss t p)

/-- Words of code from an address on; the first that fails decides. -/
def State.fetchWords (who : Nat × Nat) (core c : Nat) : Nat → DWord → State → State × Fetch
  | 0, _, s => (s, .words [])
  | n + 1, va, s =>
    match s.fetchWord who core c va with
    | (s, .words w) =>
      match State.fetchWords who core c n (va + 4) s with
      | (s, .words ws) => (s, .words (w ++ ws))
      | r => r
    | r => r

/-- A clause from its header and the words that follow. -/
def mkClause (h : Word) (ws : List Word) : Clause :=
  let c : Clause := ⟨h, [], []⟩
  ⟨h, ws.take c.icnt, ws.drop c.icnt⟩

/-- The outcome of fetching a clause: latched, or a fault of its header or its words. -/
inductive Latch where
  | clause (c : Clause)
  | fault (t : Trap)
  | miss (t : Trap) (page : Nat)
  | wait
deriving DecidableEq, Repr

/-- Fetches the clause at an address: the header, its check (R19), then its words. -/
def State.fetchClause (s : State) (who : Nat × Nat) (core c : Nat) (pc : DWord) : State × Latch :=
  match State.fetchWords who core c 1 pc s with
  | (s, .words (h :: _)) =>
    if !headerOk h then (s, .fault tILLEGAL)
    else
      let k : Clause := ⟨h, [], []⟩
      match State.fetchWords who core c (k.icnt + k.lcnt) (pc + 4) s with
      | (s, .words ws) => (s, .clause (mkClause h ws))
      | (s, .fault t) => (s, .fault t)
      | (s, .miss t p) => (s, .miss t p)
      | (s, .wait) => (s, .wait)
  | (s, .words []) => (s, .wait)
  | (s, .fault t) => (s, .fault t)
  | (s, .miss t p) => (s, .miss t p)
  | (s, .wait) => (s, .wait)

/-- The flags that a clause sets (R24). -/
def Clause.sets (c : Clause) : BitVec 12 :=
  (if c.seta < 12 then (1 : BitVec 12) <<< c.seta else 0) ||| (if c.setb < 12 then (1 : BitVec 12) <<< c.setb else 0)

/-- A trap at a clause boundary (R21, R451); in an open region its lanes abort with code 6 (R271). -/
def State.boundaryTrap (s : State) (x : Trap) : State :=
  if s.cur.inRegion then s.setCur ((s.cur.abortLanes s.cur.mask 6).afterAbort)
  else s.takeTrap x 0 (faultPcOf s.cur.pc s.cur.idx)

/-- The clause begins, or goes on after SRET: its flags set, which track the resumed instructions too (R24, R126); at its first
instruction the observation point (R23). -/
def State.beginClause (s : State) (c : Clause) : State :=
  let fresh := s.cur.idx = 0
  let s := s.dropSnaps.setCur { s.cur with
    clause := some c
    service := none
    park := .running
    flags := s.cur.flags ||| c.sets
    resumed := false }
  if fresh then s.observe else s

/-- A fetch that missed: service is asked and the team is parked; in a region the lanes abort at once (R271, R363). -/
def State.fetchMiss (s : State) (t : Trap) (page : Nat) : State :=
  if s.cur.inRegion then (s.askPages 2 false [(t, page)]).boundaryTrap t
  else
    let s := s.askPages 2 true [(t, page)]
    s.setCur { s.cur with
      park := .page
      service := some { asked := [(page, 2)], failed := [], final := [], lanes := BitVec.allOnes 1024, scalar := true } }

/-- The pending trap that a boundary raises: not at handler level, not in a region, nor where an instruction resumes
within its clause (R451). -/
def Team.duePending (t : Team) : Option Trap :=
  if t.hlevel || t.inRegion || decide (t.idx ≠ 0) then none else lowestTrap t.pendTraps

/-- The issuing team's clause starts (R24); faults of the fetch are reported at index 0 (R21), and the observation point waits
for peers' lines that a change has still to bring (R159). -/
def State.startTeamClause (s : State) : State :=
  let t := s.cur
  let failed := match t.service with
    | some v => lowestTrap (v.failed.map (fun e => e.2))
    | none => none
  match failed, t.duePending with
  | some x, _ => (s.setCur { t with service := none, park := .running, idx := 0 }).boundaryTrap x
  | none, some x => (s.setCur { t with pendTraps := dropFirst x t.pendTraps }).boundaryTrap x
  | none, none =>
    match s.fetchClause (0, t.uid) s.curCore s.curCtxNum t.pc with
    | (s, .wait) => s
    | (s, .fault x) => (s.setCur { s.cur with idx := 0 }).boundaryTrap x
    | (s, .miss x p) => s.fetchMiss x p
    | (s, .clause c) =>
      if c.icnt ≤ t.idx then (s.setCur { s.cur with idx := 0 }).boundaryTrap tILLEGAL
      else if t.idx = 0 ∧ c.wait &&& t.flags ≠ 0 then s
      else if t.idx = 0 ∧ s.obsWaits s.cur then s.askUnseen s.cur
      else s.beginClause c

/-- Whether a team may start a clause: at a boundary, not parked, its workgroup not stopping for pre-emption. -/
def State.mayStart (s : State) (t : Team) : Bool :=
  t.live && !t.ending && t.clause.isNone &&
    (match t.service with
      | some v => decide (v.asked = [])
      | none => decide (t.park = .running)) &&
    (s.wg? t.wg).any (fun w => w.phase == .resident)

/-- A spindle program's clause starts (R199–R201). -/
def State.startProgClause (s : State) (p : Prog) : State :=
  let ctx := ((s.wg? p.wg).map Wg.ctx).getD 0
  match s.fetchClause (1, p.uid) p.core ctx p.pc with
  | (s, .wait) => s
  | (s, .fault x) => s.endProg p.uid x.code
  | (s, .miss x page) =>
    (s.askPage ctx page 2 x (1, p.uid) (s.partyArg p.wg 0 1)).modProg p.uid (fun q => { q with state := 3 })
  | (s, .clause c) =>
    if c.wait &&& p.flags ≠ 0 then s
    else s.modProg p.uid (fun q => { q with
      clause := some c
      idx := 0
      flags := q.flags ||| c.sets
      state := 1
      clauses := q.clauses + 1 })

/-- Whether a program may start a clause. -/
def State.progMayStart (s : State) (p : Prog) : Bool :=
  !p.queued && !p.ended && !p.exiting && p.clause.isNone && decide (p.state ≠ 3) &&
    (s.wg? p.wg).any (fun w => w.phase == .resident || w.phase == .finishing)

/-- CLAUSE_START (R24) for the issuer. -/
def execClauseStart (s : State) : Host.Outcome State Fault Refusal :=
  .next (match s.issuer with
    | .team => if s.mayStart s.cur then s.startTeamClause else s
    | .spindle n =>
      match s.prog? n with
      | some p => if s.progMayStart p then s.startProgClause p else s
      | none => s)

end Sys2Proof.Machine
end

