-- ==== Sys2Proof/Machine/CoreEvents.lean ====
section
/-! DEFINITION. What happens in a core beside its instructions: data returns, the store path drains, refresh, errors,
answers of fault service and of services (R24, R27, R137, R189, R192, R198, R242, R363, R408, R411). -/

namespace Sys2Proof.Machine

/-! ## Returning data (R25, R27, R137) -/

/-- Replaces the load at a place of the list. -/
def State.setLoad (s : State) (k : Nat) (l : Load) : State := { s with loads := s.loads.set k l }

/-- Removes the load at a place of the list. -/
def State.dropLoad (s : State) (k : Nat) : State := { s with loads := s.loads.eraseIdx k }

/-- The first of two words of a load that reach an 8-byte binding together with word `w` (R161). -/
def State.pairWord (s : State) (l : Load) (w : Nat) : Option (Nat × Nat × Nat × Binding) :=
  let dest (i : Nat) : Option Dest :=
    if l.kind.throughDests l.dests = [] then none else (l.dests.find? (fun d => d.1 == i)).map (fun d => d.2)
  [w, w - 1].findSome? (fun i =>
    ((s.team? l.team).bind (fun t => t.pairOver (dest i) (dest (i + 1)))).map (fun x => (i, x)))

/-- Delivers word `w` of a load whose value is known. -/
def State.returnWord (s : State) (k w : Nat) (l : Load) : State :=
  match s.pairWord l w with
  | some (i, x) =>
    let rest := l.dests.filter (fun d => decide (d.1 ≠ i ∧ d.1 ≠ i + 1))
    let s := if rest = [] then s.dropLoad k else s.setLoad k { l with dests := rest }
    s.deliverPair l x (l.word i) (l.word (i + 1))
  | none =>
    let rest := l.dests.filter (fun d => decide (d.1 ≠ w))
    let s := if rest = [] then s.dropLoad k else s.setLoad k { l with dests := rest }
    (l.dests.filter (fun d => decide (d.1 = w))).foldl (fun s d => s.deliver l d.2 (l.word d.1)) s

/-- An arrival is performed once everything before it is complete at its scope (R257) and its home can act on the word; its token
is delivered at once, an overrun is raised at the next boundary (R256). -/
def State.performArrive (s : State) (k m : Nat) (l : Load) : State :=
  if !s.accessesDone l.team l.seq l.scope || s.wordBusy l.loc || s.copiesOpen l.team l.seq then s
  else
    let s := (s.recallCopies l.loc 16).forceRange (s.coreOf l.team) l.team l.loc 16
    let tok := tokenOf (cellNat s.mem l.loc 8)
    let r := s.arriveAt l.loc m none
    let s := r.1.dropLoad k
    let s := if r.2 = .overrun then s.modTeam l.team (fun t => t.keepTrap (tBAROVER 0)) else s
    l.dests.foldl (fun s d => s.deliver l d.2 tok) s

/-- The answer of an engine's register: one state of it, whatever words it returns in (R92, R205). -/
def State.returnEngine (s : State) (k w : Nat) (l : Load) (value : Wg → Nat) : State :=
  match l.value, s.wg? (s.issuerWg l.team) with
  | some _, _ => s.returnWord k w l
  | none, some g =>
    let l' := { l with value := some (BitVec.ofNat 128 (value g)) }
    (s.setLoad k l').returnWord k w l'
  | none, none => s.dropLoad k

/-- A load's data returns: its value is fixed if it is not yet, and one word reaches its register. -/
def State.returnLoad (s : State) (k w : Nat) (l : Load) : State :=
  match l.kind with
  | .arrive m => s.performArrive k m l
  | .bind notify size8 va spilled =>
    if l.space.remote && l.value.isNone then s
    else if !s.loadReady l then s.prepareLoad l
    else (s.dropLoad k).bindReturn l notify size8 va spilled
  | .bound _ _ _ _ old =>
    if l.space.remote && l.value.isNone then s
    else if !s.loadReady l then s.prepareLoad l
    else (s.dropLoad k).boundReturn l old
  | .acc _ _ => if l.value.isNone then s else s.returnWord k w l
  | .sprog => s.returnEngine k w l (fun g => (s.sprogHalf g 0).toNat + 2 ^ 32 * (s.sprogHalf g 1).toNat)
  | .mprog => s.returnEngine k w l (fun g => (s.mprogWord g).toNat)
  | _ =>
    if l.value.isSome then s.returnWord k w l
    else if l.space.remote then s
    else if !s.loadReady l then s.prepareLoad l
    else
      let r := s.performLoad l
      (r.1.setLoad k r.2).returnWord k w r.2

/-- LOAD_DATA_RETURN (R137). -/
def execLoadDataReturn (k w : Nat) (s : State) : Host.Outcome State Fault Refusal :=
  .next (match s.loads[k]? with
    | some l => s.returnLoad k w l
    | none => s)

/-! ## The store path (R192) -/

/-- An entry that the directory orders (R137, R155, R192): it leaves the path when it is written, to a line that the L1 holds
exclusive, or at its home slice where that is chip scratchpad or the core is lost (R198, R333); else the line is asked for. -/
def State.drainCoherent (s : State) (e : StoreEntry) : State :=
  let line := lineOf e.loc
  if decide (e.space = .chip) || !s.coreOn e.core then
    (if s.locked line then s else (s.performNow e).atHomeSlice line)
  else if s.owns e.core line then (s.performNow e).dirtyLine e.core line
  else s.askExclusive e.core line

/-- An entry leaves the path: performed where its space performs it, sent to another device, or by way of the directory (R137,
R138, R192, R383, R445). Its home snoops a host that holds the line first (R388). -/
def State.drainEntry (s : State) (e : StoreEntry) : State :=
  let rest : State := { s with path := s.path.erase e }
  match e.space with
  | .member m =>
    let g := s.issuerWg e.tag.team
    if ((s.wg? g).bind Wg.hank).any (fun h => h.departed.contains m) then
      (e.tags.map Tag.team).eraseDups.foldl (fun s u => s.modTeam u (fun t => t.keepTrap (tHANKGONE m))) rest
    else rest.sendStore e g
  | .peer _ _ => rest.sendStore e (s.issuerWg e.tag.team)
  | _ =>
    if s.coherent e.space e.loc then s.drainCoherent e
    else if s.hostHeld (lineOf e.loc) then s.snoopLine (lineOf e.loc) false
    else s.performNow e

/-- What held an entry is complete: the core's other teams read it now (R137, R146). -/
def State.unholdEntry (s : State) (i : Nat) (e : StoreEntry) : State :=
  let s := { s with path := s.path.set i { e with hold := [] } }
  if e.red.isSome || (decide (e.space = .handover) && !s.deviceHolds e.loc) then s
  else s.reachCore e.core e.cells e.tag.team e.tag.own (fun t => decide (t.uid ≠ e.tag.team))

/-- STORE_PATH_DRAIN (R192) of the selected entry. -/
def execStorePathDrain (s : State) : Host.Outcome State Fault Refusal :=
  .next (match s.path[s.sel]? with
    | none => s
    | some e =>
      if e.hold ≠ [] then (if s.holdsMet e then s.unholdEntry s.sel e else s)
      else if s.pathBlocked e then s
      else s.drainEntry e)

/-! ## Refresh and errors (R189, R198, R242, R408, R411) -/

/-- Correctable errors counted on a core, by row of R411. -/
def State.countErrors (s : State) (core row n : Nat) : State :=
  let c := s.core core
  s.setCore core { c with errors := tset 0 c.errors row (tget 0 c.errors row + n) }

/-- REFRESH_STEAL (R189): one row of a bank is read, corrected and written back. -/
def execRefreshSteal (core bank : Nat) (s : State) : Host.Outcome State Fault Refusal :=
  .next (if !s.coreOn core || 16 ≤ bank then s
    else
      let c := s.core core
      let s := s.setCore core { c with refreshRow := tset 0 c.refreshRow bank ((tget 0 c.refreshRow bank + 1) % 1024) }
      (s.countErrors core 0 (Config.corrected s.fresh)).draw)

/-- MCHK at a team's next instruction; in a region its lanes abort (R198, R271). A team that is in the middle of one keeps it till
then. -/
def State.teamCheck (s : State) (u : Nat) (x : Trap) : State :=
  match s.team? u with
  | none => s
  | some t =>
    if t.ending then s
    else if t.inRegion then s.modTeam u (fun t => t.abortOutside t.openLanes 6)
    else if t.park = .running ∧ t.service.isNone then s.trapTeam u x
    else s.modTeam u (fun t => t.keepTrap x)

/-- The directory without an agent whose unit is lost (R5, R198): its copies and requests are gone but for the bytes of its writes,
it is nobody's owner or sharer, and what it was asked counts as answered. -/
def State.dropAgent (s : State) (a : Nat) : State :=
  let s := { s with coh := { s.coh with
    copies := s.coh.copies.filter (fun k => !(k.agent == a))
    reqs := s.coh.reqs.filter (fun r => !(r.agent == a) || decide (r.cells ≠ []))
    msgs := s.coh.msgs.map (fun (m : Msg) => if m.agent == a && decide (m.kind ≠ MsgKind.ack) && decide (m.kind ≠ MsgKind.change) then
      { m with kind := .ack, sent := false } else m) } }
  s.coh.dir.foldl (fun s x =>
    let e := if x.2.owned && decide (x.2.owner.toNat = a) then x.2.ownerGone else x.2.dropSharer a
    s.setDir x.1 (if e.st == .ds && !e.shared && !e.w then { e with st := .di } else e)) s

/-- The engines of a core that is lost do nothing more: transfers end, queued operations are gone. -/
def State.dropEngines (s : State) (core : Nat) : State :=
  { s.setQueue core [] with xfers := s.xfers.map (fun (x : Xfer) =>
      if x.core == core && !x.done then { x with done := true, dropped := true } else x) }

/-- An error of no one team: every workgroup of the core ends with "machine check", the core is absent (R198). -/
def State.failCore (s : State) (core : Nat) : State :=
  if !s.coreOn core then s
  else
    let ws := s.wgs.filter (fun w => w.core == core && w.holdsCore)
    let s := ws.foldl (fun s w => s.endWg w.uid 3 21) s
    let s := ((s.dropEngines core).dropAgent core).dropAgent (256 + core)
    let s := s.setCore core { s.core core with failed := true }
    { s with svc := { s.svc with
        events := s.svc.events ++ [0x198]
        presence := { s.svc.presence with core := s.svc.presence.core &&& ~~~ ((1 : BitVec 192) <<< core) } } }

/-- The granules of a line. -/
def lineGranules (line : Nat) : List Nat := (List.range 16).map (fun i => 16 * line + i)

/-- An uncorrectable error at a site (R198, R242); a second-tier port's is reported under its agent number (R377). -/
def State.machineError (s : State) (site : ErrSite) : State :=
  match site with
  | .register team lane reg => s.modTeam team (fun t =>
      if lane < t.size ∧ reg < t.allot then { t with poison := (t.poison ++ [vkey lane reg]).eraseDups } else t)
  | .teamState team => s.teamCheck team (tMCHK 0)
  | .coreStore loc =>
    if locKind loc = 1 ∨ locKind loc = 2 ∨ locKind loc = 3 ∨ locKind loc = 5 then s.addPoison [granuleOf loc] else s
  | .l1Clean core line =>
    match s.copyAt core line, s.managedCopy core line with
    | some k, _ => if k.st == .s || k.st == .e then ((s.dropCopy core line).loseLine core line).rebind core line false else s
    | none, some k => if k.dirty = [] then (s.dropManaged core line).refetchBound core line else s
    | none, none => s
  | .l1Dirty core line =>
    match s.copyAt core line, s.managedCopy core line with
    | some k, _ =>
      if k.st == .m || k.st == .o then
        (((s.giveUp core line).addPoison (lineGranules line)).loseLine core line).rebind core line false
      else s
    | none, some k =>
      if k.dirty = [] then s else ((s.flushManaged core line).addPoison (lineGranules line)).refetchBound core line
    | none, none => s
  | .arithmetic team again => if again then s.teamCheck team (tMCHK 2) else s
  | .accumulator core tile elem =>
    if tile < 12 ∧ elem < 16384 then
      s.setTilePoison core tile ((s.tilePoisoned core tile ++ [elem]).eraseDups) else s
  | .strip core => s.stripMismatch core
  | .unattributed core => s.failCore core
  | .tier pa =>
    if isTierPa pa && s.backed (pa / 8 * 8) 8 then
      { s.addPoison [granuleOf pa] with svc := { s.svc with
          events := s.svc.events ++ [452 + (pa - 0x10000000000) / 0x8000000000] } }
    else s

/-- MACHINE_ERROR (R198). -/
def execMachineError (site : ErrSite) (s : State) : Host.Outcome State Fault Refusal := .next (s.machineError site)

/-- CORE_RE_ENABLE (R198): a core that failed is present again. -/
def execCoreReEnable (core : Nat) (s : State) : Host.Outcome State Fault Refusal :=
  .next (if (s.core core).failed then
    let s := s.setCore core { s.core core with failed := false }
    { s with svc := { s.svc with presence := { s.svc.presence with
        core := s.svc.presence.core ||| ((1 : BitVec 192) <<< core) } } }
  else s)

/-- LOCKSTEP_MISMATCH (R411): the affected workgroups end with status 3: of a spindle's running program, or those that
the distributor has in flight. -/
def execLockstepMismatch (unit : LockUnit) (s : State) : Host.Outcome State Fault Refusal :=
  .next (match unit with
    | .spindle core eng =>
      match s.progs.find? (fun p => p.core == core && p.eng == eng && !p.ended && !p.queued) with
      | some p => s.endWg p.wg 3 21
      | none => s
    | .distributor =>
      (s.anns.filter Ann.inFlight).foldl (fun s a =>
        match a.purpose with
        | .fresh => (s.dropAnn a.id).modLaunch a.spec.id (fun l =>
            { l with ended := l.ended + 1, stopped := true, status := if l.status = 0 then 3 else l.status })
        | .saved u => (s.dropAnn a.id).endWg u 3 21
        | .hank origin attempt key hank m => (s.dropAnn a.id).answerReserve a.ctx origin attempt key hank m 1)
        { s with svc := { s.svc with events := s.svc.events ++ [0x411] } })

/-! ## Answers of fault service (R362, R363) -/

/-- In host-assisted mode a success brings the translation (R362): what the context's tables say now. -/
def State.fillAssisted (s : State) (c page : Nat) : State :=
  let va := pageVa page
  let s := (s.beforeWalk c va).dropTlb c va 0
  match s.walk c va with
  | .ok w => s.fillTlb c va w.leaf w.level
  | .error _ => s

/-- Whether a program waits for fault service (R205): its fetch does, or a copy of its own. -/
def State.progAsks (s : State) (u : Nat) : Bool :=
  s.xfers.any (fun x => x.spindle && x.issuer == u && decide (x.asked ≠ [])) || s.pageReqs.any (fun r => r.parties.contains (1, u))

/-- A program whose pages have all been answered is in the state that it was in (R205, R211): parked on a semaphore, or
running. -/
def State.progGoesOn (s : State) (u : Nat) : State :=
  if s.progAsks u then s else s.modProg u (fun q => if q.state = 3 then { q with state := if q.waitTicket.isSome then 2 else 1 } else q)

/-- A matrix operation found by its issue, with its queue: a core's, or a saved workgroup's. -/
def State.opOf (s : State) (seq : Nat) : Option (Nat × MOp) :=
  s.matrix.findSome? (fun q => (q.2.find? (fun o => decide (o.issuer.seq = seq))).map (fun o => (q.1, o)))

/-- A party of a page request learns the answer: a team takes it for its instruction, whatever its own access was to the page (R360,
R403). -/
def State.tellParty (s : State) (r : PageReq) (ok : Bool) (p : Nat × Nat) : State :=
  match p.1 with
  | 0 => s.modTeam p.2 (fun t =>
      { t with service := t.service.map (fun v => { v with
          asked := v.asked.filter (fun a => !(a.1 == r.page && a.2 != 9))
          failed := if ok || !v.asked.any (fun a => a.1 == r.page && a.2 != 9) then v.failed else v.failed ++ [(0, r.trap)] }) })
  | 1 => if ok then s.progGoesOn p.2 else s.endProg p.2 r.trap.code
  | 2 =>
    match s.xfers.find? (fun x => x.seq == p.2) with
    | none => s
    | some x =>
      let s := if !ok then s.failCopy x.core x.seq
        else s.modCopy x.core x.seq (fun y => { y with asked := y.asked.filter (fun a => decide (a ≠ r.page)) })
      if x.spindle then s.progGoesOn x.issuer else s
  | 3 =>
    match s.opOf p.2 with
    | none => s
    | some (q, o) => if ok then s else s.failPair q o r.trap
  | 4 => if ok then s else s.setCtx p.2 { s.ctx p.2 with failedPages := (s.ctx p.2).failedPages ++ [r.page] }
  | _ => s

/-- PAGE_RESPONSE (R363): the request at place `k` is answered. -/
def execPageResponse (k : Nat) (ok : Bool) (s : State) : Host.Outcome State Fault Refusal :=
  .next (match s.pageReqs[k]? with
    | none => s
    | some r =>
      let x := s.ctx r.ctx
      let mine (e : QueueEntry) : Bool :=
        e.kind == 1 && decide (e.arg0 = pageVa r.page)
      match r.pri, x.fqWait.find? mine with
      | false, some e =>
        if !e.posted then s
        else
          let s := s.setCtx r.ctx { x with fqWait := x.fqWait.filter (fun (y : QueueEntry) => decide (y ≠ e)) }
          r.parties.foldl (fun s p => s.tellParty r ok p) { s with pageReqs := s.pageReqs.eraseIdx k }
      | _, _ =>
        let s := if r.pri && ok then s.fillAssisted r.ctx r.page else s
        r.parties.foldl (fun s p => s.tellParty r ok p) { s with pageReqs := s.pageReqs.eraseIdx k })

/-- ATS_INVALIDATION (R361): as TLBINV does; no instruction waits for its end. -/
def execAtsInvalidation (ctx : Nat) (va : DWord) (kind : Nat) (s : State) : Host.Outcome State Fault Refusal :=
  .next (if kind ≤ 2 then (s.dropTlb ctx va kind).rewatch ctx else s)

/-! ## Service calls (R127, R128, R403, R408) -/

/-- The status of a firmware service: temperature and power are measured, errors are counted, other numbers answer all
ones. -/
def State.firmware (s : State) (t : Team) (svc : Nat) (arg status : Word) : Word :=
  match svc with
  | 1 => status
  | 2 => BitVec.ofNat 32 (min 0xFFFFFFFE (tget 0 (s.core (s.teamCore t)).errors arg.toNat))
  | 3 => status
  | _ => 0xFFFFFFFF

/-- The argument of the HCALL that a team waits in, as its instruction names it. -/
def Team.hcallArg (t : Team) : Word :=
  match (t.clause.bind (fun c => c.words[t.idx]?)) with
  | some w => t.opnd32 0 (w.extractLsb' 0 7)
  | none => 0

/-- HCALL_REPLY (R127): the waiting team receives its status. -/
def execHcallReply (team : Nat) (status : Word) (s : State) : Host.Outcome State Fault Refusal :=
  .next (match s.team? team with
    | none => s
    | some t =>
      match t.park with
      | .hcall svc none =>
        if svc < 0x100 then
          s.modTeam team (fun t => { t with park := .hcall svc (some (s.firmware t svc t.hcallArg status)) })
        else
          let c := s.ctxOfTeam team
          let x := s.ctx c
          match x.hrqWait.find? (fun e => e.party == team && e.posted) with
          | none => s
          | some e =>
            let s := s.setCtx c { x with hrqWait := x.hrqWait.filter (fun (y : QueueEntry) => decide (y ≠ e)) }
            s.modTeam team (fun t => { t with park := .hcall svc (some status) })
      | _ => s)

end Sys2Proof.Machine
end

