-- ==== Sys2Proof/Machine/Regions.lean ====
section
/-! DEFINITION. Region switches (R346, R347, R350, R351) and handover regions: HANDOFF, TAKE and the host's kicks
(R381–R385). -/

namespace Sys2Proof.Machine

/-! ## The pages of a region -/

/-- The walks of the 4 KiB pages of the 2 MiB region at a base, with their addresses. -/
def State.regionWalks (s : State) (c : Nat) (base : DWord) : List (DWord × Walk) :=
  (List.range 512).filterMap (fun i =>
    let va := base + BitVec.ofNat 64 (4096 * i)
    match s.walk c va with
    | .ok w => some (va, w)
    | .error _ => none)

/-- The physical pages of a region, as location numbers over 4,096. -/
def pagesOf (ws : List (DWord × Walk)) : List Nat := ws.map (fun e => leafLoc e.2.leaf e.2.level e.1 / 4096)

/-- Whether another device's proxy or a bridge holds a line, which its home has to recall (R346). -/
def State.heldFar (s : State) (line : Nat) : Bool :=
  let e := s.dirEntry line
  s.ports.any (fun p => p.2.lines.any (fun b => b.line == line)) || (e.owned && decide (450 ≤ e.owner.toNat)) ||
    (s.sharers e).any (fun a => decide (450 ≤ a))

/-- The lines of some pages that other devices or bridges hold. -/
def State.farLines (s : State) (ps : List Nat) : List Nat :=
  ((s.coh.dir.map (fun e => e.1) ++ s.ports.flatMap (fun p => p.2.lines.map BridgeLine.line)).eraseDups).filter (fun line =>
    ps.contains (line / 32) && s.heldFar line)

/-- Nothing of a region is under way: no access that is not performed, no request, no line held by a streamer or outside the device
(R346). -/
def State.regionQuiet (s : State) (ps : List Nat) : Bool :=
  let hit (loc : Nat) : Bool := ps.contains (loc / 4096)
  !s.loads.any (fun l => l.value.isNone && decide (l.space ≠ .store) && hit l.loc) &&
    !s.path.any (fun e => hit e.loc) &&
    !s.coh.reqs.any (fun r => hit (r.line * 128)) && !s.coh.txns.any (fun t => hit (t.line * 128)) &&
    !s.coh.msgs.any (fun m => hit (m.line * 128)) &&
    !s.teams.any (fun t => t.live && t.committing && t.region.any (fun e => e.2.open_ && e.2.lines.any (fun l => hit (l.1 * 128)))) &&
    !s.xfers.any (fun x => !x.done && ((x.dstVa.isNone && hit x.dst) || (x.srcVa.isNone && hit x.src))) &&
    decide (s.farLines ps = [])

/-! ## The merge of caches (R346, R347) -/

/-- The software-managed copies of some lines, in ascending agent order. -/
def State.managedIn (s : State) (hit : Nat → Bool) : List Copy :=
  let ks := s.coh.copies.filter (fun k => k.managed && hit k.line)
  (List.range 512).flatMap (fun a => ks.filter (fun k => k.agent == a))

/-- The bytes that are dirty in more than one of some copies (R347). -/
def conflictCount (ks : List Copy) : Nat :=
  let all := ks.flatMap (fun k => k.dirty.map (fun c => c.1))
  (all.eraseDups.filter (fun a => decide (2 ≤ all.count a))).length

/-- Every copy's dirty bytes written home, a higher agent's over a lower one's. -/
def State.mergeCopies (s : State) (ks : List Copy) : State := ks.foldl (fun s k => s.writeMem k.dirty) s

/-- Every copy of some lines invalidated and their directory entries DI; bridges track them no more. -/
def State.clearLines (s : State) (hit : Nat → Bool) : State :=
  { s with
    coh := { s.coh with
      copies := s.coh.copies.filter (fun k => !hit k.line)
      dir := s.coh.dir.filter (fun e => !hit e.1) }
    ports := s.ports.map (fun (p : Nat × HostPort) => (p.1, { p.2 with lines := p.2.lines.filter (fun b => !hit b.line) })) }

/-- Lines that their home slices drop from the L2 (R346, R382), and with them the sizes of strong accesses there (R136). -/
def State.leaveL2 (s : State) (hit : Nat → Bool) : State :=
  { s with coh := { s.coh with
      l2 := s.coh.l2.filter (fun line => !hit line)
      granules := s.coh.granules.filter (fun g => !hit (g.1 / 8)) } }

/-! ## Region switches -/

/-- The leaf with another region mode. -/
def withRegionMode (leaf : DWord) (m : Nat) : DWord := (leaf &&& ~~~ (0x600 : DWord)) ||| BitVec.ofNat 64 (m % 4 * 2 ^ 9)

/-- The space of a region after a switch. -/
def Space.switched (m : Nat) : Space → Space
  | .peer d _ => .peer d (m == 2)
  | _ =>
    match m with
    | 0 => .hardware
    | 1 => .software
    | _ => .memSide

/-- Whether a leaf maps one of some physical pages. -/
def mapsPage (leaf : DWord) (level : Nat) (ps : List Nat) : Bool :=
  let b := leafLoc leaf level 0
  ps.any (fun p => decide (b ≤ p * 4096) && decide (p * 4096 < b + pageBytes leaf level))

/-- Every leaf of any context that maps the region takes the mode, every translation of it goes, bindings follow (R346). -/
def State.rewriteLeaves (s : State) (m : Nat) (ps : List Nat) : State :=
  let s := (s.tableLeaves.filter (fun w => mapsPage w.leaf w.level ps)).foldl (fun s w =>
    (s.recallCopies w.entry 8).perform (cellsFrom w.entry (leBytes 8 (withRegionMode w.leaf m).toNat)) 0 none []) s
  let s := { s with tlb := s.tlb.filter (fun t => !mapsPage t.leaf t.level ps) }
  let moved (e : Nat × Binding) : Nat × Binding :=
    if ps.contains (e.2.loc / 4096) then (e.1, { e.2 with space := e.2.space.switched m }) else e
  s.mapTeams (fun t => { t with bindings := t.bindings.map moved })

/-- Whether a switch to memory-side mode is refused (R346, R376): a binding, a read-set line of an open region, or
second-tier memory. -/
def State.switchRefused (s : State) (ps : List Nat) : Bool :=
  s.teams.any (fun t => t.live && (t.bindings.any (fun b => ps.contains (b.2.loc / 4096)) ||
      t.region.any (fun r => r.2.open_ && r.2.lines.any (fun l => ps.contains (l.1 / 32))))) ||
    ps.any (fun p => isTierPa (p * 4096))

/-- A switch is done with a result. -/
def State.endSwitch (s : State) (k result conflicts : Nat) : State :=
  { s with switches := s.switches.zipIdx.map (fun (e : Switch × Nat) =>
      if e.2 = k then { e.1 with result := result, conflicts := conflicts, draining := [] } else e.1) }

/-- The bindings of a region after a switch (R166, R346): their lines are fetched again, with PEND where bytes that a
software-managed region held differ; in one they hold the bytes of now, to be refreshed by lease. -/
def State.switchBindings (s : State) (m : Nat) (ps : List Nat) : State :=
  let mine (e : Nat × Binding) : Bool := ps.contains (e.2.loc / 4096)
  let s := s.mapTeams (fun t =>
    if !t.live then t
    else { t with bindings := t.bindings.map (fun e =>
      if !mine e then e
      else
        let now := s.readAt (s.teamCore t) t.uid e.2.space e.2.loc (if e.2.size8 then 8 else 4)
        let b := { e.2 with held := if m = 1 then some now else none }
        (e.1, if e.2.held.any (fun v => decide (v ≠ now)) then b.mark t.now else b)) })
  s.teams.foldl (fun s t => if !t.live then s
    else (t.bindings.filter mine).foldl (fun s e =>
      if m = 1 then s.fetchManaged (s.teamCore t) e.2.loc else s.holdBound (s.teamCore t) e.2.space e.2.loc e.2.spilled) s) s

/-- The drain of a switch goes on: accesses to its pages are held, and lines held outside the device are recalled (R346). -/
def State.drainSwitch (s : State) (k : Nat) (ps : List Nat) : State :=
  let s := { s with switches := s.switches.zipIdx.map (fun (e : Switch × Nat) =>
    if e.2 = k then { e.1 with draining := ps } else e.1) }
  (s.farLines ps).foldl (fun s line => s.askDrop homeAgent line) s

/-- The switch at place `k` runs: once its drain has ended, merged, rewritten and released in one (R346). A region whose leaves all
have the mode is done at once. -/
def State.runSwitch (s : State) (k : Nat) (x : Switch) : State :=
  let ws := s.regionWalks x.ctx x.base
  let ps := pagesOf ws
  let hit (line : Nat) : Bool := ps.contains (line / 32)
  if ws.all (fun e => decide ((e.2.leaf.extractLsb' 9 2).toNat = x.mode)) then s.endSwitch k 1 0
  else if x.mode = 2 && s.switchRefused ps then s.endSwitch k 2 0
  else if !s.regionQuiet ps then s.drainSwitch k ps
  else
    let ks := s.managedIn hit
    let s := ((s.mergeCopies ks).clearLines hit).loseLines hit
    let s := if x.mode = 2 then s.leaveL2 hit else s
    let s := (s.rewriteLeaves x.mode ps).switchBindings x.mode ps
    s.endSwitch k 1 (conflictCount ks)

/-- Whether an earlier switch of the same region has not run: ticket order (R346). -/
def State.switchBehind (s : State) (k : Nat) (x : Switch) : Bool :=
  let ps := pagesOf (s.regionWalks x.ctx x.base)
  (s.switches.take k).any (fun y => y.result == 0 &&
    ((y.ctx == x.ctx && y.base == x.base) || (pagesOf (s.regionWalks y.ctx y.base)).any (fun p => ps.contains p)))

/-- REGION_SWITCH (R346) for the selected switch. -/
def execRegionSwitch (s : State) : Host.Outcome State Fault Refusal :=
  .next (match s.switches[s.sel]? with
    | none => s
    | some x => if x.result ≠ 0 || s.switchBehind s.sel x then s else s.runSwitch s.sel x)

/-! ## CRSW, CRWAIT (R350, R351) -/

/-- The ticket after one: 0 and 0xFFFF_FFFF are skipped. -/
def nextTicket (t : Word) : Word := if t.toNat + 1 < 0xFFFFFFFF then t + 1 else 1

/-- The ACCESS condition of a base (R350, R450). -/
def State.crswAccess (s : State) (c : Nat) (base : DWord) : List Cond :=
  if inAperture base then [(none, tACCESS 1)]
  else if !canonical base then [(none, tACCESS 6)]
  else
    match s.walk c base with
    | .error _ => [(none, tACCESS 6)]
    | .ok w =>
      if !w.leaf.getLsbD 3 then [(none, tACCESS 0)]
      else whenCond (decide (w.leaf.extractLsb' 9 2 = 3)) (tACCESS 6)

/-- Switches of a context that are not complete. -/
def State.switchesOpen (s : State) (c : Nat) : Nat := (s.switches.filter (fun x => x.ctx == c && x.result == 0)).length

/-- Completed records older than the context's 64 most recent are discarded (R351). -/
def State.keepRecords (s : State) (c : Nat) : List Switch :=
  let n := (s.switches.filter (fun x => x.ctx == c)).length
  (s.switches.zipIdx.filter (fun e => e.1.ctx ≠ c || e.1.result == 0 ||
    decide (n < ((s.switches.take (e.2 + 1)).filter (fun x => x.ctx == c)).length + 64))).map (fun e => e.1)

/-- The switch is queued under the context's next ticket. -/
def State.queueSwitch (s : State) (d : Code) (base : DWord) (mode : Nat) : Res :=
  let c := s.curCtxNum
  let n := nextTicket (s.ctx c).ticket
  let s := s.setCtx c { s.ctx c with ticket := n }
  let x : Switch := ⟨c, n, base, mode, 0, 0, []⟩
  let s := { s with switches := s.switches ++ [x] }
  { s with switches := s.keepRecords c }.putStatus d n

/-- CRSW (R350): the limit of 16 is looked at once, before the release. -/
def execCrsw (d a b : Code) (s : State) : Host.Outcome State Fault Refusal :=
  issue { whole := true } { reads := [(a, 2), (b, 1)], writes := [(d, 1)] }
    (fun t s =>
      okCond (szOk false d && sbaseOk t false a && skOk t false b && (t.leader.isNone || decide ((t.lead32 b).toNat ≤ 2))) ++
      (if t.leader.isNone then []
       else if (t.lead64 a).toNat % 0x200000 ≠ 0 then [(none, tALIGN)]
       else s.crswAccess (((s.wg? t.wg).map Wg.ctx).getD 0) (t.lead64 a)))
    (fun s =>
      match s.cur.leader with
      | none => .done s
      | some l =>
        let go (s : State) : Res := s.unpark.queueSwitch d (s.cur.opnd64 l a) (s.cur.opnd32 l b).toNat
        match s.cur.park with
        | .drain n => if s.accessesDone s.cur.uid n s.cur.scope then go s else .stay s
        | _ =>
          if 16 ≤ s.switchesOpen s.curCtxNum then s.unpark.putStatus d 0xFFFFFFFF
          else if s.accessesDone s.cur.uid s.nextSeq s.cur.scope then go s
          else s.parkOn (.drain s.nextSeq)) s

/-- The status that CRWAIT writes for a ticket, once it is complete (R351). -/
def State.ticketStatus (s : State) (c : Nat) (t : Word) : Option Word :=
  match s.switches.find? (fun x => x.ctx == c && x.ticket == t) with
  | some x =>
    match x.result with
    | 0 => none
    | 1 => some (BitVec.ofNat 32 x.conflicts)
    | _ => some 0x03000000
  | none => if t ≠ 0 ∧ t.toNat ≤ (s.ctx c).ticket.toNat then some 0x02000000 else some 0x01000000

/-- CRWAIT (R351). -/
def execCrwait (d a : Code) (s : State) : Host.Outcome State Fault Refusal :=
  issue { whole := true } { reads := [(a, 1)], writes := [(d, 1)] }
    (fun t _ => okCond (szOk false d && skOk t false a))
    (fun s =>
      match s.cur.leader with
      | none => .done s
      | some l =>
        match s.ticketStatus s.curCtxNum (s.cur.opnd32 l a) with
        | some x => s.unpark.putStatus d x
        | none => s.parkOn .crwait) s

/-! ## Handover regions (R381, R382) -/

/-- The state of a handover region. -/
def State.handoverOf (s : State) (r : Nat) : Handover := tget Handover.device s.handover r

/-- Sets the state of a handover region. -/
def State.setHandover (s : State) (r : Nat) (h : Handover) : State :=
  { s with handover := tset Handover.device s.handover r h }

/-- The handover region of a line. -/
def regionOfLine (line : Nat) : Nat := line / 16384

/-- Writes of a region that wait at their home are performed before its flush (R382). -/
def State.settleRegion (s : State) (r : Nat) : State :=
  let mine (line : Nat) (pkt : Option Packet) : Bool := regionOfLine line == r && pkt.isNone
  let put (s : State) (agent : Nat) (notified : List Nat) (tags : List Tag) (cells : List Host.Cell) : State :=
    if cells = [] then s
    else s.perform cells ((tags.head?.map Tag.team).getD 0) (tags.head?.bind Tag.own) (agent :: notified)
  let s := (s.coh.txns.filter (fun t => mine t.line t.pkt)).foldl (fun s t => put s t.agent t.notified t.tags t.cells) s
  let s := (s.coh.reqs.filter (fun q => mine q.line q.pkt)).foldl (fun s q => put s q.agent [] q.tags q.cells) s
  let again := (s.coh.txns.filter (fun t => regionOfLine t.line == r && t.pkt.isSome)).map (fun t =>
    (⟨t.kind, t.agent, t.line, t.cells, t.tags, t.pkt⟩ : HomeReq))
  { s with coh := { s.coh with
      txns := s.coh.txns.filter (fun t => !(regionOfLine t.line == r))
      reqs := again ++ s.coh.reqs.filter (fun q => !mine q.line q.pkt)
      msgs := s.coh.msgs.filter (fun m => !(regionOfLine m.line == r)) } }

/-- Peers that may hold lines of a region are told to drop them. -/
def State.dropPeerCopies (s : State) (r : Nat) : State :=
  (s.coh.dir.filter (fun e => regionOfLine e.1 == r)).foldl (fun s e =>
    ((s.sharers e.2 ++ (if e.2.owned then [e.2.owner.toNat] else [])).filter (fun a => decide (464 ≤ a))).foldl (fun s a =>
      s.sendTo (a - 464) (some (e.1 * 128)) (mkPacket 0 s.fab.dev (a - 464) 2 0x20 0 0 (e.1 * 128) [])) s) s

/-- Flush (R382): held lines are recalled, every copy is written home and invalidated; bindings are kept, with the bytes
that they hold. -/
def State.flushRegion (s : State) (r : Nat) : State :=
  let s := (s.xfers.filter (fun x => x.granted && !x.done && regionOfLine (lineOf x.dst) == r)).foldl (fun s x =>
    s.recallCopies x.dst x.size) s
  let hit (line : Nat) : Bool := regionOfLine line == r
  let s := ((((s.settleRegion r).dropPeerCopies r).clearLines hit).loseLines hit).leaveL2 hit
  s.mapTeams (fun t => { t with bindings := t.bindings.map (fun e =>
    if hit (lineOf e.2.loc) then
      (e.1, { e.2 with held := some (s.seenNat (s.teamCore t) t.uid e.2.loc (if e.2.size8 then 8 else 4)) })
    else e) })

/-- Invalidate and refetch (R382): every bound line is fetched again, PEND where the bound bytes differ from those held when the
host took the region, or since the binding was made (R166). -/
def State.refetchRegion (s : State) (r : Nat) : State :=
  let mine (e : Nat × Binding) : Bool := regionOfLine (lineOf e.2.loc) == r
  let s := s.clearLines (fun line => regionOfLine line == r)
  let s := s.mapTeams (fun t => { t with bindings := t.bindings.map (fun e =>
    match e.2.held with
    | none => e
    | some v =>
      if !mine e then e
      else
        let now := s.seenNat (s.teamCore t) t.uid e.2.loc (if e.2.size8 then 8 else 4)
        let b := { e.2 with held := none }
        (e.1, if now = v then b else b.mark t.now)) })
  s.teams.foldl (fun s t => if !t.live then s
    else (t.bindings.filter mine).foldl (fun s e => s.holdBound (s.teamCore t) e.2.space e.2.loc e.2.spilled) s) s

/-- HANDOFF or a kick ACQUIRE of one region (R381). -/
def State.giveRegion (s : State) (r : Nat) : State :=
  match s.handoverOf r with
  | .device => (s.flushRegion r).setHandover r .host
  | .host => s
  | .released => s.setHandover r .host

/-- TAKE of regions in ascending order, as far as none is with the host; the regions left over (R381). -/
def State.takeRegions : List Nat → State → State × List Nat
  | [], s => (s, [])
  | r :: rs, s =>
    match s.handoverOf r with
    | .device => State.takeRegions rs s
    | .released => State.takeRegions rs ((s.setHandover r .device).refetchRegion r)
    | .host => (s, r :: rs)

/-! ## HANDOFF, TAKE (R385) -/

/-- The leaf by which an address is translated now, with its level (R360). -/
def State.leafNow (s : State) (c : Nat) (va : DWord) : Option (DWord × Nat) :=
  let old := (s.tlbEntry c va).map (fun t => (t.leaf, t.level))
  match (s.ctx c).assistWalk, old.filter (fun t => t.1.getLsbD 0), s.walk c va with
  | true, some t, _ => some t
  | _, _, .error _ => if Config.oldTranslation s.fresh then old else none
  | _, _, .ok w =>
    if Config.oldTranslation s.fresh && old.any (fun t => decide (t.1 &&& ~~~ (0xC0 : DWord) ≠ w.leaf &&& ~~~ (0xC0 : DWord))) then old
    else some (w.leaf, w.level)

/-- The translations of `n` regions from a base, each with the trap that its leaf calls for (R385, R450). -/
def State.passSites (c : Nat) (base : DWord) : Nat → State → State × List ((Nat × Site) × Option Trap)
  | 0, s => (s, [])
  | n + 1, s =>
    let r := State.passSites c base n s
    let va := base + BitVec.ofNat 64 (n * 0x200000)
    let s := r.1.beforeWalk c va
    let t := s.translate c va Need.fetch
    let trap : Option Trap :=
      match s.leafNow c va, t.2 with
      | some l, .at_ .handover _ => if 3 ≤ l.2 then some (tACCESS 6) else if !l.1.getLsbD 3 then some (tACCESS 0) else none
      | _, _ => some (tACCESS 6)
    (t.1, r.2 ++ [((0, t.2), trap)])

/-- The region numbers of sites. -/
def passRegions (rs : List (Nat × Site)) : List Nat :=
  rs.filterMap (fun x =>
    match x.2 with
    | .at_ _ loc => some (loc / 0x200000)
    | _ => none)

/-- A HANDOFF or TAKE under way acts on its regions as far as it can (R381). -/
def State.goPass (s : State) (p : Pass) : State :=
  let r := if p.take then State.takeRegions p.regions s else (p.regions.foldl State.giveRegion s, [])
  { r.1 with passes := r.1.passes.filterMap (fun (q : Pass) =>
      if q = p then (if r.2 = [] then none else some { q with regions := r.2 }) else some q) }

/-- Whether a TAKE or HANDOFF stands: a TAKE is withdrawn while its workgroup is saved (R385). -/
def State.passStands (s : State) (p : Pass) : Bool :=
  !p.take || !(s.wg? (s.issuerWg p.tag.team)).any (fun w => w.phase == .saved)

/-- The HANDOFFs and TAKEs of some teams that are under way go on, in the order in which they came. -/
def State.goPasses (s : State) (who : Pass → Bool) : State :=
  (s.passes.filter (fun p => who p && s.passStands p)).foldl (fun s p => if s.passes.contains p then s.goPass p else s) s

/-- The events of HANDOFF or TAKE after its release: a TAKE acts at once on regions that are not with the host; a HANDOFF is under way,
its flush still to come (R385, R386). An earlier one of the team comes first. -/
def State.passNow (s : State) (take : Bool) (regions : List Nat) : State :=
  let p : Pass := ⟨take, regions, ⟨s.cur.uid, s.nextSeq, s.cur.setb, 5, none⟩⟩
  let s := s.takeSeq
  let first := !s.passes.any (fun q => q.tag.team == s.cur.uid)
  let s := { s with passes := s.passes ++ [p] }
  if take && first then s.goPass p else s

/-- The body of HANDOFF and TAKE. -/
def State.runPass (take : Bool) (a b : Code) (s : State) : Res :=
  match s.cur.leader with
  | none => .done s
  | some l =>
    let base := s.cur.opnd64 l a
    let c := s.curCtxNum
    let r := State.passSites c base (s.cur.opnd32 l b).toNat s
    let sites := r.2.map (fun x => x.1)
    if sites.any (fun x => !x.2.ok) then r.1.afterSites Need.store true sites
    else
      match r.2.findSome? (fun x => x.2) with
      | some x => .trap r.1 [(none, x)] 0
      | none => r.1.released 5 (fun s => .done (s.passNow take (passRegions sites)))

/-- The issue of HANDOFF and TAKE. -/
def issuePass (take : Bool) (a b : Code) (s : State) : Host.Outcome State Fault Refusal :=
  issue { cls := 2, whole := true, forbidden := 1 } { reads := [(a, 2), (b, 1)], writes := [] }
    (fun t _ =>
      let n := (t.lead32 b).toNat
      okCond (sbaseOk t false a && skOk t false b && (t.leader.isNone || (decide (1 ≤ n) && decide (n ≤ 4096)))) ++
        whenCond (t.leader.isSome && decide ((t.lead64 a).toNat % 0x200000 ≠ 0)) tALIGN)
    (State.runPass take a b) s

/-- HANDOFF (R385). -/
def execHandoff (a b : Code) (s : State) : Host.Outcome State Fault Refusal := issuePass false a b s

/-- TAKE (R385). -/
def execTake (a b : Code) (s : State) : Host.Outcome State Fault Refusal := issuePass true a b s

/-- TAKE_RESUME (R381, R385): the HANDOFFs and TAKEs of a team that are under way go on. -/
def execTakeResume (team : Nat) (s : State) : Host.Outcome State Fault Refusal :=
  .next (s.goPasses (fun p => p.tag.team == team))

/-! ## Kicks (R381, R384) -/

/-- A running kick command of a port that is present acts on its next region; BUSY ends with the last (R4, R384). -/
def State.kickStep (s : State) (port cmd : Nat) (act : State → Nat → State) : State :=
  let p := s.hostPort port
  if p.busy && p.cmd == cmd && decide (port < 2) && s.svc.presence.hport.getLsbD port then
    let s := act s (p.kbase + p.doneCount)
    let p := s.hostPort port
    s.setHostPort port { p with doneCount := p.doneCount + 1, busy := decide (p.doneCount + 1 < p.ksize) }
  else s

/-- KICK_RELEASE (R381). -/
def execKickRelease (port : Nat) (s : State) : Host.Outcome State Fault Refusal :=
  .next (s.kickStep port 1 (fun s r => if s.handoverOf r = .host then s.setHandover r .released else s))

/-- KICK_ACQUIRE (R381), after the TAKEs of the region that came to the table before it. -/
def execKickAcquire (port : Nat) (s : State) : Host.Outcome State Fault Refusal :=
  .next (s.kickStep port 2 (fun s r => (s.goPasses (fun p => p.take && p.regions.contains r)).giveRegion r))

end Sys2Proof.Machine
end

