-- ==== Sys2Proof/Machine/Bridge.lean ====
section
/-! DEFINITION. The host through a bridge (R387–R389): coherent windows, half-lines, snoops and their answers, link loss,
and accesses that keep no copy. -/

namespace Sys2Proof.Machine

/-! ## Windows and regions (R387) -/

/-- Whether a host port serves its host: READY, present, and its link up (R389, R412). -/
def State.hostUp (s : State) (port : Nat) : Bool :=
  s.svc.ready && decide (port < 2) && s.svc.presence.hport.getLsbD port && (s.hostPort port).up

/-- Whether an address lies in an enabled window, which covers HBM and second-tier memory only. -/
def Window.covers (w : Window) (pa : Nat) : Bool :=
  w.enabled && !isHostPa pa && decide (w.base ≤ pa / 0x200000) && decide (pa / 0x200000 < w.base + w.count)

/-- Whether an address lies in a window of a port. -/
def HostPort.inWindow (p : HostPort) (pa : Nat) : Bool := p.windows.any (fun w => w.2.covers pa)

/-! ## Lines of a bridge (R388) -/

/-- The host state of a half. -/
def BridgeLine.half (b : BridgeLine) (h : Nat) : HalfState := if h = 0 then b.h0 else b.h1

/-- Sets the host state of a half. -/
def BridgeLine.setHalf (b : BridgeLine) (h : Nat) (x : HalfState) : BridgeLine :=
  if h = 0 then { b with h0 := x } else { b with h1 := x }

/-- The tracked line of a port. -/
def State.bridgeLine (s : State) (port line : Nat) : Option BridgeLine :=
  (s.hostPort port).lines.find? (fun b => b.line == line)

/-- A bridge gives up a line of its own accord: its notice or its writeback goes to the home (R340). -/
def State.bridgeGone (s : State) (port line : Nat) : State := (s.giveUp (450 + port) line).dropBridge port line

/-- The line that a full bridge evicts: the least recently used that no snoop is out for. -/
def HostPort.victim (p : HostPort) : Option BridgeLine :=
  (p.lines.filter (fun b => !b.snooping && b.wantHalf.isNone)).foldl (fun r b =>
    match r with
    | none => some b
    | some x => if b.used < x.used then some b else some x) none

/-- Room for one more line (R388): a port tracks 262,144. -/
def State.bridgeRoom (s : State) (port : Nat) : State :=
  let p := s.hostPort port
  if p.lines.length < 262144 then s
  else
    match p.victim with
    | none => s
    | some b => if b.held then s.modBridge port b.line (fun b => b.snoop false false) else s.bridgeGone port b.line

/-- A request of a bridge to the home of a line. -/
def State.bridgeAsk (s : State) (port line : Nat) (kind : Req) : State :=
  { s with coh := { s.coh with reqs := s.coh.reqs ++ [⟨kind, 450 + port, line, [], [], none⟩] } }

/-- Bytes returned to the host: of a half-line, or of an access. -/
def State.answerHost (s : State) (port addr : Nat) (bs : List Byte) : State :=
  let p := s.hostPort port
  s.setHostPort port { p with answers := p.answers ++ [(addr, bs)] }

/-- An access that finds a region in another mode (R387): poisoned data, counted. -/
def State.refuseHost (s : State) (port addr : Nat) (read : Bool) : State :=
  let p := s.hostPort port
  let s := s.setHostPort port { p with dropped := p.dropped + 1 }
  if read then s.answerHost port addr [] else s

/-- A half-line served from the bridge's copy, the half in a new host state. -/
def State.serveHalf (s : State) (port line half : Nat) (x : HalfState) : State :=
  (s.modBridge port line (fun b => { b.setHalf half x with used := s.cycle })).answerHost port (line * 128 + 64 * half)
    (cellBytes s.mem (line * 128 + 64 * half) 64)

/-- A host's read of a half, shared or for ownership (R388); a full bridge first has to evict a line, whose host answers its
snoops. -/
def State.hostRead (s : State) (port line half : Nat) (own : Bool) : State :=
  let want : Option (Nat × Bool) := some (half, own)
  match s.bridgeLine port line with
  | none =>
    let s := s.bridgeRoom port
    let p := s.hostPort port
    if 262144 ≤ p.lines.length then s
    else
    let b : BridgeLine := ⟨line, .i, .i, .i, false, false, false, false, false, want, s.cycle⟩
    (s.setHostPort port { p with lines := p.lines ++ [b] }).bridgeAsk port line (if own then .getM else .getS)
  | some b =>
    if b.snooping || b.wantHalf.isSome || b.half half == .a then s
    else if b.b == .i then
      (s.modBridge port line (fun b => { b with wantHalf := want })).bridgeAsk port line (if own then .getM else .getS)
    else if !own then s.serveHalf port line half .s
    else if b.b == .x then s.serveHalf port line half .a
    else (s.modBridge port line (fun b => { b with wantHalf := want })).bridgeAsk port line .upgrade

/-- A host's access to a half-line in a window of its port. -/
def State.inHostWindow (s : State) (port line half : Nat) (read : Bool) (go : State → State) : State :=
  let pa := line * 128
  if !s.hostUp port || 2 ≤ half || !(s.hostPort port).inWindow pa || !s.backed pa 128 then s
  else if s.modeOfPa pa ≠ 0 then s.refuseHost port (pa + 64 * half) read
  else go s

/-- HOST_READ_SHARED (R388). -/
def execHostReadShared (port line half : Nat) (s : State) : Host.Outcome State Fault Refusal :=
  .next (s.inHostWindow port line half true (fun s => s.hostRead port line half false))

/-- HOST_READ_OWNERSHIP (R388). -/
def execHostReadOwnership (port line half : Nat) (s : State) : Host.Outcome State Fault Refusal :=
  .next (s.inHostWindow port line half true (fun s => s.hostRead port line half true))

/-- The bytes of a half merged: the host's write is performed. -/
def State.mergeHalf (s : State) (port line half : Nat) (data : List Byte) : State :=
  (s.perform (cellsFrom (line * 128 + 64 * half) (data.take 64)) 0 none []).modBridge port line (fun b => { b with dirty := true })

/-- HOST_WRITEBACK (R388): of a half in A. -/
def execHostWriteback (port line half : Nat) (data : List Byte) (keep : Bool) (s : State) : Host.Outcome State Fault Refusal :=
  .next (match s.bridgeLine port line with
    | none => s.inHostWindow port line half false (fun s => s)
    | some b =>
      if s.hostUp port && decide (half < 2) && b.b == .x && b.half half == .a then
        (s.mergeHalf port line half data).modBridge port line (fun b =>
          { b.setHalf half (if keep then .s else .i) with used := s.cycle })
      else s)

/-- HOST_DROP_CLEAN (R388). -/
def execHostDropClean (port line half : Nat) (s : State) : Host.Outcome State Fault Refusal :=
  .next (match s.bridgeLine port line with
    | none => s
    | some b =>
      if s.hostUp port && decide (half < 2) && b.half half == .s then s.modBridge port line (fun b => b.setHalf half .i) else s)

/-! ## Snoops (R388, R389) -/

/-- The message of the directory that a bridge has yet to answer. -/
def State.bridgeMsg (s : State) (port line : Nat) : Option Msg :=
  s.coh.msgs.find? (fun m => m.agent == 450 + port && m.line == line && m.sent)

/-- Every snoop of a line is answered: the bridge acts on it and answers the directory, when that asked. -/
def State.snoopDone (s : State) (port : Nat) (b : BridgeLine) : State :=
  let agent := 450 + port
  match b.asked, s.bridgeMsg port b.line with
  | true, some m => (if b.toShared then s.bridgeShared port b else s.dropBridge port b.line).ackMsg m
  | _, _ =>
    if !b.toShared then s.bridgeGone port b.line
    else
      let s := s.bridgeShared port b
      let e := s.dirEntry b.line
      if s.locked b.line || !(e.owned && decide (e.owner.toNat = agent)) then s
      else s.setDir b.line (if b.dirty then { e with st := .do_ } else { e with st := .ds, owner := 0 }.addSharer agent)

/-- BACK_INVALIDATE_SNOOP_ANSWER (R388): a half in A returns its data. -/
def execBackInvalidateSnoopAnswer (port line half : Nat) (data : Option (List Byte)) (s : State) :
    Host.Outcome State Fault Refusal :=
  .next (match s.bridgeLine port line with
    | none => s
    | some b =>
      if !(if half = 0 then b.snoop0 else half == 1 && b.snoop1) then s
      else
        let s := match data with
          | some bs => if b.half half == HalfState.a then s.mergeHalf port line half bs else s
          | none => s
        let s := s.modBridge port line (fun b =>
          let b := b.setHalf half (if b.toShared then .s else .i)
          if half = 0 then { b with snoop0 := false } else { b with snoop1 := false })
        match s.bridgeLine port line with
        | some b => if b.snooping then s else s.snoopDone port b
        | none => s)

/-- A port's link goes down: what the host holds is lost, every answer that a snoop waits for is the bridge's own, and
its requests are withdrawn (R389). -/
def State.hostLinkDown (s : State) (port : Nat) : State :=
  let p := s.hostPort port
  let waiting := p.lines.filter (fun b => b.snooping)
  let s := s.setHostPort port { p with
    up := false
    lines := p.lines.map (fun b => { b with h0 := .i, h1 := .i, snoop0 := false, snoop1 := false, wantHalf := none }) }
  let s := { s with
    coh := { s.coh with reqs := s.coh.reqs.filter (fun r => !(r.agent == 450 + port)) }
    svc := { s.svc with events := s.svc.events ++ [0x389] } }
  waiting.foldl (fun s b => s.snoopDone port { b with h0 := .i, h1 := .i, snoop0 := false, snoop1 := false, wantHalf := none }) s

/-- SNOOP_TIMEOUT (R389): a snoop that the host has not answered within 2 ms. -/
def execSnoopTimeout (port : Nat) (s : State) : Host.Outcome State Fault Refusal :=
  .next (if (s.hostPort port).up && (s.hostPort port).lines.any (fun b => b.snooping) then s.hostLinkDown port else s)

/-- HOST_PORT_LINK_LOSS (R389). -/
def execHostPortLinkLoss (port : Nat) (s : State) : Host.Outcome State Fault Refusal :=
  .next (if decide (port < 2) && s.svc.presence.hport.getLsbD port && (s.hostPort port).up then s.hostLinkDown port else s)

/-! ## Accesses that keep no copy (R383, R387) -/

/-- The lines of a range. -/
def rangeLines (pa size : Nat) : List Nat := (List.range (lineOf (pa + size - 1) + 1 - lineOf pa)).map (fun i => lineOf pa + i)

/-- A write at its home by an agent that keeps no copy: every copy goes, the entry becomes DI, every core is reached, and bobbins
fetch their lines again. -/
def State.homeWrite (s : State) (cells : List Host.Cell) : State :=
  let lines := linesOf cells
  let s := (s.invalidateOthers 0xFFFF lines).perform cells 0 none []
  (lines.foldl (fun s line =>
    let e := s.dirEntry line
    s.setDir line { DirEntry.empty with st := if e.w then .ds else .di, w := e.w, ptrs := if e.w then e.ptrs else [],
                                         crs := e.w && e.crs, coarse := if e.w then e.coarse else 0, stamp := e.stamp }) s).rebindAll
    lines

/-- HOST_UNCACHED_ACCESS (R387): outside every window. In a handover region that the device holds it bypasses the
device's caches: what a read finds is not fixed, and the device may overwrite what it writes (R383). -/
def execHostUncachedAccess (port pa size : Nat) (wr : Option (List Byte)) (s : State) : Host.Outcome State Fault Refusal :=
  .next (let lines := rangeLines pa size
    let handover := s.modeOfPa pa == 3
    if !s.hostUp port || size = 0 || 128 < size || !s.backed pa size || (s.hostPort port).inWindow pa then s
    else if handover || decide (s.handoverOf (pa / 0x200000) ≠ Handover.device) then
      match wr with
      | some bs =>
        if s.handoverOf (pa / 0x200000) = Handover.device then s.writePast (cellsFrom pa (bs.take size))
        else s.writeMem (cellsFrom pa (bs.take size))
      | none =>
        if s.handoverOf (pa / 0x200000) = Handover.device then
          s.draw.answerHost port pa ((List.range size).map (fun i => Config.freeByte (s.fresh * 128 + i)))
        else s.answerHost port pa (cellBytes s.mem pa size)
    else if lines.any (fun l => s.locked l) then s
    else if lines.any (fun l => if wr.isNone then s.hostOwned l else s.hostHeld l) then lines.foldl (fun s l => s.snoopLine l wr.isNone) s
    else
      let s := s.recallCopies pa size
      match wr with
      | some bs => s.homeWrite (cellsFrom pa (bs.take size))
      | none => s.answerHost port pa (cellBytes s.mem pa size))

end Sys2Proof.Machine
end

