-- ==== Sys2Proof/Machine/Service.lean ====
section
/-! DEFINITION. The service controller (R330, R337, R375, R384, R387, R391, R392, R404–R412): bring-up, descriptors and
other configuration, tuning, clocks and thermal shutdown, scrubbing, security requests. -/

namespace Sys2Proof.Machine

/-! ## Context descriptors (R79, R246, R391, R392, R405, R407) -/

/-- Whether a context holds a launch that it has taken and that has not completed; a member's copy of another device's is none. -/
def State.holdsLaunch (s : State) (c : Nat) : Bool := s.launches.any (fun l => l.ctx == c && l.origin.isNone)

/-- Whether an offset is one of the budget fields. -/
def isBudget (off : Nat) : Bool := [0x40, 0x44, 0x48, 0x4C].contains off

/-- The context as VALID is set: TRAPBASE is 0 and the watch of its launch queue begins (R79, R392). -/
def Context.start (x : Context) : Context :=
  { x with
    valid := true
    trapBase := 0
    started := false
    tail := none
    tailPend := true
    tailRead := none }

/-- A descriptor with the field at an offset written; a virtual address is kept with its bit 56 extended (R130). DESIGN CHOICE (log
entry 67): TRAPBASE keeps all 64 bits written, bits [11:0] too, which R79 wants zero and which no handler's address takes in. -/
def Context.field (x : Context) (off : Nat) (v : DWord) : Context :=
  let addr : DWord := (v.extractLsb' 0 57).signExtend 64
  match off with
  | 0x00 =>
    let y := { x with priv := v.getLsbD 1, assist := v.extractLsb' 8 8, placeAssist := false }
    if !v.getLsbD 0 then { y with valid := false, tail := none, tailPend := false, tailRead := none }
    else if x.valid then y
    else y.start
  | 0x08 => { x with ptroot := v &&& 0x01FFFFFFFFFFFFFF }
  | 0x10 => { x with lbase := addr }
  | 0x18 => { x with lslots := (v.extractLsb' 0 16).toNat }
  | 0x20 => { x with lq := addr }
  | 0x28 => { x with lqk := (v.extractLsb' 0 4).toNat }
  | 0x30 => { x with fq := addr }
  | 0x38 => { x with hrq := addr }
  | 0x40 => { x with teamBudget := (v.extractLsb' 0 13).toNat }
  | 0x44 => { x with bw := (v.extractLsb' 0 32).toNat }
  | 0x48 => { x with depth := (v.extractLsb' 0 32).toNat }
  | 0x4C => { x with power := (v.extractLsb' 0 16).toNat }
  | 0x50 => { x with trapBase := v }
  | _ => x

/-- The pairing counts of a context start at 0 on every core (R246). -/
def State.clearPairing (s : State) (c : Nat) : State :=
  { s with cores := s.cores.map (fun (e : Nat × Core) => (e.1, { e.2 with mmapCount := tdel e.2.mmapCount c })) }

/-- CONTEXT_DESCRIPTOR_WRITE (R392): through a host port, or through the service port. -/
def execContextDescriptorWrite (ctx off : Nat) (value : DWord) (service : Bool) (s : State) :
    Host.Outcome State Fault Refusal :=
  .next (let x := s.ctx ctx
    let forbidden := off = 0 ∧ value.extractLsb' 8 8 &&& ~~~ Config.assistAllowed ≠ 0
    if 16 ≤ ctx || (!s.svc.ready && !service) then s
    else if s.holdsLaunch ctx && !isBudget off then s.setCtx ctx { x with ignored := x.ignored + 1 }
    else if x.locked && (service || !isBudget off) then s
    else if forbidden then { s with svc := { s.svc with ignored := s.svc.ignored + 1 } }
    else
      let s := if off = 0 ∧ value.getLsbD 0 ∧ !x.valid then s.clearPairing ctx else s
      s.setCtx ctx (x.field off value))

/-- The words of a descriptor, as they are measured (R405). -/
def Context.words (x : Context) : List Nat :=
  [(if x.valid then 1 else 0) + (if x.priv then 2 else 0) + x.assist.toNat * 2 ^ 8, x.ptroot.toNat, x.lbase.toNat,
    x.lslots, x.lq.toNat, x.lqk, x.fq.toNat, x.hrq.toNat, x.teamBudget, x.bw, x.depth, x.power, x.trapBase.toNat]

/-- LOCK_INTERFACE (R405): the descriptor is frozen except its budgets, and measured. -/
def execLockInterface (ctx : Nat) (s : State) : Host.Outcome State Fault Refusal :=
  .next (if 16 ≤ ctx || !s.svc.ready then s
    else
      let x := { s.ctx ctx with locked := true }
      { s.setCtx ctx x with svc := { s.svc with measured := tput s.svc.measured ctx x.words } })

/-- RUN (R405): enables VALID of a locked context. -/
def execRun (ctx : Nat) (s : State) : Host.Outcome State Fault Refusal :=
  .next (let x := s.ctx ctx
    if 16 ≤ ctx || !s.svc.ready || !x.locked || x.valid then s
    else (s.clearPairing ctx).setCtx ctx x.start)

/-! ## Other configuration (R330, R372, R384, R387) -/

/-- BUCKET_TABLE_WRITE (R330): in host-assisted mode only; a disabled slice is ignored. -/
def execBucketTableWrite (die bucket : Nat) (value : Byte) (s : State) : Host.Outcome State Fault Refusal :=
  .next (let j := (value.extractLsb' 0 4).toNat
    if s.svc.ready && decide (die < 4) && decide (bucket < 4096) && (s.ctx 0).assist.getLsbD 5 && s.sliceOn die j then
      s.moveBucket die bucket j
    else s)

/-- Whether two windows overlap. -/
def Window.meets (a b : Window) : Bool := decide (a.base < b.base + b.count) && decide (b.base < a.base + a.count)

/-- COHERENT_WINDOW_WRITE (R387). -/
def execCoherentWindowWrite (port win off : Nat) (value : DWord) (s : State) : Host.Outcome State Fault Refusal :=
  .next (let p := s.hostPort port
    let w := tget Window.reset p.windows win
    let put (x : Window) : State := s.setHostPort port { p with windows := tset Window.reset p.windows win x }
    if !s.svc.ready || 2 ≤ port || 64 ≤ win || !s.svc.presence.hport.getLsbD port then s
    else
      match off with
      | 0 =>
        let x : Window := { w with base := (value.extractLsb' 21 27).toNat, enabled := value.getLsbD 0 }
        if x.enabled && p.windows.any (fun e => e.1 != win && e.2.enabled && e.2.meets x) then
          put { w with enabled := false }
        else put x
      | 8 => put { w with count := (value.extractLsb' 0 16).toNat }
      | _ => s)

/-- Whether a kick command may act on a region: HBM, second tier, or the port's host memory. -/
def State.kickable (s : State) (port r : Nat) : Bool :=
  let pa := r * 0x200000
  s.backed pa 0x200000 && (!isHostPa pa || decide ((pa - 0x800000000000) / 0x400000000000 = port))

/-- A write to a kick register (R384). -/
def State.kickWrite (s : State) (port off : Nat) (v : DWord) : State :=
  let p := s.hostPort port
  let put (x : HostPort) : State := s.setHostPort port x
  if off = 0x10 then
    put { p with drop := p.drop && !v.getLsbD 30, err := p.err - (p.err &&& (v.extractLsb' 28 2).toNat) }
  else if p.busy then (if off = 0 ∨ off = 8 ∨ off = 0xC then put { p with drop := true } else s)
  else
    match off with
    | 0x00 => put { p with kbase := (v.extractLsb' 21 27).toNat }
    | 0x08 => put { p with ksize := (v.extractLsb' 0 13).toNat }
    | 0x0C =>
      let c := (v.extractLsb' 0 4).toNat
      if !(c == 1 || c == 2) || p.ksize = 0 || 4096 < p.ksize then put { p with err := 1 }
      else if !(List.range p.ksize).all (fun i => s.kickable port (p.kbase + i)) then put { p with err := 2, doneCount := 0 }
      else put { p with cmd := c, busy := true, doneCount := 0 }
    | _ => s

/-- CONFIG_WRITE: the kick registers of port `off / 0x10000`, if it is present (R4, R384), and from 0x1000000 on, through the service port,
STEPCTL of the team with that number (R372, log entry 18). Every other register has a row of its own or is read-only. -/
def execConfigWrite (off : Nat) (value : DWord) (service : Bool) (s : State) : Host.Outcome State Fault Refusal :=
  .next (if !s.svc.ready && !service then s
    else if off < 0x20000 then
      (if s.svc.presence.hport.getLsbD (off / 0x10000) then s.kickWrite (off / 0x10000) (off % 0x10000) value else s)
    else if service && decide (0x1000000 ≤ off) then
      s.modTeam (off - 0x1000000) (fun t =>
        if (value.extractLsb' 0 10).toNat < t.size then { t with stepctl := value.setWidth 32 &&& 0xC00003FF } else t)
    else s)

/-! ## The diagnostic port (R337) -/

/-- The number of a directory state. -/
def DirState.num : DirState → Nat
  | .di => 0
  | .ds => 1
  | .dx => 2
  | .do_ => 3
  | .dh => 4

/-- Bits [71:0] of an entry. -/
def DirEntry.body (e : DirEntry) : BitVec 72 :=
  let sharers := if e.crs then e.coarse.toNat
    else ((e.ptrs.take 4).zipIdx.map (fun p => p.1.toNat * 2 ^ (9 * p.2))).sum
  BitVec.ofNat 72 (e.stamp.toNat * 2 ^ 3 + sharers * 2 ^ 19 + e.owner.toNat * 2 ^ 55 +
    (if e.crs then 0 else min 4 e.ptrs.length) * 2 ^ 64 + (if e.w then 2 ^ 67 else 0) + (if e.crs then 2 ^ 68 else 0) +
    e.st.num * 2 ^ 69)

/-- An entry as the port reads it: a line without one reads as zero. -/
def DirEntry.read (e : DirEntry) : BitVec 80 := if e = DirEntry.empty then 0 else Config.entryEcc e.body ++ e.body

/-- DIRECTORY_DIAGNOSTIC_READ (R337): between requests. -/
def execDirectoryDiagnosticRead (pa : Nat) (s : State) : Host.Outcome State Fault Refusal :=
  .next (if s.locked (lineOf pa) then s
    else { s with svc := { s.svc with lastEntry := some (s.dirEntry (lineOf pa)).read } })

/-! ## Scrubbing and clocks (R375, R402, R410) -/

/-- PATROL_SCRUB (R375). -/
def execPatrolScrub (pa : Nat) (found : ScrubFound) (s : State) : Host.Outcome State Fault Refusal :=
  .next (if 0xC000000000 ≤ pa || !s.backed (pa / 8 * 8) 8 then s
    else
      match found with
      | .clean => s
      | .correctable => { s with svc := { s.svc with corrected := s.svc.corrected + 1 } }
      | .uncorrectable => s.addPoison [granuleOf pa])

/-- Whether a core runs a workgroup of a context that is over its power budget (R402). -/
def State.overPower (s : State) (core : Nat) : Bool :=
  s.wgs.any (fun w => w.core == core && w.holdsCore &&
    (let x := s.ctx w.ctx
     x.power != 0 && decide (x.power ≤ Config.activity s.fresh w.ctx)))

/-- Whether another core's clock is to be lowered before this one's (R402): on this die no junction is too hot, and a core that runs a
context over its power budget still can be slowed. -/
def State.spared (s : State) (core : Nat) : Bool :=
  (List.range 192).any (fun c => s.coreOn c && s.overPower c && decide (8 < (s.core c).clock)) && !s.overPower core &&
    !Config.overheated s.fresh (dieOf core)

/-- CLOCK_THROTTLE (R402, R410): one step of 100 MHz, between 0.8 and 3.3 GHz. -/
def execClockThrottle (core : Nat) (up : Bool) (s : State) : Host.Outcome State Fault Refusal :=
  .next (if !s.coreOn core || (!up && s.spared core) then s
    else
      let c := s.core core
      s.setCore core { c with clock := if up then min 33 (c.clock + 1) else max 8 (c.clock - 1) })

/-! ## Shutdown and bring-up (R404, R409, R410, R412) -/

/-- What has been issued is finished (R452): atomics, arrivals, stores, copies, dirty bytes. -/
def State.settleIssued (s : State) : State :=
  let rmw (l : Load) : Bool :=
    match l.kind with
    | .atomic _ _ _ _ => l.value.isNone && !l.space.remote
    | .bound _ _ _ _ _ => l.value.isNone && !l.space.remote
    | _ => false
  let s := (s.loads.filter rmw).foldl (fun s l => (s.performLoad l).1) s
  let s := s.loads.foldl (fun s l =>
    match l.kind, l.space.remote with
    | .arrive m, false => (s.arriveAt l.loc m none).1
    | _, _ => s) s
  let s := s.coh.txns.foldl (fun s t => s.perform t.cells 0 none []) s
  let s := s.coh.reqs.foldl (fun s r => s.perform r.cells 0 none []) s
  let s := (s.path.filter (fun e => !e.space.remote)).foldl (fun s e => s.performEntry e [e.core]) s
  let s := (s.xfers.filter (fun x => !x.done && x.dstVa.isNone && x.srcVa.isNone && !x.farSource && !x.farDest)).foldl
    (fun s x => s.putXfer x) s
  s.mergeCopies (s.managedIn (fun _ => true))

/-- The device in reset: memory keeps its bytes, the fused state and the firmware banks stay (log entry 19). -/
def State.enterReset (s : State) : State :=
  { State.reset with
    mem := s.mem.filter (fun c => locKind c.1 == 0)
    poison := s.poison.filter (fun g => locKind (8 * g) == 0)
    tierSize := s.tierSize
    hostSize := s.hostSize
    svc := { s.svc with ready := false, spdm := [], lastEntry := none, measured := [] }
    cycle := s.cycle
    agenda := s.agenda
    fresh := s.fresh
    nextUid := s.nextUid
    nextSeq := s.nextSeq }

/-- Every workgroup ends, each launch completes with status 3, and the device enters reset (R410). -/
def State.shutdown (s : State) : State :=
  let s := s.settleIssued
  (s.launches.foldl (fun s l => s.completeLaunch l 3) s).enterReset

/-- THERMAL_SHUTDOWN (R410): 115 °C on a die. -/
def execThermalShutdown (die : Nat) (s : State) : Host.Outcome State Fault Refusal :=
  .next (if die < 4 then s.shutdown else s)

/-- Whether a firmware bank verifies: both signatures, and its security version (R404). -/
def ServiceCtl.bankOk (v : ServiceCtl) (k : Nat) : Bool :=
  v.banksGood.getD k false && decide (v.minVersion.toNat ≤ (v.bankVersion.getD k 0).toNat)

/-- The fabric after bring-up: the device's number and how many there are, from firmware (R414). -/
def Fabric.brought (f : Fabric) : Fabric :=
  let n := if 8 ≤ Config.fabricSize ∧ Config.fabricSize ≤ 16 then Config.fabricSize else 1
  { f with ndev := n, dev := Config.fabricNumber % n }

/-- What is measured at boot beside the descriptors (R405): the ROM, the firmware of each bank that verifies, and the fused state. It
stands under number 16, behind the contexts' numbers. -/
def ServiceCtl.bootWords (v : ServiceCtl) : List Nat :=
  Config.romDigest :: (List.range 2).map (fun k => if v.bankOk k then (v.bankVersion.getD k 0).toNat + 1 else 0) ++
    [v.minVersion.toNat, v.fused.part, v.fused.core.toNat, v.fused.slice.toNat, v.fused.hbmch.toNat,
      v.fused.fport.toNat, v.fused.hport.toNat, v.fused.chiplet.toNat, v.fused.tier.toNat]

/-- Bits [63:0] of the unit-presence block at a configuration offset (R406). -/
def Presence.word (p : Presence) (off : Nat) : Nat :=
  if off = 0x1000 then p.part
  else if 0x1008 ≤ off ∧ off < 0x1020 then p.core.toNat / 2 ^ (8 * (off - 0x1008)) % 2 ^ 64
  else if off = 0x1020 then p.slice.toNat
  else if 0x1028 ≤ off ∧ off < 0x1048 then p.hbmch.toNat / 2 ^ (8 * (off - 0x1028)) % 2 ^ 64
  else if off = 0x1048 then p.fport.toNat
  else if off = 0x1050 then p.hport.toNat + 4 * p.chiplet.toNat + 16 * p.tier.toNat
  else if 0x1100 ≤ off ∧ off < 0x1320 ∧ off % 4 = 0 then (tget (0xFFFFFFFF : Word) p.wave ((off - 0x1100) / 4)).toNat
  else 0

/-- DEVICE_RESET (R404–R406, R412): firmware from the current bank, else from the other, else the device stays in reset. It writes
the unit-presence block and measures. -/
def execDeviceReset (s : State) : Host.Outcome State Fault Refusal :=
  .next (let v := s.svc
    let other := 1 - v.bank
    if v.ready || v.stuckInReset then s
    else if !v.bankOk v.bank && !v.bankOk other then
      { s with svc := { v with firmwareFailed := true, stuckInReset := true } }
    else
      { s with
        dies := s.dies.map (fun (e : Nat × Die) => (e.1, { e.2 with buckets := [] }))
        ctxs := []
        handover := []
        ticks := 0
        fab := s.fab.brought
        svc := { v with
          ready := true
          bank := if v.bankOk v.bank then v.bank else other
          presence := v.fused
          measured := (List.range 16).map (fun c => (c, Context.reset.words)) ++ [(16, v.bootWords)]
          firmwareFailed := v.firmwareFailed || !v.bankOk v.bank } })

/-! ## Photonic tuning (R409) -/

/-- HEATER_STEP (R409): firmware moves a code by at most one; which way holds the monitor at its peak is free. -/
def execHeaterStep (ring : Nat) (s : State) : Host.Outcome State Fault Refusal :=
  .next (if (s.ctx 0).assist.getLsbD 6 then s
    else
      let c := (tget 0 s.svc.heater ring).toNat
      let c' := min 4095 (c + Config.pick s.fresh % 3 - 1)
      { s.draw with svc := { s.svc with heater := tset 0 s.svc.heater ring (BitVec.ofNat 12 c') } })

/-- HEATER_CODE_WRITE (R409): in host-assisted tuning. -/
def execHeaterCodeWrite (ring : Nat) (code : BitVec 12) (s : State) : Host.Outcome State Fault Refusal :=
  .next (if (s.ctx 0).assist.getLsbD 6 then { s with svc := { s.svc with heater := tset 0 s.svc.heater ring code } } else s)

/-- WAVE of a channel. -/
def State.wave (s : State) (h : Nat) : Word := tget 0xFFFFFFFF s.svc.presence.wave h

/-- Whether the receiver of a channel is present (R4, R6): a slice, or a cluster with a core. -/
def State.channelOn (s : State) (h : Nat) : Bool :=
  if h < 64 then s.svc.presence.slice.getLsbD h
  else (List.range 8).any (fun i => s.svc.presence.core.getLsbD (8 * ((h - 64) / 3) + i))

/-- RING_OUT_OF_LOCK (R409): the wavelength stops; a channel with none is reported, and a pair of slice home channels
with none shuts the device down. -/
def execRingOutOfLock (channel wavelength : Nat) (s : State) : Host.Outcome State Fault Refusal :=
  .next (if 136 ≤ channel || 32 ≤ wavelength || !s.channelOn channel then s
    else
      let w := s.wave channel &&& ~~~ ((1 : Word) <<< wavelength)
      let lost := decide (w = 0) && decide (s.wave channel ≠ 0)
      let s := { s with svc := { s.svc with
        presence := { s.svc.presence with wave := tset 0xFFFFFFFF s.svc.presence.wave channel w }
        events := if lost then s.svc.events ++ [0x409] else s.svc.events } }
      if lost && decide (channel < 64) && decide (s.wave (channel ^^^ 1) = 0) then s.shutdown else s)

/-! ## Security requests (R405) -/

/-- A request of the responder's list on the selected port: answered, with a body that the spec leaves to its standard. -/
def State.answerSpdm (s : State) (request : Nat) (body : Word) : State :=
  if s.hostUp s.sel then
    let a : SpdmAnswer := ⟨s.sel, request, body⟩
    { s.draw with svc := { s.svc with spdm := s.svc.spdm ++ [a] } }
  else s

/-- GET_VERSION (R405). -/
def execGetVersion (s : State) : Host.Outcome State Fault Refusal := .next (s.answerSpdm 0 (Config.freeWord s.fresh))

/-- GET_CAPABILITIES (R405). -/
def execGetCapabilities (s : State) : Host.Outcome State Fault Refusal := .next (s.answerSpdm 1 (Config.freeWord s.fresh))

/-- NEGOTIATE_ALGORITHMS (R405). -/
def execNegotiateAlgorithms (s : State) : Host.Outcome State Fault Refusal := .next (s.answerSpdm 2 (Config.freeWord s.fresh))

/-- GET_DIGESTS (R405). -/
def execGetDigests (s : State) : Host.Outcome State Fault Refusal := .next (s.answerSpdm 3 (Config.freeWord s.fresh))

/-- GET_CERTIFICATE (R405). -/
def execGetCertificate (s : State) : Host.Outcome State Fault Refusal := .next (s.answerSpdm 4 (Config.freeWord s.fresh))

/-- CHALLENGE (R405). -/
def execChallenge (s : State) : Host.Outcome State Fault Refusal := .next (s.answerSpdm 5 (Config.freeWord s.fresh))

/-- GET_MEASUREMENTS (R405): of the ROM, the firmware, the fused state and each context descriptor. -/
def execGetMeasurements (s : State) : Host.Outcome State Fault Refusal :=
  .next (s.answerSpdm 6 (Config.measurementAnswer s.svc.measured))

/-- KEY_EXCHANGE (R405). -/
def execKeyExchange (s : State) : Host.Outcome State Fault Refusal := .next (s.answerSpdm 7 (Config.freeWord s.fresh))

/-- FINISH (R405). -/
def execFinish (s : State) : Host.Outcome State Fault Refusal := .next (s.answerSpdm 8 (Config.freeWord s.fresh))

end Sys2Proof.Machine
end

