-- ==== Sys2Proof/Machine/Depart.lean ====
section
/-! DEFINITION. Requests to other devices that fail (R430), and hank members that depart: what reaches their window
(R169, R444, R445). -/

namespace Sys2Proof.Machine

/-! ## Requests that end without their answer (R430, R445) -/

/-- A request that waits no more. -/
def State.dropTxn (s : State) (x : Transaction) : State :=
  { s with fab := { s.fab with txns := s.fab.txns.filter (fun (y : Transaction) => decide (y ≠ x)) } }

/-- Whether a request's answer is for loads: reads and atomics of lines and of windows. -/
def Transaction.reads (x : Transaction) : Bool := [0x00, 0x03, 0x05, 0x37, 0x39].contains x.op

/-- Whether a load waits for a request's answer: every lane of a line fetch, else its own lane. -/
def Transaction.feeds (x : Transaction) (l : Load) : Bool :=
  x.reads && x.load == some l.seq && l.value.isNone && l.space.remote && lineOf l.loc == x.line &&
    (x.op == 0 || l.lane == x.lane)

/-- A team that stays at an instruction for a request learns that it failed, for the lanes concerned, which have not completed
(R141). -/
def State.failWaits (s : State) (x : Transaction) (t : Trap) : State :=
  let ls := s.loads.filter x.feeds
  let s := { s with loads := s.loads.filter (fun (l : Load) => !x.feeds l) }
  s.mapTeams (fun team =>
    match team.service with
    | none => team
    | some v =>
      if team.live && v.asked.contains (x.tag, 9) then
        let mine := (ls.filter (fun l => l.team == team.uid)).map Load.lane
        let lanes := if mine = [] then (if lanesOf team.size v.lanes = [] then [0] else lanesOf team.size v.lanes) else mine
        { team with service := some { v with
            asked := v.asked.filter (fun a => decide (a ≠ (x.tag, 9)))
            failed := v.failed ++ lanes.map (fun l => (l, t))
            lanes := v.lanes ||| maskOf mine } }
      else team)

/-- A party that waits for a line learns that it does not come. -/
def State.failWant (s : State) (want : Option (Nat × Nat)) (t : Trap) : State :=
  match want with
  | some (0, team) => s.modTeam team (fun x => x.keepTrap t)
  | some (1, prog) => s.endProg prog t.code
  | some (3, seq) =>
    match s.opOf seq with
    | some (q, o) => s.failPair q o t
    | none => s
  | _ => s

/-- Transfers that end with no further write: lines that none of them holds any more are released (R207, R209). -/
def State.dropXfers (s : State) (which : Xfer → Bool) : State :=
  let cores := ((s.xfers.filter which).map Xfer.core).eraseDups
  let s := { s with xfers := s.xfers.map (fun (x : Xfer) =>
    if which x then { x with done := true, dropped := true, asked := [], tags := [] } else x) }
  cores.foldl State.releaseIdle s

/-- The issuer of a write learns that it was lost: its copy is in error, or the trap waits for its next clause boundary;
with the issuer gone the service controller is told (R430). -/
def State.failWrite (s : State) (w : Tag) (t : Trap) : State :=
  let mine (x : Xfer) : Bool := x.issuer == w.team && x.seq == w.seq
  if s.xfers.any mine then s.dropXfers mine
  else if (s.team? w.team).any (fun x => !x.ending) then s.modTeam w.team (fun x => x.keepTrap t)
  else if (s.prog? w.team).any (fun p => !p.ended) then s.endProg w.team t.code
  else { s with svc := { s.svc with events := s.svc.events ++ [0x430] } }

/-- A transfer whose write into a member's window was refused or lost is dropped: its batch completes in error (R207). -/
def State.dropSent (s : State) (tag : Nat) : State := s.dropXfers (fun y => y.tags.contains tag)

/-- The batch arrival that a request carries (R217): its team. -/
def Transaction.batchTeam (x : Transaction) : Option Nat :=
  if x.op = 0x3C ∧ x.resend.misc % 2 ^ 16 = 5 then x.load else none

/-- Teams that wait for a request go on. -/
def State.goOn (s : State) (tag : Nat) : State :=
  s.mapTeams (fun t => { t with service := t.service.map (fun v => { v with asked := v.asked.filter (fun a => decide (a ≠ (tag, 9))) }) })

/-- A request ends with a trap for what waited for it (R430, R445); a poisoned source of a copy is replayed once (R211). A check that no
device answers bars nothing: the write that follows meets what it met. -/
def State.failTxn (s : State) (x : Transaction) (t : Trap) : State :=
  if x.checks && t ≠ tBARCLOB then (s.dropTxn x).goOn x.tag
  else
  let s := (s.dropTxn x).failWant x.want t
  let orphan := x.reads && x.load.isSome && !s.loads.any x.feeds
  let s := s.failWaits x t
  let sent := s.xfers.any (fun y => decide (x.write ≠ []) && y.tags.contains x.tag)
  let s := if sent then s.dropSent x.tag else x.write.foldl (fun s w => s.failWrite w t) s
  let s := match x.batchTeam with
    | some team => s.batchErr team ((s.team? team).map Team.wg |>.getD 0) t
    | none => s
  let hit := s.xfers.filter (fun y => y.tags.contains x.tag)
  let s := hit.foldl (fun s y => if x.reads && t == tMCHK 1 then s.copyPoison y else s.failCopy y.core y.seq) s
  { s with
    batches := s.batches.map (fun (b : Batch) => if b.genTag = some x.tag then { b with genTag := none } else b)
    svc := if orphan then { s.svc with events := s.svc.events ++ [0x430] } else s.svc }

/-! ## Departure (R444, R445) -/

/-- Whether a workgroup is a member of a hank that marks member `m` present. -/
def Wg.sees (w : Wg) (key hank m : Nat) : Bool :=
  w.hank.any (fun h => h.key == key && h.hank == hank && decide (m < h.size) && h.member != m && !h.departed.contains m)

/-- The workgroup on this device that is a hank's member. -/
def Wg.localMember (w : Wg) (m : Nat) : Option Nat := w.hank.bind (fun h => h.wgs.getD m none)

/-- A place in the scratchpad of a member on this device, seen as in the window of a departed member. -/
def departedPlace (w u m : Nat) (p : Space × Nat) : Space × Nat :=
  if p.1 = .store ∧ locKind p.2 = 1 ∧ locId p.2 = u then (.member m, locMember w m (locOff p.2)) else p

/-- What a team of a surviving member has in a departed member's window: its bindings keep their values, a wait on a word
there executes again and meets HANKGONE, an attach answers that the member is gone (R169, R439, R445). -/
def Team.departure (w m : Nat) (there : Option Nat) (t : Team) : Team :=
  let place (p : Space × Nat) : Space × Nat := match there with
    | some u => departedPlace w u m p
    | none => p
  { t with
    bindings := t.bindings.map (fun e =>
      let p := place (e.2.space, e.2.loc)
      (e.1, { e.2 with
        space := p.1
        loc := p.2
        pend := e.2.pend || decide (p.1 = .member m) }))
    park := match t.park with
      | .await tok loc none => if (place (.store, loc)).1 = .member m then .running else .await tok loc none
      | .attach k none => if k = m then .attach k (some true) else .attach k none
      | .detach k false => .detach k (decide (k = m))
      | x => x }

/-- A workgroup marks a member departed. -/
def State.markDeparted (s : State) (u m : Nat) : State :=
  s.modWg u (fun w => { w with hank := w.hank.map (fun h => { h with
    departed := h.departed ++ [m]
    attachFrom := h.attachFrom.set m 0 }) })

/-- Whether a request is for a member's window. -/
def Transaction.toMember (x : Transaction) (u m : Nat) : Bool :=
  decide (0x30 ≤ x.op) && locKind (x.line * 128) == 7 && locId (x.line * 128) == u && memberOf (x.line * 128) == m

/-- The accesses of a member's workgroup to a departed member that stands on this device, and that are not answered:
reads were satisfied before, writes on their way are dropped in HANKGONE (R445). -/
def State.cutLocal (s : State) (w : Wg) (u m : Nat) : State :=
  let mine (team : Nat) : Bool := (s.team? team).any (fun t => t.wg == w.uid)
  let there (loc : Nat) : Bool := locKind loc == 1 && locId loc == u
  let s := (s.loads.filter (fun l => mine l.team && there l.loc)).foldl (fun s l =>
    let r := s.performLoad l
    { r.1 with loads := r.1.loads.map (fun x => if x = l then r.2 else x) }) s
  let s := s.dropXfers (fun x => x.wg == w.uid && !x.done && (there x.dst || there x.src))
  { s with
    path := s.path.map (fun (e : StoreEntry) => if mine e.tag.team then
      let p := departedPlace w.uid u m (e.space, e.loc)
      { e with space := p.1, loc := p.2 } else e)
    batches := s.batches.map (fun (b : Batch) => if b.wg == w.uid then
      let p := departedPlace w.uid u m (b.space, b.loc)
      { b with space := p.1, loc := p.2 } else b) }

/-- A surviving workgroup learns that a member has departed (R444, R445). -/
def State.departFor (s : State) (m : Nat) (w : Wg) : State :=
  let there := w.localMember m
  let s := match there with
    | some u => s.cutLocal w u m
    | none => s
  let s := s.markDeparted w.uid m
  let s := s.mapTeams (fun t => if t.live && t.wg == w.uid then t.departure w.uid m there else t)
  let s := s.dropXfers (fun x =>
    x.wg == w.uid && !x.done && (decide (x.dstSpace = Space.member m) || decide (x.srcSpace = Space.member m)))
  (s.fab.txns.filter (fun (x : Transaction) => x.toMember w.uid m)).foldl (fun s x => s.failTxn x (tHANKGONE m)) s

/-- A member departs, for every member of its hank on this device. -/
def State.departMember (s : State) (key hank m : Nat) : State :=
  (s.wgs.filter (fun w => w.sees key hank m)).foldl (fun s w => s.departFor m w) s

/-- The members of hanks known here that stand on a device: key, hank, member. -/
def State.membersOn (s : State) (dev : Nat) : List (Nat × Nat × Nat) :=
  (s.wgs.flatMap (fun w =>
    match w.hank with
    | none => []
    | some h => ((List.range h.size).filter (fun m => h.devices.getD m 0 == dev)).map (fun m => (h.key, h.hank, m)))).eraseDups

/-- The origin's record of a hank that is committed: its members that have not ended. -/
def Attempt.left (a : Attempt) : List Nat := (List.range a.answers.length).filter (fun m => (a.answers.getD m none).isNone)

/-- A member of a committed hank has ended, at the origin (R398, R446): counted once; status 1, 2, 3 and 9 stop the
launch. -/
def State.memberEnded (s : State) (launch hank m status trap : Nat) : State :=
  match s.fab.attempts.find? (fun a => a.launch == launch && a.hank == hank && !a.active && a.left.contains m) with
  | none => s
  | some a =>
    let b := { a with answers := a.answers.set m (some status) }
    let as := s.fab.attempts.map (fun x => if x = a then b else x)
    let s := { s with fab := { s.fab with attempts := if b.left = [] then as.filter (fun x => decide (x ≠ b)) else as } }
    s.modLaunch launch (fun l => { l with
      ended := l.ended + 1
      stopped := l.stopped || decide (status ≠ 0)
      status := if l.status = 0 then status else l.status
      trap := if l.status = 0 then trap else l.trap })

/-- The members on a device that the origin still counts. -/
def State.leftOn (s : State) (dev : Nat) : List (Nat × Nat × Nat) :=
  s.fab.attempts.flatMap (fun a =>
    match s.launch? a.launch with
    | none => []
    | some l => if a.active then [] else
        (a.left.filter (fun m => l.deviceOf m == dev)).map (fun m => (l.id, a.hank, m)))

/-- A device that cannot be reached: its members depart, and count as ended with status 3 (R398, R422, R444). -/
def State.lostPeer (s : State) (dev : Nat) : State :=
  let s := (s.membersOn dev).foldl (fun s x => s.departMember x.1 x.2.1 x.2.2) s
  (s.leftOn dev).foldl (fun s x => s.memberEnded x.1 x.2.1 x.2.2 3 0) s

end Sys2Proof.Machine
end

