-- ==== Sys2Proof/Machine/Links.lean ====
section
/-! DEFINITION. Fabric links (R413–R423, R428, R430): flits and their order, credits, what a port delivers, groups of ports
and their changes, relays, and requests that are sent again or given up. -/

namespace Sys2Proof

/-! ## Flit headers (R416) -/

/-- A field of a flit header. -/
def Flit.field (f : Flit) (lo len : Nat) : Nat := (f.hdr.extractLsb' lo len).toNat
/-- TYPE. -/
def Flit.type (f : Flit) : Nat := f.field 60 4
/-- SEQ. -/
def Flit.seq (f : Flit) : Nat := f.field 48 12
/-- ACK. -/
def Flit.ack (f : Flit) : Nat := f.field 36 12
/-- RETQ, RETS, RETI. -/
def Flit.rets (f : Flit) : List Nat := [f.field 24 12, f.field 12 12, f.field 0 12]

end Sys2Proof

namespace Sys2Proof.Machine

/-! ## Groups and their changes (R414, R422, R428) -/

/-- The line address that selects a packet's port; packets of the hank protocol have none. -/
def Packet.lineAddr (k : Packet) : Option Nat := if 0x30 ≤ k.op then none else some k.pa

/-- A packet that this device relays leaves on its group to the destination, DET kept. -/
def State.forwardTo (s : State) (k : Packet) : State :=
  match portFor (s.group k.dst) (Packet.lineAddr k) with
  | some n => s.setPort n ((s.port n).offer k)
  | none => s

/-- Packets sent again under the selection of now: its own, and those it relays. -/
def State.sendAgain (s : State) (ks : List Packet) : State :=
  ks.foldl (fun s k => if k.src = s.fab.dev then s.sendTo k.dst (Packet.lineAddr k) k else s.forwardTo k) s

/-- A change of a group (R428): a fence on every port that it has afterwards, then the failed port's unacknowledged
packets and what was not sent yet, under the new selection. -/
def State.regroup (s : State) (peer : Nat) (gone : Option Nat) (change : State → State) : State :=
  let before := s.group peer
  let held := match gone with
    | some n => (s.port n).unacked.flatMap (fun u => u.2)
    | none => []
  let queued := before.flatMap (fun n => (s.port n).tx)
  let s := before.foldl (fun s n => s.setPort n { s.port n with tx := [] }) s
  let s := change s
  let s := (s.group peer).foldl (fun s n => s.setPort n (s.port n).mark) s
  s.sendAgain (held ++ queued)

/-! ## What a port delivers (R418–R423, R429) -/

/-- Whether an operation code belongs to a class (R420). -/
def opInClass (op cls : Nat) : Bool :=
  (decide (0x30 ≤ op) && decide (op ≤ 0x3C)) || (cls == 0 && decide (op ≤ 0x09)) ||
    (cls == 1 && decide (0x10 ≤ op) && decide (op ≤ 0x14)) || (cls == 2 && decide (0x20 ≤ op) && decide (op ≤ 0x22))

/-- Whether a packet's context matters: not for invalidations, their answers, and reserves, whose answer says so itself
(R434, log entry 14). -/
def Packet.ctxMatters (k : Packet) : Bool := !(k.cls == 2 || k.op == 0x30 || (k.op == 0x12 && decide (2 ^ 35 ≤ k.misc)))

/-- Whether a packet passes the checks of its header (R419, R420, R429). -/
def State.packetOk (s : State) (k : Packet) : Bool :=
  k.headerOk && decide (k.cls < 3) && opInClass k.op k.cls && decide (lenBytes (k.field 96 3) = some k.payload.length) &&
    (!Packet.ctxMatters k || (s.ctx k.ctx).valid)

/-- Free relay buffers of a class for an input port (R423). -/
def State.relayRoom (s : State) (n cls : Nat) : Nat := 32 - (s.fab.relay.filter (fun r => r.1 == n && r.2.cls == cls)).length

/-- A packet leaves a port's buffer: counted as a return, dropped as a header error, delivered here, or passed to the
relay's buffers; none where those are full. -/
def State.takePacket (s : State) (n : Nat) (k : Packet) : Option State :=
  let p := s.port n
  let s' := s.setPort n { p with returned := p.returned.set k.cls ((p.returned.getD k.cls 0 + 1) % 4096) }
  let bad : State := { s' with fab := { s'.fab with headerErrors := s'.fab.headerErrors + 1 } }
  if !s.packetOk k then some bad
  else if k.dst = s.fab.dev then some { s' with fab := { s'.fab with rx := s'.fab.rx ++ [k] } }
  else if !k.det then some bad
  else if s.relayRoom n k.cls < (if s.group k.dst = [] then 2 else 1) then none
  else some { s' with fab := { s'.fab with relay := s'.fab.relay ++ [(n, k)] } }

/-- Delivers packets of a port in order per class; what is left waits for a relay buffer. -/
def State.deliverAll (n : Nat) : List Packet → List Nat → State → State × List Packet
  | [], _, s => (s, [])
  | k :: ks, blocked, s =>
    if blocked.contains k.cls then
      let r := State.deliverAll n ks blocked s
      (r.1, k :: r.2)
    else
      match s.takePacket n k with
      | some s => State.deliverAll n ks blocked s
      | none =>
        let r := State.deliverAll n ks (k.cls :: blocked) s
        (r.1, k :: r.2)

/-- A port delivers what it holds, unless a fence has come in. -/
def State.drainPort (s : State) (n : Nat) : State :=
  if (s.port n).fenced || (s.port n).held = [] then s
  else
    let r := State.deliverAll n (s.port n).held [] s
    r.1.setPort n { r.1.port n with held := r.2 }

/-- Once every port of a group has its fence, all of them deliver again (R428). -/
def State.openFences (s : State) (peer : Nat) : State :=
  let g := s.group peer
  if g.all (fun n => (s.port n).fenced) then
    let s := g.foldl (fun s n => s.setPort n { s.port n with fenced := false }) s
    g.foldl State.drainPort s
  else s

/-! ## Links that fail and come back (R417, R428) -/

/-- A link is down: the port leaves its group; a peer that no path reaches any more is lost (R417, R422, R428). -/
def State.linkLost (s : State) (n : Nat) : State :=
  let p := s.port n
  if !p.up then s
  else
    let down (s : State) : State := s.setPort n { s.port n with up := false, inGroup := false, unacked := [], tx := [], fenced := false }
    match p.peer with
    | none => down s
    | some d =>
      let s := ((s.regroup d (some n) down).openFences d).drainPort n
      if s.group d = [] && (s.relayFor d).isNone then s.draw.lostPeer d else s

/-- LINK_DOWN (R417): 16 retries without progress, or the optics lose lock. -/
def execLinkDown (port : Nat) (s : State) : Host.Outcome State Fault Refusal := .next (s.linkLost port)

/-- The far ends of the enabled ports, ascending (R414): each peer gets ⌊P / (N − 1)⌋ of them, which ones is free, and so is where a
spare leads (log entry 14). -/
def cabled (choose : Nat → Nat) (dev n : Nat) (ports : List Nat) : List (Nat × Option Nat) :=
  let each := ports.length / (n - 1)
  let spares := ports.length - each * (n - 1)
  ports.foldl (fun l p =>
    let room := ((List.range n).filter (fun d => decide (d ≠ dev) && decide ((l.filter (fun x => x.2 == some d)).length < each))).map some
    let ends := room ++ (if (l.filter (fun x => x.2.isNone)).length < spares then [none] else [])
    l ++ [(p, (ends[choose p % ends.length]?).getD none)]) []

/-- The device at the far end of a port; this one where a spare leads nowhere. -/
def State.farEnd (s : State) (port : Nat) : Nat :=
  let ports := (List.range 36).filter (fun n => s.svc.presence.fport.getLsbD n)
  match (alook (cabled Config.cabling s.fab.dev s.fab.ndev ports) port).getD none with
  | some d => d
  | none => Config.cabling (36 + port) % s.fab.ndev

/-- PORT_UP (R414, R428): training, or a port that comes back; a spare cabled to a peer joins its group. -/
def execPortUp (port : Nat) (s : State) : Host.Outcome State Fault Refusal :=
  .next (let p := s.port port
    let far := s.farEnd port
    if 36 ≤ port || !s.svc.presence.fport.getLsbD port || p.up then s
    else if far = s.fab.dev then s.setPort port { Port.reset with up := true, held := p.held }
    else s.regroup far none (fun s => s.setPort port { Port.reset with up := true, inGroup := true, peer := some far, held := p.held }))

/-! ## Flits received (R416–R418, R428) -/

/-- A flit that is discarded, or a request to send again: the sixteenth without progress takes the link down (R417). -/
def State.noteRetry (s : State) (n : Nat) : State :=
  let p := s.port n
  let s := s.setPort n { p with retries := p.retries + 1 }
  if 16 ≤ p.retries + 1 then s.linkLost n else s

/-- The fields of a good header: what is acknowledged is kept no longer, the counts of returns are adopted (R416–R418). -/
def Port.takeHeader (p : Port) (f : Flit) : Port :=
  let kept := p.unacked.filter (fun u => decide (2048 ≤ (f.ack + 4096 - u.1) % 4096))
  { p with
    unacked := kept
    ackSeq := f.ack
    ret := f.rets
    retries := if kept.length < p.unacked.length then 0 else p.retries }

/-- A flit that advances the sequence has been received in order. -/
def Port.advance (p : Port) : Port := { p with rxSeq := (p.rxSeq + 1) % 4096, retries := 0 }

/-- Sends what a port may send now. -/
def State.pumpPort (s : State) (n : Nat) : State := s.setPort n ((s.port n).pump (s.port n).tx.length)

/-- A flit of a type is received: discarded with every field when its CRC fails, its TYPE is another or it is out of
sequence, else its header is taken and the rest follows. -/
def State.receive (s : State) (n : Nat) (f : Flit) (type : Nat) (go : State → State) : State :=
  let p := s.port n
  if !p.up then s
  else if !f.crcOk || f.type ≠ type || f.seq ≠ p.rxSeq then s.noteRetry n
  else (go (s.setPort n (p.takeHeader f))).pumpPort n

/-- FLIT_DATA (R416). -/
def execFlitData (port : Nat) (flit : Flit) (s : State) : Host.Outcome State Fault Refusal :=
  .next (s.receive port flit 0 (fun s =>
    (s.setPort port { (s.port port).advance with held := (s.port port).held ++ flit.packets }).drainPort port))

/-- FLIT_IDLE (R416): acknowledgements and returns only. -/
def execFlitIdle (port : Nat) (flit : Flit) (s : State) : Host.Outcome State Fault Refusal :=
  .next (s.receive port flit 1 (fun s => s))

/-- What a resync flit restates (R418): the three counts, the slots, and the next sequence number expected. -/
def Port.restate (p : Port) (xs : List Nat) : Port :=
  match xs.getLast? with
  | none => p
  | some next =>
    { p with
      ret := [xs.getD 0 0, xs.getD 1 0, xs.getD 2 0]
      unacked := p.unacked.filter (fun u => decide (2048 ≤ (next + 4095 - u.1) % 4096)) }

/-- FLIT_RESYNC (R418). -/
def execFlitResync (port : Nat) (flit : Flit) (s : State) : Host.Outcome State Fault Refusal :=
  .next (s.receive port flit 2 (fun s => s.setPort port ((s.port port).advance.restate flit.restate)))

/-- FLIT_RETRY_REQUEST (R417): what is not acknowledged goes out again from the named flit on. -/
def execFlitRetryRequest (port : Nat) (flit : Flit) (s : State) : Host.Outcome State Fault Refusal :=
  .next (s.receive port flit 3 (fun s => s.noteRetry port))

/-- GROUP_FENCE (R428): a resync flit with the fence mark; what stands before it has been delivered. -/
def execGroupFence (port : Nat) (flit : Flit) (s : State) : Host.Outcome State Fault Refusal :=
  .next (let p := s.port port
    if p.up && (p.fenced || decide (p.held ≠ [])) then s
    else s.receive port flit 2 (fun s =>
      let s := s.setPort port { (s.port port).advance.restate flit.restate with fenced := true }
      match p.peer with
      | some d => s.openFences d
      | none => s))

/-! ## Relays, packets sent again, requests given up (R422, R423, R430) -/

/-- DETOUR_RELAY (R423): the selected packet, oldest of its class and destination, leaves on its final hop; its buffer is
free again. -/
def execDetourRelay (s : State) : Host.Outcome State Fault Refusal :=
  .next (match s.fab.relay[s.sel]? with
    | none => s
    | some r =>
      if (s.fab.relay.take s.sel).any (fun q => q.2.cls == r.2.cls && q.2.dst == r.2.dst) || s.group r.2.dst = [] then s
      else
        let s := { s with fab := { s.fab with relay := s.fab.relay.eraseIdx s.sel } }
        (s.forwardTo r.2).drainPort r.1)

/-- The operation of an invalidation-class message (R420). -/
def MsgKind.op : MsgKind → Nat
  | .fwdRead => 0x21
  | .fwdWrite => 0x21
  | .recall => 0x22
  | _ => 0x20

/-- INVALIDATION_RESEND (R430): the selected message to a peer that has not answered within 100 µs. -/
def execInvalidationResend (s : State) : Host.Outcome State Fault Refusal :=
  .next (match s.coh.msgs[s.sel]? with
    | none => s
    | some m => if m.sent && decide (464 ≤ m.agent) then s.sendInv m (MsgKind.op m.kind) else s)

/-- Whether a request waits at its home by its nature: a barrier wait is answered when it passes. -/
def Transaction.patient (x : Transaction) : Bool :=
  x.op == 0x3C && (x.resend.misc % 2 ^ 16 == 3 || x.resend.misc % 2 ^ 16 == 4)

/-- TRANSACTION_TIMEOUT (R430): the selected request has no answer within 200 µs; a member that does not answer is on a
device out of reach (R444). -/
def execTransactionTimeout (s : State) : Host.Outcome State Fault Refusal :=
  .next (match s.fab.txns[s.sel]? with
    | none => s
    | some x =>
      if x.patient then s
      else if 0x30 ≤ x.op then s.lostPeer x.peer
      else s.failTxn x (tPAGE 2))

end Sys2Proof.Machine
end

