-- ==== Sys2Proof/Machine/Peer.lean ====
section
/-! DEFINITION. Packets between devices (R419–R430): requests at the home, answers at the device that asked, invalidations
at a proxy. Packets act on the received one that `sel` names. -/

namespace Sys2Proof.Machine

/-! ## Taking a received packet (R421) -/

/-- Whether an earlier packet must be acted on before a later one: same class and sender, and the same line, or the same
member's window. A barrier wait that waits at its word holds nothing up. -/
def keepsOrder (j k : Packet) : Bool :=
  j.src == k.src && j.cls == k.cls &&
    (if k.op < 0x30 then decide (j.op < 0x30) && j.pa / 128 == k.pa / 128
     else decide (0x30 ≤ j.op) && j.pa / 2 ^ 24 == k.pa / 2 ^ 24 && !(j.op == 0x3C && j.misc % 2 ^ 16 == 3))

/-- Acts on the selected packet when it has an operation: `go` gives the state without it, or nothing while it has to
wait. -/
def State.onPacket (s : State) (op : Nat) (go : Packet → State → Option State) : State :=
  match s.fab.rx[s.sel]? with
  | none => s
  | some k =>
    if k.op ≠ op || (s.fab.rx.take s.sel).any (fun j => keepsOrder j k) then s
    else (go k { s with fab := { s.fab with rx := s.fab.rx.eraseIdx s.sel } }).getD s

/-- An answer to a packet. -/
def State.answer (s : State) (k : Packet) (op misc : Nat) (bs : List Byte) : State :=
  let a := mkPacket k.ctx s.fab.dev k.src 1 op k.tag misc k.pa bs
  if k.src = s.fab.dev then { s with fab := { s.fab with rx := s.fab.rx ++ [a] } } else s.sendTo k.src (Packet.lineAddr k) a

/-- Answers that a request cannot be performed: nothing is backed there. -/
def State.refuse (s : State) (k : Packet) : State := s.answer k 0x14 1 []

/-! ## Requests at the home (R420, R424, R427) -/

/-- Whether a request names memory of this device. -/
def State.homed (s : State) (k : Packet) : Bool := s.backed (k.pa / 128 * 128) 128

/-- A coherent request joins the queue of its home slice. -/
def State.homeAsk (s : State) (k : Packet) (kind : Req) (cells : List Host.Cell) : State :=
  if !s.homed k then s.refuse k
  else { s with coh := { s.coh with reqs := s.coh.reqs ++ [⟨kind, 464 + k.src, lineOf k.pa, cells, [], some k⟩] } }

/-- The bytes of a write: the line under the mask. -/
def Packet.written (k : Packet) (base : Nat) : List Host.Cell :=
  let mask := leNat (k.payload.take 16)
  (cellsFrom base (k.payload.drop 16)).filter (fun c => mask.testBit (c.1 - base))

/-- What an agent gives up or renews joins the queue of its home slice, unless it crosses the request in progress there (R340, R342,
R343). -/
def State.homeGive (s : State) (k : Packet) (kind : Req) (cells : List Host.Cell) : State :=
  if !s.homed k then (if kind == .evict then s else s.refuse k)
  else
    let line := lineOf k.pa
    let s : State := { s with coh := { s.coh with reqs := s.coh.reqs ++ [⟨kind, 464 + k.src, line, cells, [], some k⟩] } }
    match s.coh.txns.find? (fun t => t.line == line) with
    | none => s
    | some t =>
      s.crossed ⟨t.kind, t.agent, t.line, [], [], none⟩
        ((s.coh.msgs.filter (fun m => m.line == line && decide (m.kind ≠ MsgKind.ack) && decide (m.kind ≠ MsgKind.change))).map Msg.agent)

/-- Bytes of a whole line. -/
def Packet.lineCells (k : Packet) : List Host.Cell :=
  if k.payload.length = 144 then Packet.written k (k.pa / 128 * 128) else cellsFrom (k.pa / 128 * 128) k.payload

/-- PKT_READ_SHARED (R420). -/
def execPktReadShared (s : State) : Host.Outcome State Fault Refusal :=
  .next (s.onPacket 0x00 (fun k s => some (s.homeAsk k .getS [])))

/-- PKT_READ_EXCLUSIVE (R420). -/
def execPktReadExclusive (s : State) : Host.Outcome State Fault Refusal :=
  .next (s.onPacket 0x01 (fun k s => some (s.homeAsk k .getM [])))

/-- PKT_UPGRADE (R420). -/
def execPktUpgrade (s : State) : Host.Outcome State Fault Refusal :=
  .next (s.onPacket 0x02 (fun k s => some (s.homeAsk k .upgrade [])))

/-- PKT_WRITE (R427): through the directory, or uncached in a memory-side region. -/
def execPktWrite (s : State) : Host.Outcome State Fault Refusal :=
  .next (s.onPacket 0x04 (fun k s =>
    let cells := Packet.written k (k.pa / 128 * 128)
    if !s.homed k then some (s.refuse k)
    else if s.modeOfPa k.pa = 2 then
      let r := State.noteFar (strongOf k.misc (k.pa / 128 * 128)) s
      some ((r.1.homeWrite cells).answer k 0x13 r.2 [])
    else if s.modeOfPa k.pa = 3 && !s.deviceHolds k.pa then some ((s.writePast cells).answer k 0x13 0 [])
    else some (s.homeAsk k .getM cells)))

/-- An access that the home performs itself: nothing of it while the line is locked or a host holds it. -/
def State.atHome (s : State) (k : Packet) (shared : Bool) (go : State → State) : Option State :=
  let line := lineOf k.pa
  if !s.homed k then some (s.refuse k)
  else if s.locked line || (if shared then s.hostOwned line else s.hostHeld line) then none
  else some (go (s.recallCopies (line * 128) 128))

/-- A line that a host holds is snooped for a packet that waits. -/
def State.snoopFor (s : State) (op : Nat) (shared : Bool) : State :=
  match s.fab.rx[s.sel]? with
  | some k => if k.op = op ∧ s.homed k then s.snoopLine (lineOf k.pa) shared else s
  | none => s

/-- The size that a read's MISC names, and above it the acquire in it (R136, log entry 14). -/
def readSize (k : Packet) : Nat := min 128 (k.misc % 256)

/-- PKT_UNCACHED_READ (R427); what stands in a handover region that the host holds is not fixed (R383). -/
def execPktUncachedRead (s : State) : Host.Outcome State Fault Refusal :=
  .next ((s.snoopFor 0x03 true).onPacket 0x03 (fun k s => s.atHome k true (fun s =>
    if s.poisoned k.pa (readSize k) then s.answer k 0x14 0 []
    else
      let r := State.noteFar (strongOf (k.misc / 256) (k.pa / 128 * 128)) s
      if s.modeOfPa k.pa = 3 && !s.deviceHolds k.pa then
        r.1.draw.answer k 0x10 (65536 * r.2) ((List.range (readSize k)).map (fun i => Config.freeByte (s.fresh * 128 + i)))
      else r.1.answer k 0x10 (65536 * r.2) (cellBytes s.mem k.pa (readSize k)))))

/-- The operand bytes of an atomic's TYPE. -/
def Packet.atomSize (k : Packet) : Nat := if wide (k.misc / 16 % 16) then 8 else 4

/-- An atomic or reduction performed at a place: the state, and the old value, which is not fixed where the host holds a handover
region (R383, log entry 5). -/
def State.homeAtomic (s : State) (k : Packet) (space : Space) (loc : Nat) (put : State → List Host.Cell → State) : State × Nat :=
  let n := Packet.atomSize k
  let old := s.oldValue 0 0 space loc n
  let new := atomicNew (miscAt k.misc) (k.misc / 16 % 16) old (leNat (k.payload.take n)) (leNat ((k.payload.drop n).take n))
  (put s (cellsFrom loc (leBytes n new)), old)

/-- An atomic or reduction of a peer at its home, a strong access (R136, R427), or an error where the bytes are poisoned (R375); the
answer's MISC says whether it has met one of another size (log entry 14). -/
def State.farAtomic (s : State) (k : Packet) (op : Nat) (data : Nat → List Byte) : State :=
  let n := Packet.atomSize k
  if s.poisoned k.pa n then s.answer k 0x14 0 []
  else
    let note := State.noteFar [(k.pa, if k.misc / 8 % 2 = 1 then 31 else n)] s
    let r :=
      if s.modeOfPa k.pa = 3 && !s.deviceHolds k.pa then note.1.homeAtomic k .handover k.pa State.writePast
      else note.1.homeAtomic k .hardware k.pa State.homeWrite
    r.1.answer k op (if op = 0x13 then note.2 else 65536 * note.2) (data r.2)

/-- PKT_ATOMIC (R427). -/
def execPktAtomic (s : State) : Host.Outcome State Fault Refusal :=
  .next ((s.snoopFor 0x05 false).onPacket 0x05 (fun k s => s.atHome k false (fun s =>
    s.farAtomic k 0x10 (fun old => leBytes (Packet.atomSize k) old))))

/-- PKT_REDUCTION (R427). -/
def execPktReduction (s : State) : Host.Outcome State Fault Refusal :=
  .next ((s.snoopFor 0x06 false).onPacket 0x06 (fun k s => s.atHome k false (fun s => s.farAtomic k 0x13 (fun _ => []))))

/-- PKT_RENEWAL (R343, R425): a sharer's lease is to be extended. -/
def execPktRenewal (s : State) : Host.Outcome State Fault Refusal :=
  .next (s.onPacket 0x07 (fun k s => some (s.homeGive k .renew [])))

/-- PKT_CLEAN_EVICTION_NOTICE (R340, R342). -/
def execPktCleanEvictionNotice (s : State) : Host.Outcome State Fault Refusal :=
  .next (s.onPacket 0x08 (fun k s => some (s.homeGive k .evict [])))

/-- PKT_WRITEBACK (R340): the bytes of a dirty line. -/
def execPktWriteback (s : State) : Host.Outcome State Fault Refusal :=
  .next (s.onPacket 0x09 (fun k s => some (s.homeGive k .writeback (Packet.lineCells k))))

/-! ## Answers (R425, R427, R430) -/

/-- The request that a packet answers. -/
def State.answered (s : State) (k : Packet) : Option Transaction :=
  s.fab.txns.find? (fun x => x.tag == k.tag && x.peer == k.src)

/-- Transfers whose source has come hold its bytes. -/
def State.stageTag (s : State) (tag : Nat) (value : Xfer → Nat) : State :=
  { s with xfers := s.xfers.map (fun (x : Xfer) =>
      if x.tags.contains tag then
        { x with staged := some (BitVec.ofNat 128 (value x)), tags := x.tags.filter (fun t => decide (t ≠ tag)) } else x) }

/-- The loads of a request take their values; a binding is registered with its read, an atomic through one returns (R163, R178). -/
def State.feedLoads (s : State) (x : Transaction) (value : Load → Nat) : State :=
  let fed (l : Load) : Load := { l with value := some (BitVec.ofNat 128 (value l)) }
  let now := (s.loads.filter (fun l => x.feeds l && (match l.kind with
    | .bind _ _ _ _ => true
    | .bound _ _ _ _ _ => true
    | _ => false))).map fed
  now.foldl State.settleLoad { s with loads := s.loads.map (fun (l : Load) => if x.feeds l then fed l else l) }

/-- Bytes of a line that later writes of this device have replaced: those on their way to the home. -/
def State.newerBytes (s : State) (line : Nat) : List Nat :=
  (s.fab.txns.filter (fun x => (x.op == 4 || x.op == 9) && x.line == line)).flatMap (fun x =>
    (Packet.lineCells x.resend).map (fun c => line * 128 + c.1 % 128))

/-- A line arrives at the proxy. It is kept while its lease lasts, unless an operation of this device on it is on its way, or its
set has no way for it (R339, R425, R427). -/
def State.fillProxy (s : State) (x : Transaction) (k : Packet) (st : CopyState) : State :=
  let line := x.line
  let newer := s.newerBytes line
  let cells := (cellsFrom (line * 128) k.payload).filter (fun c => !newer.contains c.1)
  let busy := s.fab.txns.any (fun y => y.line == line && (y.op == 5 || y.op == 6))
  let s := ((s.dropProxy line).writeMem cells).l2Room line
  let keep := !busy && !s.l2Full line
  let p : ProxyLine := ⟨k.src, line, if keep then st else .h, BitVec.ofNat 16 k.misc⟩
  let s := { s with fab := { s.fab with proxy := s.fab.proxy ++ [p] } }
  if keep then s.l2Touch line else s

/-- Bindings restored while their line was not held are compared with the bytes that have come (R168). -/
def State.settleHeld (s : State) (line : Nat) : State :=
  s.mapTeams (fun t => { t with bindings := t.bindings.map (fun e =>
    match e.2.space, e.2.held with
    | .peer _ _, some v =>
      if lineOf e.2.loc ≠ line then e
      else
        let b := { e.2 with held := none }
        (e.1, if s.memNat b.loc (if b.size8 then 8 else 4) = v then b else { b with chg := true, pend := true, since := t.now })
    | _, _ => e) })

/-- The line that a request asked for has come (R425). -/
def State.gotLine (s : State) (x : Transaction) (k : Packet) (st : CopyState) : State :=
  let s := ((s.dropTxn x).fillProxy x k st).settleHeld x.line
  let s := s.feedLoads x (fun l => s.readAt (s.coreOf l.team) l.team l.space l.loc l.size)
  (s.stageTag x.tag (fun y => s.readAt y.core y.issuer y.srcSpace y.src y.size)).goOn x.tag

/-- What an atomic's answer gives its load: the old value; a bound register's word has the new one below it (R178). -/
def Load.atomicValue (l : Load) (old : Nat) : Nat :=
  match l.kind with
  | .bound op ty b c _ => atomicNew op ty old b.toNat c.toNat + 2 ^ 64 * old
  | _ => old

/-- The bytes that an uncached read asked for have come (R427): used once, not kept. -/
def State.gotBytes (s : State) (x : Transaction) (k : Packet) : State :=
  let s := s.dropTxn x
  let s := match x.want with
    | some _ => s.fillProxy x k .h
    | none => s
  let bytes := leNat k.payload
  let s := s.feedLoads x (fun l =>
    leNat ((List.range l.size).map (fun i =>
      (coverByte (s.overlay (s.coreOf l.team) l.team) (l.loc + i)).getD (BitVec.ofNat 8 (bytes / 256 ^ i)))))
  (s.stageTag x.tag (fun y => bytes % 256 ^ y.size)).goOn x.tag

/-- An atomic or reduction of this device has been performed at a peer: what bindings and read sets of other lanes and teams watch
there has changed, and bound lines are fetched again (R157, R170). -/
def State.reachedFar (s : State) (peer line team : Nat) (own : Option Nat) : State :=
  (s.reach [(line * 128, 0)] team own []).fetchBound peer line

/-- The register key of the binding that an atomic is made through. -/
def Load.ownKey (l : Load) : Option Nat :=
  match l.kind, l.dests.head? with
  | .bound _ _ _ _ _, some (_, .vec lane r) => some (vkey lane r)
  | _, _ => none

/-- A data answer by what was asked for; MIXSIZE where the home has said so (R136). -/
def State.gotData (s : State) (x : Transaction) (k : Packet) (st : CopyState) : State :=
  let fed := s.loads.filter x.feeds
  let s := if k.misc / 65536 % 2 = 1 then ((fed.map Load.team).take 1).foldl (fun s u => s.modTeam u (fun t => t.keepTrap tMIXSIZE)) s
    else s
  match x.op with
  | 0x00 => s.gotLine x k st
  | 0x01 => s.gotLine x k .e
  | 0x03 => s.gotBytes x k
  | 0x05 =>
    let s := (s.dropTxn x).feedLoads x (fun l => l.atomicValue (leNat (k.payload.take l.size)))
    (match fed.head? with
    | some l => s.reachedFar k.src x.line l.team l.ownKey
    | none => s).goOn x.tag
  | _ => s

/-- PKT_DATA (R420). -/
def execPktData (s : State) : Host.Outcome State Fault Refusal :=
  .next (s.onPacket 0x10 (fun k s => some (match s.answered k with
    | some x => s.gotData x k .s
    | none => s)))

/-- PKT_DATA_ACK_COUNT (R420): the line, to be owned; the home has collected the acknowledgements. -/
def execPktDataAckCount (s : State) : Host.Outcome State Fault Refusal :=
  .next (s.onPacket 0x11 (fun k s => some (match s.answered k with
    | some x => s.gotData x k .e
    | none => s)))

/-- A peer's proxy has answered a message of this device's directory (R426); a dirty line comes with it. -/
def State.proxyAnswer (s : State) (k : Packet) : State :=
  match s.coh.msgs.find? (fun m => m.agent == 464 + k.src && m.line == lineOf k.pa && m.sent) with
  | none => s
  | some m => (if k.payload = [] then s else s.perform (Packet.lineCells k) 0 none []).countAck m

/-- A line that this device has written home is the proxy's no more (R340): read sets lose it, bobbins fetch it again. -/
def State.lineGone (s : State) (peer line : Nat) : State :=
  if s.fab.proxy.any (fun p => p.line == line && (p.st == .m || p.st == .e)) then
    (((s.dropProxy line).l2Leave line).loseLines (fun l => l == line)).fetchBound peer line
  else s

/-- PKT_ACKNOWLEDGEMENT (R420, R425, R426): a renewed lease, an upgrade, a writeback that has reached its home. -/
def execPktAcknowledgement (s : State) : Host.Outcome State Fault Refusal :=
  .next (s.onPacket 0x12 (fun k s => some (
    if 2 ^ 35 ≤ k.misc then s.proxyAnswer k
    else match s.answered k with
      | none => s
      | some x =>
        let s := (s.dropTxn x).goOn x.tag
        let s := if x.op = 0x09 then s.lineGone x.peer x.line else s
        let renew (p : ProxyLine) : ProxyLine := if p.line == x.line then
          (if x.op = 0x07 then { p with stamp := s.later p.stamp (BitVec.ofNat 16 k.misc) }
           else if x.op = 0x02 then { p with st := .e } else p) else p
        { s with fab := { s.fab with proxy := s.fab.proxy.map renew } })))

/-- PKT_WRITE_PERFORMED (R137, R420): MIXSIZE for the teams of the strong accesses that the answer marks (R136). -/
def execPktWritePerformed (s : State) : Host.Outcome State Fault Refusal :=
  .next (s.onPacket 0x13 (fun k s => some (match s.answered k with
    | some x =>
      let s := (s.dropTxn x).goOn x.tag
      let s := match x.op, x.write.head? with
        | 0x06, some w => s.reachedFar k.src x.line w.team w.own
        | _, _ => s
      (x.strong.zipIdx.filter (fun e => k.misc.testBit e.2)).foldl (fun s e => s.modTeam e.1 (fun t => t.keepTrap tMIXSIZE)) s
    | none => s)))

/-- The trap of an error answer: poison, permission, a live barrier word, a departed member. -/
def errorTrap (k : Packet) (x : Transaction) : Trap :=
  match k.misc % 4 with
  | 0 => tMCHK 1
  | 1 => tACCESS 0
  | 2 => tBARCLOB
  | _ => tHANKGONE (memberOf (x.line * 128))

/-- PKT_ERROR (R420). -/
def execPktError (s : State) : Host.Outcome State Fault Refusal :=
  .next (s.onPacket 0x14 (fun k s => some (match s.answered k with
    | some x => s.failTxn x (errorTrap k x)
    | none => s)))

/-! ## Invalidations at a proxy (R425, R426) -/

/-- A message at the proxy, whose copy stays shared with the lease that a forwarded read names (R352): else the local copies go first, with PEND set on every binding and every read set marked, then it answers,
with the line where it was dirty. A line that bindings watch is fetched again (R170, R426). -/
def State.proxyMessage (s : State) (k : Packet) : State :=
  let line := lineOf (locPeer k.src k.pa)
  let shared : Bool := k.op == 0x21 && k.misc % 2 == 1
  let s := s.recallCopies (line * 128) 128
  let dirty := s.fab.proxy.any (fun p => p.line == line && p.st == .m)
  let bytes := if dirty then cellBytes s.mem (line * 128) 128 else []
  if shared then
    { s with fab := { s.fab with proxy := s.fab.proxy.map (fun (p : ProxyLine) =>
        if p.line == line && decide (p.st ≠ CopyState.h) then { p with st := .s, stamp := BitVec.ofNat 16 (k.misc / 2) } else p) } }.answer k
      0x12 (2 ^ 35) bytes
  else
    let s := ((s.dropProxy line).l2Leave line).mapTeams (fun t => if t.live then markAll line t else t)
    (s.answer k 0x12 (2 ^ 35) bytes).fetchBound k.src line

/-- PKT_INVALIDATE (R426). -/
def execPktInvalidate (s : State) : Host.Outcome State Fault Refusal :=
  .next (s.onPacket 0x20 (fun k s => some (s.proxyMessage k)))

/-- PKT_FORWARD (R426). -/
def execPktForward (s : State) : Host.Outcome State Fault Refusal :=
  .next (s.onPacket 0x21 (fun k s => some (s.proxyMessage k)))

/-- PKT_RECALL (R426). -/
def execPktRecall (s : State) : Host.Outcome State Fault Refusal :=
  .next (s.onPacket 0x22 (fun k s => some (s.proxyMessage k)))

end Sys2Proof.Machine
end

