-- ==== Sys2Proof/Machine/Ending.lean ====
section
/-! DEFINITION. Ends (R74, R123, R194, R206, R317, R332, R397, R398, R440–R446, R452): teams whose issued work is done,
workgroups, launches, and the departure of hank members. -/

namespace Sys2Proof.Machine

/-! ## Teams (R123, R440) -/

/-- Whether anything that a team or program issued is not finished. -/
def State.owes (s : State) (u : Nat) : Bool :=
  s.loads.any (fun l => l.team == u) || s.pendingTags.any (fun t => t.team == u) || s.peerTags.any (fun t => t.team == u) ||
    s.xfers.any (fun x => x.issuer == u && !x.done) || s.matrix.any (fun q => q.2.any (fun o => o.issuer.team == u)) ||
    s.passes.any (fun p => p.tag.team == u) ||
    s.fab.txns.any (fun x => (x.op == 0x35 && x.load == some u) || x.batchTeam == some u)

/-- One attachment of a team of member `m` counted or removed at this workgroup (R439, R440). -/
def Wg.countAttach (m : Nat) (add : Bool) (w : Wg) : Wg :=
  { w with hank := w.hank.map (fun h =>
      let n := h.attachFrom.getD m 0
      { h with attachFrom := h.attachFrom.set m (if add then n + 1 else n - 1) }) }

/-- A team's attachment to a member removed: counted here, or told to the member's device (R440). -/
def State.detachFrom (s : State) (wg team m : Nat) : State :=
  match (s.wg? wg).bind Wg.hank with
  | none => s
  | some h =>
    if h.departed.contains m then s
    else
      match h.wgs.getD m none with
      | some u => s.modWg u (Wg.countAttach h.member false)
      | none => s.windowRequest wg 0x35 h.member (locMember wg m 0) [] { load := some team }

/-- A team that has ended and whose work is done is gone; its slice and its backing slot are free. -/
def State.removeTeam (s : State) (t : Team) : State :=
  let gone (x : Team) : Bool := x.live && x.uid == t.uid
  let s := match s.wg? t.wg with
    | some w => s.setCtx w.ctx { s.ctx w.ctx with slotsUsed := (s.ctx w.ctx).slotsUsed.erase t.slot }
    | none => s
  let s := s.clearStore 2 t.uid
  { s with
    cur := if gone s.cur then Team.absent else s.cur
    others := s.others.filter (fun x => !gone x)
    progs := s.progs.filter (fun (p : Prog) => !(p.team == t.uid && p.ended))
    batches := s.batches.filter (fun (b : Batch) => !(b.team == t.uid && b.done))
    xfers := s.xfers.filter (fun (x : Xfer) => !(x.issuer == t.uid && x.done && x.batch.isNone)) }

/-- The errors that a team which has exited would have been told of stand in SPROG's stream half (R219). -/
def State.recordErrs (s : State) (t : Team) : State :=
  let bad (b : Batch) : Bool := b.team == t.uid && b.done && b.error
  match lowestTrap (t.pendErrs ++ (s.batches.filter bad).map (fun b => tCOPYERR b.num.toNat)) with
  | none => s
  | some x =>
    let s := { s with batches := s.batches.filter (fun b => !bad b) }
    (s.modTeam t.uid (fun t => { t with pendErrs := [] })).batchErr t.uid t.wg x

/-- Whether programs that a team forked or batches of its counter keep it (R219). -/
def State.keepsTeam (s : State) (u : Nat) : Bool :=
  s.progs.any (fun p => p.team == u && !p.ended) || s.batches.any (fun b => b.team == u && !b.done)

/-- A team that is ending: it waits for its work, its programs and its batches, is detached from the members it was attached to,
and is gone (R123, R219). -/
def State.reapTeam (s : State) (t : Team) : State :=
  if !t.live || !t.ending then s
  else
    let s := s.recordErrs t
    if s.owes t.uid || s.keepsTeam t.uid then s
    else if t.attached ≠ [] then
      (t.attached.foldl (fun s m => s.detachFrom t.wg t.uid m) s).modTeam t.uid (fun t => { t with attached := [] })
    else s.removeTeam t

/-! ## Departure (R444) -/

/-- The launch of this device that a hank key names. -/
def State.keyLaunch (s : State) (key : Nat) : Option Launch :=
  if key / 2 ^ 16 = s.fab.dev then
    s.launches.find? (fun l => l.origin.isNone && decide (l.hank ≠ 0) && l.id % 2 ^ 16 == key % 2 ^ 16)
  else none

/-- A member's end or departure counted at the origin, or told to it. -/
def State.tellOrigin (s : State) (ctx key hank m status trap : Nat) : State :=
  if key / 2 ^ 16 = s.fab.dev then
    match s.keyLaunch key with
    | some l => s.memberEnded l.id hank m status trap
    | none => s
  else s.hankMsg (key / 2 ^ 16) ctx 0x36 0 key 1 m hank (leBytes 4 (status + 256 * trap))

/-- A member that ends abnormally departs: every other named device is told, and the members here learn it. -/
def State.announceDeparture (s : State) (w : Wg) : State :=
  match w.hank with
  | none => s
  | some h =>
    let s := s.modWg w.uid (fun w => { w with noticed := true })
    let s := s.departMember h.key h.hank h.member
    let s := (h.devices.eraseDups.filter (fun d => decide (d ≠ s.fab.dev))).foldl (fun s d =>
      s.hankMsg d w.ctx 0x36 0 h.key 0 h.member h.hank (leBytes 4 (w.status + 256 * w.trap))) s
    s.tellOrigin w.ctx h.key h.hank h.member w.status w.trap

/-! ## Workgroups (R194, R317, R332, R442) -/

/-- Whether nothing of a workgroup is left to finish, and no team of another member is attached to it. -/
def State.wgIdle (s : State) (w : Wg) : Bool :=
  (s.wgTeams w.uid).isEmpty && s.progs.all (fun p => !(p.wg == w.uid) || (p.ended && !s.owes p.uid)) &&
    !s.batches.any (fun b => b.wg == w.uid && !b.done) && !s.xfers.any (fun x => x.wg == w.uid && !x.done) &&
    !s.matrix.any (fun q => q.2.any (fun o => o.wg == w.uid)) &&
    (decide (w.status ≠ 0) || w.hank.all (fun h => h.attachFrom.all (fun n => n == 0)))

/-- The cluster is released when the last workgroup with a claim has left it (R317). A place reserved there for a hank's member keeps
no contents: the next claim writes zero (log entry 69). -/
def State.releaseCluster (s : State) (core ctx : Nat) : State :=
  let n := clusterOf core
  if decide (alook s.claims n = some ctx) &&
      !s.wgs.any (fun w => w.clm && w.ctx == ctx && ((w.holdsCore && clusterOf w.core == n) || (w.phase == .saved && w.back == some n))) then
    { s with claims := adel s.claims n }
  else s

/-- The chip scratchpad is released when the last workgroup that declares it has left the die; else Smin is the largest
that is left (R332). -/
def State.releaseChip (s : State) (core ctx : Nat) : State :=
  let n := dieOf core
  let d := s.die n
  if d.holder = some ctx then
    if s.wgs.any (fun w => w.ctx == ctx && dieOf w.core == n && w.holdsCore && decide (w.smax ≠ 0)) then
      s.moveBounds n (d.withSmin (s.chipMin n ctx))
    else s.setDie n d.released
  else s

/-- The number of a saved segment. -/
def savedSegment (group pos : Nat) : Nat := 1000 + 8 * group + pos

/-- The workgroups of a cluster-memory group. -/
def State.ofGroup (s : State) (g : Nat) : List Wg := s.wgs.filter (fun w => w.group == some g && w.phase != .finishing)

/-- The segments of a group are saved once, when its last workgroup is, and the cluster is released (R319). -/
def State.saveSegments (s : State) (w : Wg) : State :=
  match w.group with
  | none => s
  | some g =>
    let n := clusterOf w.core
    if (s.ofGroup g).any (fun x => x.phase == .stopping) || alook s.claims n ≠ some w.ctx then s
    else
      let segs := (List.range 8).filter (fun j => s.coreOn (8 * n + j))
      let s := segs.foldl (fun s j => s.moveStore 3 (8 * n + j) (savedSegment g j)) s
      { s with
        claims := adel s.claims n
        wgs := s.wgs.map (fun (x : Wg) => if x.group == some g then { x with segs := segs } else x) }

/-- A cluster-memory workgroup has left its cluster. When it was the last that the pre-emption of its group waited for, the
segments are saved with those of the group that are saved (R319). -/
def State.leaveCluster (s : State) (w : Wg) : State :=
  if w.group.any (fun g => (s.ofGroup g).any (fun x => x.phase == .saved)) then s.saveSegments w else s.releaseCluster w.core w.ctx

/-- A workgroup's end reaches the distributor (R397, R398): it is counted for its launch; the first with a status of its own gives the
launch that status and stops it. -/
def State.countEnd (s : State) (w : Wg) : State :=
  match w.hank with
  | none => s.modLaunch w.launch (fun l => { l with
      ended := l.ended + 1
      stopped := l.stopped || decide (w.status ≠ 0)
      status := if l.status = 0 then w.status else l.status
      trap := if l.status = 0 then w.trap else l.trap })
  | some h => s.tellOrigin w.ctx h.key h.hank h.member w.status w.trap

/-- A workgroup is gone: its scratchpad, tiles, records, claims and place are free. -/
def State.removeWg (s : State) (w : Wg) : State :=
  let s := { s.clearStore 1 w.uid with
    wgs := s.wgs.filter (fun (x : Wg) => !(x.uid == w.uid))
    progs := s.progs.filter (fun (p : Prog) => !(p.wg == w.uid))
    batches := s.batches.filter (fun (b : Batch) => !(b.wg == w.uid))
    xfers := s.xfers.filter (fun (x : Xfer) => !(x.wg == w.uid))
    anns := s.anns.filter (fun (a : Ann) => decide (a.purpose ≠ AnnFor.saved w.uid)) }
  let s := if w.clm then s.leaveCluster w else s
  let s := if w.smax ≠ 0 then s.releaseChip w.core w.ctx else s
  (s.countEnd w).freeEvent

/-- The operations of a workgroup that is ended (R452): those that it kept while saved go with it, the one in progress for a
running program stops as by EKILL (R204). -/
def State.dropSavedOps (s : State) (w : Wg) : State :=
  if 192 ≤ w.core then
    let rest := s.matrix.map (fun (q : Nat × List MOp) => (q.1, q.2.filter (fun o => decide (o.wg ≠ w.uid))))
    { s with matrix := rest.filter (fun q => decide (q.2 ≠ [])) }
  else s.killOp w.core ((s.progs.filter (fun p => p.wg == w.uid && p.state == 4)).map Prog.uid)

/-- A workgroup that may have ended. -/
def State.reapWg (s : State) (w : Wg) : State :=
  let s := if decide (w.status ≠ 0) && w.hank.isSome && !w.noticed then s.announceDeparture w else s
  let s := if w.phase == .finishing then s.dropSavedOps w else s
  if (w.phase == .resident || w.phase == .finishing || w.phase == .stopping) && s.wgIdle w then s.removeWg w else s

/-! ## Launches (R397, R398, R446) -/

/-- A release of a placement attempt goes to every member's device (R434). -/
def State.sendReleases (s : State) (l : Launch) (a : Attempt) (tag : Nat) : State :=
  (List.range l.hank).foldl (fun s m =>
    s.hankMsg (l.deviceOf m) l.ctx 0x33 tag (hankKey s.fab.dev l.id) a.id m a.hank []) s

/-- A stopped launch announces no more: what was held or offered to system software is given up, and a hank's attempt is
released. -/
def State.giveUpRest (s : State) (l : Launch) : State :=
  if !l.stopped then s
  else
    let mine (a : Ann) : Bool := a.spec.id == l.id && a.purpose == .fresh && (a.phase == .held || a.phase == .starved)
    let n := (s.anns.filter mine).length
    let s := { s with anns := s.anns.filter (fun a => !mine a) }
    let s := if n = 0 then s else s.modLaunch l.id (fun l => { l with ended := l.ended + n })
    (s.fab.attempts.filter (fun a => a.launch == l.id && a.active && !a.restore)).foldl (fun s a =>
      let s := s.sendReleases l a 8
      { s with fab := { s.fab with attempts := s.fab.attempts.filter (fun x => decide (x ≠ a)) } }) s

/-- Whether a launch has run to its end. -/
def State.launchDone (s : State) (l : Launch) : Bool :=
  l.phase == .open_ && l.origin.isNone && decide (l.ended = l.next) && (l.stopped || decide (l.next = l.count)) &&
    !s.anns.any (fun a => a.spec.id == l.id) && !s.fab.attempts.any (fun a => a.launch == l.id)

/-- A launch that may have ended. On the device of a hank member, its copy goes with its last workgroup. -/
def State.reapLaunch (s : State) (l : Launch) : State :=
  if l.origin.isSome then
    (if s.wgs.any (fun w => w.launch == l.id) then s else { s with launches := s.launches.filter (fun (x : Launch) => !(x.id == l.id)) })
  else
    let s := s.giveUpRest l
    match s.launch? l.id with
    | some l => if s.launchDone l then s.completeLaunch l l.status else s
    | none => s

/-- What has ended is taken away: teams, workgroups, launches. -/
def State.reap (s : State) : State :=
  let s := s.teams.foldl (fun s t => if t.ending then (match s.team? t.uid with
    | some t => s.reapTeam t
    | none => s) else s) s
  let s := s.wgs.foldl (fun s w => match s.wg? w.uid with
    | some w => s.reapWg w
    | none => s) s
  s.launches.foldl (fun s l => match s.launch? l.id with
    | some l => s.reapLaunch l
    | none => s) s

end Sys2Proof.Machine
end

