-- ==== Sys2Proof/Machine/Preempt.lean ====
section
/-! DEFINITION. Pre-emption and restore (R168, R190, R206, R240, R247, R319–R321, R332, R367, R368, R443): a workgroup stops
at clause boundaries, is saved, and comes back to a core that meets its needs. While it is saved its core number is a
number of its own, which its tiles, queue, segments and buffer ranges go by. -/

namespace Sys2Proof.Machine

/-! ## Stopping (R319, R368, R443) -/

/-- The workgroups that are pre-empted together with one: the CLM workgroups of its context in its cluster (R319). -/
def State.clmGroup (s : State) (w : Wg) : List Wg :=
  if w.clm then
    s.wgs.filter (fun x => x.clm && x.ctx == w.ctx && x.phase == .resident && clusterOf x.core == clusterOf w.core)
  else [w]

/-- A resident workgroup stops; a hank's other members are told (R443). -/
def State.stopWg (s : State) (group : Option Nat) (w : Wg) : State :=
  if w.phase ≠ .resident then s
  else
    let s := s.modWg w.uid (fun w => { w with phase := .stopping, group := group })
    match w.hank with
    | none => s
    | some h =>
      ((List.range h.size).filter (fun m => decide (m ≠ h.member) && !h.departed.contains m)).foldl (fun s m =>
        s.hankMsg (h.devices.getD m 0) w.ctx 0x3B 0 h.key 0 m h.hank []) s

/-- A workgroup and what is pre-empted with it stop. -/
def State.preempt (s : State) (u : Nat) : State :=
  match s.wg? u with
  | none => s
  | some w =>
    if w.phase ≠ .resident then s
    else
      let group := if w.clm then some s.nextUid else none
      (s.clmGroup w).foldl (fun s x => s.stopWg group x) { s with nextUid := s.nextUid + 1 }

/-- PREEMPTION (R368). -/
def execPreemption (wg : Nat) (s : State) : Host.Outcome State Fault Refusal := .next (s.preempt wg)

/-! ## What stands still (R368) -/

/-- Whether a request is a barrier wait that is answered when it passes: it is saved as it stands. -/
def State.patientTag (s : State) (tag : Nat) : Bool := s.fab.txns.any (fun x => x.tag == tag && x.patient)

/-- Whether a team stands still: at a clause boundary, parked, or in fault service, and not in a commit. -/
def State.standsStill (s : State) (t : Team) : Bool :=
  match t.service with
  | some v => v.asked.any (fun a => decide (a.2 ≠ 9)) || v.asked.any (fun a => s.patientTag a.1) || (t.clause.isNone && v.asked.isEmpty)
  | none =>
    match t.park with
    | .running => t.clause.isNone
    | .access => false
    | .drain _ => false
    | .commit => false
    | .page => t.clause.isNone
    | _ => true

/-- Whether a load of a team may stay outstanding while it is saved: its value is to come from a queued operation, or a
page of its instruction is in service. -/
def Load.maySave (l : Load) : Bool :=
  match l.kind with
  | .acc _ _ => true
  | _ => false

/-- Whether an issuer's accesses and transfers are complete. -/
def State.accessesIn (s : State) (u : Nat) : Bool :=
  !s.loads.any (fun l => l.team == u && !l.maySave) && !s.pendingTags.any (fun t => t.team == u) &&
    !s.peerTags.any (fun t => t.team == u) && !s.xfers.any (fun x => x.issuer == u && !x.done)

/-- Whether a stopping workgroup can be saved: teams and programs stand still, what they issued is complete. -/
def State.settled (s : State) (w : Wg) : Bool :=
  w.phase == .stopping && (s.wgTeams w.uid).all (fun t => (t.ending || s.standsStill t) && s.accessesIn t.uid) &&
    s.progs.all (fun p => !(p.wg == w.uid) ||
      ((p.queued || p.ended || p.exiting || p.clause.isNone || p.waitTicket.isSome) && s.accessesIn p.uid))

/-! ## Saving (R168, R190, R247, R320, R367) -/

/-- What remains of a deadline. -/
def leftOf (now : Nat) (d : Option Nat) : Option Nat := d.map (fun n => n - now)

/-- A wait as it is saved: deadlines become what remains of them; an exchange without a match is offered again (R320). -/
def savedPark (now : Nat) : Park → Park
  | .bwait d e => .bwait (leftOf now d) e
  | .park d w e => .park (leftOf now d) w e
  | .xch _ _ _ _ _ none => .running
  | p => p

/-- A wait as it comes back. -/
def restoredPark (now : Nat) : Park → Park
  | .bwait d e => .bwait (d.map (fun n => n + now)) e
  | .park d w e => .park (d.map (fun n => n + now)) w e
  | p => p

/-- Short-lived registers as a context save finds them: their values, or 0 (R190). -/
def Team.saveShort (t : Team) : Team :=
  let gone := (t.shortLived.map (fun e => e.1)).filter t.expired
  let t' := gone.foldl (fun x k => { x with v := tset 0 x.v k 0 }) t
  { (if gone = [] then t' else t'.setExpired) with shortLived := [], fresh := t.fresh + 1 }

/-- A team as it is saved: an open region aborts with code 7 (R271, R368). DESIGN CHOICE (R185): a restored team counts as never
issued and is not yielding. -/
def Team.saved (t : Team) : Team :=
  let t := if t.inRegion then (t.abortLanes t.openLanes 7).afterAbort else t
  { t.saveShort with park := savedPark t.now t.park, lastIssue := none, yielding := false }

/-- A program as it is saved: a running one waits in the queue, ahead of those after it (R206); one that has stopped for good
waits for its operations. -/
def Prog.saved (key : Nat) (p : Prog) : Prog :=
  if p.ended || p.exiting then { p with core := key } else { p with core := key, queued := true }

/-- An operation as it is saved: an MMAP that has not started is not counted; what it has fetched is fetched again when it goes on,
MTRQ is executed whole again (R240, R247). Its pages stay in service (R363, R368). -/
def MOp.saved (o : MOp) : MOp :=
  match o.kind with
  | .mma _ _ _ => { o with bRows := [], got := [], ready := none, count := if o.started then o.count else none }
  | _ => { o with started := false, got := [] }

/-- Whether an operation is an MMAP. -/
def MOp.paired (o : MOp) : Bool :=
  match o.kind with
  | .mma pair _ _ => pair
  | _ => false

/-- An operation leaves a core with its workgroup: an MMAP counted and not started is counted no more; the partner of a started one
waits from now (R247). -/
def State.unpair (s : State) (core : Nat) (o : MOp) : State :=
  if !o.paired then s
  else if o.started then
    match s.partner core o with
    | some p => s.setHead (s.pairCore core o) { p with ready := p.ready.map (max s.cycle) }
    | none => s
  else if o.count.isSome then
    let c := s.core core
    s.setCore core { c with mmapCount := tset 0 c.mmapCount o.ctx (tget 0 c.mmapCount o.ctx - 1) }
  else s

/-- Bytes of a range of a store moved to another number, in place of what stands there. -/
def State.moveRange (s : State) (kind a b off size : Nat) : State :=
  let hit (k x : Nat) : Bool := locKind x == kind && locId x == k && decide (off ≤ locOff x) && decide (locOff x < off + size)
  let move (x : Nat) : Nat := mkLoc kind b (locOff x)
  { s with
    mem := writeCells (s.mem.filter (fun c => !hit a c.1 && !hit b c.1)) ((s.mem.filter (fun c => hit a c.1)).map (fun c => (move c.1, c.2)))
    poison := (s.poison.filter (fun g => !hit b (8 * g))).map (fun g => if hit a (8 * g) then move (8 * g) / 8 else g) }

/-- A workgroup's tiles moved from one core number to another. -/
def State.moveTiles (s : State) (tiles : List Nat) (a b : Nat) : State :=
  tiles.foldl (fun s k =>
    (((s.setTile b k (s.tile a k)).setTilePoison b k (s.tilePoisoned a k)).setTile a k []).setTilePoison a k []) s

/-- The number that stands for the core of a saved workgroup. -/
def savedCore (uid : Nat) : Nat := 1000 + uid

/-- The chip scratchpad goes with the last workgroup that declares it (R332). -/
def State.saveChip (s : State) (w : Wg) : State :=
  let n := dieOf w.core
  let d := s.die n
  if w.smax = 0 || d.holder ≠ some w.ctx then s
  else if s.wgs.any (fun x => x.ctx == w.ctx && dieOf x.core == n && x.holdsCore && decide (x.smax ≠ 0)) then
    s.moveBounds n (d.withSmin (s.chipMin n w.ctx))
  else
    ((s.moveStore 4 n (savedCore w.uid)).setDie n d.released).modWg w.uid
      (fun w => { w with chip := some (d.smin, d.smax) })

/-- The records of a workgroup's range in the operand buffer, with those released that its operations use (R235). -/
def State.wgRecords (s : State) (w : Wg) : List ObRecord :=
  w.records ++ (s.heldRecords w.core).filter (fun r => (s.queue w.core).any (fun o => o.wg == w.uid && o.usesRecord r))

/-- A workgroup's records and their bytes go from one core number to another, released ones with the operations that use
them. -/
def State.moveRecords (s : State) (w : Wg) (a b : Nat) : State :=
  let rs := s.wgRecords w
  let gone := rs.filter (fun r => !w.records.contains r)
  let s := rs.foldl (fun s r => s.moveRange 5 a b r.base r.size) s
  let s := { s with freed := tset [] s.freed a ((tget [] s.freed a).filter (fun r => !gone.contains r)) }
  { s with freed := tset [] s.freed b (tget [] s.freed b ++ gone) }

/-- A workgroup whose teams stand still is saved (R368). -/
def State.saveWg (s : State) (w : Wg) : State :=
  let key := savedCore w.uid
  let s := ((s.queue w.core).filter (fun o => o.wg == w.uid)).foldl (fun s o => s.unpair w.core o) s
  let s := s.moveRecords w w.core key
  let s := s.mapTeams (fun t => if t.live && t.wg == w.uid && !t.ending then t.saved else t)
  let q := s.queue w.core
  let s := (s.setQueue key ((q.filter (fun o => o.wg == w.uid)).map MOp.saved)).setQueue w.core (q.filter (fun o => o.wg != w.uid))
  let s := { s with progs := s.progs.map (fun (p : Prog) => if p.wg == w.uid then p.saved key else p) }
  let s := s.moveTiles w.tiles w.core key
  let s := s.modWg w.uid (fun w => { w with phase := .saved, left := w.core, core := key })
  let s := (s.saveSegments w).saveChip w
  s.freeEvent

/-- Stopping workgroups that stand still are saved. -/
def State.saveSettled (s : State) : State :=
  s.wgs.foldl (fun s w => match s.wg? w.uid with
    | some w => if s.settled w then s.saveWg w else s
    | none => s) s

/-! ## Restoring (R168, R206, R234, R240, R247, R319, R321, R332) -/

/-- The saved programs of a workgroup on a spindle. -/
def State.savedProgs (s : State) (w : Wg) (eng : Nat) : Nat :=
  (s.progs.filter (fun p => p.wg == w.uid && p.eng == eng && !p.ended)).length

/-- The entries of a spindle's queue that are reserved for other saved workgroups (R321, R443). -/
def State.reservedProgs (s : State) (w : Wg) (core eng : Nat) : Nat :=
  ((s.wgs.filter (fun x => decide (x.uid ≠ w.uid) && s.fab.reserved.any (fun r => r.brings x core))).map (fun x =>
    s.savedProgs x eng)).sum

/-- Whether a record's number and range are free on a core for a workgroup. -/
def State.recordFree (s : State) (w : Wg) (core : Nat) (r : ObRecord) : Bool :=
  !(s.heldRecords core ++ ((s.coreWgs core).filter (fun x => decide (x.uid ≠ w.uid))).flatMap Wg.records).any (fun x =>
    x.num == r.num || overlaps x.base x.size r.base r.size)

/-- Whether a core's cluster can take a saved workgroup of a CLM class: that of its group where the group is back, else one that no
other context holds, with the segments of the save enabled and no member of the group reserved elsewhere (R319). -/
def State.groupFits (s : State) (w : Wg) (core : Nat) : Bool :=
  let n := clusterOf core
  match w.group with
  | none => w.back.all (fun c => c == n)
  | some g =>
    (alook s.claims n).all (fun c => c == w.ctx) && w.segs.all (fun j => s.coreOn (8 * n + j)) &&
      (s.ofGroup g).all (fun x => s.fab.reserved.all (fun r =>
        (!r.saves x || clusterOf r.core == n) && r.mates.all (fun m => decide (m.1 ≠ x.uid) || clusterOf m.2 == n)))

/-- Whether a core meets the needs of a saved workgroup (R321). -/
def State.restoreFits (s : State) (w : Wg) (core : Nat) : Bool :=
  decide (core < 192) && s.coreOn core && (s.wgNeeds w).fits (s.used core) && ((s.core core).drainHold.isNone || w.hank.isSome) &&
    s.clusterFits core w.ctx w.clm && s.groupFits w core &&
    w.tiles.all (fun k => (s.tileHolder core k).isNone) &&
    ((s.wgRecords w).all (s.recordFree w core)) &&
    (List.range 2).all (fun e => decide ((s.outstanding core e).length + s.savedProgs w e + s.reservedProgs w core e ≤ 8)) &&
    (!(s.queue w.core).any (fun o => o.started && o.paired) || core == w.left) &&
    (match w.chip with
      | some _ => (s.die (dieOf core)).holder.isNone && s.chipReserved core = []
      | none => s.chipFits core w.ctx w.smax)

/-- A program of a restored workgroup comes ahead of those queued after it, behind the one that runs (R206). -/
def insertProg (p : Prog) : List Prog → List Prog
  | [] => [p]
  | q :: qs => if q.core == p.core && q.eng == p.eng && q.queued && !q.ended && decide (p.seq < q.seq) then p :: q :: qs
    else q :: insertProg p qs

/-- An operation of a restored workgroup comes ahead of those that arrived after it, also of one that has begun (R240). -/
def insertOp (o : MOp) : List MOp → List MOp
  | [] => [o]
  | q :: qs => if o.issuer.seq < q.issuer.seq then o :: q :: qs else q :: insertOp o qs

/-- Where a location of cluster memory is after its workgroup has come to another cluster: the segment of the same position
(R131, R319). -/
def movedLoc (core loc : Nat) : Nat :=
  if locKind loc = 3 then mkLoc 3 (8 * clusterOf core + locId loc % 8) (locOff loc) else loc

/-- A binding as it comes back (R168): CHG where its bytes differ from the register, or in notify mode. -/
def State.reboundOne (s : State) (core : Nat) (t : Team) (e : Nat × Binding) : Nat × Binding :=
  let b := s.placeNow (s.ctxOfTeam t.uid) { e.2 with loc := movedLoc core e.2.loc }
  let n := if b.size8 then 8 else 4
  let mine := (tget 0 t.v e.1).toNat + (if b.size8 then 2 ^ 32 * (tget 0 t.v (e.1 + 1)).toNat else 0)
  let (known, differs) : Bool × Bool := match b.space with
    | .peer _ _ => ((s.proxyLine (lineOf b.loc)).isSome, decide (s.memNat b.loc n ≠ mine))
    | .member _ => (true, Config.remoteChange s.fresh (lineOf b.loc))
    | _ => (true, s.boundDiffers core t e.1 b)
  let differs := known && differs
  (e.1, { b with
    chg := b.chg || b.notify || differs
    pend := !b.notify && differs
    held := if !known && !b.notify then some mine else b.held
    spilled := true
    since := s.cycle
    spilledAt := s.cycle
    notice := false })

/-- A wait as it comes back: one on a barrier word is evaluated again (R259). -/
def State.waitAgain (s : State) (core : Nat) (p : Park) : Park :=
  match restoredPark s.cycle p with
  | .await tok loc none =>
    let loc := movedLoc core loc
    .await tok loc (tokenStatus tok (cellNat s.mem loc 8))
  | p => p

/-- A team as it comes back to a core (R168, R176, R259, R262). -/
def State.teamBack (s : State) (core : Nat) (t : Team) : Team :=
  { t with park := s.waitAgain core t.park, bindings := t.bindings.map (s.reboundOne core t), now := s.cycle }

/-- The peers' lines that a workgroup's bindings watch are asked for, so that a first observation point finds them (R168). -/
def State.askBound (s : State) (u : Nat) : State :=
  (s.wgTeams u).foldl (fun s t => t.bindings.foldl (fun s b =>
    match b.2.space with
    | .peer d _ => if (s.proxyLine (lineOf b.2.loc)).isSome then s else s.fetchBound d (lineOf b.2.loc)
    | _ => s) s) s

/-- A restored workgroup's started MMAP whose partner has meanwhile ended ends the same way at restore (R247). -/
def State.pairBack (s : State) (core u : Nat) : State :=
  match (s.queue core).find? (fun o => o.wg == u && o.paired && o.started) with
  | some o => if s.pairGone core o then s.failOp core o tPAIRTMO else s
  | none => s

/-- A cluster's claim taken again for a group, its segments back at their positions (R319); where the context holds the cluster, they
replace what stands there (log entry 69). -/
def State.restoreSegments (s : State) (w : Wg) (core : Nat) : State :=
  match w.group with
  | none => s
  | some g =>
    let n := clusterOf core
    let s := s.claimCluster core w.ctx
    let s := w.segs.foldl (fun s j => (s.clearStore 3 (8 * n + j)).moveStore 3 (savedSegment g j) (8 * n + j)) s
    { s with wgs := s.wgs.map (fun (x : Wg) => if x.group == some g then { x with group := none, segs := [], back := some n } else x) }

/-- A chip scratchpad back on a die, or its claim joined (R332). -/
def State.restoreChip (s : State) (w : Wg) (core : Nat) : State :=
  let n := dieOf core
  match w.chip with
  | some c => ((s.clearStore 4 n).moveStore 4 (savedCore w.uid) n).moveBounds n
      { s.die n with holder := some w.ctx, smin := c.1, smax := c.2, bounds := [] }
  | none => s.claimChip core w.ctx w.smin w.smax

/-- A saved workgroup comes to a core. DESIGN CHOICE (R236, R321): room in the engine queue is no need of a restore, so the queue may
hold more than eight operations for a while (log entry 78). -/
def State.restoreOnto (s : State) (w : Wg) (core : Nat) : State :=
  let key := savedCore w.uid
  let s := (s.restoreSegments w core).restoreChip w core
  let s := (s.moveTiles w.tiles key core).moveRecords w key core
  let ops := s.queue key
  let s := (s.setQueue core (ops.foldl (fun q o => insertOp o q) (s.queue core))).setQueue key []
  let mine := s.progs.filter (fun p => p.wg == w.uid)
  let s := { s with progs := mine.foldl (fun ps (p : Prog) => insertProg ({ p with core := core } : Prog) ps) (s.progs.filter (fun (p : Prog) => p.wg != w.uid)) }
  let s := s.modWg w.uid (fun w => { w with phase := .resident, core := core, left := core, back := none, chip := none })
  let s := s.mapTeams (fun t => if t.live && t.wg == w.uid then s.teamBack core t else t)
  let s := (s.askBound w.uid).pairBack core w.uid
  s.refill core (s.coreBobbins core).length

/-- A restore is an award that the core confirms: it is counted and the pointer advances (R322, R323). -/
def State.awardTo (s : State) (core : Nat) : State := { s.noteAward core with pointer := s.nextCore s.pointer }

/-- The cores of a cluster in an order that hardware chooses. -/
def State.clusterOrder (s : State) (n : Nat) : List Nat := pickOrder s.fresh 8 ((List.range 8).map (fun j => 8 * n + j))

/-- Workgroups into one cluster, all or none, each on any core whose resources suffice (R319): the state, and who comes where. -/
def State.restoreAll (n : Nat) : List Nat → State → Option (State × List (Nat × Nat))
  | [], s => some (s, [])
  | u :: us, s =>
    match s.wg? u with
    | none => State.restoreAll n us s
    | some w =>
      (s.clusterOrder n).findSome? (fun c =>
        if s.restoreFits w c then
          (State.restoreAll n us (({ s with fresh := s.fresh + 8 } : State).restoreOnto w c)).map (fun r => (r.1, (u, c) :: r.2))
        else none)

/-- The workgroups that come back together with one: those of its group that are no hank members and are not to come with another
(R319, R443). -/
def State.comrades (s : State) (w : Wg) : List Wg :=
  match w.group with
  | none => []
  | some g => (s.ofGroup g).filter (fun x => decide (x.uid ≠ w.uid) && x.hank.isNone &&
      !s.fab.reserved.any (fun r => r.mates.any (fun m => m.1 == x.uid)))

/-- A saved workgroup on a core, with its comrades in its cluster, all or none: the state, and where the comrades come. -/
def State.restorePlan (s : State) (w : Wg) (core : Nat) : Option (State × List (Nat × Nat)) :=
  let others := s.comrades w
  if others.all (fun x => x.phase == .saved) && s.restoreFits w core then
    State.restoreAll (clusterOf core) (others.map Wg.uid) (s.restoreOnto w core)
  else none

/-- A workgroup restored to a core, with its comrades to its cluster, whose awards are counted. -/
def State.restoreWith (s : State) (w : Wg) (core : Nat) : Option State :=
  (s.restorePlan w core).map (fun r => r.2.foldl (fun s m => s.awardTo m.2) r.1)

/-- The attempt that restores a hank, from its origin (R443). -/
def State.startRestore (s : State) (h : HankInfo) : State :=
  match s.keyLaunch h.key with
  | none => s
  | some l =>
    if s.fab.attempts.any (fun a => a.launch == l.id && a.hank == h.hank && a.restore) then s
    else
      let a : Attempt := ⟨s.nextUid, l.id, h.hank, (List.range h.size).map (fun m => if h.departed.contains m then some 0 else none),
        true, true, s.cycle, none⟩
      let s := { s with nextUid := s.nextUid + 1, fab := { s.fab with attempts := s.fab.attempts ++ [a] } }
      ((List.range l.hank).filter (fun m => !h.departed.contains m)).foldl (fun s m =>
        s.hankMsg (l.deviceOf m) l.ctx 0x30 1 (hankKey s.fab.dev l.id) a.id m a.hank (reservePayload l)) s

/-- The hank that brings a workgroup back: its own, or that of a member of its cluster-memory group (R319, R443). -/
def State.restoringHank (s : State) (w : Wg) : Option HankInfo :=
  match w.hank with
  | some h => some h
  | none => w.group.bind (fun g => (s.ofGroup g).findSome? Wg.hank)

end Sys2Proof.Machine
end

