-- ==== Sys2Proof/Machine/Award.lean ====
section
/-! DEFINITION. Tenders (R321–R324, R398, R401–R403, R434): announcements in their order, bids and their ranks, awards, confirmation, and
what becomes of a tender that fails; for new workgroups, for saved ones and for members of hanks. -/

namespace Sys2Proof.Machine

/-! ## What a core can take (R321, R322) -/

/-- The member of a hank on this device, unless it has departed. -/
def State.memberHere (s : State) (key hank m : Nat) : Option Wg :=
  s.wgs.find? (fun w => decide (w.status = 0) && w.hank.any (fun h => h.key == key && h.hank == hank && h.member == m))

/-- The saved member of a hank on this device. -/
def State.savedMember (s : State) (key hank m : Nat) : Option Wg :=
  (s.memberHere key hank m).filter (fun w => w.phase == .saved)

/-- The saved workgroup that an announcement brings back. -/
def State.annSaved (s : State) (a : Ann) : Option Wg :=
  match a.purpose with
  | .fresh => none
  | .saved u => (s.wg? u).filter (fun w => w.phase == .saved)
  | .hank _ _ key hank m => s.savedMember key hank m

/-- Whether an announcement is for a hank member. -/
def Ann.forHank (a : Ann) : Bool :=
  match a.purpose with
  | .hank _ _ _ _ _ => true
  | _ => false

/-- Whether a core meets the needs of an announcement's workgroup: of a saved one those of its restore, with what comes back with
it. -/
def State.annFits (s : State) (a : Ann) (core : Nat) : Bool :=
  match s.annSaved a with
  | some w => (s.restorePlan w core).isSome
  | none =>
    match a.purpose with
    | .saved _ => false
    | _ => s.coreFits core a.spec a.cls.clm a.forHank

/-- The backing slots that an announcement's workgroup has still to get: a saved one keeps its own (R359). -/
def State.annSlots (s : State) (a : Ann) : Nat := if (s.annSaved a).isSome then 0 else a.spec.teams

/-- Whether a core can confirm an announcement now. DESIGN CHOICE (R321): the distributor reserves backing slots at the
confirmation, and an award that finds the pool empty counts as withdrawn. -/
def State.canConfirm (s : State) (a : Ann) (core : Nat) : Bool := s.annFits a core && s.slotsLeft a.ctx (s.annSlots a)

/-! ## The order of announcements (R401, R402) -/

/-- Whether eight announcements are in flight (R323). -/
def State.inFlightFull (s : State) : Bool := decide (8 ≤ (s.anns.filter Ann.inFlight).length)

/-- How far a context is behind the one that has its turn. -/
def State.turnOf (s : State) (c : Nat) : Nat := (c + 15 - s.served) % 16

/-- Whether an announcement comes before another by priority, then by the turn of its context; in one context the first named. -/
def State.comesFirst (s : State) (p c p' c' : Nat) : Bool :=
  decide (p' < p) || (p == p' && decide (s.turnOf c ≤ s.turnOf c'))

/-- Whether a held workgroup may be announced again now: after a release of resources, while its context's budgets pass, in which it is
counted already, and the pool has a slot for each of its teams (R321, R324, R402). -/
def State.mayAgain (s : State) (a : Ann) : Bool :=
  a.phase == .held && a.again && s.budgetsPass a.ctx 0 && s.slotsLeft a.ctx (s.annSlots a)

/-- The held workgroup that is announced again next. -/
def State.pickAgain (s : State) : Option Ann :=
  (s.anns.filter s.mayAgain).foldl (fun r a =>
    match r with
    | none => some a
    | some x => if s.comesFirst x.spec.prio x.ctx a.spec.prio a.ctx then some x else some a) none

/-- Whether a workgroup to be announced again comes before a launch's next. -/
def State.againFirst (s : State) (l : Launch) : Bool :=
  s.pickAgain.any (fun a => s.comesFirst a.spec.prio a.ctx l.prio l.ctx)

/-- ANNOUNCEMENT (R401): at most eight are in flight (R323). A context is served when it announces, or its workgroup is offered to
system software (R403), or its hank is reserved (R434). -/
def execAnnouncement (s : State) : Host.Outcome State Fault Refusal :=
  .next (match s.pickLaunch with
    | none => s.draw
    | some l =>
      if s.againFirst l then s.draw
      else
        let t := { s.draw with served := l.ctx }
        if l.hank ≠ 0 then t.startAttempt l
        else if !(s.ctx l.ctx).placed && s.inFlightFull then s.draw
        else (t.announce l l.next .fresh l.teams (s.ctx l.ctx).placed).modLaunch l.id (fun l => { l with next := l.next + 1 }))

/-! ## Bids (R322, R323) -/

/-- The end of an announcement's bid window. -/
def Ann.closes (a : Ann) : Nat := a.since + 16 * (a.cls.win + 1)

/-- Inserts a bid in rank order: lower cost, then the nearer to the pointer. -/
def insertBid (pointer : Nat) (x : Nat × Nat) : List (Nat × Nat) → List (Nat × Nat)
  | [] => [x]
  | y :: ys =>
    if x.1 < y.1 ∨ (x.1 = y.1 ∧ (x.2 + 192 - pointer) % 192 < (y.2 + 192 - pointer) % 192) then x :: y :: ys
    else y :: insertBid pointer x ys

/-- BID (R322): a core that can take the workgroup bids once; the four best are kept. DESIGN CHOICE (R323): a bid is ranked when it
comes, by the pointer of then (log entry 81). -/
def execBid (ann core : Nat) (s : State) : Host.Outcome State Fault Refusal :=
  .next (match s.anns.find? (fun a => a.id == ann) with
    | none => s
    | some a =>
      if a.phase == .bidding && decide (s.cycle ≤ a.closes) && !a.kept.any (fun k => k.2 == core) && s.annFits a core then
        s.modAnn ann (fun a => { a with kept := (insertBid s.pointer (s.cost a core, core) a.kept).take 4 })
      else s)

/-! ## Awards, and tenders that fail (R323, R324) -/

/-- A fresh announcement of a workgroup: it comes behind those in flight, with the class record of now (R323–R325). DESIGN CHOICE
(R324): a repeat after no bid leaves the count of re-tenders as it stands (log entry 82). -/
def State.announceAgain (s : State) (a : Ann) : State :=
  let s := s.dropAnn a.id
  { s with anns := s.anns ++ [{ a with
      phase := .bidding
      since := s.cycle
      kept := []
      awarded := none
      again := false
      cls := (s.ctx a.ctx).cls a.spec.cls }] }

/-- An announcement is held until it may be made again. -/
def State.holdAnn (s : State) (a : Ann) (again : Bool) : State :=
  s.modAnn a.id (fun b => { b with phase := .held, kept := [], awarded := none, again := again, retenders := a.retenders })

/-- The eighth re-tender of a workgroup hands what is pending of its context to system software (R324). -/
def State.starve (s : State) (a : Ann) : State :=
  let s := s.postFq a.ctx 3 0 a.spec.record (BitVec.ofNat 64 (a.wg % 2 ^ 16)) 0
  let s := s.setCtx a.ctx { s.ctx a.ctx with placeAssist := true }
  (s.anns.filter (fun b => b.ctx == a.ctx && !b.forHank && b.phase != .starved)).foldl (fun s b =>
    (s.modAnn b.id (fun b => { b with phase := .starved, kept := [], awarded := none })).askPlace b 0) s

/-- A tender that cannot place a hank member answers none; any other workgroup is held, or announced afresh (R324). A launch that has
stopped is announced no more (R398), nor a saved workgroup that has ended. -/
def State.failAnn (s : State) (a : Ann) (noBid : Bool) : State :=
  match a.purpose with
  | .hank origin attempt key hank m => (s.dropAnn a.id).answerReserve a.ctx origin attempt key hank m 1
  | p =>
    if p ≠ .fresh && (s.annSaved a).isNone then s.dropAnn a.id
    else if noBid || (p == .fresh && (s.launch? a.spec.id).any Launch.stopped) then s.holdAnn a false
    else
      let b := { a with retenders := a.retenders + 1 }
      if 8 ≤ b.retenders then s.starve a
      else if s.budgetsPass a.ctx 0 && s.slotsLeft a.ctx (s.annSlots a) then s.announceAgain b
      else s.holdAnn b true

/-- The next kept bid is awarded, or the tender fails. -/
def State.awardNext (s : State) (a : Ann) : State :=
  match a.kept with
  | [] => s.failAnn a false
  | k :: ks => (s.noteAward k.2).modAnn a.id (fun a => { a with
      phase := .awarded
      awarded := some k.2
      kept := ks
      since := s.cycle })

/-- Whether an announcement is the first of those still bidding: awards are made in announcement order (R323). -/
def State.firstBidding (s : State) (a : Ann) : Bool :=
  ((s.anns.filter (fun x => x.phase == .bidding)).head?.map Ann.id) == some a.id

/-- BID_WINDOW_CLOSE (R323) for the selected announcement. -/
def execBidWindowClose (s : State) : Host.Outcome State Fault Refusal :=
  .next (match s.anns[s.sel]? with
    | none => s
    | some a =>
      if a.phase == .bidding && s.firstBidding a then
        let s := s.waitUntil a.closes
        if a.kept = [] then s.failAnn a true else s.awardNext a
      else s)

/-- The answer of an awarded core: withdraw, or no answer in 32 cycles. -/
def State.passOver (s : State) (a : Ann) : State := s.awardNext { a with awarded := none }

/-- WITHDRAW (R323): the awarded core's resources cover the needs no more. -/
def execWithdraw (s : State) : Host.Outcome State Fault Refusal :=
  .next (match s.anns[s.sel]? with
    | none => s
    | some a =>
      match a.phase, a.awarded with
      | .awarded, some core => if s.canConfirm a core then s else s.passOver a
      | _, _ => s)

/-- CONFIRM_TIMEOUT (R323). -/
def execConfirmTimeout (s : State) : Host.Outcome State Fault Refusal :=
  .next (match s.anns[s.sel]? with
    | none => s
    | some a => if a.phase == .awarded then (s.waitUntil (a.since + 32)).passOver a else s)

/-- A held workgroup is announced again, or offered to system software where its context's placement is host-assisted by now. -/
def State.tenderAgain (s : State) (a : Ann) : State :=
  let t := { s with served := a.ctx }
  if (s.ctx a.ctx).placed then (t.modAnn a.id (fun b => { b with phase := .starved })).askPlace a 0
  else if s.inFlightFull then s
  else t.announceAgain a

/-- RE_ANNOUNCE (R324): after a release of resources, in the order of R401; no re-tender. -/
def execReAnnounce (s : State) : Host.Outcome State Fault Refusal :=
  .next (match s.anns[s.sel]?, s.pickAgain with
    | some a, some b => if a.id = b.id && s.pickLaunch.all s.againFirst then s.tenderAgain a else s
    | _, _ => s)

/-! ## Taking a workgroup (R321, R323, R403, R434) -/

/-- A core takes the workgroup of an announcement: it is admitted or restored, or for a hank reserved, with what comes back with a
saved member (R319, R323, R434, R443). -/
def State.settleAnn (s : State) (a : Ann) (core : Nat) : State :=
  let t := s.dropAnn a.id
  match a.purpose with
  | .fresh => t.admitWg ((t.launch? a.spec.id).getD a.spec) a.wg core a.cls none
  | .saved u => ((t.wg? u).bind (fun w => t.restoreWith w core)).getD t
  | .hank origin attempt key hank m =>
    let w := s.annSaved a
    let mates := ((w.bind (fun w => s.restorePlan w core)).map Prod.snd).getD []
    let cls := { a.cls with clm := (w.map Wg.clm).getD a.cls.clm }
    let r : Reservation := ⟨origin, attempt, a.ctx, a.spec, m, hank, core, cls, mates⟩
    (mates.foldl (fun (s : State) m => s.awardTo m.2)
      { t with fab := { t.fab with reserved := t.fab.reserved ++ [r] } }).answerReserve a.ctx origin attempt key hank m 0

/-- A core confirms an award: the pointer advances (R323). -/
def State.confirmAnn (s : State) (a : Ann) (core : Nat) : State :=
  ({ s with pointer := s.nextCore s.pointer }).settleAnn a core

/-- CONFIRM (R323): within 32 cycles and while the resources still cover the needs. -/
def execConfirm (s : State) : Host.Outcome State Fault Refusal :=
  .next (match s.anns[s.sel]? with
    | none => s
    | some a =>
      match a.phase, a.awarded with
      | .awarded, some core =>
        if s.canConfirm a core && decide (s.cycle ≤ a.since + 32) then s.confirmAnn a core else s
      | _, _ => s)

/-- PLACEMENT_RESPONSE (R403): entry `k` of a context's fault queue is answered; a core that cannot take the workgroup,
or no core, is refused. -/
def execPlacementResponse (ctx k : Nat) (value : Word) (s : State) : Host.Outcome State Fault Refusal :=
  .next (let x := s.ctx ctx
    match x.fqWait.find? (fun e => e.n == k && e.kind == 2 && e.posted) with
    | none => s
    | some e =>
      let s := s.setCtx ctx { x with fqWait := x.fqWait.filter (fun (y : QueueEntry) => decide (y ≠ e)) }
      match s.anns.find? (fun a => a.id == e.party) with
      | none => s
      | some a =>
        if s.canConfirm a value.toNat then s.settleAnn a value.toNat
        else s.askPlace a 1)

/-! ## Saved workgroups (R319, R321, R443) -/

/-- The teams of a saved workgroup and of those that come back with it. -/
def State.restoreTeams (s : State) (w : Wg) : Nat :=
  ((w :: s.comrades w).map (fun x => (s.wgTeams x.uid).length)).sum

/-- The announcement that is to bring a workgroup back, its own or that of a comrade. -/
def State.restoringAnn (s : State) (w : Wg) : Option Ann :=
  s.anns.find? (fun a => match a.purpose with
    | .saved u => u == w.uid || (s.comrades w).any (fun x => x.uid == u)
    | _ => false)

/-- A saved workgroup is announced, while its context's budgets pass and fewer than eight announcements are in flight. -/
def State.announceSaved (s : State) (w : Wg) : State :=
  match s.launch? w.launch with
  | none => s
  | some l =>
    let byHost := (s.ctx w.ctx).placed
    if !s.budgetsPass w.ctx (s.restoreTeams w) || (!byHost && s.inFlightFull) then s
    else ({ s with served := w.ctx }).announce l w.index (.saved w.uid) (s.restoreTeams w) byHost

/-- RESTORE (R321): a saved workgroup comes back. A hank is restored by reservation (R443). Any other workgroup reaches a core by
tender: it is announced, and an awarded core that still meets its needs takes it (R322, R323). -/
def execRestore (wg core : Nat) (s : State) : Host.Outcome State Fault Refusal :=
  .next (match s.wg? wg with
    | none => s
    | some w =>
      if w.phase ≠ .saved then s
      else
        match s.restoringHank w, s.restoringAnn w with
        | some h, _ => if s.budgetsPass w.ctx (s.wgTeams w.uid).length then s.startRestore h else s
        | none, none => s.announceSaved w
        | none, some a =>
          if a.phase == .awarded && a.awarded == some core && s.canConfirm a core && decide (s.cycle ≤ a.since + 32) then
            s.confirmAnn a core
          else s)

end Sys2Proof.Machine
end

