-- ==== Sys2Proof/Machine/Hank.lean ====
section
/-! DEFINITION. Hanks (R432–R446): attachment, the window's packets at a member's store and their answers, placement in two
phases with its deadlines, departure notices and pre-emption of the whole. Packets and attempts are those that `sel` names. -/

namespace Sys2Proof.Machine

/-! ## HATTACH, HDETACH, HQUERY (R438–R441) -/

/-- The hank of a team's workgroup. -/
def State.hankOf (s : State) (t : Team) : Option HankInfo := (s.wg? t.wg).bind Wg.hank

/-- ACCESS for a team that is no member, or a member number out of range (R438, R450). -/
def memberConds (t : Team) (s : State) (a : Code) : List Cond :=
  whenCond (t.leader.isSome && (match s.hankOf t with
    | none => true
    | some h => decide (h.size ≤ (t.lead32 a).toNat))) (tACCESS 5)

/-- HATTACH for a member (R439): its own and an attached one at once, a departed one not at all, one on this device
counted here, any other when its device has counted it. -/
def State.attach (s : State) (h : HankInfo) (m : Nat) (d : Code) : Res :=
  let join (s : State) : State := s.setCur { s.cur with attached := m :: s.cur.attached }
  match s.cur.park with
  | .attach _ (some true) => s.unpark.putStatus d 1
  | .attach _ (some false) => (join s.unpark).putStatus d 0
  | .attach _ none => .stay s
  | _ =>
    if m = h.member || s.cur.attached.contains m then s.putStatus d 0
    else if h.departed.contains m then s.putStatus d 1
    else
      match h.wgs.getD m none with
      | some u => (join (s.modWg u (Wg.countAttach h.member true))).putStatus d 0
      | none => (s.windowRequest s.cur.wg 0x34 h.member (locMember s.cur.wg m 0) [] { load := some s.cur.uid }).parkOn
          (.attach m none)

/-- HATTACH (R439). -/
def execHattach (d a : Code) (s : State) : Host.Outcome State Fault Refusal :=
  issue { whole := true } { reads := [(a, 1)], writes := [(d, 1)] }
    (fun t s => okCond (szOk false d && skOk t false a) ++ memberConds t s a)
    (fun s =>
      match s.cur.leader, s.hankOf s.cur with
      | some _, some h => s.attach h (s.cur.lead32 a).toNat d
      | _, _ => .done s) s

/-- Whether a binding leads into a member's window. -/
def HankInfo.bindsTo (h : HankInfo) (m : Nat) (b : Binding) : Bool :=
  match b.space with
  | .member k => k == m
  | .store => locKind b.loc == 1 && h.wgs.getD m none == some (locId b.loc)
  | _ => false

/-- HDETACH for a member (R440): a release at system scope, the bindings, then the count at the member's device. -/
def State.detach (s : State) (h : HankInfo) (m : Nat) : Res :=
  match s.cur.park with
  | .detach _ true => .done s.unpark
  | .detach _ false => .stay s
  | _ =>
    if m = h.member || !s.cur.attached.contains m || h.departed.contains m then .done s.unpark
    else
      s.released 5 (fun s =>
        let s := s.setCur { s.cur with
          attached := s.cur.attached.filter (fun k => decide (k ≠ m))
          bindings := s.cur.bindings.filter (fun b => !h.bindsTo m b.2) }
        match h.wgs.getD m none with
        | some u => .done (s.modWg u (Wg.countAttach h.member false))
        | none => (s.windowRequest s.cur.wg 0x35 h.member (locMember s.cur.wg m 0) [] { load := some s.cur.uid }).parkOn
            (.detach m false))

/-- HDETACH (R440). -/
def execHdetach (a : Code) (s : State) : Host.Outcome State Fault Refusal :=
  issue { whole := true } { reads := [(a, 1)], writes := [] }
    (fun t s => okCond (skOk t false a) ++ memberConds t s a)
    (fun s =>
      match s.cur.leader, s.hankOf s.cur with
      | some _, some h => s.detach h (s.cur.lead32 a).toNat
      | _, _ => .done s) s

/-- What HQUERY reports (R441). -/
def HankInfo.query (h : HankInfo) (t : Team) (sel : Nat) : Nat :=
  let mask (f : Nat → Bool) : Nat := ((List.range h.size).map (fun m => if f m then 2 ^ m else 0)).sum
  match sel with
  | 0 => mask (fun m => !h.departed.contains m)
  | 1 => mask (fun m => m == h.member || t.attached.contains m)
  | _ => h.attachFrom.sum

/-- HQUERY (R441). -/
def execHquery (d a : Code) (s : State) : Host.Outcome State Fault Refusal :=
  issue { whole := isS d } { reads := [(a, 1)], writes := [(d, 1)] }
    (fun t s => okCond (dstOk t false d && skOk t false a && (t.leader.isNone || decide ((t.lead32 a).toNat ≤ 2))) ++
      whenCond (t.leader.isSome && (s.hankOf t).isNone) (tACCESS 5))
    (fun s =>
      match s.cur.leader, s.hankOf s.cur with
      | some _, some h =>
        let x := BitVec.ofNat 32 (h.query s.cur (s.cur.lead32 a).toNat)
        s.writeDest false d ((s.cur.evalLanes d).map (fun l => (l, [x])))
      | _, _ => .done s) s

/-! ## Window packets at the member's store (R437, R439, R440, R445) -/

/-- Acts on a window packet at its member's scratchpad, or answers that the member is gone. -/
def State.onWindow (s : State) (op : Nat) (go : Packet → Nat → State → Option State) : State :=
  s.onPacket op (fun k s =>
    match s.memberHere (k.misc / 2 ^ 16) (k.pa / 2 ^ 28) (k.pa / 2 ^ 24 % 16) with
    | none => some (s.answer k 0x3A 1 [])
    | some w => go k (locScratch w.uid (k.pa % 2 ^ 24)) (s.recallCopies (locScratch w.uid (k.pa % 2 ^ 24)) 128))

/-- WINDOW_READ (R437). With bit 8 of MISC set it only checks that a write there would touch no live barrier word (R140, log entry
14). -/
def execWindowRead (s : State) : Host.Outcome State Fault Refusal :=
  .next (s.onWindow 0x37 (fun k loc s => some (
    if k.misc.testBit 8 then s.answer k 0x3A (if s.hitsBarrier loc (readSize k) then 2 else 0) []
    else if s.poisoned loc (readSize k) then s.answer k 0x14 0 []
    else s.answer k 0x3A 0 (cellBytes s.mem loc (readSize k)))))

/-- WINDOW_WRITE (R437): a write that touches a live barrier word is dropped and says so. -/
def execWindowWrite (s : State) : Host.Outcome State Fault Refusal :=
  .next (s.onWindow 0x38 (fun k loc s =>
    let cells := Packet.written k (loc / 128 * 128)
    some (if cells.any (fun c => s.hitsBarrier c.1 1) then s.answer k 0x3A 2 []
      else (s.perform cells 0 none []).answer k 0x3A 0 [])))

/-- The elements of an atomic or reduction of a packet: more than one where a CRA adds several (R207). -/
def Packet.atomCount (k : Packet) : Nat := if miscAt k.misc = .cas then 1 else k.payload.length / Packet.atomSize k

/-- The elements of a packet's atomic performed in order, and the old value of the first. -/
def State.windowAtomics (s : State) (k : Packet) (loc : Nat) : State × Nat :=
  let n := Packet.atomSize k
  (List.range (Packet.atomCount k)).foldl (fun r i =>
    let x := r.1.homeAtomic { k with payload := k.payload.drop (n * i) } .store (loc + n * i) (fun s cells => s.perform cells 0 none [])
    (x.1, if i = 0 then x.2 else r.2)) (s, 0)

/-- WINDOW_ATOMIC (R437): all of it or none (R207); the old value goes back where it is wanted. -/
def execWindowAtomic (s : State) : Host.Outcome State Fault Refusal :=
  .next (s.onWindow 0x39 (fun k loc s =>
    let n := Packet.atomSize k
    let size := n * Packet.atomCount k
    some (if s.hitsBarrier loc size then s.answer k 0x3A 2 []
      else if s.poisoned loc size then s.answer k 0x14 0 []
      else
        let r := s.windowAtomics k loc
        r.1.answer k 0x3A 0 (if k.misc / 256 % 2 = 1 then leBytes n r.2 else []))))

/-- A wait at a word: answered when it is over; till then the packet stays. -/
def State.windowWait (s : State) (k : Packet) (loc : Nat) (tok : Word) : Option State :=
  (tokenStatus tok (cellNat s.mem loc 8)).map (fun st => s.answer k 0x3A 0 (leBytes 4 st.toNat))

/-- A packet that has arrived and goes on as a wait on its token. -/
def Packet.asWait (k : Packet) (tok : Word) : Packet :=
  mkPacket k.ctx k.src k.dst k.cls 0x3C k.tag (k.misc / 2 ^ 16 * 2 ^ 16 + 3) k.pa (leBytes 8 tok.toNat)

/-- WINDOW_BARRIER (R253, R437): BARINIT, BARINV, an arrival, a wait, both, or an engine's arrival. Status 3 is an overrun,
4 an arrival that was dropped. -/
def execWindowBarrier (s : State) : Host.Outcome State Fault Refusal :=
  .next (s.onWindow 0x3C (fun k loc s =>
    let x := leNat k.payload
    let tok := tokenOf (cellNat s.mem loc 8)
    match k.misc % 2 ^ 16 with
    | 0 => some ((s.initAt loc (BitVec.ofNat 32 x)).answer k 0x3A 0 [])
    | 1 => some ((s.invAt loc).answer k 0x3A 0 [])
    | 2 =>
      let r := s.arriveAt loc (x % 64) none
      some (r.1.answer k 0x3A (if r.2 = .overrun then 3 else 0) (leBytes 4 tok.toNat))
    | 3 => s.windowWait k loc (BitVec.ofNat 32 x)
    | 4 =>
      let r := s.arriveAt loc (x % 64) none
      if r.2 = .overrun then some (r.1.answer k 0x3A 3 [])
      else
        match r.1.windowWait k loc tok with
        | some s => some s
        | none => some { r.1 with fab := { r.1.fab with rx := r.1.fab.rx ++ [Packet.asWait k tok] } }
    | _ =>
      let r := s.arriveAt loc (x % 256) (some (x / 256 % 256))
      some (r.1.answer k 0x3A (match r.2 with
        | .dropped => 4
        | .overrun => 3
        | .counted => 0) [])))

/-- HANK_ATTACH (R439): counted. -/
def execHankAttach (s : State) : Host.Outcome State Fault Refusal :=
  .next (s.onPacket 0x34 (fun k s =>
    match s.memberHere (k.misc / 2 ^ 16) (k.pa / 2 ^ 28) (k.pa / 2 ^ 24 % 16) with
    | none => some (s.answer k 0x3A 1 [])
    | some w => some ((s.modWg w.uid (Wg.countAttach (k.misc % 16) true)).answer k 0x3A 0 [])))

/-- HANK_DETACH (R440): counted. -/
def execHankDetach (s : State) : Host.Outcome State Fault Refusal :=
  .next (s.onPacket 0x35 (fun k s =>
    match s.memberHere (k.misc / 2 ^ 16) (k.pa / 2 ^ 28) (k.pa / 2 ^ 24 % 16) with
    | none => some (s.answer k 0x3A 1 [])
    | some w => some ((s.modWg w.uid (Wg.countAttach (k.misc % 16) false)).answer k 0x3A 0 [])))

/-! ## Answers from a member's device (R437, R445) -/

/-- The team that stays at an instruction for a request takes a scalar with it. -/
def State.scalarTo (s : State) (x : Transaction) (v : Word) : State :=
  if x.lane = 0 then s
  else
    s.mapTeams (fun t => if t.live && (match t.service with
      | some a => a.asked.contains (x.tag, 9)
      | none => false) then t.sset (x.lane - 1) v else t)

/-- Teams that stay for a request keep a trap for their next boundary. -/
def State.keepFor (s : State) (x : Transaction) (t : Trap) : State :=
  s.mapTeams (fun y => if y.live && (match y.service with
    | some a => a.asked.contains (x.tag, 9)
    | none => false) then y.keepTrap t else y)

/-- The attach or detach that a team waits for is answered. -/
def State.attachAnswered (s : State) (x : Transaction) (gone : Bool) : State :=
  match x.load with
  | none => s
  | some u => s.modTeam u (fun t => { t with park := match t.park with
      | .attach m none => .attach m (some gone)
      | .detach m false => .detach m true
      | p => p })

/-- The answer to a barrier operation (R217, R256, R259). -/
def State.barrierAnswered (s : State) (x : Transaction) (status : Nat) (v : Word) : State :=
  match x.resend.misc % 2 ^ 16 with
  | 4 => if status = 3 then s.failTxn x (tBAROVER 0) else ((s.scalarTo x v).dropTxn x).goOn x.tag
  | 2 => (((if status = 3 then s.keepFor x (tBAROVER 0) else s).scalarTo x v).dropTxn x).goOn x.tag
  | 5 =>
    let team := x.load.getD 0
    let wg := ((s.team? team).map Team.wg).getD 0
    let num := leNat x.resend.payload / 65536 % 65536
    let s := s.dropTxn x
    if status = 4 then s.batchErr team wg (tBARGEN num) else if status = 3 then s.batchErr team wg (tBAROVER num) else s
  | _ => ((s.scalarTo x v).dropTxn x).goOn x.tag

/-- A read of a window word for a batch: its generation is captured (R217). -/
def State.captureGen (s : State) (tag w : Nat) : State :=
  { s with batches := s.batches.map (fun (b : Batch) => if b.genTag = some tag then { b with gen := bGen w, genTag := none } else b) }

/-- Transfers into a member's window whose writes are all answered are done (R207). -/
def State.sentDone (s : State) (x : Transaction) : State :=
  if x.write = [] then s
  else
    { s with xfers := s.xfers.map (fun (y : Xfer) =>
        if y.tags.contains x.tag then
          let tags := y.tags.filter (fun t => decide (t ≠ x.tag))
          { y with tags := tags, done := decide (tags = []) }
        else y) }

/-- What an atomic leaves at its place, from the old value; a read leaves what it has found. -/
def Load.leftValue (l : Load) (old : Nat) : Nat :=
  match l.kind with
  | .atomic op ty b c => atomicNew op ty old b.toNat c.toNat
  | .bound op ty b c _ => atomicNew op ty old b.toNat c.toNat
  | _ => old

/-- What this device knows of a member's window from the answer to a load or atomic there (R159). -/
def State.seeWindow (s : State) (fed : List Load) (bytes : Nat) : State :=
  fed.foldl (fun s l => s.ownView (locId l.loc) l.loc (cellsFrom l.loc (leBytes l.size (l.leftValue (bytes % 256 ^ l.size))))) s

/-- An atomic or reduction of this device has been performed at a member's window: bindings here learn of it (R157, R159). -/
def State.wroteWindow (s : State) (x : Transaction) (fed : List Load) (bytes : Nat) : State :=
  let wg := locId (x.line * 128)
  match fed.head?, x.write.head? with
  | some l, _ => (s.seeWindow fed bytes).reachWindow wg x.line l.team l.ownKey []
  | none, some w => (s.loseView wg (x.line * 128 + x.resend.pa % 128) x.resend.payload.length).reachWindow wg x.line w.team w.own []
  | none, none => s

/-- An answer that the request has been performed. -/
def State.windowDone (s : State) (x : Transaction) (k : Packet) : State :=
  let bytes := leNat k.payload
  let fed := s.loads.filter x.feeds
  match x.op with
  | 0x37 =>
    let s := ((s.dropTxn x).seeWindow fed bytes).feedLoads x (fun _ => bytes)
    ((s.stageTag x.tag (fun y => bytes % 256 ^ y.size)).captureGen x.tag bytes).goOn x.tag
  | 0x39 =>
    let s := ((s.dropTxn x).wroteWindow x fed bytes).feedLoads x (fun l => l.atomicValue (bytes % 256 ^ l.size))
    (s.sentDone x).goOn x.tag
  | _ => ((s.dropTxn x).sentDone x).goOn x.tag

/-- WINDOW_ANSWER (R437, R439, R440, R445). -/
def execWindowAnswer (s : State) : Host.Outcome State Fault Refusal :=
  .next (s.onPacket 0x3A (fun k s => some (match s.answered k with
    | none => s
    | some x =>
      let status := k.misc % 16
      if x.op = 0x34 ∨ x.op = 0x35 then (s.dropTxn x).attachAnswered x (status = 1)
      else if status = 1 then s.failTxn x (tHANKGONE (memberOf (x.line * 128)))
      else if status = 2 then s.failTxn x tBARCLOB
      else if x.op = 0x3C then s.barrierAnswered x status (BitVec.ofNat 32 (leNat k.payload))
      else s.windowDone x k)))

/-! ## Departure and pre-emption (R443, R444) -/

/-- Fields of a packet of the placement and departure protocols. -/
def msgMember (k : Packet) : Nat := k.misc % 16
/-- The attempt. -/
def msgAttempt (k : Packet) : Nat := k.misc / 16 % 2 ^ 12
/-- The key. -/
def msgKey (k : Packet) : Nat := k.misc / 2 ^ 16
/-- The hank. -/
def msgHank (k : Packet) : Nat := k.pa / 2 ^ 28

/-- DEPARTURE_NOTICE (R444): the member is departed; the origin counts its end. A notice of an end without departure
comes to the origin in the same form (log entry 14). -/
def execDepartureNotice (s : State) : Host.Outcome State Fault Refusal :=
  .next (s.onPacket 0x36 (fun k s =>
    let x := leNat k.payload
    let s := if msgAttempt k = 0 then s.departMember (msgKey k) (msgHank k) (msgMember k) else s
    some (match s.keyLaunch (msgKey k) with
      | some l => s.memberEnded l.id (msgHank k) (msgMember k) (x % 256) (x / 256 % 256)
      | none => s)))

/-- PREEMPT_HANK (R443). -/
def execPreemptHank (s : State) : Host.Outcome State Fault Refusal :=
  .next (s.onPacket 0x3B (fun k s =>
    some (match s.memberHere (msgKey k) (msgHank k) (msgMember k) with
      | some w => s.preempt w.uid
      | none => s)))

/-! ## Drain hold (R435) -/

/-- What names a hank's member among drain holds. -/
def holdName (key hank m : Nat) : Nat := (key * 2 ^ 16 + hank) * 16 + m

/-- Whether a workgroup would be pre-empted for a hank of a priority. -/
def Wg.yieldsTo (prio : Nat) (w : Wg) : Bool := decide (w.prio < prio) && w.hank.isNone

/-- What would be in use on a core without the workgroups of lower priority that are no hank members. -/
def State.usedWithout (s : State) (core prio : Nat) : Needs :=
  let a := ((s.wgs.filter (fun w => w.core == core && w.holdsCore && !w.yieldsTo prio)).map s.wgNeeds).foldl Needs.add ⟨0, 0, 0, 0⟩
  (s.reservedNeeds core).foldl Needs.add a

/-- What is missing on a core for needs: the shares of its capacities (log entry 20). -/
def State.shortfall (s : State) (core : Nat) (n : Needs) : Nat :=
  let u := s.used core
  (u.teams + n.teams - 32) * 786432 / 32 + (u.regs + n.regs - 2097152) * 786432 / 2097152 + (u.store + n.store - 786432) +
    (u.sems + n.sems - 64) * 786432 / 64

/-- The target core of a hank's member (R435): the least shortfall, the lowest index. -/
def State.holdTarget (s : State) (l : Launch) : Option Nat :=
  ((List.range 192).filter (fun c => s.coreOn c && l.needs.fits (s.usedWithout c l.prio))).foldl (fun r c =>
    match r with
    | none => some c
    | some x => if s.shortfall c l.needs < s.shortfall x l.needs then some c else some x) none

/-- Whether a drain hold serves an older hank than another: of one origin the earlier launch and hank; of different origins the hold
that stands keeps its core (log entry 20). -/
def olderHold (a b : Nat) : Bool := a / 2 ^ 36 == b / 2 ^ 36 && decide (a / 16 < b / 16)

/-- A target core is put in drain hold; one that serves an older hank keeps it (R435). -/
def State.holdFor (s : State) (l : Launch) (key hank m : Nat) : State :=
  let name := holdName key hank m
  if s.cores.any (fun c => c.2.drainHold == some name) then s
  else
    match s.holdTarget l with
    | none => s
    | some c => if (s.core c).drainHold.any (fun n => !olderHold name n) then s else s.setCore c { s.core c with drainHold := some name }

/-- The workgroups of lower priority on a member's target core are pre-empted. -/
def State.preemptHeld (s : State) (l : Launch) (key hank m : Nat) : State :=
  let cs := (s.cores.filter (fun c => c.2.drainHold == some (holdName key hank m))).map (fun c => c.1)
  (s.wgs.filter (fun w => cs.contains w.core && w.phase == .resident && w.yieldsTo l.prio)).foldl (fun s w => s.preempt w.uid) s

/-- A hank's target cores leave drain hold. -/
def State.endHolds (s : State) (key hank : Nat) : State :=
  { s with cores := s.cores.map (fun (c : Nat × Core) =>
      if c.2.drainHold.any (fun n => n / 16 == key * 2 ^ 16 + hank) then (c.1, { c.2 with drainHold := none }) else c) }

/-! ## Placement at a member's device (R434, R436, R443) -/

/-- A member of so many teams, which takes so many backing slots, is tendered under a reserve packet: announced, offered to system
software, or refused by its context's budgets; nothing while eight announcements are in flight (R407, R434, R436). -/
def State.reserve (s : State) (k : Packet) (l : Launch) (teams slots : Nat) : Option State :=
  let m := msgMember k
  let purpose : AnnFor := .hank (msgKey k / 2 ^ 16) (msgAttempt k) (msgKey k) (msgHank k) m
  let byHost := (s.ctx k.ctx).assist.getLsbD 4
  if !s.budgetsPass k.ctx teams || !s.slotsLeft k.ctx slots then
    some (s.answerReserve k.ctx (msgKey k / 2 ^ 16) (msgAttempt k) (msgKey k) (msgHank k) m 1)
  else if !byHost && s.inFlightFull then none
  else some (s.announce l (msgHank k * l.hank + m) purpose teams byHost)

/-- HANK_RESERVE (R434). TAG says that the hank is restored, and which deadlines have passed (log entry 14). -/
def execHankReserve (s : State) : Host.Outcome State Fault Refusal :=
  .next (s.onPacket 0x30 (fun k s =>
    let l := launchFrom k.payload k.ctx (msgKey k / 2 ^ 16) (msgKey k % 2 ^ 16)
    let m := msgMember k
    if !(s.ctx k.ctx).valid then
      some (s.answerReserve k.ctx (msgKey k / 2 ^ 16) (msgAttempt k) (msgKey k) (msgHank k) m 2)
    else
      let s := if k.tag / 2 % 2 = 1 then s.holdFor l (msgKey k) (msgHank k) m else s
      let s := if k.tag / 4 % 2 = 1 then s.preemptHeld l (msgKey k) (msgHank k) m else s
      if k.tag % 2 = 1 then
        match s.savedMember (msgKey k) (msgHank k) m with
        | some w => s.reserve k l (s.restoreTeams w) 0
        | none => some (s.answerReserve k.ctx (msgKey k / 2 ^ 16) (msgAttempt k) (msgKey k) (msgHank k) m 1)
      else s.reserve k l l.teams l.teams))

/-- Whether a reservation is the one that a packet speaks of. -/
def Reservation.named (r : Reservation) (k : Packet) : Bool :=
  r.origin == msgKey k / 2 ^ 16 && r.attempt == msgAttempt k && r.hank == msgHank k && r.member == msgMember k &&
    r.launch.origin == some (msgKey k / 2 ^ 16, msgKey k % 2 ^ 16)

/-- The launch here that a member's workgroup belongs to: the origin's own, or a copy of it. -/
def State.memberLaunch (s : State) (key : Nat) (l : Launch) : State × Launch :=
  match s.keyLaunch key with
  | some x => (s, x)
  | none =>
    match s.launches.find? (fun x => x.origin == l.origin && x.ctx == l.ctx) with
    | some x => (s, x)
    | none =>
      let x := { l with id := s.nextUid }
      ({ s with nextUid := s.nextUid + 1, launches := s.launches ++ [x] }, x)

/-- A hank as a new member sees it (R433). -/
def hankInfo (key hank m : Nat) (l : Launch) : HankInfo where
  key := key
  hank := hank
  size := l.hank
  member := m
  hexp := l.hexp
  devices := (List.range l.hank).map l.deviceOf
  wgs := List.replicate l.hank none
  departed := []
  attachFrom := List.replicate l.hank 0

/-- A reserved saved member comes back, and with it its mates, each to the core that is reserved for it (R319, R443). -/
def State.restoreReserved (s : State) (w : Wg) (r : Reservation) : State :=
  r.mates.foldl (fun s m =>
    match (s.wg? m.1).filter (fun x => x.phase == .saved) with
    | some x => s.restoreOnto x m.2
    | none => s) (s.restoreOnto w r.core)

/-- HANK_COMMIT (R434): the reserved core admits its member with the class record that its announcement kept (R325), or the member is
restored (R443). -/
def execHankCommit (s : State) : Host.Outcome State Fault Refusal :=
  .next (s.onPacket 0x32 (fun k s =>
    match s.fab.reserved.find? (fun r => r.named k) with
    | none => some s
    | some r =>
      let rest := s.fab.reserved.filter (fun (x : Reservation) => decide (x ≠ r))
      let s := { s with fab := { s.fab with reserved := rest } }
      let s := s.endHolds (msgKey k) (msgHank k)
      match s.savedMember (msgKey k) (msgHank k) r.member with
      | some w => some (s.restoreReserved w r)
      | none =>
        let q := s.memberLaunch (msgKey k) r.launch
        some (q.1.admitWg q.2 (r.hank * q.2.hank + r.member) r.core r.cls
          (some (hankInfo (msgKey k) r.hank r.member q.2)))))

/-- HANK_RELEASE (R434): the reservation or the tender of a member is dropped. -/
def execHankRelease (s : State) : Host.Outcome State Fault Refusal :=
  .next (s.onPacket 0x33 (fun k s =>
    let mine (a : Ann) : Bool := match a.purpose with
      | .hank o att key hank m => o == msgKey k / 2 ^ 16 && att == msgAttempt k && key == msgKey k && hank == msgHank k && m == msgMember k
      | _ => false
    let s := { s with anns := s.anns.filter (fun (a : Ann) => !mine a) }
    let s := { s with fab := { s.fab with reserved := s.fab.reserved.filter (fun r => !r.named k) } }
    let s := if k.tag / 8 % 2 = 1 then s.endHolds (msgKey k) (msgHank k) else s
    some s))

/-! ## Attempts at the origin (R434, R435, R443) -/

/-- Replaces an attempt. -/
def State.setAttempt (s : State) (a : Attempt) (b : Option Attempt) : State :=
  { s with fab := { s.fab with attempts := s.fab.attempts.flatMap (fun x => if x = a then b.toList else [x]) } }

/-- Whether an attempt has failed and been released. -/
def Attempt.failed (a : Attempt) : Bool := a.answers.any (fun x => x == some 1 || x == some 2)

/-- Every member has answered reserved: commit goes out (R434). The origin then counts the members' ends. -/
def State.commitAttempt (s : State) (l : Launch) (a : Attempt) : State :=
  let s := (List.range l.hank).foldl (fun s m =>
    s.hankMsg (l.deviceOf m) l.ctx 0x32 0 (hankKey s.fab.dev l.id) a.id m a.hank []) s
  if a.restore then s.setAttempt a none
  else
    (s.setAttempt a (some { a with active := false, answers := List.replicate l.hank none, target := none })).modLaunch l.id
      (fun l => { l with next := l.next + l.hank })

/-- A member's answer: reserved, none, or its context not valid (R434). -/
def State.noteAnswer (s : State) (l : Launch) (a : Attempt) (m result : Nat) : State :=
  if a.failed || a.answers.getD m (some 0) ≠ none then s
  else
    let b := { a with answers := a.answers.set m (some result) }
    let s := s.setAttempt a (some b)
    if result = 0 then (if b.answers.all (fun x => x == some 0) then s.commitAttempt l b else s)
    else if result = 2 && !b.restore then
      ((s.sendReleases l b 8).setAttempt b none).modLaunch l.id (fun l => { l with
        stopped := true
        status := if l.status = 0 then 6 else l.status })
    else s.sendReleases l b 0

/-- HANK_RESERVE_ANSWER (R434). -/
def execHankReserveAnswer (s : State) : Host.Outcome State Fault Refusal :=
  .next (s.onPacket 0x31 (fun k s =>
    match s.keyLaunch (msgKey k) with
    | none => some s
    | some l =>
      match s.fab.attempts.find? (fun a => a.active && a.launch == l.id && a.hank == msgHank k && a.id % 2 ^ 12 == msgAttempt k) with
      | none => some s
      | some a => some (s.noteAnswer l a (msgMember k) (leNat k.payload % 4))))

/-- Acts on the selected attempt that is not committed, and its launch. -/
def State.onAttempt (s : State) (go : Launch → Attempt → State) : State :=
  match s.fab.attempts[s.sel]? with
  | none => s
  | some a =>
    match s.launch? a.launch with
    | none => s
    | some l => if a.active then go l a else s

/-- HANK_RESERVE_TIMEOUT (R434): a member has not answered within 64 µs. -/
def execHankReserveTimeout (s : State) : Host.Outcome State Fault Refusal :=
  .next (s.onAttempt (fun l a =>
    if a.failed then s
    else
      let b := { a with answers := a.answers.map (fun x => if x.isNone then some 1 else x) }
      (s.setAttempt a (some b)).sendReleases l b 0))

/-- The mark of a reserve: restored or not, and the deadlines passed. -/
def Attempt.mark (a : Attempt) : Nat :=
  (if a.restore then 1 else 0) + (match a.target with
    | none => 0
    | some 1 => 2
    | some _ => 6)

/-- The members of a hank known here to have departed. -/
def State.departedOf (s : State) (l : Launch) (hank : Nat) : List Nat :=
  (s.wgs.flatMap (fun w => match w.hank with
    | some h => if h.key == hankKey s.fab.dev l.id && h.hank == hank then h.departed else []
    | none => [])).eraseDups

/-- HANK_RETRY (R434): the attempt is repeated. -/
def execHankRetry (s : State) : Host.Outcome State Fault Refusal :=
  .next (s.onAttempt (fun l a =>
    if !a.failed then s
    else
      let gone := if a.restore then s.departedOf l a.hank else []
      let b := { a with
        id := s.nextUid
        answers := (List.range l.hank).map (fun m => if gone.contains m then some 0 else none) }
      let s := ({ s with nextUid := s.nextUid + 1 }).setAttempt a (some b)
      ((List.range l.hank).filter (fun m => !gone.contains m)).foldl (fun s m =>
        s.hankMsg (l.deviceOf m) l.ctx 0x30 b.mark (hankKey s.fab.dev l.id) b.id m b.hank (reservePayload l)) s))

/-- The members on this device that the last attempt did not reserve. -/
def State.unreserved (s : State) (l : Launch) (a : Attempt) : List Nat :=
  (List.range l.hank).filter (fun m => l.deviceOf m == s.fab.dev && a.answers.getD m none != some 0)

/-- DRAIN_HOLD (R435): a hank pending for 1 ms. Other devices learn it with the next reserve. -/
def execDrainHold (s : State) : Host.Outcome State Fault Refusal :=
  .next (s.onAttempt (fun l a =>
    if a.target.isSome then s
    else
      (s.unreserved l a).foldl (fun s m => s.holdFor l (hankKey s.fab.dev l.id) a.hank m)
        (s.setAttempt a (some { a with target := some 1 }))))

/-- DRAIN_PREEMPT (R435): a hank pending for 10 ms. -/
def execDrainPreempt (s : State) : Host.Outcome State Fault Refusal :=
  .next (s.onAttempt (fun l a =>
    if a.target ≠ some 1 then s
    else
      (s.unreserved l a).foldl (fun s m => s.preemptHeld l (hankKey s.fab.dev l.id) a.hank m)
        (s.setAttempt a (some { a with target := some 2 }))))

/-- HANK_ABANDON (R435): a hank pending for 50 ms; never one that is restored. -/
def execHankAbandon (s : State) : Host.Outcome State Fault Refusal :=
  .next (s.onAttempt (fun l a =>
    if a.restore then s
    else
      ((s.sendReleases l a 8).setAttempt a none).modLaunch l.id (fun l => { l with
        stopped := true
        status := if l.status = 0 then 5 else l.status })))

end Sys2Proof.Machine
end

