-- ==== Sys2Proof/Machine/Stray.lean ====
section
/-! DEFINITION. Words that name no instruction: an opcode outside the map, or an unused field that does not hold 124 (R17,
R33, R36). -/

namespace Sys2Proof.Machine

/-- UNLISTED_OPCODE (R33). -/
def execUnlistedOpcode (_w : Word) (s : State) : Host.Outcome State Fault Refusal :=
  issue { spindle := true } Uses.none (fun _ _ => [(none, tILLEGAL)]) (fun s => .done s) s

/-- Whether an opcode lies in one of the ranges. -/
def opIn (op : Nat) (ranges : List (Nat × Nat)) : Bool := ranges.any (fun r => decide (r.1 ≤ op) && decide (op ≤ r.2))

/-- What an opcode with an unused field demands whatever its operand codes: the place in the clause (R22), the flag class
(R26), what a spindle may use (R200) and what a region forbids (R265). -/
def opcodeSpec (op : Nat) : Spec where
  control := opIn op [(0x006, 0x008), (0x080, 0x08A)]
  whole := true
  cls := if opIn op [(0x119, 0x11B), (0x128, 0x12D), (0x208, 0x20E), (0x242, 0x242), (0x247, 0x247), (0x348, 0x349)] then 2 else 0
  forbidden :=
    if opIn op [(0x006, 0x006), (0x085, 0x08A), (0x150, 0x150)] then 2
    else if opIn op [(0x119, 0x11B), (0x128, 0x12D), (0x140, 0x149), (0x200, 0x217), (0x260, 0x266), (0x348, 0x349)] then 1
    else 0
  spindle := opIn op [(0x026, 0x026), (0x080, 0x080), (0x084, 0x084), (0x08A, 0x08A), (0x208, 0x20E), (0x215, 0x216),
    (0x242, 0x242), (0x247, 0x247)]

/-- Whether an opcode with an unused field is ILLEGAL where it stands: SRET outside handler level, JOIN and RET with no
entry, RCOMMIT and RABORT outside a region, copies on the matrix spindle, matrix operations on the stream spindle (R81,
R119, R122, R200, R276). -/
def State.strayIllegal (s : State) (t : Team) (op : Nat) : Bool :=
  (op == 0x008 && !t.hlevel) || (op == 0x086 && (t.join (some t.pathRec)).isNone) || (op == 0x089 && t.ret.isNone) ||
    (op == 0x151 && !t.inRegion && !t.committing) || (op == 0x152 && !t.inRegion) ||
    (opIn op [(0x208, 0x20E)] && s.spindleEng == some 0) || (opIn op [(0x242, 0x242), (0x247, 0x247)] && s.spindleEng == some 1)

/-- UNUSED_FIELD_NOT_Z (R17): OPERAND, unless ILLEGAL holds as well, which is lower (R36). -/
def execUnusedFieldNotZ (w : Word) (s : State) : Host.Outcome State Fault Refusal :=
  issue (opcodeSpec (opcodeOf w)) Uses.none
    (fun t s => whenCond (s.strayIllegal t (opcodeOf w)) tILLEGAL ++ [(none, tOPERAND)]) (fun s => .done s) s

end Sys2Proof.Machine
end

