-- ==== Sys2Proof/Machine/Dispatch.lean ====
section
/-! DEFINITION. One arm for each instruction, each a direct call of its meaning. -/

namespace Sys2Proof.Machine

def exec (i : Instr) (s : State) : Host.Outcome State Fault Refusal :=
  match i with
  | .nop => Sys2Proof.Machine.execNop s
  | .mode value => Sys2Proof.Machine.execMode value s
  | .mguard value => Sys2Proof.Machine.execMguard value s
  | .getc d a b => Sys2Proof.Machine.execGetc d a b s
  | .setc a b => Sys2Proof.Machine.execSetc a b s
  | .yield => Sys2Proof.Machine.execYield s
  | .trap b => Sys2Proof.Machine.execTrap b s
  | .brk => Sys2Proof.Machine.execBrk s
  | .sret => Sys2Proof.Machine.execSret s
  | .hcall d a b => Sys2Proof.Machine.execHcall d a b s
  | .tlbinv a b => Sys2Proof.Machine.execTlbinv a b s
  | .add d a b => Sys2Proof.Machine.execAdd d a b s
  | .sub d a b => Sys2Proof.Machine.execSub d a b s
  | .mul d a b => Sys2Proof.Machine.execMul d a b s
  | .mulh d a b => Sys2Proof.Machine.execMulh d a b s
  | .mac d a b => Sys2Proof.Machine.execMac d a b s
  | .div d a b => Sys2Proof.Machine.execDiv d a b s
  | .rem d a b => Sys2Proof.Machine.execRem d a b s
  | .min d a b => Sys2Proof.Machine.execMin d a b s
  | .max d a b => Sys2Proof.Machine.execMax d a b s
  | .abs d a => Sys2Proof.Machine.execAbs d a s
  | .neg d a => Sys2Proof.Machine.execNeg d a s
  | .and d a b => Sys2Proof.Machine.execAnd d a b s
  | .or d a b => Sys2Proof.Machine.execOr d a b s
  | .xor d a b => Sys2Proof.Machine.execXor d a b s
  | .shl d a b => Sys2Proof.Machine.execShl d a b s
  | .shr d a b => Sys2Proof.Machine.execShr d a b s
  | .sra d a b => Sys2Proof.Machine.execSra d a b s
  | .clz d a => Sys2Proof.Machine.execClz d a s
  | .popc d a => Sys2Proof.Machine.execPopc d a s
  | .bfx d a b => Sys2Proof.Machine.execBfx d a b s
  | .bfi d a b => Sys2Proof.Machine.execBfi d a b s
  | .sel d a b => Sys2Proof.Machine.execSel d a b s
  | .mov d a => Sys2Proof.Machine.execMov d a s
  | .cvt d a b => Sys2Proof.Machine.execCvt d a b s
  | .rndi d a => Sys2Proof.Machine.execRndi d a s
  | .rcp d a => Sys2Proof.Machine.execRcp d a s
  | .rsq d a => Sys2Proof.Machine.execRsq d a s
  | .sqrt d a => Sys2Proof.Machine.execSqrt d a s
  | .exp2 d a => Sys2Proof.Machine.execExp2 d a s
  | .log2 d a => Sys2Proof.Machine.execLog2 d a s
  | .sinp d a => Sys2Proof.Machine.execSinp d a s
  | .cosp d a => Sys2Proof.Machine.execCosp d a s
  | .cmpeq d a b => Sys2Proof.Machine.execCmpeq d a b s
  | .cmpne d a b => Sys2Proof.Machine.execCmpne d a b s
  | .cmplt d a b => Sys2Proof.Machine.execCmplt d a b s
  | .cmple d a b => Sys2Proof.Machine.execCmple d a b s
  | .cmpun d a b => Sys2Proof.Machine.execCmpun d a b s
  | .pand d a b => Sys2Proof.Machine.execPand d a b s
  | .por d a b => Sys2Proof.Machine.execPor d a b s
  | .pxor d a b => Sys2Proof.Machine.execPxor d a b s
  | .pnot d a => Sys2Proof.Machine.execPnot d a s
  | .vany d a => Sys2Proof.Machine.execVany d a s
  | .vall d a => Sys2Proof.Machine.execVall d a s
  | .ballot d a b => Sys2Proof.Machine.execBallot d a b s
  | .unpkQn4 d a b => Sys2Proof.Machine.execUnpkQn4 d a b s
  | .unpkF4 d a b => Sys2Proof.Machine.execUnpkF4 d a b s
  | .unpkE4m3 d a b => Sys2Proof.Machine.execUnpkE4m3 d a b s
  | .unpkE5m2 d a b => Sys2Proof.Machine.execUnpkE5m2 d a b s
  | .unpkI8 d a b => Sys2Proof.Machine.execUnpkI8 d a b s
  | .unpkBf d a b => Sys2Proof.Machine.execUnpkBf d a b s
  | .unpkH d a b => Sys2Proof.Machine.execUnpkH d a b s
  | .packQn4 d a b => Sys2Proof.Machine.execPackQn4 d a b s
  | .packF4 d a b => Sys2Proof.Machine.execPackF4 d a b s
  | .packE4m3 d a b => Sys2Proof.Machine.execPackE4m3 d a b s
  | .packE5m2 d a b => Sys2Proof.Machine.execPackE5m2 d a b s
  | .packI8 d a b => Sys2Proof.Machine.execPackI8 d a b s
  | .packBf d a b => Sys2Proof.Machine.execPackBf d a b s
  | .packH d a b => Sys2Proof.Machine.execPackH d a b s
  | .xln d a b => Sys2Proof.Machine.execXln d a b s
  | .xlnx d a b => Sys2Proof.Machine.execXlnx d a b s
  | .rdlane d a b => Sys2Proof.Machine.execRdlane d a b s
  | .tsum d a => Sys2Proof.Machine.execTsum d a s
  | .tmin d a => Sys2Proof.Machine.execTmin d a s
  | .tmax d a => Sys2Proof.Machine.execTmax d a s
  | .tscan d a => Sys2Proof.Machine.execTscan d a s
  | .br b => Sys2Proof.Machine.execBr b s
  | .brc d b => Sys2Proof.Machine.execBrc d b s
  | .brany d b => Sys2Proof.Machine.execBrany d b s
  | .brall d b => Sys2Proof.Machine.execBrall d b s
  | .loop d b => Sys2Proof.Machine.execLoop d b s
  | .mark b => Sys2Proof.Machine.execMark b s
  | .join => Sys2Proof.Machine.execJoin s
  | .call b => Sys2Proof.Machine.execCall b s
  | .calli a => Sys2Proof.Machine.execCalli a s
  | .ret => Sys2Proof.Machine.execRet s
  | .exit => Sys2Proof.Machine.execExit s
  | .ldb d a b => Sys2Proof.Machine.execLdb d a b s
  | .ldh d a b => Sys2Proof.Machine.execLdh d a b s
  | .ldw d a b => Sys2Proof.Machine.execLdw d a b s
  | .ldd d a b => Sys2Proof.Machine.execLdd d a b s
  | .ldq d a b => Sys2Proof.Machine.execLdq d a b s
  | .stb d a b => Sys2Proof.Machine.execStb d a b s
  | .sth d a b => Sys2Proof.Machine.execSth d a b s
  | .stw d a b => Sys2Proof.Machine.execStw d a b s
  | .std d a b => Sys2Proof.Machine.execStd d a b s
  | .stq d a b => Sys2Proof.Machine.execStq d a b s
  | .ldwa d a b => Sys2Proof.Machine.execLdwa d a b s
  | .ldda d a b => Sys2Proof.Machine.execLdda d a b s
  | .stwl d a b => Sys2Proof.Machine.execStwl d a b s
  | .stdl d a b => Sys2Proof.Machine.execStdl d a b s
  | .lds d a b => Sys2Proof.Machine.execLds d a b s
  | .ldsd d a b => Sys2Proof.Machine.execLdsd d a b s
  | .pft d a b => Sys2Proof.Machine.execPft d a b s
  | .cflush a b => Sys2Proof.Machine.execCflush a b s
  | .cclean a b => Sys2Proof.Machine.execCclean a b s
  | .cinv a b => Sys2Proof.Machine.execCinv a b s
  | .fencea => Sys2Proof.Machine.execFencea s
  | .fencer => Sys2Proof.Machine.execFencer s
  | .fences => Sys2Proof.Machine.execFences s
  | .atadd d a b => Sys2Proof.Machine.execAtadd d a b s
  | .atand d a b => Sys2Proof.Machine.execAtand d a b s
  | .ator d a b => Sys2Proof.Machine.execAtor d a b s
  | .atxor d a b => Sys2Proof.Machine.execAtxor d a b s
  | .atmin d a b => Sys2Proof.Machine.execAtmin d a b s
  | .atmax d a b => Sys2Proof.Machine.execAtmax d a b s
  | .atxch d a b => Sys2Proof.Machine.execAtxch d a b s
  | .atcas d a b => Sys2Proof.Machine.execAtcas d a b s
  | .rmadd a b => Sys2Proof.Machine.execRmadd a b s
  | .rmand a b => Sys2Proof.Machine.execRmand a b s
  | .rmor a b => Sys2Proof.Machine.execRmor a b s
  | .rmxor a b => Sys2Proof.Machine.execRmxor a b s
  | .rmmin a b => Sys2Proof.Machine.execRmmin a b s
  | .rmmax a b => Sys2Proof.Machine.execRmmax a b s
  | .bld d a b => Sys2Proof.Machine.execBld d a b s
  | .bldn d a b => Sys2Proof.Machine.execBldn d a b s
  | .bldd d a b => Sys2Proof.Machine.execBldd d a b s
  | .unbind d => Sys2Proof.Machine.execUnbind d s
  | .unball => Sys2Proof.Machine.execUnball s
  | .bwait d a b => Sys2Proof.Machine.execBwait d a b s
  | .bchg d a => Sys2Proof.Machine.execBchg d a s
  | .badd d a b => Sys2Proof.Machine.execBadd d a b s
  | .bcas d a b => Sys2Proof.Machine.execBcas d a b s
  | .bxch d a b => Sys2Proof.Machine.execBxch d a b s
  | .rbegin a => Sys2Proof.Machine.execRbegin a s
  | .rcommit => Sys2Proof.Machine.execRcommit s
  | .rabort => Sys2Proof.Machine.execRabort s
  | .rldw d a b => Sys2Proof.Machine.execRldw d a b s
  | .rldd d a b => Sys2Proof.Machine.execRldd d a b s
  | .fork d a b => Sys2Proof.Machine.execFork d a b s
  | .rdv d a => Sys2Proof.Machine.execRdv d a s
  | .ekill a => Sys2Proof.Machine.execEkill a s
  | .cpy4 a b => Sys2Proof.Machine.execCpy4 a b s
  | .cpy8 a b => Sys2Proof.Machine.execCpy8 a b s
  | .cpy16 a b => Sys2Proof.Machine.execCpy16 a b s
  | .cra4 a b => Sys2Proof.Machine.execCra4 a b s
  | .cra8 a b => Sys2Proof.Machine.execCra8 a b s
  | .cra16 a b => Sys2Proof.Machine.execCra16 a b s
  | .close d a b => Sys2Proof.Machine.execClose d a b s
  | .waitb a => Sys2Proof.Machine.execWaitb a s
  | .semset a b => Sys2Proof.Machine.execSemset a b s
  | .seminc a b => Sys2Proof.Machine.execSeminc a b s
  | .semacq a b => Sys2Proof.Machine.execSemacq a b s
  | .semtry d a b => Sys2Proof.Machine.execSemtry d a b s
  | .obres d a => Sys2Proof.Machine.execObres d a s
  | .obfree a => Sys2Proof.Machine.execObfree a s
  | .mzero d => Sys2Proof.Machine.execMzero d s
  | .mma d a b => Sys2Proof.Machine.execMma d a b s
  | .mmap d a b => Sys2Proof.Machine.execMmap d a b s
  | .ldacc d a b => Sys2Proof.Machine.execLdacc d a b s
  | .stacc d a b => Sys2Proof.Machine.execStacc d a b s
  | .mtrq a b => Sys2Proof.Machine.execMtrq a b s
  | .barinit a b => Sys2Proof.Machine.execBarinit a b s
  | .arrive d a b => Sys2Proof.Machine.execArrive d a b s
  | .await d a b => Sys2Proof.Machine.execAwait d a b s
  | .arrwait d a b => Sys2Proof.Machine.execArrwait d a b s
  | .barinv a => Sys2Proof.Machine.execBarinv a s
  | .park d b => Sys2Proof.Machine.execPark d b s
  | .wake a => Sys2Proof.Machine.execWake a s
  | .xch d a b => Sys2Proof.Machine.execXch d a b s
  | .tender d a b => Sys2Proof.Machine.execTender d a b s
  | .tclass a b => Sys2Proof.Machine.execTclass a b s
  | .crsw d a b => Sys2Proof.Machine.execCrsw d a b s
  | .crwait d a => Sys2Proof.Machine.execCrwait d a s
  | .handoff a b => Sys2Proof.Machine.execHandoff a b s
  | .take a b => Sys2Proof.Machine.execTake a b s
  | .hattach d a => Sys2Proof.Machine.execHattach d a s
  | .hdetach a => Sys2Proof.Machine.execHdetach a s
  | .hquery d a => Sys2Proof.Machine.execHquery d a s
  | .clauseStart => Sys2Proof.Machine.execClauseStart s
  | .loadDataReturn k w => Sys2Proof.Machine.execLoadDataReturn k w s
  | .storePathDrain => Sys2Proof.Machine.execStorePathDrain s
  | .refreshSteal core bank => Sys2Proof.Machine.execRefreshSteal core bank s
  | .machineError site => Sys2Proof.Machine.execMachineError site s
  | .gets agent line => Sys2Proof.Machine.execGets agent line s
  | .getm agent line => Sys2Proof.Machine.execGetm agent line s
  | .upgrade agent line => Sys2Proof.Machine.execUpgrade agent line s
  | .geth agent line => Sys2Proof.Machine.execGeth agent line s
  | .cleanEvictionNotice agent line => Sys2Proof.Machine.execCleanEvictionNotice agent line s
  | .writeback agent line => Sys2Proof.Machine.execWriteback agent line s
  | .watch agent line => Sys2Proof.Machine.execWatch agent line s
  | .renewal agent line => Sys2Proof.Machine.execRenewal agent line s
  | .invalidation agent line => Sys2Proof.Machine.execInvalidation agent line s
  | .forward agent line => Sys2Proof.Machine.execForward agent line s
  | .recall agent line => Sys2Proof.Machine.execRecall agent line s
  | .acknowledgement agent line => Sys2Proof.Machine.execAcknowledgement agent line s
  | .changeNotice core line => Sys2Proof.Machine.execChangeNotice core line s
  | .leaseExpiry agent line => Sys2Proof.Machine.execLeaseExpiry agent line s
  | .renewalDue agent line => Sys2Proof.Machine.execRenewalDue agent line s
  | .leaseSweep line => Sys2Proof.Machine.execLeaseSweep line s
  | .directoryEntryUncorrectable line => Sys2Proof.Machine.execDirectoryEntryUncorrectable line s
  | .rebalanceEpoch die => Sys2Proof.Machine.execRebalanceEpoch die s
  | .carveEpoch slice counts => Sys2Proof.Machine.execCarveEpoch slice counts s
  | .regionSwitch => Sys2Proof.Machine.execRegionSwitch s
  | .copyTransfer => Sys2Proof.Machine.execCopyTransfer s
  | .batchCompletion => Sys2Proof.Machine.execBatchCompletion s
  | .patrolScrub pa found => Sys2Proof.Machine.execPatrolScrub pa found s
  | .laneCommit team lane => Sys2Proof.Machine.execLaneCommit team lane s
  | .regionTimeout team lane => Sys2Proof.Machine.execRegionTimeout team lane s
  | .bwaitTimeout team => Sys2Proof.Machine.execBwaitTimeout team s
  | .parkTimeout team => Sys2Proof.Machine.execParkTimeout team s
  | .xchtmo team => Sys2Proof.Machine.execXchtmo team s
  | .pairtmo core => Sys2Proof.Machine.execPairtmo core s
  | .spindleProgramStart core eng => Sys2Proof.Machine.execSpindleProgramStart core eng s
  | .spindleProgramEnd core eng => Sys2Proof.Machine.execSpindleProgramEnd core eng s
  | .engineOperationStart core => Sys2Proof.Machine.execEngineOperationStart core s
  | .mmaStrip core => Sys2Proof.Machine.execMmaStrip core s
  | .mmapStart core => Sys2Proof.Machine.execMmapStart core s
  | .pageResponse k ok => Sys2Proof.Machine.execPageResponse k ok s
  | .atsInvalidation ctx va kind => Sys2Proof.Machine.execAtsInvalidation ctx va kind s
  | .placementResponse ctx k value => Sys2Proof.Machine.execPlacementResponse ctx k value s
  | .hcallReply team status => Sys2Proof.Machine.execHcallReply team status s
  | .tailChange => Sys2Proof.Machine.execTailChange s
  | .gateOpen => Sys2Proof.Machine.execGateOpen s
  | .announcement => Sys2Proof.Machine.execAnnouncement s
  | .bid ann core => Sys2Proof.Machine.execBid ann core s
  | .bidWindowClose => Sys2Proof.Machine.execBidWindowClose s
  | .confirm => Sys2Proof.Machine.execConfirm s
  | .withdraw => Sys2Proof.Machine.execWithdraw s
  | .confirmTimeout => Sys2Proof.Machine.execConfirmTimeout s
  | .reAnnounce => Sys2Proof.Machine.execReAnnounce s
  | .childLaunchTake => Sys2Proof.Machine.execChildLaunchTake s
  | .serviceEndWorkgroup wg => Sys2Proof.Machine.execServiceEndWorkgroup wg s
  | .preemption wg => Sys2Proof.Machine.execPreemption wg s
  | .restore wg core => Sys2Proof.Machine.execRestore wg core s
  | .clockThrottle core up => Sys2Proof.Machine.execClockThrottle core up s
  | .thermalShutdown die => Sys2Proof.Machine.execThermalShutdown die s
  | .kickRelease port => Sys2Proof.Machine.execKickRelease port s
  | .kickAcquire port => Sys2Proof.Machine.execKickAcquire port s
  | .takeResume team => Sys2Proof.Machine.execTakeResume team s
  | .hostReadShared port line half => Sys2Proof.Machine.execHostReadShared port line half s
  | .hostReadOwnership port line half => Sys2Proof.Machine.execHostReadOwnership port line half s
  | .hostWriteback port line half data keep => Sys2Proof.Machine.execHostWriteback port line half data keep s
  | .hostDropClean port line half => Sys2Proof.Machine.execHostDropClean port line half s
  | .snoopTimeout port => Sys2Proof.Machine.execSnoopTimeout port s
  | .hostUncachedAccess port pa size wr => Sys2Proof.Machine.execHostUncachedAccess port pa size wr s
  | .contextDescriptorWrite ctx off value service => Sys2Proof.Machine.execContextDescriptorWrite ctx off value service s
  | .bucketTableWrite die bucket value => Sys2Proof.Machine.execBucketTableWrite die bucket value s
  | .coherentWindowWrite port win off value => Sys2Proof.Machine.execCoherentWindowWrite port win off value s
  | .configWrite off value service => Sys2Proof.Machine.execConfigWrite off value service s
  | .directoryDiagnosticRead pa => Sys2Proof.Machine.execDirectoryDiagnosticRead pa s
  | .heaterStep ring => Sys2Proof.Machine.execHeaterStep ring s
  | .heaterCodeWrite ring code => Sys2Proof.Machine.execHeaterCodeWrite ring code s
  | .ringOutOfLock channel wavelength => Sys2Proof.Machine.execRingOutOfLock channel wavelength s
  | .getVersion => Sys2Proof.Machine.execGetVersion s
  | .getCapabilities => Sys2Proof.Machine.execGetCapabilities s
  | .negotiateAlgorithms => Sys2Proof.Machine.execNegotiateAlgorithms s
  | .getDigests => Sys2Proof.Machine.execGetDigests s
  | .getCertificate => Sys2Proof.Machine.execGetCertificate s
  | .challenge => Sys2Proof.Machine.execChallenge s
  | .getMeasurements => Sys2Proof.Machine.execGetMeasurements s
  | .keyExchange => Sys2Proof.Machine.execKeyExchange s
  | .finish => Sys2Proof.Machine.execFinish s
  | .lockInterface ctx => Sys2Proof.Machine.execLockInterface ctx s
  | .run ctx => Sys2Proof.Machine.execRun ctx s
  | .deviceReset => Sys2Proof.Machine.execDeviceReset s
  | .flitData port flit => Sys2Proof.Machine.execFlitData port flit s
  | .flitIdle port flit => Sys2Proof.Machine.execFlitIdle port flit s
  | .flitResync port flit => Sys2Proof.Machine.execFlitResync port flit s
  | .flitRetryRequest port flit => Sys2Proof.Machine.execFlitRetryRequest port flit s
  | .groupFence port flit => Sys2Proof.Machine.execGroupFence port flit s
  | .linkDown port => Sys2Proof.Machine.execLinkDown port s
  | .portUp port => Sys2Proof.Machine.execPortUp port s
  | .pktReadShared => Sys2Proof.Machine.execPktReadShared s
  | .pktReadExclusive => Sys2Proof.Machine.execPktReadExclusive s
  | .pktUpgrade => Sys2Proof.Machine.execPktUpgrade s
  | .pktUncachedRead => Sys2Proof.Machine.execPktUncachedRead s
  | .pktWrite => Sys2Proof.Machine.execPktWrite s
  | .pktAtomic => Sys2Proof.Machine.execPktAtomic s
  | .pktReduction => Sys2Proof.Machine.execPktReduction s
  | .pktRenewal => Sys2Proof.Machine.execPktRenewal s
  | .pktCleanEvictionNotice => Sys2Proof.Machine.execPktCleanEvictionNotice s
  | .pktWriteback => Sys2Proof.Machine.execPktWriteback s
  | .pktData => Sys2Proof.Machine.execPktData s
  | .pktDataAckCount => Sys2Proof.Machine.execPktDataAckCount s
  | .pktAcknowledgement => Sys2Proof.Machine.execPktAcknowledgement s
  | .pktWritePerformed => Sys2Proof.Machine.execPktWritePerformed s
  | .pktError => Sys2Proof.Machine.execPktError s
  | .pktInvalidate => Sys2Proof.Machine.execPktInvalidate s
  | .pktForward => Sys2Proof.Machine.execPktForward s
  | .pktRecall => Sys2Proof.Machine.execPktRecall s
  | .detourRelay => Sys2Proof.Machine.execDetourRelay s
  | .invalidationResend => Sys2Proof.Machine.execInvalidationResend s
  | .transactionTimeout => Sys2Proof.Machine.execTransactionTimeout s
  | .hankReserve => Sys2Proof.Machine.execHankReserve s
  | .hankReserveAnswer => Sys2Proof.Machine.execHankReserveAnswer s
  | .hankCommit => Sys2Proof.Machine.execHankCommit s
  | .hankRelease => Sys2Proof.Machine.execHankRelease s
  | .hankAttach => Sys2Proof.Machine.execHankAttach s
  | .hankDetach => Sys2Proof.Machine.execHankDetach s
  | .departureNotice => Sys2Proof.Machine.execDepartureNotice s
  | .windowRead => Sys2Proof.Machine.execWindowRead s
  | .windowWrite => Sys2Proof.Machine.execWindowWrite s
  | .windowAtomic => Sys2Proof.Machine.execWindowAtomic s
  | .windowAnswer => Sys2Proof.Machine.execWindowAnswer s
  | .preemptHank => Sys2Proof.Machine.execPreemptHank s
  | .windowBarrier => Sys2Proof.Machine.execWindowBarrier s
  | .hankReserveTimeout => Sys2Proof.Machine.execHankReserveTimeout s
  | .hankRetry => Sys2Proof.Machine.execHankRetry s
  | .drainHold => Sys2Proof.Machine.execDrainHold s
  | .drainPreempt => Sys2Proof.Machine.execDrainPreempt s
  | .hankAbandon => Sys2Proof.Machine.execHankAbandon s
  | .unlistedOpcode w => Sys2Proof.Machine.execUnlistedOpcode w s
  | .unusedFieldNotZ w => Sys2Proof.Machine.execUnusedFieldNotZ w s
  | .backInvalidateSnoopAnswer port line half data => Sys2Proof.Machine.execBackInvalidateSnoopAnswer port line half data s
  | .hostPortLinkLoss port => Sys2Proof.Machine.execHostPortLinkLoss port s
  | .lockstepMismatch unit => Sys2Proof.Machine.execLockstepMismatch unit s
  | .endLaunchBySystemSoftware launch => Sys2Proof.Machine.execEndLaunchBySystemSoftware launch s
  | .coreReEnable core => Sys2Proof.Machine.execCoreReEnable core s

end Sys2Proof.Machine
end

