-- ==== Sys2Proof/Machine/Sched.lean ====
section
/-! DEFINITION. What happens next: time, the group schedulers' picks (R184–R186, R368), the steps that hardware takes of
its own, and what is settled between steps (R24, R171, R368, R403, R418). Where several things can happen the agenda says
which, and where it says nothing the choice is free (log entry 3). -/

namespace Sys2Proof.Machine

/-! ## Time (R190, R197, R402) -/

/-- A bandwidth bucket in thousandths of a byte after some ticks: BW bytes per µs, 128 bytes a line, between −DEPTH and
DEPTH (R402). -/
def Context.refillBucket (x : Context) (ticks lines : Nat) : Context :=
  if x.bw = 0 then x
  else
    let d : Int := (x.depth : Nat) * 1000
    let v : Int := x.bucketLevel + (x.bw * ticks : Nat) - (128000 * lines : Nat)
    { x with bucketLevel := max (-d) (min d v) }

/-- Time passes: cycles, ticks of the reference clock, budgets, and leases that it ends (R190, R197, R336, R402). -/
def State.tick (s : State) : State :=
  let c := s.cycle + 1 + Config.stall s.fresh
  let n := Config.ticksElapsed s.fresh
  let k := s.fresh
  (({ s with
    cycle := c
    ticks := s.ticks + BitVec.ofNat 64 n
    ctxs := s.ctxs.map (fun (e : Nat × Context) => (e.1, e.2.refillBucket n (Config.linesMoved k e.1)))
    fresh := s.fresh + 1 } : State).mapTeams (fun t => if t.live then { t with now := c } else t)).expire

/-! ## Readiness (R184) -/

/-- The word that a team executes next, inside a clause. -/
def Team.word? (t : Team) : Option Word := t.clause.bind (fun c => c.words[t.idx]?)

/-- Whether the registers that a waiting BWAIT watches are unbound or have changed (R176): CHG, a change whose bytes have come, or
one in a member's window on another device. -/
def State.bwaitOver (s : State) (t : Team) : Bool :=
  match t.word? with
  | none => false
  | some w =>
    let bs := t.contribLanes.flatMap (fun l => t.watchedAt (aOf w) l)
    bs.isEmpty || bs.any (fun b => b.2.chg || (b.2.pend && !s.unseen t b.2) || s.awayChange t b.2)

/-- What a team's wait says: over, open, or to be tried (its instruction tests for itself what it waits for). -/
inductive Wait where
  | over | open_ | try_
deriving DecidableEq, Repr

/-- How a team's wait stands (R141, R184). -/
def State.wait (s : State) (t : Team) : Wait :=
  let yes (b : Bool) : Wait := if b then .over else .open_
  match t.service with
  | some v => yes (v.asked = [])
  | none =>
    match t.park with
    | .running => .over
    | .page => .open_
    | .bwait _ expired => yes (expired || s.bwaitOver t)
    | .await _ _ st => yes st.isSome
    | .park _ woken expired => yes (woken || expired || t.wakePend)
    | .semacq _ k => yes (!((s.wg? t.wg).map Wg.sems).any (fun ms => ms.any (fun m => m.waiters.any (fun e => e.1 == k))))
    | .hcall _ reply => yes reply.isSome
    | .xch _ _ _ _ _ got => yes got.isSome
    | .attach _ answer => yes answer.isSome
    | .detach _ answered => yes answered
    | .commit => if t.inRegion then .open_ else .try_
    | .access => .try_
    | .member => .try_
    | .drain _ => .try_
    | .waitb => .try_
    | .rdv => .try_
    | .crwait => .try_

/-- The header of the clause at a team's PC, as a fetch would find it now. -/
def State.headerAhead (s : State) (t : Team) : Option Word :=
  match (s.fetchWord (0, t.uid) (s.teamCore t) (s.ctxOfTeam t.uid) t.pc).2 with
  | .words [h] => some h
  | _ => none

/-- Whether WAIT of the next clause lets it start (R24, R184); a header that cannot be read lets it try. -/
def State.waitClear (s : State) (t : Team) : Bool :=
  decide (t.idx ≠ 0) || t.duePending.isSome ||
    match s.headerAhead t with
    | some h => decide ((⟨h, [], []⟩ : Clause).wait &&& t.flags = 0)
    | none => true

/-- Whether a team may issue: resident, or finishing its clause while its workgroup stops for pre-emption (R368). -/
def State.mayIssue (s : State) (t : Team) : Bool :=
  t.live && !t.ending &&
    match (s.wg? t.wg).map Wg.phase with
    | some .resident => t.clause.isSome || (s.mayStart t && s.waitClear t)
    | some .stopping => t.clause.isSome && !s.standsStill t
    | _ => false

/-- A team that is ready for the scheduler. -/
def State.ready (s : State) (t : Team) : Bool := s.mayIssue t && decide (s.wait t = .over)

/-- A waiting team whose instruction may test again what it waits for. -/
def State.retries (s : State) (t : Team) : Bool := s.mayIssue t && decide (s.wait t = .try_)

/-! ## The scheduler's pick (R185, R186, R368) -/

/-- A team's rank, lowest first: stopping workgroups, priority, not yielding, earliest last issue, number. -/
def State.rank (s : State) (t : Team) : Nat × Nat × Nat × Nat × Nat :=
  let w := s.wg? t.wg
  (if w.any (fun w => w.phase == .stopping) then 0 else 1,
    3 - (w.map Wg.prio).getD 0,
    if t.yielding then 1 else 0,
    (t.lastIssue.map (fun n => n + 1)).getD 0,
    t.uid)

/-- Lexicographic order of ranks. -/
def rankLt (a b : Nat × Nat × Nat × Nat × Nat) : Bool :=
  decide (a.1 < b.1) || (a.1 == b.1 && (decide (a.2.1 < b.2.1) || (a.2.1 == b.2.1 &&
    (decide (a.2.2.1 < b.2.2.1) || (a.2.2.1 == b.2.2.1 &&
      (decide (a.2.2.2.1 < b.2.2.2.1) || (a.2.2.2.1 == b.2.2.2.1 && decide (a.2.2.2.2 < b.2.2.2.2))))))))

/-- The team of a list with the lowest rank. -/
def State.best (s : State) (ts : List Team) : Option Team :=
  ts.foldl (fun r t =>
    match r with
    | none => some t
    | some x => if rankLt (s.rank t) (s.rank x) then some t else some x) none

/-- Whether a team that has issued is still held up by its last instruction (R184): free. -/
def State.held (s : State) (t : Team) : Bool := t.lastIssue.isSome && Config.busy s.fresh t.uid

/-- The cores that have teams. -/
def State.busyCores (s : State) : List Nat := ((s.teams.filter Team.live).map s.teamCore).eraseDups

/-- Each core's pick among its ready teams, and the teams that try again. -/
def State.teamMoves (s : State) : List Move :=
  let able := s.teams.filter (fun t => s.ready t && !s.held t)
  let picks := s.busyCores.filterMap (fun c => s.best (able.filter (fun t => s.teamCore t == c)))
  (picks ++ s.teams.filter s.retries).map (fun t => .team t.uid)

/-! ## Spindle programs (R199–R201) -/

/-- Whether a program may issue. -/
def State.progReady (s : State) (p : Prog) : Bool :=
  !p.queued && !p.ended && !p.exiting && decide (p.state ≠ 3) &&
    (s.wg? p.wg).any (fun w => w.phase == .finishing || w.phase == .resident || (w.phase == .stopping && p.clause.isSome && p.waitTicket.isNone)) &&
    (match p.waitTicket with
      | some k => !((s.wg? p.wg).map Wg.sems).any (fun ms => ms.any (fun m => m.waiters.any (fun e => e.1 == k)))
      | none => true)

/-- The programs that may issue. -/
def State.progMoves (s : State) : List Move := (s.progs.filter s.progReady).map (fun p => .spindle p.uid)

/-! ## Steps that hardware takes of its own -/

/-- Steps on the items of a list, each by its place. -/
def eachAt {β : Type} (xs : List β) (i : Instr) : List Move := (List.range xs.length).map (fun k => .ev k i)

/-- Data returns, drains, transfers and batches of the cores. -/
def State.coreMoves (s : State) : List Move :=
  (s.loads.zipIdx.flatMap (fun l => l.1.dests.map (fun d => Move.ev 0 (.loadDataReturn l.2 d.1)))) ++
    eachAt s.path .storePathDrain ++
    ((s.xfers.zipIdx.filter (fun x => !x.1.done)).map (fun x => .ev x.2 .copyTransfer)) ++
    ((s.batches.zipIdx.filter (fun b => !b.1.done)).map (fun b => .ev b.2 .batchCompletion)) ++
    ((s.progs.filter (fun p => p.queued)).map (fun p => .ev 0 (.spindleProgramStart p.core p.eng))) ++
    ((s.progs.filter (fun p => p.exiting && !p.ended)).map (fun p => .ev 0 (.spindleProgramEnd p.core p.eng))) ++
    (s.matrix.flatMap (fun q => if q.2 = [] ∨ 192 ≤ q.1 then [] else
      [.ev 0 (.engineOperationStart q.1), .ev 0 (.mmaStrip q.1), .ev 0 (.mmapStart q.1)])) ++
    ((s.teams.filter (fun t => t.live && t.committing)).flatMap (fun t =>
      (lanesOf t.size t.openLanes).map (fun l => .ev 0 (.laneCommit t.uid l))))

/-- The step that performs a request of the directory (R340). -/
def HomeReq.step (r : HomeReq) : Instr :=
  match r.kind with
  | .getS => .gets r.agent r.line
  | .pipe => .gets r.agent r.line
  | .getM => .getm r.agent r.line
  | .upgrade => .upgrade r.agent r.line
  | .getH => .geth r.agent r.line
  | .evict => .cleanEvictionNotice r.agent r.line
  | .writeback => .writeback r.agent r.line
  | .watch => .watch r.agent r.line
  | .renew => .renewal r.agent r.line
  | .drop => .recall r.agent r.line

/-- The step that delivers a message (R341). -/
def Msg.step (m : Msg) : Instr :=
  match m.kind with
  | .inv => .invalidation m.agent m.line
  | .fwdRead => .forward m.agent m.line
  | .fwdWrite => .forward m.agent m.line
  | .recall => .recall m.agent m.line
  | .ack => .acknowledgement m.agent m.line
  | .change => .changeNotice m.agent m.line

/-- Lines with a spilled bobbin that are not watched yet (R171). -/
def State.unwatched (s : State) : List (Nat × Nat) :=
  (((s.teams.filter Team.live).flatMap (fun t =>
    (t.bindings.filter (fun b => b.2.spilled && pinsLine b.2.space)).map (fun b => (s.teamCore t, lineOf b.2.loc)))).eraseDups).filter
      (fun x => decide (x.1 < 192) && !(s.dirEntry x.2).w)

/-- Whether a message is the next of its writer's to arrive, or a recall that a streamer has not answered yet (R345, R379). -/
def State.arrives (s : State) (m : Msg) : Bool :=
  decide (s.findMsg m.agent m.line [m.kind] = some m) || (m.sent && m.kind == .recall && decide (m.agent < 464))

/-- Half a lease (R343). -/
def halfLease (lease : Nat) : BitVec 16 := BitVec.ofNat 16 (2 ^ lease / 128)

/-- Leases that are to be renewed by now, and expired entries that the sweeper may visit (R343). -/
def State.leaseMoves (s : State) : List Move :=
  ((s.coh.copies.filter (fun k => k.st == .s && !k.managed && s.renews k.agent k.line &&
    s.leaseOver (k.stamp - halfLease s.coh.leaseL1))).map (fun k => .ev 0 (.renewalDue k.agent k.line))) ++
    ((s.fab.proxy.filter (fun p => p.st == .s && s.leaseOver (p.stamp - halfLease s.coh.leasePeer))).flatMap (fun p =>
      (s.busyCores.filter (fun c => s.renews c p.line)).map (fun c => .ev 0 (.renewalDue c p.line)))) ++
    ((s.coh.dir.filter (fun e => s.leaseOver e.2.stamp && !e.2.w && e.2.shared)).map (fun e => .ev 0 (.leaseSweep e.1)))

/-- The ends of epochs that have come: of the rebalancer, and of the slices' boundaries with the counts of their sampling sets, which
are not fixed (R331, R334, log entry 64). -/
def State.epochMoves (s : State) : List Move :=
  (((List.range 4).filter (fun d => decide ((s.die d).epoch + epochCycles ≤ s.cycle))).map (fun d => Move.ev 0 (.rebalanceEpoch d))) ++
    ((List.range 64).filter (fun i => (s.die (i / 16)).holder.isSome &&
      decide (tget 0 (s.die (i / 16)).carved (i % 16) + epochCycles ≤ s.cycle))).map (fun i =>
        let n (j : Nat) : Nat := (Config.freeWord (256 * s.fresh + 4 * i + j)).toNat
        .ev 0 (.carveEpoch i ⟨n 0, n 1, n 2, n 3⟩))

/-- Steps of the directory, of region switches, and of HANDOFFs and TAKEs under way. -/
def State.homeMoves (s : State) : List Move :=
  ((s.coh.reqs.filter (fun r => s.dispatchable r)).map (fun r => .ev 0 r.step)) ++
    ((s.coh.msgs.filter s.arrives).map (fun m => .ev 0 m.step)) ++
    s.leaseMoves ++ s.epochMoves ++
    (s.unwatched.map (fun x => .ev 0 (.watch x.1 x.2))) ++
    ((s.switches.zipIdx.filter (fun x => x.1.result == 0)).map (fun x => .ev x.2 .regionSwitch)) ++
    (((s.passes.filter s.passStands).map (fun p => p.tag.team)).eraseDups.map (fun u => .ev 0 (.takeResume u))) ++
    (s.ports.flatMap (fun p => if !p.2.busy then [] else
      [.ev 0 (if p.2.cmd = 1 then .kickRelease p.1 else .kickAcquire p.1)]))

/-- The value of a queue entry's RESP when it shows VALID (R403). -/
def State.respOf (s : State) (c : Nat) (base : DWord) (e : QueueEntry) : Option Nat :=
  if !e.posted then none
  else
    (s.readCtx c (base + 256 + BitVec.ofNat 64 (32 * (e.n % 256) + 24)) 8).bind (fun v =>
      if v / 2 ^ 63 = 1 then some (v % 2 ^ 32) else none)

/-- The place of the page request that an entry stands for. -/
def State.pageReqOf (s : State) (c : Nat) (e : QueueEntry) : Option Nat :=
  s.pageReqs.findIdx? (fun r => r.ctx == c && !r.pri && decide (e.arg0 = pageVa r.page))

/-- Answers that system software has written, and the ends of context faults. -/
def State.answerMoves (s : State) : List Move :=
  (s.ctxs.flatMap (fun x =>
    (x.2.fqWait.filterMap (fun e => (s.respOf x.1 x.2.fq e).bind (fun v =>
      if e.kind = 1 then (s.pageReqOf x.1 e).map (fun k => Move.ev 0 (.pageResponse k (decide (v = 0))))
      else if e.kind = 2 then some (.ev 0 (.placementResponse x.1 e.n (BitVec.ofNat 32 v)))
      else none))) ++
    (x.2.hrqWait.filterMap (fun e => (s.respOf x.1 x.2.hrq e).map (fun v =>
      Move.ev 0 (.hcallReply e.party (BitVec.ofNat 32 v))))))) ++
    (s.teams.filterMap (fun t =>
      match t.live, t.park with
      | true, .hcall svc none => if svc < 0x100 then some (.ev 0 (.hcallReply t.uid (Config.freeWord s.fresh))) else none
      | _, _ => none))

/-- Answers that awarded cores owe: they come before anything else, within 32 cycles (R323). -/
def State.owedAnswers (s : State) : List Move :=
  (s.anns.zipIdx.filter (fun a => a.1.phase == .awarded && decide (s.cycle ≤ a.1.since + 32))).flatMap (fun a =>
    [.ev a.2 .confirm, .ev a.2 .withdraw])

/-- Saved workgroups whose way back can begin: a hank's from its origin, any other's by an announcement (R321, R443). -/
def State.restoreMoves (s : State) : List Move :=
  (s.wgs.filter (fun w => w.phase == .saved && (match s.restoringHank w with
    | some h => (s.keyLaunch h.key).any (fun l => !s.fab.attempts.any (fun a => a.launch == l.id && a.hank == h.hank && a.restore))
    | none => (s.restoringAnn w).isNone))).map (fun w => .ev 0 (.restore w.uid 0))

/-- Steps of the distributor and of the tender. -/
def State.tenderMoves (s : State) : List Move :=
  ((s.ctxs.filter (fun x => x.2.valid && (!x.2.started || x.2.tailPend || x.2.tailRead.isSome))).map (fun x => .ev x.1 .tailChange)) ++
    eachAt s.children .childLaunchTake ++
    ((s.launches.zipIdx.filter (fun l => l.1.phase == .gated)).map (fun l => .ev l.2 .gateOpen)) ++
    (if (List.range 16).any (fun c => (s.nextLaunch c).isSome) then [.ev 0 .announcement] else []) ++
    (s.anns.zipIdx.flatMap (fun a =>
      match a.1.phase with
      | .bidding => .ev a.2 .bidWindowClose ::
          ((List.range 192).filter (fun c => s.annFits a.1 c)).map (fun c => .ev 0 (.bid a.1.id c))
      | .awarded => [.ev a.2 .confirmTimeout]
      | .held => if s.pickAgain.any (fun b => b.id == a.1.id) then [.ev a.2 .reAnnounce] else []
      | .starved => [])) ++ s.restoreMoves

/-- The step that acts on a received packet (R420, R438). -/
def packetStep (op : Nat) : Option Instr :=
  match op with
  | 0x00 => some .pktReadShared
  | 0x01 => some .pktReadExclusive
  | 0x02 => some .pktUpgrade
  | 0x03 => some .pktUncachedRead
  | 0x04 => some .pktWrite
  | 0x05 => some .pktAtomic
  | 0x06 => some .pktReduction
  | 0x07 => some .pktRenewal
  | 0x08 => some .pktCleanEvictionNotice
  | 0x09 => some .pktWriteback
  | 0x10 => some .pktData
  | 0x11 => some .pktDataAckCount
  | 0x12 => some .pktAcknowledgement
  | 0x13 => some .pktWritePerformed
  | 0x14 => some .pktError
  | 0x20 => some .pktInvalidate
  | 0x21 => some .pktForward
  | 0x22 => some .pktRecall
  | 0x30 => some .hankReserve
  | 0x31 => some .hankReserveAnswer
  | 0x32 => some .hankCommit
  | 0x33 => some .hankRelease
  | 0x34 => some .hankAttach
  | 0x35 => some .hankDetach
  | 0x36 => some .departureNotice
  | 0x37 => some .windowRead
  | 0x38 => some .windowWrite
  | 0x39 => some .windowAtomic
  | 0x3A => some .windowAnswer
  | 0x3B => some .preemptHank
  | 0x3C => some .windowBarrier
  | _ => none

/-- Steps of the fabric on what has arrived, and attempts to make again. -/
def State.fabricMoves (s : State) : List Move :=
  (s.fab.rx.zipIdx.filterMap (fun k => (packetStep k.1.op).map (fun i => Move.ev k.2 i))) ++
    eachAt s.fab.relay .detourRelay ++
    ((s.fab.attempts.zipIdx.filter (fun a => a.1.active && a.1.failed)).map (fun a => .ev a.2 .hankRetry))

/-- Deadlines of teams: BWAIT, PARK and XCH, and regions (R176, R262, R270, R320). -/
def Team.deadlines (t : Team) : List (Nat × Move) :=
  (match t.park with
    | .bwait (some n) false => [(n, Move.ev 0 (.bwaitTimeout t.uid))]
    | .park (some n) false false => [(n, .ev 0 (.parkTimeout t.uid))]
    | .xch n _ _ _ _ none => [(n, .ev 0 (.xchtmo t.uid))]
    | _ => []) ++
  (t.region.filter (fun e => e.2.open_)).map (fun e => (e.2.start + Config.longTimeout, .ev 0 (.regionTimeout t.uid e.1)))

/-- Deadlines of hosts and peers that do not answer (R389, R430, R434): the step comes when nothing else can happen. -/
def State.silences (s : State) : List Move :=
  (([0, 1].filter (fun p => (s.hostPort p).up && (s.hostPort p).lines.any (fun b => b.snooping))).map (fun p =>
      .ev 0 (.snoopTimeout p))) ++
    ((s.fab.txns.zipIdx.filter (fun x => !x.1.patient)).map (fun x => .ev x.2 .transactionTimeout)) ++
    ((s.fab.attempts.zipIdx.filter (fun a => a.1.active && !a.1.failed)).map (fun a => .ev a.2 .hankReserveTimeout))

/-- Deadlines of MMAPs that wait for a partner (R246). -/
def State.pairDeadlines (s : State) : List (Nat × Move) :=
  s.matrix.filterMap (fun q => if 192 ≤ q.1 then none else
    (s.pairLate q.1).map (fun n => (n + Config.longTimeout, Move.ev 0 (.pairtmo q.1))))

/-- Deadlines: the cycle and the step. The time of a saved team stands still (R176, R262, R367). -/
def State.deadlines (s : State) : List (Nat × Move) :=
  (s.teams.filter (fun t => t.live && (s.waitOf t.uid).isSome)).flatMap Team.deadlines ++ s.pairDeadlines ++
    s.silences.map (fun m => (s.cycle + 1, m))

/-- What can happen now. A device that is not ready only comes up (R412). -/
def State.moves (s : State) : List Move :=
  if !s.svc.ready then (if s.svc.stuckInReset then [] else [.ev 0 .deviceReset])
  else if s.owedAnswers ≠ [] then s.owedAnswers
  else
    s.teamMoves ++ s.progMoves ++ s.coreMoves ++ s.homeMoves ++ s.answerMoves ++ s.tenderMoves ++ s.fabricMoves ++
      (s.deadlines.filter (fun d => decide (d.1 ≤ s.cycle))).map (fun d => d.2)

/-- One of several moves, which is free; deadlines to come when there is nothing else. -/
def State.pickMove (s : State) (ms : List Move) : Option Move × State :=
  match ms with
  | [] => ((s.deadlines.map (fun d => d.2))[Config.pick s.fresh % s.deadlines.length]?, s.draw)
  | [m] => (some m, s)
  | ms => (ms[Config.pick s.fresh % ms.length]?, s.draw)

/-- The next move: what the agenda says, or a free one. -/
def State.nextMove (s : State) : Option Move × State :=
  match s.agenda with
  | m :: rest => (some m, { s with agenda := rest })
  | [] => s.pickMove s.moves

/-! ## From a move to an instruction -/

/-- A team takes the slot: unless its instruction has begun before, it stops yielding, and its issue begins now (R185, R186). -/
def State.beginIssue (s : State) : State :=
  if s.cur.park = .running ∧ s.cur.service = none then s.setCur { s.cur with yielding := false, lastIssue := some s.cycle } else s

/-- What a team does next: it starts a clause, or executes the next word of the one it is in. -/
def State.teamNext (s : State) (u : Nat) : State × Option Instr :=
  match s.team? u with
  | none => (s, none)
  | some t =>
    if !(s.ready t || s.retries t) then (s, none)
    else
      let s := { s.focusTeam u with issuer := .team }
      if t.clause.isNone then (s, some .clauseStart)
      else (s.beginIssue, t.word?.map decodeWord)

/-- What a spindle program does next. -/
def State.progNext (s : State) (u : Nat) : State × Option Instr :=
  match s.prog? u with
  | none => (s, none)
  | some p =>
    if !s.progReady p then (s, none)
    else
      let s := { s with issuer := .spindle u }
      match p.clause with
      | none => (s, some .clauseStart)
      | some c => (s, (c.words[p.idx]?).map decodeWord)

/-- Whether a row of the table is a step that no word of a program stands for. -/
def isStep (i : Instr) : Bool :=
  match i with
  | .clauseStart => false
  | i => (encode i).isNone

/-- The instruction of a move; a word of a program is executed by its issuer only. -/
def State.moveNext (s : State) : Option Move → State × Option Instr
  | none => (s, none)
  | some (.team u) => s.teamNext u
  | some (.spindle p) => s.progNext p
  | some (.ev k i) => if isStep i then ({ s with sel := k }, some i) else (s, none)

/-- The next instruction or step, and the state in which it executes. -/
def State.select (s : State) : State × Option Instr :=
  let r := s.nextMove
  r.2.moveNext r.1

/-! ## Between steps -/

/-- The flags of a team or program that stay set: those with outstanding work, and those of the clause in progress
(R24). -/
def State.flagsLeft (s : State) (u : Nat) (c : Option Clause) (f : BitVec 12) : BitVec 12 :=
  let now := (c.map Clause.sets).getD 0
  BitVec.ofNat 12 ((List.range 12).foldl (fun a i =>
    if f.getLsbD i && (now.getLsbD i || s.flagBusy u i) then a + 2 ^ i else a) 0)

/-- Flags clear when nothing is tracked under them (R24). -/
def State.clearFlags (s : State) : State :=
  ({ s with progs := s.progs.map (fun (p : Prog) =>
      if p.flags = 0 then p else { p with flags := s.flagsLeft p.uid p.clause p.flags }) }).mapTeams (fun t =>
    if t.flags = 0 then t else { t with flags := s.flagsLeft t.uid t.clause t.flags })

/-- The cores that have spilled bobbins. -/
def State.spilledCores (s : State) : List Nat :=
  ((s.teams.filter (fun t => t.live && t.bindings.any (fun b => b.2.spilled))).map s.teamCore).eraseDups

/-- Spilled bobbins are filled back as bobbins free (R171). -/
def State.refillAll (s : State) : State := s.spilledCores.foldl (fun s c => s.refill c (s.coreBobbins c).length) s

/-- The first entry of a list that waits for room is marked as written. -/
def markPosted : List QueueEntry → List QueueEntry
  | [] => []
  | e :: es => if e.posted then e :: markPosted es else { e with posted := true } :: es

/-- The oldest request that waits for room in a context's queues is written when there is room (R403). -/
def State.postOne (s : State) (c : Nat) : State :=
  let x := s.ctx c
  let s := match x.fqWait.find? (fun e => !e.posted) with
    | some e => if s.queueRoom c x.fq e.n then (s.setCtx c { x with fqWait := markPosted x.fqWait }).writeQueue c x.fq e else s
    | none => s
  let x := s.ctx c
  match x.hrqWait.find? (fun e => !e.posted) with
  | some e => if s.queueRoom c x.hrq e.n then (s.setCtx c { x with hrqWait := markPosted x.hrqWait }).writeQueue c x.hrq e else s
  | none => s

/-- Requests that wait for room in the queues. -/
def State.postAll (s : State) : State := s.ctxs.foldl (fun s x => s.postOne x.1) s

/-- The distributor's writes that wait are made, in order; a page that they miss is asked for, and a write whose page fault service
has failed is dropped (R362, R363). -/
def State.flushCtx (c : Nat) : Nat → State → State
  | 0, s => s
  | n + 1, s =>
    match (s.ctx c).writes with
    | [] => s
    | (va, bs) :: rest =>
      let pop (s : State) : State := s.setCtx c { s.ctx c with writes := rest }
      match s.writeNow c va bs with
      | (s, none) => State.flushCtx c n (pop s)
      | (s, some (t, page)) =>
        if (s.ctx c).failedPages.contains page then
          State.flushCtx c n (pop (s.setCtx c { s.ctx c with failedPages := (s.ctx c).failedPages.filter (fun p => decide (p ≠ page)) }))
        else s.askPage c page 1 t (4, c) (s.partyArg 0 0 4)

/-- The distributor's writes that wait. -/
def State.flushWrites (s : State) : State :=
  (s.ctxs.filter (fun x => decide (x.2.writes ≠ []))).foldl (fun s x => State.flushCtx x.1 x.2.writes.length s) s

/-- Lines that a streamer holds for no transfer are released (R209, R345). -/
def State.releaseHolds (s : State) : State :=
  (((s.coh.copies.filter (fun k => k.st == .h && decide (256 ≤ k.agent) && decide (k.agent < 448))).map Copy.agent).eraseDups).foldl
    (fun s a => s.releaseIdle (a - 256)) s

/-- Software-managed lines that bindings watch and their core has lost are fetched again (R166). -/
def State.refetchLost (s : State) : State :=
  (((s.teams.filter Team.live).flatMap (fun t =>
    (t.bindings.filter (fun b => b.2.space == .software)).map (fun b => (s.teamCore t, lineOf b.2.loc)))).eraseDups.filter (fun x =>
      decide (x.1 < 192) && (s.managedCopy x.1 x.2).isNone)).foldl (fun s x => s.refetchBound x.1 x.2) s

/-- Every port sends what it may (R417, R418). -/
def State.pumpAll (s : State) : State := s.fab.ports.foldl (fun s p => s.pumpPort p.1) s

/-- What follows a step of its own accord. -/
def State.settle (s : State) : State := s.saveSettled.reap.refillAll.postAll.flushWrites.releaseHolds.refetchLost.pumpAll.clearFlags

/-! ## Placing an instruction (log entry 10) -/

/-- The header of a clause of one instruction: ICNT 1, LCNT 4, no WAIT, SETA f0, SETB f1 (R19). -/
def fetchHeader : Word := BitVec.ofNat 32 (2 ^ 28 + 4 * 2 ^ 25 + 1 * 2 ^ 5)

/-- A team of 32 lanes with 96 registers, in the clause that holds a word. -/
def fetchTeam (u wg : Nat) (w : Word) : Team :=
  { Team.absent with
    live := true
    uid := u
    wg := wg
    allot := 96
    mask := fullMask 32
    clause := some ⟨fetchHeader, [w], [0, 0, 0, 0]⟩
    flags := 3 }

/-- A workgroup of one team on core 0, for context 0. -/
def fetchWg (u : Nat) : Wg :=
  { uid := u, ctx := 0, launch := 0, index := 0, core := 0, phase := .resident, prio := 0, cls := 0, clm := false,
    smin := 0, smax := 0, scratch := 0, teams := 1, regBytes := 12288, storeBytes := 0, sems := [], tiles := [], records := [],
    sprog := [⟨false, 0, 0⟩, ⟨false, 0, 0⟩], mprog := ⟨false, 0, 0, 0⟩, hank := none, slots := [], status := 0, trap := 0, group := none,
    segs := [], chip := none, left := 0, back := none, noticed := false }

end Sys2Proof.Machine
end

