-- ==== Sys2Proof/Machine/Step.lean ====
section
/-! DEFINITION. One step of the device: time passes, the next move is selected and executed, and what follows of its own
accord is settled. -/

namespace Sys2Proof.Machine

/-- What a step makes of an instruction's outcome. -/
def settled (o : Host.Outcome State Fault Refusal) : Host.Outcome State Fault Refusal :=
  match o with
  | .next s => .next s.settle
  | .fault f => .fault f
  | .refused r => .refused r

/-- One step. -/
def step (s : State) : Host.Outcome State Fault Refusal :=
  match s.tick.select with
  | (s, some i) => settled (exec i s)
  | (s, none) => .next s.settle

/-- An instruction placed where the next step executes it: latched as the one word of the clause that a resident team is
in, with the team's turn next (log entry 10). -/
def State.withFetchWord (s : State) (_nbits w : Nat) : State :=
  let u := s.nextUid
  { s with
    cur := fetchTeam (u + 1) u (BitVec.ofNat 32 w)
    others := (if s.cur.live then [s.cur] else []) ++ s.others
    issuer := .team
    wgs := s.wgs ++ [fetchWg u]
    ctxs := tset Context.reset s.ctxs 0 { s.ctx 0 with valid := true, ptroot := 8 }
    svc := { s.svc with ready := true }
    agenda := [.team (u + 1)]
    nextUid := u + 2 }

end Sys2Proof.Machine
end

