-- ==== Sys2Proof/Safety.lean ====
section
/-! DEFINITION. What claims about the machine are stated in: what a step keeps, when an instruction executes normally,
and which parts of the state two states share. -/

namespace Sys2Proof.Machine

/-! ## Invariants -/

/-- Memory is in its canonical form. -/
def State.memCanonical (s : State) : Prop := Memory.wf s.mem = true

/-- Every flag that a live team has set names outstanding work, or was set by the clause in progress (R24). -/
def State.flagsTracked (s : State) : Prop :=
  ∀ t ∈ s.teams, ∀ f : Nat, f < 12 → t.flags.getLsbD f = true →
    ((t.clause.map Clause.sets).getD 0).getLsbD f = true ∨ s.flagBusy t.uid f = true

/-! ## Normal execution -/

/-- The issuing team executes an instruction as its entry describes it, and nothing beside it: it is live, waits for
nothing, has no region open (R264), no step or focus stop (R83), no lanes owed (R142), no check of remote writes made (R140), no short-lived or poisoned
register (R190, R198), no machine check due (R198), and its context checks no hazards (R370). -/
def State.plain (s : State) : Bool :=
  decide (s.issuer = .team) && s.cur.live && !s.cur.ending && s.cur.service.isNone && decide (s.cur.park = .running) &&
    !s.cur.inRegion && !s.cur.stepping && s.cur.only.isNone && !s.cur.checked && s.cur.focusRest.isNone &&
    decide (s.cur.shortLived = []) && decide (s.cur.poison = []) && s.cur.dueCheck.isNone && !s.curCtx.hazchk.getLsbD 0 &&
    !s.curCtx.hazchk.getLsbD 1

/-- The instruction is the last of its clause: where a control transfer must stand (R22). -/
def State.lastInClause (s : State) : Bool := decide (s.cur.idx + 1 = (s.cur.clause.map Clause.icnt).getD 1)

/-- The clause names a flag for loads (R26). -/
def State.hasSeta (s : State) : Bool := decide (s.cur.seta ≠ 15)

/-- The clause names a flag for other long-latency work (R26). -/
def State.hasSetb (s : State) : Bool := decide (s.cur.setb ≠ 15)

/-! ## Frames -/

/-- One byte of memory as the device holds it. -/
def State.byte (s : State) (loc : Nat) : Byte := cellAt s.mem loc

/-- Everything outside the issuing team, and memory, is as before. -/
def State.sameOutside (s t : State) : Prop := t = { s with cur := t.cur }

/-! ## Traps -/

/-- FAULTPC's layout: index in [63:60], clause address bits [56:0] (R364). -/
def faultPcWord (pc : DWord) (idx : Nat) : DWord := BitVec.ofNat 4 idx ++ (0 : BitVec 3) ++ pc.extractLsb' 0 57

/-- What trap entry leaves, field by field (R80, R364–R366): the fault registers, the save slot, handler level, MODE, the
vector; no register, predicate, flag, stack entry or byte of memory, and no other part of the device, has changed. -/
structure TrapEntered (s t : State) (x : Trap) (fpc : DWord) (fmask : Mask) : Prop where
  faultPc : t.cur.faultPc = fpc
  faultInfo : t.cur.faultInfo = BitVec.ofNat 5 x.code ++ BitVec.ofNat 3 x.sub ++ x.arg
  faultMask : t.cur.faultMask = fmask
  saved : t.cur.saveMode = s.cur.mode ∧ t.cur.saveMask = s.cur.mask
  level : t.cur.tstat = s.cur.tstat ||| 0x10000
  mode : t.cur.mode = 0x10
  mask : t.cur.mask = s.cur.mask
  vector : t.cur.pc = (s.curCtx.trapBase &&& ~~~(0xFFF : DWord)) + BitVec.ofNat 64 (0x100 * x.code) ∧ t.cur.idx = 0 ∧ t.cur.clause = none
  registers : t.cur.v = s.cur.v ∧ t.cur.s = s.cur.s ∧ t.cur.p = s.cur.p ∧ t.cur.gen = s.cur.gen
  flags : t.cur.flags = s.cur.flags
  stack : t.cur.stack = s.cur.stack ∧ t.cur.bindings = s.cur.bindings
  memory : t.mem = s.mem
  outside : s.sameOutside t

/-- A trap enters the handler: the team is not at handler level, and the context has a vector (R79, R81). -/
def State.hasHandler (s : State) : Bool := !s.cur.hlevel && decide (s.curCtx.trapBase ≠ 0)

/-- An instruction of the issuing team takes a trap itself, with nothing of it having taken effect (R36). -/
def TrapsHere (i : Instr) (s : State) (x : Trap) : Prop :=
  ∃ t, exec i s = .next t ∧ TrapEntered s t x (faultPcWord s.cur.pc s.cur.idx) 0

/-! ## Register-to-register instructions (R86–R88) -/

/-- The entry of a register-to-register instruction: its destination and how many registers it has, the lanes it acts for,
and whether its TYPE and its operand codes are legal. -/
structure RegEntry where
  d : Code
  n : Nat
  lanes : Mask
  legal : Bool
deriving DecidableEq, Repr

/-- The columns of R88: every TYPE, integers, integers and packed integers, signed and floating point, floating point. -/
def anyType : List Nat := [0, 1, 2, 3, 4, 5, 6, 7, 8, 9, 10, 11]
/-- i32, u32, i64, u64. -/
def intTypes : List Nat := [0, 1, 2, 3]
/-- The integer TYPEs, packed ones too. -/
def integerTypes : List Nat := [0, 1, 2, 3, 8, 9, 10, 11]
/-- Signed integers and floating point. -/
def signedTypes : List Nat := [0, 2, 4, 5, 6, 7, 8, 10]
/-- Floating point. -/
def floatTypes : List Nat := [4, 5, 6, 7]
/-- The wide side of the packed conversions (R106): f32, f16x2, bf16x2. -/
def wideTypes : List Nat := [4, 6, 7]

/-- A two-operand entry. -/
def Team.entry3 (t : Team) (tys : List Nat) (d a b : Code) : RegEntry :=
  ⟨d, regs (wide t.type), t.contrib, tys.contains t.type && dstOk t (wide t.type) d && srcOk t (wide t.type) a &&
    srcOk t (wide t.type) b⟩

/-- A one-operand entry. -/
def Team.entry2 (t : Team) (tys : List Nat) (d a : Code) : RegEntry :=
  ⟨d, regs (wide t.type), t.contrib, tys.contains t.type && dstOk t (wide t.type) d && srcOk t (wide t.type) a⟩

/-- A cross-lane read (R109, R110). -/
def Team.entryLane (t : Team) (d a b : Code) : RegEntry :=
  ⟨d, regs (wide t.type), t.contrib, anyType.contains t.type && dstOk t (wide t.type) d && vOk t (wide t.type) a &&
    srcOk t false b⟩

/-- UNPK: the wide run of `k` registers under f32, half as many under the 16-bit pairs (R106). -/
def Team.entryUnpk (t : Team) (k : Nat) (d a b : Code) : RegEntry :=
  let n := if t.type = 4 then k else k / 2
  ⟨d, n, t.contrib, wideTypes.contains t.type && vRun t n 1 d && (vOk t false a || sRun 1 1 a || kRun t 1 1 a) &&
    srcOk t false b⟩

/-- PACK: the wide run is the source (R106). -/
def Team.entryPack (t : Team) (k : Nat) (d a b : Code) : RegEntry :=
  ⟨d, 1, t.contrib, wideTypes.contains t.type && vzOk t false d && vRun t (if t.type = 4 then k else k / 2) 1 a &&
    srcOk t false b⟩

/-- The groups of R102. -/
def convGroup (ty : Nat) : Nat := if ty ≤ 5 then 0 else if ty ≤ 9 then 1 else 2

/-- The entries of the register-to-register instructions with a register destination. -/
def Team.entry (t : Team) : Instr → Option RegEntry
  | .add d a b => some (t.entry3 anyType d a b)
  | .sub d a b => some (t.entry3 anyType d a b)
  | .mul d a b => some (t.entry3 anyType d a b)
  | .mulh d a b => some (t.entry3 integerTypes d a b)
  | .mac d a b => some (t.entry3 anyType d a b)
  | .div d a b => some (t.entry3 anyType d a b)
  | .rem d a b => some (t.entry3 anyType d a b)
  | .min d a b => some (t.entry3 anyType d a b)
  | .max d a b => some (t.entry3 anyType d a b)
  | .abs d a => some (t.entry2 signedTypes d a)
  | .neg d a => some (t.entry2 signedTypes d a)
  | .and d a b => some (t.entry3 anyType d a b)
  | .or d a b => some (t.entry3 anyType d a b)
  | .xor d a b => some (t.entry3 anyType d a b)
  | .shl d a b => some (t.entry3 integerTypes d a b)
  | .shr d a b => some (t.entry3 integerTypes d a b)
  | .sra d a b => some (t.entry3 integerTypes d a b)
  | .clz d a => some (t.entry2 integerTypes d a)
  | .popc d a => some (t.entry2 integerTypes d a)
  | .bfx d a b => some (t.entry3 intTypes d a b)
  | .bfi d a b => some (t.entry3 intTypes d a b)
  | .sel d a b => some { t.entry3 anyType d a b with lanes := t.activeMask }
  | .mov d a => some (t.entry2 anyType d a)
  | .cvt d a b => some ⟨d, regs (wide t.type), t.contrib, decide (b.toNat ≤ 11) &&
      decide (convGroup b.toNat = convGroup t.type) && dstOk t (wide t.type) d && srcOk t (wide b.toNat) a⟩
  | .rndi d a => some (t.entry2 floatTypes d a)
  | .rcp d a => some (t.entry2 floatTypes d a)
  | .rsq d a => some (t.entry2 floatTypes d a)
  | .sqrt d a => some (t.entry2 floatTypes d a)
  | .exp2 d a => some (t.entry2 floatTypes d a)
  | .log2 d a => some (t.entry2 floatTypes d a)
  | .sinp d a => some (t.entry2 floatTypes d a)
  | .cosp d a => some (t.entry2 floatTypes d a)
  | .ballot d a b => some ⟨d, 1, t.contrib, dstOk t false d && predOk true a && srcOk t false b⟩
  | .unpkQn4 d a b => some (t.entryUnpk 8 d a b)
  | .unpkF4 d a b => some (t.entryUnpk 8 d a b)
  | .unpkE4m3 d a b => some (t.entryUnpk 4 d a b)
  | .unpkE5m2 d a b => some (t.entryUnpk 4 d a b)
  | .unpkI8 d a b => some (t.entryUnpk 4 d a b)
  | .unpkBf d a b => some (t.entryUnpk 2 d a b)
  | .unpkH d a b => some (t.entryUnpk 2 d a b)
  | .packQn4 d a b => some (t.entryPack 8 d a b)
  | .packF4 d a b => some (t.entryPack 8 d a b)
  | .packE4m3 d a b => some (t.entryPack 4 d a b)
  | .packE5m2 d a b => some (t.entryPack 4 d a b)
  | .packI8 d a b => some (t.entryPack 4 d a b)
  | .packBf d a b => some (t.entryPack 2 d a b)
  | .packH d a b => some (t.entryPack 2 d a b)
  | .xln d a b => some (t.entryLane d a b)
  | .xlnx d a b => some (t.entryLane d a b)
  | .rdlane d a b => some (t.entryLane d a b)
  | .tsum d a => some (t.entry2 anyType d a)
  | .tmin d a => some (t.entry2 anyType d a)
  | .tmax d a => some (t.entry2 anyType d a)
  | .tscan d a => some { t.entry2 anyType d a with legal := (t.entry2 anyType d a).legal && !isS d }
  | _ => none

/-- What an instruction with `n` destination registers from `d` on, in some lanes, leaves alone: every other register, every
predicate, MODE, the mask, the stack, the completion flags, the bindings, the fault registers and the save slot; TSTAT but
for exception flags that it may set; every byte of memory and every other part of the device. The team goes on with the
next instruction. -/
structure RegFrame (s t : State) (n : Nat) (d : Code) (lanes : Mask) : Prop where
  vector : ∀ l r, r < 96 → ¬ (isV d = true ∧ d.toNat ≤ r ∧ r < d.toNat + n ∧ l < s.cur.size ∧ lanes.getLsbD l = true) →
    t.cur.vget l r = s.cur.vget l r
  scalar : ∀ k, ¬ (isS d = true ∧ sNum d ≤ k ∧ k < sNum d + n ∧ ∃ l, l < s.cur.size ∧ lanes.getLsbD l = true) →
    t.cur.sget k = s.cur.sget k
  predicates : t.cur.p = s.cur.p
  modes : t.cur.mode = s.cur.mode ∧ t.cur.mask = s.cur.mask ∧ t.cur.stack = s.cur.stack ∧ t.cur.stepctl = s.cur.stepctl
  flags : t.cur.flags = s.cur.flags ∧ t.cur.bindings = s.cur.bindings
  status : ∃ f : BitVec 5, t.cur.tstat = s.cur.tstat ||| f.setWidth 32
  fault : t.cur.faultPc = s.cur.faultPc ∧ t.cur.faultInfo = s.cur.faultInfo ∧ t.cur.faultMask = s.cur.faultMask ∧
    t.cur.saveMode = s.cur.saveMode ∧ t.cur.saveMask = s.cur.saveMask
  place : t.cur.pc = s.cur.advance.pc ∧ t.cur.idx = s.cur.advance.idx ∧ t.cur.clause = s.cur.advance.clause
  memory : ∀ a, t.byte a = s.byte a
  outside : s.sameOutside t

/-- What a destination reads as after an instruction: each contributing lane its own value, a scalar the leader's; z
discards. -/
def Wrote (s t : State) (wd : Bool) (d : Code) (f : Nat → Nat) : Prop :=
  (isV d = true → ∀ l, l < s.cur.size → s.cur.contrib.getLsbD l = true → t.cur.opndN wd l d = f l) ∧
  (isS d = true → ∀ l, s.cur.leader = some l → t.cur.opndN wd l d = f l)

/-- An instruction completes with these results, and changes nothing beside them. -/
def Gives (i : Instr) (s : State) (wd : Bool) (d : Code) (f : Nat → Nat) : Prop :=
  ∃ t, exec i s = .next t ∧ Wrote s t wd d f ∧ RegFrame s t (if wd then 2 else 1) d s.cur.contrib

/-- A register-to-register instruction can execute: the team issues plainly, no register of it is bound, TYPE is one of
R28's, and no exception is enabled. -/
def State.computes (s : State) : Bool :=
  s.plain && decide (s.cur.bindings = []) && decide (s.cur.type ≤ 11) && decide (s.cur.tstat.extractLsb' 5 5 = 0)

/-! ## Integers (R56, R57) -/

/-- A value of `w` bits as an integer, signed or unsigned. -/
def asInt (w : Nat) (signed : Bool) (x : Nat) : Int :=
  if signed && decide (2 ^ w ≤ 2 * (x % 2 ^ w)) then (x % 2 ^ w : Nat) - (2 ^ w : Nat) else (x % 2 ^ w : Nat)

/-- An exact integer delivered in `w` bits: wrapped, or clamped to the type's range under SAT (R56). -/
def fit (w : Nat) (signed sat : Bool) (v : Int) : Nat :=
  let lo : Int := if signed then -(2 ^ (w - 1) : Nat) else 0
  let hi : Int := if signed then (2 ^ (w - 1) : Nat) - 1 else (2 ^ w : Nat) - 1
  ((if sat then max lo (min hi v) else v) % (2 ^ w : Nat)).toNat

/-- The quotient of R57. -/
def divResult (w : Nat) (signed sat : Bool) (x y : Int) : Nat :=
  if y = 0 then 2 ^ w - 1 else fit w signed sat (Int.tdiv x y)

/-- The remainder of R57. -/
def remResult (w : Nat) (signed : Bool) (x y : Int) : Nat := fit w signed false (if y = 0 then x else Int.tmod x y)

/-! ## Predicates -/

/-- What an instruction that writes predicate d of the contributing lanes leaves: the predicate there, and nothing else. -/
def PredGives (i : Instr) (s : State) (d : Code) (f : Nat → Bool) : Prop :=
  ∃ t, exec i s = .next t ∧ RegFrame { s with cur := { s.cur with p := t.cur.p } } t 0 124 0 ∧
    (∀ l, l < s.cur.size → t.cur.pget l d.toNat = if s.cur.contrib.getLsbD l then f l else s.cur.pget l d.toNat) ∧
    (∀ l n, n ≠ d.toNat → t.cur.pget l n = s.cur.pget l n)

/-- A binary32 NaN. -/
def nan32 (x : Word) : Bool := decide (x.extractLsb' 23 8 = 255) && decide (x.extractLsb' 0 23 ≠ 0)

/-! ## Control flow -/

/-- Whether the header of the team's clause has its YIELD bit set (R19). -/
def Team.yieldBit (t : Team) : Bool := (t.clause.map (fun c => c.header.getLsbD 3)).getD false

/-- The team after a transfer to a clause address: at its first instruction, yielding if the clause it has left says so
(R19, R22, R186). -/
def Team.landsAt (t : Team) (pc : DWord) : Team :=
  { t with
    pc := pc
    idx := 0
    clause := none
    resumed := false
    focused := t.focused && t.hlevel
    yielding := t.yielding || t.yieldBit
    lastIssue := if t.yieldBit then some t.now else t.lastIssue
    fresh := t.fresh + 1 }

/-- The branch target of an offset operand (R114): the clause's address plus the offset, sign-extended. -/
def Team.branchTo (t : Team) (b : Code) : DWord := t.pc + (t.opnd32 0 b).signExtend 64

/-- The active lanes whose predicate, inverted for codes 8–15, is true (R116). -/
def Team.takenLanes (t : Team) (d : Code) : Mask :=
  t.mask &&& (if d.toNat < 8 then t.pmask d.toNat else ~~~ t.pmask (d.toNat - 8))

/-- R76: the scalars after paths merge; `l` is the lowest lane of the entry's mask, `base` the scalars at the MARK or the
call. The first that applies: the value of the path that holds lane `l`, if it wrote the scalar; that of the path that
ended last among those that wrote it; the old value. -/
def MergedScalars (l : Nat) (paths : List PathRec) (base after : Table Word) : Prop :=
  ∀ n, n < 24 →
    (∀ p ∈ paths, p.written.getLsbD n = true → p.lanes.getLsbD l = true → (∀ q ∈ paths, q.lanes.getLsbD l = true → q = p) →
      tget 0 after n = tget 0 p.scalars n) ∧
    (∀ pre p post, paths = pre ++ p :: post → p.written.getLsbD n = true → (∀ q ∈ post, q.written.getLsbD n = false) →
      (∀ q ∈ paths, q.written.getLsbD n = true → q.lanes.getLsbD l = false) → tget 0 after n = tget 0 p.scalars n) ∧
    ((∀ q ∈ paths, q.written.getLsbD n = false) → tget 0 after n = tget 0 base n)

/-- What a transfer of control leaves alone: vector registers, predicates, the completion flags, TSTAT, the fault registers,
memory and everything outside the team. -/
structure FlowFrame (s t : State) : Prop where
  registers : t.cur.v = s.cur.v ∧ t.cur.p = s.cur.p ∧ t.cur.gen = s.cur.gen
  status : t.cur.flags = s.cur.flags ∧ t.cur.tstat = s.cur.tstat ∧ t.cur.faultPc = s.cur.faultPc ∧
    t.cur.faultInfo = s.cur.faultInfo
  start : t.cur.idx = 0 ∧ t.cur.clause = none
  outside : s.sameOutside t

/-! ## Memory instructions -/

/-- The entry of a load, store, atomic or reduction: its d field, bytes for each lane, whether the codes are legal, and the
accesses: lane, address, size. -/
structure MemEntry where
  d : Code
  size : Nat
  legal : Bool
  accesses : List (Nat × DWord × Nat)
deriving DecidableEq, Repr

/-- Base plus sign-extended offset (R129). -/
def Team.effective (t : Team) (l : Nat) (a b : Code) : DWord := t.opnd64 l a + (t.opnd32 l b).signExtend 64

/-- A per-lane load of a size (R143, R145): with a scalar d the leader's access only. -/
def Team.loadOf (t : Team) (size : Nat) (dOk : Bool) (d a b : Code) : MemEntry :=
  ⟨d, size, dOk && baseOk t a && srcOk t false b, (t.evalLanes d).map (fun l => (l, t.effective l a b, size))⟩

/-- A scalar load (R147): one access, whatever the mask and the guard. -/
def Team.scalarLoadOf (t : Team) (size : Nat) (d a b : Code) : MemEntry :=
  ⟨d, size, szOk (decide (size = 8)) d && sbaseOk t true a && (skOk t true b || decide (b.toNat = 126)),
    [(0, t.effective 0 a b, size)]⟩

/-- The loads. -/
def Team.loadEntry (t : Team) : Instr → Option MemEntry
  | .ldb d a b => some (t.loadOf 1 (dstOk t false d) d a b)
  | .ldh d a b => some (t.loadOf 2 (dstOk t false d) d a b)
  | .ldw d a b => some (t.loadOf 4 (dstOk t false d) d a b)
  | .ldd d a b => some (t.loadOf 8 (dstOk t true d) d a b)
  | .ldq d a b => some (t.loadOf 16 (quadOk t false d) d a b)
  | .ldwa d a b => some (t.loadOf 4 (dstOk t false d) d a b)
  | .ldda d a b => some (t.loadOf 8 (dstOk t true d) d a b)
  | .lds d a b => some (t.scalarLoadOf 4 d a b)
  | .ldsd d a b => some (t.scalarLoadOf 8 d a b)
  | _ => none

/-- A per-lane store of a size (R144, R146). -/
def Team.storeOf (t : Team) (size : Nat) (dOk : Bool) (d a b : Code) : MemEntry :=
  ⟨d, size, dOk && baseOk t a && srcOk t false b, t.contribLanes.map (fun l => (l, t.effective l a b, size))⟩

/-- Data in pairs: an even v, an even s, k0, k2 or z (R144). -/
def pairData (t : Team) (d : Code) : Bool := vRun t 2 2 d || sRun 2 2 d || kRun t 2 2 d || isZ d

/-- The stores; the releases are the last two. -/
def Team.storeEntry (t : Team) : Instr → Option MemEntry
  | .stb d a b => some (t.storeOf 1 (srcOk t false d) d a b)
  | .sth d a b => some (t.storeOf 2 (srcOk t false d) d a b)
  | .stw d a b => some (t.storeOf 4 (srcOk t false d) d a b)
  | .std d a b => some (t.storeOf 8 (pairData t d) d a b)
  | .stq d a b => some (t.storeOf 16 (quadOk t true d) d a b)
  | .stwl d a b => some (t.storeOf 4 (srcOk t false d) d a b)
  | .stdl d a b => some (t.storeOf 8 (pairData t d) d a b)
  | _ => none

/-- Whether an instruction is a release store. -/
def isRelease : Instr → Bool
  | .stwl _ _ _ => true
  | .stdl _ _ _ => true
  | _ => false

/-- Whether an instruction is an acquire load. -/
def isAcquire : Instr → Bool
  | .ldwa _ _ _ => true
  | .ldda _ _ _ => true
  | _ => false

/-- The bytes that a lane stores: the low bytes of its data registers in order (R144). -/
def Team.dataOf (t : Team) (l : Nat) (d : Code) (size : Nat) : Nat :=
  ((List.range 4).map (fun i => (if isZ d then 0 else (t.opnd32 l (codeAt d i)).toNat) * 2 ^ (32 * i))).sum % 256 ^ size

/-- The operation, and whether its TYPE is legal, of an atomic or a reduction (R152). -/
def rmwType (op : AtOp) (ty : Nat) : Bool :=
  match op with
  | .add => decide (ty < 8)
  | .min => decide (ty < 8)
  | .max => decide (ty < 8)
  | _ => decide (ty < 12)

/-- An atomic (R151, R153): d is a v code or z, the address has no offset. -/
def Team.atomicOf (t : Team) (op : AtOp) (d a b : Code) : AtOp × MemEntry :=
  let size := if wide t.type then 8 else 4
  (op, ⟨d, size, rmwType op t.type && vzOk t (wide t.type) d && baseOk t a && srcOk t (wide t.type) b,
    t.contribLanes.map (fun l => (l, t.opnd64 l a, size))⟩)

/-- The atomics, with their b operand. -/
def Team.atomicEntry (t : Team) : Instr → Option (Code × AtOp × MemEntry)
  | .atadd d a b => some (b, t.atomicOf .add d a b)
  | .atand d a b => some (b, t.atomicOf .and d a b)
  | .ator d a b => some (b, t.atomicOf .or d a b)
  | .atxor d a b => some (b, t.atomicOf .xor d a b)
  | .atmin d a b => some (b, t.atomicOf .min d a b)
  | .atmax d a b => some (b, t.atomicOf .max d a b)
  | .atxch d a b => some (b, t.atomicOf .xch d a b)
  | .atcas d a b => some (b, t.atomicOf .cas d a b)
  | _ => none

/-- The reductions at memory (R154), with their b operand. -/
def Team.reductionEntry (t : Team) : Instr → Option (Code × AtOp × MemEntry)
  | .rmadd a b => some (b, t.atomicOf .add 124 a b)
  | .rmand a b => some (b, t.atomicOf .and 124 a b)
  | .rmor a b => some (b, t.atomicOf .or 124 a b)
  | .rmxor a b => some (b, t.atomicOf .xor 124 a b)
  | .rmmin a b => some (b, t.atomicOf .min 124 a b)
  | .rmmax a b => some (b, t.atomicOf .max 124 a b)
  | _ => none

/-- Whether a place is on this device. -/
def onDevice : Space → Bool
  | .peer _ _ => false
  | .member _ => false
  | _ => true

/-- Every access of a list passes stage 1 and reaches, lane by lane, the place that `f` gives it on this device, by
translations that are cached already (R140); none is in the window of a member that has stopped issuing (R443), or in a page that
a region switch drains (R346), and the bytes stand where the location says (R193). -/
abbrev State.placed (s : State) (need : Need) (acc : List (Nat × DWord × Nat)) (f : Nat → Space × Nat) : Prop :=
  s.stage1Conds s.cur need acc = [] ∧ State.sites need acc s = (s, acc.map (fun x => (x.1, .at_ (f x.1).1 (f x.1).2))) ∧
    ∀ x ∈ acc, onDevice (f x.1).1 = true ∧ s.memberStopped (f x.1).2 = false ∧ s.drained (f x.1).2 = false ∧
      ∀ i, i < x.2.2 → s.storePlace ((f x.1).2 + i) = (f x.1).2 + i

/-- Nothing of the device keeps the team's accesses back: no copy is under way, every earlier read of the team is satisfied,
no write is on its way, and the store path of its core keeps no room for loads that will store (R139, R192). -/
abbrev State.quiet (s : State) : Prop :=
  s.xfers = [] ∧ (∀ x ∈ s.loads, x.seq < s.nextSeq ∧ (x.team = s.cur.uid → x.value ≠ none)) ∧ s.path = [] ∧ s.coh.reqs = [] ∧ s.coh.txns = [] ∧
    s.throughLines s.curCore = []

/-- No write that waits for answers has notified the team's core: bytes that it reads are not on their way (R341). -/
abbrev State.unnotified (s : State) : Prop := ∀ x ∈ s.coh.txns, s.curCore ∉ x.notified

/-- No core keeps dirty bytes of software-managed lines, which leave an L1 for home when its set is full (R138, R191). -/
abbrev State.noneDirty (s : State) : Prop := ∀ k ∈ s.coh.copies, k.managed = true → k.dirty = []

/-- The registers, predicates and modes of the team are unchanged, and it goes on with the next instruction. -/
structure TeamKept (s t : State) : Prop where
  registers : t.cur.v = s.cur.v ∧ t.cur.s = s.cur.s ∧ t.cur.p = s.cur.p ∧ t.cur.gen = s.cur.gen
  modes : t.cur.mode = s.cur.mode ∧ t.cur.mask = s.cur.mask ∧ t.cur.stack = s.cur.stack ∧ t.cur.tstat = s.cur.tstat
  flags : t.cur.flags = s.cur.flags
  fault : t.cur.faultPc = s.cur.faultPc ∧ t.cur.faultInfo = s.cur.faultInfo ∧ t.cur.faultMask = s.cur.faultMask
  place : t.cur.pc = s.cur.advance.pc ∧ t.cur.idx = s.cur.advance.idx ∧ t.cur.clause = s.cur.advance.clause
  running : t.cur.park = .running ∧ t.cur.ending = false

/-! ## Bindings (R156–R178) -/

/-- The bind loads: whether they notify, and the entry. BLDN's size follows TYPE (R174). -/
def Team.bindEntry (t : Team) : Instr → Option (Bool × MemEntry)
  | .bld d a b => some (false, t.loadOf 4 (vOk t false d) d a b)
  | .bldn d a b => some (true, t.loadOf (if wide t.type then 8 else 4) (vOk t (wide t.type) d) d a b)
  | .bldd d a b => some (false, t.loadOf 8 (vOk t true d) d a b)
  | _ => none

/-- The atomics through a binding (R178): operation, a, the operand that replaces memory (BCAS), and the code that takes the
old value (BADD, BXCH). -/
def boundEntry : Instr → Option (AtOp × Code × Code × Option Code × Option Code)
  | .badd d a b => some (.add, d, a, none, some b)
  | .bxch d a b => some (.xch, d, a, none, some b)
  | .bcas d a b => some (.cas, d, a, some b, none)
  | _ => none

/-- The lines of a list of places in one L1 set are at most the eight ways that may be pinned (R170). -/
abbrev pinnable (locs : List Nat) : Prop :=
  ∀ n, n < 1024 → (((locs.map lineOf).eraseDups).filter (fun l => decide (l % 1024 = n))).length ≤ 8

/-! ## Performing -/

/-- No write, copy or snoop is on its way anywhere. -/
abbrev State.still (s : State) : Prop :=
  s.xfers = [] ∧ s.path = [] ∧ s.coh.reqs = [] ∧ s.coh.txns = [] ∧ s.ports = []

/-- What an atomic or a reduction leaves at memory, on integers of 32 or 64 bits (R151, R152). -/
def rmwValue (op : AtOp) (ty old b other : Nat) : Nat :=
  let w := if 2 ≤ ty then 64 else 32
  let sg := decide (ty = 0 ∨ ty = 2)
  let b := b % 2 ^ w
  match op with
  | .add => (old + b) % 2 ^ w
  | .and => old &&& b
  | .or => old ||| b
  | .xor => old ^^^ b
  | .min => if asInt w sg b < asInt w sg old then b else old
  | .max => if asInt w sg old < asInt w sg b then b else old
  | .xch => b
  | .cas => if old = b then other % 2 ^ w else old

/-- A team with one word delivered to a destination (R143). -/
def Team.takes (t : Team) (short : Bool) (d : Dest) (w : Word) : Team :=
  match d with
  | .vec l r => t.vset short l r w
  | .scal n => t.sset n w
  | .none => t

/-- Two teams hold the same registers. -/
def Team.sameRegisters (t u : Team) : Prop := t.v = u.v ∧ t.s = u.s ∧ t.p = u.p

/-- The bindings that a lane watches under BWAIT's a: the one that covers a register, or all of the lane's for z (R176). -/
def Team.watches (t : Team) (a : Code) (l : Nat) : Prop :=
  if isZ a then ∃ e ∈ t.bindings, e.1 / 96 = l else t.boundAt l a.toNat ≠ none

/-- Whether a watched binding has CHG set. -/
def Team.sees (t : Team) (a : Code) (l : Nat) : Prop :=
  if isZ a then ∃ e ∈ t.bindings, e.1 / 96 = l ∧ e.2.chg = true else ∃ r x, t.boundAt l a.toNat = some (r, x) ∧ x.chg = true

/-! ## Regions (R264–R277) -/

/-- As `State.plain`, with a region open. -/
def State.plainRegion (s : State) : Bool :=
  decide (s.issuer = .team) && s.cur.live && !s.cur.ending && s.cur.service.isNone && s.cur.inRegion && !s.cur.stepping &&
    s.cur.only.isNone && !s.cur.checked && s.cur.focusRest.isNone && decide (s.cur.shortLived = []) && decide (s.cur.poison = []) &&
    !s.curCtx.hazchk.getLsbD 0 && !s.curCtx.hazchk.getLsbD 1

/-! ## Ends of workgroups (R452) -/

/-- A workgroup has been stopped with a status: its teams issue no more. -/
def State.stopped (t : State) (u status : Nat) : Prop :=
  (∀ x ∈ t.teams, x.live = true → x.wg = u → x.ending = true) ∧
    ∃ w, t.wg? u = some w ∧ w.phase = .finishing ∧ w.status = status

/-! ## The matrix engine -/

/-- One operation has joined the engine queue of the issuing team's core, and the team goes on; nothing else of it has
happened (R236). -/
def Enqueued (i : Instr) (s : State) (kind : MOpKind) (tile flag : Nat) : Prop :=
  ∃ t o, exec i s = .next t ∧ TeamKept s t ∧ t.mem = s.mem ∧ t.queue s.curCore = s.queue s.curCore ++ [o] ∧ o.kind = kind ∧
    o.tile = tile ∧ o.wg = s.cur.wg ∧ o.ctx = s.curCtxNum ∧ o.prog = none ∧ o.started = false ∧ o.strips = 0 ∧
    o.issuer = ⟨s.cur.uid, s.nextSeq, flag, s.cur.scope, none⟩

/-- The workgroup of the issuing team holds, or finds free, each of a list of tiles (R228). -/
abbrev State.tilesMine (s : State) (ts : List Nat) : Prop :=
  ∀ n ∈ ts, (s.tileHolder s.curCore n).getD s.cur.wg = s.cur.wg

/-- Element `e` of a tile. -/
def State.tileElem (s : State) (core tile e : Nat) : Word := tget 0 (s.tile core tile) e

/-! ## Launches and placement -/

/-- A record that the distributor takes: it keeps R395 and R432, is no hank's, its completion word may be written, and one
core can meet the needs of its workgroups (R396). -/
abbrev State.takable (s : State) (c : Nat) (addr : DWord) (r : Nat) (child : Bool) : Prop :=
  recOk r addr child s.fab.ndev = true ∧ recHank r = 0 ∧ recField r 0x20 8 % 8 = 0 ∧
    s.distWritable c (BitVec.ofNat 64 (recField r 0x20 8)) = (s, .got 0) ∧
    (launchOf r 0 c addr none 0).needs.fits ⟨0, 0, 0, 0⟩ = true

/-- One launch is taken: it is the last of the list, as its record describes it, its gate closed (R394, R395). -/
def Takes (s t : State) (c : Nat) (addr : DWord) (r count : Nat) (child : Bool) : Prop :=
  ∃ l, t.launches = s.launches ++ [l] ∧ l.ctx = c ∧ l.record = addr ∧ l.child = child ∧ l.count = count ∧ l.phase = .gated ∧
    l.next = 0 ∧ l.ended = 0 ∧ l.prio = r / 8 % 4 ∧ l.cls = r / 64 % 64 ∧ l.roles.length = r % 8 ∧
    l.completion = BitVec.ofNat 64 (r / 256 ^ 0x20 % 2 ^ 64) ∧ l.deps.length = r / 2 ^ 20 % 16

/-- A launch completes with a status: it is forgotten, and the word at a completion address in hardware-coherent memory holds
DONE, the trap code of statuses 1 and 2, and the status (R397). -/
def Completes (s t : State) (l : Launch) (status : Nat) : Prop :=
  t.launches = s.launches.filter (fun x => decide (x.id ≠ l.id)) ∧
    (∀ loc, l.origin = none → (s.ctx l.ctx).writes = [] → (s.translate l.ctx l.completion Need.store).2 = .at_ .hardware loc →
      cellNat t.mem loc 8 = 2 ^ 63 + (if status = 1 ∨ status = 2 then l.trap % 256 * 256 else 0) + status % 256)

/-- A launch that may be announced from (R400–R402). -/
abbrev State.mayAnnounce (s : State) (l : Launch) : Prop :=
  l.ctx < 16 ∧ l.phase = .open_ ∧ l.stopped = false ∧ l.origin = none ∧ l.next < l.count ∧
    s.budgetsPass l.ctx l.teams = true ∧ s.slotsLeft l.ctx l.teams = true

/-- No two announcements share a name. -/
abbrev State.annsApart (s : State) : Prop := s.anns.Pairwise (fun x y => x.id ≠ y.id)

/-- An announcement as it stands in a later state. -/
def State.annIs (t : State) (a : Ann) : Prop := a ∈ t.anns ∧ ∀ x ∈ t.anns, x.id = a.id → x = a

/-- A workgroup admitted to a core: its teams at their roles' entries with the start values of R72, beside the teams that
were there; its announcement is gone. -/
def Admitted (s t : State) (a : Ann) (l : Launch) (core : Nat) : Prop :=
  (∀ x ∈ t.anns, x.id ≠ a.id) ∧ t.cur = s.cur ∧
    (∃ w, t.wgs = s.wgs ++ [w] ∧ w.core = core ∧ w.ctx = l.ctx ∧ w.launch = l.id ∧ w.index = a.wg ∧ w.phase = .resident ∧
      w.teams = l.teams ∧ w.sems.length = l.sems ∧ (∀ m ∈ w.sems, m.value = 0 ∧ m.waiters = []) ∧ w.hank = none ∧
      ∃ ts, t.others = s.others ++ ts ∧ ts.length = l.teams ∧
        ∀ i x, ts[i]? = some x → ∃ k role, l.roles[k]? = some role ∧ x.live = true ∧ x.wg = w.uid ∧ x.index = i ∧ x.role = k ∧
          x.pc = role.entry ∧ x.size = 32 * (role.sizew + 1) ∧ x.mask = fullMask x.size ∧ x.mode = 0x10 ∧ x.flags = 0 ∧
          x.stack = [] ∧ x.v = [] ∧ x.p = [] ∧ x.idx = 0 ∧ x.clause = none ∧ x.park = .running ∧
          x.sget 8 = BitVec.ofNat 32 a.wg ∧ x.sget 9 = BitVec.ofNat 32 i ∧ x.sget 10 = BitVec.ofNat 32 k ∧
          x.sget 11 = BitVec.ofNat 32 l.count ∧ x.sget 22 = 0 ∧ x.sget 23 = 0xFFFFF000 ∧
          ∀ n, n < 8 → x.sget n = l.params.getD n 0)

/-! ## Coherence -/

/-- A core holds a line as its owner, alone, and the bytes of its write are performed; no other byte changes (R340). -/
def Owns (s t : State) (a line : Nat) (cells : List Host.Cell) : Prop :=
  (∃ k, t.copyAt a line = some k ∧ k.st = .m) ∧ (t.dirEntry line).st = .dx ∧ (t.dirEntry line).owner = BitVec.ofNat 9 a ∧
    (t.dirEntry line).ptrs = [] ∧ (t.dirEntry line).crs = false ∧ ∀ q, t.byte q = (coverByte cells q).getD (s.byte q)

/-- No other agent has to be asked before one may own a line: no owner, and no sharer but the agent itself; or the lease of
the sharers has run out and no walker watches (R341, R343). -/
abbrev State.noneToAsk (s : State) (a line : Nat) : Prop :=
  ((s.dirEntry line).st = .di ∨ (s.dirEntry line).st = .ds) ∧
    (((s.dirEntry line).crs = false ∧ ∀ p ∈ (s.dirEntry line).ptrs, p.toNat = a) ∨
      (s.leaseOver (s.dirEntry line).stamp = true ∧ (s.dirEntry line).w = false))

/-- A core has a spilled binding on a line (R171). -/
abbrev State.spilledAt (s : State) (a line : Nat) : Prop :=
  ∃ u ∈ s.teams, u.live = true ∧ s.teamCore u = a ∧ ∃ b ∈ u.bindings, lineOf b.2.loc = line ∧ b.2.spilled = true

/-- The set of a line in an agent's L1 has a way for it (R191). -/
abbrev State.wayFor (s : State) (a line : Nat) : Prop :=
  ((s.coh.copies.filter (fun k => k.agent == a && k.line % 1024 == line % 1024 && k.line != line)).map Copy.line).eraseDups.length < 12

/-- A request waits for its answers, one for each message. -/
def Opened (s t : State) (r : HomeReq) (msgs : List (MsgKind × Nat)) : Prop :=
  t.coh.txns = s.coh.txns ++ [⟨r.kind, r.agent, r.line, msgs.length, 0, r.cells, r.tags, [], [], .e, r.pkt, s.grantStamp r.agent⟩] ∧
    t.coh.msgs = s.coh.msgs ++ msgs.map (fun m => ⟨m.1, m.2, r.line, r.agent, false⟩) ∧ t.coh.dir = s.coh.dir ∧
    t.coh.copies = s.coh.copies ∧ t.mem = s.mem ∧ t.cur = s.cur

/-- The one request for its line, of an agent of this device: its bank takes it, and the L2 has a way for the line (R328, R339). -/
abbrev State.servable (s : State) (r : HomeReq) : Prop :=
  r ∈ s.coh.reqs ∧ (∀ x ∈ s.coh.reqs, x.line = r.line → x = r) ∧ s.dispatchable r = true ∧ s.l2Full r.line = false ∧ r.pkt = none

/-- The one request for its line, which a peer's packet has brought: its bank takes it, and the peer can be answered (R421, R424). -/
abbrev State.peersTurn (s : State) (r : HomeReq) (k : Packet) : Prop :=
  r ∈ s.coh.reqs ∧ r.agent = 464 + k.src ∧ r.line = k.pa / 128 ∧ (∀ x ∈ s.coh.reqs, x.line = r.line → x = r) ∧
    s.dispatchable r = true ∧ r.pkt = some k ∧ k.src ≠ s.fab.dev ∧ s.group k.src ≠ []

/-- An L1 reads a line of its own accord: no request waits anywhere, and it has no copy (R340). -/
abbrev State.readsAlone (s : State) (a line : Nat) (r : HomeReq) : Prop :=
  s.coh.reqs = [] ∧ s.copyAt a line = none ∧ s.asksAlone a line = true ∧ s.locked line = false ∧ s.changing line = false ∧
    s.l2Full line = false ∧ r = ⟨.getS, a, line, [], [], none⟩

/-- No load, atomic or store of a core waits for a line. -/
abbrev State.noneWaits (s : State) (a line : Nat) : Prop :=
  (∀ l ∈ s.loads, lineOf l.loc = line → l.value ≠ none) ∧ ∀ x ∈ s.path, x.core = a → lineOf x.loc ≠ line

/-- The bytes of a write lie outside lane backing, which has places of its own (R193). -/
abbrev plainCells (cells : List Host.Cell) : Prop := ∀ c ∈ cells, locKind c.1 ≠ 2

/-- Memory and the teams are as they were. -/
def Untouched (s t : State) : Prop := t.mem = s.mem ∧ t.cur = s.cur ∧ t.others = s.others

/-! ## Handover regions -/

/-- HANDOFF's and TAKE's operands name one region, `r`, whose leaf is in handover mode and translated already (R385). -/
abbrev State.passesOne (s : State) (a b : Code) (l r : Nat) : Prop :=
  sbaseOk s.cur false a = true ∧ skOk s.cur false b = true ∧ (s.cur.opnd32 l b).toNat = 1 ∧
    (s.cur.opnd64 l a).toNat % 0x200000 = 0 ∧
    State.passSites s.curCtxNum (s.cur.opnd64 l a) 1 s = (s, [((0, .at_ .handover (r * 0x200000)), none)])

/-! ## Hosts -/

/-- A half-line that a host may reach through a coherent window (R387). -/
abbrev State.windowLine (s : State) (port line half : Nat) : Prop :=
  s.hostUp port = true ∧ half < 2 ∧ (s.hostPort port).inWindow (line * 128) = true ∧ s.backed (line * 128) 128 = true

/-- Nothing is asked of a bridge's line. -/
abbrev BridgeLine.rests (b : BridgeLine) : Prop := b.snoop0 = false ∧ b.snoop1 = false ∧ b.wantHalf = none

/-- Two descriptors that differ in one field at most: the one that an offset names (R391). -/
def FieldWritten (x y : Context) (off : Nat) (v : DWord) : Prop :=
  (off = 0x08 → y = { x with ptroot := v &&& 0x01FFFFFFFFFFFFFF }) ∧ (off = 0x10 → y = { x with lbase := (v.extractLsb' 0 57).signExtend 64 }) ∧
    (off = 0x18 → y = { x with lslots := v.toNat % 2 ^ 16 }) ∧ (off = 0x20 → y = { x with lq := (v.extractLsb' 0 57).signExtend 64 }) ∧
    (off = 0x28 → y = { x with lqk := v.toNat % 16 }) ∧ (off = 0x30 → y = { x with fq := (v.extractLsb' 0 57).signExtend 64 }) ∧
    (off = 0x38 → y = { x with hrq := (v.extractLsb' 0 57).signExtend 64 }) ∧ (off = 0x40 → y = { x with teamBudget := v.toNat % 2 ^ 13 }) ∧
    (off = 0x44 → y = { x with bw := v.toNat % 2 ^ 32 }) ∧ (off = 0x48 → y = { x with depth := v.toNat % 2 ^ 32 }) ∧
    (off = 0x4C → y = { x with power := v.toNat % 2 ^ 16 }) ∧ (off = 0x50 → y = { x with trapBase := v })

/-! ## The fabric -/

/-- A packet has been given to a port of a peer's group: it waits there, or is on its way until it is acknowledged. -/
def State.sentTo (t : State) (d : Nat) (p : Packet → Prop) : Prop :=
  ∃ n ∈ t.group d, ∃ a, p a ∧ (a ∈ (t.port n).tx ∨ ∃ u ∈ (t.port n).unacked, a ∈ u.2)

/-- A packet has been answered: operation, MISC and payload; tag and PA are its own (R420). -/
def State.answers (t : State) (k : Packet) (op misc : Nat) (bs : List Byte) : Prop :=
  t.sentTo k.src (fun a => a.op = op ∧ a.cls = 1 ∧ a.dst = k.src ∧ a.tag = k.tag ∧ a.pa = k.pa ∧ a.misc = misc ∧
    a.payload.take bs.length = bs)

/-- The selected packet is the next that may be acted on (R421), and its sender can be answered. -/
abbrev State.receives (s : State) (k : Packet) (op : Nat) : Prop :=
  s.fab.rx[s.sel]? = some k ∧ k.op = op ∧ (∀ j ∈ s.fab.rx.take s.sel, keepsOrder j k = false) ∧ k.src ≠ s.fab.dev ∧
    s.group k.src ≠ []

/-- A received packet has been taken. -/
def Taken (s t : State) : Prop := t.fab.rx = s.fab.rx.eraseIdx s.sel

/-- The one request to a peer that is open ends, and no team waits for it. -/
def Answered (s t : State) (x : Transaction) : Prop :=
  Taken s t ∧ t.fab.txns = [] ∧ ∀ u ∈ t.teams, ∀ v, u.service = some v → (x.tag, 9) ∉ v.asked

/-- A request of a lane ends with a trap: its load is withdrawn, and the team learns it (R430). -/
def Failed (s t : State) (x : Transaction) (l : Load) (trap : Trap) : Prop :=
  t.fab.txns = [] ∧ t.loads = s.loads.filter (fun y => !x.feeds y) ∧
    ∀ v, s.cur.service = some v → (x.tag, 9) ∈ v.asked → t.cur.service = some { v with
      asked := v.asked.filter (fun a => decide (a ≠ (x.tag, 9)))
      failed := v.failed ++ [(l.lane, trap)]
      lanes := v.lanes ||| maskOf [l.lane] }

/-- Whether a load does more than take a value when its request is answered: it registers a binding, or writes one (R163, R178). -/
def LoadKind.settles : LoadKind → Bool
  | .bind _ _ _ _ => true
  | .bound _ _ _ _ _ => true
  | _ => false

/-- What the header of a good flit leaves in a port: flits acknowledged are kept no longer, the counts of returns are
adopted (R416–R418). -/
def HeaderTaken (p q : Port) (f : Flit) : Prop :=
  q.unacked = p.unacked.filter (fun u => decide (2048 ≤ (f.ack + 4096 - u.1) % 4096)) ∧ q.ackSeq = f.ack ∧ q.up = true ∧
    q.peer = p.peer ∧ q.tx = p.tx

/-! ## Hanks -/

/-- A packet for a device has left: it is on a port of the group, or received here where the device is this one. -/
def State.told (s t : State) (d : Nat) (p : Packet → Prop) : Prop :=
  (d = s.fab.dev → ∃ a ∈ t.fab.rx, p a) ∧ (d ≠ s.fab.dev → s.group d ≠ [] → t.sentTo d p)

/-- The packet of a hank protocol operation on a member. -/
def hankPacket (op m hank : Nat) (a : Packet) : Prop := a.op = op ∧ msgMember a = m ∧ msgHank a = hank

/-- An attempt of this device's launch `l` that `sel` names, alone under its launch. -/
abbrev State.attempts1 (s : State) (l : Launch) (a : Attempt) : Prop :=
  s.fab.attempts[s.sel]? = some a ∧ s.launch? a.launch = some l ∧ l.id = a.launch ∧ a.active = true ∧ 2 ≤ l.hank ∧ l.hank ≤ 16 ∧
    a.answers.length = l.hank ∧ a.hank < 2 ^ 15 ∧ s.fab.attempts.Nodup

end Sys2Proof.Machine
end

