-- ==== Sys2Proof/WellFormed.lean ====
section
/-! DEFINITION. Which instruction terms stand for something: an instruction word takes every code in every field (R10,
R11: which codes it may execute with is its meaning's affair); a word that names no instruction is one that the map does
not list, or whose unused field holds another code than 124 (R17, R33); a step names units that the device has (R1, R4,
R5, R7, R8). -/

namespace Sys2Proof

/-- A core index (R4). -/
def coreOk (c : Nat) : Bool := decide (c < 192)

/-- A fabric port (R414). -/
def portOk (p : Nat) : Bool := decide (p < 36)

/-- An assigned agent number (R8): L1s, streamers, host chiplets, bridges, tiers, peer proxies. -/
def agentOk (a : Nat) : Bool :=
  decide (a < 192) || (decide (256 ≤ a) && decide (a < 456)) || (decide (464 ≤ a) && decide (a < 480))

/-- Where an error can strike (R198, R242). -/
def ErrSite.wf : ErrSite → Bool
  | .register _ lane reg => decide (lane < 1024) && decide (reg < 96)
  | .teamState _ => true
  | .coreStore _ => true
  | .l1Clean core _ => coreOk core
  | .l1Dirty core _ => coreOk core
  | .arithmetic _ _ => true
  | .accumulator core tile elem => coreOk core && decide (tile < 12) && decide (elem < 16384)
  | .strip core => coreOk core
  | .unattributed core => coreOk core
  | .tier pa => decide (0x10000000000 ≤ pa) && decide (pa < 0x30000000000)

/-- Units that run as lockstep duplicates (R411). -/
def LockUnit.wf : LockUnit → Bool
  | .distributor => true
  | .spindle core eng => coreOk core && decide (eng < 2)

/-- Whether the unused fields of a listed word hold 124. -/
def usesRight (w : Word) : Bool := decide (decodeWord w ≠ .unusedFieldNotZ w)

/-- Well-formed instructions. -/
def Instr.wf : Instr → Bool
  | .mode _ => true
  | .mguard _ => true
  | .getc _ _ _ => true
  | .setc _ _ => true
  | .trap _ => true
  | .hcall _ _ _ => true
  | .tlbinv _ _ => true
  | .add _ _ _ => true
  | .sub _ _ _ => true
  | .mul _ _ _ => true
  | .mulh _ _ _ => true
  | .mac _ _ _ => true
  | .div _ _ _ => true
  | .rem _ _ _ => true
  | .min _ _ _ => true
  | .max _ _ _ => true
  | .abs _ _ => true
  | .neg _ _ => true
  | .and _ _ _ => true
  | .or _ _ _ => true
  | .xor _ _ _ => true
  | .shl _ _ _ => true
  | .shr _ _ _ => true
  | .sra _ _ _ => true
  | .clz _ _ => true
  | .popc _ _ => true
  | .bfx _ _ _ => true
  | .bfi _ _ _ => true
  | .sel _ _ _ => true
  | .mov _ _ => true
  | .cvt _ _ _ => true
  | .rndi _ _ => true
  | .rcp _ _ => true
  | .rsq _ _ => true
  | .sqrt _ _ => true
  | .exp2 _ _ => true
  | .log2 _ _ => true
  | .sinp _ _ => true
  | .cosp _ _ => true
  | .cmpeq _ _ _ => true
  | .cmpne _ _ _ => true
  | .cmplt _ _ _ => true
  | .cmple _ _ _ => true
  | .cmpun _ _ _ => true
  | .pand _ _ _ => true
  | .por _ _ _ => true
  | .pxor _ _ _ => true
  | .pnot _ _ => true
  | .vany _ _ => true
  | .vall _ _ => true
  | .ballot _ _ _ => true
  | .unpkQn4 _ _ _ => true
  | .unpkF4 _ _ _ => true
  | .unpkE4m3 _ _ _ => true
  | .unpkE5m2 _ _ _ => true
  | .unpkI8 _ _ _ => true
  | .unpkBf _ _ _ => true
  | .unpkH _ _ _ => true
  | .packQn4 _ _ _ => true
  | .packF4 _ _ _ => true
  | .packE4m3 _ _ _ => true
  | .packE5m2 _ _ _ => true
  | .packI8 _ _ _ => true
  | .packBf _ _ _ => true
  | .packH _ _ _ => true
  | .xln _ _ _ => true
  | .xlnx _ _ _ => true
  | .rdlane _ _ _ => true
  | .tsum _ _ => true
  | .tmin _ _ => true
  | .tmax _ _ => true
  | .tscan _ _ => true
  | .br _ => true
  | .brc _ _ => true
  | .brany _ _ => true
  | .brall _ _ => true
  | .loop _ _ => true
  | .mark _ => true
  | .call _ => true
  | .calli _ => true
  | .ldb _ _ _ => true
  | .ldh _ _ _ => true
  | .ldw _ _ _ => true
  | .ldd _ _ _ => true
  | .ldq _ _ _ => true
  | .stb _ _ _ => true
  | .sth _ _ _ => true
  | .stw _ _ _ => true
  | .std _ _ _ => true
  | .stq _ _ _ => true
  | .ldwa _ _ _ => true
  | .ldda _ _ _ => true
  | .stwl _ _ _ => true
  | .stdl _ _ _ => true
  | .lds _ _ _ => true
  | .ldsd _ _ _ => true
  | .pft _ _ _ => true
  | .cflush _ _ => true
  | .cclean _ _ => true
  | .cinv _ _ => true
  | .atadd _ _ _ => true
  | .atand _ _ _ => true
  | .ator _ _ _ => true
  | .atxor _ _ _ => true
  | .atmin _ _ _ => true
  | .atmax _ _ _ => true
  | .atxch _ _ _ => true
  | .atcas _ _ _ => true
  | .rmadd _ _ => true
  | .rmand _ _ => true
  | .rmor _ _ => true
  | .rmxor _ _ => true
  | .rmmin _ _ => true
  | .rmmax _ _ => true
  | .bld _ _ _ => true
  | .bldn _ _ _ => true
  | .bldd _ _ _ => true
  | .unbind _ => true
  | .bwait _ _ _ => true
  | .bchg _ _ => true
  | .badd _ _ _ => true
  | .bcas _ _ _ => true
  | .bxch _ _ _ => true
  | .rbegin _ => true
  | .rldw _ _ _ => true
  | .rldd _ _ _ => true
  | .fork _ _ _ => true
  | .rdv _ _ => true
  | .ekill _ => true
  | .cpy4 _ _ => true
  | .cpy8 _ _ => true
  | .cpy16 _ _ => true
  | .cra4 _ _ => true
  | .cra8 _ _ => true
  | .cra16 _ _ => true
  | .close _ _ _ => true
  | .waitb _ => true
  | .semset _ _ => true
  | .seminc _ _ => true
  | .semacq _ _ => true
  | .semtry _ _ _ => true
  | .obres _ _ => true
  | .obfree _ => true
  | .mzero _ => true
  | .mma _ _ _ => true
  | .mmap _ _ _ => true
  | .ldacc _ _ _ => true
  | .stacc _ _ _ => true
  | .mtrq _ _ => true
  | .barinit _ _ => true
  | .arrive _ _ _ => true
  | .await _ _ _ => true
  | .arrwait _ _ _ => true
  | .barinv _ => true
  | .park _ _ => true
  | .wake _ => true
  | .xch _ _ _ => true
  | .tender _ _ _ => true
  | .tclass _ _ => true
  | .crsw _ _ _ => true
  | .crwait _ _ => true
  | .handoff _ _ => true
  | .take _ _ => true
  | .hattach _ _ => true
  | .hdetach _ => true
  | .hquery _ _ => true
  | .loadDataReturn _ _ => true
  | .refreshSteal core bank => coreOk core && decide (bank < 16)
  | .machineError site => site.wf
  | .gets agent _ => agentOk agent
  | .getm agent _ => agentOk agent
  | .upgrade agent _ => agentOk agent
  | .geth agent _ => agentOk agent
  | .cleanEvictionNotice agent _ => agentOk agent
  | .writeback agent _ => agentOk agent
  | .watch agent _ => agentOk agent
  | .renewal agent _ => agentOk agent
  | .invalidation agent _ => agentOk agent
  | .forward agent _ => agentOk agent
  | .recall agent _ => agentOk agent
  | .acknowledgement agent _ => agentOk agent
  | .changeNotice core _ => coreOk core
  | .leaseExpiry agent _ => agentOk agent
  | .renewalDue agent _ => agentOk agent
  | .leaseSweep _ => true
  | .directoryEntryUncorrectable _ => true
  | .rebalanceEpoch die => decide (die < 4)
  | .carveEpoch slice _ => decide (slice < 64)
  | .patrolScrub pa _ => decide (pa < 2 ^ 48)
  | .laneCommit _ lane => decide (lane < 1024)
  | .regionTimeout _ lane => decide (lane < 1024)
  | .bwaitTimeout _ => true
  | .parkTimeout _ => true
  | .xchtmo _ => true
  | .pairtmo core => coreOk core
  | .spindleProgramStart core eng => coreOk core && decide (eng < 2)
  | .spindleProgramEnd core eng => coreOk core && decide (eng < 2)
  | .engineOperationStart core => coreOk core
  | .mmaStrip core => coreOk core
  | .mmapStart core => coreOk core
  | .pageResponse _ _ => true
  | .atsInvalidation ctx _ kind => decide (ctx < 16) && decide (kind ≤ 2)
  | .placementResponse ctx _ _ => decide (ctx < 16)
  | .hcallReply _ _ => true
  | .bid _ core => coreOk core
  | .serviceEndWorkgroup _ => true
  | .preemption _ => true
  | .restore _ core => coreOk core
  | .clockThrottle core _ => coreOk core
  | .thermalShutdown die => decide (die < 4)
  | .kickRelease port => decide (port < 2)
  | .kickAcquire port => decide (port < 2)
  | .takeResume _ => true
  | .hostReadShared port _ half => decide (port < 2) && decide (half < 2)
  | .hostReadOwnership port _ half => decide (port < 2) && decide (half < 2)
  | .hostWriteback port _ half data _ => decide (port < 2) && decide (half < 2) && decide (data.length = 64)
  | .hostDropClean port _ half => decide (port < 2) && decide (half < 2)
  | .snoopTimeout port => decide (port < 2)
  | .contextDescriptorWrite ctx off _ _ => decide (ctx < 16) && decide (off % 4 = 0) && decide (off < 88)
  | .bucketTableWrite die bucket _ => decide (die < 4) && decide (bucket < 4096)
  | .coherentWindowWrite port win _ _ => decide (port < 2) && decide (win < 64)
  | .configWrite _ _ _ => true
  | .directoryDiagnosticRead pa => decide (pa < 2 ^ 48)
  | .heaterStep _ => true
  | .heaterCodeWrite _ _ => true
  | .ringOutOfLock _ _ => true
  | .lockInterface ctx => decide (ctx < 16)
  | .run ctx => decide (ctx < 16)
  | .flitData port _ => portOk port
  | .flitIdle port _ => portOk port
  | .flitResync port _ => portOk port
  | .flitRetryRequest port _ => portOk port
  | .groupFence port _ => portOk port
  | .linkDown port => portOk port
  | .portUp port => portOk port
  | .unlistedOpcode w => (formOf (opcodeOf w)).isNone
  | .unusedFieldNotZ w => !usesRight w
  | .hostPortLinkLoss port => decide (port < 2)
  | .lockstepMismatch unit => unit.wf
  | .endLaunchBySystemSoftware _ => true
  | .coreReEnable core => coreOk core
  | .nop => true
  | .yield => true
  | .brk => true
  | .sret => true
  | .join => true
  | .ret => true
  | .exit => true
  | .fencea => true
  | .fencer => true
  | .fences => true
  | .unball => true
  | .rcommit => true
  | .rabort => true
  | .clauseStart => true
  | .storePathDrain => true
  | .regionSwitch => true
  | .copyTransfer => true
  | .batchCompletion => true
  | .tailChange => true
  | .gateOpen => true
  | .announcement => true
  | .bidWindowClose => true
  | .confirm => true
  | .withdraw => true
  | .confirmTimeout => true
  | .reAnnounce => true
  | .childLaunchTake => true
  | .getVersion => true
  | .getCapabilities => true
  | .negotiateAlgorithms => true
  | .getDigests => true
  | .getCertificate => true
  | .challenge => true
  | .getMeasurements => true
  | .keyExchange => true
  | .finish => true
  | .deviceReset => true
  | .pktReadShared => true
  | .pktReadExclusive => true
  | .pktUpgrade => true
  | .pktUncachedRead => true
  | .pktWrite => true
  | .pktAtomic => true
  | .pktReduction => true
  | .pktRenewal => true
  | .pktCleanEvictionNotice => true
  | .pktWriteback => true
  | .pktData => true
  | .pktDataAckCount => true
  | .pktAcknowledgement => true
  | .pktWritePerformed => true
  | .pktError => true
  | .pktInvalidate => true
  | .pktForward => true
  | .pktRecall => true
  | .detourRelay => true
  | .invalidationResend => true
  | .transactionTimeout => true
  | .hankReserve => true
  | .hankReserveAnswer => true
  | .hankCommit => true
  | .hankRelease => true
  | .hankAttach => true
  | .hankDetach => true
  | .departureNotice => true
  | .windowRead => true
  | .windowWrite => true
  | .windowAtomic => true
  | .windowAnswer => true
  | .preemptHank => true
  | .windowBarrier => true
  | .hankReserveTimeout => true
  | .hankRetry => true
  | .drainHold => true
  | .drainPreempt => true
  | .hankAbandon => true
  | .hostUncachedAccess port pa size wr =>
    decide (port < 2) && decide (pa < 2 ^ 48) && wr.all (fun bs => decide (bs.length = size))
  | .backInvalidateSnoopAnswer port _ half data =>
    decide (port < 2) && decide (half < 2) && data.all (fun bs => decide (bs.length = 64))

end Sys2Proof
end

