-- ==== Sys2Proof/Certificates/Slice0/Obligations.lean ====
section
/-! DEFINITION. The statements of this row. Each cites the rules of spec/ that it says, or the log entry that it rests
on. -/

open Sys2Proof Sys2Proof.Machine

/-! ## Words -/

/-- Encoding keeps every bit of an instruction (R10, R17, R33): the word of a well-formed instruction decodes to it, and
nothing of the word is left over; and every word of 32 bits is the word of the one well-formed instruction it decodes to. -/
def Obligations.DecodeOfEncode : Prop :=
  (∀ (i : Instr) (w : Word), i.wf = true → encode i = some w → decode (bytesOfWord w) = .ok (i, [])) ∧
  (∀ w : Word, encode (decodeWord w) = some w ∧ (decodeWord w).wf = true)

/-- Words written out from the spec's encodings (R10: opcode, d, a, b) decode to the instructions they stand for. -/
def Obligations.WrittenWordsDecode : Prop :=
  decodeWord 0b00000000000_1111100_1111100_1111100 = .nop ∧
  decodeWord 0b00000000010_000000000000000011011 = .mguard 0x1B ∧
  decodeWord 0b00000010000_0000101_0000011_1111001 = .add 5 3 121 ∧
  decodeWord 0b00001000010_0000001_0000100_1111000 = .cmplt 1 4 120 ∧
  decodeWord 0b00001001110_1100110_0000011_1111000 = .ballot 102 3 120 ∧
  decodeWord 0b00010000001_0001010_1111100_1111000 = .brc 10 120 ∧
  decodeWord 0b00010001000_1111100_0001000_1111100 = .calli 8 ∧
  decodeWord 0b00000001001_1100100_1111000_1100110 = .hcall 100 120 102 ∧
  decodeWord 0b00000001010_1111100_1100000_1111000 = .tlbinv 96 120 ∧
  decodeWord 0b00000000111_1111100_1111100_1111100 = .brk ∧
  decodeWord 0 = .unusedFieldNotZ 0 ∧
  decodeWord 0xFFFFFFFF = .unlistedOpcode 0xFFFFFFFF

/-- A word whose opcode is in no row raises ILLEGAL, one whose unused field holds another code than 124 raises OPERAND,
before any effect (R17, R33); where the instruction of that opcode is ILLEGAL as well, a control transfer that is not the
last of its clause, ILLEGAL is lower and is the one taken (R22, R36). -/
def Obligations.UnlistedWordsTrap : Prop :=
  ∀ (s : State) (w : Word), s.plain = true → s.hasHandler = true →
    (formOf (opcodeOf w) = none → decodeWord w = .unlistedOpcode w) ∧
    TrapsHere (.unlistedOpcode w) s ⟨1, 0, 0⟩ ∧
    (let op := opcodeOf w
     let control := (0x006 ≤ op ∧ op ≤ 0x008) ∨ (0x080 ≤ op ∧ op ≤ 0x08A)
     ((control → s.lastInClause = true) → s.hasSetb = true → op ∉ [0x008, 0x086, 0x089, 0x151, 0x152] →
       TrapsHere (.unusedFieldNotZ w) s ⟨2, 0, 0⟩) ∧
     (control → s.lastInClause = false → TrapsHere (.unusedFieldNotZ w) s ⟨1, 0, 0⟩))

/-! ## Steps -/

/-- A step whose turn, once time has passed, is a ready team's executes the instruction that the team's next word decodes to,
on the state in which the team has taken the slot, and then settles. -/
def Obligations.StepRunsDecodedWord : Prop :=
  ∀ (s s' : State) (t : Team) (c : Clause) (w : Word) (rest : List Move),
    s.tick.agenda = .team t.uid :: rest → s' = { s.tick with agenda := rest } → s'.team? t.uid = some t →
    s'.ready t = true → t.clause = some c → c.words[t.idx]? = some w →
    step s = settled (exec (decodeWord w) ({ s'.focusTeam t.uid with issuer := .team }).beginIssue)

/-- The start of a clause latches the words that memory holds at the PC: a header that keeps R19, its ICNT instruction
words and its LCNT literals; the flags that the header names are set (R19, R22, R24). -/
def Obligations.ClauseStartLatchesWords : Prop :=
  ∀ (s : State) (h : Word) (ws : List Word),
    s.issuer = .team → s.mayStart s.cur = true → s.cur.service = none → s.cur.duePending = none → s.cur.idx = 0 →
    s.cur.bindings = [] → headerOk h = true → ws.length = (h >>> 28).toNat + (h.extractLsb' 25 3).toNat →
    (∀ (k : Nat) (w : Word), (h :: ws)[k]? = some w →
      s.fetchWord (0, s.cur.uid) s.curCore s.curCtxNum (s.cur.pc + BitVec.ofNat 64 (4 * k)) = (s, .words [w])) →
    h.extractLsb' 13 12 &&& s.cur.flags = 0 →
    ∃ t, exec .clauseStart s = .next t ∧
      (∃ c, t.cur.clause = some c ∧ c.header = h ∧ c.words ++ c.lits = ws ∧ c.words.length = (h >>> 28).toNat) ∧
      (∀ f : Nat, f < 12 → t.cur.flags.getLsbD f =
        (s.cur.flags.getLsbD f || decide ((h.extractLsb' 9 4).toNat = f) || decide ((h.extractLsb' 5 4).toNat = f))) ∧
      t.cur.pc = s.cur.pc ∧ t.cur.idx = 0 ∧ t.cur.v = s.cur.v ∧ t.cur.s = s.cur.s ∧ t.cur.p = s.cur.p ∧
      t.cur.mask = s.cur.mask ∧ t.mem = s.mem

/-- A flag that stays set after a step names outstanding work of its team, or was set by the clause in progress: a flag
clears when everything tracked under it has completed (R24). -/
def Obligations.StepKeepsFlagsTracked : Prop :=
  ∀ s t : State, s.flagsTracked → step s = .next t → t.flagsTracked

/-- Memory keeps its canonical form in every step: addresses rise strictly and no listed byte reads as an unlisted one does,
so that equal memories are equal data (the model's own form of memory, log entry 1). -/
def Obligations.StepKeepsMemoryCanonical : Prop :=
  ∀ s t : State, s.memCanonical → step s = .next t → t.memCanonical

/-- The device right after reset: no team, memory with nothing listed and in canonical form, READY clear (R412), no line
held (R337), leases of N = 16 (R344), class records of R325, CARVE.THRESH 0x0100 (R335), contexts with every field 0
(R391), no window enabled (R387), device number 0 of 1 (R415), and so
no completion flag that work could be missing for (R24). -/
def Obligations.ResetState : Prop :=
  let s := State.reset
  s.cur.live = false ∧ s.others = [] ∧ s.mem = [] ∧ s.memCanonical ∧ s.svc.ready = false ∧ s.coh.dir = [] ∧ s.coh.copies = [] ∧
    s.coh.leaseL1 = 16 ∧ s.coh.leasePeer = 16 ∧
    (∀ c, (s.ctx c).valid = false ∧ (s.ctx c).ptroot = 0 ∧ (s.ctx c).trapBase = 0 ∧ (s.ctx c).priv = false) ∧
    (∀ d, (s.die d).carve = 0x100 ∧ (s.die d).holder = none) ∧
    (∀ p k, (tget Window.reset (s.hostPort p).windows k).enabled = false) ∧
    (∀ p, (tget Port.reset s.fab.ports p).up = false) ∧ s.fab.dev = 0 ∧ s.fab.ndev = 1 ∧ s.cur.mode = 0x10 ∧ s.flagsTracked

/-! ## Memory -/

/-- Writing cells keeps memory's canonical form, gives the bytes written and changes no other byte; the little-endian
value of what was written is read back (R9), for bytes that stand where their location says: all but those of a lane window
beyond its slice, whose backing is translated (R193). -/
def Obligations.MemoryWriteThenRead : Prop :=
  ∀ (s : State) (loc n x : Nat),
    let t := s.writeMem (cellsFrom loc (leBytes n x))
    (s.memCanonical → t.memCanonical) ∧
      ((∀ i, i < n → s.storePlace (loc + i) = loc + i) →
        cellNat t.mem loc n = x % 256 ^ n ∧ (∀ a, (a < loc ∨ loc + n ≤ a) → t.byte a = s.byte a))

/-! ## Traps -/

/-- TRAP and BRK enter the handler (R80, R124, R125): TRAPI with bits [23:0] of b in the lowest active lane, or BRK with sub-
code 0; FAULTPC names next, index 0; nothing but trap entry changes. A trap at handler level ends the workgroup with status 2,
"double trap"; with TRAPBASE 0 any trap ends it with status 1, "trap without handler": every team of it stops, and it keeps the
status and the code (R79, R81, R452), which its launch has from the first such end that reaches the distributor (R398). -/
def Obligations.TrapsEnterHandlerOrEnd : Prop :=
  (∀ (s : State) (b : Code) (l : Nat), s.plain = true → s.lastInClause = true → s.hasHandler = true →
     lowestLane s.cur.mask = some l → srcOk s.cur false b = true →
     (∃ t, exec (.trap b) s = .next t ∧
       TrapEntered s t ⟨19, 0, (s.cur.opnd32 l b).extractLsb' 0 24⟩ (faultPcWord s.cur.nextPc 0) 0) ∧
     (∃ t, exec .brk s = .next t ∧ TrapEntered s t ⟨20, 0, 0⟩ (faultPcWord s.cur.nextPc 0) 0)) ∧
  (∀ (s : State) (w : Wg) (l : Launch), s.plain = true → s.lastInClause = true → s.hasHandler = false →
     s.wg? s.cur.wg = some w → w.status = 0 → s.launch? w.launch = some l → w.hank = none → l.status = 0 →
     ∃ t, exec .brk s = .next t ∧
       (∀ u ∈ t.teams, u.live = true → u.wg = s.cur.wg → u.ending = true) ∧
       (∃ w', t.wg? s.cur.wg = some w' ∧ w'.phase = .finishing ∧ w'.trap = 20 ∧ (w'.status = if s.cur.hlevel then 2 else 1) ∧
         ∃ l', (t.countEnd w').launch? w.launch = some l' ∧ l'.trap = 20 ∧ l'.stopped = true ∧ l'.ended = l.ended + 1 ∧
           l'.status = if s.cur.hlevel then 2 else 1) ∧
       (s.cur.hlevel = false → t.cur.faultInfo = BitVec.ofNat 5 20 ++ (0 : BitVec 27)) ∧ t.mem = s.mem)

/-- SRET at handler level restores MODE and the mask from the save slot, clears HLEVEL and resumes at FAULTPC for the lanes
of FAULTMASK, or for the whole saved mask when it is 0; it is an observation point (R81, R126, R366), and waits, with nothing of
the team changed, for peers' lines that a binding's change has still to bring (log entry 15). Outside handler level it raises
ILLEGAL. -/
def Obligations.SretResumes : Prop :=
  ∀ s : State, s.plain = true → s.lastInClause = true →
    (s.cur.hlevel = true → s.obsWaits s.cur = true → ∃ t, exec .sret s = .next t ∧ t.cur = s.cur ∧ t.mem = s.mem) ∧
    (s.cur.hlevel = true → s.obsWaits s.cur = false → ∃ r t, exec .sret s = .next t ∧
      r = { s.cur with
        tstat := s.cur.tstat &&& ~~~ 0x10000
        mode := s.cur.saveMode
        mask := s.cur.saveMask
        pc := (s.cur.faultPc.extractLsb' 0 57).signExtend 64
        idx := (s.cur.faultPc.extractLsb' 60 4).toNat
        clause := none
        resumed := true
        focused := decide (s.cur.faultMask ≠ 0) && s.cur.focused
        only := if s.cur.faultMask = 0 then none else some s.cur.faultMask } ∧
      t.cur.mode = r.mode ∧ t.cur.mask = r.mask ∧ t.cur.pc = r.pc ∧ t.cur.idx = r.idx ∧ t.cur.clause = none ∧
      t.cur.tstat = r.tstat ∧ t.cur.only = r.only ∧ t.cur.v = (s.setCur r).observe.cur.v ∧
      t.cur.bindings = (s.setCur r).observe.cur.bindings ∧
      t.cur.s = s.cur.s ∧ t.cur.p = s.cur.p ∧ t.cur.flags = s.cur.flags ∧ t.cur.stack = s.cur.stack ∧
      (s.unnotified → t.mem = s.mem)) ∧
    (s.hasHandler = true → TrapsHere .sret s ⟨1, 0, 0⟩)

/-- If several conditions hold for one instruction the lowest code is taken (R36): for CALL, ILLEGAL for its place in the
clause, OPERAND for its code, ALIGN for its target, SPILLFULL for a full stack, in this order. Stage 1 of an access (R133,
R140): an address that is not a multiple of the access's size raises ALIGN, a reserved window of the aperture ACCESS with sub-
code 1, before any lane has effect. -/
def Obligations.ConditionsAreChecked : Prop :=
  (∀ (s : State) (b : Code), s.plain = true → s.hasHandler = true →
     (s.lastInClause = false → TrapsHere (.call b) s ⟨1, 0, 0⟩) ∧
     (s.lastInClause = true → skOk s.cur true b = false → TrapsHere (.call b) s ⟨2, 0, 0⟩) ∧
     (s.lastInClause = true → skOk s.cur true b = true → (s.cur.target b).toNat % 4 ≠ 0 → TrapsHere (.call b) s ⟨3, 0, 0⟩) ∧
     (s.lastInClause = true → skOk s.cur true b = true → (s.cur.target b).toNat % 4 = 0 → 4096 ≤ s.cur.stack.length →
       TrapsHere (.call b) s ⟨22, 0, 0⟩)) ∧
  (∀ (s : State) (i : Instr) (e : MemEntry) (x : Nat × DWord × Nat), s.plain = true → s.hasHandler = true →
     s.hasSeta = true → s.hasSetb = true → s.cur.bindings = [] →
     (s.cur.loadEntry i = some e ∨ s.cur.storeEntry i = some e) → e.legal = true → e.accesses = [x] →
     (x.2.1.toNat % e.size ≠ 0 → TrapsHere i s ⟨3, 0, 0⟩) ∧
     (x.2.1.toNat % e.size = 0 → 0xFFFFF60000000000 ≤ x.2.1.toNat → TrapsHere i s ⟨5, 1, 0⟩))

/-- The rules of a clause (R22, R25, R26): a control-flow instruction that is not the last of its clause raises ILLEGAL, and
so does a long-latency instruction in a clause that names no flag for its class. -/
def Obligations.ClauseRulesAreChecked : Prop :=
  ∀ (s : State) (a b d : Code), s.plain = true → s.hasHandler = true →
    (s.lastInClause = false →
      ∀ i ∈ [Instr.br b, .brc d b, .brany d b, .brall d b, .loop d b, .call b, .calli a, .ret, .exit, .trap b, .brk, .sret,
        .join, .mark b], TrapsHere i s ⟨1, 0, 0⟩) ∧
    (s.cur.seta = 15 → ∀ i ∈ [Instr.ldb d a b, .ldh d a b, .ldw d a b, .ldd d a b, .ldq d a b, .ldwa d a b, .ldda d a b,
      .lds d a b, .ldsd d a b, .atadd d a b, .atand d a b, .ator d a b, .atxor d a b, .atmin d a b, .atmax d a b,
      .atxch d a b, .atcas d a b, .bld d a b, .bldn d a b, .bldd d a b, .badd d a b, .bcas d a b, .bxch d a b,
      .rldw d a b, .rldd d a b, .ldacc d a b, .arrive d a b], TrapsHere i s ⟨1, 0, 0⟩) ∧
    (s.cur.setb = 15 → ∀ i ∈ [Instr.stb d a b, .sth d a b, .stw d a b, .std d a b, .stq d a b, .stwl d a b, .stdl d a b,
      .rmadd a b, .rmand a b, .rmor a b, .rmxor a b, .rmmin a b, .rmmax a b, .cflush a b, .cclean a b,
      .cinv a b, .cpy4 a b, .cpy8 a b, .cpy16 a b, .cra4 a b, .cra8 a b, .cra16 a b, .mma d a b, .mmap d a b,
      .mzero d, .stacc d a b, .mtrq a b, .handoff a b, .take a b], TrapsHere i s ⟨1, 0, 0⟩)

/-! ## System and mode -/

/-- NOP changes nothing: the team goes on with the next word of its clause, or at the clause that follows in memory, with
the header's yield bit applied. YIELD makes the team yielding, and nothing else (R19, R22, R89, R94, R114). -/
def Obligations.NopAndYieldGoOn : Prop :=
  ∀ (s : State) (c : Clause), s.plain = true → s.cur.clause = some c →
    (s.cur.idx + 1 < (c.header.extractLsb' 28 4).toNat →
      exec .nop s = .next (s.setCur { s.cur with
        idx := s.cur.idx + 1
        resumed := false
        focused := s.cur.focused && s.cur.hlevel
        fresh := s.cur.fresh + 1 })) ∧
    (¬ s.cur.idx + 1 < (c.header.extractLsb' 28 4).toNat →
      exec .nop s = .next (s.setCur { s.cur with
        pc := s.cur.pc + BitVec.ofNat 64 (4 * (1 + (c.header.extractLsb' 28 4).toNat + (c.header.extractLsb' 25 3).toNat))
        idx := 0
        clause := none
        resumed := false
        focused := s.cur.focused && s.cur.hlevel
        yielding := s.cur.yielding || c.header.getLsbD 3
        lastIssue := if c.header.getLsbD 3 then some s.cur.now else s.cur.lastIssue
        fresh := s.cur.fresh + 1 })) ∧
    exec .yield s = .next (s.setCur { s.cur with yielding := true, lastIssue := some s.cur.now }.advance)

/-- MODE with TYPE 12–15, RND 6–7, SCOPE 6–7 or non-zero bits [3:0] raises ILLEGAL with MODE unchanged, otherwise it writes
all 21 bits. MGUARD writes MODE[11:7] from value bits [4:0]; with a non-zero bit above, it raises ILLEGAL. SETC of MODE
applies the same checks, and that bits [31:21] are zero, with OPERAND (R29). -/
def Obligations.ModeWritesAreChecked : Prop :=
  ∀ (s : State) (v : ModeVal), s.plain = true →
    let bad : Prop := 12 ≤ (v.extractLsb' 17 4).toNat ∨ 6 ≤ (v.extractLsb' 14 3).toNat ∨ 6 ≤ (v.extractLsb' 4 3).toNat ∨
      v.extractLsb' 0 4 ≠ 0
    (¬ bad → exec (.mode v) s = .next (s.setCur { s.cur with mode := v }.advance)) ∧
    (bad → s.hasHandler = true → TrapsHere (.mode v) s ⟨1, 0, 0⟩) ∧
    (v.extractLsb' 5 16 = 0 → exec (.mguard v) s = .next (s.setCur { s.cur with
      mode := s.cur.mode.extractLsb' 12 9 ++ v.extractLsb' 0 5 ++ s.cur.mode.extractLsb' 0 7 }.advance)) ∧
    (v.extractLsb' 5 16 ≠ 0 → s.hasHandler = true → TrapsHere (.mguard v) s ⟨1, 0, 0⟩) ∧
    (∀ (a b : Code) (l : Nat) (x : Word), kRun s.cur 1 1 a = true → s.cur.lit (a.toNat - 120) = 1 →
      srcOk s.cur false b = true → s.cur.leader = some l → s.cur.opnd32 l b = x → x.extractLsb' 0 21 = v →
      (¬ bad ∧ x.extractLsb' 21 11 = 0 → exec (.setc a b) s = .next (s.setCur { s.cur with mode := v }.advance)) ∧
      (bad ∨ x.extractLsb' 21 11 ≠ 0 → s.hasHandler = true → TrapsHere (.setc a b) s ⟨2, 0, 0⟩))

/-- GETC copies a control register into each contributing lane of a vector destination, or into a scalar (R35, R92): the team's
own registers, the numbers of its core, device and stack depth, and the settings of its context and device; the 64-bit ones as a
pair. Nothing else changes. SETC writes a control register from
the leader lane's value (R35, R71, R79, R93, R370): TSTAT's RW bits with the RO bits kept, HAZCHK and TRAPBASE of the context;
with no leader nothing. Control registers are guarded (R35, R92, R93): an index that R35 does not list raises OPERAND, an index
of 0x40 or more without privilege raises ACCESS with sub-code 2, SETC of a register marked RO raises OPERAND. -/
def Obligations.ControlRegistersReadAndWrite : Prop :=
  (∀ (s : State) (d a b : Code) (x : Word), s.plain = true → kRun s.cur 1 1 a = true → isZ b = true →
     s.cur.leader ≠ none →
     (s.cur.lit (a.toNat - 120) = 0 ∧ x = s.cur.tstat ∨ s.cur.lit (a.toNat - 120) = 1 ∧ x = s.cur.mode.setWidth 32 ∨
       s.cur.lit (a.toNat - 120) = 3 ∧ x = s.cur.faultInfo ∨ s.cur.lit (a.toNat - 120) = 8 ∧ x = s.ticks.extractLsb' 0 32 ∨
       s.cur.lit (a.toNat - 120) = 9 ∧ x = s.cur.clkLatch.getD (s.ticks.extractLsb' 32 32) ∨
       s.cur.lit (a.toNat - 120) = 10 ∧ x = BitVec.ofNat 32 s.curCore ∨
       s.cur.lit (a.toNat - 120) = 13 ∧ x = BitVec.ofNat 32 (s.fab.ndev * 2 ^ 16 + s.fab.dev) ∨
       s.cur.lit (a.toNat - 120) = 18 ∧ x = BitVec.ofNat 32 s.cur.stack.length ∨
       s.curCtx.priv = true ∧
         (s.cur.lit (a.toNat - 120) = 0x40 ∧ x = BitVec.ofNat 32 s.coh.leaseL1 ∨
         s.cur.lit (a.toNat - 120) = 0x41 ∧ x = BitVec.ofNat 32 s.coh.leasePeer ∨
         s.cur.lit (a.toNat - 120) = 0x42 ∧ x = s.curCtx.mixchk ∨ s.cur.lit (a.toNat - 120) = 0x43 ∧ x = s.curCtx.hazchk ∨
         s.cur.lit (a.toNat - 120) = 0x44 ∧ x = s.cur.stepctl ∨
         s.cur.lit (a.toNat - 120) = 0x45 ∧ x = (s.die (dieOf s.curCore)).carve)) →
     (vRun s.cur 1 1 d = true → s.cur.bindings = [] → ∃ t, exec (.getc d a b) s = .next t ∧
       (∀ l, t.cur.vget l d.toNat = if s.cur.contrib.getLsbD l ∧ l < s.cur.size then x else s.cur.vget l d.toNat) ∧
       (∀ l r, r < 96 → r ≠ d.toNat → t.cur.vget l r = s.cur.vget l r) ∧ t.cur.s = s.cur.s ∧ t.cur.p = s.cur.p ∧
       t.cur.mode = s.cur.mode ∧ t.cur.tstat = s.cur.tstat ∧ t.cur.pc = s.cur.advance.pc ∧ t.mem = s.mem) ∧
     (sRun 1 1 d = true → ∃ t, exec (.getc d a b) s = .next t ∧ t.cur.sget (sNum d) = x ∧
       (∀ n, n ≠ sNum d → t.cur.sget n = s.cur.sget n) ∧ t.cur.v = s.cur.v ∧ t.cur.p = s.cur.p ∧
       t.cur.mode = s.cur.mode ∧ t.cur.tstat = s.cur.tstat ∧ t.cur.pc = s.cur.advance.pc ∧ t.mem = s.mem)) ∧
  (∀ (s : State) (d a b : Code) (x : DWord), s.plain = true → kRun s.cur 1 1 a = true → isZ b = true → s.cur.leader ≠ none →
     (s.cur.lit (a.toNat - 120) = 2 ∧ x = s.cur.faultPc ∨
       s.curCtx.priv = true ∧ (s.cur.lit (a.toNat - 120) = 0x46 ∧ x = s.curCtx.spillBase ∨
         s.cur.lit (a.toNat - 120) = 0x47 ∧ x = s.curCtx.trapBase)) →
     (vRun s.cur 2 2 d = true → s.cur.bindings = [] → ∃ t, exec (.getc d a b) s = .next t ∧
       (∀ l, l < s.cur.size → s.cur.contrib.getLsbD l = true → t.cur.opnd64 l d = x) ∧ t.cur.s = s.cur.s ∧ t.cur.p = s.cur.p ∧
       t.cur.tstat = s.cur.tstat ∧ t.cur.pc = s.cur.advance.pc ∧ t.mem = s.mem) ∧
     (sRun 2 2 d = true → ∃ t, exec (.getc d a b) s = .next t ∧ (∀ l, t.cur.opnd64 l d = x) ∧
       (∀ n, n ≠ sNum d → n ≠ sNum d + 1 → t.cur.sget n = s.cur.sget n) ∧ t.cur.v = s.cur.v ∧ t.cur.p = s.cur.p ∧
       t.cur.tstat = s.cur.tstat ∧ t.cur.pc = s.cur.advance.pc ∧ t.mem = s.mem)) ∧
  (∀ (s : State) (a b : Code) (l : Nat), s.plain = true → kRun s.cur 1 1 a = true → s.cur.leader = some l →
     (s.cur.lit (a.toNat - 120) = 0 → srcOk s.cur false b = true → s.cur.opnd32 l b &&& 0xE0FEF800 = 0 →
       exec (.setc a b) s = .next (s.setCur { s.cur with
         tstat := (s.cur.tstat &&& 0xFFFFF800) ||| (s.cur.opnd32 l b &&& 0x7FF) }.advance)) ∧
     (s.cur.lit (a.toNat - 120) = 0x43 → s.curCtx.priv = true → srcOk s.cur false b = true → (s.cur.opnd32 l b).toNat < 4 →
       ∃ t, exec (.setc a b) s = .next t ∧ t.cur = s.cur.advance ∧
         t.ctx s.curCtxNum = { s.curCtx with hazchk := s.cur.opnd32 l b } ∧
         (∀ c, c ≠ s.curCtxNum → t.ctx c = s.ctx c) ∧ t.mem = s.mem) ∧
     (s.cur.lit (a.toNat - 120) = 0x47 → s.curCtx.priv = true → srcOk s.cur true b = true →
       (s.cur.opnd64 l b).toNat % 4096 = 0 →
       ∃ t, exec (.setc a b) s = .next t ∧ t.cur = s.cur.advance ∧
         t.ctx s.curCtxNum = { s.curCtx with trapBase := s.cur.opnd64 l b } ∧
         (∀ c, c ≠ s.curCtxNum → t.ctx c = s.ctx c) ∧ t.mem = s.mem)) ∧
  (∀ (s : State) (d a b : Code), s.plain = true → s.hasHandler = true → kRun s.cur 1 1 a = true →
     let i := (s.cur.lit (a.toNat - 120)).toNat
     (i = 7 ∨ (0x13 ≤ i ∧ i < 0x40) ∨ 0x48 ≤ i → TrapsHere (.getc d a b) s ⟨2, 0, 0⟩ ∧ TrapsHere (.setc a b) s ⟨2, 0, 0⟩) ∧
     (0x40 ≤ i ∧ i ≤ 0x45 ∧ s.curCtx.priv = false → vRun s.cur 1 1 d = true → isZ b = true →
       TrapsHere (.getc d a b) s ⟨5, 2, 0⟩) ∧
     (0x40 ≤ i ∧ i ≤ 0x45 ∧ s.curCtx.priv = false → srcOk s.cur false b = true →
       (s.cur.leader = none ∨ ∃ l, s.cur.leader = some l ∧ s.ctrlCheck s.cur i (s.cur.opnd32 l b).toNat = true) →
       TrapsHere (.setc a b) s ⟨5, 2, 0⟩) ∧
     ((3 ≤ i ∧ i ≤ 14 ∧ i ≠ 7) ∨ i = 17 ∨ i = 18 → TrapsHere (.setc a b) s ⟨2, 0, 0⟩))

/-- HCALL with everything before it complete sends its request and parks; the status that the reply brings is written to
the scalar destination, and the team goes on (R127). -/
def Obligations.HcallParksAndReturns : Prop :=
  ∀ (s : State) (d a b : Code), szOk false d = true → kRun s.cur 1 1 a = true → sbaseOk s.cur true b = true →
    (s.cur.lit (a.toNat - 120)).toNat < 0x100 →
    (s.plain = true → s.accessesDone s.cur.uid s.nextSeq 5 = true →
      exec (.hcall d a b) s = .next (s.setCur { s.cur with park := .hcall (s.cur.lit (a.toNat - 120)).toNat none })) ∧
    (∀ (st : Word) (n : Nat), s.cur.park = .hcall n (some st) → s.unpark.plain = true →
      ∃ t, exec (.hcall d a b) s = .next t ∧ t.cur.park = .running ∧ t.cur.pc = s.cur.advance.pc ∧
        (isS d = true → t.cur.sget (sNum d) = st) ∧ (∀ k, (isS d = false ∨ k ≠ sNum d) → t.cur.sget k = s.cur.sget k) ∧
        t.cur.v = s.cur.v ∧ t.cur.p = s.cur.p ∧ t.mem = s.mem)

/-- TLBINV removes the context's translations that its kind names, and completes when the accesses that used them are
complete; it needs the team's own accesses to be complete at package scope first (R361). -/
def Obligations.TlbinvRemovesTranslations : Prop :=
  ∀ (s : State) (a b : Code) (l : Nat), s.plain = true → sbaseOk s.cur true a = true → skOk s.cur false b = true →
    s.cur.leader = some l → (s.cur.opnd32 l b).toNat ≤ 2 → s.accessesDone s.cur.uid s.nextSeq 4 = true →
    s.ctxAccessesDone s.curCtxNum s.nextSeq = true →
    ∃ t, exec (.tlbinv a b) s = .next t ∧ t.cur.pc = s.cur.advance.pc ∧
      (∀ e ∈ t.tlb, e ∈ s.tlb) ∧ (∀ e ∈ s.tlb, e.ctx ≠ s.curCtxNum → e ∈ t.tlb) ∧
      ((s.cur.opnd32 l b).toNat = 2 → ∀ e ∈ t.tlb, e.ctx ≠ s.curCtxNum) ∧
      ((s.cur.opnd32 l b).toNat = 0 → t.tlbEntry s.curCtxNum (s.cur.opnd64 l a) = none) ∧
      t.cur.v = s.cur.v ∧ t.cur.s = s.cur.s ∧ t.cur.p = s.cur.p ∧ t.mem = s.mem

/-! ## Arithmetic, conversions, lanes -/

/-- Every register-to-register instruction with a register destination completes under the TYPEs of R88 with operand codes
of R86, and leaves alone everything but its destination and the exception flags (R86–R88, R100–R112). A TYPE or operand code outside
R88 and R86 raises OPERAND, with nothing changed. -/
def Obligations.ComputeCompletesWithFrame : Prop :=
  ∀ (s : State) (i : Instr) (e : RegEntry), s.computes = true → s.cur.entry i = some e →
    (e.legal = true → ∃ t, exec i s = .next t ∧ RegFrame s t e.n e.d e.lanes) ∧
    (e.legal = false → s.hasHandler = true → TrapsHere i s ⟨2, 0, 0⟩)

/-- Integer arithmetic of 32 and 64 bits: the exact result, wrapped, or clamped under SAT; division as R57 fixes it; for every
code of d, a scalar taking the leader's result and z none (R56, R57, R86, R95, R96). Bits, shifts, fields, selection and copy
(R99–R101): the logical operations, SEL and MOV under every TYPE on 32 or 64 bits; the shifts of 32- and 64-bit integers for
every count, SHL clamping under SAT; BFX and BFI with the control word of b. SEL acts in every active lane, the guard choosing.
-/
def Obligations.IntegerAndBitValues : Prop :=
  (∀ (s : State) (d a b : Code), s.computes = true → s.cur.type ≤ 3 →
     let w := if 2 ≤ s.cur.type then 64 else 32
     let wd := decide (2 ≤ s.cur.type)
     let sg := decide (s.cur.type = 0 ∨ s.cur.type = 2)
     let sat := s.cur.mode.getLsbD 13
     let x (l : Nat) : Int := asInt w sg (s.cur.opndN wd l a)
     let y (l : Nat) : Int := asInt w sg (s.cur.opndN wd l b)
     let z (l : Nat) : Int := asInt w sg (s.cur.opndN wd l d)
     dstOk s.cur wd d = true → srcOk s.cur wd a = true → srcOk s.cur wd b = true →
     Gives (.add d a b) s wd d (fun l => fit w sg sat (x l + y l)) ∧
     Gives (.sub d a b) s wd d (fun l => fit w sg sat (x l - y l)) ∧
     Gives (.mul d a b) s wd d (fun l => fit w sg sat (x l * y l)) ∧
     Gives (.mulh d a b) s wd d (fun l => fit w sg false (x l * y l / (2 ^ w : Nat))) ∧
     Gives (.mac d a b) s wd d (fun l => fit w sg sat (x l * y l + z l)) ∧
     Gives (.div d a b) s wd d (fun l => divResult w sg sat (x l) (y l)) ∧
     Gives (.rem d a b) s wd d (fun l => remResult w sg (x l) (y l)) ∧
     Gives (.min d a b) s wd d (fun l => fit w sg false (min (x l) (y l))) ∧
     Gives (.max d a b) s wd d (fun l => fit w sg false (max (x l) (y l))) ∧
     (sg = true → Gives (.abs d a) s wd d (fun l => fit w sg sat |x l|)) ∧
     (sg = true → Gives (.neg d a) s wd d (fun l => fit w sg sat (- x l))) ∧
     Gives (.clz d a) s wd d (fun l => w - ((List.range w).filter (fun k => decide (2 ^ k ≤ s.cur.opndN wd l a))).length) ∧
     Gives (.popc d a) s wd d (fun l => ((List.range w).filter (fun k => (s.cur.opndN wd l a).testBit k)).length)) ∧
  (∀ (s : State) (d a b : Code), s.computes = true →
     let wd := wide s.cur.type
     let w := if wd then 64 else 32
     let sg := decide (s.cur.type = 0 ∨ s.cur.type = 2)
     let x (l : Nat) : Nat := s.cur.opndN wd l a
     let y (l : Nat) : Nat := s.cur.opndN wd l b
     dstOk s.cur wd d = true → srcOk s.cur wd a = true → srcOk s.cur wd b = true →
     Gives (.and d a b) s wd d (fun l => x l &&& y l) ∧
     Gives (.or d a b) s wd d (fun l => x l ||| y l) ∧
     Gives (.xor d a b) s wd d (fun l => x l ^^^ y l) ∧
     Gives (.mov d a) s wd d x ∧
     (∃ t, exec (.sel d a b) s = .next t ∧ RegFrame s t (if wd then 2 else 1) d s.cur.mask ∧
       (isV d = true → ∀ l, l < s.cur.size → s.cur.mask.getLsbD l = true → t.cur.opndN wd l d =
         if s.cur.guardEn = false ∨ (s.cur.pget l s.cur.guardP ^^ s.cur.guardInv) = true then x l else y l) ∧
       (isS d = true → ∀ l, l < s.cur.size → s.cur.mask.getLsbD l = true → (∀ k, k < l → s.cur.mask.getLsbD k = false) →
         t.cur.opndN wd l d = if s.cur.guardEn = false ∨ (s.cur.pget l s.cur.guardP ^^ s.cur.guardInv) = true then x l
           else y l)) ∧
     (s.cur.type ≤ 3 →
       Gives (.shl d a b) s wd d (fun l => fit w sg (s.cur.mode.getLsbD 13) (asInt w sg (x l) * 2 ^ y l)) ∧
       Gives (.shr d a b) s wd d (fun l => x l / 2 ^ y l) ∧
       Gives (.sra d a b) s wd d (fun l => fit w true false (asInt w true (x l) / 2 ^ y l)) ∧
       (let pos (l : Nat) : Nat := (s.cur.opnd32 l b).toNat % 128
        let len (l : Nat) : Nat := if pos l < w then min ((s.cur.opnd32 l b).toNat / 256 % 128) (w - pos l) else 0
        Gives (.bfx d a b) s wd d (fun l => fit w sg false (asInt (len l) sg (x l / 2 ^ pos l % 2 ^ len l))) ∧
        Gives (.bfi d a b) s wd d (fun l => s.cur.opndN wd l d / 2 ^ (pos l + len l) * 2 ^ (pos l + len l) +
          x l % 2 ^ len l * 2 ^ pos l + s.cur.opndN wd l d % 2 ^ pos l))))

/-- The compares write predicate d of each contributing lane; other lanes and predicates keep theirs (R103). Integers are signed
or unsigned by TYPE. In binary32, where either input is NaN, CMPEQ, CMPLT and CMPLE are false and CMPNE true; CMPUN is true
exactly there, and CMPLT and CMPLE set NV. Predicate logic and votes (R104, R105): each contributing lane takes the combination
of its own predicates, or the OR or AND over all contributing lanes; BALLOT gives mask word b of the contributing lanes whose
predicate is true. -/
def Obligations.PredicatesAreWrittenAndCounted : Prop :=
  (∀ (s : State) (d a b : Code), s.computes = true → d.toNat < 8 →
     (s.cur.type ≤ 3 →
       let w := if 2 ≤ s.cur.type then 64 else 32
       let wd := decide (2 ≤ s.cur.type)
       let sg := decide (s.cur.type = 0 ∨ s.cur.type = 2)
       let x (l : Nat) : Int := asInt w sg (s.cur.opndN wd l a)
       let y (l : Nat) : Int := asInt w sg (s.cur.opndN wd l b)
       srcOk s.cur wd a = true → srcOk s.cur wd b = true →
       PredGives (.cmpeq d a b) s d (fun l => decide (x l = y l)) ∧
       PredGives (.cmpne d a b) s d (fun l => decide (x l ≠ y l)) ∧
       PredGives (.cmplt d a b) s d (fun l => decide (x l < y l)) ∧
       PredGives (.cmple d a b) s d (fun l => decide (x l ≤ y l))) ∧
     (s.cur.type = 4 → srcOk s.cur false a = true → srcOk s.cur false b = true →
       let nan (l : Nat) : Bool := nan32 (s.cur.opnd32 l a) || nan32 (s.cur.opnd32 l b)
       PredGives (.cmpun d a b) s d nan ∧
       (∀ l, l < s.cur.size → s.cur.contrib.getLsbD l = true → nan l = true →
         ∃ e n lt le, exec (.cmpeq d a b) s = .next e ∧ exec (.cmpne d a b) s = .next n ∧ exec (.cmplt d a b) s = .next lt ∧
           exec (.cmple d a b) s = .next le ∧ e.cur.pget l d.toNat = false ∧ n.cur.pget l d.toNat = true ∧
           lt.cur.pget l d.toNat = false ∧ le.cur.pget l d.toNat = false ∧ lt.cur.tstat.getLsbD 4 = true ∧
           le.cur.tstat.getLsbD 4 = true))) ∧
  (∀ (s : State) (d a b : Code), s.computes = true → predOk true a = true → 
     let q (c : Code) (l : Nat) : Bool := if c.toNat < 8 then s.cur.pget l c.toNat else !s.cur.pget l (c.toNat - 8)
     let c (l : Nat) : Prop := l < s.cur.size ∧ s.cur.contrib.getLsbD l = true
     (d.toNat < 8 → predOk true b = true →
       PredGives (.pand d a b) s d (fun l => q a l && q b l) ∧ PredGives (.por d a b) s d (fun l => q a l || q b l) ∧
       PredGives (.pxor d a b) s d (fun l => q a l ^^ q b l) ∧ PredGives (.pnot d a) s d (fun l => !q a l)) ∧
     (d.toNat < 8 → ∀ any all : Bool, (any = true ↔ ∃ l, l < 1024 ∧ c l ∧ q a l = true) →
       (all = true ↔ ∀ l, l < 1024 → c l → q a l = true) →
       PredGives (.vany d a) s d (fun _ => any) ∧ PredGives (.vall d a) s d (fun _ => all)) ∧
     (dstOk s.cur false d = true → srcOk s.cur false b = true → ∀ f : Nat → Nat,
       (∀ l k, (f l).testBit k = true ↔ k < 32 ∧ (s.cur.opnd32 l b).toNat < 32 ∧ c (32 * (s.cur.opnd32 l b).toNat + k) ∧
         q a (32 * (s.cur.opnd32 l b).toNat + k) = true) →
       Gives (.ballot d a b) s false d f))

/-- Cross-lane reads (R109, R110): every source is read before any lane writes; a source beyond the team gives the lane's own
value, for RDLANE the leader's; a source may be inactive. Team reductions of integers (R65, R66, R111, R112): with SAT clear
TSUM is the sum over the contributing lanes modulo 2^width and TSCAN each lane's sum over those up to it; TMIN and TMAX are the
least and the greatest value of a contributing lane. -/
def Obligations.LanesExchangeAndReduce : Prop :=
  (∀ (s : State) (d a b : Code), s.computes = true →
     let wd := wide s.cur.type
     let src (l n : Nat) : Nat := s.cur.opndN wd (if n < s.cur.size then n else l) a
     dstOk s.cur wd d = true → vOk s.cur wd a = true → srcOk s.cur false b = true →
     Gives (.xln d a b) s wd d (fun l => src l (s.cur.opnd32 l b).toNat) ∧
     Gives (.xlnx d a b) s wd d (fun l => src l (BitVec.ofNat 32 l ^^^ s.cur.opnd32 l b).toNat) ∧
     (∀ ld, s.cur.leader = some ld → Gives (.rdlane d a b) s wd d (fun _ => src ld (s.cur.opnd32 ld b).toNat))) ∧
  (∀ (s : State) (d a : Code), s.computes = true → s.cur.type ≤ 3 → s.cur.mode.getLsbD 13 = false → s.cur.leader ≠ none →
     s.cur.size ≤ 1024 →
     let w := if 2 ≤ s.cur.type then 64 else 32
     let wd := decide (2 ≤ s.cur.type)
     let sg := decide (s.cur.type = 0 ∨ s.cur.type = 2)
     let x (l : Nat) : Nat := s.cur.opndN wd l a
     let cs := (List.range s.cur.size).filter (fun l => s.cur.contrib.getLsbD l)
     dstOk s.cur wd d = true → srcOk s.cur wd a = true →
     Gives (.tsum d a) s wd d (fun _ => (cs.map x).sum % 2 ^ w) ∧
     (∀ m : Nat, m ∈ cs.map x → (∀ l ∈ cs, asInt w sg m ≤ asInt w sg (x l)) → Gives (.tmin d a) s wd d (fun _ => m)) ∧
     (∀ m : Nat, m ∈ cs.map x → (∀ l ∈ cs, asInt w sg (x l) ≤ asInt w sg m) → Gives (.tmax d a) s wd d (fun _ => m)) ∧
     (isS d = false → Gives (.tscan d a) s wd d (fun l => ((cs.filter (fun k => decide (k ≤ l))).map x).sum % 2 ^ w)))

/-- Exceptions (R58, R87, R98): SQRT of negative numbers gives the canonical NaN and sets NV, RCP of +0 gives +∞ and sets
DZ; with the enable set, FPE is raised with the exception in FAULTINFO, nothing written and no flag set. -/
def Obligations.FloatExceptions : Prop :=
  ∀ (s : State) (d a : Code) (l : Nat), s.plain = true → s.cur.bindings = [] → s.cur.type = 4 → s.cur.sat = false →
    dstOk s.cur false d = true → srcOk s.cur false a = true → s.cur.leader = some l →
    ((∀ k, k < s.cur.size → s.cur.contrib.getLsbD k = true →
        (s.cur.opnd32 k a).getLsbD 31 = true ∧ 0 < ((s.cur.opnd32 k a).extractLsb' 23 8).toNat ∧
        ((s.cur.opnd32 k a).extractLsb' 23 8).toNat < 255) →
      (s.cur.tstat.extractLsb' 5 5 = 0 → ∃ t, exec (.sqrt d a) s = .next t ∧ Wrote s t false d (fun _ => 0x7FC00000) ∧
        t.cur.tstat = s.cur.tstat ||| 0x10 ∧ RegFrame s t 1 d s.cur.contrib) ∧
      (s.cur.tstat.getLsbD 9 = true → s.hasHandler = true → TrapsHere (.sqrt d a) s ⟨18, 0, 0x10⟩)) ∧
    ((∀ k, k < s.cur.size → s.cur.contrib.getLsbD k = true → s.cur.opnd32 k a = 0) →
      (s.cur.tstat.extractLsb' 5 5 = 0 → ∃ t, exec (.rcp d a) s = .next t ∧ Wrote s t false d (fun _ => 0x7F800000) ∧
        t.cur.tstat = s.cur.tstat ||| 0x08 ∧ RegFrame s t 1 d s.cur.contrib) ∧
      (s.cur.tstat.getLsbD 8 = true → s.hasHandler = true → TrapsHere (.rcp d a) s ⟨18, 0, 0x08⟩))

/-! ## Control flow -/

/-- BR, BRANY, BRALL and LOOP complete wherever the target that they take is a clause address, and on every state where they take
none: the whole mask goes to the target or to next; LOOP counts its scalar down first and branches while it is not zero, a
counter of 0 becoming 0xFFFFFFFF (R20, R114–R117). Nothing else changes. BRC: with lanes on both sides the not-taken lanes are
pushed as PENDING at next, where an entry is free, and the taken lanes go on at the target; when all go one way nothing is
pushed (R73, R75, R116). A clause with the YIELD bit makes the team yielding as it ends (R19, R186). -/
def Obligations.BranchesTransferOrDivide : Prop :=
  (∀ (s : State) (d b : Code), s.plain = true → s.lastInClause = true → skOk s.cur true b = true →
     let aligned : Prop := (s.cur.branchTo b).toNat % 4 = 0
     (aligned → exec (.br b) s = .next (s.setCur (s.cur.landsAt (s.cur.branchTo b)))) ∧
     (d.toNat < 16 → (s.cur.takenLanes d ≠ 0 → aligned) →
       exec (.brany d b) s = .next (s.setCur (s.cur.landsAt
         (if s.cur.takenLanes d = 0 then s.cur.nextPc else s.cur.branchTo b)))) ∧
     (d.toNat < 16 → (s.cur.mask &&& ~~~ s.cur.takenLanes d = 0 → aligned) →
       exec (.brall d b) s = .next (s.setCur (s.cur.landsAt
         (if s.cur.mask &&& ~~~ s.cur.takenLanes d = 0 then s.cur.branchTo b else s.cur.nextPc)))) ∧
     (isS d = true → (s.cur.sget (sNum d) ≠ 1 → aligned) → exec (.loop d b) s = .next (s.setCur ((s.cur.sset (sNum d) (s.cur.sget (sNum d) - 1)).landsAt
       (if s.cur.sget (sNum d) = 1 then s.cur.nextPc else s.cur.branchTo b))))) ∧
  (∀ (s : State) (d b : Code), s.plain = true → s.lastInClause = true → skOk s.cur true b = true → d.toNat < 16 →
     (s.cur.takenLanes d ≠ 0 → (s.cur.branchTo b).toNat % 4 = 0) →
     (s.cur.takenLanes d ≠ 0 → s.cur.mask &&& ~~~ s.cur.takenLanes d ≠ 0 → s.cur.stack.length < 4096) →
     let taken := s.cur.takenLanes d
     let rest := s.cur.mask &&& ~~~ taken
     (taken = 0 → exec (.brc d b) s = .next (s.setCur (s.cur.landsAt s.cur.nextPc))) ∧
     (taken ≠ 0 → rest = 0 → exec (.brc d b) s = .next (s.setCur (s.cur.landsAt (s.cur.branchTo b)))) ∧
     (taken ≠ 0 → rest ≠ 0 → exec (.brc d b) s = .next (s.setCur { s.cur.landsAt (s.cur.branchTo b) with
       mask := taken
       stack := .pending s.cur.nextPc rest s.cur.s s.cur.written false :: s.cur.stack })))

/-- MARK pushes REJOIN of its target and the mask, CALL pushes CALL of next and MODE and goes to its target, both with the mask
unchanged; the scalars as they stand are kept with the entry (R76, R77, R118, R120). CALLI pushes one CALL entry and a PENDING
entry for every group of equal targets but that of the lowest active lane, whose target it goes to (R78, R121). RET adds its
lanes to the topmost CALL entry: with lanes still pending above it they run first; otherwise the lanes that returned go on at
the return address, with MODE restored and the scalars merged under R76. It completes wherever the stack holds a CALL entry, and
with none it raises ILLEGAL (R77, R122). -/
def Obligations.CallsPushAndReturn : Prop :=
  (∀ (s : State) (a b : Code), s.plain = true → s.lastInClause = true →
     (skOk s.cur true b = true → (s.cur.branchTo b).toNat % 4 = 0 → s.cur.stack.length < 4096 →
       exec (.mark b) s = .next (s.setCur { s.cur.landsAt s.cur.nextPc with
         stack := .rejoin (s.cur.branchTo b) s.cur.mask s.cur.s s.cur.written [] :: s.cur.stack
         written := 0 }) ∧
       exec (.call b) s = .next (s.setCur { s.cur.landsAt (s.cur.branchTo b) with
         stack := .call s.cur.nextPc s.cur.mode 0 s.cur.mask s.cur.s s.cur.written [] :: s.cur.stack
         written := 0 })) ∧
     (vRun s.cur 2 2 a = true → (∀ k, k < s.cur.size → s.cur.mask.getLsbD k = true → (s.cur.opnd64 k a).toNat % 4 = 0) →
       s.cur.stack.length + ((((List.range s.cur.size).filter (fun k => s.cur.mask.getLsbD k)).map (fun k =>
         s.cur.opnd64 k a)).eraseDups).length ≤ 4096 →
       ∃ t, exec (.calli a) s = .next t ∧ FlowFrame s t ∧ t.cur.s = s.cur.s ∧ t.cur.mode = s.cur.mode) ∧
     (∀ l, vRun s.cur 2 2 a = true → l < s.cur.size → s.cur.mask.getLsbD l = true →
       (∀ k, k < l → s.cur.mask.getLsbD k = false) →
       (∀ k, k < s.cur.size → s.cur.mask.getLsbD k = true → (s.cur.opnd64 k a).toNat % 4 = 0) →
       s.cur.stack.length + ((((List.range s.cur.size).filter (fun k => s.cur.mask.getLsbD k)).map (fun k =>
         s.cur.opnd64 k a)).eraseDups).length ≤ 4096 →
       ∃ t pend, exec (.calli a) s = .next t ∧ t.cur.pc = s.cur.opnd64 l a ∧
         (∀ k, k < s.cur.size → (t.cur.mask.getLsbD k = true ↔
           s.cur.mask.getLsbD k = true ∧ s.cur.opnd64 k a = s.cur.opnd64 l a)) ∧
         t.cur.stack = pend ++ .call s.cur.nextPc s.cur.mode 0 s.cur.mask s.cur.s s.cur.written [] :: s.cur.stack ∧
         (∀ e ∈ pend, ∃ x m, e = DivEntry.pending x m s.cur.s 0 false ∧ m ≠ 0 ∧
           ∀ k, k < s.cur.size → (m.getLsbD k = true ↔ s.cur.mask.getLsbD k = true ∧ s.cur.opnd64 k a = x)) ∧
         (∀ k, k < s.cur.size → s.cur.mask.getLsbD k = true → t.cur.mask.getLsbD k = true ∨
           ∃ e ∈ pend, ∃ m, e.mask? = some m ∧ m.getLsbD k = true) ∧
         t.cur.s = s.cur.s ∧ t.cur.mode = s.cur.mode ∧ FlowFrame s t)) ∧
  (∀ s : State, s.plain = true → s.lastInClause = true →
     ((∃ e ∈ s.cur.stack, e.mask? = none) → ∃ t, exec .ret s = .next t ∧ FlowFrame s t) ∧
     (∀ x md ret cd base o paths rest l, s.cur.stack = .call x md ret cd base o paths :: rest → lowestLane cd = some l →
       ∃ t, exec .ret s = .next t ∧ t.cur.mask = ret ||| s.cur.mask ∧ t.cur.pc = x ∧ t.cur.mode = md ∧
         t.cur.stack = rest ∧
         MergedScalars l (paths ++ [⟨s.cur.mask ||| s.cur.pathExtra, s.cur.s, s.cur.written⟩]) base t.cur.s ∧
         FlowFrame s t) ∧
     (∀ x m sc w y md ret cd base o paths rest,
       s.cur.stack = .pending x m sc w false :: .call y md ret cd base o paths :: rest → m ≠ 0 →
       ∃ t, exec .ret s = .next t ∧ t.cur.mask = m ∧ t.cur.pc = x ∧ t.cur.s = sc ∧ t.cur.mode = s.cur.mode ∧
         t.cur.stack = .call y md (ret ||| s.cur.mask) cd base o
           (paths ++ [⟨s.cur.mask ||| s.cur.pathExtra, s.cur.s, s.cur.written⟩]) :: rest ∧ FlowFrame s t) ∧
     (s.hasHandler = true → (∀ e ∈ s.cur.stack, e.mask? ≠ none) → TrapsHere .ret s ⟨1, 0, 0⟩))

/-- JOIN acts on the top entry: a PENDING entry gives its mask, its address and its scalars; a REJOIN entry its mask and its
address, with the scalars merged under R76; an emptied entry on top is skipped, and what the path wrote before it pushed a
skipped REJOIN stays its own; a CALL entry, or nothing, raises ILLEGAL with the stack unchanged (R73, R76, R119). -/
def Obligations.JoinActsOnTopEntry : Prop :=
  ∀ s : State, s.plain = true → s.lastInClause = true →
    (∀ x m sc w rest, s.cur.stack = .pending x m sc w false :: rest → m ≠ 0 →
      ∃ t, exec .join s = .next t ∧ t.cur.mask = m ∧ t.cur.pc = x ∧ t.cur.s = sc ∧ t.cur.mode = s.cur.mode ∧
        t.cur.stack.length = rest.length ∧ t.cur.stack.map DivEntry.mask? = rest.map DivEntry.mask? ∧ FlowFrame s t) ∧
    (∀ x m base o paths rest l, s.cur.stack = .rejoin x m base o paths :: rest → lowestLane m = some l →
      ∃ t, exec .join s = .next t ∧ t.cur.mask = m ∧ t.cur.pc = x ∧ t.cur.mode = s.cur.mode ∧ t.cur.stack = rest ∧
        MergedScalars l (paths ++ [⟨s.cur.mask ||| s.cur.pathExtra, s.cur.s, s.cur.written⟩]) base t.cur.s ∧
        FlowFrame s t) ∧
    (∀ e rest t, s.cur.stack = e :: rest → e.mask? = some 0 →
      exec .join (s.setCur { s.cur with
        stack := rest
        written := match e with
          | .rejoin _ _ _ o _ => s.cur.written ||| o
          | _ => s.cur.written }) = .next t → t.cur.hlevel = s.cur.hlevel → s.hasHandler = true →
      exec .join s = .next t) ∧
    (s.hasHandler = true → (s.cur.stack = [] ∨ ∃ e rest, s.cur.stack = e :: rest ∧ e.mask? = none) →
      TrapsHere .join s ⟨1, 0, 0⟩)

/-- EXIT takes its lanes out of the mask and of every entry of the stack; the team goes on at the topmost entry that still
has lanes; with none left it ends, and its registers are unbound (R74, R123). -/
def Obligations.ExitEndsLanes : Prop :=
  ∀ s : State, s.plain = true → s.lastInClause = true →
    (s.cur.stack = [] → ∃ t, exec .exit s = .next t ∧ t.cur.mask = 0 ∧ t.cur.ending = true ∧ t.cur.bindings = [] ∧
      t.cur.clause = none ∧ t.mem = s.mem ∧ t.path = s.path) ∧
    (∀ x m sc w rest, s.cur.stack = .pending x m sc w false :: rest → m &&& ~~~ s.cur.mask ≠ 0 →
      ∃ t, exec .exit s = .next t ∧ t.cur.mask = m &&& ~~~ s.cur.mask ∧ t.cur.pc = x ∧ t.cur.s = sc ∧ t.cur.ending = false ∧
        t.cur.v = s.cur.v ∧ t.cur.p = s.cur.p ∧ t.cur.flags = s.cur.flags ∧ t.mem = s.mem ∧ t.path = s.path ∧
        t.cur.stack.map DivEntry.mask? = rest.map (fun e => e.mask?.map (fun k => k &&& ~~~ s.cur.mask)))

/-! ## Loads, stores, fences -/

/-- A load of 1 to 16 bytes starts one read for each contributing lane, for the leader alone with a scalar destination, and
for the team once with LDS and LDSD (R143, R145, R147): a read of the bytes at the lane's address, bound for the registers
from d on, tracked by SETA's flag. No register and no byte of memory has changed yet. An acquire's reads are satisfied at
once, where no host may be writing its line and the core holds it, or the directory does not track it; an acquire of one lane whose
line the core does not hold asks the home for it and waits (R340). LDB and LDH extend the sign under TYPE i32, i64, i16x2 and i8x4,
and zeros otherwise. -/
def Obligations.LoadsStartReads : Prop :=
  ∀ (s : State) (i : Instr) (e : MemEntry) (f : Nat → Space × Nat), s.plain = true → s.hasSeta = true →
    s.cur.bindings = [] → s.cur.loadEntry i = some e → e.legal = true → s.placed Need.load e.accesses f → s.quiet →
    (isAcquire i = true → ∀ x ∈ e.accesses, s.hostOwned ((f x.1).2 / 128) = false) →
    (isAcquire i = true → ∀ x, e.accesses = [x] → s.coherent (f x.1).1 (f x.1).2 = true → (f x.1).1 ≠ .chip →
      s.copyAt s.curCore ((f x.1).2 / 128) = none →
      ∃ t, exec i s = .next t ∧ t.cur = { s.cur with park := .access } ∧ t.loads = s.loads ∧ t.mem = s.mem ∧
        t.coh.reqs = [⟨.getS, s.curCore, (f x.1).2 / 128, [], [], none⟩]) ∧
    ((isAcquire i = true → ∀ x ∈ e.accesses, s.coherent (f x.1).1 (f x.1).2 = true → (f x.1).1 ≠ .chip →
      s.copyAt s.curCore ((f x.1).2 / 128) ≠ none) →
    ∃ t, exec i s = .next t ∧ TeamKept s t ∧ ((s.noneDirty ∨ ∀ x ∈ e.accesses, (f x.1).1 ≠ .software) → ∀ a, t.byte a = s.byte a) ∧ t.path = s.path ∧
      (∀ x ∈ s.loads, x ∈ t.loads) ∧
      (∀ a ∈ e.accesses, ∃ x ∈ t.loads, x.team = s.cur.uid ∧ x.lane = a.1 ∧ x.seq = s.nextSeq ∧ x.kind = .plain ∧
        x.space = (f a.1).1 ∧ x.loc = (f a.1).2 ∧ x.size = e.size ∧ x.flag = s.cur.seta ∧
        (e.size < 4 → ∀ v : BitVec 128, ({ x with value := some v } : Load).word 0 =
          if s.cur.type ∈ [0, 2, 8, 10] then (v.setWidth (8 * e.size)).signExtend 32 else (v.setWidth (8 * e.size)).setWidth 32) ∧
        (isAcquire i = true → x.value ≠ none) ∧
        x.dests = (List.range ((e.size + 3) / 4)).map (fun k =>
          (k, if isV e.d then Dest.vec a.1 (e.d.toNat + k) else if isS e.d then .scal (sNum e.d + k) else .none))))

/-- A store or release of 1 to 16 bytes to the team's own stores (lane slice, scratchpad, cluster memory) that nothing holds is
performed at once: the bytes at each contributing lane's address are its data, little-endian, and every other byte of memory is
as before (R9, R137, R144, R146). A store to other memory, and a release with an earlier access still incomplete at its scope,
enters the core's store path with its bytes, in an entry of its line that may hold others (R192), tracked by SETB's flag at
MODE.SCOPE; the release is held there. Memory has not changed yet, and the registers do not (R137, R144, R146, R192). -/
def Obligations.StoresArePerformedOrQueued : Prop :=
  (∀ (s : State) (i : Instr) (e : MemEntry) (f : Nat → Space × Nat), s.plain = true → s.hasSetb = true → s.quiet →
     s.cur.fencer = [] → s.cur.storeEntry i = some e → e.legal = true →
     (isRelease i = true → s.accessesDone s.cur.uid s.nextSeq s.cur.scope = true) →
     s.placed Need.store e.accesses f → (∀ x ∈ e.accesses, (f x.1).1 = .store) →
     (∀ x ∈ e.accesses, ∀ y ∈ e.accesses, x.1 ≠ y.1 → (f x.1).2 + e.size ≤ (f y.1).2 ∨ (f y.1).2 + e.size ≤ (f x.1).2) →
     ∃ t, exec i s = .next t ∧ TeamKept s t ∧
       (∀ x ∈ e.accesses, cellNat t.mem (f x.1).2 e.size = s.cur.dataOf x.1 e.d e.size) ∧
       (∀ a, (∀ x ∈ e.accesses, a < (f x.1).2 ∨ (f x.1).2 + e.size ≤ a) → t.byte a = s.byte a)) ∧
  (∀ (s : State) (i : Instr) (e : MemEntry) (f : Nat → Space × Nat), s.plain = true → s.hasSetb = true → s.quiet →
     s.cur.fencer = [] → s.cur.storeEntry i = some e → e.legal = true → s.placed Need.store e.accesses f →
     ((e.accesses.map (fun x => (f x.1).2 / 128)).eraseDups).length ≤ 64 →
     let held := isRelease i && !s.accessesDone s.cur.uid s.nextSeq s.cur.scope
     (∀ x ∈ e.accesses, held = true ∨ ((f x.1).1 ≠ .store ∧ (f x.1).1 ≠ .opBuf)) →
     ∃ t, exec i s = .next t ∧ TeamKept s t ∧ (∀ a, t.byte a = s.byte a) ∧
       (∀ x ∈ e.accesses, ∃ p ∈ t.path, p.core = s.curCore ∧ p.space = (f x.1).1 ∧ p.loc / 128 = (f x.1).2 / 128 ∧ p.red = none ∧
         (∀ c ∈ cellsFrom (f x.1).2 (leBytes e.size (s.cur.dataOf x.1 e.d e.size)), c ∈ p.cells) ∧
         p.tag = ⟨s.cur.uid, s.nextSeq, s.cur.setb, s.cur.scope, none⟩ ∧
         p.hold = if held then [(s.nextSeq, s.cur.scope)] else []))

/-- Atomics and reductions at memory (R151–R154): an atomic starts a read-modify-write at each contributing lane's address,
its old value bound for d; a reduction enters the store path with its operand and returns nothing. Neither has changed
memory or a register yet. -/
def Obligations.AtomicsAndReductionsStart : Prop :=
  ∀ (s : State) (i : Instr) (e : MemEntry) (op : AtOp) (b : Code) (f : Nat → Space × Nat), s.plain = true → s.quiet →
    s.cur.fencer = [] → s.cur.bindings = [] → e.legal = true →
    (∀ x ∈ e.accesses, ∀ y ∈ e.accesses, x.1 ≠ y.1 → (f x.1).2 + e.size ≤ (f y.1).2 ∨ (f y.1).2 + e.size ≤ (f x.1).2) →
    (s.hasSeta = true → s.cur.atomicEntry i = some (b, op, e) → s.placed Need.rmw e.accesses f →
      ∃ t, exec i s = .next t ∧ TeamKept s t ∧ (∀ a, t.byte a = s.byte a) ∧
        ∀ a ∈ e.accesses, ∃ x ∈ t.loads, x.team = s.cur.uid ∧ x.lane = a.1 ∧ x.loc = (f a.1).2 ∧ x.space = (f a.1).1 ∧
          x.size = e.size ∧ x.value = none ∧ x.flag = s.cur.seta ∧
          x.kind = .atomic op s.cur.type (BitVec.ofNat 64 (s.cur.opndN (wide s.cur.type) a.1 b))
            (BitVec.ofNat 64 (s.cur.opndN (wide s.cur.type) a.1 e.d)) ∧
          x.dests = (List.range (e.size / 4)).map (fun k =>
            (k, if isV e.d then Dest.vec a.1 (e.d.toNat + k) else .none))) ∧
    (s.hasSetb = true → s.cur.reductionEntry i = some (b, op, e) → s.placed Need.red e.accesses f →
      (∀ x ∈ e.accesses, (f x.1).1 ≠ .store ∧ (f x.1).1 ≠ .opBuf) →
      ((e.accesses.map (fun x => (f x.1).2 / 128)).eraseDups).length ≤ 64 →
      ∃ t, exec i s = .next t ∧ TeamKept s t ∧ (∀ a, t.byte a = s.byte a) ∧
        ∀ a ∈ e.accesses, ∃ p ∈ t.path, p.core = s.curCore ∧ p.loc = (f a.1).2 ∧ p.space = (f a.1).1 ∧
          p.tag.team = s.cur.uid ∧ p.tag.flag = s.cur.setb ∧ p.red = some ⟨op, s.cur.type,
            BitVec.ofNat 64 (s.cur.opndN (wide s.cur.type) a.1 b), e.size⟩)

/-- Fences order the team's own accesses (R150): with every earlier access complete FENCEA, FENCER and FENCES pass; with one
outstanding FENCEA and FENCES make the team wait, and FENCER holds the team's later writes, beside what earlier fences that are
not met hold them for. PFT changes nothing that the program sees (R148): it asks for lines.
Cache maintenance on lines of hardware-coherent memory (R149): CFLUSH and CINV leave the core without a copy of any contributing
lane's line, CCLEAN without a dirty one; no byte of memory changes, but for dirty software-managed lines that a full L1 set gives up. -/
def Obligations.FencesAndCacheMaintenance : Prop :=
  (∀ (s : State) (d a b : Code), s.plain = true →
     (s.readsDone s.cur.uid s.nextSeq = true → exec .fencea s = .next (s.setCur s.cur.advance)) ∧
     (s.readsDone s.cur.uid s.nextSeq = false → exec .fencea s = .next (s.setCur { s.cur with park := .access })) ∧
     (s.accessesDone s.cur.uid s.nextSeq s.cur.scope = true →
       exec .fences s = .next (s.setCur s.cur.advance) ∧
       exec .fencer s = .next (s.setCur { s.cur with
         fencer := s.cur.fencer.filter (fun (h : Nat × Nat) => !s.accessesDone s.cur.uid h.1 h.2) }.advance)) ∧
     (s.accessesDone s.cur.uid s.nextSeq s.cur.scope = false →
       exec .fences s = .next (s.setCur { s.cur with park := .access }) ∧
       ∃ t, exec .fencer s = .next t ∧ t.cur = { s.cur with
         fencer := s.cur.fencer.filter (fun (h : Nat × Nat) => !s.accessesDone s.cur.uid h.1 h.2) ++ [(s.nextSeq, s.cur.scope)] }.advance ∧
         t.mem = s.mem ∧ t.path = s.path ∧ t.loads = s.loads) ∧
     (d.toNat ≤ 2 → baseOk s.cur a = true → srcOk s.cur false b = true →
       ∃ t, exec (.pft d a b) s = .next t ∧ TeamKept s t ∧ t.loads = s.loads ∧ t.path = s.path ∧
         (s.noneDirty → s.xfers = [] → ∀ a, t.byte a = s.byte a))) ∧
  (∀ (s : State) (a b : Code) (f : Nat → Space × Nat), s.plain = true → s.hasSetb = true → s.quiet →
     (∀ x ∈ s.fab.txns, x.write = []) →
     baseOk s.cur a = true → srcOk s.cur false b = true →
     (∀ l ∈ s.cur.contribLanes, inAperture (s.cur.effective l a b) = false ∧ (f l).1 = .hardware) →
     (s.placed Need.load (s.cur.contribLanes.map (fun l => (l, s.cur.effective l a b, 1))) f →
       (∃ t, exec (.cflush a b) s = .next t ∧ TeamKept s t ∧ (∀ a, t.byte a = s.byte a) ∧ ∀ l ∈ s.cur.contribLanes,
         ∀ k ∈ t.coh.copies, k.agent = s.curCore → k.line = (f l).2 / 128 → k.managed = true) ∧
       (∃ t, exec (.cclean a b) s = .next t ∧ TeamKept s t ∧ (s.noneDirty → ∀ a, t.byte a = s.byte a) ∧
         ∀ l ∈ s.cur.contribLanes, ∀ k, t.copyAt s.curCore ((f l).2 / 128) = some k → k.st ≠ .m ∧ k.st ≠ .o)) ∧
     (s.placed Need.store (s.cur.contribLanes.map (fun l => (l, s.cur.effective l a b, 1))) f →
       ∃ t, exec (.cinv a b) s = .next t ∧ TeamKept s t ∧ (∀ a, t.byte a = s.byte a) ∧ ∀ l ∈ s.cur.contribLanes,
         ∀ k ∈ t.coh.copies, k.agent = s.curCore → k.line = (f l).2 / 128 → k.managed = true))

/-! ## Bindings and regions -/

/-- BLD, BLDN and BLDD start a read of 4 or 8 bytes for each contributing lane that will bind the lane's register when it
returns, notifying or refreshing (R163, R174). With room for the bobbins (R170) no binding is spilled. Where lanes read bytes of
one another, the earlier reads may be performed, and bind, at once (R135). BADD, BXCH and BCAS start an atomic at the address that
each contributing lane's d is bound to, where that address's page gives the permissions now (R358); the bound register takes what memory is left with, b the old value, or b replaces it
(R178). Neither memory nor, but for such reads, a register has changed yet. -/
def Obligations.BoundAccessesStart : Prop :=
  (∀ (s : State) (i : Instr) (n : Bool) (e : MemEntry) (f : Nat → Space × Nat), s.plain = true → s.hasSeta = true →
     s.cur.bindings = [] → s.cur.bindEntry i = some (n, e) → e.legal = true → s.placed Need.binding e.accesses f → s.quiet →
     s.coreBobbins s.curCore = [] → pinnable (e.accesses.map (fun x => (f x.1).2)) → s.cur.size ≤ 1024 →
     ∃ t, exec i s = .next t ∧ t.cur.pc = s.cur.advance.pc ∧ t.cur.idx = s.cur.advance.idx ∧ t.cur.park = .running ∧
       ((s.noneDirty ∨ ∀ x ∈ e.accesses, (f x.1).1 ≠ .software) → ∀ a, t.byte a = s.byte a) ∧
       ((∀ x ∈ e.accesses, ∀ y ∈ e.accesses, x.1 ≠ y.1 →
          (f x.1).2 + e.size ≤ (f y.1).2 ∨ (f y.1).2 + e.size ≤ (f x.1).2) →
        TeamKept s t ∧ ∀ a ∈ e.accesses, ∃ x ∈ t.loads, x.team = s.cur.uid ∧ x.lane = a.1 ∧ x.seq = s.nextSeq ∧
          x.space = (f a.1).1 ∧ x.loc = (f a.1).2 ∧ x.size = e.size ∧ x.flag = s.cur.seta ∧ x.value = none ∧
          x.kind = .bind n (decide (e.size = 8)) (a.2.1).toNat false ∧
          x.dests = (List.range (e.size / 4)).map (fun k => (k, Dest.vec a.1 (e.d.toNat + k))))) ∧
  (∀ (s : State) (i : Instr) (op : AtOp) (d a : Code) (nw old : Option Code) (bd : Nat → Binding), s.plain = true →
     s.hasSeta = true → s.quiet → s.cur.fencer = [] → s.poison = [] → s.barriers = [] →
     boundEntry i = some (op, d, a, nw, old) → s.cur.type ≤ 3 →
     let wd := wide s.cur.type
     let n := if wd then 2 else 1
     vRun s.cur n n d = true → srcOk s.cur wd a = true → (∀ x, nw = some x → srcOk s.cur wd x = true) →
     (∀ x, old = some x → vzOk s.cur wd x = true ∧ ∀ l ∈ s.cur.contribLanes, ∀ k, k < n → isV x = true →
       s.cur.boundAt l (x.toNat + k) = none) →
     (∀ l ∈ s.cur.contribLanes, alook s.cur.bindings (vkey l d.toNat) = some (bd l) ∧ (bd l).size8 = wd ∧
       (bd l).space = .hardware ∧ locKind (bd l).loc = 0 ∧ s.drained (bd l).loc = false) →
     State.boundSites (4 * n) (s.cur.contribLanes.map (fun l => (l, bd l))) s =
       (s, s.cur.contribLanes.map (fun l => (l, .at_ .hardware (bd l).loc))) →
     (∀ l ∈ s.cur.contribLanes, ∀ m ∈ s.cur.contribLanes, l ≠ m → (bd l).loc + 4 * n ≤ (bd m).loc ∨
       (bd m).loc + 4 * n ≤ (bd l).loc) →
     ∃ t, exec i s = .next t ∧ TeamKept s t ∧ t.cur.bindings = s.cur.bindings ∧ (∀ a, t.byte a = s.byte a) ∧
       ∀ l ∈ s.cur.contribLanes, ∃ x ∈ t.loads, x.team = s.cur.uid ∧ x.lane = l ∧ x.loc = (bd l).loc ∧ x.size = 4 * n ∧
         x.flag = s.cur.seta ∧ x.value = none ∧ x.dests = (List.range n).map (fun k => (k, Dest.vec l (d.toNat + k))) ∧
         x.kind = .bound op s.cur.type (BitVec.ofNat 64 (s.cur.opndN wd l a))
           (BitVec.ofNat 64 ((nw.map (fun c => s.cur.opndN wd l c)).getD 0))
           ((old.map (fun c => (List.range n).map (fun k => if isV c then Dest.vec l (c.toNat + k) else .none))).getD []))

/-- The bindings' other instructions (R159, R175–R177). UNBIND ends the bindings of d in the contributing lanes and no other,
UNBALL all; BCHG moves CHG to the predicate and clears it; BWAIT with a change to see gives it in the predicate at once,
with none bound, or a timeout of 0, it gives false, otherwise the team waits; it waits too while a peer's changed line has still to
come (log entry 15). -/
def Obligations.BindingsEndAndWait : Prop :=
  ∀ (s : State) (d a b : Code), s.plain = true →
    let c (l : Nat) : Prop := l < s.cur.size ∧ s.cur.contrib.getLsbD l = true
    (vRun s.cur 1 1 d = true → ∃ t, exec (.unbind d) s = .next t ∧ t.mem = s.mem ∧ t.cur.v = s.cur.v ∧ t.cur.s = s.cur.s ∧
      t.cur.p = s.cur.p ∧ (∀ l r x, r < 96 → alook s.cur.bindings (vkey l r) = some x →
        (alook t.cur.bindings (vkey l r) = none ↔ c l ∧ s.cur.boundAt l d.toNat = some (r, x)))) ∧
    (∃ t, exec .unball s = .next t ∧ t.mem = s.mem ∧ t.cur.v = s.cur.v ∧ t.cur.s = s.cur.s ∧ t.cur.p = s.cur.p ∧
      t.cur.bindings = []) ∧
    (d.toNat < 8 → vRun s.cur 1 1 a = true → ∃ t, exec (.bchg d a) s = .next t ∧ t.mem = s.mem ∧ t.cur.v = s.cur.v ∧
      t.cur.s = s.cur.s ∧
      (∀ l, l < s.cur.size → (t.cur.pget l d.toNat = true ↔
        if s.cur.contrib.getLsbD l then ∃ r x, s.cur.boundAt l a.toNat = some (r, x) ∧ x.chg = true
        else s.cur.pget l d.toNat = true)) ∧
      (∀ l r x, c l → s.cur.boundAt l a.toNat = some (r, x) →
        alook t.cur.bindings (vkey l r) = some { x with chg := false })) ∧
    (d.toNat < 8 → vzOk s.cur false a = true → srcOk s.cur false b = true →
      let o := s.observe
      let now (l : Nat) : Prop := s.cur.leader = some l ∧ s.cur.opnd32 l b = 0
      (s.obsWaits s.cur = true → ∃ t, exec (.bwait d a b) s = .next t ∧ t.mem = s.mem ∧
        t.cur = { s.cur with park := .access }) ∧
      (s.obsWaits s.cur = false → (∃ l, c l ∧ s.cur.watches a l) → ((∃ l, c l ∧ o.cur.sees a l) ∨ ∃ l, now l) →
        ∃ t, exec (.bwait d a b) s = .next t ∧ (s.unnotified → t.mem = s.mem) ∧ t.cur.park = .running ∧
          t.cur.bindings = o.observe.cur.bindings ∧ t.cur.s = s.cur.s ∧
          ∀ l, l < s.cur.size → (t.cur.pget l d.toNat = true ↔
            if s.cur.contrib.getLsbD l then o.observe.cur.sees a l else s.cur.pget l d.toNat = true)) ∧
      (s.obsWaits s.cur = false → (∀ l, c l → ¬ s.cur.watches a l) →
        ∃ t, exec (.bwait d a b) s = .next t ∧ (s.unnotified → t.mem = s.mem) ∧ t.cur.park = .running ∧
        ∀ l, l < s.cur.size → t.cur.pget l d.toNat = (s.cur.pget l d.toNat && !s.cur.contrib.getLsbD l)) ∧
      (s.obsWaits s.cur = false → (∃ l, c l ∧ s.cur.watches a l) → (∀ l, c l → ¬ o.cur.sees a l) → (∀ l, ¬ now l) →
        ∃ t dl, exec (.bwait d a b) s = .next t ∧ t.cur = { o.cur with park := .bwait dl false } ∧
          (s.unnotified → t.mem = s.mem) ∧
          (∀ l, s.cur.leader = some l → dl = if s.cur.opnd32 l b = 0xFFFFFFFF then none
            else some (s.cycle + (s.cur.opnd32 l b).toNat))))

/-- Regions (R264, R266, R275–R277): RBEGIN opens one in every active lane and pushes the handler's entry with an empty mask;
RLDW and RLDD wait for a line that the core does not hold, and read at once one that it does, keep the value as an input with its place, and tag the register; RABORT sends the contributing
lanes to the handler with code 10, their stores forgotten; RCOMMIT waits for the commit engine and goes on when it is through.
With no region open RCOMMIT, RABORT, RLDW and RLDD raise ILLEGAL. -/
def Obligations.RegionsOpenAndClose : Prop :=
  ∀ (s : State) (d a b : Code),
    (s.plain = true → skOk s.cur false a = true → (s.cur.branchTo a).toNat % 4 = 0 → s.cur.stack.length < 4096 →
      (∃ w, w < 32 ∧ ∀ l, l < 1024 → s.cur.mask.getLsbD l = true → l / 32 = w) →
      ∃ t, exec (.rbegin a) s = .next t ∧ t.cur.stack = .pending (s.cur.branchTo a) 0 s.cur.s s.cur.written true :: s.cur.stack ∧
        (∀ l, l < s.cur.size → s.cur.mask.getLsbD l = true → ∃ r, alook t.cur.region l = some r ∧ r.open_ = true ∧
          r.inputs = [] ∧ r.stores = [] ∧ r.lines = [] ∧ r.constraints = 0) ∧
        t.cur.mask = s.cur.mask ∧ t.cur.v = s.cur.v ∧ t.cur.s = s.cur.s ∧ t.cur.p = s.cur.p ∧ t.mem = s.mem) ∧
    (∀ (i : Instr) (size l loc : Nat) (r : RLane), s.plainRegion = true → s.cur.park = .running → s.hasSeta = true →
      (i = .rldw d a b ∧ size = 4 ∨ i = .rldd d a b ∧ size = 8) → s.still → (∀ x ∈ s.loads, x.team ≠ s.cur.uid) →
      s.cur.bindings = [] → s.cur.contribLanes = [l] → vOk s.cur (decide (size = 8)) d = true → baseOk s.cur a = true →
      srcOk s.cur false b = true → alook s.cur.region l = some r → r.open_ = true → r.inputs = [] → r.stores = [] →
      r.lines = [] → r.tags = [] → loc < 2 ^ 60 → s.placed Need.load [(l, s.cur.effective l a b, size)] (fun _ => (.hardware, loc)) →
      (s.copyAt s.curCore (loc / 128) = none → ∃ t, exec i s = .next t ∧ t.cur.park = .access ∧ t.cur.pc = s.cur.pc ∧
        t.cur.idx = s.cur.idx ∧ t.cur.v = s.cur.v ∧ t.loads = s.loads ∧ t.mem = s.mem ∧
        t.coh.reqs = [⟨.getS, s.curCore, loc / 128, [], [], none⟩]) ∧
      (s.copyAt s.curCore (loc / 128) ≠ none → ∃ t r' x, exec i s = .next t ∧ (∀ q, t.byte q = s.byte q) ∧ t.cur.v = s.cur.v ∧ t.cur.mask = s.cur.mask ∧
        alook t.cur.region l = some r' ∧ r'.open_ = true ∧ r'.lines = (if inLaneWindow (s.cur.effective l a b) then [] else [(loc / 128, false)]) ∧
        r'.inputs = [⟨loc, size, BitVec.ofNat 128 (cellNat s.mem loc size), false⟩] ∧
        alook r'.tags d.toNat = some ⟨0, 0⟩ ∧ x ∈ t.loads ∧ x.team = s.cur.uid ∧ x.lane = l ∧
        x.value = some (BitVec.ofNat 128 (cellNat s.mem loc size)) ∧
        x.dests = (List.range (size / 4)).map (fun k => (k, Dest.vec l (d.toNat + k))))) ∧
    (∀ h sc w rest, s.plainRegion = true → s.cur.park = .running → s.cur.stack = .pending h 0 sc w true :: rest →
      s.cur.contrib = s.cur.mask → s.cur.mask ≠ 0 →
      (∀ l, s.cur.mask.getLsbD l = true → l < s.cur.size ∧ ∃ r, alook s.cur.region l = some r ∧ r.open_ = true) →
      ∃ t, exec .rabort s = .next t ∧ t.cur.mask = s.cur.mask ∧ t.cur.pc = h ∧ t.cur.clause = none ∧ t.cur.s = s.cur.s ∧
        (∀ l, s.cur.mask.getLsbD l = true → ∃ r, alook t.cur.region l = some r ∧ r.open_ = false ∧
          r.code = 10) ∧
        t.mem = s.mem ∧ t.path = s.path) ∧
    (s.accessesDone s.cur.uid s.nextSeq s.cur.scope = true →
      (s.plainRegion = true → s.cur.park = .running →
        ∃ t, exec .rcommit s = .next t ∧ t.cur.park = .commit ∧
          (∀ l, alook t.cur.region l = alook s.cur.region l) ∧ t.cur.v = s.cur.v ∧
          t.mem = s.mem) ∧
      (s.cur.park = .commit → s.unpark.plain = true → s.cur.mask ≠ 0 →
        exec .rcommit s = .next (s.setCur { s.cur with park := .running }.advance))) ∧
    (s.plain = true → s.hasHandler = true → s.hasSeta = true →
      TrapsHere .rcommit s ⟨1, 0, 0⟩ ∧ TrapsHere .rabort s ⟨1, 0, 0⟩ ∧
      ∀ i ∈ [Instr.rldw d a b, .rldd d a b], TrapsHere i s ⟨1, 0, 0⟩)

/-- The commit engine takes the lowest open lane of a team at its RCOMMIT (R267, R272). While a line of its read set or of its stores
is not held exclusive one is asked for and nothing else happens. With all of them held: with no line of its read set written,
or its constraints true of the fresh values, its store is performed at memory and the lane closes with code 0; otherwise
nothing is stored and it aborts with code 1. After 65,536 cycles an open lane aborts with code 9 (R269). -/
def Obligations.RegionsCommitWhole : Prop :=
  ∀ (s : State) (t : Team) (l : Nat) (r : RLane), s.team? t.uid = some t → alook t.region l = some r → r.open_ = true →
    (∀ u ∈ s.teams, u.uid = t.uid → u = t) →
    (t.park = .commit → (lanesOf t.size t.openLanes).head? = some l → s.ports = [] →
      (∃ line ∈ r.commitLines, s.holdsLine (s.teamCore t) line = false) →
      ∃ u, exec (.laneCommit t.uid l) s = .next u ∧ (∀ a, u.byte a = s.byte a) ∧ u.team? t.uid = some t ∧
        ∃ line ∈ r.commitLines, s.holdsLine (s.teamCore t) line = false ∧
          (locKind (line * 128) ≠ 6 → u.asking (s.teamCore t) line [.getM, .upgrade] = true)) ∧
    (∀ (i : RInput) (x : RStore), t.park = .commit → (lanesOf t.size t.openLanes).head? = some l → s.still → s.barriers = [] →
      (∀ line ∈ r.commitLines, s.holdsLine (s.teamCore t) line = true) →
      (∀ e ∈ s.loads, e.team ≠ t.uid) → locKind i.loc ≠ 6 →
      (∀ j, j < 4 → s.storePlace (i.loc + j) = i.loc + j ∧ s.storePlace (x.loc + j) = x.loc + j) → r.inputs = [i] → r.stores = [x] → x.space = .hardware →
      x.size = i.size → i.size = 4 →
      let fresh := cellNat s.mem i.loc 4
      let written := r.lines.any (fun e => e.2)
      let base := if written then fresh else i.value.toNat
      (written = false ∨ ((i.concrete = true → fresh = i.value.toNat) ∧ r.compares = []) →
        ∃ u, exec (.laneCommit t.uid l) s = .next u ∧
          cellNat u.mem x.loc 4 = (match x.tag with
            | some g => (((if g.input = 0 then base else 0) + g.const.toNat) % 2 ^ 32)
            | none => x.value.toNat % 2 ^ 32) ∧
          (∀ a, (a < x.loc ∨ x.loc + 4 ≤ a) → u.byte a = s.byte a) ∧
          ∃ t' r', u.team? t.uid = some t' ∧ t'.mask = t.mask ∧ alook t'.region l = some r' ∧ r'.open_ = false ∧ r'.code = 0) ∧
      (written = true → i.concrete = true → fresh ≠ i.value.toNat →
        ∃ u, exec (.laneCommit t.uid l) s = .next u ∧ (∀ a, u.byte a = s.byte a) ∧
          ∃ t' r', u.team? t.uid = some t' ∧ alook t'.region l = some r' ∧ r'.open_ = false ∧ r'.code = 1 ∧
            t'.mask.getLsbD l = false)) ∧
    (t.park = .running → l < t.size → t.size ≤ 1024 →
      ∃ u t' r', exec (.regionTimeout t.uid l) s = .next u ∧ (∀ a, u.byte a = s.byte a) ∧ r.start + 65536 ≤ u.cycle ∧
        u.team? t.uid = some t' ∧ alook t'.region l = some r' ∧ r'.open_ = false ∧ r'.code = 9)

/-! ## What happens in a core beside its instructions -/

/-- A load's data returns (R24, R137, R143, R153, R155, R174, R178). Of hardware-coherent memory that nothing is on its way to: a
plain load or a bind load whose line the core does not hold asks for it; with the line a plain load takes the bytes that memory
holds; an atomic, in a line that its core's L1 holds exclusive, leaves its result at memory
and nothing else there, and takes the old value, and without the line it asks for it; an atomic through a binding leaves the new
value in the bound register and the old one in its destination; a bind load takes the bytes and registers the binding. The word of
a returned register leaves the list of what is outstanding. -/
def Obligations.LoadDataReturns : Prop :=
  ∀ (s : State) (k w : Nat) (x : Load) (t : Team) (d : Dest) (pre post : List (Nat × Dest)), s.loads[k]? = some x →
    s.team? x.team = some t → s.still → x.space = .hardware → x.value = none → 0 < x.size → x.size ≤ 16 →
    x.dests = pre ++ (w, d) :: post → (∀ e ∈ pre ++ post, e.1 ≠ w) →
    (∀ j, j < x.size → s.storePlace (x.loc + j) = x.loc + j) →
    let held : Prop := s.copyAt (s.coreOf x.team) (lineOf x.loc) ≠ none
    let n := cellNat s.mem x.loc x.size
    let got : Load := { x with value := some (BitVec.ofNat 128 n) }
    let rest := if pre ++ post = [] then s.loads.eraseIdx k else s.loads.set k { got with dests := pre ++ post }
    (¬ held → (x.kind = .plain ∨ ∃ nt e va sp, x.kind = .bind nt e va sp) →
      ∃ u, exec (.loadDataReturn k w) s = .next u ∧ u.mem = s.mem ∧ u.loads = s.loads ∧ u.team? x.team = some t ∧
        u.coh.reqs = [⟨.getS, s.coreOf x.team, lineOf x.loc, [], [], none⟩]) ∧
    (x.kind = .plain → held → t.bindings = [] → ∃ u t', exec (.loadDataReturn k w) s = .next u ∧ (∀ a, u.byte a = s.byte a) ∧
      u.loads = rest ∧ u.team? x.team = some t' ∧ t'.sameRegisters (t.takes x.short d (got.word w))) ∧
    (∀ op ty b c, x.kind = .atomic op ty b c → s.owns (s.coreOf x.team) (lineOf x.loc) = false →
      ∃ u, exec (.loadDataReturn k w) s = .next u ∧ u.mem = s.mem ∧ u.loads = s.loads ∧ u.team? x.team = some t ∧
        u.asking (s.coreOf x.team) (lineOf x.loc) [.getM, .upgrade] = true) ∧
    (∀ op ty b c, x.kind = .atomic op ty b c → s.owns (s.coreOf x.team) (lineOf x.loc) = true → ty ≤ 3 → x.size = (if 2 ≤ ty then 8 else 4) → t.bindings = [] →
      ∃ u t', exec (.loadDataReturn k w) s = .next u ∧ cellNat u.mem x.loc x.size = rmwValue op ty n b.toNat c.toNat ∧
        (∀ a, (a < x.loc ∨ x.loc + x.size ≤ a) → u.byte a = s.byte a) ∧ u.loads = rest ∧ u.team? x.team = some t' ∧
        t'.sameRegisters (t.takes x.short d (got.word w))) ∧
    (∀ op ty b c l r q, x.kind = .bound op ty b c [.vec l q] → s.owns (s.coreOf x.team) (lineOf x.loc) = true →
      ty ≤ 1 → x.size = 4 → x.ext = .none → x.dests = [(0, .vec l r)] → r < 96 →
      q < 96 → q ≠ r → t.boundAt l q = none →
      ∃ u t', exec (.loadDataReturn k 0) s = .next u ∧ cellNat u.mem x.loc 4 = rmwValue op ty n b.toNat c.toNat ∧
        (∀ a, (a < x.loc ∨ x.loc + 4 ≤ a) → u.byte a = s.byte a) ∧ u.loads = s.loads.eraseIdx k ∧
        u.team? x.team = some t' ∧ tget 0 t'.v (vkey l r) = BitVec.ofNat 32 (rmwValue op ty n b.toNat c.toNat) ∧
        tget 0 t'.v (vkey l q) = BitVec.ofNat 32 n ∧
        (∀ j, j ≠ vkey l r → j ≠ vkey l q → tget 0 t'.v j = tget 0 t.v j)) ∧
    (∀ nt va sp l r, x.kind = .bind nt false va sp → x.size = 4 → x.ext = .none → x.dests = [(0, .vec l r)] → r < 96 →
      held → t.bindings = [] → ∃ u t', exec (.loadDataReturn k 0) s = .next u ∧ (∀ a, u.byte a = s.byte a) ∧
        u.loads = s.loads.eraseIdx k ∧ u.team? x.team = some t' ∧
        t'.sameRegisters (t.vset x.short l r (BitVec.ofNat 32 n)) ∧
        t'.bindings = [(vkey l r, ⟨nt, false, va, .hardware, x.loc, false, false, sp, s.cycle, s.cycle, false, none⟩)])

/-- The store path drains (R137, R155, R192). An entry for hardware-coherent memory is performed in a line that its core holds
exclusive, and leaves the path then: bytes are written, a reduction is read, combined and written as one; without such a line the
core asks the home for it, once, and the entry stays. What a release or a fence
holds leaves its hold when the accesses before that are complete, and stays till then (R146, R150). -/
def Obligations.StorePathDrains : Prop :=
  ∀ (s : State) (e : StoreEntry), s.path[s.sel]? = some e →
    (e.hold ≠ [] → (s.holdsMet e = false → exec .storePathDrain s = .next s) ∧
      (s.holdsMet e = true → ∃ u, exec .storePathDrain s = .next u ∧ u.path = s.path.set s.sel { e with hold := [] } ∧
        u.mem = s.mem)) ∧
    (e.hold = [] → s.pathBlocked e = false → s.xfers = [] → e.space = .hardware → s.coreOn e.core = true →
      (s.owns e.core (lineOf e.loc) = false → ∃ u, exec .storePathDrain s = .next u ∧ u.path = s.path ∧ u.mem = s.mem ∧
        u.coh.reqs = (if s.asking e.core (lineOf e.loc) [.getM, .upgrade] then s.coh.reqs else s.coh.reqs ++
          [⟨if (s.copyAt e.core (lineOf e.loc)).map Copy.st = some .s then .upgrade else .getM, e.core, lineOf e.loc, [], [], none⟩])) ∧
      (e.red = none → s.owns e.core (lineOf e.loc) = true →
        (∀ c ∈ e.cells, s.storePlace c.1 = c.1) →
        ∃ u, exec .storePathDrain s = .next u ∧ u.path = s.path.erase e ∧
          ∀ a, u.byte a = (coverByte e.cells a).getD (s.byte a)) ∧
      (∀ r, e.red = some r → r.type ≤ 3 → r.size = (if 2 ≤ r.type then 8 else 4) →
        (∀ j, j < r.size → s.storePlace (e.loc + j) = e.loc + j) → s.owns e.core (lineOf e.loc) = true →
          ∃ u, exec .storePathDrain s = .next u ∧ u.path = s.path.erase e ∧
            cellNat u.mem e.loc r.size = rmwValue r.op r.type (cellNat s.mem e.loc r.size) r.operand.toNat 0 ∧
            ∀ a, (a < e.loc ∨ e.loc + r.size ≤ a) → u.byte a = s.byte a))

/-- Refresh, errors and answers (R127, R189, R198, R361, R363, R411): REFRESH_STEAL goes on to the bank's next row;
MACHINE_ERROR poisons a register or 8 bytes of core store, or takes a core out and ends its workgroups with status 3, and
CORE_RE_ENABLE brings it back; LOCKSTEP_MISMATCH ends a spindle's workgroup with status 3; ATS_INVALIDATION removes
translations; PAGE_RESPONSE ends a wait for fault service; HCALL_REPLY gives a status to the waiting team. -/
def Obligations.CoreEventsHappen : Prop :=
  ∀ (s : State) (core : Nat),
    (∀ bank, s.coreOn core = true → bank < 16 → ∃ u n, exec (.refreshSteal core bank) s = .next u ∧
      tget 0 (u.core core).refreshRow bank = (tget 0 (s.core core).refreshRow bank + 1) % 1024 ∧
      tget 0 (u.core core).errors 0 = tget 0 (s.core core).errors 0 + n ∧ u.cur = s.cur ∧ u.others = s.others ∧
      u.mem = s.mem) ∧
    (∀ t lane reg, s.team? t.uid = some t → lane < t.size → reg < t.allot →
      ∃ u t', exec (.machineError (.register t.uid lane reg)) s = .next u ∧ u.team? t.uid = some t' ∧
        vkey lane reg ∈ t'.poison ∧ t'.v = t.v ∧ u.mem = s.mem) ∧
    (∀ loc, locKind loc = 1 → ∃ u, exec (.machineError (.coreStore loc)) s = .next u ∧ loc / 8 ∈ u.poison ∧
      u.mem = s.mem ∧ u.cur = s.cur) ∧
    (∀ w, s.coreOn core = true → s.wgs = [w] → w.core = core → w.phase = .resident → w.status = 0 →
      ∃ u, exec (.machineError (.unattributed core)) s = .next u ∧ u.stopped w.uid 3 ∧ u.coreOn core = false ∧
        (u.core core).failed = true ∧ u.mem = s.mem) ∧
    ((s.core core).failed = true → core < 192 → ∃ u, exec (.coreReEnable core) s = .next u ∧ u.coreOn core = true ∧
      (u.core core).failed = false ∧ (∀ c, c ≠ core → u.coreOn c = s.coreOn c) ∧ u.mem = s.mem) ∧
    (∀ p w, s.progs = [p] → p.core = core → p.ended = false → p.queued = false → s.wg? p.wg = some w → w.status = 0 →
      ∃ u, exec (.lockstepMismatch (.spindle core p.eng)) s = .next u ∧ u.stopped p.wg 3 ∧ u.mem = s.mem) ∧
    (∀ ctx va kind, kind ≤ 2 → ∃ u, exec (.atsInvalidation ctx va kind) s = .next u ∧ (∀ e ∈ u.tlb, e ∈ s.tlb) ∧
      (∀ e ∈ s.tlb, e.ctx ≠ ctx → e ∈ u.tlb) ∧ (kind = 2 → ∀ e ∈ u.tlb, e.ctx ≠ ctx) ∧ u.mem = s.mem) ∧
    (∀ t v c page access x ok, s.team? t.uid = some t → t.service = some v → v.asked = [(page, access)] →
      access ≤ 2 → s.xfers = [] → s.pageReqs = [⟨c, page, access, x, [(0, t.uid)], true⟩] →
      ∃ u t' v', exec (.pageResponse 0 ok) s = .next u ∧ u.pageReqs = [] ∧ u.team? t.uid = some t' ∧ t'.service = some v' ∧
        v'.asked = [] ∧ v'.failed = (if ok then v.failed else v.failed ++ [(0, x)]) ∧ t'.v = t.v ∧ u.mem = s.mem) ∧
    (∀ t svc status, s.team? t.uid = some t → t.park = .hcall svc none → svc < 0x100 → svc ≠ 2 →
      ∃ u t', exec (.hcallReply t.uid status) s = .next u ∧ u.team? t.uid = some t' ∧
        t'.park = .hcall svc (some (if svc = 1 ∨ svc = 3 then status else 0xFFFFFFFF)) ∧ t'.v = t.v ∧ u.mem = s.mem)

/-! ## Spindles, semaphores, batches, copies -/

/-- FORK queues a program with its argument in s0, or raises FORKQ with four outstanding (R199, R202); the oldest starts when
no other runs and its FORK's release is met, and ends at its EXIT when its work is complete (R201); RDV waits for the team's
programs, then forgets them and reports 0 or the first abnormal code (R203); EKILL abandons the workgroup's: those in the queue are
gone, the running one stops, in STATE 4 till what it issued is complete (R204, R205), and other workgroups' go on. -/
def Obligations.ProgramsRunAndEnd : Prop :=
  ∀ (s : State) (d a b : Code), s.plain = true →
    (∀ l, d.toNat < 2 → sbaseOk s.cur false a = true → srcOk s.cur false b = true → s.cur.leader = some l →
      (s.cur.opnd64 l a).toNat % 4 = 0 →
      ((s.outstanding s.curCore d.toNat).length < 4 → ∃ t p, exec (.fork d a b) s = .next t ∧ TeamKept s t ∧
        t.mem = s.mem ∧ t.progs = s.progs ++ [p] ∧ p.queued = true ∧ p.ended = false ∧ p.core = s.curCore ∧
        p.eng = d.toNat ∧ p.wg = s.cur.wg ∧ p.team = s.cur.uid ∧ p.pc = s.cur.opnd64 l a ∧
        tget 0 p.s 0 = s.cur.opnd32 l b ∧ p.mode = s.cur.mode) ∧
      (4 ≤ (s.outstanding s.curCore d.toNat).length → s.hasHandler = true → TrapsHere (.fork d a b) s ⟨10, 0, 0⟩)) ∧
    (szOk false d = true → a.toNat < 2 →
      let mine (p : Prog) : Bool := p.team == s.cur.uid && p.eng == a.toNat
      ((∀ p ∈ s.progs, mine p = true → p.ended = true) → ∃ t, exec (.rdv d a) s = .next t ∧ t.mem = s.mem ∧
        t.progs = s.progs.filter (fun p => !mine p) ∧ t.cur.park = .running ∧ t.cur.pc = s.cur.advance.pc ∧
        t.cur.v = s.cur.v ∧ (∀ k, ¬ (isS d = true ∧ k = sNum d) → t.cur.sget k = s.cur.sget k) ∧
        (isS d = true → t.cur.sget (sNum d) =
          BitVec.ofNat 32 (((s.progs.find? (fun p => mine p && p.abnormal)).map Prog.code).getD 0))) ∧
      ((∃ p ∈ s.progs, mine p = true ∧ p.ended = false) →
        exec (.rdv d a) s = .next (s.setCur { s.cur with park := .rdv }))) ∧
    (a.toNat < 2 → ∃ t, exec (.ekill a) s = .next t ∧ TeamKept s t ∧ t.mem = s.mem ∧
      (∀ p ∈ t.progs, p.core = s.curCore → p.eng = a.toNat → p.wg = s.cur.wg → p.ended = true ∨
        (p.queued = false ∧ p.exiting = true ∧ p.abnormal = true ∧ p.state = 4)) ∧
      (∀ p ∈ s.progs, p.wg ≠ s.cur.wg → (∀ q ∈ s.progs, q.uid = p.uid → q = p) → s.queue s.curCore = [] → p ∈ t.progs)) ∧
    (∀ (core eng : Nat) (p : Prog), s.outstanding core eng = [p] → s.prog? p.uid = some p →
      (p.queued = true → s.accessesDone p.team p.seq p.scope = true →
        ∃ t, exec (.spindleProgramStart core eng) s = .next t ∧ t.prog? p.uid = some { p with queued := false } ∧
          t.cur = s.cur ∧ t.mem = s.mem) ∧
      (p.queued = false → p.exiting = true → s.progDone p = true →
        ∃ t, exec (.spindleProgramEnd core eng) s = .next t ∧
          t.prog? p.uid = some { p with ended := true, clause := none, state := 0 } ∧ t.cur = s.cur ∧ t.mem = s.mem))

/-- Semaphores of the team's workgroup (R222–R224): SEMSET sets the value, SEMINC adds to it, saturating, and a waiter that
the value then suffices for is served; SEMACQ takes its amount or waits behind the others; SEMTRY takes it or not and says so
in the predicate. Nothing but the semaphore, the predicate and the place in the program changes. -/
def Obligations.SemaphoresCount : Prop :=
  ∀ (s : State) (d a b : Code) (l i : Nat) (w : Wg) (v n : Word) (ws : List (Nat × Word)), s.plain = true →
    s.cur.leader = some l → skOk s.cur false a = true → skOk s.cur false b = true → (s.cur.opnd32 l a).toNat = i →
    s.cur.opnd32 l b = n → s.wg? s.cur.wg = some w → w.sems[i]? = some ⟨v, ws⟩ →
    s.accessesDone s.cur.uid s.nextSeq s.cur.scope = true →
    let leaves (t : State) (m : Sem) : Prop := t.mem = s.mem ∧ ∃ w', t.wg? s.cur.wg = some w' ∧ w'.sems = w.sems.set i m
    (ws = [] → ∃ t, exec (.semset a b) s = .next t ∧ t.cur = s.cur.advance ∧ leaves t ⟨n, []⟩) ∧
    (ws = [] → ∃ t, exec (.seminc a b) s = .next t ∧ t.cur = s.cur.advance ∧
      leaves t ⟨BitVec.ofNat 32 (min 0xFFFFFFFF (v.toNat + n.toNat)), []⟩) ∧
    (∀ k m, ws = [(k, m)] → m.toNat ≤ min 0xFFFFFFFF (v.toNat + n.toNat) →
      ∃ t, exec (.seminc a b) s = .next t ∧ t.cur = s.cur.advance ∧
        leaves t ⟨BitVec.ofNat 32 (min 0xFFFFFFFF (v.toNat + n.toNat) - m.toNat), []⟩) ∧
    (ws = [] → n.toNat ≤ v.toNat → ∃ t, exec (.semacq a b) s = .next t ∧ t.cur = s.cur.advance ∧ leaves t ⟨v - n, []⟩) ∧
    (v.toNat < n.toNat → (∀ e ∈ ws, v.toNat < e.2.toNat) → ∃ t, exec (.semacq a b) s = .next t ∧
      t.cur = { s.cur with park := .semacq i s.nextSeq } ∧ leaves t ⟨v, ws ++ [(s.nextSeq, n)]⟩) ∧
    (d.toNat < 8 → ∃ t, exec (.semtry d a b) s = .next t ∧
      (let ok := decide (ws = [] ∧ n.toNat ≤ v.toNat)
       (ok = true → leaves t ⟨v - n, []⟩) ∧ (ok = false → t.wgs = s.wgs ∧ t.mem = s.mem) ∧
       t.cur = (s.cur.pset d.toNat s.cur.contrib (if ok then s.cur.contrib else 0)).advance))

/-- Batches (R214–R220): CLOSE gives the issuer's open copies the next number, which it returns; a batch whose copies are
done completes with its action, an increment of the semaphore that it names; WAITB goes on when every batch up to its number
is complete, waits while one is not, and raises COPYERR for one that ended in error. -/
def Obligations.BatchesCloseAndComplete : Prop :=
  ∀ (s : State) (d a b : Code) (l : Nat), s.plain = true → s.cur.leader = some l →
    (szOk false d = true → skOk s.cur false a = true → sbaseOk s.cur true b = true → s.openBatches s.cur.uid < 32767 →
      let sel := s.cur.opnd32 l a
      let p := if sel = 0x100 then s.barrierAt (s.cur.opnd64 l b) else (.store, 0)
      (sel = 0xFFFFFFFF ∨ (sel.toNat < 64 ∧ ∃ w, s.wg? s.cur.wg = some w ∧ sel.toNat < w.sems.length) ∨
        (sel = 0x100 ∧ s.barrierConds s.cur b 8 = [])) → p.1 = .store →
      ∃ t x, exec (.close d a b) s = .next t ∧ t.mem = s.mem ∧ t.batches = s.batches ++ [x] ∧ x.team = s.cur.uid ∧
        x.num = s.cur.batchLast + 1 ∧ x.sel = sel ∧ x.loc = p.2 ∧ x.scope = s.cur.scope ∧ x.done = false ∧ x.error = false ∧
        t.cur.batchLast = s.cur.batchLast + 1 ∧ t.cur.v = s.cur.v ∧ t.cur.pc = s.cur.advance.pc ∧
        (isS d = true → t.cur.sget (sNum d) = (s.cur.batchLast + 1).setWidth 32) ∧
        (∀ k, ¬ (isS d = true ∧ k = sNum d) → t.cur.sget k = s.cur.sget k) ∧
        t.xfers = s.xfers.map (fun (y : Xfer) => if y.issuer = s.cur.uid ∧ y.batch = none then
          { y with batch := some (s.cur.uid, (s.cur.batchLast + 1).toNat) } else y)) ∧
    (∀ x w v, s.batches[s.sel]? = some x → x.done = false → x.genTag = none → s.fab.txns = [] →
      (∀ y ∈ s.xfers, y.batch = some (x.team, x.num.toNat) → y.done = true ∧ y.dropped = false) → x.sel.toNat < 64 →
      s.wg? x.wg = some w → w.sems[x.sel.toNat]? = some ⟨v, []⟩ →
      ∃ t w', exec .batchCompletion s = .next t ∧ x ∉ t.batches ∧ (∀ y ∈ s.batches, y ≠ x → y ∈ t.batches) ∧
        t.wg? x.wg = some w' ∧ w'.sems[x.sel.toNat]? = some ⟨BitVec.ofNat 32 (min 0xFFFFFFFF (v.toNat + 1)), []⟩ ∧
        t.cur = s.cur ∧ t.mem = s.mem) ∧
    (skOk s.cur false a = true → s.cur.pendErrs = [] →
      let back := (s.cur.batchLast - (s.cur.opnd32 l a).setWidth 16).toNat
      let due (x : Batch) : Prop := x.team = s.cur.uid ∧ x.done = false ∧ back ≤ (s.cur.batchLast - x.num).toNat ∧
        (s.cur.batchLast - x.num).toNat < 32768
      ((∀ x ∈ s.batches, x.team = s.cur.uid → x.error = false) →
        (32768 ≤ back ∨ (∀ x ∈ s.batches, ¬ due x) → exec (.waitb a) s = .next (s.setCur s.cur.advance)) ∧
        (back < 32768 → (∃ x ∈ s.batches, due x) → exec (.waitb a) s = .next (s.setCur { s.cur with park := .waitb }))) ∧
      (∀ x, s.batches = [x] → x.team = s.cur.uid → x.done = true → x.error = true → s.hasHandler = true →
        ∃ t, exec (.waitb a) s = .next t ∧ t.batches = [] ∧ t.cur.hlevel = true ∧
          t.cur.faultInfo = BitVec.ofNat 5 9 ++ (0 : BitVec 3) ++ x.num.setWidth 24))

/-- The streamer's copies (R207–R213): CPY and CRA record one transfer for each contributing lane, its addresses past
stage 1, with no byte moved yet; a transfer that holds its line is written: the destination takes the source's bytes, or
under CRA the sum with what was staged of them, and no other byte changes. -/
def Obligations.CopiesMoveBytes : Prop :=
  ∀ (s : State) (a b : Code),
    (∀ (size : Nat) (add : Option Nat) (i : Instr), s.plain = true → s.hasSetb = true → copyOk s.cur a = true →
      copyOk s.cur b = true →
      ((i, size, add) = (Instr.cpy4 a b, 4, none) ∨ (i, size, add) = (.cpy8 a b, 8, none) ∨
        (i, size, add) = (.cpy16 a b, 16, none) ∨ (i, size, add) = (.cra4 a b, 4, some s.cur.type) ∨
        (i, size, add) = (.cra8 a b, 8, some s.cur.type) ∨ (i, size, add) = (.cra16 a b, 16, some s.cur.type)) →
      (add ≠ none → craTypeOk s.cur.type size = true) →
      (∀ l ∈ s.cur.contribLanes,
        (∃ p, s.stage1 s.cur l (s.cur.opnd64 l a) size (copyNeed add.isSome) = .ok p) ∧
        (∃ p, s.stage1 s.cur l (s.cur.opnd64 l b) size Need.load = .ok p)) →
      ∃ t, exec i s = .next t ∧ TeamKept s t ∧ t.mem = s.mem ∧ (∀ x ∈ s.xfers, x ∈ t.xfers) ∧
        ∀ l ∈ s.cur.contribLanes, ∃ x ∈ t.xfers, x.issuer = s.cur.uid ∧ x.core = s.curCore ∧ x.seq = s.nextSeq ∧
          x.size = size ∧ x.add = add ∧ x.flag = s.cur.setb ∧ x.done = false ∧ x.granted = false ∧
          (match s.stage1 s.cur l (s.cur.opnd64 l a) size (copyNeed add.isSome) with
            | .ok (.direct space loc) => x.dstVa = none ∧ x.dstSpace = space ∧ x.dst = loc
            | .ok (.virtual va) => x.dstVa = some va
            | .error _ => False) ∧
          (match s.stage1 s.cur l (s.cur.opnd64 l b) size Need.load with
            | .ok (.direct space loc) => x.srcVa = none ∧ x.srcSpace = space ∧ x.src = loc
            | .ok (.virtual va) => x.srcVa = some va
            | .error _ => False)) ∧
    (∀ x, s.xfers = [x] → s.sel = 0 → x.done = false → x.granted = true → x.asked = [] → x.tags = [] →
      (x.add ≠ none → x.staged ≠ none) → x.dstVa = none →
      x.srcVa = none → x.dstSpace = .hardware → x.srcSpace = .hardware → 0 < x.size → x.size ≤ 16 → s.barriers = [] →
      (∀ j, j < x.size → s.storePlace (x.dst + j) = x.dst + j ∧ s.storePlace (x.src + j) = x.src + j) →
      s.poison = [] → s.path = [] → s.coh.reqs = [] → s.coh.txns = [] →
      ∃ t, exec .copyTransfer s = .next t ∧ t.xfers = [{ x with done := true }] ∧
        (∀ q, (q < x.dst ∨ x.dst + x.size ≤ q) → t.byte q = s.byte q) ∧
        (x.add = none → x.staged = none → cellNat t.mem x.dst x.size = cellNat s.mem x.src x.size) ∧
        (∀ v, x.add = some 1 → x.size = 4 → x.staged = some v →
          cellNat t.mem x.dst 4 = (cellNat s.mem x.dst 4 + v.toNat) % 2 ^ 32))

/-! ## Matrix -/

/-- The matrix instructions join the engine queue of their core, in program order, while it holds fewer than eight (R234–R236,
R243–R249): MZERO, MMA, MMAP, STACC, LDACC and MTRQ with what their operands name; LDACC also has a register outstanding for
each lane. OBRES gives a free record number for its range (the least, by the choice of log entry 70), OBFREE takes the record away. -/
def Obligations.MatrixInstructionsQueue : Prop :=
  ∀ (s : State) (d a b : Code) (w : Wg) (l : Nat), s.plain = true → s.cur.leader = some l → (s.queue s.curCore).length < 8 →
    s.wg? s.cur.wg = some w →
    let wd := wide s.cur.type
    let n := if wd then 2 else 1
    let tiles (c : Code) : List Nat := if wd then [c.toNat, c.toNat + 1] else [c.toNat]
    let o := w.operand (s.cur.descWords a)
    (s.hasSetb = true → d.toNat < 12 → (wd = true → d.toNat % 2 = 0) → s.tilesMine (tiles d) →
      Enqueued (.mzero d) s (.zero wd) d.toNat s.cur.setb) ∧
    (s.hasSetb = true → mmaConds d a b s.cur s = [] →
      Enqueued (.mma d a b) s (.mma false o (w.operand (s.cur.descWords b))) d.toNat s.cur.setb) ∧
    (s.hasSetb = true → mmapConds d a b s.cur s = [] →
      Enqueued (.mmap d a b) s (.mma true o (w.operand (s.cur.descWords b))) d.toNat s.cur.setb) ∧
    (s.hasSetb = true → s.cur.contribLanes = [l] → srcOk s.cur wd d = true → a.toNat < 12 → (wd = true → a.toNat % 2 = 0) →
      srcOk s.cur false b = true → (s.cur.opnd32 l b).toNat < 16384 → s.tilesMine (tiles a) →
      Enqueued (.stacc d a b) s (.store [((s.cur.opnd32 l b).toNat, BitVec.ofNat 64 (s.cur.opndN wd l d))] wd) a.toNat s.cur.setb) ∧
    (s.hasSeta = true → s.cur.bindings = [] → dstOk s.cur wd d = true → a.toNat < 12 → (wd = true → a.toNat % 2 = 0) →
      srcOk s.cur false b = true → (∀ k ∈ s.cur.evalLanes d, (s.cur.opnd32 k b).toNat < 16384) →
      (∀ k ∈ tiles a, s.tileHolder s.curCore k = some s.cur.wg) →
      ∃ t q, exec (.ldacc d a b) s = .next t ∧ TeamKept s t ∧ t.mem = s.mem ∧ t.queue s.curCore = s.queue s.curCore ++ [q] ∧
        q.kind = .load s.cur.uid s.nextSeq wd ∧ q.tile = a.toNat ∧
        ∀ k ∈ s.cur.evalLanes d, ∃ x ∈ t.loads, x.team = s.cur.uid ∧ x.lane = k ∧ x.seq = s.nextSeq ∧ x.flag = s.cur.seta ∧
          x.value = none ∧ x.kind = .acc a.toNat (s.cur.opnd32 k b).toNat ∧
          x.dests = (List.range n).map (fun i =>
            (i, if isV d then Dest.vec k (d.toNat + i) else if isS d then .scal (sNum d + i) else .none))) ∧
    (∀ r, s.hasSetb = true → descOk s.cur a = true → sbaseOk s.cur false b = true →
      descFieldsOk o (s.cur.descWords a) = true → (inBuffer o.addr = true → o.record ≠ none) → 7 ≤ o.fmt → o.fmt ≤ 8 →
      o.conds 128 = [] → w.mtrqRecord o.fmt (s.cur.opnd64 l b) = some r →
      Enqueued (.mtrq a b) s (.mtrq o (s.cur.opnd64 l b) r) 0 s.cur.setb) ∧
    (∀ k, szOk false d = true → descOk s.cur a = true → obOk (s.cur.descWords a) = true →
      s.obRange s.curCore (s.cur.descWords a) = true → s.heldRecords s.curCore = [] → k < 16 →
      (∀ r ∈ s.liveRecords s.curCore, r.num ≠ k) → (∀ j, j < k → ∃ r ∈ s.liveRecords s.curCore, r.num = j) →
      (s.liveRecords s.curCore).length < 16 →
      ∃ t w' r, exec (.obres d a) s = .next t ∧ t.mem = s.mem ∧ t.wg? s.cur.wg = some w' ∧ w'.records = w.records ++ [r] ∧
        r.num = k ∧ r.base = (s.cur.opnd32 0 a).toNat ∧ r.size = (s.cur.opnd32 0 (codeAt a 1)).toNat ∧
        r.fmt = (s.cur.opnd32 0 (codeAt a 2)).toNat % 16 ∧ r.live = true ∧ t.cur.pc = s.cur.advance.pc ∧ t.cur.v = s.cur.v ∧
        (isS d = true → t.cur.sget (sNum d) = BitVec.ofNat 32 k) ∧
        (∀ j, ¬ (isS d = true ∧ j = sNum d) → t.cur.sget j = s.cur.sget j)) ∧
    (skOk s.cur false a = true → (∃ r ∈ w.records, r.num = (s.cur.opnd32 l a).toNat) →
      ∃ t w', exec (.obfree a) s = .next t ∧ TeamKept s t ∧ t.mem = s.mem ∧ t.wg? s.cur.wg = some w' ∧
        w'.records = w.records.filter (fun r => decide (r.num ≠ (s.cur.opnd32 l a).toNat)))

/-- The engine takes the operation at the head of its queue (R236, R237, R244–R248): MZERO clears the tile, STACC writes one
element, LDACC reads it; an MMA starts when B is there, fetched once, and each strip adds to its eight rows of the tile the products
along k of A's rows and the rows of B so kept, for INT8 their exact sum wrapped to 32 bits, no other element changing; the two
MMAPs of a number start together once both are ready, with the even core's B; one without its partner for 65,536 cycles ends with
PAIRTMO. -/
def Obligations.MatrixEngineRuns : Prop :=
  ∀ (s : State) (core : Nat) (o : MOp), (s.queue core).head? = some o → s.opWaits o = false →
    (∀ q ∈ (s.queue core).tail, q.issuer ≠ o.issuer) →
    let tail := (s.queue core).tail
    (o.started = false → o.kind = .zero false → ∃ t, exec (.engineOperationStart core) s = .next t ∧ t.queue core = tail ∧
      t.mem = s.mem ∧ (∀ e, t.tileElem core o.tile e = 0) ∧
      ∀ k e, tileKey core k ≠ tileKey core o.tile → t.tileElem core k e = s.tileElem core k e) ∧
    (∀ e x, o.started = false → o.kind = .store [(e, x)] false → ∃ t, exec (.engineOperationStart core) s = .next t ∧
      t.queue core = tail ∧ t.mem = s.mem ∧ t.tileElem core o.tile e = x.extractLsb' 0 32 ∧
      ∀ q, q ≠ e → t.tileElem core o.tile q = s.tileElem core o.tile q) ∧
    (∀ x e, o.started = false → o.kind = .load x.team x.seq false → s.loads = [x] → x.kind = .acc o.tile e →
      s.tilePoisoned core o.tile = [] → ∃ t, exec (.engineOperationStart core) s = .next t ∧ t.queue core = tail ∧
        t.mem = s.mem ∧ t.loads = [{ x with value := some ((s.tileElem core o.tile e).setWidth 128) }]) ∧
    (∀ a b k, o.kind = .mma false a b → pairK a.fmt b.fmt = some k → o.prog = none →
      (o.bRows = [] → s.pipeRows core o b k (List.range 128) = (s, .ready) →
        ∃ t, exec (.engineOperationStart core) s = .next t ∧ t.mem = s.mem ∧ t.tiles = s.tiles ∧ t.queue core =
          { o with started := true, stop := false, bRows := (List.range 128).map (s.operandRow core o b k), got := [] } :: tail) ∧
      (o.started = true → o.stop = false → o.strips < 16 → a.fmt ≠ 1 → o.bRows.length = 128 → (∀ y ∈ o.bRows, y.fmt = b.fmt) →
        s.pipeRows core o a k ((List.range 8).map (fun i => 8 * o.strips + i)) = (s, .ready) → s.stripPoison core o = false →
        ∃ t, exec (.mmaStrip core) s = .next t ∧ t.mem = s.mem ∧
          t.queue core = (if o.strips + 1 < 16 then { o with strips := o.strips + 1, got := [] } :: tail else tail) ∧
          (∀ r c y, r / 8 = o.strips → o.bRows[c]? = some y → t.tileElem core o.tile (128 * r + c) = BitVec.ofNat 32
            (mmaElem (s.operandRow core o a k r) y k (s.tileElem core o.tile (128 * r + c)).toNat)) ∧
          (∀ r c y, r / 8 = o.strips → o.bRows[c]? = some y → a.fmt = 6 → (∀ x ∈ y.elems, x < 256) →
            t.tileElem core o.tile (128 * r + c) =
              s.tileElem core o.tile (128 * r + c) + BitVec.ofInt 32 (((List.range k).map (fun i =>
                (BitVec.ofNat 8 ((s.operandRow core o a k r).elems.getD i 0)).toInt *
                  (BitVec.ofNat 8 (y.elems.getD i 0)).toInt)).sum)) ∧
          ∀ e, e / 1024 ≠ o.strips → t.tileElem core o.tile e = s.tileElem core o.tile e)) ∧
    (∀ a b p a' b' n n', core % 2 = 0 → o.kind = .mma true a b → (s.queue (core + 1)).head? = some p →
      p.kind = .mma true a' b' → o.count ≠ none → p.count = o.count → p.ctx = o.ctx → o.started = false → p.started = false →
      s.readyAt core o = some n → s.cycle < n + 65536 → s.readyAt (core + 1) p = some n' → s.cycle < n' + 65536 →
      s.opWaits p = false →
      ∃ t, exec (.mmapStart core) s = .next t ∧ t.mem = s.mem ∧ t.tiles = s.tiles ∧
        t.queue core = { o with started := true } :: tail ∧
        t.queue (core + 1) = { p with started := true, bRows := o.bRows } :: (s.queue (core + 1)).tail) ∧
    (∀ a b u n, o.kind = .mma true a b → o.started = false → o.stop = false → s.readyAt core o = some n → s.partner core o = none →
      o.prog = none → s.team? o.issuer.team = some u → u.ending = false →
      ∃ t u', exec (.pairtmo core) s = .next t ∧ t.queue core = tail ∧ n + 65536 ≤ t.cycle ∧ s.cycle ≤ t.cycle ∧
        t.team? o.issuer.team = some u' ∧ u'.pendTraps = u.pendTraps ++ [⟨11, 0, 0⟩] ∧ t.mem = s.mem)

/-! ## Barriers and waits -/

/-- Barrier words of scratchpad and cluster memory (R252–R259). BARINIT starts a new generation with COUNT and PHASE 0, BARINV
clears LIVE; ARRIVE records an arrival that is performed once everything before it is: COUNT is one more, or 0 in the next
PHASE when EXPECT is reached, and its token is GEN and PHASE as they were; ARRWAIT does so at once and then waits on the token;
AWAIT completes with 0 on a passed token, with 1 on a stale one, and otherwise waits. Every wait that the phase ends is
released. -/
def Obligations.BarriersCountAndRelease : Prop :=
  ∀ (s : State) (d a b : Code) (l loc : Nat), s.plain = true → s.still → s.cur.leader = some l →
    sbaseOk s.cur false a = true → s.barrierPlace s.cur (s.cur.opnd64 l a) 8 = .ok (.store, loc) → s.cur.pendErrs = [] →
    s.memberStopped loc = false → s.drained loc = false → (∀ q ∈ s.loads, q.team = s.cur.uid → q.kind.reads = true → q.value ≠ none) →
    let w := cellNat s.mem loc 8
    let gen := w / 2 ^ 48 % 256
    let expect := w / 2 ^ 32 % 65536
    let count := w / 2 ^ 16 % 65536
    let phase := w % 65536
    let live := decide (w / 2 ^ 63 % 2 = 1)
    let memb := decide (w / 2 ^ 62 % 2 = 1)
    let token := BitVec.ofNat 32 (gen * 2 ^ 16 + phase)
    let counted := if count + 1 = expect then w / 2 ^ 32 * 2 ^ 32 + (phase + 1) % 65536
      else w / 2 ^ 32 * 2 ^ 32 + (count + 1) % 65536 * 2 ^ 16 + phase
    let x := s.cur.opnd32 l b
    (skOk s.cur false b = true → x.extractLsb' 17 15 = 0 → x.extractLsb' 0 16 ≠ 0 →
      (x.getLsbD 16 = true → (x.extractLsb' 0 16).toNat ≤ 64 ∧
        s.barrierPlace s.cur (s.cur.opnd64 l a) 16 = .ok (.store, loc)) →
      ∃ t, exec (.barinit a b) s = .next t ∧ t.cur.pc = s.cur.advance.pc ∧ t.cur.v = s.cur.v ∧ t.cur.s = s.cur.s ∧
        loc ∈ t.barriers ∧ cellNat t.mem loc 8 = 2 ^ 63 + (if x.getLsbD 16 then 2 ^ 62 else 0) + (gen + 1) % 256 * 2 ^ 48 +
          (x.extractLsb' 0 16).toNat * 2 ^ 32 ∧ (x.getLsbD 16 = true → cellNat t.mem (loc + 8) 8 = 0) ∧
        ∀ q, (q < loc ∨ loc + (if x.getLsbD 16 then 16 else 8) ≤ q) → t.byte q = s.byte q) ∧
    (∃ t, exec (.barinv a) s = .next t ∧ t.cur.pc = s.cur.advance.pc ∧ t.cur.v = s.cur.v ∧ t.cur.s = s.cur.s ∧
      loc ∉ t.barriers ∧ cellNat t.mem loc 8 = (if live then w - 2 ^ 63 else w) ∧
      ∀ q, (q < loc ∨ loc + 8 ≤ q) → t.byte q = s.byte q) ∧
    (s.hasSeta = true → szOk false d = true → skOk s.cur true b = true →
      ∃ t q, exec (.arrive d a b) s = .next t ∧ TeamKept s t ∧ t.mem = s.mem ∧ t.loads = s.loads ++ [q] ∧
        q.team = s.cur.uid ∧ q.seq = s.nextSeq ∧ q.flag = s.cur.seta ∧ q.scope = s.cur.scope ∧ q.loc = loc ∧
        q.kind = .arrive (x.toNat % 64) ∧ q.dests = [(0, if isS d then .scal (sNum d) else .none)]) ∧
    (∀ k q n m, s.loads[k]? = some q → q.team = s.cur.uid → q.kind = .arrive m → q.loc = loc → q.dests = [(0, .scal n)] →
      s.accessesDone q.team q.seq q.scope = true → live = true → memb = false →
      ∃ t, exec (.loadDataReturn k 0) s = .next t ∧ cellNat t.mem loc 8 = counted ∧ t.loads = s.loads.eraseIdx k ∧
        t.cur.sget n = token ∧ (∀ j, j ≠ n → t.cur.sget j = s.cur.sget j) ∧ t.cur.v = s.cur.v) ∧
    (szOk false d = true → skOk s.cur true b = true → s.accessesDone s.cur.uid s.nextSeq s.cur.scope = true →
      live = true → memb = false → ∃ t, exec (.arrwait d a b) s = .next t ∧ cellNat t.mem loc 8 = counted ∧ t.cur.v = s.cur.v ∧ t.cur.p = s.cur.p ∧
        (∀ q, (q < loc ∨ loc + 8 ≤ q) → t.byte q = s.byte q) ∧
        (count + 1 ≠ expect → t.cur.park = .await token loc none ∧ t.cur.s = s.cur.s) ∧
        (count + 1 = expect → t.cur.park = .running ∧ t.cur.pc = s.cur.advance.pc ∧
          (isS d = true → t.cur.sget (sNum d) = 0) ∧ (∀ j, ¬ (isS d = true ∧ j = sNum d) → t.cur.sget j = s.cur.sget j) ∧
          ∀ u ∈ s.others, u.park = .await token loc none → (∀ g, s.wg? u.wg = some g → g.phase ≠ .saved) → ∃ u' ∈ t.others, u'.uid = u.uid ∧
            u'.park = .await token loc (some 0))) ∧
    (szOk false d = true → skOk s.cur false b = true →
      let stale := x.getLsbD 31 || !live || decide (gen ≠ (x.extractLsb' 16 8).toNat)
      let since := (phase + 65536 - (x.extractLsb' 0 16).toNat) % 65536
      let done (v : Word) : Prop := ∃ t, exec (.await d a b) s = .next t ∧ t.mem = s.mem ∧ t.cur.park = .running ∧
        t.cur.pc = s.cur.advance.pc ∧ (isS d = true → t.cur.sget (sNum d) = v) ∧
        (∀ j, ¬ (isS d = true ∧ j = sNum d) → t.cur.sget j = s.cur.sget j) ∧ t.cur.v = s.cur.v
      (stale = true → done 1) ∧ (stale = false → 1 ≤ since → since ≤ 32767 → done 0) ∧
      (stale = false → (since = 0 ∨ 32767 < since) →
        ∃ t, exec (.await d a b) s = .next t ∧ t.cur = { s.cur with park := .await x loc none } ∧ t.mem = s.mem))

/-- Waits and their ends (R176, R262, R320). PARK returns 0 on a WAKE, also an earlier one, and 1 at its timeout; WAKE ends the
PARK of the team it names or leaves WAKEPEND there; the timeouts of BWAIT and PARK are not before their deadline, and do not
come while the workgroup is saved (R367). XCH with no
partner yet waits with every lane's value on offer; with the partner's values there each contributing lane takes its own, a
team that names itself its own; after its deadline it raises XCHTMO. -/
def Obligations.WaitsEnd : Prop :=
  ∀ (s : State) (d a b : Code),
    let gives (i : Instr) (v : Word) : Prop := ∃ t, exec i s = .next t ∧ t.mem = s.mem ∧ t.cur.park = .running ∧
      t.cur.pc = s.cur.advance.pc ∧ (isS d = true → t.cur.sget (sNum d) = v) ∧ t.cur.wakePend = false ∧
      (∀ j, ¬ (isS d = true ∧ j = sNum d) → t.cur.sget j = s.cur.sget j) ∧ t.cur.v = s.cur.v
    (s.unpark.plain = true → szOk false d = true → skOk s.cur true b = true →
      (s.cur.park = .running → s.cur.wakePend = true → gives (.park d b) 0) ∧
      (s.cur.park = .running → s.cur.wakePend = false → s.cur.opnd32 0 b = 0 → gives (.park d b) 1) ∧
      (s.cur.park = .running → s.cur.wakePend = false → s.cur.opnd32 0 b ≠ 0 →
        let n := s.cur.opnd32 0 b
        let until_ := if n = 0xFFFFFFFF then none else some (s.cycle + n.toNat)
        exec (.park d b) s = .next (s.setCur { s.cur with park := .park until_ false false })) ∧
      (∀ dl e, s.cur.park = .park dl true e → s.cur.wakePend = false → gives (.park d b) 0) ∧
      (∀ dl, s.cur.park = .park dl false true → s.cur.wakePend = false → gives (.park d b) 1)) ∧
    (∀ l w, s.plain = true → skOk s.cur false a = true → s.cur.leader = some l → s.wg? s.cur.wg = some w →
      (s.cur.opnd32 l a).toNat < w.teams → s.accessesDone s.cur.uid s.nextSeq s.cur.scope = true →
      s.cur.index ≠ (s.cur.opnd32 l a).toNat →
      ∃ t, exec (.wake a) s = .next t ∧ t.cur = s.cur.advance ∧ t.mem = s.mem ∧
        t.others = s.others.map (fun u =>
          if u.live = true ∧ u.ending = false ∧ u.wg = s.cur.wg ∧ u.index = (s.cur.opnd32 l a).toNat then
            (match u.park with
              | .park dl false false => { u with park := .park dl true false }
              | _ => { u with wakePend := true }) else u)) ∧
    (∀ u n, s.team? u.uid = some u → (∀ g, s.wg? u.wg = some g → g.phase ≠ .saved) →
      (u.park = .park (some n) false false → ∃ t u', exec (.parkTimeout u.uid) s = .next t ∧ t.team? u.uid = some u' ∧
        u' = { u with park := .park (some n) false true } ∧ n ≤ t.cycle ∧ s.cycle ≤ t.cycle ∧ t.mem = s.mem) ∧
      (u.park = .bwait (some n) false → ∃ t u', exec (.bwaitTimeout u.uid) s = .next t ∧ t.team? u.uid = some u' ∧
        u' = { u with park := .bwait (some n) true } ∧ n ≤ t.cycle ∧ s.cycle ≤ t.cycle ∧ t.mem = s.mem)) ∧
    (∀ u g, s.team? u.uid = some u → s.wg? u.wg = some g → g.phase = .saved →
      exec (.parkTimeout u.uid) s = .next s ∧ exec (.bwaitTimeout u.uid) s = .next s) ∧
    (∀ w, s.unpark.plain = true → s.cur.bindings = [] → vRun s.cur 1 1 d = true → vRun s.cur 1 1 a = true →
      skOk s.cur false b = true → s.wg? s.cur.wg = some w → s.cur.mask ≠ 0 → isS b = true →
      let x := (s.cur.sget (sNum b)).toNat
      s.partnerOk s.cur (x % 65536) (x / 65536 % 32) = true →
      (s.cur.park = .running → x % 65536 = w.index → x / 65536 % 32 = s.cur.index →
        Gives (.xch d a b) s false d (fun l => s.cur.opndN false l a)) ∧
      (s.cur.park = .running → (x % 65536 ≠ w.index ∨ x / 65536 % 32 ≠ s.cur.index) →
        s.offering s.cur (x % 65536) (x / 65536 % 32) (x / 2 ^ 21) = none →
        ∃ t offer, exec (.xch d a b) s = .next t ∧ t.cur = { s.cur with park := t.cur.park } ∧
          t.cur.park = .xch (s.cycle + 65536) (x % 65536) (x / 65536 % 32) (x / 2 ^ 21) offer none ∧ t.mem = s.mem ∧
          ∀ l, l < s.cur.size → offer.lookup l = some (s.cur.vget l a.toNat)) ∧
      (∀ dl g tm tag own size theirs, s.cur.park = .xch dl g tm tag own (some (size, theirs)) →
        ∃ t, exec (.xch d a b) s = .next t ∧ t.cur.park = .running ∧ t.cur.s = s.cur.s ∧ t.cur.p = s.cur.p ∧ t.mem = s.mem ∧
          (∀ l, l < s.cur.size → s.cur.contrib.getLsbD l = true → t.cur.vget l d.toNat =
            (if l < size then (theirs.lookup l).getD 0 else (own.lookup l).getD 0)) ∧
          ∀ l r, r < 96 → (r ≠ d.toNat ∨ s.cur.contrib.getLsbD l = false) → t.cur.vget l r = s.cur.vget l r)) ∧
    (∀ dl g tm tag own, s.cur.live = true → s.cur.park = .xch dl g tm tag own none → s.hasHandler = true →
      ∃ t, exec (.xchtmo s.cur.uid) s = .next t ∧ dl ≤ t.cycle ∧ t.cur.hlevel = true ∧ t.cur.park = .running ∧
        t.cur.faultInfo = BitVec.ofNat 5 12 ++ (0 : BitVec 27) ∧ t.cur.pc = (s.curCtx.trapBase &&& ~~~(0xFFF : DWord)) + 0xC00 ∧ t.cur.v = s.cur.v ∧
        t.mem = s.mem)

/-! ## Launches -/

/-- Launches reach the device (R325, R326, R394–R400). TENDER enqueues a child launch and reports 0, or all ones with 256 not
yet admitted; TCLASS loads a class record of the context; the distributor takes HEAD when the context becomes valid, reads TAIL
at a change, reports an overrun, takes records in order, and the children that TENDER enqueued. A gate opens when every
dependence shows DONE with status 0, a dependence with another status completes the launch with 7, a count of zero with 0; a
launch that system software ends completes with 9, a workgroup that it ends stops with 9. -/
def Obligations.LaunchesAreTaken : Prop :=
  ∀ s : State,
    (∀ (d a b : Code) (l : Nat), s.plain = true → s.cur.leader = some l → skOk s.cur false b = true →
      (szOk false d = true → sbaseOk s.cur false a = true → (s.cur.opnd32 l b).toNat ≠ 0 → (s.cur.opnd32 l b).toNat ≤ 65535 →
        (s.cur.opnd64 l a).toNat % 64 = 0 → s.accessesDone s.cur.uid s.nextSeq s.cur.scope = true →
        let told (v : Word) : Team := (if isS d then s.cur.sset (sNum d) v else s.cur).advance
        (256 ≤ s.childrenOpen s.curCtxNum → exec (.tender d a b) s = .next (s.setCur (told 0xFFFFFFFF))) ∧
        (s.childrenOpen s.curCtxNum < 256 → ∃ t x, exec (.tender d a b) s = .next t ∧ t.cur = told 0 ∧ t.mem = s.mem ∧
          t.children = s.children ++ [x] ∧ x.ctx = s.curCtxNum ∧ x.addr = s.cur.opnd64 l a ∧
          x.count = (s.cur.opnd32 l b).toNat ∧ x.cluster = s.curCore / 8))) ∧
    (∀ (a b : Code) (l : Nat), s.plain = true → s.cur.leader = some l → skOk s.cur false a = true →
      descOk s.cur b = true → (s.cur.opnd32 l a).toNat < 64 → classOk (s.cur.descWords b) = true →
      let w (i : Nat) : Word := (s.cur.descWords b).getD i 0
      ∃ t, exec (.tclass a b) s = .next t ∧ t.cur = s.cur.advance ∧ t.mem = s.mem ∧
        (∀ c n, (c ≠ s.curCtxNum ∨ n ≠ (s.cur.opnd32 l a).toNat) → (t.ctx c).cls n = (s.ctx c).cls n) ∧
        (let r := (t.ctx s.curCtxNum).cls (s.cur.opnd32 l a).toNat
         r.w0 = ((w 0).extractLsb' 0 8).toInt ∧ r.c0 = ((w 0).extractLsb' 8 3).toNat ∧
         r.w1 = ((w 0).extractLsb' 16 8).toInt ∧ r.c1 = ((w 0).extractLsb' 24 3).toNat ∧
         r.w2 = ((w 1).extractLsb' 0 8).toInt ∧ r.c2 = ((w 1).extractLsb' 8 3).toNat ∧
         r.w3 = ((w 1).extractLsb' 16 8).toInt ∧ r.c3 = ((w 1).extractLsb' 24 3).toNat ∧
         r.aff = (if (w 3).getLsbD 30 then some ((w 2).toNat + ((w 3).extractLsb' 0 25).toNat * 2 ^ 32) else none) ∧
         r.win = ((w 3).extractLsb' 25 4).toNat ∧ r.clm = (w 3).getLsbD 29)) ∧
    (∀ x r, s.children[s.sel]? = some x → s.dist x.ctx x.addr 256 = (s, .got r) → s.takable x.ctx x.addr r true →
      ∃ t, exec .childLaunchTake s = .next t ∧ Takes s t x.ctx x.addr r x.count true ∧ x ∉ t.children ∧ t.cur = s.cur ∧
        t.mem = s.mem) ∧
    (let c := s.sel
     let x := s.ctx c
     x.valid = true →
      (∀ h, x.started = false → s.dist c (x.lq + 128) 4 = (s, .got h) → ∃ t, exec .tailChange s = .next t ∧ t.mem = s.mem ∧
        t.cur = s.cur ∧ (t.ctx c).started = true ∧ (t.ctx c).head = BitVec.ofNat 32 h ∧ t.launches = s.launches) ∧
      (∀ v, x.started = true → x.tailRead = none → x.tailPend = true → s.dist c x.lq 4 = (s, .got v) →
        let far := decide (2 ^ (x.lqk + 4) < (BitVec.ofNat 32 v - x.head).toNat)
        ∃ t, exec .tailChange s = .next t ∧ t.launches = s.launches ∧ (t.ctx c).head = x.head ∧
          (far = false → (t.ctx c).tailRead = some (BitVec.ofNat 32 v) ∧ t.mem = s.mem) ∧
          (far = true → (t.ctx c).tailRead = none ∧ ∃ e, (t.ctx c).fqWait = x.fqWait ++ [e] ∧ e.kind = 3 ∧ e.sub = 1 ∧
            e.arg0 = (BitVec.ofNat 32 v).setWidth 64)) ∧
      (∀ tl rec r, x.started = true → x.tailRead = some tl → x.head ≠ tl → s.openLaunches c < 1024 →
        s.dist c (x.lq + 256 + BitVec.ofNat 64 (8 * (x.head.toNat % 2 ^ (x.lqk + 4)))) 8 = (s, .got rec) →
        s.dist c (BitVec.ofNat 64 rec) 256 = (s, .got r) → s.takable c (BitVec.ofNat 64 rec) r false →
        ∃ t, exec .tailChange s = .next t ∧ Takes s t c (BitVec.ofNat 64 rec) r (r / 256 ^ 0x10 % 2 ^ 32) false ∧
          (t.ctx c).head = x.head + 1)) ∧
    (∀ l, s.launches[s.sel]? = some l → l.phase = .gated →
      (∀ d ∈ l.deps, ∃ v, s.dist l.ctx d 8 = (s, .got v)) →
      let shows (d : DWord) (p : Nat → Nat → Bool) : Bool :=
        match (s.dist l.ctx d 8).2 with
        | .got v => p (v / 2 ^ 63 % 2) (v % 256)
        | _ => false
      let opens (n : Nat) : State := s.modLaunch l.id (fun l => { l with count := n, phase := .open_ })
      ((∃ d ∈ l.deps, shows d (fun done st => decide (done = 1 ∧ st ≠ 0)) = true) →
        ∃ t, exec .gateOpen s = .next t ∧ Completes s t l 7) ∧
      ((∀ d ∈ l.deps, shows d (fun done st => decide (done = 0 ∨ st = 0)) = true) →
        (∃ d ∈ l.deps, shows d (fun done _ => decide (done = 0)) = true) → exec .gateOpen s = .next s) ∧
      ((∀ d ∈ l.deps, shows d (fun done st => decide (done = 1 ∧ st = 0)) = true) →
        (l.indirect = false → exec .gateOpen s = .next (opens l.count)) ∧
        (∀ n, l.indirect = true → s.dist l.ctx l.countAddr 4 = (s, .got n) →
          (n = 0 → ∃ t, exec .gateOpen s = .next t ∧ Completes s t l 0) ∧
          (65535 < n → ∃ t, exec .gateOpen s = .next t ∧ Completes s t l 6) ∧
          (0 < n → n ≤ 65535 → l.hank = 0 → exec .gateOpen s = .next (opens n))))) ∧
    (∀ l, s.launch? l.id = some l → l.phase = .gated →
      ∃ t, exec (.endLaunchBySystemSoftware l.id) s = .next t ∧ Completes s t l 9) ∧
    (∀ w l, s.wg? w.uid = some w → (w.phase = .resident ∨ w.phase = .stopping ∨ w.phase = .saved) → w.status = 0 →
      s.launch? w.launch = some l → ∃ t, exec (.serviceEndWorkgroup w.uid) s = .next t ∧ t.stopped w.uid 9 ∧ t.mem = s.mem)

/-- Workgroups are placed by tender (R72, R322–R324, R401, R403). The launch of highest priority is announced, or offered to
system software under host-assisted placement; a core that fits bids once, with its cost, in the window; after the window the
best bid is awarded, and with no bid the workgroup is held until resources are released; the awarded core confirms, and the
workgroup is admitted; after a withdrawal, or 32 cycles, the next kept bid is awarded, and with none left the workgroup is
announced afresh while the budgets of its context pass and its pool has slots; the eighth time all that its context has pending goes to system
software, whose answer admits the workgroup to a core that fits, and else it is
asked again. A launch that has stopped is announced no more. -/
def Obligations.TenderPlacesWorkgroups : Prop :=
  ∀ s : State, s.annsApart →
    (∀ l, l ∈ s.launches → s.mayAnnounce l → l.hank = 0 → s.fab.attempts = [] →
      (∀ a ∈ s.anns, s.mayAgain a = true → a.spec.prio < l.prio) →
      (∀ x ∈ s.launches, x ≠ l → x.prio < l.prio ∧ x.id ≠ l.id) →
      let counted (t : State) : Prop := t.served = l.ctx ∧
        t.launches = s.launches.map (fun (x : Launch) => if x.id = l.id then { x with next := x.next + 1 } else x)
      ((s.ctx l.ctx).placed = false → (s.anns.filter Ann.inFlight).length < 8 → ∃ t a, exec .announcement s = .next t ∧
        counted t ∧ t.cur = s.cur ∧ t.mem = s.mem ∧ t.anns = s.anns ++ [a] ∧ a.ctx = l.ctx ∧ a.wg = l.next ∧ a.phase = .bidding ∧
        a.since = s.cycle ∧ a.kept = [] ∧ a.cls = (s.ctx l.ctx).cls l.cls) ∧
      ((s.ctx l.ctx).placed = true → ∃ t a e, exec .announcement s = .next t ∧ counted t ∧ t.anns = s.anns ++ [a] ∧
        a.phase = .starved ∧ a.wg = l.next ∧ (t.ctx l.ctx).fqWait = (s.ctx l.ctx).fqWait ++ [e] ∧ e.kind = 2 ∧ e.sub = 0 ∧
        e.arg0 = l.record ∧ e.arg1 = BitVec.ofNat 64 (l.next % 65536))) ∧
    (∀ a core, a ∈ s.anns → a.phase = .bidding → s.cycle ≤ a.since + 16 * (a.cls.win + 1) → (∀ k ∈ a.kept, k.2 ≠ core) →
      s.annFits a core = true →
      let x : Nat × Nat := (s.cost a core, core)
      let before (y z : Nat × Nat) : Prop :=
        y.1 < z.1 ∨ y.1 = z.1 ∧ (y.2 + 192 - s.pointer) % 192 ≤ (z.2 + 192 - s.pointer) % 192
      (s.cost a core : Int) = max 0 (min 65535 (a.cls.w0 * s.counter a core a.cls.c0 + a.cls.w1 * s.counter a core a.cls.c1 +
        a.cls.w2 * s.counter a core a.cls.c2 + a.cls.w3 * s.counter a core a.cls.c3)) ∧
      ∃ t kept, exec (.bid a.id core) s = .next t ∧ t.annIs { a with kept := kept } ∧ kept.length ≤ 4 ∧
        (a.kept.length < 4 → x ∈ kept ∧ ∀ k ∈ a.kept, k ∈ kept) ∧ (∀ k ∈ kept, k = x ∨ k ∈ a.kept) ∧
        (a.kept.Pairwise before → kept.Pairwise before) ∧ t.cur = s.cur ∧ t.mem = s.mem) ∧
    (∀ a, s.anns[s.sel]? = some a → a.purpose = .fresh →
      let rest (t : State) : Prop := (∀ x ∈ s.anns, x.id ≠ a.id → x ∈ t.anns) ∧ t.wgs = s.wgs ∧ t.cur = s.cur ∧ t.mem = s.mem
      let again (t : State) : Prop := t.annIs { a with
        phase := .bidding
        since := t.cycle
        kept := []
        awarded := none
        again := false
        cls := (s.ctx a.ctx).cls a.spec.cls
        retenders := a.retenders + 1 }
      let stopped := (s.launch? a.spec.id).any Launch.stopped
      let may := s.budgetsPass a.ctx 0 && s.slotsLeft a.ctx a.spec.teams
      let waits (t : State) : Prop := t.annIs { a with
        phase := .held
        kept := []
        awarded := none
        again := true
        retenders := a.retenders + 1 }
      let onTo (t : State) (k : Nat × Nat) (ks : List (Nat × Nat)) : Prop := t.annIs { a with
        phase := .awarded
        awarded := some k.2
        kept := ks
        since := t.cycle }
      (a.phase = .bidding → (∀ x ∈ s.anns.take s.sel, x.phase ≠ .bidding) →
        ∃ t, exec .bidWindowClose s = .next t ∧ a.since + 16 * (a.cls.win + 1) ≤ t.cycle ∧ rest t ∧
          (∀ k ks, a.kept = k :: ks → onTo t k ks) ∧
          (a.kept = [] → t.annIs { a with phase := .held, awarded := none, again := false })) ∧
      (∀ core, a.phase = .awarded → a.awarded = some core →
        (∀ l, s.canConfirm a core = true → s.cycle ≤ a.since + 32 → s.launch? a.spec.id = some l →
          ∃ t, exec .confirm s = .next t ∧ Admitted s t a l core ∧
            (s.coreOn ((s.pointer + 1) % 192) = true → t.pointer = (s.pointer + 1) % 192)) ∧
        (s.canConfirm a core = false →
          (∀ k ks, a.kept = k :: ks → ∃ t, exec .withdraw s = .next t ∧ rest t ∧ onTo t k ks) ∧
          (a.kept = [] → stopped = true → ∃ t, exec .withdraw s = .next t ∧ rest t ∧
            t.annIs { a with phase := .held, awarded := none, again := false }) ∧
          (a.kept = [] → stopped = false → a.retenders < 7 → ∃ t, exec .withdraw s = .next t ∧ rest t ∧
            if may = true then again t else waits t) ∧
          (a.kept = [] → stopped = false → a.retenders = 7 → ∃ t, exec .withdraw s = .next t ∧ (t.ctx a.ctx).placed = true ∧
            ∀ x ∈ s.anns, x.ctx = a.ctx → x.forHank = false → ∃ b ∈ t.anns, b.id = x.id ∧ b.phase = .starved)) ∧
        (∃ t, exec .confirmTimeout s = .next t ∧ a.since + 32 ≤ t.cycle ∧ (∀ k ks, a.kept = k :: ks → rest t ∧ onTo t k ks) ∧
          (a.kept = [] → stopped = false → a.retenders < 7 → rest t ∧ if may = true then again t else waits t))) ∧
      (a.phase = .held → a.again = true → may = true → (s.ctx a.ctx).placed = false → (s.anns.filter Ann.inFlight).length < 8 →
        (∀ x ∈ s.anns, x.id ≠ a.id → s.mayAgain x = true → x.spec.prio < a.spec.prio) →
        (∀ l ∈ s.launches, s.mayAnnounce l → l.prio < a.spec.prio) →
        ∃ t, exec .reAnnounce s = .next t ∧ rest t ∧ t.served = a.ctx ∧ t.annIs { a with
          phase := .bidding
          since := s.cycle
          kept := []
          awarded := none
          again := false
          cls := (s.ctx a.ctx).cls a.spec.cls })) ∧
    (∀ c a l e v, (s.ctx c).fqWait = [e] → e.kind = 2 → e.posted = true → e.party = a.id → a ∈ s.anns → a.purpose = .fresh →
      a.ctx = c → s.launch? a.spec.id = some l →
      (s.canConfirm a v.toNat = true →
        ∃ t, exec (.placementResponse c e.n v) s = .next t ∧ Admitted s t a l v.toNat ∧ (t.ctx c).fqWait = []) ∧
      (s.canConfirm a v.toNat = false →
        ∃ t e', exec (.placementResponse c e.n v) s = .next t ∧ t.wgs = s.wgs ∧ a ∈ t.anns ∧ (t.ctx c).fqWait = [e'] ∧
          e'.kind = 2 ∧ e'.sub = 1 ∧ e'.arg0 = a.spec.record))

/-- Pre-emption and restore (R168, R206, R247, R319, R321, R368): a resident workgroup stops issuing, with every workgroup of
its context that shares its cluster memory; a saved one is announced, while its context's budgets pass, and
comes to a core that has the award and still meets its needs, with its registers, tiles and programs; a register in notify mode comes back with CHG set. -/
def Obligations.PreemptAndRestore : Prop :=
  ∀ (s : State) (w : Wg), s.wg? w.uid = some w → w.hank = none →
    (w.phase = .resident →
      (w.clm = false → ∃ t, exec (.preemption w.uid) s = .next t ∧ t.cur = s.cur ∧ t.others = s.others ∧ t.mem = s.mem ∧
        t.wgs = s.wgs.map (fun (x : Wg) => if x.uid = w.uid then { x with phase := .stopping, group := none } else x)) ∧
      (w.clm = true → (∀ x ∈ s.wgs, x.hank = none) → s.wgs.Pairwise (fun x y => x.uid ≠ y.uid) →
        ∃ t g, exec (.preemption w.uid) s = .next t ∧ t.cur = s.cur ∧ t.others = s.others ∧ t.mem = s.mem ∧
          t.wgs = s.wgs.map (fun (x : Wg) =>
            if x.clm = true ∧ x.ctx = w.ctx ∧ x.phase = .resident ∧ x.core / 8 = w.core / 8 then
              { x with phase := .stopping, group := some g } else x))) ∧
    (∀ l core, w.phase = .saved → w.group = none → (∀ x ∈ s.anns, x.purpose ≠ .saved w.uid) → s.launch? w.launch = some l →
      s.budgetsPass w.ctx (s.wgTeams w.uid).length = true → (s.ctx w.ctx).placed = false →
      (s.anns.filter Ann.inFlight).length < 8 →
      ∃ t a, exec (.restore w.uid core) s = .next t ∧ t.anns = s.anns ++ [a] ∧ a.purpose = .saved w.uid ∧ a.phase = .bidding ∧
        a.since = s.cycle ∧ a.kept = [] ∧ a.spec = l ∧ a.cls = (s.ctx l.ctx).cls l.cls ∧ t.served = w.ctx ∧ t.wgs = s.wgs ∧
        t.cur = s.cur ∧ t.others = s.others ∧ t.mem = s.mem) ∧
    (∀ a core, w.phase = .saved → w.group = none → a ∈ s.anns → a.purpose = .saved w.uid → a.phase = .awarded →
      a.awarded = some core → (∀ x ∈ s.anns, x.purpose = .saved w.uid → x = a) → s.cycle ≤ a.since + 32 →
      s.restoreFits w core = true → s.slotsLeft a.ctx 0 = true → w.chip = none → w.smax = 0 → s.wgRecords w = [] →
      w.tiles.Nodup → (∀ n ∈ w.tiles, n < 12) →
      (s.anns[s.sel]? = some a → exec .confirm s = exec (.restore w.uid core) s) ∧
      ∃ t w', exec (.restore w.uid core) s = .next t ∧ t.wg? w.uid = some w' ∧ w'.phase = .resident ∧ w'.core = core ∧
        (∀ x ∈ t.anns, x.id ≠ a.id) ∧ (s.coreOn ((s.pointer + 1) % 192) = true → t.pointer = (s.pointer + 1) % 192) ∧
        t.mem = s.mem ∧ (∀ n ∈ w.tiles, ∀ e, t.tileElem core n e = s.tileElem (1000 + w.uid) n e) ∧
        (∀ p ∈ t.progs, p.wg = w.uid → p.core = core) ∧
        t.teams.map Team.uid = s.teams.map Team.uid ∧
        ∀ (i : Nat) (x y : Team), s.teams[i]? = some x → t.teams[i]? = some y → x.sameRegisters y ∧ y.mode = x.mode ∧
          y.mask = x.mask ∧ y.stack = x.stack ∧ y.flags = x.flags ∧ y.tstat = x.tstat ∧ y.pc = x.pc ∧ y.idx = x.idx ∧
          (x.live = true → x.wg = w.uid → ∀ (k : Nat) (n : Nat × Binding) (n' : Nat × Binding), x.bindings[k]? = some n →
            y.bindings[k]? = some n' → n'.1 = n.1 ∧ n'.2.addr = n.2.addr ∧ (n.2.notify = true ∨ n.2.chg = true → n'.2.chg = true) ∧
              (locKind n.2.loc ≠ 0 → locKind n.2.loc ≠ 6 → n'.2.loc = movedLoc core n.2.loc) ∧
              ∀ space loc, (locKind n.2.loc = 0 ∨ locKind n.2.loc = 6) →
                (s.translate (s.ctxOfTeam x.uid) (BitVec.ofNat 64 n.2.addr) Need.load).2 = .at_ space loc → n'.2.loc = loc ∧ n'.2.space = space))

/-! ## Coherence -/

/-- Requests at a home slice, for a line that is not locked, when their bank takes them (R328, R337, R338, R340, R341, R343). A read of a
line that nobody holds gives it exclusive, of a shared line shared with a lease, of an owned line forwards to the owner; a write, an
upgrade or a streamer's hold goes through at once where nobody else has to be asked, and else invalidates every sharer or forwards to
the owner; an upgrade of an agent that is no valid sharer is a write; a notice of eviction or a writeback, which an agent sends as it
gives up its copy, takes the copy from the entry; a watch is recorded; a renewal extends the lease; the sweep forgets sharers whose lease
is over. -/
def Obligations.HomeServesRequests : Prop :=
  ∀ (s : State) (a line : Nat), a < 192 → s.coreOn a = true →
    let e := s.dirEntry line
    let stamp : BitVec 16 := BitVec.ofNat 16 ((s.ticks.toNat + 2 ^ s.coh.leaseL1) / 64)
    (∀ r : HomeReq, r.kind = .getS → r.agent = a → r.line = line → (s.servable r ∨ s.readsAlone a line r) → s.wayFor a line →
      s.noneWaits a line →
      (e.st = .di → ∃ t, exec (.gets a line) s = .next t ∧ Untouched s t ∧ (∃ k, t.copyAt a line = some k ∧ k.st = .e) ∧
        t.dirEntry line = { e with st := .dx, owner := BitVec.ofNat 9 a }) ∧
      (e.st = .ds → ∃ t k, exec (.gets a line) s = .next t ∧ Untouched s t ∧ t.copyAt a line = some k ∧ k.st = .s ∧
        k.stamp = stamp ∧ (t.dirEntry line).st = .ds ∧ (t.dirEntry line).stamp = s.nextStamp e stamp ∧
        (e.crs = false → e.ptrs.length < 4 → (∀ p ∈ e.ptrs, p.toNat ≠ a) → (t.dirEntry line).ptrs = e.ptrs ++ [BitVec.ofNat 9 a]) ∧
        (e.crs = false → e.ptrs.length = 4 → (∀ p ∈ e.ptrs, p.toNat ≠ a) → (t.dirEntry line).crs = true ∧
          ∀ i, (t.dirEntry line).coarse.getLsbD i = true ↔ i < 32 ∧ (i = a / 16 ∨ ∃ p ∈ e.ptrs, i = p.toNat / 16))) ∧
      (e.st = .dx ∨ e.st = .do_ → e.owner.toNat ≠ a → ∃ t, exec (.gets a line) s = .next t ∧
        Opened s t r [(.fwdRead, e.owner.toNat)])) ∧
    (∀ (i : Instr) (r : HomeReq), (i = .getm a line ∧ r.kind = .getM ∨ i = .upgrade a line ∧ r.kind = .upgrade) →
      r.agent = a → r.line = line → s.servable r → s.wayFor a line → s.noneWaits a line → s.ports = [] → plainCells r.cells →
      let r' : HomeReq := if r.kind = .upgrade ∧ s.sharerNow a line = true then r else { r with kind := .getM }
      let others := (e.ptrs.map BitVec.toNat).filter (fun p => decide (p ≠ a))
      (s.noneToAsk a line → ∃ t, exec i s = .next t ∧ Owns s t a line r.cells ∧ r ∉ t.coh.reqs) ∧
      (e.st = .ds → e.crs = false → s.leaseOver e.stamp = false → others ≠ [] → ∃ t, exec i s = .next t ∧
        Opened s t r' (others.map (fun p => (.inv, p)))) ∧
      (e.st = .dx → e.w = false → e.owner.toNat ≠ a → ∃ t, exec i s = .next t ∧ Opened s t r' [(.fwdWrite, e.owner.toNat)]) ∧
      (e.st = .do_ → e.crs = false → s.leaseOver e.stamp = false → e.owner.toNat ≠ a → ∃ t, exec i s = .next t ∧
        Opened s t r' ((.fwdWrite, e.owner.toNat) :: (others.filter (fun p => decide (p ≠ e.owner.toNat))).map (fun p => (.inv, p)))) ∧
      (e.st = .dh → ∃ t, exec i s = .next t ∧ Opened s t r' [(.recall, e.owner.toNat)])) ∧
    (∀ r : HomeReq, r.kind = .getH → r.agent = 256 + a → r.line = line → s.servable r → s.ports = [] → s.holdFull line = false →
      s.noneToAsk (256 + a) line → ∃ t, exec (.geth (256 + a) line) s = .next t ∧
      Untouched s t ∧ (∃ k, t.copyAt (256 + a) line = some k ∧ k.st = .h) ∧ (t.dirEntry line).st = .dh ∧
      (t.dirEntry line).owner = BitVec.ofNat 9 (256 + a) ∧
      ∀ x ∈ s.xfers, x.core = a → lineOf x.dst = line → x.viaHome = true → s.mayHold x = true → x.done = false →
        { x with granted := true } ∈ t.xfers) ∧
    (∀ r : HomeReq, r.kind = .watch → r.agent = a → r.line = line → e.st ≠ .dh → s.locked line = false →
      (s.servable r ∨ s.coh.reqs = [] ∧ s.spilledAt a line ∧ s.changing line = false ∧ s.l2Full line = false) →
      ∃ t, exec (.watch a line) s = .next t ∧ Untouched s t ∧ (t.dirEntry line).w = true ∧ (t.dirEntry line).st = e.st ∧
      (e.crs = false → e.ptrs.length < 4 → (e.st = .do_ → e.owner.toNat ≠ a) → BitVec.ofNat 9 a ∈ (t.dirEntry line).ptrs)) ∧
    (∀ r : HomeReq, r.kind = .renew → r.agent = a → r.line = line → s.servable r → (e.st = .ds ∨ e.st = .do_) →
      ∃ t, exec (.renewal a line) s = .next t ∧ Untouched s t ∧ (t.dirEntry line).stamp = s.nextStamp e stamp ∧
      ∀ k, s.copyAt a line = some k → k.st = .s → ∃ k', t.copyAt a line = some k' ∧ k'.stamp = s.later k.stamp stamp) ∧
    (∀ k, s.copyAt a line = some k → s.pinned a line = false → s.inReadSet a line = false → s.coh.reqs = [] →
      s.asked a line = false →
      let gives (i : Instr) (kind : Req) : Prop := ∃ t, exec i s = .next t ∧ Untouched s t ∧ t.copyAt a line = none ∧
        t.coh.reqs = [⟨kind, a, line, [], [], none⟩] ∧ t.coh.dir = s.coh.dir
      (k.st = .s ∨ k.st = .e → gives (.cleanEvictionNotice a line) .evict) ∧
      (k.st = .m ∨ k.st = .o → gives (.writeback a line) .writeback)) ∧
    (∀ r : HomeReq, r.kind = .evict → r.agent = a → r.line = line → s.servable r → e.st ≠ .dh →
      ∃ t, exec (.cleanEvictionNotice a line) s = .next t ∧ Untouched s t ∧
        (e.st = .dx → e.owner.toNat = a → t.dirEntry line = { e with st := .di, owner := 0 }) ∧
        (e.st = .ds → e.crs = false → (t.dirEntry line).ptrs = e.ptrs.filter (fun p => decide (p.toNat ≠ a)) ∧
          ((t.dirEntry line).st = .di ↔ ∀ p ∈ e.ptrs, p.toNat = a))) ∧
    (∀ r : HomeReq, r.kind = .writeback → r.agent = a → r.line = line → r.cells = [] → s.servable r → e.st ≠ .dh →
      ∃ t, exec (.writeback a line) s = .next t ∧ Untouched s t ∧ t.copyAt a line = none ∧
        (e.owner.toNat = a → (e.st = .dx → t.dirEntry line = { e with st := .di, owner := 0 }) ∧
          (e.st = .do_ → t.dirEntry line = { e with st := .ds, owner := 0 }))) ∧
    (s.locked line = false → s.leaseOver e.stamp = true → e.w = false → (e.st = .ds ∨ e.st = .do_) →
      ∃ t, exec (.leaseSweep line) s = .next t ∧ Untouched s t ∧ t.dirEntry line =
        { e with st := if e.st = .ds then .di else .do_, crs := false, ptrs := [], coarse := 0 })

/-- Answers of a core (R171, R341–R345, R348): an invalidation drops the copy and sets PEND on the bindings of the line
before it is acknowledged; a forwarded read leaves a modified copy owned, a clean one shared; a recall is answered when no
transfer holds the line; the last acknowledgement completes the request. A change notice sets PEND on the spilled bindings that wait for
it; a shared copy ends with its lease, and is renewed while a bobbin or a read set needs it; an entry lost to an error is built anew with
every copy given up, hosts and peers asked for theirs, and its requests are tried again. -/
def Obligations.AgentsAnswerTheHome : Prop :=
  ∀ (s : State) (a line q : Nat), a < 192 →
    let e := s.dirEntry line
    let acked (t : State) (b : Nat) : Prop := t.coh.msgs = [⟨.ack, b, line, q, false⟩] ∧ t.mem = s.mem
    (∀ x, s.coh.txns = [x] → x.line = line →
      (s.coh.msgs = [⟨.inv, a, line, q, false⟩] → ∃ t, exec (.invalidation a line) s = .next t ∧ acked t a ∧
        t.copyAt a line = none ∧ (x.kind ≠ .drop → t.cur.v = s.cur.v) ∧
        (x.kind ≠ .drop → x.cells ≠ [] → s.cur.live = true → s.teamCore s.cur = a → ∀ b ∈ t.cur.bindings, lineOf b.2.loc = line →
          b.2.space ≠ .software → b.2.pend = true)) ∧
      (s.coh.msgs = [⟨.fwdRead, a, line, q, false⟩] →
        (∀ k, s.copyAt a line = some k → s.wayFor a line → ∃ t k', exec (.forward a line) s = .next t ∧ acked t a ∧
          t.copyAt a line = some k' ∧ (k.st = .m ∨ k.st = .o → k'.st = .o ∧ t.coh.txns = [{ x with grant := .o }]) ∧
          (k.st = .e → k'.st = .s ∧ k'.stamp = x.stamp ∧ t.coh.txns = [{ x with grant := .s }])) ∧
        (s.copyAt a line = none → ∃ t, exec (.forward a line) s = .next t ∧ acked t a ∧ t.coh.copies = s.coh.copies ∧
          t.coh.txns = [{ x with grant := .e }])) ∧
      (s.coh.msgs = [⟨.fwdWrite, a, line, q, false⟩] → ∃ t, exec (.forward a line) s = .next t ∧ acked t a ∧
        t.copyAt a line = none) ∧
      (s.coh.msgs = [⟨.recall, 256 + a, line, q, false⟩] → s.xfers = [] → ∃ t, exec (.recall (256 + a) line) s = .next t ∧
        acked t (256 + a)) ∧
      (s.coh.msgs = [⟨.ack, a, line, q, false⟩] →
        (x.got + 1 < x.need → ∃ t, exec (.acknowledgement a line) s = .next t ∧ Untouched s t ∧ t.coh.msgs = [] ∧
          t.coh.txns = [{ x with got := x.got + 1 }]) ∧
        (x.need ≤ x.got + 1 → x.kind = .getM → x.agent < 192 → x.pkt = none → e.st ≠ .dh → x.watchers = [] →
          s.coreOn x.agent = true → s.wayFor x.agent line → s.noneWaits x.agent line → plainCells x.cells →
          ∃ t, exec (.acknowledgement a line) s = .next t ∧ Owns s t x.agent line x.cells ∧ t.coh.txns = []))) ∧
    (s.coh.msgs = [⟨.change, a, line, q, false⟩] → ∃ t, exec (.changeNotice a line) s = .next t ∧ t.mem = s.mem ∧
      t.coh.msgs = [] ∧ t.cur.v = s.cur.v ∧ (s.cur.live = true → s.teamCore s.cur = a →
        ∀ (i : Nat) (b : Nat × Binding), s.cur.bindings[i]? = some b → lineOf b.2.loc = line → b.2.notice = true →
          ∃ b', t.cur.bindings[i]? = some (b.1, b') ∧ b'.pend = true ∧ b'.notice = false)) ∧
    (∀ k, s.coh.copies = [k] → k.agent = a → k.line = line → k.st = .s → k.managed = false → locKind (line * 128) ≠ 6 →
      s.fab.proxy = [] →
      (s.renews a line = false → (k.stamp - 1 - s.units).toNat ≠ 32768 → ∃ t, exec (.leaseExpiry a line) s = .next t ∧
        Untouched s t ∧ t.coh.copies = [] ∧ (t.units - (k.stamp - 1)).toNat < 32768) ∧
      (s.renews a line = true → s.findReq a line [.renew] = none → s.coh.txns = [] →
        ∃ t, exec (.renewalDue a line) s = .next t ∧ Untouched s t ∧
          t.coh.reqs = s.coh.reqs ++ [⟨.renew, a, line, [], [], none⟩])) ∧
    ((∀ u ∈ s.teams, ∀ b ∈ u.bindings, b.2.spilled = false) → s.xfers = [] → (∀ r ∈ s.coh.reqs, r.line ≠ line) →
      (∀ x ∈ s.coh.txns, x.line = line → x.agent ≠ 509 ∧ (x.kind = .getS ∨ x.kind = .getM ∨ x.kind = .upgrade ∨ x.kind = .getH)) →
      ∃ t, exec (.directoryEntryUncorrectable line) s = .next t ∧ t.mem = s.mem ∧ t.dirEntry line = DirEntry.empty ∧
        (∀ k ∈ t.coh.copies, k.managed = false → k.line ≠ line) ∧
        (∀ x ∈ t.coh.txns, x.line = line → x.kind = .drop ∧ x.cells = []) ∧
        (∀ b, (450 ≤ b ∧ b < 452 ∨ 464 ≤ b ∧ b < 480) → s.agentOn b = true → ∃ m ∈ t.coh.msgs, m.kind = .inv ∧ m.agent = b ∧
          m.line = line) ∧
        (∀ x ∈ s.coh.txns, x.line = line → ⟨x.kind, x.agent, x.line, x.cells, x.tags, x.pkt⟩ ∈ t.coh.reqs) ∧
        (∀ j k, s.coh.copies = [j, k] → j.line = line → k.line = line → j.managed = false → k.managed = false →
          j.st = .m → k.st = .m → 0x348 ∈ t.svc.events))

/-- Upkeep of the package (R331, R334, R335, R375, R402, R410): an epoch of the rebalancer lasts 65,536 cycles at least and moves at
most one bucket; a carve epoch moves a slice's boundary by one way at most, within Smin and Smax, by the counts of its sampling sets
against THRESH; a scrub counts a corrected error and poisons the granule of an uncorrectable one; the clock moves by one step between
0.8 and 3.3 GHz, down only where no context over its power has a core to slow down first. No byte of memory changes. -/
def Obligations.UpkeepChangesNoValue : Prop :=
  ∀ s : State,
    (∀ die, die < 4 → (s.ctx 0).assist.getLsbD 5 = false → ∃ t, exec (.rebalanceEpoch die) s = .next t ∧ Untouched s t ∧
      (s.die die).epoch + 65536 ≤ t.cycle ∧ (t.die die).epoch = t.cycle ∧ (t.die die).counts = [] ∧
      ∃ b, ∀ n, n ≠ b → tget 0 (t.die die).buckets n = tget 0 (s.die die).buckets n) ∧
    (∀ (sl : Nat) (n : CarveCounts), sl < 64 → s.sliceOn (sl / 16) (sl % 16) = true →
      let d := s.die (sl / 16)
      let c := d.smin + tget 0 d.bounds (sl % 16)
      let thresh := (d.carve.extractLsb' 0 16).toNat
      d.holder ≠ none → d.carve.getLsbD 16 = false → c ≤ d.smax → tget 0 d.lag (sl % 16) = 0 →
        ∃ t, exec (.carveEpoch sl n) s = .next t ∧ Untouched s t ∧ t.poison = s.poison ∧
        tget 0 d.carved (sl % 16) + 65536 ≤ t.cycle ∧
        (∀ j, j ≠ sl % 16 → tget 0 (t.die (sl / 16)).bounds j = tget 0 d.bounds j) ∧
        d.smin + tget 0 (t.die (sl / 16)).bounds (sl % 16) =
          min d.smax (max d.smin (if n.cacheLoss + thresh < n.scratchGain then c + 1
            else if n.scratchLoss + thresh < n.cacheGain then c - 1 else c))) ∧
    (∀ pa, pa < 0xC000000000 → s.backed (pa / 8 * 8) 8 = true →
      exec (.patrolScrub pa .clean) s = .next s ∧
      (∃ t, exec (.patrolScrub pa .correctable) s = .next t ∧ Untouched s t ∧ t.svc.corrected = s.svc.corrected + 1 ∧
        t.poison = s.poison) ∧
      (∃ t, exec (.patrolScrub pa .uncorrectable) s = .next t ∧ Untouched s t ∧ pa / 8 ∈ t.poison ∧
        ∀ g, g ≠ pa / 8 → (g ∈ t.poison ↔ g ∈ s.poison))) ∧
    (∀ (core : Nat) (up : Bool), s.coreOn core = true → (up = false → s.spared core = false) →
      ∃ t, exec (.clockThrottle core up) s = .next t ∧ Untouched s t ∧
        (t.core core).clock = (if up then min 33 ((s.core core).clock + 1) else max 8 ((s.core core).clock - 1)) ∧
        ∀ c, c ≠ core → t.core c = s.core c)

/-! ## Regions -/

/-- Region modes and handover (R346, R347, R350, R351, R381–R385). CRSW queues a switch under the context's next ticket, or
reports 16 that are open; CRWAIT gives a completed one's conflicts, or the code of a refused, forgotten or unknown ticket, and
waits for one that is not complete. A switch merges the software-managed copies in agent order, counts the bytes that two of
them wrote, and rewrites the leaf. HANDOFF gives a region to the host once it has been flushed; TAKE takes a released one back, and waits
for the host otherwise; what is under way goes on region by region; the host's kicks release and acquire regions one by one. -/
def Obligations.RegionsSwitchAndPass : Prop :=
  ∀ s : State,
    (∀ (d a : Code) (l : Nat), s.plain = true → s.cur.leader = some l → szOk false d = true → skOk s.cur false a = true →
      let c := s.curCtxNum
      let gives (i : Instr) (v : Word) : Prop := ∃ t, exec i s = .next t ∧ t.mem = s.mem ∧
        t.cur = (if isS d then s.cur.sset (sNum d) v else s.cur).advance
      (∀ x, s.switches.find? (fun x => x.ctx == c && x.ticket == s.cur.opnd32 l a) = some x →
        (x.result = 1 → gives (.crwait d a) (BitVec.ofNat 32 x.conflicts)) ∧
        (x.result = 2 → gives (.crwait d a) 0x03000000) ∧
        (x.result = 0 → exec (.crwait d a) s = .next (s.setCur { s.cur with park := .crwait }))) ∧
      (s.switches.find? (fun x => x.ctx == c && x.ticket == s.cur.opnd32 l a) = none →
        gives (.crwait d a) (if s.cur.opnd32 l a ≠ 0 ∧ (s.cur.opnd32 l a).toNat ≤ (s.ctx c).ticket.toNat then 0x02000000
          else 0x01000000))) ∧
    (∀ (d a b : Code) (l : Nat), s.plain = true → s.cur.leader = some l → szOk false d = true →
      sbaseOk s.cur false a = true → skOk s.cur false b = true → (s.cur.opnd32 l b).toNat ≤ 2 →
      (s.cur.opnd64 l a).toNat % 0x200000 = 0 → s.crswAccess s.curCtxNum (s.cur.opnd64 l a) = [] →
      let c := s.curCtxNum
      let n := if (s.ctx c).ticket.toNat < 0xFFFFFFFE then (s.ctx c).ticket + 1 else 1
      let told (v : Word) : Team := (if isS d then s.cur.sset (sNum d) v else s.cur).advance
      (16 ≤ s.switchesOpen c → exec (.crsw d a b) s = .next (s.setCur (told 0xFFFFFFFF))) ∧
      (s.switchesOpen c < 16 → s.accessesDone s.cur.uid s.nextSeq s.cur.scope = true →
        ∃ t, exec (.crsw d a b) s = .next t ∧ t.cur = told n ∧ t.mem = s.mem ∧ (t.ctx c).ticket = n ∧
          (∃ x ∈ t.switches, x.ctx = c ∧ x.ticket = n ∧ x.base = s.cur.opnd64 l a ∧ x.mode = (s.cur.opnd32 l b).toNat ∧
            x.result = 0) ∧
          ∀ x ∈ s.switches, x.result = 0 → x ∈ t.switches)) ∧
    (∀ x w, s.switches = [x] → s.sel = 0 → x.result = 0 → x.mode < 4 →
      let ws := s.regionWalks x.ctx x.base
      let ps := pagesOf ws
      let old := (w.leaf.extractLsb' 9 2).toNat
      ws ≠ [] → (∀ e ∈ ws, e.2 = w) → s.regionQuiet ps = true →
      (old = x.mode → exec .regionSwitch s = .next { s with switches := [{ x with result := 1, conflicts := 0, draining := [] }] }) ∧
      (old ≠ x.mode → x.mode = 2 → s.switchRefused ps = true →
        exec .regionSwitch s = .next { s with switches := [{ x with result := 2, conflicts := 0, draining := [] }] }) ∧
      (∀ j k, old = 1 → x.mode = 0 → s.coh.copies = [j, k] → j.managed = true → k.managed = true → j.agent < k.agent →
        k.agent < 512 → j.line / 32 ∈ ps → k.line / 32 ∈ ps → (j.dirty.map (fun c => c.1)).Nodup →
        (k.dirty.map (fun c => c.1)).Nodup → plainCells (j.dirty ++ k.dirty) → (∀ i, i < 8 → locKind (w.entry + i) ≠ 2) →
        s.xfers = [] → (∃ v ∈ (s.mergeCopies [j, k]).tableLeaves, mapsPage v.leaf v.level ps = true) →
        (∀ v ∈ (s.mergeCopies [j, k]).tableLeaves, mapsPage v.leaf v.level ps = true → v.entry = w.entry ∧ v.leaf = w.leaf) →
        ∃ t n, exec .regionSwitch s = .next t ∧
          t.switches = [{ x with result := 1, conflicts := n, draining := [] }] ∧
          n = ((j.dirty.map (fun c => c.1)).filter (fun q => decide (q ∈ k.dirty.map (fun c => c.1)))).length ∧
          t.coh.copies = [] ∧
          cellNat t.mem w.entry 8 / 2 ^ 9 % 4 = 0 ∧
          ∀ q, (q < w.entry ∨ w.entry + 8 ≤ q) →
            t.byte q = ((coverByte k.dirty q).orElse (fun _ => coverByte j.dirty q)).getD (s.byte q))) ∧
    (∀ (a b : Code) (l r : Nat), s.plain = true → s.hasSetb = true → s.cur.leader = some l → s.passesOne a b l r →
      s.quiet → s.accessesDone s.cur.uid s.nextSeq 5 = true →
      (∃ t, exec (.handoff a b) s = .next t ∧ TeamKept s t ∧ t.mem = s.mem ∧ t.handover = s.handover ∧
        t.passes = s.passes ++ [⟨false, [r], ⟨s.cur.uid, s.nextSeq, s.cur.setb, 5, none⟩⟩]) ∧
      ((∀ p ∈ s.passes, p.tag.team ≠ s.cur.uid) → ∃ t, exec (.take a b) s = .next t ∧ TeamKept s t ∧ t.mem = s.mem ∧
        (∀ k, k ≠ r → t.handoverOf k = s.handoverOf k) ∧
        (s.handoverOf r ≠ .host → t.handoverOf r = .device ∧ t.passes = s.passes) ∧
        (s.handoverOf r = .host → t.handoverOf r = .host ∧
          t.passes = s.passes ++ [⟨true, [r], ⟨s.cur.uid, s.nextSeq, s.cur.setb, 5, none⟩⟩]))) ∧
    (∀ p r, s.passes = [p] → p.regions = [r] → s.quiet →
      let others (t : State) : Prop := t.passes = [] ∧ t.mem = s.mem ∧ ∀ k, k ≠ r → t.handoverOf k = s.handoverOf k
      (p.take = true → (∀ w ∈ s.wgs, w.phase ≠ .saved) →
        (s.handoverOf r ≠ .host → ∃ t, exec (.takeResume p.tag.team) s = .next t ∧ others t ∧ t.handoverOf r = .device) ∧
        (s.handoverOf r = .host → exec (.takeResume p.tag.team) s = .next s)) ∧
      (p.take = false → ∃ t, exec (.takeResume p.tag.team) s = .next t ∧ others t ∧ t.handoverOf r = .host ∧
        (s.handoverOf r = .device → ∀ k ∈ t.coh.copies, k.line / 16384 ≠ r))) ∧
    (∀ port, port < 2 → s.svc.presence.hport.getLsbD port = true → (s.hostPort port).busy = true →
      let p := s.hostPort port
      let r := p.kbase + p.doneCount
      let stepped (t : State) : Prop := (t.hostPort port).doneCount = p.doneCount + 1 ∧
        ((t.hostPort port).busy = true ↔ p.doneCount + 1 < p.ksize) ∧ (∀ k, k ≠ r → t.handoverOf k = s.handoverOf k) ∧
        t.mem = s.mem
      (p.cmd = 1 → ∃ t, exec (.kickRelease port) s = .next t ∧ stepped t ∧
        t.handoverOf r = (if s.handoverOf r = .host then .released else s.handoverOf r)) ∧
      (p.cmd = 2 → s.quiet → s.passes = [] → ∃ t, exec (.kickAcquire port) s = .next t ∧ stepped t ∧ t.handoverOf r = .host))

/-! ## Hosts and service -/

/-- The host through its bridge (R387–R389). A read of a half that the bridge has not asks the home, of one that it has is
answered from its copy; ownership needs an upgrade unless the bridge owns the line; in another region mode the data are poisoned
and counted; a write-back of an owned half is performed; a clean half is dropped; the last answer to a snoop lets the bridge
answer the directory. A snoop that is not answered, like a link that is lost, takes the port down. Outside the windows an access
is performed at the home, and leaves no copy. -/
def Obligations.HostUsesItsWindows : Prop :=
  ∀ (s : State) (port line half : Nat), port < 2 →
    let pa := line * 128 + 64 * half
    let p := s.hostPort port
    let seen := cellBytes s.mem pa 64
    let asks (t : State) (k : Req) : Prop := t.coh.reqs = s.coh.reqs ++ [⟨k, 450 + port, line, [], [], none⟩] ∧ t.mem = s.mem
    let served (t : State) (b : BridgeLine) (x : HalfState) : Prop := t.mem = s.mem ∧ t.coh = s.coh ∧
      (t.hostPort port).answers = p.answers ++ [(pa, seen)] ∧ ∃ b', t.bridgeLine port line = some b' ∧ b'.b = b.b ∧
        b'.half half = x ∧ b'.half (1 - half) = b.half (1 - half)
    (s.windowLine port line half →
      (s.modeOfPa (line * 128) ≠ 0 → ∀ i ∈ [Instr.hostReadShared port line half, .hostReadOwnership port line half],
        ∃ t, exec i s = .next t ∧ t.mem = s.mem ∧ (t.hostPort port).dropped = p.dropped + 1 ∧
          (t.hostPort port).answers = p.answers ++ [(pa, [])]) ∧
      (s.modeOfPa (line * 128) = 0 → s.bridgeLine port line = none → p.lines.length < 262144 →
        (∃ t, exec (.hostReadShared port line half) s = .next t ∧ asks t .getS ∧
          ∃ b, t.bridgeLine port line = some b ∧ b.b = .i ∧ b.wantHalf = some (half, false)) ∧
        (∃ t, exec (.hostReadOwnership port line half) s = .next t ∧ asks t .getM)) ∧
      (∀ b, s.modeOfPa (line * 128) = 0 → s.bridgeLine port line = some b → b.rests → b.half half ≠ .a →
        (b.b ≠ .i → ∃ t, exec (.hostReadShared port line half) s = .next t ∧ served t b .s) ∧
        (b.b = .x → ∃ t, exec (.hostReadOwnership port line half) s = .next t ∧ served t b .a) ∧
        (b.b = .s ∨ b.b = .o → ∃ t, exec (.hostReadOwnership port line half) s = .next t ∧ asks t .upgrade))) ∧
    (∀ b, s.bridgeLine port line = some b → half < 2 → s.hostUp port = true →
      (∀ (data : List Byte) (keep : Bool), b.b = .x → b.half half = .a → data.length = 64 → locKind pa ≠ 2 →
        ∃ t b', exec (.hostWriteback port line half data keep) s = .next t ∧ cellBytes t.mem pa 64 = data ∧
          (∀ q, (q < pa ∨ pa + 64 ≤ q) → t.byte q = s.byte q) ∧ t.bridgeLine port line = some b' ∧ b'.b = .x ∧
          b'.dirty = true ∧ b'.half half = (if keep then .s else .i) ∧ b'.half (1 - half) = b.half (1 - half)) ∧
      (b.half half = .s → ∃ t b', exec (.hostDropClean port line half) s = .next t ∧ t.mem = s.mem ∧ t.coh = s.coh ∧
        t.bridgeLine port line = some b' ∧ b'.b = b.b ∧ b'.half half = .i ∧ b'.half (1 - half) = b.half (1 - half))) ∧
    (∀ b m (data : List Byte), s.bridgeLine port line = some b → half = 0 → b.snoop0 = true → b.h0 = .a → data.length = 64 →
      locKind pa ≠ 2 →
      (b.snoop1 = true → ∃ t b', exec (.backInvalidateSnoopAnswer port line half (some data)) s = .next t ∧
        cellBytes t.mem pa 64 = data ∧ t.bridgeLine port line = some b' ∧ b'.snoop0 = false ∧ b'.snoop1 = true) ∧
      (b.snoop1 = false → b.asked = true → b.toShared = false → s.bridgeMsg port line = some m →
        ∃ t, exec (.backInvalidateSnoopAnswer port line half (some data)) s = .next t ∧ cellBytes t.mem pa 64 = data ∧
          t.bridgeLine port line = none ∧ t.copyAt (450 + port) line = none ∧
          ⟨.ack, 450 + port, line, m.requester, false⟩ ∈ t.coh.msgs) ∧
      (b.snoop1 = false → b.asked = true → b.toShared = true → s.bridgeMsg port line = some m →
        ∃ t b' k, exec (.backInvalidateSnoopAnswer port line half (some data)) s = .next t ∧ cellBytes t.mem pa 64 = data ∧
          t.bridgeLine port line = some b' ∧ b'.b = .o ∧ b'.h0 = .s ∧ t.copyAt (450 + port) line = some k ∧ k.st = .o ∧
          ⟨.ack, 450 + port, line, m.requester, false⟩ ∈ t.coh.msgs)) ∧
    ((s.hostPort port).up = true → s.svc.presence.hport.getLsbD port = true → (∀ b ∈ p.lines, b.snoop0 = false ∧ b.snoop1 = false) →
      ∃ t, exec (.hostPortLinkLoss port) s = .next t ∧ (t.hostPort port).up = false ∧ t.mem = s.mem ∧ 0x389 ∈ t.svc.events ∧
        ∀ b ∈ (t.hostPort port).lines, b.h0 = .i ∧ b.h1 = .i) ∧
    (s.svc.presence.hport.getLsbD port = false → exec (.hostPortLinkLoss port) s = .next s) ∧
    ((s.hostPort port).up = true → (∃ b ∈ p.lines, b.snoop0 = true ∨ b.snoop1 = true) →
      ∃ t, exec (.snoopTimeout port) s = .next t ∧ (t.hostPort port).up = false ∧ t.mem = s.mem ∧ 0x389 ∈ t.svc.events) ∧
    (∀ n, s.hostUp port = true → 0 < n → n ≤ 128 → s.backed pa n = true → p.inWindow pa = false → s.modeOfPa pa ≠ 3 →
      s.handoverOf (pa / 0x200000) = .device → s.coh.txns = [] → s.xfers = [] →
      (∀ q ∈ s.ports, ∀ b ∈ q.2.lines, b.h0 = .i ∧ b.h1 = .i) →
      (∃ t, exec (.hostUncachedAccess port pa n none) s = .next t ∧ t.mem = s.mem ∧ t.coh = s.coh ∧
        (t.hostPort port).answers = p.answers ++ [(pa, cellBytes s.mem pa n)]) ∧
      (∀ data : List Byte, data.length = n → ∃ t, exec (.hostUncachedAccess port pa n (some data)) s = .next t ∧
        cellBytes t.mem pa n = data ∧ (∀ q, (q < pa ∨ pa + n ≤ q) → t.byte q = s.byte q) ∧
        ((s.dirEntry (pa / 128)).w = false → (t.dirEntry (pa / 128)).st = .di) ∧
        ∀ k ∈ t.coh.copies, k.line = pa / 128 → k.managed = true ∨ k.agent = 65535))

/-- The service controller (R330, R337, R384, R387, R391, R392, R404, R405, R407, R409, R410, R412): descriptors are written
field by field, only budgets while a launch is held or the context is locked; VALID starts a context with TRAPBASE 0; windows,
kick registers, bucket tables, heater codes and STEPCTL are written under their checks, nothing of a host port that is not present; the diagnostic port reads an entry; a ring
out of lock ends its wavelength; each request of the security responder is answered; a shutdown completes every launch with status
3; a device reset brings the device up from a bank that verifies. -/
def Obligations.ServiceConfigures : Prop :=
  ∀ s : State, s.svc.ready = true →
    (∀ (c off : Nat) (v : DWord) (port : Bool), c < 16 →
      let x := s.ctx c
      let w : Instr := .contextDescriptorWrite c off v port
      (x.locked = false → (s.holdsLaunch c = false ∨ off ∈ [0x40, 0x44, 0x48, 0x4C]) →
        (off ≠ 0 → ∃ t, exec w s = .next t ∧ Untouched s t ∧ FieldWritten x (t.ctx c) off v ∧ ∀ k, k ≠ c → t.ctx k = s.ctx k) ∧
        (off = 0 → (v.extractLsb' 8 8 &&& ~~~ Config.assistAllowed) = 0 → ∃ t, exec w s = .next t ∧ Untouched s t ∧
          (t.ctx c).valid = v.getLsbD 0 ∧ (t.ctx c).priv = v.getLsbD 1 ∧ (t.ctx c).assist = v.extractLsb' 8 8 ∧
          (t.ctx c).ptroot = x.ptroot ∧ (t.ctx c).lq = x.lq ∧
          (v.getLsbD 0 = true → x.valid = false → (t.ctx c).trapBase = 0 ∧ (t.ctx c).started = false ∧
            ∀ core, tget 0 (t.core core).mmapCount c = 0))) ∧
      (s.holdsLaunch c = true → off ∉ [0x40, 0x44, 0x48, 0x4C] →
        exec w s = .next (s.setCtx c { x with ignored := x.ignored + 1 })) ∧
      (x.locked = true → s.holdsLaunch c = false → off ∉ [0x40, 0x44, 0x48, 0x4C] → exec w s = .next s) ∧
      (x.locked = true → port = false → off ∈ [0x40, 0x44, 0x48, 0x4C] → ∃ t, exec w s = .next t ∧ Untouched s t ∧
        FieldWritten x (t.ctx c) off v ∧ ∀ k, k ≠ c → t.ctx k = s.ctx k)) ∧
    (∀ c, c < 16 →
      (∃ t, exec (.lockInterface c) s = .next t ∧ Untouched s t ∧ t.ctx c = { s.ctx c with locked := true } ∧
        alook t.svc.measured c = some (s.ctx c).words) ∧
      ((s.ctx c).locked = true → (s.ctx c).valid = false → ∃ t, exec (.run c) s = .next t ∧ Untouched s t ∧
        (t.ctx c).valid = true ∧ (t.ctx c).locked = true ∧ (t.ctx c).trapBase = 0)) ∧
    (∀ (die b : Nat) (v : Byte), die < 4 → b < 4096 → (s.ctx 0).assist.getLsbD 5 = true →
      s.sliceOn die (v.extractLsb' 0 4).toNat = true → ∃ t, exec (.bucketTableWrite die b v) s = .next t ∧ Untouched s t ∧
        t.bucketSlice die b = (v.extractLsb' 0 4).toNat ∧ ∀ k, k ≠ b → t.bucketSlice die k = s.bucketSlice die k) ∧
    (∀ (port n : Nat) (v : DWord), port < 2 → s.svc.presence.hport.getLsbD port = true → n < 64 →
      let w := tget Window.reset (s.hostPort port).windows n
      let base := (v.extractLsb' 21 27).toNat
      let meets := ∃ e ∈ (s.hostPort port).windows, e.1 ≠ n ∧ e.2.enabled = true ∧ e.2.base < base + w.count ∧
        base < e.2.base + e.2.count
      let leaves (off : Nat) (x : Window) : Prop := ∃ t, exec (.coherentWindowWrite port n off v) s = .next t ∧ Untouched s t ∧
        tget Window.reset (t.hostPort port).windows n = x ∧
        ∀ k, k ≠ n → tget Window.reset (t.hostPort port).windows k = tget Window.reset (s.hostPort port).windows k
      (v.getLsbD 0 = false ∨ ¬ meets → leaves 0 { w with base := base, enabled := v.getLsbD 0 }) ∧
      (v.getLsbD 0 = true → meets → leaves 0 { w with enabled := false }) ∧ leaves 8 { w with count := v.toNat % 2 ^ 16 }) ∧
    (∀ (port : Nat) (v : DWord) (service : Bool), port < 2 → s.svc.presence.hport.getLsbD port = true →
      let p := s.hostPort port
      let leaves (off : Nat) (x : HostPort) : Prop := ∃ t, exec (.configWrite (port * 0x10000 + off) v service) s = .next t ∧
        Untouched s t ∧ t.hostPort port = x
      (p.busy = false → leaves 0 { p with kbase := (v.extractLsb' 21 27).toNat } ∧ leaves 8 { p with ksize := v.toNat % 2 ^ 13 } ∧
        (v.toNat % 16 = 1 ∨ v.toNat % 16 = 2 → 0 < p.ksize → p.ksize ≤ 4096 →
          (∀ i, i < p.ksize → s.kickable port (p.kbase + i) = true) →
          leaves 0xC { p with cmd := v.toNat % 16, busy := true, doneCount := 0 }) ∧
        (v.toNat % 16 = 1 ∨ v.toNat % 16 = 2 → 0 < p.ksize → p.ksize ≤ 4096 →
          (∃ i, i < p.ksize ∧ s.kickable port (p.kbase + i) = false) → leaves 0xC { p with err := 2, doneCount := 0 }) ∧
        (v.toNat % 16 ≠ 1 → v.toNat % 16 ≠ 2 → leaves 0xC { p with err := 1 })) ∧
      (p.busy = true → leaves 0 { p with drop := true } ∧ leaves 8 { p with drop := true } ∧ leaves 0xC { p with drop := true })) ∧
    (∀ (v : DWord), s.cur.live = true → v.toNat % 1024 < s.cur.size → ∃ t, exec (.configWrite (0x1000000 + s.cur.uid) v true) s =
      .next t ∧ t.mem = s.mem ∧ t.cur = { s.cur with stepctl := v.setWidth 32 &&& 0xC00003FF }) ∧
    (∀ (port off : Nat) (v : DWord) (service : Bool), port < 2 → s.svc.presence.hport.getLsbD port = false → off < 0x10000 →
      (∀ n, exec (.coherentWindowWrite port n off v) s = .next s) ∧
      exec (.configWrite (port * 0x10000 + off) v service) s = .next s) ∧
    (∀ pa, s.locked (pa / 128) = false →
      let e := s.dirEntry (pa / 128)
      ∃ t x, exec (.directoryDiagnosticRead pa) s = .next t ∧ Untouched s t ∧ t.coh = s.coh ∧ t.svc.lastEntry = some x ∧
        (e = DirEntry.empty → x = 0) ∧ (e ≠ DirEntry.empty → x.extractLsb' 3 16 = e.stamp ∧ x.extractLsb' 55 9 = e.owner ∧
          x.getLsbD 67 = e.w ∧ x.getLsbD 68 = e.crs ∧ (x.extractLsb' 69 3).toNat = e.st.num)) ∧
    (∀ (r : Nat) (v : BitVec 12),
      ((s.ctx 0).assist.getLsbD 6 = true → ∃ t, exec (.heaterCodeWrite r v) s = .next t ∧ Untouched s t ∧
        tget 0 t.svc.heater r = v ∧ ∀ k, k ≠ r → tget 0 t.svc.heater k = tget 0 s.svc.heater k) ∧
      ((s.ctx 0).assist.getLsbD 6 = false → ∃ t, exec (.heaterStep r) s = .next t ∧ Untouched s t ∧
        (tget 0 t.svc.heater r).toNat ≤ (tget 0 s.svc.heater r).toNat + 1 ∧
        (tget 0 s.svc.heater r).toNat ≤ (tget 0 t.svc.heater r).toNat + 1 ∧
        ∀ k, k ≠ r → tget 0 t.svc.heater k = tget 0 s.svc.heater k)) ∧
    (∀ ch wl, ch < 136 → wl < 32 → s.channelOn ch = true →
      let w := s.wave ch &&& ~~~ ((1 : Word) <<< wl)
      (w ≠ 0 ∨ s.wave ch = 0 ∨ 64 ≤ ch ∨ s.wave (ch ^^^ 1) ≠ 0 → ∃ t, exec (.ringOutOfLock ch wl) s = .next t ∧ Untouched s t ∧
        t.wave ch = w ∧ (∀ k, k ≠ ch → t.wave k = s.wave k) ∧ (w = 0 → s.wave ch ≠ 0 → 0x409 ∈ t.svc.events)) ∧
      (w = 0 → s.wave ch ≠ 0 → ch < 64 → s.wave (ch ^^^ 1) = 0 → ∃ t, exec (.ringOutOfLock ch wl) s = .next t ∧
        t.svc.ready = false ∧ ∀ x ∈ t.teams, x.live = false)) ∧
    (s.hostUp s.sel = true → ∀ (k : Nat) (i : Instr), [Instr.getVersion, .getCapabilities, .negotiateAlgorithms, .getDigests,
      .getCertificate, .challenge, .getMeasurements, .keyExchange, .finish][k]? = some i → ∃ t a, exec i s = .next t ∧
        Untouched s t ∧ t.svc.spdm = s.svc.spdm ++ [a] ∧ a.port = s.sel ∧ a.request = k ∧
        (k = 6 → a.body = Config.measurementAnswer s.svc.measured)) ∧
    (∀ die l loc, die < 4 → s.launches = [l] → l.origin = none → s.still → s.loads = [] → s.coh.copies = [] →
      (s.ctx l.ctx).writes = [] → (s.translate l.ctx l.completion Need.store).2 = .at_ .hardware loc → loc + 8 ≤ 2 ^ 60 →
      ∃ t, exec (.thermalShutdown die) s = .next t ∧ t.svc.ready = false ∧ t.launches = [] ∧ t.wgs = [] ∧
        (∀ x ∈ t.teams, x.live = false) ∧ cellNat t.mem loc 8 = 2 ^ 63 + 3) ∧
    (let v := { s with svc := { s.svc with ready := false, stuckInReset := false } }
     (s.svc.bankOk s.svc.bank = true → ∃ t, exec .deviceReset v = .next t ∧ Untouched s t ∧ t.svc.ready = true ∧
        t.svc.bank = s.svc.bank ∧ t.svc.presence = s.svc.fused ∧ t.ticks = 0 ∧ (∀ c, t.ctx c = Context.reset) ∧ (∀ r, t.handoverOf r = .device) ∧
        ∀ d n, tget 0 (t.die d).buckets n = 0) ∧
     (s.svc.bankOk s.svc.bank = false → s.svc.bankOk (1 - s.svc.bank) = true → ∃ t, exec .deviceReset v = .next t ∧
        t.svc.ready = true ∧ t.svc.bank = 1 - s.svc.bank ∧ t.svc.firmwareFailed = true) ∧
     (s.svc.bankOk s.svc.bank = false → s.svc.bankOk (1 - s.svc.bank) = false → ∃ t, exec .deviceReset v = .next t ∧
        t.svc.ready = false ∧ t.svc.stuckInReset = true))

/-! ## Fabric -/

/-- Flits (R416–R418, R422, R423, R428, R430). A flit of the expected sequence number and a good CRC is taken: data flits
deliver their packets in order, idle flits only acknowledge, resync flits restate the counts, a retry request counts one retry;
any other flit is discarded and counted. A packet whose header fails a check is dropped and counted. A fence holds a port until
every port of its group has one; a lost link leaves its group, and its packets go out on the others; a port comes up in the group
of the device that its far end is; a relayed packet leaves on its final hop; an invalidation not answered goes out again. -/
def Obligations.FlitsCarryPackets : Prop :=
  ∀ (s : State) (n : Nat) (f : Flit),
    let p := s.port n
    (p.up = true → f.crcOk = true → f.seq = p.rxSeq → p.tx = [] →
      (f.type = 0 → p.fenced = false → p.held = [] → (∀ k ∈ f.packets, s.packetOk k = true ∧ k.dst = s.fab.dev) →
        ∃ t, exec (.flitData n f) s = .next t ∧ HeaderTaken p (t.port n) f ∧ (t.port n).rxSeq = (p.rxSeq + 1) % 4096 ∧
          t.fab.rx = s.fab.rx ++ f.packets ∧ t.fab.headerErrors = s.fab.headerErrors ∧ t.mem = s.mem ∧
          (p.returned.length = 3 → (∀ c, p.returned.getD c 0 < 4096) → ∀ c, c < 3 → (t.port n).returned.getD c 0 =
            (p.returned.getD c 0 + (f.packets.filter (fun k => decide (k.cls = c))).length) % 4096)) ∧
      (∀ k, f.type = 0 → p.fenced = false → p.held = [] → f.packets = [k] → s.packetOk k = false →
        ∃ t, exec (.flitData n f) s = .next t ∧ t.fab.rx = s.fab.rx ∧ t.fab.headerErrors = s.fab.headerErrors + 1) ∧
      (f.type = 1 → ∃ t, exec (.flitIdle n f) s = .next t ∧ HeaderTaken p (t.port n) f ∧ (t.port n).rxSeq = p.rxSeq ∧
        (t.port n).ret = f.rets ∧ t.fab.rx = s.fab.rx ∧ t.mem = s.mem) ∧
      (∀ a b c e, f.type = 2 → f.restate = [a, b, c, e] →
        (∃ t, exec (.flitResync n f) s = .next t ∧ (t.port n).ret = [a, b, c] ∧ (t.port n).rxSeq = (p.rxSeq + 1) % 4096 ∧
          t.fab.rx = s.fab.rx ∧ t.mem = s.mem) ∧
        (∀ d, p.fenced = false → p.held = [] → n ∈ s.group d → p.peer = some d →
          ((∃ m ∈ s.group d, m ≠ n ∧ (s.port m).fenced = false) → ∃ t, exec (.groupFence n f) s = .next t ∧
            (t.port n).fenced = true ∧ (t.port n).rxSeq = (p.rxSeq + 1) % 4096 ∧ t.fab.rx = s.fab.rx) ∧
          ((∀ m ∈ s.group d, m ≠ n → (s.port m).fenced = true ∧ (s.port m).held = []) → ∃ t,
            exec (.groupFence n f) s = .next t ∧ (∀ m ∈ s.group d, (t.port m).fenced = false) ∧ t.fab.rx = s.fab.rx))) ∧
      (f.type = 3 → p.retries < 15 → ∃ t, exec (.flitRetryRequest n f) s = .next t ∧ HeaderTaken p (t.port n) f ∧
        1 ≤ (t.port n).retries ∧ (t.port n).retries ≤ p.retries + 1 ∧ (t.port n).rxSeq = p.rxSeq ∧ t.mem = s.mem)) ∧
    (∀ ty i, (i, ty) ∈ [(Instr.flitData n f, 0), (.flitIdle n f, 1), (.flitResync n f, 2), (.flitRetryRequest n f, 3)] →
      p.up = true → p.retries < 15 → (f.crcOk = false ∨ f.type ≠ ty ∨ f.seq ≠ p.rxSeq) →
      exec i s = .next (s.setPort n { p with retries := p.retries + 1 })) ∧
    (∀ d m, p.up = true → p.peer = some d → n ∈ s.group d → m ∈ s.group d → m ≠ n → ∃ t, exec (.linkDown n) s = .next t ∧
      (t.port n).up = false ∧ n ∉ t.group d ∧ m ∈ t.group d ∧ t.mem = s.mem ∧
      ∀ u ∈ p.unacked, ∀ k ∈ u.2, k.src = s.fab.dev → k.dst = d →
        t.sentTo d (fun a => a.op = k.op ∧ a.tag = k.tag ∧ a.pa = k.pa ∧ a.payload = k.payload)) ∧
    (n < 36 → s.svc.presence.fport.getLsbD n = true → p.up = false → ∃ t, exec (.portUp n) s = .next t ∧ t.mem = s.mem ∧
      (t.port n).up = true ∧ (s.farEnd n ≠ s.fab.dev → (t.port n).inGroup = true ∧ (t.port n).peer = some (s.farEnd n))) ∧
    (∀ r, s.fab.relay[s.sel]? = some r → (∀ q ∈ s.fab.relay.take s.sel, q.2.cls ≠ r.2.cls ∨ q.2.dst ≠ r.2.dst) →
      s.group r.2.dst ≠ [] → (s.port r.1).held = [] → ∃ t, exec .detourRelay s = .next t ∧ t.mem = s.mem ∧
        t.fab.relay = s.fab.relay.eraseIdx s.sel ∧ t.sentTo r.2.dst (fun a => a = r.2)) ∧
    (∀ m, s.coh.msgs[s.sel]? = some m → m.sent = true → 464 ≤ m.agent → m.agent < 480 → s.group (m.agent - 464) ≠ [] →
      ∃ t, exec .invalidationResend s = .next t ∧ m ∈ t.coh.msgs ∧ t.mem = s.mem ∧ t.sentTo (m.agent - 464) (fun a =>
        a.cls = 2 ∧ a.pa = m.line * 128 % 2 ^ 48 ∧ (m.kind = .inv → a.op = 0x20) ∧
        (m.kind = .fwdRead ∨ m.kind = .fwdWrite → a.op = 0x21) ∧ (m.kind = .recall → a.op = 0x22)))

/-- Packets (R420, R421, R424–R427, R430). At the home, coherent requests, renewals, notices and write-backs join the queue of
their line for the peer, and act on the directory in their turn; writes in memory-side memory, uncached reads, atomics and reductions
are performed and answered, with a mark for the strong accesses that meet another size. At the device that asked, an answer ends its request: a line comes to the proxy, a load gets
its value, an error or no answer in time gives the lane a trap. At the proxy, an invalidation, a forwarded write or a recall
drops the line and sets PEND on its bindings before it is answered, a forwarded read leaves it shared. -/
def Obligations.PacketsDoTheirWork : Prop :=
  ∀ (s : State) (k : Packet),
    let line := k.pa / 128
    let agent := 464 + k.src
    let e := s.dirEntry line
    let stamp : BitVec 16 := BitVec.ofNat 16 ((s.ticks.toNat + 2 ^ s.coh.leasePeer) / 64)
    let performs (i : Instr) (q : State → Prop) : Prop := ∃ t, exec i s = .next t ∧ Taken s t ∧ q t
    (s.homed k = true →
      (∀ op i r, (op, i, r) ∈ [(0x00, Instr.pktReadShared, Req.getS), (0x01, .pktReadExclusive, .getM),
        (0x02, .pktUpgrade, .upgrade)] → s.receives k op → performs i (fun t => t.mem = s.mem ∧
          t.coh.reqs = s.coh.reqs ++ [⟨r, agent, line, [], [], some k⟩])) ∧
      (s.receives k 0x04 → k.payload.length = 144 →
        (s.modeOfPa k.pa < 2 → performs .pktWrite (fun t => t.mem = s.mem ∧ ∃ cs, t.coh.reqs = s.coh.reqs ++
          [⟨.getM, agent, line, cs, [], some k⟩] ∧ ∀ j, coverByte cs (line * 128 + j) =
            if j < 128 ∧ (leNat (k.payload.take 16)).testBit j = true then some (k.payload.getD (16 + j) 0) else none)) ∧
        (s.modeOfPa k.pa = 2 → performs .pktWrite (fun t =>
          t.answers k 0x13 (State.noteFar (strongOf k.misc (line * 128)) s).2 [] ∧
          (∀ j, j < 128 → t.byte (line * 128 + j) = if (leNat (k.payload.take 16)).testBit j then k.payload.getD (16 + j) 0
            else s.byte (line * 128 + j)) ∧ ∀ q, (q < line * 128 ∨ line * 128 + 128 ≤ q) → t.byte q = s.byte q))) ∧
      (s.locked line = false → s.xfers = [] → s.hostHeld line = false → s.poison = [] → (s.modeOfPa k.pa = 3 → s.deviceHolds k.pa = true) →
        (s.receives k 0x03 → performs .pktUncachedRead (fun t => t.mem = s.mem ∧
          t.answers k 0x10
          (65536 * (State.noteFar (strongOf (k.misc / 256) (line * 128)) s).2) (cellBytes s.mem k.pa (min 128 (k.misc % 256))))) ∧
        (let ty := k.misc / 16 % 16
         let n := if 2 ≤ ty then 8 else 4
         let old := cellNat s.mem k.pa n
         let rest (t : State) : Prop := (∀ q, (q < k.pa ∨ k.pa + n ≤ q) → t.byte q = s.byte q) ∧
           ∀ m op, (m, op) ∈ [(0, AtOp.add), (1, .and), (2, .or), (3, .xor), (4, .min), (5, .max), (6, .xch), (7, .cas)] →
             k.misc % 8 = m → cellNat t.mem k.pa n =
               rmwValue op ty old (leNat (k.payload.take n)) (leNat ((k.payload.drop n).take n))
         let mixed := if s.mixes k.pa (if k.misc.testBit 3 then 31 else n) then 1 else 0
         ty ≤ 3 →
         (s.receives k 0x05 → performs .pktAtomic (fun t => rest t ∧ t.answers k 0x10 (65536 * mixed) (leBytes n old))) ∧
         (s.receives k 0x06 → performs .pktReduction (fun t => rest t ∧ t.answers k 0x13 mixed [])))) ∧
      (s.locked line = false →
        let queued (kind : Req) (cells : List Host.Cell) (t : State) : Prop := t.mem = s.mem ∧ t.coh.dir = s.coh.dir ∧
          t.coh.reqs = s.coh.reqs ++ [⟨kind, agent, line, cells, [], some k⟩]
        (s.receives k 0x07 → performs .pktRenewal (queued .renew [])) ∧
        (s.receives k 0x08 → performs .pktCleanEvictionNotice (queued .evict [])) ∧
        (s.receives k 0x09 → k.payload.length = 128 →
          performs .pktWriteback (queued .writeback (cellsFrom (line * 128) k.payload))))) ∧
    (∀ r, s.peersTurn r k → e.st ≠ .dh → e.crs = false →
      (r.kind = .renew → e.st = .ds → BitVec.ofNat 9 agent ∈ e.ptrs → ∃ t, exec (.renewal agent line) s = .next t ∧ t.mem = s.mem ∧
        t.dirEntry line = { e with stamp := s.nextStamp e stamp } ∧ t.answers k 0x12 stamp.toNat []) ∧
      (r.kind = .evict → ∃ t, exec (.cleanEvictionNotice agent line) s = .next t ∧ t.mem = s.mem ∧
        (e.st = .dx → e.owner.toNat = agent → t.dirEntry line = { e with st := .di, owner := 0 }) ∧
        (e.st = .ds → (t.dirEntry line).ptrs = e.ptrs.filter (fun q => decide (q.toNat ≠ agent)) ∧
          ((t.dirEntry line).st = .di ↔ ∀ q ∈ e.ptrs, q.toNat = agent))) ∧
      (r.kind = .writeback → e.st = .dx → e.owner.toNat = agent → k.payload.length = 128 → r.cells = cellsFrom (line * 128) k.payload →
        locKind (line * 128) ≠ 2 → ∃ t, exec (.writeback agent line) s = .next t ∧ t.answers k 0x12 0 [] ∧
          cellBytes t.mem (line * 128) 128 = k.payload ∧
          (∀ q, (q < line * 128 ∨ line * 128 + 128 ≤ q) → t.byte q = s.byte q) ∧
          t.dirEntry line = { e with st := .di, owner := 0 })) ∧
    (∀ x, s.fab.txns = [x] → x.tag = k.tag → x.peer = k.src →
      (∀ op i st, (op, i, st) ∈ [(0x00, Instr.pktData, CopyState.s), (0x01, .pktDataAckCount, .e)] → x.op = op →
        s.receives k (0x10 + op) → k.payload.length = 128 → s.l2Full x.line = false → locKind (x.line * 128) ≠ 2 →
        (∀ l ∈ s.loads, x.feeds l = true → l.kind.settles = false) → ∃ t, exec i s = .next t ∧ Answered s t x ∧
          ⟨k.src, x.line, st, BitVec.ofNat 16 k.misc⟩ ∈ t.fab.proxy ∧ cellBytes t.mem (x.line * 128) 128 = k.payload ∧
          (∀ q, (q < x.line * 128 ∨ x.line * 128 + 128 ≤ q) → t.byte q = s.byte q) ∧
          ∀ l ∈ s.loads, x.feeds l = true → { l with value := some (BitVec.ofNat 128
            (t.readAt (t.coreOf l.team) l.team l.space l.loc l.size)) } ∈ t.loads) ∧
      (x.op = 0x05 → s.receives k 0x10 → s.bindingCtx x.line = none → (∀ l ∈ s.loads, x.feeds l = true → l.kind.settles = false) →
        ∃ t, exec .pktData s = .next t ∧ Answered s t x ∧ t.mem = s.mem ∧
        ∀ l ∈ s.loads, ∀ op ty b c, l.kind = .atomic op ty b c → x.feeds l = true →
          { l with value := some (BitVec.ofNat 128 (leNat (k.payload.take l.size))) } ∈ t.loads) ∧
      (s.receives k 0x12 → k.misc < 2 ^ 35 → x.op = 0x09 → (∀ p ∈ s.fab.proxy, p.line = x.line → p.st = .m) →
        ∃ t, exec .pktAcknowledgement s = .next t ∧ Taken s t ∧ t.mem = s.mem ∧ ∀ p ∈ t.fab.proxy, p.line ≠ x.line) ∧
      (s.receives k 0x12 → k.misc < 2 ^ 35 → x.op ≠ 0x09 → ∃ t, exec .pktAcknowledgement s = .next t ∧ Answered s t x ∧ t.mem = s.mem ∧
        ∀ p ∈ s.fab.proxy, p.line = x.line →
          (x.op = 0x07 → { p with stamp := s.later p.stamp (BitVec.ofNat 16 k.misc) } ∈ t.fab.proxy) ∧
          (x.op = 0x02 → { p with st := .e } ∈ t.fab.proxy)) ∧
      (s.receives k 0x13 → (x.op = 0x06 → s.bindingCtx x.line = none) → ∃ t, exec .pktWritePerformed s = .next t ∧ Answered s t x ∧ t.mem = s.mem) ∧
      (∀ l seq, x.op < 0x10 → x.reads = true → x.load = some seq → x.write = [] → x.want = none → s.xfers = [] →
        s.loads.filter x.feeds = [l] → l.team = s.cur.uid → s.cur.live = true →
        (s.receives k 0x14 → ∃ t, exec .pktError s = .next t ∧ t.mem = s.mem ∧
          (k.misc % 4 = 0 → Failed s t x l (tMCHK 1)) ∧ (k.misc % 4 = 1 → Failed s t x l (tACCESS 0)) ∧
          (k.misc % 4 = 2 → Failed s t x l tBARCLOB)) ∧
        (s.sel = 0 → ∃ t, exec .transactionTimeout s = .next t ∧ t.mem = s.mem ∧ Failed s t x l (tPAGE 2)))) ∧
    (∀ m y, s.receives k 0x12 → 2 ^ 35 ≤ k.misc → k.payload = [] → s.coh.msgs = [m] → m.agent = agent → m.line = line →
      m.sent = true → s.coh.txns = [y] → y.line = line → y.got + 1 < y.need → performs .pktAcknowledgement (fun t =>
        t.mem = s.mem ∧ t.coh.msgs = [] ∧ t.coh.txns = [{ y with got := y.got + 1 }])) ∧
    (let there := lineOf (locPeer k.src k.pa)
     (∀ op i, (op, i) ∈ [(0x20, Instr.pktInvalidate), (0x21, .pktForward), (0x22, .pktRecall)] → s.receives k op →
       k.misc % 2 = 0 → s.xfers = [] → performs i (fun t => t.mem = s.mem ∧ t.answers k 0x12 (2 ^ 35) [] ∧
         (∀ p ∈ t.fab.proxy, p.line ≠ there) ∧ (s.cur.live = true → ∀ b ∈ t.cur.bindings, lineOf b.2.loc = there →
           b.2.space ≠ .software → b.2.pend = true))) ∧
     (s.receives k 0x21 → k.misc % 2 = 1 → s.xfers = [] → performs .pktForward (fun t => t.mem = s.mem ∧ t.answers k 0x12 (2 ^ 35) [] ∧
       ∀ p ∈ s.fab.proxy, p.line = there → p.st ≠ .h → { p with st := .s, stamp := BitVec.ofNat 16 (k.misc / 2) } ∈ t.fab.proxy)))

/-! ## Hanks -/

/-- HATTACH, HDETACH, HQUERY (R438–R441) for a team with a leader in a hank. HATTACH reports 0 for the own member and an attached
one, 1 for a departed one; it counts the team at a member on this device, asks the device of any other and waits for the answer.
HDETACH of an attached member that is not departed waits until earlier accesses are performed, then removes the attachment and
the bindings to the window and has it counted; else it has no effect. HQUERY gives the masks of R441. A team in no hank, or a
member number out of range, raises ACCESS, a selector above 2 OPERAND; a team without a leader is unaffected. -/
def Obligations.HankMembersAttach : Prop :=
  ∀ (s : State) (d a : Code), s.plain = true → skOk s.cur false a = true →
    (s.cur.leader = none →
      (szOk false d = true → exec (.hattach d a) s = .next (s.setCur s.cur.advance)) ∧
      exec (.hdetach a) s = .next (s.setCur s.cur.advance) ∧
      (dstOk s.cur false d = true → ∃ t, exec (.hquery d a) s = .next t ∧ t.cur = s.cur.advance ∧ t.mem = s.mem)) ∧
    (∀ l0, s.cur.leader = some l0 → s.hasHandler = true →
      let m := (s.cur.opnd32 l0 a).toNat
      (s.hankOf s.cur = none ∨ (∃ h, s.hankOf s.cur = some h ∧ h.size ≤ m) →
        (szOk false d = true → TrapsHere (.hattach d a) s (tACCESS 5)) ∧ TrapsHere (.hdetach a) s (tACCESS 5)) ∧
      (s.hankOf s.cur = none → dstOk s.cur false d = true → m ≤ 2 → TrapsHere (.hquery d a) s (tACCESS 5)) ∧
      (2 < m → TrapsHere (.hquery d a) s ⟨2, 0, 0⟩)) ∧
    (∀ l0 h, s.cur.leader = some l0 → s.hankOf s.cur = some h →
      let m := (s.cur.opnd32 l0 a).toNat
      let told (v : Word) : Team := (if isS d then s.cur.sset (sNum d) v else s.cur).advance
      let joined (v : Word) : Team := { told v with attached := m :: s.cur.attached }
      let waits (k : Nat) (b : Bool) : State := s.setCur { s.cur with park := .attach k (some b) }
      let leaves (k : Nat) : State := s.setCur { s.cur with park := .detach k true }
      let counts (u : Nat) (add : Bool) : List Wg :=
        s.wgs.map (fun (w : Wg) => if w.uid = u then Wg.countAttach h.member add w else w)
      let asks (t : State) (op : Nat) : Prop := h.devices.getD m 0 ≠ s.fab.dev → s.group (h.devices.getD m 0) ≠ [] →
        h.hank < 2 ^ 15 → t.sentTo (h.devices.getD m 0) (fun p => p.op = op ∧ msgHank p = h.hank ∧ p.pa / 2 ^ 24 % 16 = m)
      (m < h.size → h.size ≤ 16 → szOk false d = true →
        (m = h.member ∨ m ∈ s.cur.attached → exec (.hattach d a) s = .next (s.setCur (told 0))) ∧
        (m ≠ h.member → m ∉ s.cur.attached → m ∈ h.departed → exec (.hattach d a) s = .next (s.setCur (told 1))) ∧
        (m ≠ h.member → m ∉ s.cur.attached → m ∉ h.departed →
          (∀ u, h.wgs.getD m none = some u → ∃ t, exec (.hattach d a) s = .next t ∧ t.cur = joined 0 ∧ t.mem = s.mem ∧
            t.wgs = counts u true) ∧
          (h.wgs.getD m none = none → ∃ t, exec (.hattach d a) s = .next t ∧ t.cur = { s.cur with park := .attach m none } ∧
            t.mem = s.mem ∧ asks t 0x34)) ∧
        exec (.hattach d a) (waits m false) = .next (s.setCur (joined 0)) ∧
        exec (.hattach d a) (waits m true) = .next (s.setCur (told 1))) ∧
      (m < h.size → h.size ≤ 16 →
        (m = h.member ∨ m ∉ s.cur.attached ∨ m ∈ h.departed → exec (.hdetach a) s = .next (s.setCur s.cur.advance)) ∧
        (m ≠ h.member → m ∈ s.cur.attached → m ∉ h.departed →
          let left : Team := { s.cur with
            attached := s.cur.attached.filter (fun k => decide (k ≠ m))
            bindings := s.cur.bindings.filter (fun b => !h.bindsTo m b.2) }
          (s.accessesDone s.cur.uid s.nextSeq 5 = false →
            exec (.hdetach a) s = .next (s.setCur { s.cur with park := .access })) ∧
          (s.accessesDone s.cur.uid s.nextSeq 5 = true →
            (∀ u, h.wgs.getD m none = some u → ∃ t, exec (.hdetach a) s = .next t ∧ t.cur = left.advance ∧ t.mem = s.mem ∧
              t.wgs = counts u false) ∧
            (h.wgs.getD m none = none → ∃ t, exec (.hdetach a) s = .next t ∧ t.cur = { left with park := .detach m false } ∧
              t.mem = s.mem ∧ asks t 0x35))) ∧
        exec (.hdetach a) (leaves m) = .next (s.setCur s.cur.advance)) ∧
      (m ≤ 2 → dstOk s.cur false d = true → ∃ x : Nat, Gives (.hquery d a) s false d (fun _ => x) ∧
        (h.size ≤ 16 → m = 0 → x < 2 ^ h.size ∧ ∀ k, k < h.size → (x.testBit k = true ↔ k ∉ h.departed)) ∧
        (h.size ≤ 16 → m = 1 → x < 2 ^ h.size ∧ ∀ k, k < h.size → (x.testBit k = true ↔ k = h.member ∨ k ∈ s.cur.attached)) ∧
        (m = 2 → h.attachFrom.sum < 2 ^ 32 → x = h.attachFrom.sum)))

/-- Window packets (R437, R439, R440, R445). At a member's core store a read is answered with the bytes, a write writes the
bytes of its mask and an atomic its new value, neither on a live barrier word; barrier operations act as at home; attach and
detach are counted; a member that is not here is answered as gone. An answer ends its request at the device that asked: a load
gets its value, an attach or detach its status, an operation on a departed member HANKGONE. -/
def Obligations.WindowPacketsAct : Prop :=
  ∀ (s : State) (k : Packet),
    let key := k.misc / 2 ^ 16
    let here := s.memberHere key (k.pa / 2 ^ 28) (k.pa / 2 ^ 24 % 16)
    let performs (i : Instr) (q : State → Prop) : Prop := ∃ t, exec i s = .next t ∧ Taken s t ∧ q t
    (∀ op i, (op, i) ∈ [(0x37, Instr.windowRead), (0x38, .windowWrite), (0x39, .windowAtomic), (0x3C, .windowBarrier),
        (0x34, .hankAttach), (0x35, .hankDetach)] → here = none → s.receives k op → performs i (fun t => t.mem = s.mem ∧
      t.answers k 0x3A 1 [])) ∧
    (∀ w, here = some w → s.xfers = [] → s.poison = [] →
      let loc := locScratch w.uid (k.pa % 2 ^ 24)
      let line := loc / 128 * 128
      let counts (add : Bool) : List Wg := s.wgs.map (fun (x : Wg) => if x.uid = w.uid then Wg.countAttach (k.misc % 16) add x else x)
      (s.receives k 0x37 → let n := min 128 (k.misc % 256)
        (k.misc.testBit 8 = false → performs .windowRead (fun t => t.mem = s.mem ∧ t.answers k 0x3A 0 (cellBytes s.mem loc n))) ∧
        (k.misc.testBit 8 = true → performs .windowRead (fun t => t.mem = s.mem ∧
          t.answers k 0x3A (if s.hitsBarrier loc n then 2 else 0) []))) ∧
      (s.receives k 0x38 → k.payload.length = 144 →
        let writes (j : Nat) : Bool := (leNat (k.payload.take 16)).testBit j
        ((∀ j, j < 128 → writes j = true → s.hitsBarrier (line + j) 1 = false) → performs .windowWrite (fun t =>
          t.answers k 0x3A 0 [] ∧ (∀ j, j < 128 → t.byte (line + j) = if writes j then k.payload.getD (16 + j) 0 else s.byte (line + j)) ∧
          ∀ q, (q < line ∨ line + 128 ≤ q) → t.byte q = s.byte q)) ∧
        ((∃ j, j < 128 ∧ writes j = true ∧ s.hitsBarrier (line + j) 1 = true) → performs .windowWrite (fun t =>
          t.answers k 0x3A 2 [] ∧ t.mem = s.mem))) ∧
      (s.receives k 0x39 →
        let ty := k.misc / 16 % 16
        let n := if 2 ≤ ty then 8 else 4
        let size := if k.misc % 8 = 7 then n else k.payload.length / n * n
        ty ≤ 3 → n ≤ k.payload.length →
        (s.hitsBarrier loc size = true → performs .windowAtomic (fun t => t.mem = s.mem ∧ t.answers k 0x3A 2 [])) ∧
        (s.hitsBarrier loc size = false → performs .windowAtomic (fun t =>
          t.answers k 0x3A 0 (if k.misc.testBit 8 then leBytes n (cellNat s.mem loc n) else []) ∧
          (∀ q, (q < loc ∨ loc + size ≤ q) → t.byte q = s.byte q) ∧
          ∀ m op i, (m, op) ∈ [(0, AtOp.add), (1, .and), (2, .or), (3, .xor), (4, .min), (5, .max), (6, .xch), (7, .cas)] →
            k.misc % 8 = m → n * i < size → cellNat t.mem (loc + n * i) n =
              rmwValue op ty (cellNat s.mem (loc + n * i) n) (leNat ((k.payload.drop (n * i)).take n))
                (leNat ((k.payload.drop (n * i + n)).take n))))) ∧
      (s.receives k 0x3C →
        let x := leNat k.payload
        let word := cellNat s.mem loc 8
        let gen := word / 2 ^ 48 % 256
        let live := word.testBit 63
        (k.misc % 2 ^ 16 = 0 → performs .windowBarrier (fun t => t.answers k 0x3A 0 [] ∧ loc ∈ t.barriers ∧
          cellNat t.mem loc 8 = 2 ^ 63 + (if x.testBit 16 then 2 ^ 62 else 0) + (gen + 1) % 256 * 2 ^ 48 + x % 2 ^ 16 * 2 ^ 32)) ∧
        (k.misc % 2 ^ 16 = 1 → performs .windowBarrier (fun t => t.answers k 0x3A 0 [] ∧ loc ∉ t.barriers ∧
          cellNat t.mem loc 8 = if live then word - 2 ^ 63 else word)) ∧
        (k.misc % 2 ^ 16 = 2 → live = true → word.testBit 62 = false → performs .windowBarrier (fun t =>
          t.answers k 0x3A 0 (leBytes 4 (gen * 2 ^ 16 + word % 2 ^ 16)) ∧
          let count := word / 2 ^ 16 % 2 ^ 16 + 1
          cellNat t.mem loc 8 = word / 2 ^ 32 * 2 ^ 32 + (if count = word / 2 ^ 32 % 2 ^ 16 then (word % 2 ^ 16 + 1) % 2 ^ 16
            else count % 2 ^ 16 * 2 ^ 16 + word % 2 ^ 16)))) ∧
      (s.receives k 0x34 → performs .hankAttach (fun t => t.mem = s.mem ∧ t.wgs = counts true ∧ t.answers k 0x3A 0 [])) ∧
      (s.receives k 0x35 → performs .hankDetach (fun t => t.mem = s.mem ∧ t.wgs = counts false ∧ t.answers k 0x3A 0 []))) ∧
    (∀ x, s.fab.txns = [x] → x.tag = k.tag → x.peer = k.src → s.receives k 0x3A →
      (∀ m b u, (x.op = 0x34 ∨ x.op = 0x35) → x.load = some u → s.cur.uid = u → s.cur.live = true → s.cur.park = .attach m none →
        (k.misc % 16 = if b then 1 else 0) → performs .windowAnswer (fun t => t.fab.txns = [] ∧ t.mem = s.mem ∧
          t.cur = { s.cur with park := .attach m (some b) })) ∧
      (∀ m u, x.op = 0x35 → x.load = some u → s.cur.uid = u → s.cur.live = true → s.cur.park = .detach m false →
        performs .windowAnswer (fun t => t.fab.txns = [] ∧ t.mem = s.mem ∧ t.cur = { s.cur with park := .detach m true })) ∧
      (x.op = 0x37 → k.misc % 16 = 0 → locOff (x.line * 128) < 2 ^ 59 → (∀ u ∈ s.teams, ∀ b ∈ u.bindings, b.2.held = none) →
        (∀ l ∈ s.loads, x.feeds l = true → l.kind.settles = false ∧ l.size ≤ 16) →
        performs .windowAnswer (fun t => Answered s t x ∧ (∀ q, locKind q ≠ 7 → t.byte q = s.byte q) ∧
          ∀ l ∈ s.loads, x.feeds l = true → { l with value := some (BitVec.ofNat 128 (leNat k.payload)) } ∈ t.loads)) ∧
      (x.checks = true → k.misc % 16 = 2 → x.write = [] → x.want = none → s.xfers = [] → s.loads = [] → s.cur.live = true →
        ∀ v, s.cur.service = some v → (x.tag, 9) ∈ v.asked → performs .windowAnswer (fun t => t.mem = s.mem ∧ t.fab.txns = [] ∧
          ∃ v', t.cur.service = some v' ∧ ∀ l ∈ lanesOf s.cur.size v.lanes, (l, tBARCLOB) ∈ v'.failed)) ∧
      (∀ l seq, x.op = 0x37 ∨ x.op = 0x39 → x.checks = false → x.load = some seq → x.write = [] → x.want = none → s.xfers = [] →
        s.loads.filter x.feeds = [l] → l.team = s.cur.uid → s.cur.live = true → k.misc % 16 = 1 →
        ∃ t, exec .windowAnswer s = .next t ∧ t.mem = s.mem ∧ Failed s t x l (tHANKGONE (memberOf (x.line * 128)))))

/-- Placement of hanks in two phases, and their end (R434, R435, R443, R444). A device tenders a reserved member, or answers that
its context is not valid or its budgets do not pass; a commit admits the reserved member, a release drops its reservation or
tender. At the origin an answer is noted; with the last one commit goes out, with an answer none, or none within 64 µs, release,
and the attempt is repeated. After 1 ms target cores are held, after 10 ms workgroups of lower priority on them are pre-empted,
after 50 ms the launch is stopped with status 5. A departure marks the member and reaches its bindings; pre-emption stops the
member here. -/
def Obligations.HanksArePlaced : Prop :=
  ∀ (s : State),
    (∀ k : Packet, s.fab.rx[s.sel]? = some k → (∀ j ∈ s.fab.rx.take s.sel, keepsOrder j k = false) →
      let m := msgMember k
      let key := msgKey k
      let hank := msgHank k
      let origin := key / 2 ^ 16
      let performs (i : Instr) (q : State → Prop) : Prop := ∃ t, exec i s = .next t ∧ t.mem = s.mem ∧ q t
      let replies (t : State) (r : Nat) : Prop :=
        s.told t origin (fun a => hankPacket 0x31 m hank a ∧ leNat a.payload % 4 = r)
      (k.op = 0x30 →
        let l := launchFrom k.payload k.ctx origin (key % 2 ^ 16)
        ((s.ctx k.ctx).valid = false → performs .hankReserve (fun t => replies t 2 ∧ t.anns = s.anns)) ∧
        ((s.ctx k.ctx).valid = true → k.tag = 1 → s.savedMember key hank m = none →
          performs .hankReserve (fun t => replies t 1 ∧ t.anns = s.anns)) ∧
        (∀ w, (s.ctx k.ctx).valid = true → k.tag = 1 → s.savedMember key hank m = some w →
          s.budgetsPass k.ctx (s.restoreTeams w) = true → s.slotsLeft k.ctx 0 = true → (s.ctx k.ctx).assist.getLsbD 4 = false →
          (s.anns.filter Ann.inFlight).length < 8 → performs .hankReserve (fun t => Taken s t ∧ ∃ a, t.anns = s.anns ++ [a] ∧
            a.ctx = k.ctx ∧ a.phase = .bidding ∧ a.teams = s.restoreTeams w ∧
            a.purpose = .hank origin (msgAttempt k) key hank m)) ∧
        ((s.ctx k.ctx).valid = true → k.tag = 0 →
          (s.budgetsPass k.ctx l.teams = false ∨ s.slotsLeft k.ctx l.teams = false → performs .hankReserve (fun t => replies t 1 ∧ t.anns = s.anns)) ∧
          (s.budgetsPass k.ctx l.teams = true → s.slotsLeft k.ctx l.teams = true → (s.ctx k.ctx).assist.getLsbD 4 = false →
            (s.anns.filter Ann.inFlight).length < 8 → performs .hankReserve (fun t => Taken s t ∧ ∃ a, t.anns = s.anns ++ [a] ∧
              a.ctx = k.ctx ∧ a.phase = .bidding ∧ a.kept = [] ∧ a.since = s.cycle ∧
              a.purpose = .hank origin (msgAttempt k) key hank m)))) ∧
      (k.op = 0x32 → ∀ r, s.fab.reserved = [r] → r.named k = true →
        s.savedMember key hank r.member = none → s.keyLaunch key = none →
        (∀ x ∈ s.launches, x.origin ≠ r.launch.origin) → r.cls.clm = false → r.launch.smax = 0 →
        performs .hankCommit (fun t => Taken s t ∧ t.fab.reserved = [] ∧ t.cur = s.cur ∧ ∃ w h ws, t.wgs = ws ++ [w] ∧
            ws.map Wg.uid = s.wgs.map Wg.uid ∧ w.hank = some h ∧ w.core = r.core ∧ w.phase = .resident ∧ w.ctx = r.launch.ctx ∧
            w.index = hank * r.launch.hank + m ∧ h.key = key ∧ h.hank = hank ∧ h.size = r.launch.hank ∧ h.member = m ∧
            h.hexp = r.launch.hexp ∧ h.departed = [] ∧ h.attachFrom.sum = 0 ∧
            ∀ j, j < r.launch.hank → h.devices.getD j 0 = r.launch.hmap.toNat / 16 ^ j % 16)) ∧
      (k.op = 0x33 → k.tag = 0 → performs .hankRelease (fun t =>
        (∀ r ∈ t.fab.reserved, r.named k = false) ∧ (∀ r ∈ s.fab.reserved, r.named k = false → r ∈ t.fab.reserved) ∧
        (∀ a ∈ t.anns, a.purpose ≠ .hank origin (msgAttempt k) key hank m) ∧ t.wgs = s.wgs ∧ t.cur = s.cur)) ∧
      (k.op = 0x31 → ∀ l a, s.keyLaunch key = some l → s.fab.attempts = [a] → a.active = true → a.launch = l.id → a.hank = hank →
        a.id % 2 ^ 12 = msgAttempt k → a.failed = false → a.answers.length = l.hank → l.hank ≤ 16 → m < l.hank →
        a.answers.getD m none = none →
        let noted (r : Nat) : Attempt := { a with answers := a.answers.set m (some r) }
        (leNat k.payload % 4 = 0 →
          ((∃ j, j < l.hank ∧ j ≠ m ∧ a.answers.getD j none = none) → performs .hankReserveAnswer (fun t =>
            t.fab.attempts = [noted 0] ∧ t.cur = s.cur)) ∧
          ((∀ j, j < l.hank → j ≠ m → a.answers.getD j none = some 0) → performs .hankReserveAnswer (fun t =>
            (∀ j, j < l.hank → s.told t (l.deviceOf j) (hankPacket 0x32 j hank)) ∧ ∀ b ∈ t.fab.attempts, b.active = false))) ∧
        (leNat k.payload % 4 = 1 → performs .hankReserveAnswer (fun t => t.fab.attempts = [noted 1] ∧
          ∀ j, j < l.hank → s.told t (l.deviceOf j) (hankPacket 0x33 j hank))) ∧
        (leNat k.payload % 4 = 2 → a.restore = false → performs .hankReserveAnswer (fun t => t.fab.attempts = [] ∧
          (∀ j, j < l.hank → s.told t (l.deviceOf j) (hankPacket 0x33 j hank)) ∧
          ∀ x ∈ t.launches, x.id = l.id → x.stopped = true ∧ x.status ≠ 0))) ∧
      (k.op = 0x36 → msgAttempt k = 0 → s.keyLaunch key = none → s.loads = [] → s.xfers = [] → s.fab.txns = [] → s.path = [] →
        s.batches = [] → s.wgs.Pairwise (fun x y => x.uid ≠ y.uid) → performs .departureNotice (fun t =>
          (∀ w ∈ s.wgs, w.sees key hank m = true → ∃ w' ∈ t.wgs, w'.uid = w.uid ∧ ∃ h, w'.hank = some h ∧ m ∈ h.departed ∧
            h.attachFrom.getD m 0 = 0) ∧
          ∀ w ∈ s.wgs, w.sees key hank m = true → s.cur.live = true → s.cur.wg = w.uid → w.localMember m = none →
            (∀ b ∈ t.cur.bindings, b.2.space = .member m → b.2.pend = true) ∧
            t.cur.bindings.map (fun b => (b.1, b.2.addr, b.2.loc)) = s.cur.bindings.map (fun b => (b.1, b.2.addr, b.2.loc)) ∧
            t.cur.v = s.cur.v ∧ t.cur.s = s.cur.s ∧ (s.cur.park = .attach m none → t.cur.park = .attach m (some true)))) ∧
      (k.op = 0x3B → ∀ w, s.memberHere key hank m = some w → s.wg? w.uid = some w → w.clm = false →
        (w.phase = .resident → performs .preemptHank (fun t => t.cur = s.cur ∧
          t.wgs = s.wgs.map (fun (x : Wg) => if x.uid = w.uid then { x with phase := .stopping, group := none } else x))) ∧
        (w.phase ≠ .resident → performs .preemptHank (fun t => Taken s t ∧ t.wgs = s.wgs)))) ∧
    (∀ l a, s.attempts1 l a →
      let gone (r : Option Nat) : Option Nat := if r = none then some 1 else r
      let held (c : Nat) (m : Nat) : Prop := (s.core c).drainHold = some (holdName (hankKey s.fab.dev l.id) a.hank m)
      (a.failed = false → (∃ j, j < l.hank ∧ a.answers.getD j none = none) → ∃ t, exec .hankReserveTimeout s = .next t ∧
        t.mem = s.mem ∧ { a with answers := a.answers.map gone } ∈ t.fab.attempts ∧
        ∀ j, j < l.hank → s.told t (l.deviceOf j) (hankPacket 0x33 j a.hank)) ∧
      (a.failed = true → a.restore = false → ∃ t, exec .hankRetry s = .next t ∧ t.mem = s.mem ∧
        (∃ b ∈ t.fab.attempts, b = { a with id := b.id, answers := List.replicate l.hank none }) ∧
        ∀ j, j < l.hank → s.told t (l.deviceOf j) (hankPacket 0x30 j a.hank)) ∧
      (a.target = none → ∃ t, exec .drainHold s = .next t ∧ t.mem = s.mem ∧ t.cur = s.cur ∧
        { a with target := some 1 } ∈ t.fab.attempts ∧
        ∀ m c, m < l.hank → (∀ j, j < l.hank → (l.deviceOf j = s.fab.dev ∧ a.answers.getD j none ≠ some 0 ↔ j = m)) →
          (∀ x ∈ s.cores, x.2.drainHold = none) → c < 192 → s.coreOn c = true → l.needs.fits (s.usedWithout c l.prio) = true →
          (∀ x, x < 192 → s.coreOn x = true → l.needs.fits (s.usedWithout x l.prio) = true →
            s.shortfall c l.needs < s.shortfall x l.needs ∨ s.shortfall c l.needs = s.shortfall x l.needs ∧ c ≤ x) →
          (t.core c).drainHold = some (holdName (hankKey s.fab.dev l.id) a.hank m) ∧ ∀ x, x ≠ c → t.core x = s.core x) ∧
      (a.target = some 1 → ∃ t, exec .drainPreempt s = .next t ∧ t.mem = s.mem ∧ t.cur = s.cur ∧
        { a with target := some 2 } ∈ t.fab.attempts ∧
        (∀ w m, s.wg? w.uid = some w → w.phase = .resident → w.prio < l.prio → w.hank = none → m < l.hank →
          l.deviceOf m = s.fab.dev → a.answers.getD m none ≠ some 0 → held w.core m → (w.core ∈ s.cores.map (fun c => c.1)) →
          ∃ w', t.wg? w.uid = some w' ∧ w'.phase = .stopping)) ∧
      (a.restore = false → ∃ t, exec .hankAbandon s = .next t ∧ t.mem = s.mem ∧ a ∉ t.fab.attempts ∧
        (∀ j, j < l.hank → s.told t (l.deviceOf j) (hankPacket 0x33 j a.hank)) ∧
        ∀ x ∈ t.launches, x.id = l.id → x.stopped = true ∧
          (x.status = 5 ∨ ∃ y ∈ s.launches, y.id = l.id ∧ y.status ≠ 0 ∧ x.status = y.status)))
end

