-- ==== Sys2Proof/Laws/Issue.lean ====
section
/-! SUPPORT. What issuing an instruction does, said once. -/

namespace Sys2Proof.Machine

/-- The parts of `State.plain`. -/
theorem State.plain_iff (s : State) : s.plain = true ↔
    s.issuer = .team ∧ s.cur.live = true ∧ s.cur.ending = false ∧ s.cur.service = none ∧ s.cur.park = .running ∧
      s.cur.inRegion = false ∧ s.cur.stepping = false ∧ s.cur.only = none ∧ s.cur.checked = false ∧
      s.cur.focusRest = none ∧ s.cur.shortLived = [] ∧ s.cur.poison = [] ∧ s.cur.dueCheck = none ∧ s.curCtx.hazchk.getLsbD 0 = false ∧
      s.curCtx.hazchk.getLsbD 1 = false := by
  simp [State.plain, Bool.and_eq_true, and_assoc, Option.isNone_iff_eq_none]

/-- A plain team's instruction with no condition against it: its body executes once. -/
theorem issue_plain {sp : Spec} {u : Uses} {conds : Team → State → List Cond} {run : State → Res} {s : State}
    (h : s.plain = true) (hs : sp.conds s.cur = []) (hc : conds s.cur s = []) :
    issue sp u conds run s = .next (State.conclude s.cur 0 none (run s)) := by
  obtain ⟨h1, h2, h3, h4, h5, h6, h7, h8, h15, h9, h10, h11, h14, h12, h13⟩ := (State.plain_iff s).1 h
  have e1 : s.hazardConds sp u = [] := by
    simp only [State.hazardConds, h12, Bool.false_eq_true, if_false]
  have e2 : s.expiredConds sp u = [] := by
    simp only [State.expiredConds, h13, Bool.false_eq_true, if_false]
  have e3 : s.expiredLanes sp u = [] := by simp [State.expiredLanes, h10]
  have e4 : s.poisonLanes sp u = [] := by simp [State.poisonLanes, h11]
  have e5 : sp.focusStop s.cur = false := by simp [Spec.focusStop, Team.stepsNow, h7]
  have e6 : withTags sp u run s = run s := by simp [withTags, h6]
  simp [issue, h1, h2, State.issueTeam, h4, h14, State.execute, hs, hc, e1, e2, e3, e4, e5, e6, h6, h9, maskOf]

/-- An instruction that completes advances to the next one (no step stop applies). -/
theorem conclude_done {before : Team} {r : State} (h : before.stepping = false) :
    State.conclude before 0 none (.done r) = r.setCur r.cur.advance := by
  simp [State.conclude, State.stepStop, Team.stopsAfter, Team.stepsNow, h]

/-- A transfer of control that completes. -/
theorem conclude_jump {before : Team} {r : State} (h : before.stepping = false) :
    State.conclude before 0 none (.jump r) = r.setCur (r.cur.landed before.clause) := by
  simp [State.conclude, State.stepStop, Team.stopsAfter, Team.stepsNow, h]

/-- An instruction whose team waits. -/
theorem conclude_stay (before : Team) (r : State) (h : r.cur.checked = before.checked) :
    State.conclude before 0 none (.stay r) = r := by
  have e : (r.cur.checked && !before.checked) = false := by rw [h]; cases before.checked <;> rfl
  simp only [State.conclude, e, Option.isSome_none, Bool.false_eq_true, if_false, if_true, Option.map_id']
  rfl

/-- The same, while the check of its writes is made: it begins anew when it has been (R140). -/
theorem conclude_stay_check (before : Team) (r : State) (h : r.cur.checked = true) (hb : before.checked = false)
    (ho : r.cur.only = before.only) : State.conclude before 0 none (.stay r) = r := by
  have e : (r.cur.checked && !before.checked) = true := by rw [h, hb]; rfl
  simp only [State.conclude, e, if_true]
  rw [← ho]
  rfl

/-- Conditions that stop a plain team's instruction before its body, one of them below code 16: the lowest trap is
taken, nothing else (R36). -/
theorem issue_conds {sp : Spec} {u : Uses} {conds : Team → State → List Cond} {run : State → Res} {s : State}
    (h : s.plain = true) (hc : (sp.conds s.cur ++ conds s.cur s).all (fun c => decide (16 ≤ c.2.code)) = false) :
    issue sp u conds run s = .next (s.raise (sp.conds s.cur ++ conds s.cur s) 0) := by
  obtain ⟨h1, h2, h3, h4, h5, h6, h7, h8, h15, h9, h10, h11, h14, h12, h13⟩ := (State.plain_iff s).1 h
  have e1 : s.hazardConds sp u = [] := by
    simp only [State.hazardConds, h12, Bool.false_eq_true, if_false]
  have e2 : s.expiredConds sp u = [] := by
    simp only [State.expiredConds, h13, Bool.false_eq_true, if_false]
  have e3 : s.expiredLanes sp u = [] := by simp [State.expiredLanes, h10]
  have e6 : withTags sp u run s = run s := by simp [withTags, h6]
  have hn : sp.conds s.cur ++ conds s.cur s ≠ [] := by intro he; rw [he] at hc; simp at hc
  simp only [issue, h1, h2, if_true, State.issueTeam, h4, h14, State.execute, e1, e2, e3, h6, List.append_nil, hc]
  simp [hn]

end Sys2Proof.Machine
end

