-- ==== Sys2Proof/Laws/Memory.lean ====
section
/-! SUPPORT. Sparse tables and memory: what a read finds after a write, and that every operation on memory keeps its canonical
form. -/

namespace Sys2Proof.Machine

/-! ## Tables -/

/-- A key taken out reads as the default. -/
@[simp] theorem tget_tdel_self {β : Type} (d : β) (t : Table β) (n : Nat) : tget d (tdel t n) n = d := by
  induction t with
  | nil => rfl
  | cons e t ih =>
    unfold tdel
    split
    · exact ih
    · rename_i h
      simp [tget, h, ih]

/-- Any other key reads as before. -/
theorem tget_tdel_of_ne {β : Type} (d : β) (t : Table β) {n m : Nat} (h : m ≠ n) : tget d (tdel t n) m = tget d t m := by
  induction t with
  | nil => rfl
  | cons e t ih =>
    unfold tdel
    split
    · rename_i k
      rw [ih, tget, if_neg (fun q => h (q.trans k.symm))]
    · simp [tget, ih]

/-- A key put in reads as its value. -/
@[simp] theorem tget_tput_self {β : Type} (d : β) (t : Table β) (n : Nat) (x : β) : tget d (tput t n x) n = x := by
  induction t with
  | nil => simp [tput, tget]
  | cons e t ih =>
    by_cases h : n < e.1
    · simp [tput, h, tget]
    · by_cases k : n = e.1
      · simp [tput, k, tget]
      · simp [tput, h, k, tget, ih]

/-- Any other key reads as before. -/
theorem tget_tput_of_ne {β : Type} (d : β) (t : Table β) {n m : Nat} (x : β) (h : m ≠ n) : tget d (tput t n x) m = tget d t m := by
  induction t with
  | nil => simp [tput, tget, h]
  | cons e t ih =>
    unfold tput
    split
    · simp [tget, h]
    · split
      · rename_i l
        rw [tget, tget, if_neg h, if_neg (fun q => h (q.trans l.symm))]
      · simp [tget, ih]

/-- A written key reads as what was written. -/
@[simp] theorem tget_tset_self {β : Type} [DecidableEq β] (d : β) (t : Table β) (n : Nat) (x : β) : tget d (tset d t n x) n = x := by
  by_cases h : x = d <;> simp [tset, h]

/-- Any other key reads as before. -/
theorem tget_tset_of_ne {β : Type} [DecidableEq β] (d : β) (t : Table β) {n m : Nat} (x : β) (h : m ≠ n) :
    tget d (tset d t n x) m = tget d t m := by
  unfold tset
  split
  · exact tget_tdel_of_ne d t h
  · exact tget_tput_of_ne d t x h

/-- Rising keys, as an order of the whole list. -/
theorem rising_iff {β : Type} (t : Table β) : rising t = true ↔ t.Pairwise (fun a b => a.1 < b.1) := by
  induction t with
  | nil => simp [rising]
  | cons e t ih =>
    cases t with
    | nil => simp [rising]
    | cons f u =>
      rw [rising, Bool.and_eq_true, ih, decide_eq_true_eq, List.pairwise_cons (a := e)]
      constructor
      · rintro ⟨h, p⟩
        refine ⟨fun a ha => ?_, p⟩
        rcases List.mem_cons.1 ha with rfl | ha
        · exact h
        · exact Nat.lt_trans h ((List.pairwise_cons.1 p).1 a ha)
      · rintro ⟨h, p⟩
        exact ⟨h f (by simp), p⟩

/-- The canonical form, as two properties of the list. -/
theorem twf_iff {β : Type} [DecidableEq β] (d : β) (t : Table β) :
    twf d t = true ↔ t.Pairwise (fun a b => a.1 < b.1) ∧ ∀ e ∈ t, e.2 ≠ d := by
  simp [twf, rising_iff, List.all_eq_true]

/-- Keys of a table without a key. -/
theorem tdel_sublist {β : Type} (t : Table β) (n : Nat) : (tdel t n).Sublist t := by
  induction t with
  | nil => exact List.Sublist.slnil
  | cons e t ih =>
    unfold tdel
    split
    · exact ih.cons _
    · exact ih.cons_cons _

/-- What a table with a key put in holds. -/
theorem mem_tput {β : Type} (t : Table β) (n : Nat) (x : β) (e : Nat × β) (h : e ∈ tput t n x) : e = (n, x) ∨ e ∈ t := by
  induction t with
  | nil => simpa [tput] using h
  | cons f t ih =>
    unfold tput at h
    split at h
    · simpa using h
    · split at h
      · rcases List.mem_cons.1 h with h | h
        · exact .inl h
        · exact .inr (List.mem_cons_of_mem _ h)
      · rcases List.mem_cons.1 h with h | h
        · exact .inr (by simp [h])
        · exact (ih h).imp id (List.mem_cons_of_mem _)

/-- Putting a key in keeps the order. -/
theorem tput_pairwise {β : Type} (t : Table β) (n : Nat) (x : β) (h : t.Pairwise (fun a b => a.1 < b.1)) :
    (tput t n x).Pairwise (fun a b => a.1 < b.1) := by
  induction t with
  | nil => simp [tput]
  | cons e t ih =>
    obtain ⟨h1, h2⟩ := List.pairwise_cons.1 h
    unfold tput
    split
    · rename_i k
      refine List.pairwise_cons.2 ⟨fun a ha => ?_, h⟩
      rcases List.mem_cons.1 ha with rfl | ha
      · exact k
      · exact Nat.lt_trans k (h1 a ha)
    · split
      · rename_i k
        exact List.pairwise_cons.2 ⟨fun a ha => k ▸ h1 a ha, h2⟩
      · refine List.pairwise_cons.2 ⟨fun a ha => ?_, ih h2⟩
        rcases mem_tput t n x a ha with rfl | ha
        · show e.1 < n
          omega
        · exact h1 a ha

/-- A write keeps the canonical form. -/
theorem twf_tset {β : Type} [DecidableEq β] (d : β) (t : Table β) (n : Nat) (x : β) (h : twf d t = true) :
    twf d (tset d t n x) = true := by
  obtain ⟨h1, h2⟩ := (twf_iff d t).1 h
  refine (twf_iff d _).2 ?_
  unfold tset
  split
  · exact ⟨h1.sublist (tdel_sublist t n), fun e he => h2 e ((tdel_sublist t n).subset he)⟩
  · rename_i k
    refine ⟨tput_pairwise t n x h1, fun e he => ?_⟩
    rcases mem_tput t n x e he with rfl | he
    · exact k
    · exact h2 e he

/-- Entries taken out keep the canonical form. -/
theorem twf_filter {β : Type} [DecidableEq β] (d : β) (t : Table β) (p : Nat × β → Bool) (h : twf d t = true) :
    twf d (t.filter p) = true := by
  obtain ⟨h1, h2⟩ := (twf_iff d t).1 h
  exact (twf_iff d _).2 ⟨h1.sublist List.filter_sublist, fun e he => h2 e (List.mem_filter.1 he).1⟩

/-! ## Cells -/

/-- Cells written over memory keep the canonical form. -/
theorem writeCells_wf (m cs : List Host.Cell) (h : Memory.wf m = true) : Memory.wf (writeCells m cs) = true := by
  induction cs generalizing m with
  | nil => exact h
  | cons c cs ih => exact ih _ (twf_tset unlistedByte m c.1 c.2 h)

/-- A byte that no written cell names reads as before. -/
theorem cellAt_writeCells_of_not_mem (m cs : List Host.Cell) (loc : Nat) (h : ∀ c ∈ cs, c.1 ≠ loc) :
    cellAt (writeCells m cs) loc = cellAt m loc := by
  induction cs generalizing m with
  | nil => rfl
  | cons c cs ih =>
    rw [show writeCells m (c :: cs) = writeCells (tset unlistedByte m c.1 c.2) cs from rfl, ih _ (fun e he => h e (by simp [he]))]
    exact tget_tset_of_ne _ _ _ (fun k => h c (by simp) k.symm)

/-- The addresses of consecutive cells. -/
theorem mem_cellsFrom (bs : List Byte) (loc : Nat) (c : Host.Cell) (h : c ∈ cellsFrom loc bs) : loc ≤ c.1 ∧ c.1 < loc + bs.length := by
  induction bs generalizing loc with
  | nil => simp [cellsFrom] at h
  | cons b bs ih =>
    rcases List.mem_cons.1 h with rfl | h
    · simp
    · have := ih (loc + 1) h
      simp only [List.length_cons]
      omega

/-- The bytes of a number, counted. -/
@[simp] theorem leBytes_length (n x : Nat) : (leBytes n x).length = n := by
  induction n generalizing x with
  | zero => rfl
  | succ n ih => simp [leBytes, ih]

/-- The value of a number's bytes (R9). -/
@[simp] theorem leNat_leBytes (n x : Nat) : leNat (leBytes n x) = x % 256 ^ n := by
  induction n generalizing x with
  | zero => simp [leBytes, leNat, Nat.mod_one]
  | succ n ih =>
    rw [leBytes, leNat, ih, BitVec.toNat_ofNat, show 256 ^ (n + 1) = 256 * 256 ^ n from Nat.pow_succ', Nat.mod_mul]

/-- Bytes written are read back. -/
theorem cellBytes_writeCells (bs : List Byte) (m : List Host.Cell) (loc : Nat) :
    cellBytes (writeCells m (cellsFrom loc bs)) loc bs.length = bs := by
  induction bs generalizing m loc with
  | nil => rfl
  | cons b bs ih =>
    have e : writeCells m (cellsFrom loc (b :: bs)) = writeCells (tset unlistedByte m loc b) (cellsFrom (loc + 1) bs) := rfl
    simp only [List.length_cons, cellBytes, e, ih]
    rw [cellAt_writeCells_of_not_mem _ _ _ (fun c hc => by have := (mem_cellsFrom bs (loc + 1) c hc).1; omega)]
    simp [cellAt]

/-- Bytes outside a write read as before. -/
theorem cellAt_writeCells_outside (m : List Host.Cell) (bs : List Byte) (loc a : Nat) (h : a < loc ∨ loc + bs.length ≤ a) :
    cellAt (writeCells m (cellsFrom loc bs)) a = cellAt m a :=
  cellAt_writeCells_of_not_mem _ _ _ (fun c hc => by have := mem_cellsFrom bs loc c hc; omega)

/-! ## Every operation on memory keeps its canonical form -/

/-- Memory right after reset. -/
theorem reset_mem_wf : Memory.wf State.reset.mem = true := by decide

/-- A write. -/
theorem writeMem_wf (s : State) (cells : List Host.Cell) (h : Memory.wf s.mem = true) : Memory.wf (s.writeMem cells).mem = true :=
  writeCells_wf _ _ h

/-- A store cleared. -/
theorem clearStore_wf (s : State) (kind id : Nat) (h : Memory.wf s.mem = true) : Memory.wf (s.clearStore kind id).mem = true :=
  twf_filter _ _ _ h

/-- A store moved. -/
theorem moveStore_wf (s : State) (kind a b : Nat) (h : Memory.wf s.mem = true) : Memory.wf (s.moveStore kind a b).mem = true :=
  writeCells_wf _ _ (twf_filter _ _ _ h)

/-- A range of a store moved. -/
theorem moveRange_wf (s : State) (kind a b off size : Nat) (h : Memory.wf s.mem = true) :
    Memory.wf (s.moveRange kind a b off size).mem = true :=
  writeCells_wf _ _ (twf_filter _ _ _ h)

/-- A device reset. -/
theorem enterReset_wf (s : State) (h : Memory.wf s.mem = true) : Memory.wf s.enterReset.mem = true :=
  twf_filter _ _ _ h

/-- Only the lane window has its bytes beyond LSLICE elsewhere (R193). -/
@[simp] theorem storePlace_of_kind (s : State) {loc : Nat} (h : locKind loc ≠ 2) : s.storePlace loc = loc := by
  simp [State.storePlace, h]

/-- Bytes that stand where their location says: a write of them is one of the list of cells. -/
theorem writeMem_mem (s : State) (cells : List Host.Cell) (h : ∀ c ∈ cells, s.storePlace c.1 = c.1) :
    (s.writeMem cells).mem = writeCells s.mem cells := by
  have e : cells.map (fun c => (s.storePlace c.1, c.2)) = cells := by
    refine (List.map_congr_left (fun c hc => ?_)).trans (List.map_id _)
    rw [h c hc]; rfl
  simp [State.writeMem, e]

/-- A location read after a write of a value there (R9). -/
theorem cellNat_writeMem (s : State) (loc n x : Nat) (h : ∀ c ∈ cellsFrom loc (leBytes n x), s.storePlace c.1 = c.1) :
    cellNat (s.writeMem (cellsFrom loc (leBytes n x))).mem loc n = x % 256 ^ n := by
  have e := cellBytes_writeCells (leBytes n x) s.mem loc
  rw [leBytes_length] at e
  rw [writeMem_mem s _ h, cellNat, e]
  simp

/-! ## Parts of the device -/

/-- A context just replaced. -/
@[simp] theorem State.setCtx_ctx_self (s : State) (c : Nat) (x : Context) : (s.setCtx c x).ctx c = x := tget_tset_self _ _ _ _
/-- Any other context. -/
theorem State.setCtx_ctx_of_ne (s : State) {c d : Nat} (x : Context) (h : d ≠ c) : (s.setCtx c x).ctx d = s.ctx d :=
  tget_tset_of_ne _ _ _ h
/-- A core just replaced. -/
@[simp] theorem State.setCore_core_self (s : State) (c : Nat) (x : Core) : (s.setCore c x).core c = x := tget_tset_self _ _ _ _
/-- Any other core. -/
theorem State.setCore_core_of_ne (s : State) {c d : Nat} (x : Core) (h : d ≠ c) : (s.setCore c x).core d = s.core d :=
  tget_tset_of_ne _ _ _ h
/-- A die just replaced. -/
@[simp] theorem State.setDie_die_self (s : State) (d : Nat) (x : Die) : (s.setDie d x).die d = x := tget_tset_self _ _ _ _
/-- A host port just replaced. -/
@[simp] theorem State.setHostPort_self (s : State) (p : Nat) (x : HostPort) : (s.setHostPort p x).hostPort p = x :=
  tget_tset_self _ _ _ _
/-- A scalar just written. -/
@[simp] theorem Team.sget_sset_self (t : Team) (n : Nat) (x : Word) : (t.sset n x).sget n = x := tget_tset_self _ _ _ _
/-- Any other scalar. -/
theorem Team.sget_sset_of_ne (t : Team) {n m : Nat} (x : Word) (h : m ≠ n) : (t.sset n x).sget m = t.sget m := tget_tset_of_ne _ _ _ h

end Sys2Proof.Machine
end

