-- ==== Sys2Proof/Laws/Ops.lean ====
section
/-! SUPPORT. What the shared operations can do, said once each: a later proof cites these and does not unfold them. -/

namespace Sys2Proof.Machine

/-! ## Choosing a trap -/

/-- The trap chosen is one of those met. -/
theorem lowestTrap_mem {ts : List Trap} {x : Trap} (h : lowestTrap ts = some x) : x ∈ ts := by
  induction ts generalizing x with
  | nil => simp [lowestTrap] at h
  | cons t ts ih =>
    simp only [lowestTrap] at h
    cases e : lowestTrap ts with
    | none => simp [e] at h; simp [h]
    | some y =>
      simp only [e] at h
      split at h
      all_goals
        cases h
        first
          | exact List.mem_cons_of_mem _ (ih e)
          | exact List.mem_cons_self ..

/-- No trap is chosen exactly where none is met. -/
theorem lowestTrap_eq_none {ts : List Trap} : lowestTrap ts = none ↔ ts = [] := by
  cases ts with
  | nil => simp [lowestTrap]
  | cons t ts =>
    simp only [lowestTrap]
    cases lowestTrap ts with
    | none => simp
    | some y => simp; split <;> simp

/-! ## Waiting and answering -/

/-- A release goes on with the team running once its earlier accesses are complete, else only the wait is recorded. -/
theorem released_cases (s : State) (scope : Nat) (go : State → Res) :
    (s.accessesDone s.cur.uid s.nextSeq scope = true ∧ s.released scope go = go s.unpark) ∨
      (s.accessesDone s.cur.uid s.nextSeq scope = false ∧ s.released scope go = s.parkOn .access) := by
  unfold State.released
  cases h : s.accessesDone s.cur.uid s.nextSeq scope <;> simp

/-- A status goes to a scalar register and to nothing else. -/
theorem putStatus_cases (s : State) (d : Code) (x : Word) :
    (isS d = true ∧ s.putStatus d x = .done (s.setCur (s.cur.sset (sNum d) x))) ∨
      (isS d = false ∧ s.putStatus d x = .done s) := by
  unfold State.putStatus
  cases h : isS d <;> simp

/-- A scalar destination receives the leader's value. -/
theorem writeDest_scalar {s : State} {pair : Bool} {d : Code} {w : LaneWords} {ws : List LaneWords}
    (hv : isV d = false) (hs : isS d = true) :
    s.writeDest pair d (w :: ws) = .done (s.setCur (s.cur.srun (sNum d) w.2)) := by
  simp only [State.writeDest, hv, hs, Bool.false_eq_true, if_false, if_true, List.head?_cons]
  rfl

/-- A destination that is no register keeps nothing. -/
theorem writeDest_none {s : State} {pair : Bool} {d : Code} {ws : List LaneWords} (hv : isV d = false) (hs : isS d = false) :
    s.writeDest pair d ws = .done s := by
  simp only [State.writeDest, hv, hs, Bool.false_eq_true, if_false]
  rfl

/-! ## Packets -/

/-- Acting on the selected packet leaves the state as it is, or takes the packet, of that operation and with nothing
before it that it must follow, out of the queue. -/
theorem onPacket_cases (s : State) (op : Nat) (go : Packet → State → Option State) :
    s.onPacket op go = s ∨
      ∃ k t, s.fab.rx[s.sel]? = some k ∧ k.op = op ∧ (s.fab.rx.take s.sel).any (fun j => keepsOrder j k) = false ∧
        go k { s with fab := { s.fab with rx := s.fab.rx.eraseIdx s.sel } } = some t ∧ s.onPacket op go = t := by
  simp only [State.onPacket]
  split
  · exact .inl rfl
  · next k hk =>
    split
    · exact .inl rfl
    · next hc =>
      rw [Bool.or_eq_true, not_or] at hc
      cases hg : go k { s with fab := { s.fab with rx := s.fab.rx.eraseIdx s.sel } } with
      | none => exact .inl (by simp)
      | some t =>
        refine .inr ⟨k, t, hk, by simpa using hc.1, by simpa using hc.2, hg, by simp⟩

/-- An access at the home: refused where the line is no memory of this device, put off while it is locked or a host holds
it, else made with every copy recalled. -/
theorem atHome_cases (s : State) (k : Packet) (shared : Bool) (go : State → State) :
    (s.homed k = false ∧ s.atHome k shared go = some (s.refuse k)) ∨ (s.homed k = true ∧ s.atHome k shared go = none) ∨
      (s.homed k = true ∧ s.locked (lineOf k.pa) = false ∧
        s.atHome k shared go = some (go (s.recallCopies (lineOf k.pa * 128) 128))) := by
  unfold State.atHome
  cases hh : s.homed k
  · simp
  · cases hl : s.locked (lineOf k.pa)
    · cases shared
      · cases s.hostHeld (lineOf k.pa) <;> simp [hl]
      · cases s.hostOwned (lineOf k.pa) <;> simp [hl]
    · simp [hl]

/-- An access to a home that has the memory, unlocked and with no host holding the line, is made. -/
theorem atHome_made {s : State} {k : Packet} {shared : Bool} {go : State → State} (hh : s.homed k = true)
    (hl : s.locked (lineOf k.pa) = false) (hs : (if shared then s.hostOwned (lineOf k.pa) else s.hostHeld (lineOf k.pa)) = false) :
    s.atHome k shared go = some (go (s.recallCopies (lineOf k.pa * 128) 128)) := by
  simp [State.atHome, hh, hl, hs]

/-- An attempt is acted on only while it is active and its launch is held. -/
theorem onAttempt_cases (s : State) (go : Launch → Attempt → State) :
    s.onAttempt go = s ∨
      ∃ a l, s.fab.attempts[s.sel]? = some a ∧ s.launch? a.launch = some l ∧ a.active = true ∧ s.onAttempt go = go l a := by
  unfold State.onAttempt
  split
  · exact .inl rfl
  · next a ha =>
    split
    · exact .inl rfl
    · next l hl =>
      cases h : a.active
      · exact .inl (by simp)
      · exact .inr ⟨a, l, ha, hl, h, by simp⟩

/-! ## Links and hosts -/

/-- A flit at a port that is down does nothing; one that fails its checks is noted for a retry; any other is taken. -/
theorem receive_cases (s : State) (n : Nat) (f : Flit) (type : Nat) (go : State → State) :
    ((s.port n).up = false ∧ s.receive n f type go = s) ∨
      ((s.port n).up = true ∧ (f.crcOk = false ∨ f.type ≠ type ∨ f.seq ≠ (s.port n).rxSeq) ∧
        s.receive n f type go = s.noteRetry n) ∨
      ((s.port n).up = true ∧ f.crcOk = true ∧ f.type = type ∧ f.seq = (s.port n).rxSeq ∧
        s.receive n f type go = (go (s.setPort n ((s.port n).takeHeader f))).pumpPort n) := by
  unfold State.receive
  cases hu : (s.port n).up
  · exact .inl (by simp [hu])
  · refine .inr ?_
    by_cases h : f.crcOk = true ∧ f.type = type ∧ f.seq = (s.port n).rxSeq
    · exact .inr (by simp [hu, h])
    · refine .inl ⟨rfl, ?_, ?_⟩
      · cases hc : f.crcOk <;> simp_all
        tauto
      · have : (!f.crcOk || decide (f.type ≠ type) || decide (f.seq ≠ (s.port n).rxSeq)) = true := by
          cases hc : f.crcOk <;> simp_all
          tauto
        simp only [hu, this]; rfl

/-- A host's access does nothing outside its window, is refused where the line is not the host's to use, else made. -/
theorem inHostWindow_cases (s : State) (port line half : Nat) (read : Bool) (go : State → State) :
    s.inHostWindow port line half read go = s ∨
      (s.modeOfPa (line * 128) ≠ 0 ∧
        s.inHostWindow port line half read go = s.refuseHost port (line * 128 + 64 * half) read) ∨
      (s.hostUp port = true ∧ half < 2 ∧ (s.hostPort port).inWindow (line * 128) = true ∧ s.backed (line * 128) 128 = true ∧
        s.modeOfPa (line * 128) = 0 ∧ s.inHostWindow port line half read go = go s) := by
  simp only [State.inHostWindow]
  split
  · exact .inl rfl
  · next hc =>
    simp only [Bool.or_eq_true, not_or, Bool.not_eq_true', Bool.not_eq_true, decide_eq_false_iff_not, Nat.not_le] at hc
    split
    · next hm => exact .inr (.inl ⟨hm, rfl⟩)
    · next hm =>
      refine .inr (.inr ⟨?_, ?_, ?_, ?_, by simpa using hm, rfl⟩) <;> simp_all


/-! ## One step -/

/-- A step answers a next state whenever the instruction it selects does. -/
theorem step_next {s t u : State} {i : Instr} (h : s.tick.select = (t, some i)) (he : exec i t = .next u) :
    step s = .next u.settle := by
  simp [step, h, he, settled]

/-- A step with nothing to execute only lets what follows of its own accord settle. -/
theorem step_idle {s t : State} (h : s.tick.select = (t, none)) : step s = .next t.settle := by
  simp [step, h]

/-- What a step that goes on has done. -/
theorem step_cases {s t : State} (h : step s = .next t) :
    (∃ u i v, s.tick.select = (u, some i) ∧ exec i u = .next v ∧ t = v.settle) ∨
      (∃ u, s.tick.select = (u, none) ∧ t = u.settle) := by
  unfold step at h
  split at h
  · next u i hs =>
    cases he : exec i u with
    | next v => exact .inl ⟨u, i, v, hs, he, by simp [he, settled] at h; exact h.symm⟩
    | fault f => simp [he, settled] at h
    | refused r => simp [he, settled] at h
  · next u hs => exact .inr ⟨u, hs, by simpa using h.symm⟩

end Sys2Proof.Machine
end

