-- ==== Sys2Proof/Laws/State.lean ====
section
/-! SUPPORT. What each update of the state leaves in each field, so that no proof unfolds a record update. -/

namespace Sys2Proof.Machine

/-! ## setCur -/

@[simp] theorem State.setCur_cur (s : State) (t : Team) : (s.setCur t).cur = t := rfl
@[simp] theorem State.setCur_others (s : State) (t : Team) : (s.setCur t).others = s.others := rfl
@[simp] theorem State.setCur_issuer (s : State) (t : Team) : (s.setCur t).issuer = s.issuer := rfl
@[simp] theorem State.setCur_wgs (s : State) (t : Team) : (s.setCur t).wgs = s.wgs := rfl
@[simp] theorem State.setCur_cores (s : State) (t : Team) : (s.setCur t).cores = s.cores := rfl
@[simp] theorem State.setCur_claims (s : State) (t : Team) : (s.setCur t).claims = s.claims := rfl
@[simp] theorem State.setCur_progs (s : State) (t : Team) : (s.setCur t).progs = s.progs := rfl
@[simp] theorem State.setCur_matrix (s : State) (t : Team) : (s.setCur t).matrix = s.matrix := rfl
@[simp] theorem State.setCur_tiles (s : State) (t : Team) : (s.setCur t).tiles = s.tiles := rfl
@[simp] theorem State.setCur_tilePoison (s : State) (t : Team) : (s.setCur t).tilePoison = s.tilePoison := rfl
@[simp] theorem State.setCur_freed (s : State) (t : Team) : (s.setCur t).freed = s.freed := rfl
@[simp] theorem State.setCur_loads (s : State) (t : Team) : (s.setCur t).loads = s.loads := rfl
@[simp] theorem State.setCur_path (s : State) (t : Team) : (s.setCur t).path = s.path := rfl
@[simp] theorem State.setCur_xfers (s : State) (t : Team) : (s.setCur t).xfers = s.xfers := rfl
@[simp] theorem State.setCur_batches (s : State) (t : Team) : (s.setCur t).batches = s.batches := rfl
@[simp] theorem State.setCur_mem (s : State) (t : Team) : (s.setCur t).mem = s.mem := rfl
@[simp] theorem State.setCur_poison (s : State) (t : Team) : (s.setCur t).poison = s.poison := rfl
@[simp] theorem State.setCur_barriers (s : State) (t : Team) : (s.setCur t).barriers = s.barriers := rfl
@[simp] theorem State.setCur_coh (s : State) (t : Team) : (s.setCur t).coh = s.coh := rfl
@[simp] theorem State.setCur_dies (s : State) (t : Team) : (s.setCur t).dies = s.dies := rfl
@[simp] theorem State.setCur_tlb (s : State) (t : Team) : (s.setCur t).tlb = s.tlb := rfl
@[simp] theorem State.setCur_pageReqs (s : State) (t : Team) : (s.setCur t).pageReqs = s.pageReqs := rfl
@[simp] theorem State.setCur_switches (s : State) (t : Team) : (s.setCur t).switches = s.switches := rfl
@[simp] theorem State.setCur_ctxs (s : State) (t : Team) : (s.setCur t).ctxs = s.ctxs := rfl
@[simp] theorem State.setCur_launches (s : State) (t : Team) : (s.setCur t).launches = s.launches := rfl
@[simp] theorem State.setCur_children (s : State) (t : Team) : (s.setCur t).children = s.children := rfl
@[simp] theorem State.setCur_anns (s : State) (t : Team) : (s.setCur t).anns = s.anns := rfl
@[simp] theorem State.setCur_pointer (s : State) (t : Team) : (s.setCur t).pointer = s.pointer := rfl
@[simp] theorem State.setCur_served (s : State) (t : Team) : (s.setCur t).served = s.served := rfl
@[simp] theorem State.setCur_ports (s : State) (t : Team) : (s.setCur t).ports = s.ports := rfl
@[simp] theorem State.setCur_handover (s : State) (t : Team) : (s.setCur t).handover = s.handover := rfl
@[simp] theorem State.setCur_passes (s : State) (t : Team) : (s.setCur t).passes = s.passes := rfl
@[simp] theorem State.setCur_tierSize (s : State) (t : Team) : (s.setCur t).tierSize = s.tierSize := rfl
@[simp] theorem State.setCur_hostSize (s : State) (t : Team) : (s.setCur t).hostSize = s.hostSize := rfl
@[simp] theorem State.setCur_svc (s : State) (t : Team) : (s.setCur t).svc = s.svc := rfl
@[simp] theorem State.setCur_fab (s : State) (t : Team) : (s.setCur t).fab = s.fab := rfl
@[simp] theorem State.setCur_cycle (s : State) (t : Team) : (s.setCur t).cycle = s.cycle := rfl
@[simp] theorem State.setCur_ticks (s : State) (t : Team) : (s.setCur t).ticks = s.ticks := rfl
@[simp] theorem State.setCur_agenda (s : State) (t : Team) : (s.setCur t).agenda = s.agenda := rfl
@[simp] theorem State.setCur_sel (s : State) (t : Team) : (s.setCur t).sel = s.sel := rfl
@[simp] theorem State.setCur_fresh (s : State) (t : Team) : (s.setCur t).fresh = s.fresh := rfl
@[simp] theorem State.setCur_nextUid (s : State) (t : Team) : (s.setCur t).nextUid = s.nextUid := rfl
@[simp] theorem State.setCur_nextSeq (s : State) (t : Team) : (s.setCur t).nextSeq = s.nextSeq := rfl

/-! ## setCore -/

@[simp] theorem State.setCore_cur (s : State) (c : Nat) (x : Core) : (s.setCore c x).cur = s.cur := rfl
@[simp] theorem State.setCore_others (s : State) (c : Nat) (x : Core) : (s.setCore c x).others = s.others := rfl
@[simp] theorem State.setCore_issuer (s : State) (c : Nat) (x : Core) : (s.setCore c x).issuer = s.issuer := rfl
@[simp] theorem State.setCore_wgs (s : State) (c : Nat) (x : Core) : (s.setCore c x).wgs = s.wgs := rfl
@[simp] theorem State.setCore_cores (s : State) (c : Nat) (x : Core) : (s.setCore c x).cores = tset Core.reset s.cores c x := rfl
@[simp] theorem State.setCore_claims (s : State) (c : Nat) (x : Core) : (s.setCore c x).claims = s.claims := rfl
@[simp] theorem State.setCore_progs (s : State) (c : Nat) (x : Core) : (s.setCore c x).progs = s.progs := rfl
@[simp] theorem State.setCore_matrix (s : State) (c : Nat) (x : Core) : (s.setCore c x).matrix = s.matrix := rfl
@[simp] theorem State.setCore_tiles (s : State) (c : Nat) (x : Core) : (s.setCore c x).tiles = s.tiles := rfl
@[simp] theorem State.setCore_tilePoison (s : State) (c : Nat) (x : Core) : (s.setCore c x).tilePoison = s.tilePoison := rfl
@[simp] theorem State.setCore_freed (s : State) (c : Nat) (x : Core) : (s.setCore c x).freed = s.freed := rfl
@[simp] theorem State.setCore_loads (s : State) (c : Nat) (x : Core) : (s.setCore c x).loads = s.loads := rfl
@[simp] theorem State.setCore_path (s : State) (c : Nat) (x : Core) : (s.setCore c x).path = s.path := rfl
@[simp] theorem State.setCore_xfers (s : State) (c : Nat) (x : Core) : (s.setCore c x).xfers = s.xfers := rfl
@[simp] theorem State.setCore_batches (s : State) (c : Nat) (x : Core) : (s.setCore c x).batches = s.batches := rfl
@[simp] theorem State.setCore_mem (s : State) (c : Nat) (x : Core) : (s.setCore c x).mem = s.mem := rfl
@[simp] theorem State.setCore_poison (s : State) (c : Nat) (x : Core) : (s.setCore c x).poison = s.poison := rfl
@[simp] theorem State.setCore_barriers (s : State) (c : Nat) (x : Core) : (s.setCore c x).barriers = s.barriers := rfl
@[simp] theorem State.setCore_coh (s : State) (c : Nat) (x : Core) : (s.setCore c x).coh = s.coh := rfl
@[simp] theorem State.setCore_dies (s : State) (c : Nat) (x : Core) : (s.setCore c x).dies = s.dies := rfl
@[simp] theorem State.setCore_tlb (s : State) (c : Nat) (x : Core) : (s.setCore c x).tlb = s.tlb := rfl
@[simp] theorem State.setCore_pageReqs (s : State) (c : Nat) (x : Core) : (s.setCore c x).pageReqs = s.pageReqs := rfl
@[simp] theorem State.setCore_switches (s : State) (c : Nat) (x : Core) : (s.setCore c x).switches = s.switches := rfl
@[simp] theorem State.setCore_ctxs (s : State) (c : Nat) (x : Core) : (s.setCore c x).ctxs = s.ctxs := rfl
@[simp] theorem State.setCore_launches (s : State) (c : Nat) (x : Core) : (s.setCore c x).launches = s.launches := rfl
@[simp] theorem State.setCore_children (s : State) (c : Nat) (x : Core) : (s.setCore c x).children = s.children := rfl
@[simp] theorem State.setCore_anns (s : State) (c : Nat) (x : Core) : (s.setCore c x).anns = s.anns := rfl
@[simp] theorem State.setCore_pointer (s : State) (c : Nat) (x : Core) : (s.setCore c x).pointer = s.pointer := rfl
@[simp] theorem State.setCore_served (s : State) (c : Nat) (x : Core) : (s.setCore c x).served = s.served := rfl
@[simp] theorem State.setCore_ports (s : State) (c : Nat) (x : Core) : (s.setCore c x).ports = s.ports := rfl
@[simp] theorem State.setCore_handover (s : State) (c : Nat) (x : Core) : (s.setCore c x).handover = s.handover := rfl
@[simp] theorem State.setCore_passes (s : State) (c : Nat) (x : Core) : (s.setCore c x).passes = s.passes := rfl
@[simp] theorem State.setCore_tierSize (s : State) (c : Nat) (x : Core) : (s.setCore c x).tierSize = s.tierSize := rfl
@[simp] theorem State.setCore_hostSize (s : State) (c : Nat) (x : Core) : (s.setCore c x).hostSize = s.hostSize := rfl
@[simp] theorem State.setCore_svc (s : State) (c : Nat) (x : Core) : (s.setCore c x).svc = s.svc := rfl
@[simp] theorem State.setCore_fab (s : State) (c : Nat) (x : Core) : (s.setCore c x).fab = s.fab := rfl
@[simp] theorem State.setCore_cycle (s : State) (c : Nat) (x : Core) : (s.setCore c x).cycle = s.cycle := rfl
@[simp] theorem State.setCore_ticks (s : State) (c : Nat) (x : Core) : (s.setCore c x).ticks = s.ticks := rfl
@[simp] theorem State.setCore_agenda (s : State) (c : Nat) (x : Core) : (s.setCore c x).agenda = s.agenda := rfl
@[simp] theorem State.setCore_sel (s : State) (c : Nat) (x : Core) : (s.setCore c x).sel = s.sel := rfl
@[simp] theorem State.setCore_fresh (s : State) (c : Nat) (x : Core) : (s.setCore c x).fresh = s.fresh := rfl
@[simp] theorem State.setCore_nextUid (s : State) (c : Nat) (x : Core) : (s.setCore c x).nextUid = s.nextUid := rfl
@[simp] theorem State.setCore_nextSeq (s : State) (c : Nat) (x : Core) : (s.setCore c x).nextSeq = s.nextSeq := rfl

/-! ## setCtx -/

@[simp] theorem State.setCtx_cur (s : State) (c : Nat) (x : Context) : (s.setCtx c x).cur = s.cur := rfl
@[simp] theorem State.setCtx_others (s : State) (c : Nat) (x : Context) : (s.setCtx c x).others = s.others := rfl
@[simp] theorem State.setCtx_issuer (s : State) (c : Nat) (x : Context) : (s.setCtx c x).issuer = s.issuer := rfl
@[simp] theorem State.setCtx_wgs (s : State) (c : Nat) (x : Context) : (s.setCtx c x).wgs = s.wgs := rfl
@[simp] theorem State.setCtx_cores (s : State) (c : Nat) (x : Context) : (s.setCtx c x).cores = s.cores := rfl
@[simp] theorem State.setCtx_claims (s : State) (c : Nat) (x : Context) : (s.setCtx c x).claims = s.claims := rfl
@[simp] theorem State.setCtx_progs (s : State) (c : Nat) (x : Context) : (s.setCtx c x).progs = s.progs := rfl
@[simp] theorem State.setCtx_matrix (s : State) (c : Nat) (x : Context) : (s.setCtx c x).matrix = s.matrix := rfl
@[simp] theorem State.setCtx_tiles (s : State) (c : Nat) (x : Context) : (s.setCtx c x).tiles = s.tiles := rfl
@[simp] theorem State.setCtx_tilePoison (s : State) (c : Nat) (x : Context) : (s.setCtx c x).tilePoison = s.tilePoison := rfl
@[simp] theorem State.setCtx_freed (s : State) (c : Nat) (x : Context) : (s.setCtx c x).freed = s.freed := rfl
@[simp] theorem State.setCtx_loads (s : State) (c : Nat) (x : Context) : (s.setCtx c x).loads = s.loads := rfl
@[simp] theorem State.setCtx_path (s : State) (c : Nat) (x : Context) : (s.setCtx c x).path = s.path := rfl
@[simp] theorem State.setCtx_xfers (s : State) (c : Nat) (x : Context) : (s.setCtx c x).xfers = s.xfers := rfl
@[simp] theorem State.setCtx_batches (s : State) (c : Nat) (x : Context) : (s.setCtx c x).batches = s.batches := rfl
@[simp] theorem State.setCtx_mem (s : State) (c : Nat) (x : Context) : (s.setCtx c x).mem = s.mem := rfl
@[simp] theorem State.setCtx_poison (s : State) (c : Nat) (x : Context) : (s.setCtx c x).poison = s.poison := rfl
@[simp] theorem State.setCtx_barriers (s : State) (c : Nat) (x : Context) : (s.setCtx c x).barriers = s.barriers := rfl
@[simp] theorem State.setCtx_coh (s : State) (c : Nat) (x : Context) : (s.setCtx c x).coh = s.coh := rfl
@[simp] theorem State.setCtx_dies (s : State) (c : Nat) (x : Context) : (s.setCtx c x).dies = s.dies := rfl
@[simp] theorem State.setCtx_tlb (s : State) (c : Nat) (x : Context) : (s.setCtx c x).tlb = s.tlb := rfl
@[simp] theorem State.setCtx_pageReqs (s : State) (c : Nat) (x : Context) : (s.setCtx c x).pageReqs = s.pageReqs := rfl
@[simp] theorem State.setCtx_switches (s : State) (c : Nat) (x : Context) : (s.setCtx c x).switches = s.switches := rfl
@[simp] theorem State.setCtx_ctxs (s : State) (c : Nat) (x : Context) : (s.setCtx c x).ctxs = tset Context.reset s.ctxs c x := rfl
@[simp] theorem State.setCtx_launches (s : State) (c : Nat) (x : Context) : (s.setCtx c x).launches = s.launches := rfl
@[simp] theorem State.setCtx_children (s : State) (c : Nat) (x : Context) : (s.setCtx c x).children = s.children := rfl
@[simp] theorem State.setCtx_anns (s : State) (c : Nat) (x : Context) : (s.setCtx c x).anns = s.anns := rfl
@[simp] theorem State.setCtx_pointer (s : State) (c : Nat) (x : Context) : (s.setCtx c x).pointer = s.pointer := rfl
@[simp] theorem State.setCtx_served (s : State) (c : Nat) (x : Context) : (s.setCtx c x).served = s.served := rfl
@[simp] theorem State.setCtx_ports (s : State) (c : Nat) (x : Context) : (s.setCtx c x).ports = s.ports := rfl
@[simp] theorem State.setCtx_handover (s : State) (c : Nat) (x : Context) : (s.setCtx c x).handover = s.handover := rfl
@[simp] theorem State.setCtx_passes (s : State) (c : Nat) (x : Context) : (s.setCtx c x).passes = s.passes := rfl
@[simp] theorem State.setCtx_tierSize (s : State) (c : Nat) (x : Context) : (s.setCtx c x).tierSize = s.tierSize := rfl
@[simp] theorem State.setCtx_hostSize (s : State) (c : Nat) (x : Context) : (s.setCtx c x).hostSize = s.hostSize := rfl
@[simp] theorem State.setCtx_svc (s : State) (c : Nat) (x : Context) : (s.setCtx c x).svc = s.svc := rfl
@[simp] theorem State.setCtx_fab (s : State) (c : Nat) (x : Context) : (s.setCtx c x).fab = s.fab := rfl
@[simp] theorem State.setCtx_cycle (s : State) (c : Nat) (x : Context) : (s.setCtx c x).cycle = s.cycle := rfl
@[simp] theorem State.setCtx_ticks (s : State) (c : Nat) (x : Context) : (s.setCtx c x).ticks = s.ticks := rfl
@[simp] theorem State.setCtx_agenda (s : State) (c : Nat) (x : Context) : (s.setCtx c x).agenda = s.agenda := rfl
@[simp] theorem State.setCtx_sel (s : State) (c : Nat) (x : Context) : (s.setCtx c x).sel = s.sel := rfl
@[simp] theorem State.setCtx_fresh (s : State) (c : Nat) (x : Context) : (s.setCtx c x).fresh = s.fresh := rfl
@[simp] theorem State.setCtx_nextUid (s : State) (c : Nat) (x : Context) : (s.setCtx c x).nextUid = s.nextUid := rfl
@[simp] theorem State.setCtx_nextSeq (s : State) (c : Nat) (x : Context) : (s.setCtx c x).nextSeq = s.nextSeq := rfl

/-! ## setDie -/

@[simp] theorem State.setDie_cur (s : State) (d : Nat) (x : Die) : (s.setDie d x).cur = s.cur := rfl
@[simp] theorem State.setDie_others (s : State) (d : Nat) (x : Die) : (s.setDie d x).others = s.others := rfl
@[simp] theorem State.setDie_issuer (s : State) (d : Nat) (x : Die) : (s.setDie d x).issuer = s.issuer := rfl
@[simp] theorem State.setDie_wgs (s : State) (d : Nat) (x : Die) : (s.setDie d x).wgs = s.wgs := rfl
@[simp] theorem State.setDie_cores (s : State) (d : Nat) (x : Die) : (s.setDie d x).cores = s.cores := rfl
@[simp] theorem State.setDie_claims (s : State) (d : Nat) (x : Die) : (s.setDie d x).claims = s.claims := rfl
@[simp] theorem State.setDie_progs (s : State) (d : Nat) (x : Die) : (s.setDie d x).progs = s.progs := rfl
@[simp] theorem State.setDie_matrix (s : State) (d : Nat) (x : Die) : (s.setDie d x).matrix = s.matrix := rfl
@[simp] theorem State.setDie_tiles (s : State) (d : Nat) (x : Die) : (s.setDie d x).tiles = s.tiles := rfl
@[simp] theorem State.setDie_tilePoison (s : State) (d : Nat) (x : Die) : (s.setDie d x).tilePoison = s.tilePoison := rfl
@[simp] theorem State.setDie_freed (s : State) (d : Nat) (x : Die) : (s.setDie d x).freed = s.freed := rfl
@[simp] theorem State.setDie_loads (s : State) (d : Nat) (x : Die) : (s.setDie d x).loads = s.loads := rfl
@[simp] theorem State.setDie_path (s : State) (d : Nat) (x : Die) : (s.setDie d x).path = s.path := rfl
@[simp] theorem State.setDie_xfers (s : State) (d : Nat) (x : Die) : (s.setDie d x).xfers = s.xfers := rfl
@[simp] theorem State.setDie_batches (s : State) (d : Nat) (x : Die) : (s.setDie d x).batches = s.batches := rfl
@[simp] theorem State.setDie_mem (s : State) (d : Nat) (x : Die) : (s.setDie d x).mem = s.mem := rfl
@[simp] theorem State.setDie_poison (s : State) (d : Nat) (x : Die) : (s.setDie d x).poison = s.poison := rfl
@[simp] theorem State.setDie_barriers (s : State) (d : Nat) (x : Die) : (s.setDie d x).barriers = s.barriers := rfl
@[simp] theorem State.setDie_coh (s : State) (d : Nat) (x : Die) : (s.setDie d x).coh = s.coh := rfl
@[simp] theorem State.setDie_dies (s : State) (d : Nat) (x : Die) : (s.setDie d x).dies = tset Die.reset s.dies d x := rfl
@[simp] theorem State.setDie_tlb (s : State) (d : Nat) (x : Die) : (s.setDie d x).tlb = s.tlb := rfl
@[simp] theorem State.setDie_pageReqs (s : State) (d : Nat) (x : Die) : (s.setDie d x).pageReqs = s.pageReqs := rfl
@[simp] theorem State.setDie_switches (s : State) (d : Nat) (x : Die) : (s.setDie d x).switches = s.switches := rfl
@[simp] theorem State.setDie_ctxs (s : State) (d : Nat) (x : Die) : (s.setDie d x).ctxs = s.ctxs := rfl
@[simp] theorem State.setDie_launches (s : State) (d : Nat) (x : Die) : (s.setDie d x).launches = s.launches := rfl
@[simp] theorem State.setDie_children (s : State) (d : Nat) (x : Die) : (s.setDie d x).children = s.children := rfl
@[simp] theorem State.setDie_anns (s : State) (d : Nat) (x : Die) : (s.setDie d x).anns = s.anns := rfl
@[simp] theorem State.setDie_pointer (s : State) (d : Nat) (x : Die) : (s.setDie d x).pointer = s.pointer := rfl
@[simp] theorem State.setDie_served (s : State) (d : Nat) (x : Die) : (s.setDie d x).served = s.served := rfl
@[simp] theorem State.setDie_ports (s : State) (d : Nat) (x : Die) : (s.setDie d x).ports = s.ports := rfl
@[simp] theorem State.setDie_handover (s : State) (d : Nat) (x : Die) : (s.setDie d x).handover = s.handover := rfl
@[simp] theorem State.setDie_passes (s : State) (d : Nat) (x : Die) : (s.setDie d x).passes = s.passes := rfl
@[simp] theorem State.setDie_tierSize (s : State) (d : Nat) (x : Die) : (s.setDie d x).tierSize = s.tierSize := rfl
@[simp] theorem State.setDie_hostSize (s : State) (d : Nat) (x : Die) : (s.setDie d x).hostSize = s.hostSize := rfl
@[simp] theorem State.setDie_svc (s : State) (d : Nat) (x : Die) : (s.setDie d x).svc = s.svc := rfl
@[simp] theorem State.setDie_fab (s : State) (d : Nat) (x : Die) : (s.setDie d x).fab = s.fab := rfl
@[simp] theorem State.setDie_cycle (s : State) (d : Nat) (x : Die) : (s.setDie d x).cycle = s.cycle := rfl
@[simp] theorem State.setDie_ticks (s : State) (d : Nat) (x : Die) : (s.setDie d x).ticks = s.ticks := rfl
@[simp] theorem State.setDie_agenda (s : State) (d : Nat) (x : Die) : (s.setDie d x).agenda = s.agenda := rfl
@[simp] theorem State.setDie_sel (s : State) (d : Nat) (x : Die) : (s.setDie d x).sel = s.sel := rfl
@[simp] theorem State.setDie_fresh (s : State) (d : Nat) (x : Die) : (s.setDie d x).fresh = s.fresh := rfl
@[simp] theorem State.setDie_nextUid (s : State) (d : Nat) (x : Die) : (s.setDie d x).nextUid = s.nextUid := rfl
@[simp] theorem State.setDie_nextSeq (s : State) (d : Nat) (x : Die) : (s.setDie d x).nextSeq = s.nextSeq := rfl

/-! ## setHostPort -/

@[simp] theorem State.setHostPort_cur (s : State) (p : Nat) (x : HostPort) : (s.setHostPort p x).cur = s.cur := rfl
@[simp] theorem State.setHostPort_others (s : State) (p : Nat) (x : HostPort) : (s.setHostPort p x).others = s.others := rfl
@[simp] theorem State.setHostPort_issuer (s : State) (p : Nat) (x : HostPort) : (s.setHostPort p x).issuer = s.issuer := rfl
@[simp] theorem State.setHostPort_wgs (s : State) (p : Nat) (x : HostPort) : (s.setHostPort p x).wgs = s.wgs := rfl
@[simp] theorem State.setHostPort_cores (s : State) (p : Nat) (x : HostPort) : (s.setHostPort p x).cores = s.cores := rfl
@[simp] theorem State.setHostPort_claims (s : State) (p : Nat) (x : HostPort) : (s.setHostPort p x).claims = s.claims := rfl
@[simp] theorem State.setHostPort_progs (s : State) (p : Nat) (x : HostPort) : (s.setHostPort p x).progs = s.progs := rfl
@[simp] theorem State.setHostPort_matrix (s : State) (p : Nat) (x : HostPort) : (s.setHostPort p x).matrix = s.matrix := rfl
@[simp] theorem State.setHostPort_tiles (s : State) (p : Nat) (x : HostPort) : (s.setHostPort p x).tiles = s.tiles := rfl
@[simp] theorem State.setHostPort_tilePoison (s : State) (p : Nat) (x : HostPort) : (s.setHostPort p x).tilePoison = s.tilePoison := rfl
@[simp] theorem State.setHostPort_freed (s : State) (p : Nat) (x : HostPort) : (s.setHostPort p x).freed = s.freed := rfl
@[simp] theorem State.setHostPort_loads (s : State) (p : Nat) (x : HostPort) : (s.setHostPort p x).loads = s.loads := rfl
@[simp] theorem State.setHostPort_path (s : State) (p : Nat) (x : HostPort) : (s.setHostPort p x).path = s.path := rfl
@[simp] theorem State.setHostPort_xfers (s : State) (p : Nat) (x : HostPort) : (s.setHostPort p x).xfers = s.xfers := rfl
@[simp] theorem State.setHostPort_batches (s : State) (p : Nat) (x : HostPort) : (s.setHostPort p x).batches = s.batches := rfl
@[simp] theorem State.setHostPort_mem (s : State) (p : Nat) (x : HostPort) : (s.setHostPort p x).mem = s.mem := rfl
@[simp] theorem State.setHostPort_poison (s : State) (p : Nat) (x : HostPort) : (s.setHostPort p x).poison = s.poison := rfl
@[simp] theorem State.setHostPort_barriers (s : State) (p : Nat) (x : HostPort) : (s.setHostPort p x).barriers = s.barriers := rfl
@[simp] theorem State.setHostPort_coh (s : State) (p : Nat) (x : HostPort) : (s.setHostPort p x).coh = s.coh := rfl
@[simp] theorem State.setHostPort_dies (s : State) (p : Nat) (x : HostPort) : (s.setHostPort p x).dies = s.dies := rfl
@[simp] theorem State.setHostPort_tlb (s : State) (p : Nat) (x : HostPort) : (s.setHostPort p x).tlb = s.tlb := rfl
@[simp] theorem State.setHostPort_pageReqs (s : State) (p : Nat) (x : HostPort) : (s.setHostPort p x).pageReqs = s.pageReqs := rfl
@[simp] theorem State.setHostPort_switches (s : State) (p : Nat) (x : HostPort) : (s.setHostPort p x).switches = s.switches := rfl
@[simp] theorem State.setHostPort_ctxs (s : State) (p : Nat) (x : HostPort) : (s.setHostPort p x).ctxs = s.ctxs := rfl
@[simp] theorem State.setHostPort_launches (s : State) (p : Nat) (x : HostPort) : (s.setHostPort p x).launches = s.launches := rfl
@[simp] theorem State.setHostPort_children (s : State) (p : Nat) (x : HostPort) : (s.setHostPort p x).children = s.children := rfl
@[simp] theorem State.setHostPort_anns (s : State) (p : Nat) (x : HostPort) : (s.setHostPort p x).anns = s.anns := rfl
@[simp] theorem State.setHostPort_pointer (s : State) (p : Nat) (x : HostPort) : (s.setHostPort p x).pointer = s.pointer := rfl
@[simp] theorem State.setHostPort_served (s : State) (p : Nat) (x : HostPort) : (s.setHostPort p x).served = s.served := rfl
@[simp] theorem State.setHostPort_ports (s : State) (p : Nat) (x : HostPort) : (s.setHostPort p x).ports = tset HostPort.reset s.ports p x := rfl
@[simp] theorem State.setHostPort_handover (s : State) (p : Nat) (x : HostPort) : (s.setHostPort p x).handover = s.handover := rfl
@[simp] theorem State.setHostPort_passes (s : State) (p : Nat) (x : HostPort) : (s.setHostPort p x).passes = s.passes := rfl
@[simp] theorem State.setHostPort_tierSize (s : State) (p : Nat) (x : HostPort) : (s.setHostPort p x).tierSize = s.tierSize := rfl
@[simp] theorem State.setHostPort_hostSize (s : State) (p : Nat) (x : HostPort) : (s.setHostPort p x).hostSize = s.hostSize := rfl
@[simp] theorem State.setHostPort_svc (s : State) (p : Nat) (x : HostPort) : (s.setHostPort p x).svc = s.svc := rfl
@[simp] theorem State.setHostPort_fab (s : State) (p : Nat) (x : HostPort) : (s.setHostPort p x).fab = s.fab := rfl
@[simp] theorem State.setHostPort_cycle (s : State) (p : Nat) (x : HostPort) : (s.setHostPort p x).cycle = s.cycle := rfl
@[simp] theorem State.setHostPort_ticks (s : State) (p : Nat) (x : HostPort) : (s.setHostPort p x).ticks = s.ticks := rfl
@[simp] theorem State.setHostPort_agenda (s : State) (p : Nat) (x : HostPort) : (s.setHostPort p x).agenda = s.agenda := rfl
@[simp] theorem State.setHostPort_sel (s : State) (p : Nat) (x : HostPort) : (s.setHostPort p x).sel = s.sel := rfl
@[simp] theorem State.setHostPort_fresh (s : State) (p : Nat) (x : HostPort) : (s.setHostPort p x).fresh = s.fresh := rfl
@[simp] theorem State.setHostPort_nextUid (s : State) (p : Nat) (x : HostPort) : (s.setHostPort p x).nextUid = s.nextUid := rfl
@[simp] theorem State.setHostPort_nextSeq (s : State) (p : Nat) (x : HostPort) : (s.setHostPort p x).nextSeq = s.nextSeq := rfl

/-! ## modWg -/

@[simp] theorem State.modWg_cur (s : State) (u : Nat) (f : Wg → Wg) : (s.modWg u f).cur = s.cur := rfl
@[simp] theorem State.modWg_others (s : State) (u : Nat) (f : Wg → Wg) : (s.modWg u f).others = s.others := rfl
@[simp] theorem State.modWg_issuer (s : State) (u : Nat) (f : Wg → Wg) : (s.modWg u f).issuer = s.issuer := rfl
@[simp] theorem State.modWg_wgs (s : State) (u : Nat) (f : Wg → Wg) : (s.modWg u f).wgs = s.wgs.map (fun w => if w.uid == u then f w else w) := rfl
@[simp] theorem State.modWg_cores (s : State) (u : Nat) (f : Wg → Wg) : (s.modWg u f).cores = s.cores := rfl
@[simp] theorem State.modWg_claims (s : State) (u : Nat) (f : Wg → Wg) : (s.modWg u f).claims = s.claims := rfl
@[simp] theorem State.modWg_progs (s : State) (u : Nat) (f : Wg → Wg) : (s.modWg u f).progs = s.progs := rfl
@[simp] theorem State.modWg_matrix (s : State) (u : Nat) (f : Wg → Wg) : (s.modWg u f).matrix = s.matrix := rfl
@[simp] theorem State.modWg_tiles (s : State) (u : Nat) (f : Wg → Wg) : (s.modWg u f).tiles = s.tiles := rfl
@[simp] theorem State.modWg_tilePoison (s : State) (u : Nat) (f : Wg → Wg) : (s.modWg u f).tilePoison = s.tilePoison := rfl
@[simp] theorem State.modWg_freed (s : State) (u : Nat) (f : Wg → Wg) : (s.modWg u f).freed = s.freed := rfl
@[simp] theorem State.modWg_loads (s : State) (u : Nat) (f : Wg → Wg) : (s.modWg u f).loads = s.loads := rfl
@[simp] theorem State.modWg_path (s : State) (u : Nat) (f : Wg → Wg) : (s.modWg u f).path = s.path := rfl
@[simp] theorem State.modWg_xfers (s : State) (u : Nat) (f : Wg → Wg) : (s.modWg u f).xfers = s.xfers := rfl
@[simp] theorem State.modWg_batches (s : State) (u : Nat) (f : Wg → Wg) : (s.modWg u f).batches = s.batches := rfl
@[simp] theorem State.modWg_mem (s : State) (u : Nat) (f : Wg → Wg) : (s.modWg u f).mem = s.mem := rfl
@[simp] theorem State.modWg_poison (s : State) (u : Nat) (f : Wg → Wg) : (s.modWg u f).poison = s.poison := rfl
@[simp] theorem State.modWg_barriers (s : State) (u : Nat) (f : Wg → Wg) : (s.modWg u f).barriers = s.barriers := rfl
@[simp] theorem State.modWg_coh (s : State) (u : Nat) (f : Wg → Wg) : (s.modWg u f).coh = s.coh := rfl
@[simp] theorem State.modWg_dies (s : State) (u : Nat) (f : Wg → Wg) : (s.modWg u f).dies = s.dies := rfl
@[simp] theorem State.modWg_tlb (s : State) (u : Nat) (f : Wg → Wg) : (s.modWg u f).tlb = s.tlb := rfl
@[simp] theorem State.modWg_pageReqs (s : State) (u : Nat) (f : Wg → Wg) : (s.modWg u f).pageReqs = s.pageReqs := rfl
@[simp] theorem State.modWg_switches (s : State) (u : Nat) (f : Wg → Wg) : (s.modWg u f).switches = s.switches := rfl
@[simp] theorem State.modWg_ctxs (s : State) (u : Nat) (f : Wg → Wg) : (s.modWg u f).ctxs = s.ctxs := rfl
@[simp] theorem State.modWg_launches (s : State) (u : Nat) (f : Wg → Wg) : (s.modWg u f).launches = s.launches := rfl
@[simp] theorem State.modWg_children (s : State) (u : Nat) (f : Wg → Wg) : (s.modWg u f).children = s.children := rfl
@[simp] theorem State.modWg_anns (s : State) (u : Nat) (f : Wg → Wg) : (s.modWg u f).anns = s.anns := rfl
@[simp] theorem State.modWg_pointer (s : State) (u : Nat) (f : Wg → Wg) : (s.modWg u f).pointer = s.pointer := rfl
@[simp] theorem State.modWg_served (s : State) (u : Nat) (f : Wg → Wg) : (s.modWg u f).served = s.served := rfl
@[simp] theorem State.modWg_ports (s : State) (u : Nat) (f : Wg → Wg) : (s.modWg u f).ports = s.ports := rfl
@[simp] theorem State.modWg_handover (s : State) (u : Nat) (f : Wg → Wg) : (s.modWg u f).handover = s.handover := rfl
@[simp] theorem State.modWg_passes (s : State) (u : Nat) (f : Wg → Wg) : (s.modWg u f).passes = s.passes := rfl
@[simp] theorem State.modWg_tierSize (s : State) (u : Nat) (f : Wg → Wg) : (s.modWg u f).tierSize = s.tierSize := rfl
@[simp] theorem State.modWg_hostSize (s : State) (u : Nat) (f : Wg → Wg) : (s.modWg u f).hostSize = s.hostSize := rfl
@[simp] theorem State.modWg_svc (s : State) (u : Nat) (f : Wg → Wg) : (s.modWg u f).svc = s.svc := rfl
@[simp] theorem State.modWg_fab (s : State) (u : Nat) (f : Wg → Wg) : (s.modWg u f).fab = s.fab := rfl
@[simp] theorem State.modWg_cycle (s : State) (u : Nat) (f : Wg → Wg) : (s.modWg u f).cycle = s.cycle := rfl
@[simp] theorem State.modWg_ticks (s : State) (u : Nat) (f : Wg → Wg) : (s.modWg u f).ticks = s.ticks := rfl
@[simp] theorem State.modWg_agenda (s : State) (u : Nat) (f : Wg → Wg) : (s.modWg u f).agenda = s.agenda := rfl
@[simp] theorem State.modWg_sel (s : State) (u : Nat) (f : Wg → Wg) : (s.modWg u f).sel = s.sel := rfl
@[simp] theorem State.modWg_fresh (s : State) (u : Nat) (f : Wg → Wg) : (s.modWg u f).fresh = s.fresh := rfl
@[simp] theorem State.modWg_nextUid (s : State) (u : Nat) (f : Wg → Wg) : (s.modWg u f).nextUid = s.nextUid := rfl
@[simp] theorem State.modWg_nextSeq (s : State) (u : Nat) (f : Wg → Wg) : (s.modWg u f).nextSeq = s.nextSeq := rfl

/-! ## modLaunch -/

@[simp] theorem State.modLaunch_cur (s : State) (u : Nat) (f : Launch → Launch) : (s.modLaunch u f).cur = s.cur := rfl
@[simp] theorem State.modLaunch_others (s : State) (u : Nat) (f : Launch → Launch) : (s.modLaunch u f).others = s.others := rfl
@[simp] theorem State.modLaunch_issuer (s : State) (u : Nat) (f : Launch → Launch) : (s.modLaunch u f).issuer = s.issuer := rfl
@[simp] theorem State.modLaunch_wgs (s : State) (u : Nat) (f : Launch → Launch) : (s.modLaunch u f).wgs = s.wgs := rfl
@[simp] theorem State.modLaunch_cores (s : State) (u : Nat) (f : Launch → Launch) : (s.modLaunch u f).cores = s.cores := rfl
@[simp] theorem State.modLaunch_claims (s : State) (u : Nat) (f : Launch → Launch) : (s.modLaunch u f).claims = s.claims := rfl
@[simp] theorem State.modLaunch_progs (s : State) (u : Nat) (f : Launch → Launch) : (s.modLaunch u f).progs = s.progs := rfl
@[simp] theorem State.modLaunch_matrix (s : State) (u : Nat) (f : Launch → Launch) : (s.modLaunch u f).matrix = s.matrix := rfl
@[simp] theorem State.modLaunch_tiles (s : State) (u : Nat) (f : Launch → Launch) : (s.modLaunch u f).tiles = s.tiles := rfl
@[simp] theorem State.modLaunch_tilePoison (s : State) (u : Nat) (f : Launch → Launch) : (s.modLaunch u f).tilePoison = s.tilePoison := rfl
@[simp] theorem State.modLaunch_freed (s : State) (u : Nat) (f : Launch → Launch) : (s.modLaunch u f).freed = s.freed := rfl
@[simp] theorem State.modLaunch_loads (s : State) (u : Nat) (f : Launch → Launch) : (s.modLaunch u f).loads = s.loads := rfl
@[simp] theorem State.modLaunch_path (s : State) (u : Nat) (f : Launch → Launch) : (s.modLaunch u f).path = s.path := rfl
@[simp] theorem State.modLaunch_xfers (s : State) (u : Nat) (f : Launch → Launch) : (s.modLaunch u f).xfers = s.xfers := rfl
@[simp] theorem State.modLaunch_batches (s : State) (u : Nat) (f : Launch → Launch) : (s.modLaunch u f).batches = s.batches := rfl
@[simp] theorem State.modLaunch_mem (s : State) (u : Nat) (f : Launch → Launch) : (s.modLaunch u f).mem = s.mem := rfl
@[simp] theorem State.modLaunch_poison (s : State) (u : Nat) (f : Launch → Launch) : (s.modLaunch u f).poison = s.poison := rfl
@[simp] theorem State.modLaunch_barriers (s : State) (u : Nat) (f : Launch → Launch) : (s.modLaunch u f).barriers = s.barriers := rfl
@[simp] theorem State.modLaunch_coh (s : State) (u : Nat) (f : Launch → Launch) : (s.modLaunch u f).coh = s.coh := rfl
@[simp] theorem State.modLaunch_dies (s : State) (u : Nat) (f : Launch → Launch) : (s.modLaunch u f).dies = s.dies := rfl
@[simp] theorem State.modLaunch_tlb (s : State) (u : Nat) (f : Launch → Launch) : (s.modLaunch u f).tlb = s.tlb := rfl
@[simp] theorem State.modLaunch_pageReqs (s : State) (u : Nat) (f : Launch → Launch) : (s.modLaunch u f).pageReqs = s.pageReqs := rfl
@[simp] theorem State.modLaunch_switches (s : State) (u : Nat) (f : Launch → Launch) : (s.modLaunch u f).switches = s.switches := rfl
@[simp] theorem State.modLaunch_ctxs (s : State) (u : Nat) (f : Launch → Launch) : (s.modLaunch u f).ctxs = s.ctxs := rfl
@[simp] theorem State.modLaunch_launches (s : State) (u : Nat) (f : Launch → Launch) : (s.modLaunch u f).launches = s.launches.map (fun l => if l.id == u then f l else l) := rfl
@[simp] theorem State.modLaunch_children (s : State) (u : Nat) (f : Launch → Launch) : (s.modLaunch u f).children = s.children := rfl
@[simp] theorem State.modLaunch_anns (s : State) (u : Nat) (f : Launch → Launch) : (s.modLaunch u f).anns = s.anns := rfl
@[simp] theorem State.modLaunch_pointer (s : State) (u : Nat) (f : Launch → Launch) : (s.modLaunch u f).pointer = s.pointer := rfl
@[simp] theorem State.modLaunch_served (s : State) (u : Nat) (f : Launch → Launch) : (s.modLaunch u f).served = s.served := rfl
@[simp] theorem State.modLaunch_ports (s : State) (u : Nat) (f : Launch → Launch) : (s.modLaunch u f).ports = s.ports := rfl
@[simp] theorem State.modLaunch_handover (s : State) (u : Nat) (f : Launch → Launch) : (s.modLaunch u f).handover = s.handover := rfl
@[simp] theorem State.modLaunch_passes (s : State) (u : Nat) (f : Launch → Launch) : (s.modLaunch u f).passes = s.passes := rfl
@[simp] theorem State.modLaunch_tierSize (s : State) (u : Nat) (f : Launch → Launch) : (s.modLaunch u f).tierSize = s.tierSize := rfl
@[simp] theorem State.modLaunch_hostSize (s : State) (u : Nat) (f : Launch → Launch) : (s.modLaunch u f).hostSize = s.hostSize := rfl
@[simp] theorem State.modLaunch_svc (s : State) (u : Nat) (f : Launch → Launch) : (s.modLaunch u f).svc = s.svc := rfl
@[simp] theorem State.modLaunch_fab (s : State) (u : Nat) (f : Launch → Launch) : (s.modLaunch u f).fab = s.fab := rfl
@[simp] theorem State.modLaunch_cycle (s : State) (u : Nat) (f : Launch → Launch) : (s.modLaunch u f).cycle = s.cycle := rfl
@[simp] theorem State.modLaunch_ticks (s : State) (u : Nat) (f : Launch → Launch) : (s.modLaunch u f).ticks = s.ticks := rfl
@[simp] theorem State.modLaunch_agenda (s : State) (u : Nat) (f : Launch → Launch) : (s.modLaunch u f).agenda = s.agenda := rfl
@[simp] theorem State.modLaunch_sel (s : State) (u : Nat) (f : Launch → Launch) : (s.modLaunch u f).sel = s.sel := rfl
@[simp] theorem State.modLaunch_fresh (s : State) (u : Nat) (f : Launch → Launch) : (s.modLaunch u f).fresh = s.fresh := rfl
@[simp] theorem State.modLaunch_nextUid (s : State) (u : Nat) (f : Launch → Launch) : (s.modLaunch u f).nextUid = s.nextUid := rfl
@[simp] theorem State.modLaunch_nextSeq (s : State) (u : Nat) (f : Launch → Launch) : (s.modLaunch u f).nextSeq = s.nextSeq := rfl

/-! ## draw -/

@[simp] theorem State.draw_cur (s : State) : (s.draw).cur = s.cur := rfl
@[simp] theorem State.draw_others (s : State) : (s.draw).others = s.others := rfl
@[simp] theorem State.draw_issuer (s : State) : (s.draw).issuer = s.issuer := rfl
@[simp] theorem State.draw_wgs (s : State) : (s.draw).wgs = s.wgs := rfl
@[simp] theorem State.draw_cores (s : State) : (s.draw).cores = s.cores := rfl
@[simp] theorem State.draw_claims (s : State) : (s.draw).claims = s.claims := rfl
@[simp] theorem State.draw_progs (s : State) : (s.draw).progs = s.progs := rfl
@[simp] theorem State.draw_matrix (s : State) : (s.draw).matrix = s.matrix := rfl
@[simp] theorem State.draw_tiles (s : State) : (s.draw).tiles = s.tiles := rfl
@[simp] theorem State.draw_tilePoison (s : State) : (s.draw).tilePoison = s.tilePoison := rfl
@[simp] theorem State.draw_freed (s : State) : (s.draw).freed = s.freed := rfl
@[simp] theorem State.draw_loads (s : State) : (s.draw).loads = s.loads := rfl
@[simp] theorem State.draw_path (s : State) : (s.draw).path = s.path := rfl
@[simp] theorem State.draw_xfers (s : State) : (s.draw).xfers = s.xfers := rfl
@[simp] theorem State.draw_batches (s : State) : (s.draw).batches = s.batches := rfl
@[simp] theorem State.draw_mem (s : State) : (s.draw).mem = s.mem := rfl
@[simp] theorem State.draw_poison (s : State) : (s.draw).poison = s.poison := rfl
@[simp] theorem State.draw_barriers (s : State) : (s.draw).barriers = s.barriers := rfl
@[simp] theorem State.draw_coh (s : State) : (s.draw).coh = s.coh := rfl
@[simp] theorem State.draw_dies (s : State) : (s.draw).dies = s.dies := rfl
@[simp] theorem State.draw_tlb (s : State) : (s.draw).tlb = s.tlb := rfl
@[simp] theorem State.draw_pageReqs (s : State) : (s.draw).pageReqs = s.pageReqs := rfl
@[simp] theorem State.draw_switches (s : State) : (s.draw).switches = s.switches := rfl
@[simp] theorem State.draw_ctxs (s : State) : (s.draw).ctxs = s.ctxs := rfl
@[simp] theorem State.draw_launches (s : State) : (s.draw).launches = s.launches := rfl
@[simp] theorem State.draw_children (s : State) : (s.draw).children = s.children := rfl
@[simp] theorem State.draw_anns (s : State) : (s.draw).anns = s.anns := rfl
@[simp] theorem State.draw_pointer (s : State) : (s.draw).pointer = s.pointer := rfl
@[simp] theorem State.draw_served (s : State) : (s.draw).served = s.served := rfl
@[simp] theorem State.draw_ports (s : State) : (s.draw).ports = s.ports := rfl
@[simp] theorem State.draw_handover (s : State) : (s.draw).handover = s.handover := rfl
@[simp] theorem State.draw_passes (s : State) : (s.draw).passes = s.passes := rfl
@[simp] theorem State.draw_tierSize (s : State) : (s.draw).tierSize = s.tierSize := rfl
@[simp] theorem State.draw_hostSize (s : State) : (s.draw).hostSize = s.hostSize := rfl
@[simp] theorem State.draw_svc (s : State) : (s.draw).svc = s.svc := rfl
@[simp] theorem State.draw_fab (s : State) : (s.draw).fab = s.fab := rfl
@[simp] theorem State.draw_cycle (s : State) : (s.draw).cycle = s.cycle := rfl
@[simp] theorem State.draw_ticks (s : State) : (s.draw).ticks = s.ticks := rfl
@[simp] theorem State.draw_agenda (s : State) : (s.draw).agenda = s.agenda := rfl
@[simp] theorem State.draw_sel (s : State) : (s.draw).sel = s.sel := rfl
@[simp] theorem State.draw_fresh (s : State) : (s.draw).fresh = s.fresh + 1 := rfl
@[simp] theorem State.draw_nextUid (s : State) : (s.draw).nextUid = s.nextUid := rfl
@[simp] theorem State.draw_nextSeq (s : State) : (s.draw).nextSeq = s.nextSeq := rfl

/-! ## takeSeq -/

@[simp] theorem State.takeSeq_cur (s : State) : (s.takeSeq).cur = s.cur := rfl
@[simp] theorem State.takeSeq_others (s : State) : (s.takeSeq).others = s.others := rfl
@[simp] theorem State.takeSeq_issuer (s : State) : (s.takeSeq).issuer = s.issuer := rfl
@[simp] theorem State.takeSeq_wgs (s : State) : (s.takeSeq).wgs = s.wgs := rfl
@[simp] theorem State.takeSeq_cores (s : State) : (s.takeSeq).cores = s.cores := rfl
@[simp] theorem State.takeSeq_claims (s : State) : (s.takeSeq).claims = s.claims := rfl
@[simp] theorem State.takeSeq_progs (s : State) : (s.takeSeq).progs = s.progs := rfl
@[simp] theorem State.takeSeq_matrix (s : State) : (s.takeSeq).matrix = s.matrix := rfl
@[simp] theorem State.takeSeq_tiles (s : State) : (s.takeSeq).tiles = s.tiles := rfl
@[simp] theorem State.takeSeq_tilePoison (s : State) : (s.takeSeq).tilePoison = s.tilePoison := rfl
@[simp] theorem State.takeSeq_freed (s : State) : (s.takeSeq).freed = s.freed := rfl
@[simp] theorem State.takeSeq_loads (s : State) : (s.takeSeq).loads = s.loads := rfl
@[simp] theorem State.takeSeq_path (s : State) : (s.takeSeq).path = s.path := rfl
@[simp] theorem State.takeSeq_xfers (s : State) : (s.takeSeq).xfers = s.xfers := rfl
@[simp] theorem State.takeSeq_batches (s : State) : (s.takeSeq).batches = s.batches := rfl
@[simp] theorem State.takeSeq_mem (s : State) : (s.takeSeq).mem = s.mem := rfl
@[simp] theorem State.takeSeq_poison (s : State) : (s.takeSeq).poison = s.poison := rfl
@[simp] theorem State.takeSeq_barriers (s : State) : (s.takeSeq).barriers = s.barriers := rfl
@[simp] theorem State.takeSeq_coh (s : State) : (s.takeSeq).coh = s.coh := rfl
@[simp] theorem State.takeSeq_dies (s : State) : (s.takeSeq).dies = s.dies := rfl
@[simp] theorem State.takeSeq_tlb (s : State) : (s.takeSeq).tlb = s.tlb := rfl
@[simp] theorem State.takeSeq_pageReqs (s : State) : (s.takeSeq).pageReqs = s.pageReqs := rfl
@[simp] theorem State.takeSeq_switches (s : State) : (s.takeSeq).switches = s.switches := rfl
@[simp] theorem State.takeSeq_ctxs (s : State) : (s.takeSeq).ctxs = s.ctxs := rfl
@[simp] theorem State.takeSeq_launches (s : State) : (s.takeSeq).launches = s.launches := rfl
@[simp] theorem State.takeSeq_children (s : State) : (s.takeSeq).children = s.children := rfl
@[simp] theorem State.takeSeq_anns (s : State) : (s.takeSeq).anns = s.anns := rfl
@[simp] theorem State.takeSeq_pointer (s : State) : (s.takeSeq).pointer = s.pointer := rfl
@[simp] theorem State.takeSeq_served (s : State) : (s.takeSeq).served = s.served := rfl
@[simp] theorem State.takeSeq_ports (s : State) : (s.takeSeq).ports = s.ports := rfl
@[simp] theorem State.takeSeq_handover (s : State) : (s.takeSeq).handover = s.handover := rfl
@[simp] theorem State.takeSeq_passes (s : State) : (s.takeSeq).passes = s.passes := rfl
@[simp] theorem State.takeSeq_tierSize (s : State) : (s.takeSeq).tierSize = s.tierSize := rfl
@[simp] theorem State.takeSeq_hostSize (s : State) : (s.takeSeq).hostSize = s.hostSize := rfl
@[simp] theorem State.takeSeq_svc (s : State) : (s.takeSeq).svc = s.svc := rfl
@[simp] theorem State.takeSeq_fab (s : State) : (s.takeSeq).fab = s.fab := rfl
@[simp] theorem State.takeSeq_cycle (s : State) : (s.takeSeq).cycle = s.cycle := rfl
@[simp] theorem State.takeSeq_ticks (s : State) : (s.takeSeq).ticks = s.ticks := rfl
@[simp] theorem State.takeSeq_agenda (s : State) : (s.takeSeq).agenda = s.agenda := rfl
@[simp] theorem State.takeSeq_sel (s : State) : (s.takeSeq).sel = s.sel := rfl
@[simp] theorem State.takeSeq_fresh (s : State) : (s.takeSeq).fresh = s.fresh := rfl
@[simp] theorem State.takeSeq_nextUid (s : State) : (s.takeSeq).nextUid = s.nextUid := rfl
@[simp] theorem State.takeSeq_nextSeq (s : State) : (s.takeSeq).nextSeq = s.nextSeq + 1 := rfl

/-! ## Team.vset -/

@[simp] theorem Team.vset_live (t : Team) (short : Bool) (l r : Nat) (x : Word) : (t.vset short l r x).live = t.live := rfl
@[simp] theorem Team.vset_uid (t : Team) (short : Bool) (l r : Nat) (x : Word) : (t.vset short l r x).uid = t.uid := rfl
@[simp] theorem Team.vset_wg (t : Team) (short : Bool) (l r : Nat) (x : Word) : (t.vset short l r x).wg = t.wg := rfl
@[simp] theorem Team.vset_role (t : Team) (short : Bool) (l r : Nat) (x : Word) : (t.vset short l r x).role = t.role := rfl
@[simp] theorem Team.vset_index (t : Team) (short : Bool) (l r : Nat) (x : Word) : (t.vset short l r x).index = t.index := rfl
@[simp] theorem Team.vset_size (t : Team) (short : Bool) (l r : Nat) (x : Word) : (t.vset short l r x).size = t.size := rfl
@[simp] theorem Team.vset_allot (t : Team) (short : Bool) (l r : Nat) (x : Word) : (t.vset short l r x).allot = t.allot := rfl
@[simp] theorem Team.vset_slice (t : Team) (short : Bool) (l r : Nat) (x : Word) : (t.vset short l r x).slice = t.slice := rfl
@[simp] theorem Team.vset_slot (t : Team) (short : Bool) (l r : Nat) (x : Word) : (t.vset short l r x).slot = t.slot := rfl
@[simp] theorem Team.vset_pc (t : Team) (short : Bool) (l r : Nat) (x : Word) : (t.vset short l r x).pc = t.pc := rfl
@[simp] theorem Team.vset_idx (t : Team) (short : Bool) (l r : Nat) (x : Word) : (t.vset short l r x).idx = t.idx := rfl
@[simp] theorem Team.vset_clause (t : Team) (short : Bool) (l r : Nat) (x : Word) : (t.vset short l r x).clause = t.clause := rfl
@[simp] theorem Team.vset_resumed (t : Team) (short : Bool) (l r : Nat) (x : Word) : (t.vset short l r x).resumed = t.resumed := rfl
@[simp] theorem Team.vset_mask (t : Team) (short : Bool) (l r : Nat) (x : Word) : (t.vset short l r x).mask = t.mask := rfl
@[simp] theorem Team.vset_v (t : Team) (short : Bool) (l r : Nat) (x : Word) : (t.vset short l r x).v = tset 0 t.v (vkey l r) x := rfl
@[simp] theorem Team.vset_s (t : Team) (short : Bool) (l r : Nat) (x : Word) : (t.vset short l r x).s = t.s := rfl
@[simp] theorem Team.vset_p (t : Team) (short : Bool) (l r : Nat) (x : Word) : (t.vset short l r x).p = t.p := rfl
@[simp] theorem Team.vset_mode (t : Team) (short : Bool) (l r : Nat) (x : Word) : (t.vset short l r x).mode = t.mode := rfl
@[simp] theorem Team.vset_tstat (t : Team) (short : Bool) (l r : Nat) (x : Word) : (t.vset short l r x).tstat = t.tstat := rfl
@[simp] theorem Team.vset_flags (t : Team) (short : Bool) (l r : Nat) (x : Word) : (t.vset short l r x).flags = t.flags := rfl
@[simp] theorem Team.vset_stack (t : Team) (short : Bool) (l r : Nat) (x : Word) : (t.vset short l r x).stack = t.stack := rfl
@[simp] theorem Team.vset_written (t : Team) (short : Bool) (l r : Nat) (x : Word) : (t.vset short l r x).written = t.written := rfl
@[simp] theorem Team.vset_pathExtra (t : Team) (short : Bool) (l r : Nat) (x : Word) : (t.vset short l r x).pathExtra = t.pathExtra := rfl
@[simp] theorem Team.vset_batchLast (t : Team) (short : Bool) (l r : Nat) (x : Word) : (t.vset short l r x).batchLast = t.batchLast := rfl
@[simp] theorem Team.vset_gen (t : Team) (short : Bool) (l r : Nat) (x : Word) : (t.vset short l r x).gen = t.gen := rfl
@[simp] theorem Team.vset_clkLatch (t : Team) (short : Bool) (l r : Nat) (x : Word) : (t.vset short l r x).clkLatch = t.clkLatch := rfl
@[simp] theorem Team.vset_bindings (t : Team) (short : Bool) (l r : Nat) (x : Word) : (t.vset short l r x).bindings = t.bindings := rfl
@[simp] theorem Team.vset_region (t : Team) (short : Bool) (l r : Nat) (x : Word) : (t.vset short l r x).region = t.region := rfl
@[simp] theorem Team.vset_shortLived (t : Team) (short : Bool) (l r : Nat) (x : Word) : (t.vset short l r x).shortLived = t.markWrite short (vkey l r) := rfl
@[simp] theorem Team.vset_poison (t : Team) (short : Bool) (l r : Nat) (x : Word) : (t.vset short l r x).poison = t.poison.filter (fun k => k ≠ vkey l r) := rfl
@[simp] theorem Team.vset_wakePend (t : Team) (short : Bool) (l r : Nat) (x : Word) : (t.vset short l r x).wakePend = t.wakePend := rfl
@[simp] theorem Team.vset_stepctl (t : Team) (short : Bool) (l r : Nat) (x : Word) : (t.vset short l r x).stepctl = t.stepctl := rfl
@[simp] theorem Team.vset_focusRest (t : Team) (short : Bool) (l r : Nat) (x : Word) : (t.vset short l r x).focusRest = t.focusRest := rfl
@[simp] theorem Team.vset_only (t : Team) (short : Bool) (l r : Nat) (x : Word) : (t.vset short l r x).only = t.only := rfl
@[simp] theorem Team.vset_saveMode (t : Team) (short : Bool) (l r : Nat) (x : Word) : (t.vset short l r x).saveMode = t.saveMode := rfl
@[simp] theorem Team.vset_saveMask (t : Team) (short : Bool) (l r : Nat) (x : Word) : (t.vset short l r x).saveMask = t.saveMask := rfl
@[simp] theorem Team.vset_faultPc (t : Team) (short : Bool) (l r : Nat) (x : Word) : (t.vset short l r x).faultPc = t.faultPc := rfl
@[simp] theorem Team.vset_faultInfo (t : Team) (short : Bool) (l r : Nat) (x : Word) : (t.vset short l r x).faultInfo = t.faultInfo := rfl
@[simp] theorem Team.vset_faultMask (t : Team) (short : Bool) (l r : Nat) (x : Word) : (t.vset short l r x).faultMask = t.faultMask := rfl
@[simp] theorem Team.vset_pendTraps (t : Team) (short : Bool) (l r : Nat) (x : Word) : (t.vset short l r x).pendTraps = t.pendTraps := rfl
@[simp] theorem Team.vset_pendErrs (t : Team) (short : Bool) (l r : Nat) (x : Word) : (t.vset short l r x).pendErrs = t.pendErrs := rfl
@[simp] theorem Team.vset_park (t : Team) (short : Bool) (l r : Nat) (x : Word) : (t.vset short l r x).park = t.park := rfl
@[simp] theorem Team.vset_service (t : Team) (short : Bool) (l r : Nat) (x : Word) : (t.vset short l r x).service = t.service := rfl
@[simp] theorem Team.vset_fencer (t : Team) (short : Bool) (l r : Nat) (x : Word) : (t.vset short l r x).fencer = t.fencer := rfl
@[simp] theorem Team.vset_focused (t : Team) (short : Bool) (l r : Nat) (x : Word) : (t.vset short l r x).focused = t.focused := rfl
@[simp] theorem Team.vset_attached (t : Team) (short : Bool) (l r : Nat) (x : Word) : (t.vset short l r x).attached = t.attached := rfl
@[simp] theorem Team.vset_lastIssue (t : Team) (short : Bool) (l r : Nat) (x : Word) : (t.vset short l r x).lastIssue = t.lastIssue := rfl
@[simp] theorem Team.vset_yielding (t : Team) (short : Bool) (l r : Nat) (x : Word) : (t.vset short l r x).yielding = t.yielding := rfl
@[simp] theorem Team.vset_ending (t : Team) (short : Bool) (l r : Nat) (x : Word) : (t.vset short l r x).ending = t.ending := rfl
@[simp] theorem Team.vset_now (t : Team) (short : Bool) (l r : Nat) (x : Word) : (t.vset short l r x).now = t.now := rfl
@[simp] theorem Team.vset_fresh (t : Team) (short : Bool) (l r : Nat) (x : Word) : (t.vset short l r x).fresh = t.fresh := rfl
@[simp] theorem Team.vset_checked (t : Team) (short : Bool) (l r : Nat) (x : Word) : (t.vset short l r x).checked = t.checked := rfl

/-! ## Team.sset -/

@[simp] theorem Team.sset_live (t : Team) (n : Nat) (x : Word) : (t.sset n x).live = t.live := rfl
@[simp] theorem Team.sset_uid (t : Team) (n : Nat) (x : Word) : (t.sset n x).uid = t.uid := rfl
@[simp] theorem Team.sset_wg (t : Team) (n : Nat) (x : Word) : (t.sset n x).wg = t.wg := rfl
@[simp] theorem Team.sset_role (t : Team) (n : Nat) (x : Word) : (t.sset n x).role = t.role := rfl
@[simp] theorem Team.sset_index (t : Team) (n : Nat) (x : Word) : (t.sset n x).index = t.index := rfl
@[simp] theorem Team.sset_size (t : Team) (n : Nat) (x : Word) : (t.sset n x).size = t.size := rfl
@[simp] theorem Team.sset_allot (t : Team) (n : Nat) (x : Word) : (t.sset n x).allot = t.allot := rfl
@[simp] theorem Team.sset_slice (t : Team) (n : Nat) (x : Word) : (t.sset n x).slice = t.slice := rfl
@[simp] theorem Team.sset_slot (t : Team) (n : Nat) (x : Word) : (t.sset n x).slot = t.slot := rfl
@[simp] theorem Team.sset_pc (t : Team) (n : Nat) (x : Word) : (t.sset n x).pc = t.pc := rfl
@[simp] theorem Team.sset_idx (t : Team) (n : Nat) (x : Word) : (t.sset n x).idx = t.idx := rfl
@[simp] theorem Team.sset_clause (t : Team) (n : Nat) (x : Word) : (t.sset n x).clause = t.clause := rfl
@[simp] theorem Team.sset_resumed (t : Team) (n : Nat) (x : Word) : (t.sset n x).resumed = t.resumed := rfl
@[simp] theorem Team.sset_mask (t : Team) (n : Nat) (x : Word) : (t.sset n x).mask = t.mask := rfl
@[simp] theorem Team.sset_v (t : Team) (n : Nat) (x : Word) : (t.sset n x).v = t.v := rfl
@[simp] theorem Team.sset_s (t : Team) (n : Nat) (x : Word) : (t.sset n x).s = tset 0 t.s n x := rfl
@[simp] theorem Team.sset_p (t : Team) (n : Nat) (x : Word) : (t.sset n x).p = t.p := rfl
@[simp] theorem Team.sset_mode (t : Team) (n : Nat) (x : Word) : (t.sset n x).mode = t.mode := rfl
@[simp] theorem Team.sset_tstat (t : Team) (n : Nat) (x : Word) : (t.sset n x).tstat = t.tstat := rfl
@[simp] theorem Team.sset_flags (t : Team) (n : Nat) (x : Word) : (t.sset n x).flags = t.flags := rfl
@[simp] theorem Team.sset_stack (t : Team) (n : Nat) (x : Word) : (t.sset n x).stack = t.stack := rfl
@[simp] theorem Team.sset_written (t : Team) (n : Nat) (x : Word) : (t.sset n x).written = t.written ||| ((1 : BitVec 24) <<< n) := rfl
@[simp] theorem Team.sset_pathExtra (t : Team) (n : Nat) (x : Word) : (t.sset n x).pathExtra = t.pathExtra := rfl
@[simp] theorem Team.sset_batchLast (t : Team) (n : Nat) (x : Word) : (t.sset n x).batchLast = t.batchLast := rfl
@[simp] theorem Team.sset_gen (t : Team) (n : Nat) (x : Word) : (t.sset n x).gen = t.gen := rfl
@[simp] theorem Team.sset_clkLatch (t : Team) (n : Nat) (x : Word) : (t.sset n x).clkLatch = t.clkLatch := rfl
@[simp] theorem Team.sset_bindings (t : Team) (n : Nat) (x : Word) : (t.sset n x).bindings = t.bindings := rfl
@[simp] theorem Team.sset_region (t : Team) (n : Nat) (x : Word) : (t.sset n x).region = t.region := rfl
@[simp] theorem Team.sset_shortLived (t : Team) (n : Nat) (x : Word) : (t.sset n x).shortLived = t.shortLived := rfl
@[simp] theorem Team.sset_poison (t : Team) (n : Nat) (x : Word) : (t.sset n x).poison = t.poison := rfl
@[simp] theorem Team.sset_wakePend (t : Team) (n : Nat) (x : Word) : (t.sset n x).wakePend = t.wakePend := rfl
@[simp] theorem Team.sset_stepctl (t : Team) (n : Nat) (x : Word) : (t.sset n x).stepctl = t.stepctl := rfl
@[simp] theorem Team.sset_focusRest (t : Team) (n : Nat) (x : Word) : (t.sset n x).focusRest = t.focusRest := rfl
@[simp] theorem Team.sset_only (t : Team) (n : Nat) (x : Word) : (t.sset n x).only = t.only := rfl
@[simp] theorem Team.sset_saveMode (t : Team) (n : Nat) (x : Word) : (t.sset n x).saveMode = t.saveMode := rfl
@[simp] theorem Team.sset_saveMask (t : Team) (n : Nat) (x : Word) : (t.sset n x).saveMask = t.saveMask := rfl
@[simp] theorem Team.sset_faultPc (t : Team) (n : Nat) (x : Word) : (t.sset n x).faultPc = t.faultPc := rfl
@[simp] theorem Team.sset_faultInfo (t : Team) (n : Nat) (x : Word) : (t.sset n x).faultInfo = t.faultInfo := rfl
@[simp] theorem Team.sset_faultMask (t : Team) (n : Nat) (x : Word) : (t.sset n x).faultMask = t.faultMask := rfl
@[simp] theorem Team.sset_pendTraps (t : Team) (n : Nat) (x : Word) : (t.sset n x).pendTraps = t.pendTraps := rfl
@[simp] theorem Team.sset_pendErrs (t : Team) (n : Nat) (x : Word) : (t.sset n x).pendErrs = t.pendErrs := rfl
@[simp] theorem Team.sset_park (t : Team) (n : Nat) (x : Word) : (t.sset n x).park = t.park := rfl
@[simp] theorem Team.sset_service (t : Team) (n : Nat) (x : Word) : (t.sset n x).service = t.service := rfl
@[simp] theorem Team.sset_fencer (t : Team) (n : Nat) (x : Word) : (t.sset n x).fencer = t.fencer := rfl
@[simp] theorem Team.sset_focused (t : Team) (n : Nat) (x : Word) : (t.sset n x).focused = t.focused := rfl
@[simp] theorem Team.sset_attached (t : Team) (n : Nat) (x : Word) : (t.sset n x).attached = t.attached := rfl
@[simp] theorem Team.sset_lastIssue (t : Team) (n : Nat) (x : Word) : (t.sset n x).lastIssue = t.lastIssue := rfl
@[simp] theorem Team.sset_yielding (t : Team) (n : Nat) (x : Word) : (t.sset n x).yielding = t.yielding := rfl
@[simp] theorem Team.sset_ending (t : Team) (n : Nat) (x : Word) : (t.sset n x).ending = t.ending := rfl
@[simp] theorem Team.sset_now (t : Team) (n : Nat) (x : Word) : (t.sset n x).now = t.now := rfl
@[simp] theorem Team.sset_fresh (t : Team) (n : Nat) (x : Word) : (t.sset n x).fresh = t.fresh := rfl
@[simp] theorem Team.sset_checked (t : Team) (n : Nat) (x : Word) : (t.sset n x).checked = t.checked := rfl

/-! ## Team.pset -/

@[simp] theorem Team.pset_live (t : Team) (n : Nat) (lanes values : Mask) : (t.pset n lanes values).live = t.live := rfl
@[simp] theorem Team.pset_uid (t : Team) (n : Nat) (lanes values : Mask) : (t.pset n lanes values).uid = t.uid := rfl
@[simp] theorem Team.pset_wg (t : Team) (n : Nat) (lanes values : Mask) : (t.pset n lanes values).wg = t.wg := rfl
@[simp] theorem Team.pset_role (t : Team) (n : Nat) (lanes values : Mask) : (t.pset n lanes values).role = t.role := rfl
@[simp] theorem Team.pset_index (t : Team) (n : Nat) (lanes values : Mask) : (t.pset n lanes values).index = t.index := rfl
@[simp] theorem Team.pset_size (t : Team) (n : Nat) (lanes values : Mask) : (t.pset n lanes values).size = t.size := rfl
@[simp] theorem Team.pset_allot (t : Team) (n : Nat) (lanes values : Mask) : (t.pset n lanes values).allot = t.allot := rfl
@[simp] theorem Team.pset_slice (t : Team) (n : Nat) (lanes values : Mask) : (t.pset n lanes values).slice = t.slice := rfl
@[simp] theorem Team.pset_slot (t : Team) (n : Nat) (lanes values : Mask) : (t.pset n lanes values).slot = t.slot := rfl
@[simp] theorem Team.pset_pc (t : Team) (n : Nat) (lanes values : Mask) : (t.pset n lanes values).pc = t.pc := rfl
@[simp] theorem Team.pset_idx (t : Team) (n : Nat) (lanes values : Mask) : (t.pset n lanes values).idx = t.idx := rfl
@[simp] theorem Team.pset_clause (t : Team) (n : Nat) (lanes values : Mask) : (t.pset n lanes values).clause = t.clause := rfl
@[simp] theorem Team.pset_resumed (t : Team) (n : Nat) (lanes values : Mask) : (t.pset n lanes values).resumed = t.resumed := rfl
@[simp] theorem Team.pset_mask (t : Team) (n : Nat) (lanes values : Mask) : (t.pset n lanes values).mask = t.mask := rfl
@[simp] theorem Team.pset_v (t : Team) (n : Nat) (lanes values : Mask) : (t.pset n lanes values).v = t.v := rfl
@[simp] theorem Team.pset_s (t : Team) (n : Nat) (lanes values : Mask) : (t.pset n lanes values).s = t.s := rfl
@[simp] theorem Team.pset_p (t : Team) (n : Nat) (lanes values : Mask) : (t.pset n lanes values).p = tset 0 t.p n ((t.pmask n &&& ~~~ lanes) ||| (values &&& lanes)) := rfl
@[simp] theorem Team.pset_mode (t : Team) (n : Nat) (lanes values : Mask) : (t.pset n lanes values).mode = t.mode := rfl
@[simp] theorem Team.pset_tstat (t : Team) (n : Nat) (lanes values : Mask) : (t.pset n lanes values).tstat = t.tstat := rfl
@[simp] theorem Team.pset_flags (t : Team) (n : Nat) (lanes values : Mask) : (t.pset n lanes values).flags = t.flags := rfl
@[simp] theorem Team.pset_stack (t : Team) (n : Nat) (lanes values : Mask) : (t.pset n lanes values).stack = t.stack := rfl
@[simp] theorem Team.pset_written (t : Team) (n : Nat) (lanes values : Mask) : (t.pset n lanes values).written = t.written := rfl
@[simp] theorem Team.pset_pathExtra (t : Team) (n : Nat) (lanes values : Mask) : (t.pset n lanes values).pathExtra = t.pathExtra := rfl
@[simp] theorem Team.pset_batchLast (t : Team) (n : Nat) (lanes values : Mask) : (t.pset n lanes values).batchLast = t.batchLast := rfl
@[simp] theorem Team.pset_gen (t : Team) (n : Nat) (lanes values : Mask) : (t.pset n lanes values).gen = t.gen := rfl
@[simp] theorem Team.pset_clkLatch (t : Team) (n : Nat) (lanes values : Mask) : (t.pset n lanes values).clkLatch = t.clkLatch := rfl
@[simp] theorem Team.pset_bindings (t : Team) (n : Nat) (lanes values : Mask) : (t.pset n lanes values).bindings = t.bindings := rfl
@[simp] theorem Team.pset_region (t : Team) (n : Nat) (lanes values : Mask) : (t.pset n lanes values).region = t.region := rfl
@[simp] theorem Team.pset_shortLived (t : Team) (n : Nat) (lanes values : Mask) : (t.pset n lanes values).shortLived = t.shortLived := rfl
@[simp] theorem Team.pset_poison (t : Team) (n : Nat) (lanes values : Mask) : (t.pset n lanes values).poison = t.poison := rfl
@[simp] theorem Team.pset_wakePend (t : Team) (n : Nat) (lanes values : Mask) : (t.pset n lanes values).wakePend = t.wakePend := rfl
@[simp] theorem Team.pset_stepctl (t : Team) (n : Nat) (lanes values : Mask) : (t.pset n lanes values).stepctl = t.stepctl := rfl
@[simp] theorem Team.pset_focusRest (t : Team) (n : Nat) (lanes values : Mask) : (t.pset n lanes values).focusRest = t.focusRest := rfl
@[simp] theorem Team.pset_only (t : Team) (n : Nat) (lanes values : Mask) : (t.pset n lanes values).only = t.only := rfl
@[simp] theorem Team.pset_saveMode (t : Team) (n : Nat) (lanes values : Mask) : (t.pset n lanes values).saveMode = t.saveMode := rfl
@[simp] theorem Team.pset_saveMask (t : Team) (n : Nat) (lanes values : Mask) : (t.pset n lanes values).saveMask = t.saveMask := rfl
@[simp] theorem Team.pset_faultPc (t : Team) (n : Nat) (lanes values : Mask) : (t.pset n lanes values).faultPc = t.faultPc := rfl
@[simp] theorem Team.pset_faultInfo (t : Team) (n : Nat) (lanes values : Mask) : (t.pset n lanes values).faultInfo = t.faultInfo := rfl
@[simp] theorem Team.pset_faultMask (t : Team) (n : Nat) (lanes values : Mask) : (t.pset n lanes values).faultMask = t.faultMask := rfl
@[simp] theorem Team.pset_pendTraps (t : Team) (n : Nat) (lanes values : Mask) : (t.pset n lanes values).pendTraps = t.pendTraps := rfl
@[simp] theorem Team.pset_pendErrs (t : Team) (n : Nat) (lanes values : Mask) : (t.pset n lanes values).pendErrs = t.pendErrs := rfl
@[simp] theorem Team.pset_park (t : Team) (n : Nat) (lanes values : Mask) : (t.pset n lanes values).park = t.park := rfl
@[simp] theorem Team.pset_service (t : Team) (n : Nat) (lanes values : Mask) : (t.pset n lanes values).service = t.service := rfl
@[simp] theorem Team.pset_fencer (t : Team) (n : Nat) (lanes values : Mask) : (t.pset n lanes values).fencer = t.fencer := rfl
@[simp] theorem Team.pset_focused (t : Team) (n : Nat) (lanes values : Mask) : (t.pset n lanes values).focused = t.focused := rfl
@[simp] theorem Team.pset_attached (t : Team) (n : Nat) (lanes values : Mask) : (t.pset n lanes values).attached = t.attached := rfl
@[simp] theorem Team.pset_lastIssue (t : Team) (n : Nat) (lanes values : Mask) : (t.pset n lanes values).lastIssue = t.lastIssue := rfl
@[simp] theorem Team.pset_yielding (t : Team) (n : Nat) (lanes values : Mask) : (t.pset n lanes values).yielding = t.yielding := rfl
@[simp] theorem Team.pset_ending (t : Team) (n : Nat) (lanes values : Mask) : (t.pset n lanes values).ending = t.ending := rfl
@[simp] theorem Team.pset_now (t : Team) (n : Nat) (lanes values : Mask) : (t.pset n lanes values).now = t.now := rfl
@[simp] theorem Team.pset_fresh (t : Team) (n : Nat) (lanes values : Mask) : (t.pset n lanes values).fresh = t.fresh := rfl
@[simp] theorem Team.pset_checked (t : Team) (n : Nat) (lanes values : Mask) : (t.pset n lanes values).checked = t.checked := rfl

/-! ## Team.gset -/

@[simp] theorem Team.gset_live (t : Team) (l : Nat) (g : Word) : (t.gset l g).live = t.live := rfl
@[simp] theorem Team.gset_uid (t : Team) (l : Nat) (g : Word) : (t.gset l g).uid = t.uid := rfl
@[simp] theorem Team.gset_wg (t : Team) (l : Nat) (g : Word) : (t.gset l g).wg = t.wg := rfl
@[simp] theorem Team.gset_role (t : Team) (l : Nat) (g : Word) : (t.gset l g).role = t.role := rfl
@[simp] theorem Team.gset_index (t : Team) (l : Nat) (g : Word) : (t.gset l g).index = t.index := rfl
@[simp] theorem Team.gset_size (t : Team) (l : Nat) (g : Word) : (t.gset l g).size = t.size := rfl
@[simp] theorem Team.gset_allot (t : Team) (l : Nat) (g : Word) : (t.gset l g).allot = t.allot := rfl
@[simp] theorem Team.gset_slice (t : Team) (l : Nat) (g : Word) : (t.gset l g).slice = t.slice := rfl
@[simp] theorem Team.gset_slot (t : Team) (l : Nat) (g : Word) : (t.gset l g).slot = t.slot := rfl
@[simp] theorem Team.gset_pc (t : Team) (l : Nat) (g : Word) : (t.gset l g).pc = t.pc := rfl
@[simp] theorem Team.gset_idx (t : Team) (l : Nat) (g : Word) : (t.gset l g).idx = t.idx := rfl
@[simp] theorem Team.gset_clause (t : Team) (l : Nat) (g : Word) : (t.gset l g).clause = t.clause := rfl
@[simp] theorem Team.gset_resumed (t : Team) (l : Nat) (g : Word) : (t.gset l g).resumed = t.resumed := rfl
@[simp] theorem Team.gset_mask (t : Team) (l : Nat) (g : Word) : (t.gset l g).mask = t.mask := rfl
@[simp] theorem Team.gset_v (t : Team) (l : Nat) (g : Word) : (t.gset l g).v = t.v := rfl
@[simp] theorem Team.gset_s (t : Team) (l : Nat) (g : Word) : (t.gset l g).s = t.s := rfl
@[simp] theorem Team.gset_p (t : Team) (l : Nat) (g : Word) : (t.gset l g).p = t.p := rfl
@[simp] theorem Team.gset_mode (t : Team) (l : Nat) (g : Word) : (t.gset l g).mode = t.mode := rfl
@[simp] theorem Team.gset_tstat (t : Team) (l : Nat) (g : Word) : (t.gset l g).tstat = t.tstat := rfl
@[simp] theorem Team.gset_flags (t : Team) (l : Nat) (g : Word) : (t.gset l g).flags = t.flags := rfl
@[simp] theorem Team.gset_stack (t : Team) (l : Nat) (g : Word) : (t.gset l g).stack = t.stack := rfl
@[simp] theorem Team.gset_written (t : Team) (l : Nat) (g : Word) : (t.gset l g).written = t.written := rfl
@[simp] theorem Team.gset_pathExtra (t : Team) (l : Nat) (g : Word) : (t.gset l g).pathExtra = t.pathExtra := rfl
@[simp] theorem Team.gset_batchLast (t : Team) (l : Nat) (g : Word) : (t.gset l g).batchLast = t.batchLast := rfl
@[simp] theorem Team.gset_gen (t : Team) (l : Nat) (g : Word) : (t.gset l g).gen = tset 0 t.gen l g := rfl
@[simp] theorem Team.gset_clkLatch (t : Team) (l : Nat) (g : Word) : (t.gset l g).clkLatch = t.clkLatch := rfl
@[simp] theorem Team.gset_bindings (t : Team) (l : Nat) (g : Word) : (t.gset l g).bindings = t.bindings := rfl
@[simp] theorem Team.gset_region (t : Team) (l : Nat) (g : Word) : (t.gset l g).region = t.region := rfl
@[simp] theorem Team.gset_shortLived (t : Team) (l : Nat) (g : Word) : (t.gset l g).shortLived = t.shortLived := rfl
@[simp] theorem Team.gset_poison (t : Team) (l : Nat) (g : Word) : (t.gset l g).poison = t.poison := rfl
@[simp] theorem Team.gset_wakePend (t : Team) (l : Nat) (g : Word) : (t.gset l g).wakePend = t.wakePend := rfl
@[simp] theorem Team.gset_stepctl (t : Team) (l : Nat) (g : Word) : (t.gset l g).stepctl = t.stepctl := rfl
@[simp] theorem Team.gset_focusRest (t : Team) (l : Nat) (g : Word) : (t.gset l g).focusRest = t.focusRest := rfl
@[simp] theorem Team.gset_only (t : Team) (l : Nat) (g : Word) : (t.gset l g).only = t.only := rfl
@[simp] theorem Team.gset_saveMode (t : Team) (l : Nat) (g : Word) : (t.gset l g).saveMode = t.saveMode := rfl
@[simp] theorem Team.gset_saveMask (t : Team) (l : Nat) (g : Word) : (t.gset l g).saveMask = t.saveMask := rfl
@[simp] theorem Team.gset_faultPc (t : Team) (l : Nat) (g : Word) : (t.gset l g).faultPc = t.faultPc := rfl
@[simp] theorem Team.gset_faultInfo (t : Team) (l : Nat) (g : Word) : (t.gset l g).faultInfo = t.faultInfo := rfl
@[simp] theorem Team.gset_faultMask (t : Team) (l : Nat) (g : Word) : (t.gset l g).faultMask = t.faultMask := rfl
@[simp] theorem Team.gset_pendTraps (t : Team) (l : Nat) (g : Word) : (t.gset l g).pendTraps = t.pendTraps := rfl
@[simp] theorem Team.gset_pendErrs (t : Team) (l : Nat) (g : Word) : (t.gset l g).pendErrs = t.pendErrs := rfl
@[simp] theorem Team.gset_park (t : Team) (l : Nat) (g : Word) : (t.gset l g).park = t.park := rfl
@[simp] theorem Team.gset_service (t : Team) (l : Nat) (g : Word) : (t.gset l g).service = t.service := rfl
@[simp] theorem Team.gset_fencer (t : Team) (l : Nat) (g : Word) : (t.gset l g).fencer = t.fencer := rfl
@[simp] theorem Team.gset_focused (t : Team) (l : Nat) (g : Word) : (t.gset l g).focused = t.focused := rfl
@[simp] theorem Team.gset_attached (t : Team) (l : Nat) (g : Word) : (t.gset l g).attached = t.attached := rfl
@[simp] theorem Team.gset_lastIssue (t : Team) (l : Nat) (g : Word) : (t.gset l g).lastIssue = t.lastIssue := rfl
@[simp] theorem Team.gset_yielding (t : Team) (l : Nat) (g : Word) : (t.gset l g).yielding = t.yielding := rfl
@[simp] theorem Team.gset_ending (t : Team) (l : Nat) (g : Word) : (t.gset l g).ending = t.ending := rfl
@[simp] theorem Team.gset_now (t : Team) (l : Nat) (g : Word) : (t.gset l g).now = t.now := rfl
@[simp] theorem Team.gset_fresh (t : Team) (l : Nat) (g : Word) : (t.gset l g).fresh = t.fresh := rfl
@[simp] theorem Team.gset_checked (t : Team) (l : Nat) (g : Word) : (t.gset l g).checked = t.checked := rfl

end Sys2Proof.Machine
end

