-- ==== Sys2Proof/Laws/Traps.lean ====
section
/-! SUPPORT. What taking a trap leaves, said once. -/

namespace Sys2Proof.Machine

/-- FAULTPC's word, from its fields. -/
theorem faultPcOf_eq (pc : DWord) (idx : Nat) : faultPcOf pc idx = faultPcWord pc idx := by
  apply BitVec.eq_of_getLsbD_eq
  intro i hi
  change BitVec.getLsbD (pc &&& BitVec.ofNat 64 (2 ^ 57 - 1) ||| BitVec.ofNat 64 idx <<< 60) i = _
  simp only [faultPcWord, BitVec.getLsbD_or, BitVec.getLsbD_and, BitVec.getLsbD_append,
    BitVec.getLsbD_extractLsb', BitVec.getLsbD_shiftLeft, BitVec.getLsbD_ofNat, Nat.testBit_two_pow_sub_one, hi,
    decide_true, Bool.true_and, Nat.zero_add]
  by_cases h1 : i < 57
  · have h2 : i < 60 := by omega
    simp [h1, h2]
  · by_cases h2 : i - 57 < 3
    · have h3 : i < 60 := by omega
      simp [h1, h2, h3]
    · have h3 : ¬ i < 60 := by omega
      have h4 : i - 57 - 3 = i - 60 := by omega
      have h5 : i - 60 < 4 := by omega
      have h6 : i - 60 < 64 := by omega
      simp [h1, h2, h3, h4, h5, h6]

/-- FAULTINFO's word, from its fields. -/
theorem info_eq (x : Trap) : x.info = BitVec.ofNat 5 x.code ++ BitVec.ofNat 3 x.sub ++ x.arg := by
  apply BitVec.eq_of_toNat_eq
  have ha := x.arg.isLt
  simp only [Trap.info, BitVec.toNat_or, BitVec.toNat_append, BitVec.toNat_ofNat, BitVec.toNat_setWidth]
  have h0 : x.arg.toNat % 2 ^ 32 = x.arg.toNat := Nat.mod_eq_of_lt (by omega)
  have h1 : (x.code % 32 * 2 ^ 27 + x.sub % 8 * 2 ^ 24) % 2 ^ 32 = (x.code % 32 * 8 + x.sub % 8) * 2 ^ 24 := by omega
  have h2 : (x.code % 2 ^ 5) <<< 3 ||| x.sub % 2 ^ 3 = x.code % 32 * 8 + x.sub % 8 := by
    rw [← Nat.shiftLeft_add_eq_or_of_lt (by omega), Nat.shiftLeft_eq]
    norm_num
  rw [h0, h1, h2, Nat.shiftLeft_eq]

/-- A trap at an instruction, where there is a handler: R80's list, and nothing else. -/
theorem takeTrap_entered {s : State} {x : Trap} {m : Mask} {pc : DWord} (hh : s.hasHandler = true) :
    TrapEntered s (s.takeTrap x m pc) x pc m := by
  simp only [State.hasHandler, Bool.and_eq_true, Bool.not_eq_true', decide_eq_true_eq] at hh
  obtain ⟨h1, h2⟩ := hh
  have e : s.takeTrap x m pc = s.setCur (s.cur.enterTrap s.curCtx.trapBase x m pc) := by
    simp only [State.takeTrap, h1, Bool.false_eq_true, if_false, if_neg h2]
  rw [e]
  refine ⟨rfl, info_eq x, rfl, ⟨rfl, rfl⟩, rfl, rfl, rfl, ⟨rfl, rfl, rfl⟩, ⟨rfl, rfl, rfl, rfl⟩, rfl, ⟨rfl, rfl⟩, rfl, rfl⟩

/-- The same at the executing instruction. -/
theorem trapHere_entered {s : State} {x : Trap} {m : Mask} (hh : s.hasHandler = true) :
    TrapEntered s (s.trapHere x m) x (faultPcWord s.cur.pc s.cur.idx) m := by
  rw [State.trapHere, faultPcOf_eq]
  exact takeTrap_entered hh

/-- The lowest of conditions is taken where there is a handler (R36). -/
theorem raise_entered {s : State} {cs : List Cond} {x : Trap} {m : Mask} (hh : s.hasHandler = true)
    (hx : lowestTrap (cs.map (fun c => c.2)) = some x) :
    TrapEntered s (s.raise cs m) x (faultPcWord s.cur.pc s.cur.idx) m := by
  simp only [State.raise, hx]
  exact trapHere_entered hh

end Sys2Proof.Machine
end

