-- ==== Sys2Proof/Laws/Words.lean ====
section
/-! SUPPORT. The fields of a word that was put together, and the word of its bytes. -/

namespace Sys2Proof

/-- The opcode of a word. -/
theorem opcodeOf_mkWord (op : Nat) (h : op < 2048) (d a b : Code) : opcodeOf (mkWord op d a b) = op := by
  simp only [opcodeOf, mkWord]
  have : ((BitVec.ofNat 11 op ++ d ++ a ++ b : Word) >>> 21) = (BitVec.ofNat 11 op).setWidth 32 := by
    apply BitVec.eq_of_getLsbD_eq; intro i hi
    simp only [BitVec.getLsbD_ushiftRight, BitVec.getLsbD_append, BitVec.getLsbD_setWidth]
    have : ¬ (21 + i < 7) := by omega
    have : ¬ (21 + i - 7 < 7) := by omega
    have : ¬ (21 + i - 7 - 7 < 7) := by omega
    have e: 21 + i - 7 - 7 - 7 = i := by omega
    simp [*]
  rw [this]; simp; omega

/-- Its b field. -/
@[simp] theorem bOf_mkWord (op : Nat) (d a b : Code) : bOf (mkWord op d a b) = b := by
  simp only [bOf, mkWord]
  apply BitVec.eq_of_getLsbD_eq; intro i hi
  simp only [BitVec.getLsbD_append, BitVec.getLsbD_extractLsb', hi, Nat.zero_add]
  simp [hi]

/-- Its a field. -/
@[simp] theorem aOf_mkWord (op : Nat) (d a b : Code) : aOf (mkWord op d a b) = a := by
  simp only [aOf, mkWord]
  apply BitVec.eq_of_getLsbD_eq; intro i hi
  simp only [BitVec.getLsbD_append, BitVec.getLsbD_extractLsb', hi]
  have : ¬ (7 + i < 7) := by omega
  have e : 7 + i - 7 = i := by omega
  simp [*]

/-- Its d field. -/
@[simp] theorem dOf_mkWord (op : Nat) (d a b : Code) : dOf (mkWord op d a b) = d := by
  simp only [dOf, mkWord]
  apply BitVec.eq_of_getLsbD_eq; intro i hi
  simp only [BitVec.getLsbD_append, BitVec.getLsbD_extractLsb', hi]
  have : ¬ (14 + i < 7) := by omega
  have e : 14 + i - 7 - 7 = i := by omega
  have : ¬ (14 + i - 7 < 7) := by omega
  simp [*]

/-- The bytes of a word make the word (R9). -/
@[simp] theorem wordOfBytes_bytes (w : Word) : wordOfBytes (w.extractLsb' 0 8) (w.extractLsb' 8 8) (w.extractLsb' 16 8) (w.extractLsb' 24 8) = w := by
  simp only [wordOfBytes]
  apply BitVec.eq_of_getLsbD_eq; intro i hi
  simp only [BitVec.getLsbD_append, BitVec.getLsbD_extractLsb']
  by_cases h1 : i < 8
  · simp [h1]
  · by_cases h2 : i - 8 < 8
    · have : 8 + (i - 8) = i := by omega
      simp [*]
    · by_cases h3 : i - 8 - 8 < 8
      · have : 16 + (i - 8 - 8) = i := by omega
        simp [*]
      · have : 24 + (i - 8 - 8 - 8) = i := by omega
        have : i - 8 - 8 - 8 < 8 := by omega
        simp [*]

/-- The opcode of a format M word. -/
theorem opcodeOf_mkModeWord (op : Nat) (h : op < 2048) (v : ModeVal) : opcodeOf (mkModeWord op v) = op := by
  simp only [opcodeOf, mkModeWord]
  have : ((BitVec.ofNat 11 op ++ v : Word) >>> 21) = (BitVec.ofNat 11 op).setWidth 32 := by
    apply BitVec.eq_of_getLsbD_eq; intro i hi
    simp only [BitVec.getLsbD_ushiftRight, BitVec.getLsbD_append, BitVec.getLsbD_setWidth]
    simp [hi]
  rw [this]; simp; omega

/-- Its value field. -/
@[simp] theorem valueOf_mkModeWord (op : Nat) (v : ModeVal) : valueOf (mkModeWord op v) = v := by
  simp only [valueOf, mkModeWord]
  apply BitVec.eq_of_getLsbD_eq; intro i hi
  simp only [BitVec.getLsbD_append, BitVec.getLsbD_extractLsb', hi, Nat.zero_add]
  simp [hi]

/-- A word's bytes decode to the word's instruction, and nothing is left over. -/
theorem decode_bytesOfWord (w : Word) : decode (bytesOfWord w) = .ok (decodeWord w, []) := by
  simp [decode, bytesOfWord]

end Sys2Proof
end

