-- ==== Sys2Proof/Tests/Slice0.lean ====
section
/-! SUPPORT. Tests of single steps on small states, words written out from the spec's encodings, and for every obligation
a state that meets its hypotheses. -/

namespace Sys2Proof.Tests
set_option Elab.async false

open Sys2Proof Sys2Proof.Machine

/-! ## A small device -/

/-- What a test looks at in a next state. -/
def ends (o : Host.Outcome State Fault Refusal) (f : State → Bool) : Bool :=
  match o with
  | .next t => f t
  | _ => false

/-- A clause of two words with flags f1 for loads and f2 for other work, and literals. -/
def clause (lits : List Word) : Clause := ⟨0x20000240 + BitVec.ofNat 32 (lits.length * 2 ^ 25), [0, 0], lits⟩

/-- A team of 32 lanes with four of them active. -/
def team : Team :=
  { Team.absent with
    live := true
    uid := 1
    wg := 1
    allot := 96
    slice := 64
    pc := 0x2000
    mask := 0xF
    clause := some (clause []) }

/-- Its workgroup on core 0, with 4 KiB of scratchpad. -/
def group : Wg where
  uid := 1
  ctx := 0
  launch := 1
  index := 0
  core := 0
  phase := .resident
  prio := 0
  cls := 0
  clm := false
  smin := 0
  smax := 0
  scratch := 4096
  teams := 1
  regBytes := 0
  storeBytes := 0
  sems := [⟨5, []⟩, ⟨0, []⟩]
  tiles := []
  records := []
  sprog := [⟨false, 0, 0⟩, ⟨false, 0, 0⟩]
  mprog := ⟨false, 0, 0, 0⟩
  hank := none
  slots := [0]
  status := 0
  group := none
  segs := []
  chip := none
  left := 0
  back := none
  noticed := false
  trap := 0

/-- A device in which addresses below 2^30 translate to themselves, in hardware-coherent memory. -/
def dev (t : Team) : State :=
  { State.reset with
    cur := t
    wgs := [group]
    ctxs := [(0, { Context.reset with valid := true, assist := 2, trapBase := 0x10000 })]
    tlb := [⟨0, 0, 1, 0x1F⟩]
    svc := { ServiceCtl.reset with ready := true }
    nextUid := 2 }

/-- Registers of lane 0 on. -/
def team1 : Team := { team with mask := 1, v := [(2, 0x1000), (4, 7), (5, 0), (6, 9)], s := [(0, 0x1000), (1, 0), (2, 3)] }

/-- Memory with a word at 0x1000. -/
def mem1 : List Host.Cell := [(0x1000, 0x11), (0x1001, 0x22), (0x1002, 0x33)]

/-- A launch record at 0x3000: one role of two teams of 32 lanes with 16 registers, priority 2, class 1, 3 workgroups. -/
def recordBytes (roles : Nat) : List Byte :=
  leBytes 16 (roles + 2 * 8 + 64) ++ leBytes 16 3 ++ leBytes 8 0x5000 ++ leBytes 32 (9 + 2 ^ 32 * 8) ++ leBytes 8 0x4000 ++
    leBytes 8 (16 + 2 * 2 ^ 16)

/-- Its launch, taken. -/
def launch : Launch := launchOf (leNat (recordBytes 1)) 9 0 0x3000 none 4

/-- The context of a device changed. -/
def inCtx (s : State) (f : Context → Context) : State := s.setCtx 0 (f (s.ctx 0))

/-- A load of the word at 0x1000 that is on its way. -/
def load (kind : LoadKind) (dests : List (Nat × Dest)) : Load where
  team := 1
  seq := 0
  lane := 0
  kind := kind
  space := .hardware
  loc := 0x1000
  size := 4
  ext := .none
  dests := dests
  flag := 1
  setb := 15
  scope := 1
  short := false
  value := none
  chk := true

/-! ## Words (the examples that spec/ gives with their encodings) -/

theorem test_decode_system : decodeWord 0x0078FC7C = .getc 99 120 124 ∧ decodeWord 0x009F3C65 = .setc 120 101 ∧
    decodeWord 0x01393C66 = .hcall 100 120 102 ∧ decodeWord 0x015F3078 = .tlbinv 96 120 ∧ decodeWord 0x00DF3E78 = .trap 120 ∧
    decodeWord 0x00280010 = .mode 0x80010 ∧ decodeWord 0x0040001B = .mguard 0x1B := by decide +kernel

theorem test_decode_arithmetic : decodeWord 0x02820103 = .mac 8 2 3 ∧ decodeWord 0x08404278 = .cmplt 1 4 120 ∧
    decodeWord 0x0C01C189 = .xln 7 3 9 ∧ decodeWord 0x0C78857C = .tsum 98 10 := by decide +kernel

theorem test_decode_flow : decodeWord 0x1020BE78 = .brc 2 120 ∧ decodeWord 0x1022BE78 = .brc 10 120 ∧ decodeWord 0x10FF3E78 = .call 120 ∧
    decodeWord 0x111F047C = .calli 8 ∧ decodeWord 0x10997E78 = .loop 101 120 ∧ decodeWord 0x10BF3E78 = .mark 120 := by decide +kernel

theorem test_decode_memory : decodeWord 0x2082317C = .ldq 8 98 124 ∧ decodeWord 0x2141C178 = .stw 7 2 120 ∧
    decodeWord 0x2299B078 = .lds 102 96 120 ∧ decodeWord 0x2201807C = .ldwa 6 0 124 ∧ decodeWord 0x2241727C = .stwl 5 100 124 ∧
    decodeWord 0x2300417C = .pft 1 2 124 ∧ decodeWord 0x233F3003 = .cflush 96 3 ∧ decodeWord 0x24028178 = .atadd 10 2 120 ∧
    decodeWord 0x251F0109 = .rmadd 2 9 := by decide +kernel

theorem test_decode_bindings : decodeWord 0x28143078 = .bld 80 96 120 ∧ decodeWord 0x2834417C = .bldn 81 2 124 ∧
    decodeWord 0x28F43C7C = .badd 80 120 124 ∧ decodeWord 0x29140205 = .bcas 80 4 5 ∧ decodeWord 0x28C0A87C = .bchg 2 80 ∧
    decodeWord 0x28A07E64 = .bwait 1 124 100 ∧ decodeWord 0x28743E7C = .unbind 80 ∧ decodeWord 0x2A1F3C7C = .rbegin 120 ∧
    decodeWord 0x2A81B078 = .rldd 6 96 120 := by decide +kernel

theorem test_decode_engines : decodeWord 0x40003266 = .fork 0 100 102 ∧ decodeWord 0x4039407C = .rdv 101 0 ∧
    decodeWord 0x405F00FC = .ekill 1 ∧ decodeWord 0x413F0206 = .cpy8 4 6 ∧ decodeWord 0x421B3C7C = .close 108 120 124 ∧
    decodeWord 0x423F337C = .waitb 102 ∧ decodeWord 0x42E07278 = .semtry 1 100 120 ∧ decodeWord 0x4818B67C = .obres 98 108 ∧
    decodeWord 0x4860F268 = .mma 3 100 104 ∧ decodeWord 0x48A28182 = .ldacc 10 3 2 ∧ decodeWord 0x48FF326A = .mtrq 100 106 := by
  decide +kernel

theorem test_decode_teams : decodeWord 0x4C39307C = .arrive 100 96 124 ∧ decodeWord 0x4C597064 = .await 101 96 100 ∧
    decodeWord 0x4C1F3078 = .barinit 96 120 ∧ decodeWord 0x4CB9BE78 = .park 102 120 ∧ decodeWord 0x4CDF3C7C = .wake 120 ∧
    decodeWord 0x60014266 = .xch 5 4 102 ∧ decodeWord 0x60393078 = .tender 100 96 120 ∧ decodeWord 0x605F3C6C = .tclass 120 108 ∧
    decodeWord 0x68193078 = .crsw 100 96 120 ∧ decodeWord 0x6839727C = .crwait 101 100 ∧ decodeWord 0x691F3078 = .handoff 96 120 ∧
    decodeWord 0x70193C7C = .hattach 100 120 ∧ decodeWord 0x703F3C7C = .hdetach 120 ∧ decodeWord 0x70597C7C = .hquery 101 120 := by
  decide +kernel

/-- The first byte of an instruction is its lowest bits (R9). -/
theorem test_decode_bytes : decode [0x7C, 0x3C, 0x19, 0x70, 0xAA] = .ok (.hattach 100 120, [0xAA]) ∧
    (decode [0x7C, 0x3C, 0x19]).toOption = none ∧ decodeTableWord 32 0x70193C7C = some (.hattach 100 120) := by decide +kernel

theorem test_encode : encode (.mac 8 2 3) = some 0x02820103 ∧ (Instr.mac 8 2 3).wf = true := by decide +kernel

/-- Terms that name a unit, a place or a size that the device does not have. -/
theorem test_ill_formed : [Instr.refreshSteal 192 0, .refreshSteal 0 16, .machineError (.register 1 1024 0), .machineError (.register 1 0 96),
    .machineError (.l1Clean 192 0), .machineError (.l1Dirty 192 0), .machineError (.accumulator 192 0 0), .machineError (.accumulator 0 12 0),
    .machineError (.accumulator 0 0 16384), .machineError (.unattributed 192), .gets 192 0, .getm 255 0, .upgrade 456 0, .geth 463 0,
    .cleanEvictionNotice 480 0, .writeback 480 0, .watch 480 0, .renewal 480 0, .invalidation 480 0, .forward 480 0, .recall 480 0,
    .acknowledgement 480 0, .changeNotice 192 0, .leaseExpiry 480 0, .renewalDue 480 0, .rebalanceEpoch 4].all (fun i => !i.wf) = true ∧
    [Instr.refreshSteal 191 15, .machineError (.register 1 1023 95), .machineError (.accumulator 191 11 16383), .gets 191 0, .getm 256 0,
      .upgrade 455 0, .geth 464 0, .recall 479 0, .rebalanceEpoch 3].all Instr.wf = true := by decide +kernel

theorem test_ill_formed_more : [Instr.patrolScrub (2 ^ 48) .clean, .laneCommit 0 1024, .regionTimeout 0 1024, .pairtmo 192, .spindleProgramStart 192 0,
    .spindleProgramStart 0 2, .spindleProgramEnd 0 2, .engineOperationStart 192, .mmaStrip 192, .mmapStart 192,
    .atsInvalidation 16 0 0, .atsInvalidation 0 0 3, .placementResponse 16 0 0, .bid 0 192, .restore 0 192, .clockThrottle 192 0,
    .thermalShutdown 4, .kickRelease 2, .kickAcquire 2, .hostReadShared 2 0 0, .hostReadShared 0 0 2, .hostReadOwnership 0 0 2,
    .hostWriteback 0 0 0 [] false, .hostDropClean 0 0 2, .snoopTimeout 2, .contextDescriptorWrite 16 0 0 true,
    .contextDescriptorWrite 0 2 0 true, .contextDescriptorWrite 0 88 0 true, .lockInterface 16, .run 16, .linkDown 36, .portUp 36,
    .hostPortLinkLoss 2, .coreReEnable 192, .lockstepMismatch (.spindle 192 0), .lockstepMismatch (.spindle 0 2),
    .backInvalidateSnoopAnswer 0 0 0 (some []), .hostUncachedAccess 0 (2 ^ 48) 4 none, .hostUncachedAccess 0 0 4 (some [0]),
    .directoryDiagnosticRead (2 ^ 48), .unlistedOpcode 0x02820103, .unusedFieldNotZ 0x02820103].all (fun i => !i.wf) = true := by
  decide +kernel

/-! ## Steps -/

/-- A device where team 1 is next, at a clause of a NOP and a YIELD. -/
def dStep : State :=
  { dev { team1 with clause := some ⟨0x20000240, [0x001F3E7C, 0x00BF3E7C], []⟩ } with agenda := [.team 1] }

/-- The same after the time of a step has passed. -/
def dTicked : State := { dStep.tick with agenda := [] }

theorem test_step_runs : ∃ t c, dTicked.team? 1 = some t ∧ dTicked.ready t = true ∧ t.clause = some c ∧ c.words[t.idx]? = some 0x001F3E7C ∧
    decodeWord 0x001F3E7C = .nop := by
  refine ⟨_, _, rfl, rfl, rfl, ?_, by decide +kernel⟩
  rfl

theorem test_placed_word_is_fetched : ∃ t c, { (State.reset.withFetchWord 32 0x001F3E7C).tick with agenda := [] }.team? (State.reset.nextUid + 1) = some t ∧
    t.clause = some c ∧ c.words[t.idx]? = some 0x001F3E7C := by
  refine ⟨_, _, rfl, rfl, ?_⟩
  rfl

/-- Memory with a clause of MAC and TSUM with one literal at 0x2000: header ICNT 2, LCNT 1, SETA 1, SETB none. -/
def dClause : State :=
  { dev { team1 with clause := none } with
    mem := writeCells [] (cellsFrom 0x2000 (leBytes 4 0x220003E0 ++ leBytes 4 0x02820103 ++ leBytes 4 0x0C78857C ++ leBytes 4 77)) }

theorem test_clause_start : headerOk 0x220003E0 = true ∧ dClause.mayStart dClause.cur = true ∧ dClause.cur.duePending = none ∧
    ends (exec .clauseStart dClause) (fun t => t.cur.clause == some ⟨0x220003E0, [0x02820103, 0x0C78857C], [77]⟩ && t.cur.idx == 0 &&
      t.cur.flags == 2) = true := by decide +kernel

theorem test_clause_header_reserved : ends (exec .clauseStart { dClause with mem := writeCells dClause.mem [(0x2000, 0xE4)] })
    (fun t => t.cur.faultInfo == 0x08000000) = true := by decide +kernel

theorem test_unlisted : (dev team1).plain = true ∧ (dev team1).hasHandler = true ∧ formOf (opcodeOf 0xFFFFFFFF) = none ∧
    ends (exec (.unlistedOpcode 0xFFFFFFFF) (dev team1)) (fun t => t.cur.faultInfo == 0x08000000 && t.cur.pc == 0x10100) = true ∧
    ends (exec (.unusedFieldNotZ 0) (dev team1)) (fun t => t.cur.faultInfo == 0x10000000 && t.cur.pc == 0x10200) = true ∧
    (dev team1).hasSetb = true := by decide +kernel

/-- BR with its unused d field zero, first of a clause of two words. -/
theorem test_unlisted_illegal_first : (let t : Team := { team1 with clause := some ⟨0x20000000, [0x10003FFC, 0], []⟩ }
    (dev t).plain = true ∧ (dev t).hasHandler = true ∧ (dev t).lastInClause = false ∧ opcodeOf 0x10003FFC = 0x080 ∧
    ends (exec (.unusedFieldNotZ 0x10003FFC) (dev t)) (fun t => t.cur.faultInfo == 0x08000000) = true) := by decide +kernel

theorem test_reset_tracks_flags : ∀ t ∈ State.reset.teams, ∀ f : Nat, f < 12 → t.flags.getLsbD f = false := by decide +kernel

theorem test_memory_write : (writeCells mem1 (cellsFrom 0x1001 (leBytes 2 0x00AB))) = [(0x1000, 0x11), (0x1001, 0xAB)] ∧
    Memory.wf (writeCells mem1 (cellsFrom 0x1001 (leBytes 2 0x00AB))) = true := by decide +kernel

/-! ## Traps -/

/-- A clause of one word with literals, so that its instruction is the last. -/
def lastClause (lits : List Word) : Clause := ⟨0x10000240 + BitVec.ofNat 32 (lits.length * 2 ^ 25), [0], lits⟩

/-- A team whose next word is the last of its clause. -/
def teamL : Team := { team1 with clause := some (lastClause []) }

theorem test_trap : (dev teamL).plain = true ∧ (dev teamL).lastInClause = true ∧ (dev teamL).hasHandler = true ∧
    ends (exec (.trap 6) (dev teamL)) (fun t => t.cur.pc == 0x11300 && t.cur.faultInfo == 0x98000009 && t.cur.faultPc == 0x2008 &&
      t.cur.hlevel && t.cur.saveMask == 1) = true := by decide +kernel

theorem test_brk : ends (exec .brk (dev teamL)) (fun t => t.cur.pc == 0x11400 && t.cur.faultInfo == 0xA0000000) = true ∧
    ends (exec .brk (dev { teamL with clause := some (clause []) })) (fun t => t.cur.pc == 0x10100) = true := by decide +kernel

/-- The device with the launch of the workgroup. -/
def dEnd (t : Team) : State := { dev t with launches := [{ launch with id := 1, phase := .open_ }] }

theorem test_double_trap : (dEnd { teamL with tstat := 0x10000 }).hasHandler = false ∧
    ends (exec .brk (dEnd { teamL with tstat := 0x10000 })) (fun t => t.cur.ending && t.wgs.map (fun w => (w.status, w.trap)) == [(2, 20)]) = true := by decide +kernel

theorem test_sret : (dev { teamL with tstat := 0x10000 }).cur.hlevel = true ∧
    ends (exec .sret (dev { teamL with tstat := 0x10000, saveMode := 0x20010, saveMask := 0xF, faultPc := 0x3000000000004000, faultMask := 4 }))
      (fun t => t.cur.pc == 0x4000 && t.cur.idx == 3 && t.cur.mode == 0x20010 && t.cur.mask == 0xF && t.cur.only == some 4 &&
        !t.cur.hlevel) = true ∧
    ends (exec .sret (dev teamL)) (fun t => t.cur.pc == 0x10100) = true := by decide +kernel

theorem test_lowest_trap : ends (exec (.call 3) (dev team1)) (fun t => t.cur.faultInfo == 0x08000000) = true ∧
    ends (exec (.call 3) (dev teamL)) (fun t => t.cur.faultInfo == 0x10000000) = true ∧
    ends (exec (.call 120) (dev { teamL with clause := some (lastClause [2]) })) (fun t => t.cur.faultInfo == 0x18000000) = true := by
  decide +kernel

theorem test_misaligned : (dev team1).hasSeta = true ∧ (dev team1).hasSetb = true ∧
    team1.loadEntry (.ldw 8 2 6) = some ⟨8, 4, true, [(0, 0x1009, 4)]⟩ ∧
    ends (exec (.ldw 8 2 6) (dev team1)) (fun t => t.cur.faultInfo == 0x18000000) = true ∧
    ends (exec (.stw 8 2 124) (dev { team1 with v := [(2, 0), (3, 0xFFFFFFFF)] })) (fun t => t.cur.faultInfo == 0x29000000) = true := by
  decide +kernel

/-- A clause that names no flags. -/
def flagless : Team := { team1 with clause := some ⟨0x20001FE0, [0, 0], []⟩ }

theorem test_no_flag : flagless.seta = 15 ∧ flagless.setb = 15 ∧ (dev flagless).plain = true ∧
    ends (exec (.ldw 8 2 124) (dev flagless)) (fun t => t.cur.faultInfo == 0x08000000) = true ∧
    ends (exec (.mzero 3) (dev flagless)) (fun t => t.cur.faultInfo == 0x08000000) = true := by decide +kernel

/-! ## System and mode -/

theorem test_nop : (dev team1).plain = true ∧ team1.clause = some (clause []) ∧
    ends (exec .nop (dev team1)) (fun t => t.cur.idx == 1 && t.cur.pc == 0x2000) = true ∧
    ends (exec .nop (dev { team1 with idx := 1 })) (fun t => t.cur.idx == 0 && t.cur.pc == 0x200C && t.cur.clause == none) = true ∧
    ends (exec .yield (dev team1)) (fun t => t.cur.yielding && t.cur.idx == 1) = true := by decide +kernel

theorem test_mode : ends (exec (.mode 0x80010) (dev team1)) (fun t => t.cur.mode == 0x80010) = true ∧
    ends (exec (.mode 0x180010) (dev team1)) (fun t => t.cur.mode == 0x10 && t.cur.pc == 0x10100) = true ∧
    ends (exec (.mguard 0x1B) (dev team1)) (fun t => t.cur.mode == 0xD90) = true ∧
    ends (exec (.mguard 0x20) (dev team1)) (fun t => t.cur.pc == 0x10100) = true := by decide +kernel

/-- A team with literals 10 (COREID), 0 (TSTAT) and 0x43. -/
def teamLit (lit : Word) (v : Word) : Team := { team1 with clause := some (clause [lit]), s := [(2, v)] }

theorem test_getc : kRun (teamLit 1 0) 1 1 120 = true ∧ isZ 124 = true ∧ (teamLit 1 0).lit 0 = 1 ∧
    ends (exec (.getc 8 120 124) (dev (teamLit 1 0))) (fun t => t.cur.vget 0 8 == 0x10 && t.cur.idx == 1) = true ∧
    ends (exec (.getc 100 120 124) (dev (teamLit 0 0))) (fun t => t.cur.sget 4 == 0) = true ∧
    ends (exec (.getc 100 120 124) (dev (teamLit 0x13 0))) (fun t => t.cur.pc == 0x10200) = true := by decide +kernel

theorem test_setc : ends (exec (.setc 120 98) (dev (teamLit 0 0x3E0))) (fun t => t.cur.tstat == 0x3E0) = true ∧
    ends (exec (.setc 120 98) (dev (teamLit 0x43 1))) (fun t => t.cur.faultInfo == 0x2A000000) = true ∧
    ends (exec (.setc 120 98) (inCtx (dev (teamLit 0x43 1)) (fun c => { c with priv := true }))) (fun t => (t.ctx 0).hazchk == 1) = true ∧
    ends (exec (.setc 120 98) (dev (teamLit 3 1))) (fun t => t.cur.pc == 0x10200) = true := by decide +kernel

theorem test_hcall : ends (exec (.hcall 100 120 100) (dev (teamLit 9 0))) (fun t => decide (t.cur.park = .hcall 9 none)) = true ∧
    ends (exec (.hcall 102 120 100) (dev { teamLit 9 0 with park := .hcall 9 (some 5) })) (fun t => t.cur.sget 6 == 5 && t.cur.idx == 1 &&
      decide (t.cur.park = .running)) = true := by decide +kernel

theorem test_tlbinv : ends (exec (.tlbinv 96 98) (dev { team1 with s := [(2, 2)] })) (fun t => t.tlb == [] && t.cur.idx == 1) = true ∧
    ends (exec (.tlbinv 96 98) { dev { team1 with s := [(2, 2)] } with tlb := [⟨1, 0, 1, 0x1F⟩] }) (fun t => t.tlb.length == 1) = true := by
  decide +kernel

/-! ## Arithmetic, conversions, lanes -/

/-- A TYPE under defaults, in a team of one active lane. -/
def typed (type : Nat) (v : Table Word) : Team := { team1 with mode := BitVec.ofNat 21 (0x10 + type * 2 ^ 17), v := v }

/-- Whether v8:v9 of lane 0 hold a number after an instruction. -/
def leaves (i : Instr) (t : Team) (x : Nat) : Bool :=
  ends (exec i (dev t)) (fun s => (s.cur.vget 0 8).toNat + (s.cur.vget 0 9).toNat * 2 ^ 32 == x && s.cur.idx == 1)

/-- v2 = −7, v4 = 2. -/
def ints (type : Nat) : Team := typed type [(2, 0xFFFFFFF9), (3, 0xFFFFFFFF), (4, 2)]

theorem test_computes : (dev (ints 0)).computes = true ∧ (ints 0).entry (.add 8 2 4) = some ⟨8, 1, 1, true⟩ ∧ (ints 0).leader ≠ none := by
  decide +kernel

theorem test_integers : [(Instr.add 8 2 4, 0xFFFFFFFB), (.sub 8 2 4, 0xFFFFFFF7), (.mul 8 2 4, 0xFFFFFFF2), (.mulh 8 2 4, 0xFFFFFFFF),
    (.mac 8 2 4, 0xFFFFFFF2), (.div 8 2 4, 0xFFFFFFFD), (.rem 8 2 4, 0xFFFFFFFF), (.min 8 2 4, 0xFFFFFFF9), (.max 8 2 4, 2),
    (.abs 8 2, 7), (.neg 8 2, 7), (.clz 8 4, 30), (.popc 8 2, 30)].all (fun e => leaves e.1 (ints 0) e.2) = true := by decide +kernel

theorem test_integers_unsigned : [(Instr.mulh 8 2 4, 1), (.div 8 2 4, 0x7FFFFFFC), (.rem 8 2 4, 1), (.min 8 2 4, 2), (.div 8 2 124, 0xFFFFFFFF),
    (.rem 8 2 124, 0xFFFFFFF9)].all (fun e => leaves e.1 (ints 1) e.2) = true := by decide +kernel

theorem test_integers_wide : [(Instr.add 8 2 4, 0xFFFFFFFFFFFFFFFB), (.mul 8 2 4, 0xFFFFFFFFFFFFFFF2), (.div 8 2 4, 0xFFFFFFFFFFFFFFFD)].all
    (fun e => leaves e.1 (ints 2) e.2) = true := by decide +kernel

theorem test_bits : [(Instr.and 8 2 4, 0), (.or 8 2 4, 0xFFFFFFFB), (.xor 8 2 4, 0xFFFFFFFB), (.mov 8 4, 2), (.sel 8 2 4, 0xFFFFFFF9),
    (.shl 8 2 4, 0xFFFFFFE4), (.shr 8 2 4, 0x3FFFFFFE), (.sra 8 2 4, 0xFFFFFFFE), (.shl 8 2 2, 0), (.sra 8 2 2, 0xFFFFFFFF)].all
    (fun e => leaves e.1 (ints 0) e.2) = true := by decide +kernel

/-- The control word: position 4, length 8. -/
def fields : Team := typed 1 [(2, 0xABCDE), (4, 0x804), (8, 0x11111111)]

theorem test_fields : leaves (.bfx 8 2 4) fields 0xCD = true ∧ leaves (.bfi 8 2 4) fields 0x11111DE1 = true := by decide +kernel

theorem test_operand_code : (ints 12).type = 12 ∧ ((ints 0).entry (.add 120 2 4)).map (fun e => e.legal) = some false ∧
    ends (exec (.add 120 2 4) (dev (ints 0))) (fun t => t.cur.pc == 0x10200 && t.cur.v == (ints 0).v) = true := by decide +kernel

/-- 1.5, −2 and a NaN. -/
def floats : Team := typed 4 [(2, 0x3FC00000), (4, 0xC0000000), (6, 0x7FC00000), (7, 0x40800000)]

theorem test_floats : [(Instr.add 8 2 4, 0xBF000000), (.mul 8 2 4, 0xC0400000), (.mac 8 2 4, 0xC0400000), (.sqrt 8 7, 0x40000000),
    (.rndi 8 2, 0x40000000), (.neg 8 4, 0x40000000), (.abs 8 4, 0x40000000), (.max 8 2 4, 0x3FC00000), (.add 8 2 6, 0x7FC00000)].all
    (fun e => leaves e.1 floats e.2) = true := by decide +kernel

theorem test_approximations : [Instr.rcp 8 7, .rsq 8 7, .exp2 8 2, .log2 8 7, .sinp 8 2, .cosp 8 2].all (fun i =>
    (floats.entry i).any (fun e => e.legal)) = true ∧ (dev floats).computes = true := by decide +kernel

theorem test_convert : leaves (.cvt 8 2 0) floats 0x4E7F0000 = true ∧ leaves (.cvt 8 2 4) (typed 0 [(2, 0x3FC00000)]) 2 = true := by decide +kernel

/-- What predicate 1 of lane 0 holds. -/
def holds (i : Instr) (t : Team) (b : Bool) : Bool := ends (exec i (dev t)) (fun s => s.cur.pget 0 1 == b && s.cur.idx == 1)

theorem test_compares : [(Instr.cmpeq 1 2 4, false), (.cmpne 1 2 4, true), (.cmplt 1 2 4, true), (.cmple 1 4 2, false)].all (fun e =>
    holds e.1 (ints 0) e.2) = true ∧ holds (.cmplt 1 2 4) (ints 1) false = true ∧
    [(Instr.cmpeq 1 6 6, false), (.cmpne 1 6 6, true), (.cmpun 1 2 6, true), (.cmpun 1 2 4, false)].all (fun e => holds e.1 floats e.2) = true ∧
    ends (exec (.cmplt 1 2 6) (dev floats)) (fun t => t.cur.tstat == 0x10) = true := by decide +kernel

/-- Predicate 2 is true in lane 0. -/
def preds : Team := { team1 with p := [(2, 1)] }

theorem test_predicates : preds.pget 0 2 = true ∧ [(Instr.pand 1 2 10, false), (.por 1 2 10, true), (.pxor 1 2 2, false), (.pnot 1 10, true),
    (.vany 1 2, true), (.vall 1 10, false)].all (fun e => holds e.1 preds e.2) = true ∧
    leaves (.ballot 8 2 124) preds 1 = true := by decide +kernel

/-- Four active lanes; v2 of lane l is 10 + l. -/
def four : Team := { typed 0 [(2, 10), (98, 11), (194, 12), (290, 13), (4, 3), (100, 9)] with mask := 0xF }

theorem test_lanes : four.vget 1 2 = 11 ∧ ends (exec (.xln 8 2 4) (dev four)) (fun t => t.cur.vget 0 8 == 13 && t.cur.vget 1 8 == 0) = true ∧
    ends (exec (.xlnx 8 2 120) (dev { four with clause := some (clause [1]) })) (fun t => t.cur.vget 0 8 == 11 && t.cur.vget 1 8 == 10) = true ∧
    ends (exec (.rdlane 100 2 120) (dev { four with clause := some (clause [2]) })) (fun t => t.cur.sget 4 == 12) = true := by decide +kernel

theorem test_reductions : ends (exec (.tsum 100 2) (dev four)) (fun t => t.cur.sget 4 == 46) = true ∧
    ends (exec (.tmin 100 2) (dev four)) (fun t => t.cur.sget 4 == 10) = true ∧
    ends (exec (.tmax 100 2) (dev four)) (fun t => t.cur.sget 4 == 13) = true ∧
    ends (exec (.tscan 8 2) (dev four)) (fun t => t.cur.vget 2 8 == 33) = true := by decide +kernel

/-- A scale of 1.0 in k0. -/
def scaled (v : Table Word) : Team := { typed 4 v with clause := some (clause [0x3F800000]) }

/-- 0x38 is 1.0 in E4M3; in INT8 it is 56; bfloat16 and binary16 pairs widen low half first. -/
theorem test_unpack : [(Instr.unpkBf 8 2 120, 0x3FC0C000, 0xC0000000 + 0x3FC00000 * 2 ^ 32), (.unpkE4m3 8 2 120, 0xB838, 0x3F800000 + 0xBF800000 * 2 ^ 32),
    (.unpkI8 8 2 120, 0xFF38, 0x42600000 + 0xBF800000 * 2 ^ 32), (.unpkH 8 2 120, 0xBC004000, 0x40000000 + 0xBF800000 * 2 ^ 32),
    (.unpkF4 8 2 120, 0x72, 0x3F800000 + 0x40C00000 * 2 ^ 32), (.unpkE5m2 8 2 120, 0xBC3C, 0x3F800000 + 0xBF800000 * 2 ^ 32)].all (fun e =>
      leaves e.1 (scaled [(2, e.2.1)]) e.2.2) = true ∧
    ends (exec (.unpkQn4 8 2 120) (dev (scaled []))) (fun t => t.cur.idx == 1) = true := by decide +kernel

theorem test_pack : [(Instr.packBf 8 2 120, 0x3FC0C000), (.packE4m3 8 2 120, 0x3CC0), (.packH 8 2 120, 0x3E00C000), (.packI8 8 2 120, 0x2FE),
    (.packE5m2 8 2 120, 0x3EC0), (.packF4 8 2 120, 0x3C)].all (fun e =>
      leaves e.1 (scaled [(2, 0xC0000000), (3, 0x3FC00000)]) e.2) = true ∧
    ends (exec (.packQn4 8 2 120) (dev (scaled []))) (fun t => t.cur.idx == 1) = true := by decide +kernel

theorem test_float_exceptions : (dev floats).plain = true ∧ floats.sat = false ∧
    ends (exec (.sqrt 8 4) (dev floats)) (fun t => t.cur.vget 0 8 == 0x7FC00000 && t.cur.tstat == 0x10) = true ∧
    ends (exec (.rcp 8 124) (dev floats)) (fun t => t.cur.vget 0 8 == 0x7F800000 && t.cur.tstat == 0x08) = true ∧
    ends (exec (.sqrt 8 4) (dev { floats with tstat := 0x200 })) (fun t => t.cur.faultInfo == 0x90000010 && t.cur.vget 0 8 == 0) = true ∧
    ends (exec (.rcp 8 124) (dev { floats with tstat := 0x100 })) (fun t => t.cur.faultInfo == 0x90000008) = true := by decide +kernel

/-! ## Control flow -/

/-- Lanes 0 to 3 active at the end of a clause with a literal offset of 0x40; predicate 1 is true in lanes 0 and 1. -/
def teamF : Team := { teamL with mask := 0xF, p := [(1, 3)], clause := some (lastClause [0x40]), s := [(0, 5), (5, 2)] }

theorem test_branches : (dev teamF).plain = true ∧ (dev teamF).lastInClause = true ∧ skOk teamF true 120 = true ∧
    (teamF.branchTo 120).toNat % 4 = 0 ∧ ends (exec (.br 120) (dev teamF)) (fun t => t.cur.pc == 0x2040) = true ∧
    ends (exec (.brany 1 120) (dev teamF)) (fun t => t.cur.pc == 0x2040 && t.cur.mask == 0xF) = true ∧
    ends (exec (.brall 1 120) (dev teamF)) (fun t => t.cur.pc == 0x200C) = true ∧
    ends (exec (.loop 101 120) (dev teamF)) (fun t => t.cur.pc == 0x2040 && t.cur.sget 5 == 1) = true ∧
    ends (exec (.loop 101 120) (dev { teamF with s := [(5, 1)] })) (fun t => t.cur.pc == 0x200C && t.cur.sget 5 == 0) = true := by decide +kernel

theorem test_brc : ends (exec (.brc 1 120) (dev teamF)) (fun t => t.cur.pc == 0x2040 && t.cur.mask == 3 &&
      t.cur.stack == [.pending 0x200C 0xC teamF.s 0 false]) = true ∧
    ends (exec (.brc 2 120) (dev teamF)) (fun t => t.cur.pc == 0x200C && t.cur.mask == 0xF && t.cur.stack == []) = true := by decide +kernel

theorem test_mark_call : ends (exec (.mark 120) (dev teamF)) (fun t => t.cur.pc == 0x200C &&
      t.cur.stack.map DivEntry.mask? == [some 0xF]) = true ∧
    ends (exec (.call 120) (dev teamF)) (fun t => t.cur.pc == 0x2040 && t.cur.stack.length == 1 && t.cur.mask == 0xF) = true := by decide +kernel

/-- Lane 0 calls 0x3000, lane 1 calls 0x4000. -/
def callers : Team := { teamF with mask := 3, v := [(8, 0x3000), (104, 0x4000)] }

theorem test_calli : vRun callers 2 2 8 = true ∧ (callers.opnd64 1 8) = 0x4000 ∧ ends (exec (.calli 8) (dev callers)) (fun t => t.cur.pc == 0x3000 &&
    t.cur.mask == 1 && t.cur.stack.length == 2) = true := by decide +kernel

/-- A team inside a call whose other lanes are pending or have returned. -/
def inCall (above : List DivEntry) : Team :=
  { teamF with mask := 3, stack := above ++ [.call 0x5000 0x20010 0xC 0xF [(0, 5)] 0 []] }

theorem test_ret : ends (exec .ret (dev (inCall []))) (fun t => t.cur.pc == 0x5000 && t.cur.mask == 0xF && t.cur.mode == 0x20010 &&
      t.cur.stack == []) = true ∧
    ends (exec .ret (dev (inCall [.pending 0x6000 4 [] 0 false]))) (fun t => t.cur.pc == 0x6000 && t.cur.mask == 4 && t.cur.stack.length == 1) = true ∧
    ends (exec .ret (dev teamF)) (fun t => t.cur.faultInfo == 0x08000000) = true := by decide +kernel

theorem test_join : ends (exec .join (dev { teamF with stack := [.pending 0x6000 0x30 [(1, 4)] 0 false] })) (fun t => t.cur.pc == 0x6000 &&
      t.cur.mask == 0x30 && t.cur.s == [(1, 4)]) = true ∧
    ends (exec .join (dev { teamF with stack := [.rejoin 0x6000 0x3F [(1, 4)] 0 []] })) (fun t => t.cur.pc == 0x6000 && t.cur.mask == 0x3F &&
      t.cur.stack == []) = true ∧
    ends (exec .join (dev (inCall []))) (fun t => t.cur.faultInfo == 0x08000000) = true ∧
    lowestLane 0x3F = some 0 := by decide +kernel

/-- The top entry has lost its lanes: JOIN acts on the one below. -/
theorem test_join_skips : ends (exec .join (dev { teamF with stack := [.pending 0x6000 0 [] 0 false, .pending 0x7000 1 [] 0 false] }))
    (fun t => t.cur.pc == 0x7000) = true := by decide +kernel

theorem test_exit : ends (exec .exit (dev teamF)) (fun t => t.cur.ending && t.cur.mask == 0) = true ∧
    ends (exec .exit (dev { teamF with stack := [.pending 0x6000 0x31 [] 0 false] })) (fun t => t.cur.pc == 0x6000 && t.cur.mask == 0x30 &&
      !t.cur.ending) = true := by decide +kernel

/-! ## Loads, stores, fences -/

/-- v2:v3 = 0x1000, data in v8 to v11, and memory below. -/
def teamM : Team := { team1 with v := [(2, 0x1000), (4, 7), (8, 0x44434241), (9, 0x48474645), (10, 0x4C4B4A49), (11, 0x504F4E4D)] }

/-- A device for it. -/
def dMem : State := { dev teamM with mem := mem1 }

theorem test_load_starts : dMem.plain = true ∧ dMem.hasSeta = true ∧ dMem.quiet ∧ dMem.placed Need.load [(0, 0x1000, 4)] (fun _ => (.hardware, 0x1000)) ∧
    teamM.loadEntry (.ldw 12 2 124) = some ⟨12, 4, true, [(0, 0x1000, 4)]⟩ ∧
    ends (exec (.ldw 12 2 124) dMem) (fun t => t.loads.map (fun x => (x.lane, x.loc, x.size, x.flag, x.dests)) ==
      [(0, 0x1000, 4, 1, [(0, .vec 0 12)])] && t.cur.vget 0 12 == 0 && t.cur.idx == 1) = true := by decide +kernel

theorem test_loads : [(Instr.ldb 12 2 124, 1, 1), (.ldh 12 2 124, 2, 1), (.ldd 12 2 124, 8, 2), (.ldq 12 2 124, 16, 4), (.lds 100 96 124, 4, 1), (.ldsd 100 96 124, 8, 2)].all (fun e => ends (exec e.1 dMem) (fun t =>
      t.loads.map (fun x => (x.size, x.dests.length)) == [(e.2.1, e.2.2)])) = true := by decide +kernel

/-- The core holds the line. -/
def dHeld : State := { dMem with coh := { Coherence.reset with copies := [{ agent := 0, line := 32, st := .s, managed := false, stamp := 0x7000, bytes := [], dirty := [], since := 0 }] } }

theorem test_extension : ends (exec (.ldb 12 2 124) dMem) (fun t => t.loads.map (fun x => ({ x with value := some 0x80 } : Load).word 0) ==
    [0xFFFFFF80]) = true ∧ ends (exec (.ldwa 12 2 124) dMem) (fun t => t.loads == [] && decide (t.cur.park = .access) && t.coh.reqs == [⟨.getS, 0, 32, [], [], none⟩]) = true ∧
    [(Instr.ldwa 12 2 124, 0x332211), (.ldda 12 2 124, 0x332211)].all (fun e => ends (exec e.1 dHeld) (fun t =>
      t.loads.map (fun x => x.value) == [some e.2])) = true := by
  decide +kernel

/-- The lane slice window: the team's own store (R131). -/
def teamMs : Team := { teamM with v := [(2, 0x10), (3, 0xFFFFF000), (8, 0x44434241), (9, 0x48474645), (10, 0x4C4B4A49), (11, 0x504F4E4D)] }

theorem test_local_store : (dev teamMs).placed Need.store [(0, 0xFFFFF00000000010, 4)] (fun _ => (.store, locSlice 1 0 0x10)) ∧
    teamMs.storeEntry (.stw 8 2 124) = some ⟨8, 4, true, [(0, 0xFFFFF00000000010, 4)]⟩ ∧ teamMs.fencer = [] ∧
    ends (exec (.stw 8 2 124) (dev teamMs)) (fun t => cellNat t.mem (locSlice 1 0 0x10) 8 == 0x44434241 && t.path == []) = true ∧
    [(Instr.stb 8 2 124, 0x41), (.sth 8 2 124, 0x4241), (.std 8 2 124, 0x4847464544434241), (.stq 8 2 124, 0x504F4E4D4C4B4A494847464544434241)].all
      (fun e => ends (exec e.1 (dev teamMs)) (fun t => cellNat t.mem (locSlice 1 0 0x10) 16 == e.2)) = true := by decide +kernel

/-- A load of the team is on its way. -/
def dFence : State := { dMem with loads := [{ load .plain [(0, .vec 0 12)] with value := some 0 }], nextSeq := 1 }

theorem test_queued_store : ends (exec (.stw 8 2 124) dMem) (fun t => t.path.map (fun p => (p.loc, p.cells, p.hold, p.tag.flag)) ==
      [(0x1000, [(0x1000, 0x41), (0x1001, 0x42), (0x1002, 0x43), (0x1003, 0x44)], [], 2)] && t.mem == mem1) = true ∧
    dFence.quiet ∧ dFence.accessesDone 1 1 1 = false ∧ ends (exec (.stwl 8 2 124) dFence) (fun t => t.path.map (fun p => p.hold) == [[(1, 1)]]) = true ∧
    ends (exec (.stwl 8 2 124) dMem) (fun t => t.path.map (fun p => p.hold) == [[]]) = true ∧
    ends (exec (.stdl 8 2 124) dMem) (fun t => t.path.map (fun p => p.cells.length) == [8]) = true := by decide +kernel

theorem test_atomics : dMem.placed Need.rmw [(0, 0x1000, 4)] (fun _ => (.hardware, 0x1000)) ∧
    (teamM.atomicEntry (.atadd 12 2 4)).map (fun e => e.2.2) = some ⟨12, 4, true, [(0, 0x1000, 4)]⟩ ∧
    [(Instr.atadd 12 2 4, AtOp.add), (.atand 12 2 4, .and), (.ator 12 2 4, .or), (.atxor 12 2 4, .xor), (.atmin 12 2 4, .min), (.atmax 12 2 4, .max),
      (.atxch 12 2 4, .xch), (.atcas 12 2 4, .cas)].all (fun e => ends (exec e.1 dMem) (fun t => t.loads.map (fun x => x.kind) ==
        [.atomic e.2 0 7 0] && t.mem == mem1)) = true := by decide +kernel

theorem test_reductions_at_memory : dMem.placed Need.red [(0, 0x1000, 4)] (fun _ => (.hardware, 0x1000)) ∧
    [(Instr.rmadd 2 4, AtOp.add), (.rmand 2 4, .and), (.rmor 2 4, .or), (.rmxor 2 4, .xor), (.rmmin 2 4, .min),
    (.rmmax 2 4, .max)].all (fun e => ends (exec e.1 dMem) (fun t => t.path.map (fun p => p.red) == [some ⟨e.2, 0, 7, 4⟩] && t.mem == mem1)) = true := by
  decide +kernel

theorem test_fences_pass : dMem.readsDone 1 0 = true ∧ dMem.accessesDone 1 0 1 = true ∧ [Instr.fencea, .fencer, .fences, .pft 1 2 124].all (fun i =>
    ends (exec i dMem) (fun t => t.cur.idx == 1 && t.cur.fencer == [])) = true := by decide +kernel

theorem test_fences_wait : dFence.readsDone 1 1 = false ∧ dFence.accessesDone 1 1 1 = false ∧
    ends (exec .fencea dFence) (fun t => decide (t.cur.park = .access)) = true ∧
    ends (exec .fences dFence) (fun t => decide (t.cur.park = .access)) = true ∧
    ends (exec .fencer dFence) (fun t => t.cur.fencer == [(1, 1)] && t.cur.idx == 1) = true := by decide +kernel

theorem test_cache_maintenance : dMem.placed Need.load [(0, 0x1000, 1)] (fun _ => (.hardware, 0x1000)) ∧
    [Instr.cflush 2 124, .cclean 2 124, .cinv 2 124].all (fun i => ends (exec i dMem) (fun t => t.cur.idx == 1 && t.mem == mem1)) = true := by
  decide +kernel

/-! ## Bindings and regions -/

/-- Lane 0 alone, with a word in memory at the address in v2:v3. -/
def dBind : State := { dev team1 with mem := mem1 }

theorem test_bld_starts : dBind.plain = true ∧ dBind.hasSeta = true ∧
    dBind.placed Need.binding [(0, 0x1000, 4)] (fun _ => (.hardware, 0x1000)) ∧ dBind.quiet ∧ dBind.coreBobbins 0 = [] ∧
    pinnable [0x1000] ∧ dBind.cur.bindEntry (.bld 8 2 124) = some (false, ⟨8, 4, true, [(0, 0x1000, 4)]⟩) ∧
    ends (exec (.bld 8 2 124) dBind) (fun t => t.loads.map (fun x => (x.kind, x.loc, x.dests)) ==
      [(.bind false false 0x1000 false, 0x1000, [(0, .vec 0 8)])] && t.cur.idx == 1) = true := by decide +kernel

theorem test_bldn_starts : ends (exec (.bldn 8 2 124) dBind) (fun t => t.loads.map (fun x => x.kind) ==
    [.bind true false 0x1000 false]) = true := by decide +kernel

theorem test_bldd_starts : ends (exec (.bldd 8 2 124) dBind) (fun t => t.loads.map (fun x => (x.kind, x.dests)) ==
    [(.bind false true 0x1000 false, [(0, .vec 0 8), (1, .vec 0 9)])]) = true := by decide +kernel

/-- v8 of lane 0 is bound to 0x1000, v9 of lane 0 notifies of 0x1080 and has changed. -/
def dBound : State :=
  { dev { team1 with bindings := [(8, ⟨false, false, 0x1000, .hardware, 0x1000, false, true, false, 0, 0, false, none⟩),
      (9, ⟨true, false, 0x1080, .hardware, 0x1080, true, false, false, 0, 0, false, none⟩)] } with mem := mem1 }

theorem test_unbind_one : dBound.plain = true ∧ vRun dBound.cur 1 1 8 = true ∧
    ends (exec (.unbind 8) dBound) (fun t => t.cur.bindings.map (fun e => e.1) == [9]) = true := by decide +kernel

theorem test_unball_all : ends (exec .unball dBound) (fun t => t.cur.bindings == []) = true := by decide +kernel

theorem test_bchg_moves : ends (exec (.bchg 1 9) dBound) (fun t => t.cur.pget 0 1 &&
    t.cur.bindings.all (fun e => !e.2.chg)) = true := by decide +kernel

/-- The observation point of BWAIT sees the pending change of v8 and reloads it. -/
theorem test_bwait_sees : ends (exec (.bwait 2 8 98) dBound) (fun t => t.cur.pget 0 2 && t.cur.vget 0 8 == 0x332211 &&
    decide (t.cur.park = .running)) = true := by decide +kernel

theorem test_bwait_waits : ends (exec (.bwait 2 8 98) { dBind with cur := { team1 with
    bindings := [(8, ⟨false, false, 0x1000, .hardware, 0x1000, false, false, false, 0, 0, false, none⟩)] } })
    (fun t => decide (t.cur.park = .bwait (some 3) false)) = true := by decide +kernel

theorem test_bwait_unbound : ends (exec (.bwait 2 8 98) dBind)
    (fun t => decide (t.cur.park = .running) && !t.cur.pget 0 2) = true := by decide +kernel

theorem test_badd_starts : dBound.quiet ∧ ends (exec (.badd 8 4 10) dBound) (fun t => t.loads.map (fun x =>
    (x.kind, x.loc, x.size, x.dests)) == [(.bound .add 0 7 0 [.vec 0 10], 0x1000, 4, [(0, .vec 0 8)])]) = true := by decide +kernel

theorem test_bxch_starts : ends (exec (.bxch 8 4 124) dBound) (fun t => t.loads.map (fun x => x.kind) ==
    [.bound .xch 0 7 0 [.none]]) = true := by decide +kernel

theorem test_bcas_starts : ends (exec (.bcas 8 4 6) dBound) (fun t => t.loads.map (fun x => x.kind) ==
    [.bound .cas 0 7 9 []]) = true := by decide +kernel

/-- Lane 0 has a region open at the top of the stack. -/
def dRegion : State :=
  { dev { team1 with
      region := [(0, ⟨true, false, 0, [], 0, [], [], [], [], [], 0⟩)]
      stack := [.pending 0x3000 0 [] 0 true] } with mem := mem1 }

theorem test_rbegin_opens : ends (exec (.rbegin 120) { dBind with cur := { team1 with clause := some (clause [0x40]) } })
    (fun t => decide (t.cur.stack = [.pending 0x2040 0 team1.s 0 true]) && t.cur.laneOpen 0 && !t.cur.laneOpen 1) = true := by
  decide +kernel

/-- The core shares the line. -/
def shares (s : State) : State := { s with coh := { s.coh with copies := [⟨0, 32, .s, 0x7000, false, [], [], 0⟩] } }

theorem test_rldw_reads : dRegion.plainRegion = true ∧ dRegion.still ∧ dRegion.cur.contribLanes = [0] ∧
    dRegion.placed Need.load [(0, dRegion.cur.effective 0 2 124, 4)] (fun _ => (.hardware, 0x1000)) ∧
    ends (exec (.rldw 8 2 124) dRegion) (fun t => decide (t.cur.park = .access) && t.coh.reqs == [⟨.getS, 0, 32, [], [], none⟩]) = true ∧
    ends (exec (.rldw 8 2 124) (shares dRegion)) (fun t => (t.cur.rlane? 0).map (fun r => (r.inputs, r.lines, r.tags)) ==
      some ([⟨0x1000, 4, 0x332211, false⟩], [(32, false)], [(8, ⟨0, 0⟩)])) = true := by decide +kernel

theorem test_rldd_reads : ends (exec (.rldd 8 2 124) (shares dRegion)) (fun t => (t.cur.rlane? 0).map (fun r => r.inputs) ==
    some [⟨0x1000, 8, 0x332211, false⟩]) = true := by decide +kernel

theorem test_rabort_leaves : ends (exec .rabort dRegion) (fun t => t.cur.pc == 0x3000 && t.cur.mask == 1 &&
    (t.cur.rlane? 0).map (fun r => (r.open_, r.code)) == some (false, 10)) = true := by decide +kernel

theorem test_rcommit_waits : ends (exec .rcommit dRegion) (fun t => decide (t.cur.park = .commit)) = true ∧
    ends (exec .rcommit { dBind with cur := { team1 with park := .commit } })
      (fun t => decide (t.cur.park = .running) && t.cur.idx == 1) = true := by decide +kernel

theorem test_rcommit_outside : dBind.hasHandler = true ∧ ends (exec .rcommit dBind)
    (fun t => t.cur.faultInfo == 0x08000000 && t.cur.pc == 0x10100) = true := by decide +kernel

/-- Lane 0 at its commit: it read 5 from 0x1000 and stores that plus 2 there. -/
def dCommit (written : Bool) (concrete : Bool) : State :=
  { dev { team1 with
      park := .commit
      region := [(0, ⟨true, false, 0, [⟨0x1000, 4, 5, concrete⟩], 0, [], [⟨.hardware, 0x1000, 4, 7, some ⟨0, 2⟩, none, 15, false⟩],
        [(32, written)], [], [], 0⟩)]
      stack := [.pending 0x3000 0 [] 0 true] } with
    mem := mem1
    coh := { Coherence.reset with copies := [⟨0, 32, .m, 0, false, [], [], 0⟩] } }

theorem test_lane_commit : ends (exec (.laneCommit 1 0) (dCommit false false)) (fun t => cellNat t.mem 0x1000 4 == 7 &&
      (t.cur.rlane? 0).map (fun r => (r.open_, r.code, r.repaired)) == some (false, 0, false)) = true ∧
    ends (exec (.laneCommit 1 0) (dCommit true false)) (fun t => cellNat t.mem 0x1000 4 == 0x332213 &&
      (t.cur.rlane? 0).map (fun r => (r.open_, r.code, r.repaired)) == some (false, 0, true)) = true := by decide +kernel

theorem test_lane_abort : ends (exec (.laneCommit 1 0) (dCommit true true)) (fun t => t.mem == mem1 &&
    (t.cur.rlane? 0).map (fun r => (r.open_, r.code)) == some (false, 1) && t.cur.mask == 0) = true := by decide +kernel

/-- Without the line the lane asks for it. -/
theorem test_commit_asks : ends (exec (.laneCommit 1 0) { dCommit false false with coh := Coherence.reset }) (fun t => t.mem == mem1 &&
    t.coh.reqs == [⟨.getM, 0, 32, [], [], none⟩] && (t.cur.rlane? 0).map (fun r => r.open_) == some true) = true := by decide +kernel

theorem test_region_timeout : ends (exec (.regionTimeout 1 0) dRegion) (fun t => t.cycle == 65536 && t.cur.pc == 0x3000 &&
    (t.cur.rlane? 0).map (fun r => (r.open_, r.code)) == some (false, 9)) = true := by decide +kernel

/-! ## Core events -/

/-- A device with loads outstanding. -/
def dLoads (ls : List Load) (bs : List (Nat × Binding)) : State :=
  { dev { team1 with bindings := bs } with mem := mem1, loads := ls }

/-- The line is modified in core 0's L1. -/
def dOwned (ls : List Load) (bs : List (Nat × Binding)) : State :=
  { dLoads ls bs with coh := { Coherence.reset with copies := [⟨0, 32, .m, 0, false, [], [], 0⟩] } }

theorem test_load_returns : (shares (dLoads [load .plain [(0, .vec 0 8)]] [])).still ∧
    (dLoads [load .plain [(0, .vec 0 8)]] []).team? 1 = some team1 ∧
    ends (exec (.loadDataReturn 0 0) (dLoads [load .plain [(0, .vec 0 8)]] [])) (fun t => t.cur.vget 0 8 == 0 &&
      t.coh.reqs == [⟨.getS, 0, 32, [], [], none⟩] && t.loads.length == 1) = true ∧
    ends (exec (.loadDataReturn 0 0) (shares (dLoads [load .plain [(0, .vec 0 8)]] [])))
      (fun t => t.cur.vget 0 8 == 0x332211 && t.loads == []) = true := by decide +kernel

theorem test_load_one_word : ends (exec (.loadDataReturn 0 1)
    (shares (dLoads [{ load .plain [(0, .scal 4), (1, .scal 5)] with size := 8 }] [])))
    (fun t => t.cur.sget 5 == 0 && t.cur.sget 4 == 0 && t.loads.map (fun x => x.dests) == [[(0, .scal 4)]] &&
      t.loads.map (fun x => x.value) == [some 0x332211]) = true := by decide +kernel

theorem test_atomic_returns : ends (exec (.loadDataReturn 0 0) (dOwned [load (.atomic .add 0 5 0) [(0, .vec 0 8)]] []))
    (fun t => t.cur.vget 0 8 == 0x332211 && cellNat t.mem 0x1000 4 == 0x332216) = true ∧
    (dOwned [] []).owns 0 32 = true ∧ (dLoads [] []).owns 0 32 = false ∧
    ends (exec (.loadDataReturn 0 0) (dLoads [load (.atomic .add 0 5 0) [(0, .vec 0 8)]] [])) (fun t => t.mem == mem1 &&
      t.coh.reqs == [⟨.getM, 0, 32, [], [], none⟩] && t.loads.length == 1) = true := by decide +kernel

theorem test_atomic_min_signed : ends (exec (.loadDataReturn 0 0)
    (dOwned [load (.atomic .min 0 0xFFFFFFFF 0) [(0, .vec 0 8)]] []))
    (fun t => cellNat t.mem 0x1000 4 == 0xFFFFFFFF) = true := by decide +kernel

theorem test_bound_returns : ends (exec (.loadDataReturn 0 0) (dOwned [load (.bound .cas 0 0x332211 9 [.vec 0 10]) [(0, .vec 0 8)]]
    [(8, ⟨false, false, 0x1000, .hardware, 0x1000, false, false, false, 0, 0, false, none⟩)]))
    (fun t => cellNat t.mem 0x1000 4 == 9 && t.cur.vget 0 8 == 9 && t.cur.vget 0 10 == 0x332211 &&
      t.cur.bindings.all (fun b => !b.2.pend)) = true := by decide +kernel

theorem test_bind_returns : ends (exec (.loadDataReturn 0 0)
    (shares (dLoads [load (.bind true false 0x1000 false) [(0, .vec 0 8)]] [])))
    (fun t => t.cur.vget 0 8 == 0x332211 && t.cur.bindings == [(8, ⟨true, false, 0x1000, .hardware, 0x1000, false, false,
      false, 0, 0, false, none⟩)]) = true := by decide +kernel

/-- A store of 0x55 to 0x1001 in the path of core 0. -/
def entry (red : Option Reduction) : StoreEntry :=
  ⟨0, .hardware, if red.isSome then 0x1000 else 0x1001, if red.isSome then [] else [(0x1001, 0x55)], red, [], [], ⟨1, 0, 2, 2, none⟩, []⟩

/-- A device with that entry; core 0 holds the line in a state. -/
def dPath (red : Option Reduction) (cs : List CopyState) : State :=
  { dev team1 with
    mem := mem1
    path := [entry red]
    coh := { Coherence.reset with copies := cs.map (fun st => ⟨0, 32, st, 0, false, [], [], 0⟩) } }

theorem test_drain_owned : (dPath none [.m]).pathBlocked (entry none) = false ∧
    ends (exec .storePathDrain (dPath none [.m])) (fun t => t.byte 0x1001 == 0x55 && t.byte 0x1000 == 0x11 && t.path == []) = true := by
  decide +kernel

theorem test_drain_asks : ends (exec .storePathDrain (dPath none [])) (fun t => t.mem == mem1 && t.path == [entry none] &&
    t.coh.reqs == [⟨.getM, 0, 32, [], [], none⟩]) = true := by decide +kernel

theorem test_drain_reduces : (dPath (some ⟨.or, 1, 0x80, 4⟩) [.m]).pathBlocked (entry (some ⟨.or, 1, 0x80, 4⟩)) = false ∧
    ends (exec .storePathDrain (dPath (some ⟨.or, 1, 0x80, 4⟩) [.m])) (fun t => cellNat t.mem 0x1000 4 == 0x332291) = true ∧
    ends (exec .storePathDrain (dPath (some ⟨.or, 1, 0x80, 4⟩) [])) (fun t => t.mem == mem1 && t.path.length == 1 &&
      t.coh.reqs == [⟨.getM, 0, 32, [], [], none⟩]) = true := by decide +kernel

/-- A release behind a load: held till the load is done. -/
theorem test_path_hold : [([load .plain [(0, .vec 0 8)]], [(1, 1)]), ([], [])].all (fun x =>
    ends (exec .storePathDrain { dPath none [.m] with loads := x.1, path := [{ entry none with hold := [(1, 1)], tag := ⟨1, 1, 2, 2, none⟩ }] }) (fun t =>
      t.path == [{ entry none with hold := x.2, tag := ⟨1, 1, 2, 2, none⟩ }] && t.mem == mem1)) = true := by decide +kernel

theorem test_refresh_next_row : ends (exec (.refreshSteal 3 5) (dev team1))
    (fun t => tget 0 (t.core 3).refreshRow 5 == 1 && tget 0 (t.core 3).refreshRow 4 == 0) = true := by decide +kernel

theorem test_error_register : ends (exec (.machineError (.register 1 1 4)) (dev team1)) (fun t => t.cur.poison == [100]) = true := by
  decide +kernel

theorem test_error_core_store : ends (exec (.machineError (.coreStore (locScratch 1 9))) (dev team1))
    (fun t => t.poison == [locScratch 1 9 / 8]) = true := by decide +kernel

theorem test_error_core : ends (exec (.machineError (.unattributed 0)) (dev team1))
    (fun t => t.cur.ending && (t.wg? 1).map Wg.status == some 3 && !t.coreOn 0 && t.coreOn 1) = true := by decide +kernel

theorem test_core_comes_back : ends (exec (.coreReEnable 0) { dev team1 with
      cores := [(0, { Core.reset with failed := true })]
      svc := { ServiceCtl.reset with presence := { Presence.full with core := 0 } } })
    (fun t => t.coreOn 0 && !t.coreOn 1 && !(t.core 0).failed) = true := by decide +kernel

/-- A program of the workgroup on spindle 1 of core 0. -/
def prog : Prog := { team.newProg 7 0 1 0 0x4000 5 with queued := false }

theorem test_lockstep : ends (exec (.lockstepMismatch (.spindle 0 1)) { dev team1 with progs := [prog] })
    (fun t => t.cur.ending && (t.wg? 1).map Wg.status == some 3) = true := by decide +kernel

theorem test_ats_removes : ends (exec (.atsInvalidation 0 0x1000 0) (dev team1)) (fun t => t.tlb == []) = true ∧
    ends (exec (.atsInvalidation 1 0 2) (dev team1)) (fun t => t.tlb.length == 1) = true := by decide +kernel

/-- The team waits for a page. -/
def dPage : State :=
  { dev { team1 with park := .page, service := some ⟨[(9, 1)], [], [], 1, false⟩ } with
    pageReqs := [⟨0, 9, 1, tPAGE 0, [(0, 1)], true⟩] }

theorem test_page_answer : ends (exec (.pageResponse 0 false) dPage)
    (fun t => t.cur.service == some ⟨[], [(0, tPAGE 0)], [], 1, false⟩ && t.pageReqs == []) = true := by decide +kernel

theorem test_hcall_answer : ends (exec (.hcallReply 1 77) (dev { team1 with park := .hcall 1 none }))
    (fun t => decide (t.cur.park = .hcall 1 (some 77))) = true := by decide +kernel

/-! ## Spindles, semaphores, batches, copies -/

/-- Lane 0, with the address 0x4000 in s4:s5. -/
def team2 : Team := { team1 with s := [(0, 0x1000), (2, 3), (4, 0x4000), (6, 1), (8, 0x2000)] }

theorem test_fork_queues : (dev team2).plain = true ∧ sbaseOk team2 false 100 = true ∧
    ends (exec (.fork 1 100 98) (dev team2)) (fun t => t.progs.map (fun p => (p.queued, p.eng, p.pc, tget 0 p.s 0)) ==
      [(true, 1, 0x4000, 3)] && t.cur.idx == 1) = true := by decide +kernel

theorem test_fork_full : ends (exec (.fork 1 100 98) { dev team2 with progs := [prog, prog, prog, prog] })
    (fun t => t.cur.faultInfo == 0x50000000) = true := by decide +kernel

theorem test_rdv_reports : ends (exec (.rdv 108 1) { dev team2 with
      progs := [{ prog with ended := true, abnormal := true, code := 9 }] })
      (fun t => t.cur.sget 12 == 9 && t.progs == []) = true ∧
    ends (exec (.rdv 108 1) { dev team2 with progs := [prog] }) (fun t => decide (t.cur.park = .rdv)) = true := by decide +kernel

/-- A queued program ends at once, a running one stops first; the other spindle's is not touched. -/
theorem test_ekill_stops : ends (exec (.ekill 1) { dev team2 with progs := [prog, { prog with uid := 8, queued := true }, { prog with uid := 9, eng := 0 }] })
    (fun t => t.progs.map (fun p => (p.uid, p.ended, p.exiting, p.state)) == [(7, false, true, 4), (8, true, false, 0), (9, false, false, prog.state)]) = true := by decide +kernel

theorem test_program_starts : ends (exec (.spindleProgramStart 0 1) { dev team2 with progs := [{ prog with queued := true }] })
    (fun t => t.progs.map (fun p => p.queued) == [false]) = true := by decide +kernel

theorem test_program_ends : ends (exec (.spindleProgramEnd 0 1) { dev team2 with progs := [{ prog with exiting := true }] })
    (fun t => t.progs.map (fun p => (p.ended, p.abnormal)) == [(true, false)]) = true := by decide +kernel

/-- The values and the waiters of the workgroup's semaphores. -/
def semsOf (t : State) : List (Word × List (Nat × Word)) := ((t.wg? 1).map (fun w => w.sems.map (fun m => (m.value, m.waiters)))).getD []

theorem test_semset : ends (exec (.semset 102 98) (dev team2)) (fun t => semsOf t == [(5, []), (3, [])]) = true := by decide +kernel

theorem test_seminc_serves : ends (exec (.seminc 102 98) { dev team2 with wgs := [{ group with sems := [⟨5, []⟩, ⟨0xFFFFFFFE, [(9, 0xFFFFFFFF)]⟩] }] })
    (fun t => semsOf t == [(5, []), (0, [])]) = true := by decide +kernel

theorem test_seminc_saturates : ends (exec (.seminc 102 98) { dev team2 with wgs := [{ group with sems := [⟨5, []⟩, ⟨0xFFFFFFFE, []⟩] }] })
    (fun t => semsOf t == [(5, []), (0xFFFFFFFF, [])]) = true := by decide +kernel

theorem test_semacq_takes : ends (exec (.semacq 103 98) (dev team2)) (fun t => semsOf t == [(2, []), (0, [])] && t.cur.idx == 1) = true := by
  decide +kernel

theorem test_semacq_waits : ends (exec (.semacq 102 98) (dev team2)) (fun t => semsOf t == [(5, []), (0, [(1, 3)])] &&
    decide (t.cur.park = .semacq 1 1)) = true := by decide +kernel

theorem test_semtry : ends (exec (.semtry 1 103 98) (dev team2)) (fun t => semsOf t == [(2, []), (0, [])] && t.cur.pget 0 1) = true ∧
    ends (exec (.semtry 1 102 98) (dev team2)) (fun t => semsOf t == [(5, []), (0, [])] && !t.cur.pget 0 1) = true := by decide +kernel

/-- A transfer of 4 bytes from 0x1000 to 0x2000 that holds its line. -/
def xfer : Xfer :=
  { (dev team2).newXfer 4 none 0 0x2000 0x1000 with
    dstVa := none
    dst := 0x2000
    srcVa := none
    src := 0x1000
    granted := true }

/-- A device with a transfer. -/
def dXfer (x : Xfer) : State := { dev team2 with mem := mem1 ++ [(0x2000, 2)], xfers := [x] }

theorem test_copy_moves : ends (exec .copyTransfer (dXfer xfer)) (fun t => cellNat t.mem 0x2000 4 == 0x332211 &&
    t.xfers == [{ xfer with done := true }]) = true := by decide +kernel

theorem test_copy_adds : ends (exec .copyTransfer (dXfer { xfer with add := some 1, staged := some 0x332211 }))
    (fun t => cellNat t.mem 0x2000 4 == 0x332213) = true := by decide +kernel

theorem test_cpy_records : ends (exec (.cpy4 104 96) (dev team2)) (fun t => t.xfers.map (fun x => (x.dstVa, x.srcVa, x.size, x.add, x.flag)) ==
    [(some 0x2000, some 0x1000, 4, none, 2)]) = true := by decide +kernel

theorem test_cra_records : ends (exec (.cra8 104 96) (dev team2)) (fun t => t.xfers.map (fun x => (x.size, x.add)) == [(8, some 0)]) = true := by
  decide +kernel

theorem test_close_numbers : ends (exec (.close 108 102 124) (dXfer xfer)) (fun t => t.cur.sget 12 == 1 && t.cur.batchLast == 1 &&
    t.batches.map (fun x => (x.num, x.sel)) == [(1, 1)] && t.xfers.map (fun x => x.batch) == [some (1, 1)]) = true := by decide +kernel

/-- A closed batch whose action is an increment of semaphore 1. -/
def batch : Batch := ⟨1, 1, 1, 2, 1, .store, 0, 0, none, false, false⟩

/-- The batch, its one transfer written. -/
def dBatch : State := { dev team2 with batches := [batch], xfers := [{ xfer with done := true, batch := some (1, 1) }] }

theorem test_batch_completes : ends (exec .batchCompletion dBatch)
    (fun t => semsOf t == [(5, []), (1, [])] && t.batches == [] && t.xfers == []) = true := by decide +kernel

theorem test_waitb : ends (exec (.waitb 102) { dev { team2 with batchLast := 1 } with batches := [batch] })
      (fun t => decide (t.cur.park = .waitb)) = true ∧
    ends (exec (.waitb 103) { dev { team2 with batchLast := 1 } with batches := [batch] }) (fun t => t.cur.idx == 1) = true := by
  decide +kernel

theorem test_waitb_error : ends (exec (.waitb 102) { dev { team2 with batchLast := 1 } with
      batches := [{ batch with done := true, error := true }] })
    (fun t => t.cur.faultInfo == 0x48000001 && t.batches == []) = true := by decide +kernel

/-! ## Matrix -/

/-- Lane 0 with FP32 descriptors in s8–s11: 128 rows of 128 bytes from 0x10000. -/
def team3 : Team := { team1 with s := [(0, 5), (2, 0x80), (4, 0x1000), (5, 0x80), (8, 0x10000), (10, 128)] }

/-- A device whose workgroup holds tile 2. -/
def dMat (t : Team) : State := { dev t with wgs := [{ group with tiles := [2] }] }

theorem test_mzero_queues : (dMat team3).plain = true ∧ (dMat team3).tilesMine [3] ∧ ends (exec (.mzero 3) (dMat team3)) (fun t =>
    (t.queue 0).map (fun o => (o.kind, o.tile, o.issuer)) == [(.zero false, 3, ⟨1, 1, 2, 1, none⟩)] &&
      t.tileHolder 0 3 == some 1) = true := by decide +kernel

theorem test_mma_queues : mmaConds 2 104 104 team3 (dMat team3) = [] ∧ ends (exec (.mma 2 104 104) (dMat team3)) (fun t =>
    (t.queue 0).map (fun o => (o.kind, o.tile)) ==
      [(.mma false ⟨0x10000, 128, 0, 0, none⟩ ⟨0x10000, 128, 0, 0, none⟩, 2)]) = true := by decide +kernel

theorem test_mmap_queues : mmapConds 2 104 104 team3 (dMat team3) = [] ∧ ends (exec (.mmap 2 104 104) (dMat team3)) (fun t =>
    (t.queue 0).map (fun o => o.tile) == [2]) = true := by decide +kernel

theorem test_stacc_queues : ends (exec (.stacc 4 2 96) (dMat team3)) (fun t => (t.queue 0).map (fun o => o.kind) ==
    [.store [(5, 7)] false]) = true := by decide +kernel

theorem test_ldacc_queues : ends (exec (.ldacc 8 2 96) (dMat team3)) (fun t => (t.queue 0).map (fun o => o.kind) ==
    [.load 1 1 false] && t.loads.map (fun x => (x.kind, x.dests)) == [(.acc 2 5, [(0, .vec 0 8)])]) = true := by decide +kernel

/-- A descriptor of OBRES in s4–s7: FP32 from 0x1000, 128 bytes. -/
theorem test_obres : ends (exec (.obres 108 100) (dMat { team3 with s := [(4, 0x1000), (5, 0x80)] })) (fun t => t.cur.sget 12 == 0 &&
    (t.wg? 1).map Wg.records == some [⟨0, 0x1000, 0x80, 0, 0, 0, true⟩]) = true := by decide +kernel

theorem test_obfree : ends (exec (.obfree 97) { dev team3 with wgs := [{ group with records := [⟨0, 0x1000, 0x80, 0, 0, 0, true⟩] }] })
    (fun t => (t.wg? 1).map Wg.records == some []) = true := by decide +kernel

/-- An FP4 record of 16 KiB with its scales behind, and MTRQ's destination in it. -/
def team4 : Team := { team3 with s := [(8, 0x10000), (10, 128), (11, 0x00100007), (12, 0), (13, 0xFFFFF400)] }

/-- The device with that record. -/
def dRec : State := { dev team4 with wgs := [{ group with records := [⟨0, 0, 0x8000, 7, 0x400, 0, true⟩] }] }

theorem test_mtrq_queues : ends (exec (.mtrq 104 108) dRec) (fun t => (t.queue 0).map (fun o => o.tile) == [0] &&
    (t.queue 0).all (fun o => match o.kind with
      | .mtrq a dst r => a.addr == 0x10000 && a.fmt == 7 && dst == 0xFFFFF40000000000 && r.num == 0
      | _ => false)) = true := by decide +kernel

/-- An operation at the head of core 0's queue. -/
def mop (k : MOpKind) : MOp := ⟨k, 1, 0, ⟨1, 0, 2, 1, none⟩, none, 2, false, false, 0, none, [], [], none, 0⟩

/-- The device with it; tile 2 holds 9 in element 5. -/
def dOp (o : MOp) : State := { dMat team3 with matrix := [(0, [o])], tiles := [(2, [(5, 9)])] }

theorem test_engine_zero : ends (exec (.engineOperationStart 0) (dOp (mop (.zero false)))) (fun t => t.queue 0 == [] &&
    t.tileElem 0 2 5 == 0) = true := by decide +kernel

theorem test_engine_store : ends (exec (.engineOperationStart 0) (dOp (mop (.store [(6, 4)] false)))) (fun t => t.queue 0 == [] &&
    t.tileElem 0 2 5 == 9 && t.tileElem 0 2 6 == 4) = true := by decide +kernel

theorem test_engine_load : ends (exec (.engineOperationStart 0) { dOp (mop (.load 1 0 false)) with loads := [load (.acc 2 5) [(0, .vec 0 8)]] })
    (fun t => t.loads.map (fun x => x.value) == [some 9]) = true := by decide +kernel

/-- An INT8 row whose first elements are 3 and −2 against 5 and 4, added to 10. -/
theorem test_int8_sum : mmaElem ⟨6, [3, 0xFE], []⟩ ⟨6, [5, 4], []⟩ 128 10 = 17 := by decide +kernel

/-- The even core's MMAP of number 1. -/
def mopPair : MOp := { mop (.mma true ⟨0x10000, 128, 0, 0, none⟩ ⟨0x10000, 128, 0, 0, none⟩) with
  count := some 1
  ready := some 0
  depth := 128 }

theorem test_pair_timeout : ends (exec (.pairtmo 0) (dOp mopPair)) (fun t => t.queue 0 == [] && t.cycle == 65536 &&
    t.cur.pendTraps == [tPAIRTMO]) = true := by decide +kernel

/-- Both cores of a pair. -/
def dPair : State := { dOp mopPair with matrix := [(0, [mopPair]), (1, [mopPair])] }

theorem test_pair_starts : ends (exec (.mmapStart 0) dPair) (fun t => (t.queue 0 ++ t.queue 1).map (fun o => o.started) ==
    [true, true]) = true := by decide +kernel

/-! ## Barriers and waits -/

/-- The scratchpad word at 0x40, its address in s4:s5, EXPECT 2 in s6. -/
def team5 : Team := { team1 with s := [(0, 5), (4, 0x40), (5, 0xFFFFF100), (6, 2), (7, 0x20001), (8, 0x10000)] }

/-- A word of generation 1 with EXPECT 2, and COUNT. -/
def dBar (t : Team) (count : Nat) : State :=
  { dev t with
    mem := writeCells [] (cellsFrom (locScratch 1 0x40) (leBytes 8 (2 ^ 63 + 2 ^ 48 + 2 * 2 ^ 32 + count * 2 ^ 16)))
    barriers := [locScratch 1 0x40] }

/-- The word. -/
def barWord (t : State) : Nat := cellNat t.mem (locScratch 1 0x40) 8

theorem test_barinit : (dev team5).still ∧ (dev team5).barrierPlace team5 0xFFFFF10000000040 8 = .ok (.store, locScratch 1 0x40) ∧
    ends (exec (.barinit 100 102) (dBar team5 1)) (fun t => barWord t == 2 ^ 63 + 2 * 2 ^ 48 + 2 * 2 ^ 32) = true := by decide +kernel

theorem test_barinit_members : ends (exec (.barinit 100 102) (dBar { team5 with s := [(4, 0x40), (5, 0xFFFFF100), (6, 0x10004)] } 1))
    (fun t => barWord t == 2 ^ 63 + 2 ^ 62 + 2 * 2 ^ 48 + 4 * 2 ^ 32) = true := by decide +kernel

theorem test_barinv : ends (exec (.barinv 100) (dBar team5 1)) (fun t => barWord t == 2 ^ 48 + 2 * 2 ^ 32 + 2 ^ 16 && t.barriers == []) = true := by
  decide +kernel

theorem test_arrive_records : ends (exec (.arrive 108 100 96) (dBar team5 0)) (fun t => t.loads.map (fun x => (x.kind, x.loc, x.dests)) ==
    [(.arrive 5, locScratch 1 0x40, [(0, .scal 12)])]) = true := by decide +kernel

theorem test_arrival_counts : ends (exec (.loadDataReturn 0 0) { dBar team5 0 with
      loads := [{ load (.arrive 5) [(0, .scal 12)] with loc := locScratch 1 0x40 }] })
    (fun t => t.cur.sget 12 == 0x10000 && barWord t == 2 ^ 63 + 2 ^ 48 + 2 * 2 ^ 32 + 2 ^ 16) = true := by decide +kernel

theorem test_arrwait_waits : ends (exec (.arrwait 108 100 96) (dBar team5 0)) (fun t => decide (t.cur.park = .await 0x10000 (locScratch 1 0x40) none) &&
    barWord t == 2 ^ 63 + 2 ^ 48 + 2 * 2 ^ 32 + 2 ^ 16) = true := by decide +kernel

/-- The last arrival ends the phase and releases another team's wait. -/
theorem test_arrwait_ends : ends (exec (.arrwait 108 100 96) { dBar team5 1 with
      others := [{ team5 with uid := 2, park := .await 0x10000 (locScratch 1 0x40) none }] })
    (fun t => t.cur.idx == 1 && barWord t == 2 ^ 63 + 2 ^ 48 + 2 * 2 ^ 32 + 1 &&
      t.others.all (fun u => decide (u.park = .await 0x10000 (locScratch 1 0x40) (some 0)))) = true := by decide +kernel

theorem test_await : ends (exec (.await 108 100 104) (dBar team5 0)) (fun t => decide (t.cur.park = .await 0x10000 (locScratch 1 0x40) none)) = true ∧
    ends (exec (.await 108 100 96) (dBar team5 0)) (fun t => t.cur.sget 12 == 1 && t.cur.idx == 1) = true := by decide +kernel

theorem test_park : ends (exec (.park 108 96) (dev team5)) (fun t => decide (t.cur.park = .park (some 5) false false)) = true ∧
    ends (exec (.park 108 96) (dev { team5 with wakePend := true })) (fun t => t.cur.sget 12 == 0 && !t.cur.wakePend && t.cur.idx == 1) = true ∧
    ends (exec (.park 108 96) (dev { team5 with park := .park (some 5) false true })) (fun t => t.cur.sget 12 == 1 && t.cur.idx == 1) = true := by
  decide +kernel

/-- The team, and one more of its workgroup. -/
def dTwo (u : Team) : State := { dev team5 with others := [u], wgs := [{ group with teams := 2 }] }

theorem test_wake : ends (exec (.wake 121) { dTwo { team5 with uid := 2, index := 1, park := .park none false false } with
      cur := { team5 with clause := some (clause [0, 1]) } })
      (fun t => t.others.all (fun u => decide (u.park = .park none true false))) = true ∧
    ends (exec (.wake 121) { dTwo { team5 with uid := 2, index := 1 } with cur := { team5 with clause := some (clause [0, 1]) } })
      (fun t => t.others.all (fun u => u.wakePend) && !t.cur.wakePend) = true := by decide +kernel

theorem test_park_timeout : ends (exec (.parkTimeout 1) (dev { team5 with park := .park (some 9) false false }))
    (fun t => t.cycle == 9 && decide (t.cur.park = .park (some 9) false true)) = true ∧
    ends (exec (.bwaitTimeout 1) (dev { team5 with park := .bwait (some 9) false }))
    (fun t => t.cycle == 9 && decide (t.cur.park = .bwait (some 9) true)) = true := by decide +kernel

/-- A launch of two workgroups of one team. -/
def launch1 : Launch where
  id := 1
  ctx := 0
  record := 0
  child := false
  roles := [⟨0x2000, 96, 1, 1, 0⟩]
  prio := 0
  indirect := false
  cls := 0
  smin := 0
  smax := 0
  deps := []
  hank := 1
  scratch := 0
  sems := 0
  seed := 0
  count := 2
  countAddr := 0
  completion := 0
  params := []
  hmap := 0
  hexp := 0
  order := 0
  cluster := none
  origin := none
  phase := .open_
  next := 1
  ended := 0
  stopped := false
  status := 0
  trap := 0

/-- Descriptors: s0 names workgroup 1, team 0, tag 3; s2 names the team itself. -/
def dXch (p : Park) : State :=
  { dev { team1 with s := [(0, 0x600001), (2, 0)], park := p } with launches := [launch1] }

theorem test_xch_offers : (dXch .running).partnerOk (dXch .running).cur 1 0 = true ∧ ends (exec (.xch 8 4 96) (dXch .running))
    (fun t => match t.cur.park with
      | .xch 65536 1 0 3 o none => o.lookup 0 == some 7
      | _ => false) = true := by decide +kernel

theorem test_xch_self : ends (exec (.xch 8 4 98) (dXch .running)) (fun t => t.cur.vget 0 8 == 7 && t.cur.idx == 1) = true := by decide +kernel

theorem test_xch_takes : ends (exec (.xch 8 4 96) (dXch (.xch 65536 1 0 3 [(0, 7)] (some (32, [(0, 8)])))))
    (fun t => t.cur.vget 0 8 == 8 && t.cur.idx == 1) = true := by decide +kernel

theorem test_xch_timeout : ends (exec (.xchtmo 1) (dXch (.xch 65536 1 0 3 [(0, 7)] none)))
    (fun t => t.cycle == 65536 && t.cur.faultInfo == 0x60000000 && t.cur.pc == 0x10C00) = true := by decide +kernel

/-! ## Launches and placement -/

/-- The address 0x3000 in s4:s5, a count in s6, a class descriptor in s8–s11. -/
def team6 : Team := { team1 with
  s := [(0, 5), (4, 0x3000), (6, 7), (8, 0x01FF0240), (9, 0x10), (10, 0x8000), (11, 0x66000001)] }

theorem test_tender : (dev team6).plain = true ∧ ends (exec (.tender 108 100 102) (dev team6)) (fun t =>
    t.children.map (fun x => (x.addr, x.count, x.cluster)) == [(0x3000, 7, 0)] && t.cur.sget 12 == 0 && t.cur.idx == 1) = true := by
  decide +kernel

theorem test_tender_full : ends (exec (.tender 108 100 102) { dev team6 with
      children := List.replicate 256 ⟨0, 0x3000, 1, 0, 0⟩ })
    (fun t => t.children.length == 256 && t.cur.sget 12 == 0xFFFFFFFF) = true := by decide +kernel

/-- Weights +64 on counter 2, −1 on counter 1, +16 on counter 0; affinity address, WIN 3 and CLM. -/
theorem test_tclass : ends (exec (.tclass 96 104) (dev team6)) (fun t => (t.ctx 0).cls 5 ==
    ⟨64, -1, 16, 0, 2, 1, 0, 0, some 0x100008000, 3, true⟩) = true := by decide +kernel

/-- A device with a context that has a queue at 0x6000 and pool slots, and the record. -/
def dLaunch : State :=
  { dev team6 with
    ctxs := [(0, { Context.reset with
      valid := true
      assist := 2
      lslots := 100
      lq := 0x6000
      fq := 0x8000
      started := true
      trapBase := 0x10000 })]
    mem := writeCells [] (cellsFrom 0x3000 (recordBytes 1) ++ cellsFrom 0x6100 (leBytes 8 0x3000))
    launches := [{ launch with phase := .open_ }]
    nextUid := 20 }

theorem test_child_is_taken : ends (exec .childLaunchTake { dLaunch with launches := [], children := [⟨0, 0x3000, 7, 0, 0⟩] })
    (fun t => t.children == [] && t.launches.map (fun l => (l.count, l.prio, l.cls, l.teams, l.child)) == [(7, 2, 1, 2, true)]) = true := by
  decide +kernel

/-- A record without roles is invalid: the launch completes with status 6. -/
theorem test_bad_record : ends (exec .childLaunchTake { dLaunch with
      mem := writeCells [] (cellsFrom 0x3000 (recordBytes 0))
      launches := []
      children := [⟨0, 0x3000, 7, 0, 0⟩] })
    (fun t => t.launches == [] && cellNat t.mem 0x5000 8 == 2 ^ 63 + 6) = true := by decide +kernel

theorem test_head_is_read : ends (exec .tailChange (inCtx { dLaunch with mem := [(0x6080, 4)] } (fun c => { c with started := false })))
    (fun t => (t.ctx 0).head == 4 && (t.ctx 0).started && (t.ctx 0).tailPend) = true := by decide +kernel

theorem test_tail_is_read : ends (exec .tailChange (inCtx { dLaunch with mem := [(0x6000, 16)] } (fun c => { c with tailPend := true })))
      (fun t => (t.ctx 0).tailRead == some 16 && !(t.ctx 0).tailPend) = true ∧
    ends (exec .tailChange (inCtx { dLaunch with mem := [(0x6000, 17)] } (fun c => { c with tailPend := true })))
      (fun t => (t.ctx 0).tailRead == none && (t.ctx 0).fqWait.map (fun e => (e.kind, e.sub, e.arg0)) == [(3, 1, 17)] &&
        cellNat t.mem 0x8100 2 == 0x103 && cellNat t.mem 0x8000 4 == 1) = true := by decide +kernel

theorem test_slot_is_taken : ends (exec .tailChange (inCtx { dLaunch with launches := [] } (fun c => { c with tailRead := some 1 })))
    (fun t => (t.ctx 0).head == 1 && cellNat t.mem 0x6080 4 == 1 && t.launches.map (fun l => (l.count, l.record)) == [(3, 0x3000)]) = true := by
  decide +kernel

/-- The launch with a dependence on the word at 0x7000. -/
def dGate (word : Nat) : State :=
  { dLaunch with
    mem := writeCells [] (cellsFrom 0x7000 (leBytes 8 word))
    launches := [{ launch with deps := [0x7000] }] }

theorem test_gate : ends (exec .gateOpen (dGate (2 ^ 63))) (fun t => t.launches.map (fun l => l.phase) == [.open_]) = true ∧
    ends (exec .gateOpen (dGate 0)) (fun t => t == dGate 0) = true ∧
    ends (exec .gateOpen (dGate (2 ^ 63 + 9))) (fun t => t.launches == [] && cellNat t.mem 0x5000 8 == 2 ^ 63 + 7) = true := by
  decide +kernel

/-- The launch with its count in memory. -/
def dCount (n : Byte) : State := { dLaunch with mem := [(0x7000, n)], launches := [{ launch with indirect := true, countAddr := 0x7000 }] }

theorem test_indirect_count : ends (exec .gateOpen (dCount 5)) (fun t => t.launches.map (fun l => l.count) == [5]) = true ∧
    ends (exec .gateOpen (dCount 0)) (fun t => t.launches == [] && cellNat t.mem 0x5000 8 == 2 ^ 63) = true := by decide +kernel

theorem test_software_ends : ends (exec (.endLaunchBySystemSoftware 9) { dLaunch with launches := [launch] })
      (fun t => t.launches == [] && cellNat t.mem 0x5000 8 == 2 ^ 63 + 9) = true ∧
    ends (exec (.serviceEndWorkgroup 1) (dev team6)) (fun t => t.cur.ending && t.wgs.map (fun w => w.status) == [9]) = true := by
  decide +kernel

/-- An announcement of the launch's first workgroup. -/
def ann : Ann where
  id := 20
  ctx := 0
  spec := { launch with phase := .open_ }
  wg := 0
  cls := ClassRec.reset
  purpose := .fresh
  teams := 2
  phase := .bidding
  since := 0
  kept := []
  awarded := none
  retenders := 0
  again := false

/-- A device with one announcement. -/
def dAnn (a : Ann) : State := { dLaunch with anns := [a] }

/-- What is looked at of announcements. -/
def annsOf (t : State) : List (AnnPhase × List (Nat × Nat) × Option Nat × Nat) := t.anns.map (fun a => (a.phase, a.kept, a.awarded, a.retenders))

theorem test_announcement : dLaunch.annsApart ∧ dLaunch.mayAnnounce { launch with phase := .open_ } ∧
    ends (exec .announcement dLaunch) (fun t => annsOf t == [(.bidding, [], none, 0)] && t.launches.map (fun l => l.next) == [1]) = true := by
  decide +kernel

theorem test_announcement_by_software : ends (exec .announcement (inCtx dLaunch (fun c => { c with placeAssist := true })))
    (fun t => annsOf t == [(.starved, [], none, 0)] && (t.ctx 0).fqWait.map (fun e => (e.kind, e.sub, e.arg0)) == [(2, 0, 0x3000)]) = true := by
  decide +kernel

theorem test_bid : (dAnn ann).coreFits 5 ann.spec false false = true ∧
    ends (exec (.bid 20 5) (dAnn { ann with kept := [(0, 9)] })) (fun t => annsOf t == [(.bidding, [(0, 5), (0, 9)], none, 0)]) = true := by
  decide +kernel

/-- The example of R323: four bids, three of cost 0, with the pointer at 18. -/
theorem test_ranking : [(32, 10), (0, 13), (0, 20), (0, 60)].foldl (fun l x => insertBid 18 x l) [] =
    [(0, 20), (0, 60), (0, 13), (32, 10)] := by decide

theorem test_window_closes : ends (exec .bidWindowClose (dAnn { ann with kept := [(0, 5), (1, 9)] }))
      (fun t => annsOf t == [(.awarded, [(1, 9)], some 5, 0)] && t.cycle == 64) = true ∧
    ends (exec .bidWindowClose (dAnn ann)) (fun t => annsOf t == [(.held, [], none, 0)]) = true := by decide +kernel

/-- Two teams with the start values of R72; the pointer moves to the next core. -/
theorem test_confirm : ends (exec .confirm (dAnn { ann with phase := .awarded, awarded := some 5 })) (fun t => t.anns == [] && t.pointer == 1 &&
    t.wgs.map (fun w => w.core) == [0, 5] && t.others.map (fun x => (x.index, x.pc, x.size, x.sget 0, x.sget 1, x.sget 8, x.sget 9)) ==
      [(0, 0x4000, 32, 9, 8, 0, 0), (1, 0x4000, 32, 9, 8, 0, 1)]) = true := by decide +kernel

/-- An awarded core that is disabled. -/
def dAway (a : Ann) : State :=
  { dAnn { a with phase := .awarded, awarded := some 5 } with
    svc := { ServiceCtl.reset with ready := true, presence := { Presence.full with core := ~~~ (1 <<< 5) } } }

theorem test_withdraw : ends (exec .withdraw (dAway { ann with kept := [(1, 9)] })) (fun t => annsOf t == [(.awarded, [], some 9, 0)]) = true ∧
    ends (exec .withdraw (dAway ann)) (fun t => annsOf t == [(.bidding, [], none, 1)]) = true ∧
    ends (exec .withdraw (dAway { ann with retenders := 7 })) (fun t => (t.ctx 0).placed && t.anns.map (fun a => a.phase) == [.starved]) = true := by
  decide +kernel

theorem test_confirm_timeout : ends (exec .confirmTimeout (dAway { ann with kept := [(1, 9)] }))
    (fun t => annsOf t == [(.awarded, [], some 9, 0)] && t.cycle == 32) = true := by decide +kernel

theorem test_reannounce : ends (exec .reAnnounce (dAnn { ann with phase := .held, again := true }))
    (fun t => annsOf t == [(.bidding, [], none, 0)]) = true := by decide +kernel

/-- A workgroup that system software is asked to place. -/
def dPlace : State :=
  inCtx (dAnn { ann with phase := .starved }) (fun c => { c with fqTail := 1, fqWait := [⟨0, 2, 0, 0x3000, 0, 20, true⟩] })

theorem test_placement : ends (exec (.placementResponse 0 0 7) dPlace) (fun t => t.wgs.map (fun w => w.core) == [0, 7] && (t.ctx 0).fqWait == []) = true ∧
    ends (exec (.placementResponse 0 0 0xFFFFFFFF) dPlace) (fun t => t.anns.length == 1 &&
      (t.ctx 0).fqWait.map (fun e => (e.kind, e.sub, e.arg0)) == [(2, 1, 0x3000)]) = true := by decide +kernel

theorem test_preemption : ends (exec (.preemption 1) (dev team6)) (fun t => t.wgs.map (fun w => w.phase) == [.stopping]) = true ∧
    ends (exec (.preemption 1) { dev team6 with wgs := [{ group with clm := true }, { group with uid := 2, core := 7, clm := true },
      { group with uid := 3, core := 8, clm := true }] }) (fun t => t.wgs.map (fun w => w.phase) == [.stopping, .stopping, .resident]) = true := by
  decide +kernel

/-- A saved workgroup with tile 3, and one binding of its team in notify mode. -/
def dSaved : State :=
  { dLaunch with
    cur := { team6 with bindings := [(4, ⟨true, false, 0x1000, .hardware, 0x1000, false, false, false, 0, 0, false, none⟩)] }
    wgs := [{ group with phase := .saved, core := 1001, tiles := [3] }]
    tiles := [(1001 * 12 + 3, [(5, 77)])] }

theorem test_restore_announces : ends (exec (.restore 1 6) { dSaved with launches := [{ launch with id := 1, phase := .open_ }] }) (fun t =>
    t.anns.map (fun a => (a.purpose, a.phase, a.teams)) == [(.saved 1, .bidding, 1)] && t.wgs == dSaved.wgs) = true := by decide +kernel

/-- Core 6 has been awarded the saved workgroup. -/
def dBack : State := { dSaved with anns := [{ ann with purpose := .saved 1, phase := .awarded, awarded := some 6, teams := 1 }] }

theorem test_restore : dBack.restoreFits { group with phase := .saved, core := 1001, tiles := [3] } 6 = true ∧
    ends (exec .confirm dBack) (fun t => t.anns == [] && t.wgs.map (fun w => w.core) == [6]) = true ∧
    ends (exec (.restore 1 6) dBack) (fun t => t.wgs.map (fun w => (w.phase, w.core)) == [(.resident, 6)] && t.tileElem 6 3 5 == 77 &&
      t.cur.bindings.map (fun b => b.2.chg) == [true]) = true := by decide +kernel

/-! ## Coherence and regions -/

/-- A device whose directory has one entry, of line 32, and copies of it. -/
def dDir (e : DirEntry) (ks : List Copy) : State :=
  { dev team1 with mem := mem1, ticks := 0x20000, coh := { Coherence.reset with dir := [(32, e)], copies := ks } }

/-- A copy of line 32. -/
def copyOf (a : Nat) (st : CopyState) : Copy := ⟨a, 32, st, 0x900, false, [], [], 0⟩

/-- An entry with an owner. -/
def ownedEntry (a : Nat) : DirEntry := { DirEntry.empty with st := .dx, owner := BitVec.ofNat 9 a }

/-- An entry with sharers, the lease not over. -/
def sharedEntry (as : List (BitVec 9)) : DirEntry := { DirEntry.empty with st := .ds, ptrs := as, stamp := 0x900 }

/-- The copies of a state: agent and state. -/
def copiesOf (t : State) : List (Nat × CopyState) := t.coh.copies.map (fun k => (k.agent, k.st))

/-- The read that core 3 makes of line 32 of its own accord. -/
def readReq : HomeReq := ⟨.getS, 3, 32, [], [], none⟩

theorem test_reads_alone : (dDir (sharedEntry [7]) []).coreOn 3 = true ∧ (dDir (sharedEntry [7]) []).readsAlone 3 32 readReq ∧
    (dDir (sharedEntry [7]) []).wayFor 3 32 ∧ (dDir (sharedEntry [7]) []).noneWaits 3 32 := by decide +kernel

theorem test_gets_exclusive : ends (exec (.gets 3 32) (dDir DirEntry.empty [])) (fun t => t.dirEntry 32 == ownedEntry 3 &&
    copiesOf t == [(3, .e)]) = true := by decide +kernel

/-- The lease is 2^16 ticks of the reference clock: from unit 0x800 to unit 0xC00. -/
theorem test_gets_shared : ends (exec (.gets 3 32) (dDir (sharedEntry [7]) [])) (fun t => (t.dirEntry 32).ptrs == [7, 3] &&
    (t.dirEntry 32).stamp == 0xC00 && copiesOf t == [(3, .s)]) = true := by decide +kernel

/-- The fifth sharer makes the vector coarse: one bit for 16 agents. -/
theorem test_gets_coarse : ends (exec (.gets 3 32) (dDir (sharedEntry [17, 33, 49, 65]) [])) (fun t => (t.dirEntry 32).crs &&
    (t.dirEntry 32).coarse == 0x1F) = true := by decide +kernel

theorem test_gets_forwards : ends (exec (.gets 3 32) (dDir (ownedEntry 9) [copyOf 9 .m]))
    (fun t => t.coh.msgs == [⟨.fwdRead, 9, 32, 3, false⟩] && t.locked 32) = true := by decide +kernel

/-- A write of one byte waits at the home. -/
def writeReq (kd : Req) : HomeReq := ⟨kd, 3, 32, [(0x1001, 0x77)], [], none⟩

/-- The device with a request. -/
def dReq (e : DirEntry) (r : HomeReq) : State := { dDir e [] with coh := { (dDir e []).coh with reqs := [r] } }

theorem test_write_is_served : (dReq (sharedEntry [3, 9]) (writeReq .upgrade)).servable (writeReq .upgrade) ∧
    (dReq (sharedEntry [3, 9]) (writeReq .upgrade)).wayFor 3 32 ∧ (dReq (sharedEntry [3, 9]) (writeReq .upgrade)).noneWaits 3 32 ∧
    (dReq (sharedEntry [3, 9]) (writeReq .upgrade)).ports = [] ∧ plainCells (writeReq .upgrade).cells := by decide +kernel

theorem test_getm_owns : (dReq (sharedEntry [3]) (writeReq .getM)).noneToAsk 3 32 ∧
    ends (exec (.getm 3 32) (dReq (sharedEntry [3]) (writeReq .getM))) (fun t => t.dirEntry 32 == { ownedEntry 3 with stamp := 0x900 } &&
      cellNat t.mem 0x1000 3 == 0x337711 && t.coh.reqs == []) = true := by decide +kernel

theorem test_upgrade_invalidates : ends (exec (.upgrade 3 32) (dReq (sharedEntry [3, 9]) (writeReq .upgrade)))
    (fun t => t.coh.msgs == [⟨.inv, 9, 32, 3, false⟩] && t.coh.txns.map (fun x => x.kind) == [.getM] &&
      cellNat t.mem 0x1000 3 == 0x332211) = true := by decide +kernel

/-- A valid sharer's upgrade stays one. -/
theorem test_upgrade_stays : ends (exec (.upgrade 3 32) { dReq (sharedEntry [3, 9]) (writeReq .upgrade) with
      coh := { (dReq (sharedEntry [3, 9]) (writeReq .upgrade)).coh with copies := [copyOf 3 .s] } })
    (fun t => t.coh.txns.map (fun x => x.kind) == [.upgrade]) = true := by decide +kernel

/-- An owner with a sharer: both are asked; a held line is recalled. -/
theorem test_getm_asks : ends (exec (.getm 3 32) (dReq { ownedEntry 9 with st := .do_, ptrs := [7], stamp := 0x900 } (writeReq .getM)))
      (fun t => t.coh.msgs == [⟨.fwdWrite, 9, 32, 3, false⟩, ⟨.inv, 7, 32, 3, false⟩]) = true ∧
    ends (exec (.getm 3 32) (dReq { ownedEntry 260 with st := .dh } (writeReq .getM)))
      (fun t => t.coh.msgs == [⟨.recall, 260, 32, 3, false⟩]) = true := by decide +kernel

/-- Sharers whose lease is over need no invalidation. -/
theorem test_lease_saves_invalidation : ends (exec (.upgrade 3 32)
      (dReq { sharedEntry [3, 9] with stamp := 0x800 } (writeReq .upgrade)))
    (fun t => t.coh.msgs == [] && cellNat t.mem 0x1000 3 == 0x337711) = true := by decide +kernel

theorem test_geth_holds : ends (exec (.geth 256 0x40) { dXfer { xfer with granted := false } with
      coh := { Coherence.reset with reqs := [⟨.getH, 256, 0x40, [], [], none⟩] } })
    (fun t => (t.dirEntry 0x40).st == .dh && t.xfers.all (fun x => x.granted)) = true := by decide +kernel

/-- A team with a spilled binding on line 32. -/
def spiller : Team := { team1 with bindings := [(4, ⟨false, false, 0x1000, .hardware, 0x1000, false, false, true, 0, 0, false, none⟩)] }

theorem test_watch : (dev spiller).spilledAt 0 32 ∧ ends (exec (.watch 0 32) (dev spiller)) (fun t => (t.dirEntry 32).w &&
    (t.dirEntry 32).ptrs == [0]) = true := by decide +kernel

theorem test_renewal : ends (exec (.renewal 3 32) { dReq (sharedEntry [3]) { writeReq .renew with cells := [] } with
      coh := { (dReq (sharedEntry [3]) { writeReq .renew with cells := [] }).coh with copies := [copyOf 3 .s] } })
    (fun t => (t.dirEntry 32).stamp == 0xC00 && t.coh.copies.map (fun k => k.stamp) == [0xC00]) = true := by decide +kernel

/-- A notice or a writeback on its way. -/
def noteReq (kd : Req) : HomeReq := ⟨kd, 3, 32, [], [], none⟩

theorem test_evictions_leave : ends (exec (.cleanEvictionNotice 3 32) (dDir (ownedEntry 3) [copyOf 3 .e]))
      (fun t => t.dirEntry 32 == ownedEntry 3 && copiesOf t == [] && t.coh.reqs == [noteReq .evict]) = true ∧
    ends (exec (.writeback 3 32) (dDir (ownedEntry 3) [copyOf 3 .m]))
      (fun t => t.dirEntry 32 == ownedEntry 3 && copiesOf t == [] && t.coh.reqs == [noteReq .writeback]) = true := by decide +kernel

theorem test_evictions_arrive : (dReq (ownedEntry 3) (noteReq .evict)).servable (noteReq .evict) ∧
    ends (exec (.cleanEvictionNotice 3 32) (dReq (ownedEntry 3) (noteReq .evict))) (fun t => t.dirEntry 32 == DirEntry.empty) = true ∧
    ends (exec (.cleanEvictionNotice 3 32) (dReq (sharedEntry [9, 3]) (noteReq .evict))) (fun t => (t.dirEntry 32).ptrs == [9]) = true ∧
    ends (exec (.writeback 3 32) (dReq (ownedEntry 3) (noteReq .writeback))) (fun t => t.dirEntry 32 == DirEntry.empty) = true := by
  decide +kernel

theorem test_sweep : ends (exec (.leaseSweep 32) (dDir { sharedEntry [3, 9] with stamp := 0x800 } []))
    (fun t => t.dirEntry 32 == { DirEntry.empty with stamp := 0x800 }) = true := by decide +kernel

/-- A request of core 5 in progress, with one message. -/
def dTxn (kd : MsgKind) (a need : Nat) (ks : List Copy) (t : Team) : State :=
  { dev t with
    mem := mem1
    coh := { Coherence.reset with
      copies := ks
      msgs := [⟨kd, a, 32, 5, false⟩]
      txns := [⟨.getM, 5, 32, need, 0, [(0x1001, 0x77)], [], [], [], .e, none, 0xC00⟩] } }

theorem test_invalidation : ends (exec (.invalidation 0 32) (dTxn .inv 0 1 [copyOf 0 .s] { spiller with uid := 1 }))
    (fun t => copiesOf t == [] && t.coh.msgs == [⟨.ack, 0, 32, 5, false⟩] && t.cur.bindings.all (fun b => b.2.pend)) = true := by decide +kernel

theorem test_forward : ends (exec (.forward 0 32) (dTxn .fwdRead 0 1 [copyOf 0 .m] team1))
      (fun t => copiesOf t == [(0, .o)] && t.coh.txns.map (fun x => x.grant) == [.o]) = true ∧
    ends (exec (.forward 0 32) (dTxn .fwdWrite 0 1 [copyOf 0 .m] team1)) (fun t => copiesOf t == []) = true ∧
    ends (exec (.recall 256 32) (dTxn .recall 256 1 [] team1)) (fun t => t.coh.msgs == [⟨.ack, 256, 32, 5, false⟩]) = true := by decide +kernel

theorem test_forward_clean : ends (exec (.forward 0 32) (dTxn .fwdRead 0 1 [copyOf 0 .e] team1))
      (fun t => t.coh.copies.map (fun k => (k.st, k.stamp)) == [(.s, 0xC00)] && t.coh.txns.map (fun x => x.grant) == [.s]) = true ∧
    ends (exec (.forward 0 32) (dTxn .fwdRead 0 1 [] team1))
      (fun t => t.coh.msgs == [⟨.ack, 0, 32, 5, false⟩] && t.coh.txns.map (fun x => x.grant) == [.e]) = true := by decide +kernel

theorem test_last_acknowledgement : (dTxn .ack 0 1 [] team1).coreOn 5 = true ∧ (dTxn .ack 0 1 [] team1).wayFor 5 32 ∧
    (dTxn .ack 0 1 [] team1).noneWaits 5 32 ∧ (dTxn .ack 0 1 [] team1).dirEntry 32 = DirEntry.empty := by decide +kernel

theorem test_acknowledgement : ends (exec (.acknowledgement 0 32) (dTxn .ack 0 2 [] team1)) (fun t => t.coh.txns.map (fun x => x.got) == [1]) = true ∧
    ends (exec (.acknowledgement 0 32) (dTxn .ack 0 1 [] team1)) (fun t => t.coh.txns == [] && t.dirEntry 32 == ownedEntry 5 &&
      cellNat t.mem 0x1000 3 == 0x337711) = true := by decide +kernel

/-- A write of the line has been performed; the notice is on its way. -/
def noticed : Team := { spiller with bindings := spiller.bindings.map (fun e => (e.1, { e.2 with notice := true })) }

theorem test_change_notice : ends (exec (.changeNotice 0 32) (dTxn .change 0 1 [] noticed))
    (fun t => t.coh.msgs == [] && t.cur.bindings.all (fun b => b.2.pend)) = true := by decide +kernel

theorem test_lease_ends : ends (exec (.leaseExpiry 3 32) (dDir (sharedEntry [3]) [copyOf 3 .s]))
    (fun t => t.coh.copies == [] && t.units == 0x8FF) = true := by decide +kernel

/-- The team with its binding in the table. -/
def pinner : Team := { team1 with bindings := [(4, ⟨false, false, 0x1000, .hardware, 0x1000, false, false, false, 0, 0, false, none⟩)] }

theorem test_renewal_due : ends (exec (.renewalDue 0 32) { dev pinner with coh := { Coherence.reset with copies := [copyOf 0 .s] } })
    (fun t => t.coh.reqs == [⟨.renew, 0, 32, [], [], none⟩] && t.units == 0x700) = true := by decide +kernel

theorem test_entry_lost : ends (exec (.directoryEntryUncorrectable 32) (dDir (ownedEntry 3) [copyOf 3 .m, copyOf 4 .m]))
    (fun t => t.coh.copies == [] && (t.dirEntry 32).st == .di && t.svc.events == [0x348]) = true := by decide +kernel

/-- A die whose chip scratchpad is held, Smin 2 and Smax 8. -/
def dDie : State := { dev team1 with dies := [(0, { Die.reset with holder := some 0, smin := 2, smax := 8, bounds := [(3, 1)] })] }

theorem test_rebalance : ends (exec (.rebalanceEpoch 1) (dDir DirEntry.empty [])) (fun t => (t.die 1).epoch == 65536 && t.cycle == 65536) = true := by
  decide +kernel

theorem test_carve : dDie.sliceOn 0 3 = true ∧ ends (exec (.carveEpoch 3 ⟨0x301, 0x200, 0, 0⟩) dDie) (fun t => tget 0 (t.die 0).bounds 3 == 2) = true ∧
    ends (exec (.carveEpoch 3 ⟨0x300, 0x200, 0x101, 0⟩) dDie) (fun t => tget 0 (t.die 0).bounds 3 == 0) = true := by decide +kernel

theorem test_scrub : ends (exec (.patrolScrub 0x1008 .uncorrectable) { dev team1 with poison := [4] }) (fun t => t.poison == [4, 0x201]) = true ∧
    ends (exec (.patrolScrub 0x1008 .correctable) (dev team1)) (fun t => t.svc.corrected == 1 && t.poison == []) = true := by decide +kernel

theorem test_clock : ends (exec (.clockThrottle 4 false) (dev team1)) (fun t => (t.core 4).clock == 32) = true ∧
    ends (exec (.clockThrottle 4 true) (dev team1)) (fun t => (t.core 4).clock == 33) = true := by decide +kernel

/-! ## Region switches -/

/-- The base 0x200000 in s4:s5, a mode or a ticket in s6. -/
def team7 : Team := { team1 with s := [(4, 0x200000), (6, 1), (8, 5)] }

/-- Tables at 0x40000 that map the 2 MiB at 0x200000 by a leaf of level 2 in a region mode. -/
def tables (mode : Nat) : List Host.Cell :=
  writeCells [] (cellsFrom 0x40000 (leBytes 8 0x41001) ++ cellsFrom 0x41000 (leBytes 8 0x42001) ++
    cellsFrom 0x42008 (leBytes 8 (0x20001F + mode * 2 ^ 9)))

/-- A device with these tables. -/
def dMap (t : Team) (mode : Nat) : State :=
  { dev t with
    mem := tables mode
    tlb := []
    ctxs := [(0, { Context.reset with valid := true, ptroot := 0x40000, trapBase := 0x10000 })] }

theorem test_crsw : ends (exec (.crsw 108 100 102) (dMap team7 0)) (fun t => t.cur.sget 12 == 1 &&
      t.switches == [⟨0, 1, 0x200000, 1, 0, 0, []⟩]) = true ∧
    ends (exec (.crsw 108 100 102) { dMap team7 0 with switches := List.replicate 16 ⟨0, 1, 0, 0, 0, 0, []⟩ })
      (fun t => t.cur.sget 12 == 0xFFFFFFFF && t.switches.length == 16) = true := by decide +kernel

/-- A device with one switch, ticket 1. -/
def dSwitch (mode from_ result : Nat) (ks : List Copy) : State :=
  { dMap team7 from_ with switches := [⟨0, 1, 0x200000, mode, result, 9, []⟩], coh := { Coherence.reset with copies := ks } }

theorem test_crwait : ends (exec (.crwait 108 102) (dSwitch 0 1 1 [])) (fun t => t.cur.sget 12 == 9) = true ∧
    ends (exec (.crwait 108 102) (dSwitch 0 1 2 [])) (fun t => t.cur.sget 12 == 0x3000000) = true ∧
    ends (exec (.crwait 108 102) (dSwitch 0 1 0 [])) (fun t => decide (t.cur.park = .crwait)) = true ∧
    ends (exec (.crwait 108 104) (dSwitch 0 1 0 [])) (fun t => t.cur.sget 12 == 0x1000000) = true := by decide +kernel

/-- A software-managed copy of the line at 0x200000 with dirty bytes. -/
def managedOf (a : Nat) (cs : List Host.Cell) : Copy := ⟨a, 0x4000, .s, 0x900, true, [], cs, 0⟩

/-- The device where both copies are merged. -/
def dMerge : State := dSwitch 0 1 0 [managedOf 2 [(0x200000, 1), (0x200001, 2)], managedOf 7 [(0x200001, 3)]]

theorem test_switch_conditions : dMerge.regionQuiet (pagesOf (dMerge.regionWalks 0 0x200000)) = true ∧
    (dMerge.regionWalks 0 0x200000).all (fun e => e.2.entry == 0x42008 && e.2.leaf == 0x20021F) = true ∧
    (dMerge.regionWalks 0 0x200000).length = 512 ∧
    (dMerge.mergeCopies (dMerge.managedIn (fun _ => true))).tableLeaves.map (fun w => (w.entry, w.leaf)) = [(0x42008, 0x20021F)] ∧
    plainCells [(0x200000, 1), (0x200001, 2), (0x200001, 3)] ∧ (∀ i, i < 8 → locKind (0x42008 + i) ≠ 2) := by decide +kernel

theorem test_switch_merges : ends (exec .regionSwitch dMerge)
    (fun t => t.switches.map (fun x => (x.result, x.conflicts)) == [(1, 1)] && cellNat t.mem 0x200000 2 == 0x301 &&
      t.coh.copies == [] && cellNat t.mem 0x42008 8 == 0x20001F) = true := by decide +kernel

theorem test_switch_refused : ends (exec .regionSwitch { dSwitch 2 0 0 [] with cur := { pinner with
      bindings := [(4, ⟨false, false, 0x200000, .hardware, 0x200000, false, false, false, 0, 0, false, none⟩)] } })
    (fun t => t.switches.map (fun x => x.result) == [2]) = true := by decide +kernel

/-! ## Handover -/

/-- The device with the region at 0x200000 in handover mode. -/
def dPass (h : Handover) : State :=
  { dev team7 with
    tlb := [⟨0, 0x200, 2, 0x20061F⟩]
    handover := tset Handover.device [] 1 h
    coh := { Coherence.reset with copies := [{ copyOf 3 .m with line := 0x4000 }] } }

theorem test_handoff : (dPass .device).passesOne 100 102 0 1 ∧ (dPass .device).quiet ∧
    ends (exec (.handoff 100 102) (dPass .device)) (fun t => t.passes == [⟨false, [1], ⟨1, 1, 2, 5, none⟩⟩] &&
      t.handoverOf 1 == .device && t.cur.idx == 1) = true := by decide +kernel

/-- The flush, and with it the host's turn. -/
theorem test_handoff_goes_on : { dPass .device with passes := [⟨false, [1], ⟨1, 1, 2, 5, none⟩⟩], nextSeq := 2 }.quiet ∧
    ends (exec (.takeResume 1) { dPass .device with passes := [⟨false, [1], ⟨1, 1, 2, 5, none⟩⟩] })
      (fun t => t.handoverOf 1 == .host && t.coh.copies == [] && t.passes == []) = true := by decide +kernel

theorem test_take : ends (exec (.take 100 102) (dPass .released)) (fun t => t.handoverOf 1 == .device && t.passes == []) = true ∧
    ends (exec (.take 100 102) (dPass .host)) (fun t => t.handoverOf 1 == .host && t.passes.map (fun p => p.regions) == [[1]]) = true := by
  decide +kernel

theorem test_take_resumes : ends (exec (.takeResume 1) { dPass .released with passes := [⟨true, [1], ⟨1, 1, 2, 5, none⟩⟩] })
    (fun t => t.passes == [] && t.handoverOf 1 == .device) = true := by decide +kernel

/-- A host port with a kick command for two regions. -/
def dKick (cmd : Nat) (h : Handover) : State :=
  { dPass h with ports := [(0, { HostPort.reset with kbase := 1, ksize := 2, cmd := cmd, busy := true })] }

theorem test_kicks : ends (exec (.kickRelease 0) (dKick 1 .host)) (fun t => t.handoverOf 1 == .released && (t.hostPort 0).doneCount == 1 &&
      (t.hostPort 0).busy) = true ∧
    ends (exec (.kickAcquire 0) (dKick 2 .device)) (fun t => t.handoverOf 1 == .host) = true := by decide +kernel

/-! ## Hosts and service -/

/-- A line of a bridge. -/
def bline (b : BState) (h0 h1 : HalfState) : BridgeLine := ⟨32, b, h0, h1, false, false, false, false, false, none, 0⟩

/-- A device whose host port 0 has a window over the first 2 MiB. -/
def dHost (ls : List BridgeLine) (ms : List Msg) : State :=
  { dev team1 with
    mem := mem1
    coh := { Coherence.reset with msgs := ms }
    ports := [(0, { HostPort.reset with windows := [(0, ⟨0, true, 1⟩)], lines := ls })] }

/-- What the host has been answered: address and the number that the bytes make. -/
def answersOf (t : State) : List (Nat × Nat × Nat) := (t.hostPort 0).answers.map (fun a => (a.1, a.2.length, leNat a.2))

theorem test_host_asks : (dHost [] []).windowLine 0 32 0 ∧
    ends (exec (.hostReadShared 0 32 0) (dHost [] [])) (fun t => t.coh.reqs == [⟨.getS, 450, 32, [], [], none⟩] && answersOf t == []) = true ∧
    ends (exec (.hostReadOwnership 0 32 0) (dHost [] [])) (fun t => t.coh.reqs == [⟨.getM, 450, 32, [], [], none⟩]) = true := by decide +kernel

theorem test_host_is_served : (bline .o .i .i).rests ∧
    ends (exec (.hostReadShared 0 32 0) (dHost [bline .o .i .i] [])) (fun t => answersOf t == [(0x1000, 64, 0x332211)] &&
      (t.hostPort 0).lines.map (fun b => (b.b, b.h0, b.h1)) == [(.o, .s, .i)]) = true ∧
    ends (exec (.hostReadOwnership 0 32 1) (dHost [bline .x .a .i] [])) (fun t => answersOf t == [(0x1040, 64, 0)] &&
      (t.hostPort 0).lines.map (fun b => (b.b, b.h0, b.h1)) == [(.x, .a, .a)]) = true ∧
    ends (exec (.hostReadOwnership 0 32 0) (dHost [bline .s .s .i] [])) (fun t => t.coh.reqs == [⟨.upgrade, 450, 32, [], [], none⟩]) = true := by
  decide +kernel

/-- In a region of another mode the data are poisoned and counted. -/
theorem test_host_refused : ends (exec (.hostReadShared 0 32 0) { dHost [] [] with tlb := [⟨0, 0, 1, 0x21F⟩] })
    (fun t => (t.hostPort 0).dropped == 1 && answersOf t == [(0x1000, 0, 0)]) = true := by decide +kernel

/-- 64 bytes of 0x55. -/
def data64 : List Byte := List.replicate 64 0x55

theorem test_host_writes_back : ends (exec (.hostWriteback 0 32 0 data64 true) (dHost [bline .x .a .i] []))
    (fun t => cellBytes t.mem 0x1000 65 == data64 ++ [0] && (t.hostPort 0).lines.map (fun b => (b.b, b.h0, b.dirty)) == [(.x, .s, true)]) = true := by
  decide +kernel

theorem test_host_drops : ends (exec (.hostDropClean 0 32 1) (dHost [bline .x .a .s] []))
    (fun t => (t.hostPort 0).lines.map (fun b => (b.h0, b.h1)) == [(.a, .i)]) = true := by decide +kernel

/-- The line with a snoop out, and the message that it is for. -/
def dSnoop (shared : Bool) (snoop1 : Bool) : State :=
  dHost [{ bline .x .a .a with snoop0 := true, snoop1 := snoop1, toShared := shared, asked := true }]
    [⟨if shared then .fwdRead else .inv, 450, 32, 5, true⟩]

theorem test_snoop_answers : ends (exec (.backInvalidateSnoopAnswer 0 32 0 (some data64)) (dSnoop false false))
      (fun t => (t.hostPort 0).lines == [] && t.coh.msgs == [⟨.ack, 450, 32, 5, false⟩] && cellNat t.mem 0x1000 2 == 0x5555) = true ∧
    ends (exec (.backInvalidateSnoopAnswer 0 32 0 (some data64)) (dSnoop true false))
      (fun t => (t.hostPort 0).lines.map (fun b => (b.b, b.h0)) == [(.o, .s)] && t.coh.msgs == [⟨.ack, 450, 32, 5, false⟩]) = true ∧
    ends (exec (.backInvalidateSnoopAnswer 0 32 0 (some data64)) (dSnoop false true))
      (fun t => (t.hostPort 0).lines.map (fun b => (b.snoop0, b.snoop1)) == [(false, true)]) = true := by decide +kernel

theorem test_link_loss : ends (exec (.hostPortLinkLoss 0) (dHost [bline .x .a .s] [])) (fun t => !(t.hostPort 0).up &&
      (t.hostPort 0).lines.map (fun b => (b.h0, b.h1)) == [(.i, .i)] && t.svc.events == [0x389]) = true ∧
    ends (exec (.snoopTimeout 0) (dSnoop false true)) (fun t => !(t.hostPort 0).up && t.svc.events == [0x389]) = true := by decide +kernel

/-- A host port without windows. -/
def dBare : State := { dDir (sharedEntry [3]) [copyOf 3 .s] with ports := [] }

theorem test_uncached : ends (exec (.hostUncachedAccess 0 0x1000 4 none) dBare) (fun t => answersOf t == [(0x1000, 4, 0x332211)] && copiesOf t == [(3, .s)]) = true ∧
    ends (exec (.hostUncachedAccess 0 0x1000 2 (some [7, 8])) dBare) (fun t => cellNat t.mem 0x1000 4 == 0x330807 && copiesOf t == [] &&
      (t.dirEntry 32).st == .di) = true := by decide +kernel

theorem test_descriptor : ends (exec (.contextDescriptorWrite 1 0x28 0x3F true) (dev team1)) (fun t => (t.ctx 1).lqk == 15) = true ∧
    ends (exec (.contextDescriptorWrite 1 0 3 true) (dev team1)) (fun t => (t.ctx 1).valid && (t.ctx 1).priv && (t.ctx 1).tailPend) = true ∧
    ends (exec (.contextDescriptorWrite 0 0x28 1 true) dLaunch) (fun t => (t.ctx 0).lqk == 0 && (t.ctx 0).ignored == 1) = true ∧
    ends (exec (.contextDescriptorWrite 0 0x40 0x2005 false) dLaunch) (fun t => (t.ctx 0).teamBudget == 5) = true := by decide +kernel

theorem test_lock_and_run : ends (exec (.lockInterface 2) (dev team1)) (fun t => (t.ctx 2).locked && (t.svc.measured.map (fun e => e.1)) == [2]) = true ∧
    ends (exec (.run 2) (inCtx (dev team1) id |>.setCtx 2 { Context.reset with locked := true })) (fun t => (t.ctx 2).valid) = true := by decide +kernel

theorem test_bucket_table : ends (exec (.bucketTableWrite 0 5 0x13) (inCtx (dev team1) (fun c => { c with assist := 0x22 })))
      (fun t => t.bucketSlice 0 5 == 3 && t.bucketSlice 0 6 == 6) = true ∧
    ends (exec (.bucketTableWrite 0 5 0x13) (dev team1)) (fun t => t.bucketSlice 0 5 == 5) = true := by decide +kernel

theorem test_window : ends (exec (.coherentWindowWrite 0 1 0 0x200001) { dHost [] [] with
      ports := [(0, { HostPort.reset with windows := [(0, ⟨0, true, 2⟩), (1, ⟨0, false, 4⟩)] })] })
      (fun t => (t.hostPort 0).windows == [(0, ⟨0, true, 2⟩), (1, ⟨0, false, 4⟩)]) = true ∧
    ends (exec (.coherentWindowWrite 0 1 0 0x400001) { dHost [] [] with
      ports := [(0, { HostPort.reset with windows := [(0, ⟨0, true, 2⟩), (1, ⟨0, false, 4⟩)] })] })
      (fun t => (t.hostPort 0).windows == [(0, ⟨0, true, 2⟩), (1, ⟨2, true, 4⟩)]) = true ∧
    ends (exec (.coherentWindowWrite 0 1 8 0x10003) (dHost [] [])) (fun t => tget Window.reset (t.hostPort 0).windows 1 == ⟨0, false, 3⟩) = true := by
  decide +kernel

/-- A port with its kick registers set for two regions. -/
def dRegs : State := { dev team1 with ports := [(1, { HostPort.reset with kbase := 2, ksize := 2 })] }

theorem test_kick_registers : ends (exec (.configWrite 0x10000 0x600000 false) dRegs) (fun t => (t.hostPort 1).kbase == 3) = true ∧
    ends (exec (.configWrite 0x1000C 2 false) dRegs) (fun t => (t.hostPort 1).busy && (t.hostPort 1).cmd == 2) = true ∧
    ends (exec (.configWrite 0x1000C 3 false) dRegs) (fun t => !(t.hostPort 1).busy && (t.hostPort 1).err == 1) = true ∧
    ends (exec (.configWrite 0x10008 5 false) { dRegs with ports := [(1, { HostPort.reset with busy := true })] })
      (fun t => (t.hostPort 1).drop && (t.hostPort 1).ksize == 0) = true ∧
    ends (exec (.configWrite 0x1000001 0x80000003 true) dRegs) (fun t => t.cur.stepctl == 0x80000003) = true := by decide +kernel

theorem test_diagnostic : ends (exec (.directoryDiagnosticRead 0x1010) (dDir (ownedEntry 9) [])) (fun t => t.svc.lastEntry.isSome) = true ∧
    (ownedEntry 9).body.extractLsb' 69 3 = 2 ∧ (ownedEntry 9).body.extractLsb' 55 9 = 9 ∧
    ends (exec (.directoryDiagnosticRead 0x1010) (dev team1)) (fun t => t.svc.lastEntry == some 0) = true := by decide +kernel

theorem test_heater : ends (exec (.heaterCodeWrite 7 0x123) (inCtx (dev team1) (fun c => { c with assist := 0x42 })))
    (fun t => tget 0 t.svc.heater 7 == 0x123) = true := by decide +kernel

/-- A device whose channel 2 has one wavelength, and its pair as many as said. -/
def dWave (n : Word) : State :=
  { dev team1 with svc := { ServiceCtl.reset with ready := true, presence := { Presence.full with wave := [(2, 8), (3, n)] } } }

theorem test_ring : ends (exec (.ringOutOfLock 2 3) (dWave 1)) (fun t => t.wave 2 == 0 && t.svc.events == [0x409] && t.svc.ready) = true ∧
    ends (exec (.ringOutOfLock 2 3) (dWave 0)) (fun t => !t.svc.ready && !t.cur.live) = true := by decide +kernel

theorem test_spdm : ends (exec .getDigests (dev team1)) (fun t => t.svc.spdm.map (fun a => (a.port, a.request)) == [(0, 3)]) = true := by decide +kernel

theorem test_shutdown : ends (exec (.thermalShutdown 0) dLaunch) (fun t => !t.svc.ready && t.launches == [] && t.wgs == [] && !t.cur.live &&
    cellNat t.mem 0x5000 8 == 2 ^ 63 + 3) = true := by decide +kernel

theorem test_device_reset : ends (exec .deviceReset State.reset) (fun t => t.svc.ready && t.svc.bank == 0) = true ∧
    ends (exec .deviceReset { State.reset with svc := { ServiceCtl.reset with banksGood := [false, true] } })
      (fun t => t.svc.ready && t.svc.bank == 1 && t.svc.firmwareFailed) = true ∧
    ends (exec .deviceReset { State.reset with svc := { ServiceCtl.reset with banksGood := [false, false] } })
      (fun t => !t.svc.ready && t.svc.stuckInReset) = true := by decide +kernel

/-! ## Fabric -/

/-- A packet from device 1 to device 0, its bits placed as R419 says. -/
def pkt (cls op tag misc pa : Nat) (payload : List Byte) : Packet where
  hdr := BitVec.ofNat 128 (pa + misc * 2 ^ 48 + tag * 2 ^ 84 + lenCode payload.length * 2 ^ 96 + op * 2 ^ 100 + cls * 2 ^ 106 +
    0 * 2 ^ 108 + 1 * 2 ^ 112)
  payload := payload
  headerOk := true

/-- Device 0 of 8, with ports 3 and 4 to device 1, one received packet and the coherence state of a small device. -/
def dFab (s : State) (ks : List Packet) : State :=
  { s with fab := { Fabric.reset with
      ndev := 8
      rx := ks
      ports := [(3, { Port.reset with up := true, peer := some 1, inGroup := true, rxSeq := 5 }),
        (4, { Port.reset with up := true, peer := some 1, inGroup := true, fenced := true })] } }

/-- A flit of a type, sequence number 5, acknowledging 9. -/
def flit (type : Nat) (ks : List Packet) (restate : List Nat) : Flit where
  hdr := BitVec.ofNat 64 (type * 2 ^ 60 + 5 * 2 ^ 48 + 9 * 2 ^ 36 + 1 * 2 ^ 24 + 2 * 2 ^ 12 + 3)
  packets := ks
  restate := restate
  crcOk := true

/-- A read of the line at 0x1000, to device 0. -/
def readPkt : Packet := pkt 0 0 7 0 0x1000 []

theorem test_flit_delivers : (dFab (dev team1) []).packetOk readPkt = true ∧ readPkt.dst = 0 ∧
    ends (exec (.flitData 3 (flit 0 [readPkt] [])) (dFab (dev team1) [])) (fun t => t.fab.rx == [readPkt] && (t.port 3).rxSeq == 6 &&
      (t.port 3).returned == [1, 0, 0] && (t.port 3).ret == [1, 2, 3]) = true := by decide +kernel

theorem test_header_error : ends (exec (.flitData 3 (flit 0 [pkt 1 0 7 0 0x1000 []] [])) (dFab (dev team1) []))
    (fun t => t.fab.rx == [] && t.fab.headerErrors == 1) = true := by decide +kernel

/-- A port that keeps flits 8, 9 and 10. -/
def dKeeps : State :=
  let s := dFab (dev team1) []
  s.setPort 3 { s.port 3 with unacked := [(8, []), (9, []), (10, [])] }

theorem test_flit_idle : ends (exec (.flitIdle 3 (flit 1 [] [])) dKeeps) (fun t => (t.port 3).unacked == [(10, [])] && (t.port 3).rxSeq == 5) = true ∧
    ends (exec (.flitResync 3 (flit 2 [] [7, 8, 9, 11])) dKeeps) (fun t => (t.port 3).unacked == [] && (t.port 3).ret == [7, 8, 9] &&
      (t.port 3).rxSeq == 6) = true ∧
    ends (exec (.flitRetryRequest 3 (flit 3 [] [])) dKeeps) (fun t => (t.port 3).unacked == [(10, [])] && (t.port 3).retries == 1) = true := by
  decide +kernel

theorem test_flit_discarded : ends (exec (.flitData 3 { flit 0 [readPkt] [] with crcOk := false }) dKeeps)
    (fun t => t.fab.rx == [] && (t.port 3).rxSeq == 5 && (t.port 3).retries == 1 && (t.port 3).unacked.length == 3) = true := by decide +kernel

theorem test_fences : ends (exec (.groupFence 3 (flit 2 [] [7, 8, 9, 11])) dKeeps) (fun t => !(t.port 3).fenced && !(t.port 4).fenced) = true ∧
    ends (exec (.groupFence 3 (flit 2 [] [7, 8, 9, 11])) (dKeeps.setPort 4 { dKeeps.port 4 with fenced := false }))
      (fun t => (t.port 3).fenced) = true := by decide +kernel

theorem test_link_down : 3 ∈ dKeeps.group 1 ∧ 4 ∈ dKeeps.group 1 ∧
    ends (exec (.linkDown 3) dKeeps) (fun t => t.group 1 == [4] && !(t.port 3).up) = true := by decide +kernel

theorem test_port_up : Presence.full.fport.getLsbD 5 = true ∧ (dKeeps.port 5).up = false ∧ 5 < 36 := by decide +kernel

/-- A packet for device 2 that is relayed, and the port to it. -/
def dRelay : State :=
  let s := (dFab (dev team1) []).setPort 6 { Port.reset with up := true, peer := some 2, inGroup := true }
  { s with fab := { s.fab with relay := [(3, { readPkt with hdr := readPkt.hdr ||| BitVec.ofNat 128 (2 * 2 ^ 108 + 2 ^ 99) })] } }

theorem test_relay : ends (exec .detourRelay dRelay) (fun t => t.fab.relay == [] && (t.port 6).unacked.length == 1 && (t.port 6).sent == [1, 0, 0]) = true := by
  decide +kernel

/-- A message to device 1's proxy that has been sent. -/
def dMsgs (s : State) (kd : MsgKind) : State :=
  { s with coh := { s.coh with msgs := [⟨kd, 465, 32, 5, true⟩], txns := [⟨.getM, 5, 32, 2, 0, [], [], [], [], .e, none, 0⟩] } }

theorem test_resend : (dFab (dMsgs (dev team1) .inv) []).group 1 = [3, 4] ∧
    ends (exec .invalidationResend (dFab (dMsgs (dev team1) .inv) [])) (fun t => t.coh.msgs.map (fun m => m.sent) == [true]) = true := by
  decide +kernel

/-- The device with the byte lines of earlier tests, and a received packet. -/
def dPkt (e : DirEntry) (k : Packet) : State := dFab (dDir e []) [k]

theorem test_pkt_read : (dPkt DirEntry.empty readPkt).receives readPkt 0 ∧ (dPkt DirEntry.empty readPkt).homed readPkt = true ∧
    ends (exec .pktReadShared (dPkt DirEntry.empty readPkt)) (fun t => t.fab.rx == [] && t.coh.reqs == [⟨.getS, 465, 32, [], [], some readPkt⟩]) = true := by
  decide +kernel

theorem test_pkt_exclusive : ends (exec .pktReadExclusive (dPkt DirEntry.empty (pkt 0 1 7 0 0x1000 [])))
      (fun t => t.coh.reqs.map (fun r => r.kind) == [.getM]) = true ∧
    ends (exec .pktUpgrade (dPkt DirEntry.empty (pkt 0 2 7 0 0x1000 []))) (fun t => t.coh.reqs.map (fun r => r.kind) == [.upgrade]) = true := by
  decide +kernel

/-- A write of the bytes 1 and 3 of the line. -/
def writePkt : Packet := pkt 0 4 7 0 0x1000 (leBytes 16 0xA ++ (List.range 128).map (fun i => BitVec.ofNat 8 (i + 0x80)))

theorem test_pkt_write : ends (exec .pktWrite (dPkt DirEntry.empty writePkt)) (fun t => t.coh.reqs.map (fun r => (r.kind, r.cells)) ==
      [(.getM, [(0x1001, 0x81), (0x1003, 0x83)])] && t.mem == mem1) = true ∧
    ends (exec .pktWrite { dPkt DirEntry.empty writePkt with tlb := [⟨0, 0, 1, 0x41F⟩] }) (fun t => t.coh.reqs == [] &&
      cellNat t.mem 0x1000 4 == 0x83338111) = true := by decide +kernel

theorem test_pkt_uncached : ends (exec .pktUncachedRead (dPkt DirEntry.empty (pkt 0 3 7 4 0x1000 []))) (fun t => t.fab.rx == [] && t.mem == mem1) = true := by
  decide +kernel

theorem test_pkt_atomic : ends (exec .pktAtomic (dPkt (sharedEntry [3]) (pkt 0 5 7 0 0x1000 [1, 0, 0, 0x80])))
      (fun t => cellNat t.mem 0x1000 4 == 0x80332212 && (t.dirEntry 32).st == .di) = true ∧
    ends (exec .pktReduction (dPkt DirEntry.empty (pkt 0 6 7 5 0x1000 [0, 0, 0, 0x80]))) (fun t => cellNat t.mem 0x1000 4 == 0x332211) = true := by
  decide +kernel

/-- A line of fives written back. -/
def backPkt : Packet := pkt 0 9 7 0 0x1000 (List.replicate 128 5)

theorem test_pkt_gives : [(Instr.pktRenewal, Req.renew, pkt 0 7 7 0 0x1000 []), (.pktCleanEvictionNotice, .evict, pkt 0 8 7 0 0x1000 []),
    (.pktWriteback, .writeback, backPkt)].all (fun x => ends (exec x.1 (dPkt (sharedEntry [465]) x.2.2)) (fun t =>
      t.coh.reqs.map (fun r => (r.kind, r.agent, r.cells.length)) == [(x.2.1, 465, x.2.2.payload.length)] && t.fab.rx == [])) = true := by
  decide +kernel

/-- What a packet of device 1 has brought to the queue of its line. -/
def gave (kind : Req) (k : Packet) : HomeReq := ⟨kind, 465, 32, if k.payload = [] then [] else cellsFrom 0x1000 k.payload, [], some k⟩

/-- A device with it. -/
def dGave (e : DirEntry) (r : HomeReq) : State :=
  let s := dPkt e readPkt
  { s with coh := { s.coh with reqs := [r] } }

theorem test_peers_turn : (dGave (sharedEntry [465]) (gave .renew readPkt)).peersTurn (gave .renew readPkt) readPkt ∧
    ends (exec (.renewal 465 32) (dGave (sharedEntry [465]) (gave .renew readPkt))) (fun t => (t.dirEntry 32).stamp == 0xC00 && t.coh.reqs == []) = true ∧
    ends (exec (.cleanEvictionNotice 465 32) (dGave (sharedEntry [465, 3]) (gave .evict readPkt))) (fun t => (t.dirEntry 32).ptrs == [3]) = true ∧
    ends (exec (.writeback 465 32) (dGave (ownedEntry 465) (gave .writeback backPkt)))
      (fun t => (t.dirEntry 32).st == .di && cellNat t.mem 0x107E 4 == 0x0505) = true := by decide +kernel

/-- A peer's atomic of 4 bytes meets a granule recorded with 8: it is performed, and recorded. -/
theorem test_far_mixes : let s := dPkt DirEntry.empty (pkt 0 5 7 0 0x1000 [1, 0, 0, 0])
    let t := { s with coh := { s.coh with granules := [(0x100, 8)] } }
    t.mixes 0x1000 4 = true ∧ t.mixes 0x1000 31 = false ∧ ends (exec .pktAtomic t) (fun u => cellNat u.mem 0x1000 4 == 0x332212 &&
      u.coh.granules == [(0x100, 4)]) = true := by decide +kernel

/-- A request of operation `op` to device 1 with tag 7, for the line at 0x1000 there; a load of lane 2 waits. -/
def dAsk (op : Nat) (k : Packet) : State :=
  let s := dFab (dev { team1 with service := some ⟨[(7, 9)], [], [], 0, false⟩ }) [k]
  { s with
    fab := { s.fab with
      txns := [⟨7, 1, op, lineOf (locPeer 1 0x1000), some 4, [], 2, none, [], k⟩]
      proxy := [⟨1, lineOf (locPeer 1 0x1000), .s, 0x900⟩] }
    loads := [{ load (.atomic .add 0 0 0) [(0, .vec 2 20)] with seq := 4, lane := 2, space := .peer 1 false, loc := locPeer 1 0x1004 }] }

/-- A data packet of a line of rising bytes. -/
def dataPkt (op misc : Nat) : Packet := pkt 1 op 7 misc 0x1000 ((List.range 128).map (fun i => BitVec.ofNat 8 i))

theorem test_pkt_data : (dAsk 0 (dataPkt 0x10 0xC00)).receives (dataPkt 0x10 0xC00) 0x10 ∧
    ends (exec .pktData (dAsk 0 (dataPkt 0x10 0xC00))) (fun t => t.fab.txns == [] && t.loads.map (fun l => l.value) == [some 0x07060504] &&
      t.fab.proxy.map (fun p => (p.st, p.stamp)) == [(.s, 0xC00)] && t.cur.service.map (fun v => v.asked) == some []) = true ∧
    ends (exec .pktDataAckCount (dAsk 1 (dataPkt 0x11 0xC00))) (fun t => t.fab.proxy.map (fun p => p.st) == [.e]) = true := by decide +kernel

theorem test_pkt_atomic_answer : ends (exec .pktData (dAsk 5 (pkt 1 0x10 7 0 0x1004 [9, 1, 0, 0]))) (fun t =>
    t.loads.map (fun l => l.value) == [some 0x109]) = true := by decide +kernel

theorem test_pkt_acknowledgement : ends (exec .pktAcknowledgement (dAsk 7 (pkt 1 0x12 7 0xD00 0x1000 []))) (fun t => t.fab.txns == [] &&
      t.fab.proxy.map (fun p => p.stamp) == [0xD00]) = true ∧
    ends (exec .pktWritePerformed (dAsk 4 (pkt 1 0x13 7 0 0x1000 []))) (fun t => t.fab.txns == []) = true ∧
    ends (exec .pktAcknowledgement (dFab (dMsgs (dev team1) .inv) [pkt 1 0x12 0 (2 ^ 35) 0x1000 []])) (fun t => t.coh.msgs == [] &&
      t.coh.txns.map (fun y => y.got) == [1]) = true := by decide +kernel

theorem test_pkt_error : ends (exec .pktError (dAsk 0 (pkt 1 0x14 7 0 0x1000 []))) (fun t => t.loads == [] &&
      t.cur.service.map (fun v => v.failed) == some [(2, tMCHK 1)]) = true ∧
    ends (exec .transactionTimeout (dAsk 0 readPkt)) (fun t => t.loads == [] && t.cur.service.map (fun v => v.failed) == some [(2, tPAGE 2)]) = true := by
  decide +kernel

/-- A team with a binding on device 1's line, which its proxy holds. -/
def dProxy (k : Packet) : State :=
  let s := dFab (dev { team1 with bindings := [(4, ⟨false, false, 0x1000, .peer 1 false, locPeer 1 0x1000, false, false, false, 0, 0, false, none⟩)] }) [k]
  { s with fab := { s.fab with proxy := [⟨1, lineOf (locPeer 1 0x1000), .e, 0x900⟩] } }

/-- The same without the binding. -/
def dProxyLine (k : Packet) : State := { dProxy k with cur := { (dProxy k).cur with bindings := [] } }

theorem test_pkt_invalidate : (dProxy (pkt 2 0x20 0 0 0x1000 [])).receives (pkt 2 0x20 0 0 0x1000 []) 0x20 ∧
    ends (exec .pktInvalidate (dProxyLine (pkt 2 0x20 0 0 0x1000 []))) (fun t => t.fab.proxy == []) = true ∧
    ends (exec .pktForward (dProxyLine (pkt 2 0x21 0 1 0x1000 []))) (fun t => t.fab.proxy.map (fun p => p.st) == [.s]) = true ∧
    ends (exec .pktRecall (dProxyLine (pkt 2 0x22 0 0 0x1000 []))) (fun t => t.fab.proxy == []) = true := by decide +kernel

/-! ## Hanks -/

/-- Member 0 of a hank of three: member 1 on this device, member 2 on device 1. -/
def hank3 (m : Nat) : HankInfo where
  key := 5
  hank := 2
  size := 3
  member := m
  hexp := 256
  devices := [0, 0, 1]
  wgs := [some 1, some 2, none]
  departed := []
  attachFrom := [0, 0, 0]

/-- Two members on a device, and their first team. -/
def dHank (t : Team) (ks : List Packet) : State :=
  let s := dFab (dev t) ks
  { s with wgs := [{ group with hank := some (hank3 0) }, { group with uid := 2, hank := some (hank3 1) }] }

/-- A team whose scalar 0 names a member. -/
def asks (m : Nat) : Team := { team1 with s := [(0, BitVec.ofNat 32 m)] }

/-- That team as it is attached to a member. -/
def joined (m : Nat) : Team := { asks m with attached := [m] }

theorem test_hattach : (dHank (asks 1) []).plain = true ∧ (dHank (asks 1) []).hankOf (asks 1) = some (hank3 0) ∧ (asks 1).leader = some 0 ∧
    ends (exec (.hattach 100 96) (dHank (asks 1) [])) (fun t => t.cur.attached == [1] && t.cur.sget 4 == 0 && t.cur.idx == 1 &&
      t.wgs.map (fun w => w.hank.map (fun h => h.attachFrom)) == [some [0, 0, 0], some [1, 0, 0]]) = true ∧
    ends (exec (.hattach 100 96) (dHank (asks 0) [])) (fun t => t.cur.attached == [] && t.cur.sget 4 == 0 && t.cur.idx == 1) = true ∧
    ends (exec (.hattach 100 96) (dHank (asks 3) [])) (fun t => t.cur.faultInfo == 0x2D000000) = true := by decide +kernel

theorem test_hattach_answered : ends (exec (.hattach 100 96) (dHank { asks 2 with park := .attach 2 (some false) } []))
      (fun t => t.cur.attached == [2] && t.cur.park == .running) = true ∧
    ends (exec (.hattach 100 96) (dHank { asks 2 with park := .attach 2 (some true) } []))
      (fun t => t.cur.attached == [] && t.cur.sget 4 == 1) = true := by decide +kernel

theorem test_hdetach : ends (exec (.hdetach 96) (dHank (joined 1) [])) (fun t => t.cur.attached == [] && t.cur.idx == 1) = true ∧
    ends (exec (.hdetach 96) (dHank { joined 2 with park := .detach 2 true } [])) (fun t => t.cur.idx == 1 && t.cur.park == .running) = true ∧
    ends (exec (.hdetach 96) (dHank (joined 2) [])) (fun t => t.cur.park == .detach 2 false && t.cur.attached == [] && t.cur.idx == 0) = true ∧
    ends (exec (.hdetach 96) (dHank (joined 0) [])) (fun t => t.cur.attached == [0] && t.cur.idx == 1) = true := by decide +kernel

theorem test_hquery : ends (exec (.hquery 100 96) (dHank (asks 0) [])) (fun t => t.cur.sget 4 == 7) = true ∧
    ends (exec (.hquery 100 96) (dHank { asks 1 with attached := [2] } [])) (fun t => t.cur.sget 4 == 5) = true ∧
    ends (exec (.hquery 100 96) (dHank (asks 3) [])) (fun t => t.cur.faultInfo == 0x10000000) = true := by decide +kernel

/-- A packet of another member for member 0's window. -/
def winPkt (op misc off : Nat) (payload : List Byte) : Packet := pkt 0 op 7 (misc + 5 * 2 ^ 16) (2 * 2 ^ 28 + off) payload

/-- The device that has received one. -/
def dWin (op misc off : Nat) (payload : List Byte) : State :=
  let s := dHank team1 [winPkt op misc off payload]
  { s with mem := [(locScratch 1 0x104, 0x12), (locScratch 1 0x106, 0x34)] }

theorem test_window_write : (dWin 0x38 0 0x104 (leBytes 16 0xA ++ List.replicate 128 0x77)).receives
      (winPkt 0x38 0 0x104 (leBytes 16 0xA ++ List.replicate 128 0x77)) 0x38 ∧
    ((dWin 0x38 0 0x104 []).memberHere 5 2 0).map (fun w => w.uid) = some 1 ∧
    ends (exec .windowWrite (dWin 0x38 0 0x104 (leBytes 16 0xA ++ List.replicate 128 0x77))) (fun t =>
      cellNat t.mem (locScratch 1 0x100) 8 == 0x0034001277007700) = true := by
  decide +kernel

theorem test_window_read : ends (exec .windowRead (dWin 0x37 4 0x104 [])) (fun t => t.fab.rx == [] && t.mem == (dWin 0x37 4 0x104 []).mem) = true := by
  decide +kernel

theorem test_window_atomic : ends (exec .windowAtomic (dWin 0x39 0x106 0x104 (leBytes 4 0xFFFFFFFF)))
    (fun t => cellNat t.mem (locScratch 1 0x104) 4 == 0xFFFFFFFF) = true ∧
    ends (exec .windowAtomic (dWin 0x39 0x100 0x104 (leBytes 4 1 ++ leBytes 4 5))) (fun t =>
      cellNat t.mem (locScratch 1 0x104) 8 == 0x00340013 + 5 * 2 ^ 32) = true ∧
    ends (exec .windowAtomic (dWin 0x39 0x100 0x104 (leBytes 4 0xFFFFFFFF))) (fun t => cellNat t.mem (locScratch 1 0x104) 4 == 0x00340011) = true := by
  decide +kernel

theorem test_window_barrier : ends (exec .windowBarrier (dWin 0x3C 0 0x200 (leBytes 8 3))) (fun t => t.barriers == [locScratch 1 0x200] &&
      cellNat t.mem (locScratch 1 0x200) 8 == 0x8001000300000000) = true ∧
    ends (exec .windowBarrier { dWin 0x3C 2 0x200 (leBytes 8 3) with
        mem := writeCells [] (cellsFrom (locScratch 1 0x200) (leBytes 8 0x8001000300000000)) }) (fun t =>
      cellNat t.mem (locScratch 1 0x200) 8 == 0x8001000300010000) = true := by decide +kernel

theorem test_hank_attach : ends (exec .hankAttach (dWin 0x34 2 0 [])) (fun t => t.wgs.map (fun w => w.hank.map (fun h => h.attachFrom)) ==
      [some [0, 0, 1], some [0, 0, 0]]) = true ∧
    ends (exec .hankDetach (dWin 0x35 2 0 [])) (fun t => t.fab.rx == []) = true := by decide +kernel

/-- A team that waits for a member on device 1. -/
def dWait (op lane : Nat) (k : Packet) (t : Team) : State :=
  let s := dHank t [k]
  { s with
    fab := { s.fab with txns := [⟨7, 1, op, lineOf (locMember 1 2 0x100), some (if op = 0x34 ∨ op = 0x35 then 1 else 4), [], lane, none, [], k⟩] }
    loads := [{ load .plain [(0, .vec 2 20)] with seq := 4, lane := 2, space := .member 2, loc := locMember 1 2 0x104 }] }

/-- The same team at the instruction of its load. -/
def staying : Team := { team1 with service := some ⟨[(7, 9)], [], [], 0, false⟩ }

theorem test_window_answer : ends (exec .windowAnswer (dWait 0x37 2 (pkt 1 0x3A 7 0 0 [4, 3, 2, 1]) staying)) (fun t => t.fab.txns == [] &&
      t.loads.map (fun l => l.value) == [some 0x01020304]) = true ∧
    ends (exec .windowAnswer (dWait 0x37 2 (pkt 1 0x3A 7 1 0 []) staying)) (fun t => t.loads == [] &&
      t.cur.service.map (fun v => v.failed) == some [(2, tHANKGONE 2)]) = true ∧
    ends (exec .windowAnswer (dWait 0x34 0 (pkt 1 0x3A 7 1 0 []) { team1 with park := .attach 2 none })) (fun t =>
      t.cur.park == .attach 2 (some true)) = true ∧
    ends (exec .windowAnswer (dWait 0x35 0 (pkt 1 0x3A 7 0 0 []) { team1 with park := .detach 2 false })) (fun t =>
      t.cur.park == .detach 2 true) = true := by decide +kernel

/-- The check that a write touches no barrier word of a member on device 1 (R140). -/
def dCheck (status : Nat) : State :=
  let s := dWait 0x37 3 (pkt 1 0x3A 7 status 0 []) { team1 with checked := true, park := .page, service := some ⟨[(7, 9)], [], [], 1, true⟩ }
  { s with loads := [], fab := { s.fab with txns := s.fab.txns.map (fun x => { x with load := none, resend := winPkt 0x37 (4 + 256) 0x104 [] }) } }

theorem test_window_check : (dCheck 2).fab.txns.map Transaction.checks = [true] ∧
    ends (exec .windowAnswer (dCheck 2)) (fun t => t.cur.service.map (fun v => (v.asked, v.failed)) == some ([], [(0, tBARCLOB)])) = true ∧
    ends (exec .windowAnswer (dCheck 0)) (fun t => t.cur.service.map (fun v => (v.asked, v.failed)) == some ([], [])) = true ∧
    (dWin 0x37 (4 + 256) 0x104 []).hitsBarrier (locScratch 1 0x104) 4 = false ∧
    { dWin 0x37 (4 + 256) 0x104 [] with barriers := [locScratch 1 0x100] }.hitsBarrier (locScratch 1 0x104) 4 = true := by decide +kernel

/-- A store to that member asks first, and waits at the instruction. -/
theorem test_store_is_checked :
    ends (exec (.stw 8 2 124) (dHank { joined 2 with v := [(2, 0x2000004), (3, 0xFFFFF500)] } [])) (fun t => t.path == [] &&
      decide (t.cur.park = .page) && t.cur.checked && t.fab.txns.map (fun x => x.op) == [0x37]) = true := by decide +kernel

/-- A packet of the placement protocol: member, attempt 9, key 5. -/
def placePkt (op tag m key : Nat) (payload : List Byte) : Packet := pkt 0 op tag (m + 9 * 16 + key * 2 ^ 16) (2 * 2 ^ 28) payload

/-- The launch of a hank of two on this device, placed from device 1 or from here. -/
def hankLaunch (origin : Option (Nat × Nat)) : Launch := { launch with hank := 2, phase := .open_, origin := origin, id := 5, hmap := 0x00 }

/-- A device with pool slots that has received such a packet. -/
def dPlaced (k : Packet) : State :=
  let s := inCtx (dFab dLaunch [k]) (fun c => { c with lslots := 200 })
  { s with launches := [] }

/-- The reserve of member 1, origin device 1. -/
def reserve1 : Packet := placePkt 0x30 0 1 0x10005 (reservePayload (hankLaunch none))

theorem test_reserve : (dPlaced reserve1).budgetsPass 0 2 = true ∧ (dPlaced reserve1).slotsLeft 0 2 = true ∧
    ends (exec .hankReserve (dPlaced reserve1)) (fun t => t.fab.rx == [] && t.anns.map (fun a => (a.phase, a.purpose, a.spec.teams)) ==
      [(.bidding, .hank 1 9 0x10005 2 1, 2)]) = true := by decide +kernel

/-- A reservation of core 4 for that member. -/
def dReserved (op : Nat) : State :=
  let s := dPlaced (placePkt op 0 1 0x10005 [])
  { s with fab := { s.fab with reserved := [⟨1, 9, 0, hankLaunch (some (1, 5)), 1, 2, 4, ClassRec.reset, []⟩] } }

theorem test_commit : ends (exec .hankCommit (dReserved 0x32)) (fun t => t.fab.reserved == [] && t.wgs.length == 2 &&
    (t.wgs.getD 1 group).core == 4 && (t.wgs.getD 1 group).index == 5 && ((t.wgs.getD 1 group).hank.map (fun h => (h.member, h.size)) == some (1, 2)) &&
    t.others.length == 2) = true := by decide +kernel

theorem test_release : ends (exec .hankRelease (dReserved 0x33)) (fun t => t.fab.reserved == [] && t.wgs.length == 1) = true := by decide +kernel

/-- An attempt of a launch of this device. -/
def dAttempt (ans : List (Option Nat)) (target : Option Nat) (ks : List Packet) : State :=
  let s := dFab dLaunch ks
  { s with
    launches := [hankLaunch none]
    fab := { s.fab with attempts := [⟨9, 5, 2, ans, true, false, 0, target⟩] } }

theorem test_reserve_answer : ends (exec .hankReserveAnswer (dAttempt [none, none] none [placePkt 0x31 0 1 5 [0, 0, 0, 0]]))
      (fun t => t.fab.attempts.map (fun a => a.answers) == [[none, some 0]] && t.fab.rx == []) = true ∧
    ends (exec .hankReserveAnswer (dAttempt [some 0, none] none [placePkt 0x31 0 1 5 [0, 0, 0, 0]]))
      (fun t => t.fab.attempts.map (fun a => a.active) == [false] && t.fab.rx.length == 2) = true ∧
    ends (exec .hankReserveAnswer (dAttempt [some 0, none] none [placePkt 0x31 0 1 5 [2, 0, 0, 0]]))
      (fun t => t.fab.attempts == [] && t.launches.map (fun l => (l.stopped, l.status)) == [(true, 6)]) = true := by decide +kernel

theorem test_reserve_timeout : (dAttempt [some 0, none] none []).attempts1 (hankLaunch none) ⟨9, 5, 2, [some 0, none], true, false, 0, none⟩ ∧
    ends (exec .hankReserveTimeout (dAttempt [some 0, none] none [])) (fun t => t.fab.attempts.map (fun a => a.answers) == [[some 0, some 1]] &&
      t.fab.rx.length == 2) = true := by decide +kernel

theorem test_retry : ends (exec .hankRetry (dAttempt [some 0, some 1] none [])) (fun t => t.fab.attempts.map (fun a => (a.id, a.answers)) ==
    [(20, [none, none])] && t.fab.rx.length == 2) = true := by decide +kernel

theorem test_drain_hold : ends (exec .drainHold (dAttempt [some 0, some 1] none [])) (fun t => t.fab.attempts.map (fun a => a.target) == [some 1] &&
    t.cores.map (fun c => (c.1, c.2.drainHold)) == [(0, some (holdName 5 2 1))]) = true := by decide +kernel

/-- Core 0 held, its workgroup of priority 0 below the launch's 2. -/
def dDrain : State :=
  let s := dAttempt [some 0, some 1] (some 1) []
  s.setCore 0 { s.core 0 with drainHold := some (holdName 5 2 1) }

theorem test_drain_preempt : ends (exec .drainPreempt dDrain) (fun t => t.wgs.map (fun w => w.phase) == [.stopping] &&
    t.fab.attempts.map (fun a => a.target) == [some 2]) = true := by decide +kernel

theorem test_abandon : ends (exec .hankAbandon dDrain) (fun t => t.fab.attempts == [] && t.launches.map (fun l => (l.stopped, l.status)) == [(true, 5)]) = true := by
  decide +kernel

/-- A notice of member 2's departure, attempt 0. -/
def goneMsg (op : Nat) (m : Nat) : Packet := pkt 0 op 0 (m + 5 * 2 ^ 16) (2 * 2 ^ 28) [3, 0, 0, 0]

theorem test_departure : ends (exec .departureNotice (dHank { team1 with bindings := [(4, ⟨false, false, 0, .member 2, locMember 1 2 0, false, false, false, 0, 0, false, none⟩)] }
      [goneMsg 0x36 2])) (fun t => t.wgs.map (fun w => w.hank.map (fun h => h.departed)) == [some [2], some [2]] &&
    t.cur.bindings.map (fun b => b.2.pend) == [true]) = true := by decide +kernel

theorem test_preempt_hank : ends (exec .preemptHank (dHank team1 [goneMsg 0x3B 0])) (fun t => (t.wgs.map (fun w => w.phase)).take 1 == [.stopping]) = true := by
  decide +kernel

/-! ## Hypotheses met -/

/-- A peer's changed line that the proxy does not hold: the observation points wait for it. -/
def teamFar : Team :=
  { team1 with bindings := [(8, ⟨false, false, 0x1000, .peer 1 false, locPeer 1 0x1000, false, true, false, 0, 0, false, none⟩)] }

theorem meets_observation_waits : (dev teamFar).obsWaits teamFar = true ∧ dBound.obsWaits dBound.cur = false ∧
    ends (exec (.bwait 2 8 98) (dev teamFar)) (fun t => decide (t.cur.park = .access)) = true ∧
    ends (exec .sret (dev { teamFar with tstat := 0x10000 })) (fun t => t.cur.hlevel && t.cur.idx == 0) = true := by
  decide +kernel

theorem meets_acquire : dMem.hostOwned 32 = false ∧ dHeld.copyAt 0 32 ≠ none ∧ ends (exec (.ldwa 12 2 124) dHeld) (fun t => t.loads.map (fun x => x.kind.settles) == [false]) =
    true ∧ dMem.memberStopped 0x1000 = false ∧ dMem.noneDirty ∧ (∀ x ∈ dMem.fab.txns, x.write = []) := by decide +kernel

theorem meets_path : dFence.holdsMet { entry none with hold := [(1, 1)], tag := ⟨1, 1, 2, 2, none⟩ } = false ∧
    dMem.holdsMet { entry none with hold := [(1, 1)], tag := ⟨1, 1, 2, 2, none⟩ } = true ∧ (dPath none [.m]).owns 0 32 = true ∧
    (dPath none []).owns 0 32 = false := by decide +kernel

theorem meets_commit : (dCommit true false).cur.rlane? 0 ≠ none ∧ ((dCommit true false).cur.rlane? 0).map RLane.commitLines = some [32] ∧
    (dCommit true false).holdsLine 0 32 = true ∧ { dCommit true false with coh := Coherence.reset }.holdsLine 0 32 = false ∧
    (dCommit true false).ports = [] := by decide +kernel

theorem meets_pair : dPair.pairInTime 0 mopPair = true ∧ pairK 0 0 ≠ none ∧ (dOp mopPair).partner 0 mopPair = none := by
  decide +kernel

/-- Saved: no deadline comes (R367). -/
theorem meets_saved_deadline : ends (exec (.parkTimeout 1) { dev { team5 with park := .park (some 9) false false } with
      wgs := [{ group with phase := .saved }] }) (fun t => t.cycle == 0 && decide (t.cur.park = .park (some 9) false false)) = true := by
  decide +kernel

theorem meets_confirm : (dAnn { ann with phase := .awarded, awarded := some 5 }).canConfirm ann 5 = true ∧ (dAway ann).canConfirm ann 5 = false ∧
    dLaunch.budgetsPass 0 0 = true ∧ (inCtx dLaunch (fun c => { c with bw := 1, bucketLevel := 0 })).budgetsPass 0 0 = false := by decide +kernel

/-- The budget of the context is spent: the announcement waits for the next tender. -/
theorem test_withdraw_budget : ends (exec .withdraw (inCtx (dAway ann) (fun c => { c with bw := 1, bucketLevel := 0 })))
    (fun t => annsOf t == [(.held, [], none, 1)] && t.anns.all Ann.again) = true := by decide +kernel

theorem meets_home : let s := dDir DirEntry.empty []
    s.readsAlone 3 32 ⟨.getS, 3, 32, [], [], none⟩ ∧ s.wayFor 3 32 ∧ s.noneWaits 3 32 ∧ s.coreOn 3 = true ∧
    (dReq (sharedEntry [3]) (writeReq .getM)).servable (writeReq .getM) ∧
    (dReq (sharedEntry [3]) { writeReq .renew with cells := [] }).dispatchable { writeReq .renew with cells := [] } = true ∧
    s.holdFull 32 = false ∧ s.inReadSet 3 32 = false ∧ s.pinned 3 32 = false ∧ s.renews 3 32 = false ∧ (dev pinner).renews 0 32 = true := by
  decide +kernel

/-- A directory entry that is lost asks the hosts. -/
theorem test_lost_entry_asks : ends (exec (.directoryEntryUncorrectable 32) { dDir (ownedEntry 3) [copyOf 3 .m] with
      coh := { (dDir (ownedEntry 3) [copyOf 3 .m]).coh with txns := [⟨.getM, 5, 32, 1, 0, [(0x1001, 0x77)], [], [], [], .e, none, 0⟩] } })
    (fun t => t.coh.reqs == [⟨.getM, 5, 32, [(0x1001, 0x77)], [], none⟩] && t.coh.txns.all (fun x => x.kind == .drop && x.cells == [])) =
    true := by decide +kernel

theorem meets_carve : dDie.sliceOn 0 3 = true ∧ tget 0 (dDie.die 0).lag 3 = 0 ∧ dDie.crowded 3 12 = [] := by decide +kernel

/-- A host port that is not present takes nothing (R6). -/
theorem test_absent_port : let s := { dRegs with svc := { dRegs.svc with presence := { Presence.full with hport := 1 } } }
    s.svc.presence.hport.getLsbD 1 = false ∧ s.svc.presence.hport.getLsbD 0 = true ∧
    ends (exec (.configWrite 0x1000C 2 false) s) (fun t => !(t.hostPort 1).busy) = true ∧
    ends (exec (.coherentWindowWrite 1 1 8 0x10003) s) (fun t => t.ports == s.ports) = true := by decide +kernel

/-- A write-back is acknowledged: the proxy gives the line up. -/
theorem test_writeback_done : ends (exec .pktAcknowledgement (dAsk 9 (pkt 1 0x12 7 0 0x1000 []))) (fun t => t.fab.txns == []) = true ∧
    (dAsk 0 (dataPkt 0x10 0xC00)).l2Full (lineOf (locPeer 1 0x1000)) = false := by decide +kernel

end Sys2Proof.Tests
end

section
/-! SUPPORT. Words and their instructions (R10, R17, R33): the opcode map and the encoder agree row by row. -/

namespace Sys2Proof

/-! ## Fields of a word -/

/-- A word is the word of its fields (R10). -/
theorem mkWord_fields (w : Word) : mkWord (opcodeOf w) (dOf w) (aOf w) (bOf w) = w := by
  apply BitVec.eq_of_toNat_eq
  have hw := w.isLt
  simp only [mkWord, opcodeOf, dOf, aOf, bOf, BitVec.toNat_append, BitVec.toNat_ofNat, BitVec.toNat_ushiftRight,
    BitVec.extractLsb'_toNat, Nat.shiftRight_eq_div_pow]
  rw [← Nat.shiftLeft_add_eq_or_of_lt (by omega), ← Nat.shiftLeft_add_eq_or_of_lt (by omega),
    ← Nat.shiftLeft_add_eq_or_of_lt (by omega)]
  simp only [Nat.shiftLeft_eq]
  omega

/-- A word is the format M word of its opcode and value (R10). -/
theorem mkModeWord_fields (w : Word) : mkModeWord (opcodeOf w) (valueOf w) = w := by
  apply BitVec.eq_of_toNat_eq
  have hw := w.isLt
  simp only [mkModeWord, opcodeOf, valueOf, BitVec.toNat_append, BitVec.toNat_ofNat, BitVec.toNat_ushiftRight,
    BitVec.extractLsb'_toNat, Nat.shiftRight_eq_div_pow]
  rw [← Nat.shiftLeft_add_eq_or_of_lt (by omega)]
  simp only [Nat.shiftLeft_eq]
  omega

/-! ## Rows of the map -/

/-- The encoder gives every instruction of a row the word that has the row's opcode, the instruction's fields and 124 in the others. -/
def Form.Encoded (op : Nat) : Form → Prop
  | .none i => encode i = some (mkWord op zCode zCode zCode) ∧ i.wf = true
  | .m f => ∀ v, encode (f v) = some (mkModeWord op v) ∧ (f v).wf = true
  | .d f => ∀ d, encode (f d) = some (mkWord op d zCode zCode) ∧ (f d).wf = true
  | .a f => ∀ a, encode (f a) = some (mkWord op zCode a zCode) ∧ (f a).wf = true
  | .b f => ∀ b, encode (f b) = some (mkWord op zCode zCode b) ∧ (f b).wf = true
  | .da f => ∀ d a, encode (f d a) = some (mkWord op d a zCode) ∧ (f d a).wf = true
  | .db f => ∀ d b, encode (f d b) = some (mkWord op d zCode b) ∧ (f d b).wf = true
  | .ab f => ∀ a b, encode (f a b) = some (mkWord op zCode a b) ∧ (f a b).wf = true
  | .dab f => ∀ d a b, encode (f d a b) = some (mkWord op d a b) ∧ (f d a b).wf = true

/-- Every row of the map is encoded so. -/
theorem opcodeMap_encoded : ∀ e ∈ opcodeMap, e.2.Encoded e.1 := by
  simp only [opcodeMap, List.forall_mem_append, and_assoc]
  and_intros
  all_goals
    simp only [rowsSystem, rowsArith, rowsCompare, rowsPacked, rowsLanes, rowsFlow, rowsMemory, rowsAtomic, rowsBind, rowsRegion,
      rowsEngine, rowsMatrix, rowsSync, rowsCluster, rowsCoherence, rowsHank, List.forall_mem_cons, List.not_mem_nil,
      false_implies, implies_true, and_true]
    simp only [Form.Encoded]
    and_intros
    all_goals
      intros
      and_intros <;> rfl

/-- The form of a listed opcode is encoded with that opcode. -/
theorem formOf_encoded {op : Nat} {f : Form} (h : formOf op = some f) : f.Encoded op := by
  obtain ⟨l, r, hl, -⟩ := List.lookup_eq_some_iff.1 h
  exact opcodeMap_encoded (op, f) (by simp [hl])

/-- What a listed opcode's form reads from a word is encoded as that word, unless the word has an unused field that is not 124. -/
theorem Form.Encoded.encode_read {f : Form} {w : Word} (h : f.Encoded (opcodeOf w)) (hu : f.read w ≠ .unusedFieldNotZ w) :
    encode (f.read w) = some w ∧ (f.read w).wf = true := by
  have hw := mkWord_fields w
  have hm := mkModeWord_fields w
  cases f <;> simp only [Form.read, Form.Encoded] at h hu ⊢
  case m f => simpa only [hm] using h (valueOf w)
  case dab f => simpa only [hw] using h (dOf w) (aOf w) (bOf w)
  all_goals
    split at hu
    case isFalse => exact absurd rfl hu
    case isTrue hz => simp_all

/-- The instruction of a word is encoded as that word, and is well-formed. -/
theorem encode_decodeWord (w : Word) : encode (decodeWord w) = some w ∧ (decodeWord w).wf = true := by
  by_cases hu : decodeWord w = .unusedFieldNotZ w
  · have hw : usesRight w = false := by simp [usesRight, hu]
    simp [hu, encode, Instr.wf, hw]
  · unfold decodeWord at hu ⊢
    split at hu
    next f hf => exact (formOf_encoded hf).encode_read hu
    next hf => simp [encode, Instr.wf, hf]

/-! ## Instructions with a word -/

/-- A word with a listed opcode decodes to what the opcode's form reads from it. -/
theorem decodeWord_of_form {w : Word} {op : Nat} {f : Form} (ho : opcodeOf w = op) (hf : formOf op = some f) :
    decodeWord w = f.read w := by
  simp [decodeWord, ho, hf]

/-- The word of a well-formed instruction decodes to it. -/
theorem decodeWord_encode {i : Instr} {w : Word} (hi : i.wf = true) (h : encode i = some w) : decodeWord w = i := by
  cases i <;> simp only [encode, reduceCtorEq, Option.some.injEq] at h
  case unlistedOpcode u =>
    have hu : formOf (opcodeOf u) = none := by simpa [Instr.wf] using hi
    simp [← h, decodeWord, hu]
  case unusedFieldNotZ u => simpa [← h, Instr.wf, usesRight] using hi
  case mode v | mguard v => 
    subst h
    exact (decodeWord_of_form (opcodeOf_mkModeWord _ (by decide) _) rfl).trans (by simp [Form.read])
  all_goals
    subst h
    exact (decodeWord_of_form (opcodeOf_mkWord _ (by decide) _ _ _) rfl).trans (by simp [Form.read])

/-- Settles O1: part one from the encoder's cases, part two from the rows of the map. -/
theorem decodeOfEncode : Obligations.DecodeOfEncode := by
  unfold Obligations.DecodeOfEncode
  refine ⟨fun i w hi h => ?_, encode_decodeWord⟩
  rw [decode_bytesOfWord, decodeWord_encode hi h]

/-- Settles O2: each word is put together from its fields. -/
theorem writtenWordsDecode : Obligations.WrittenWordsDecode := by
  unfold Obligations.WrittenWordsDecode
  refine ⟨rfl, rfl, rfl, rfl, rfl, rfl, rfl, rfl, rfl, rfl, rfl, rfl⟩

end Sys2Proof
end

section
/-! SUPPORT. One step: the instruction it executes (R22, R33, R184), and the flags it leaves set (R24). -/

namespace Sys2Proof.Machine

/-! ## Flags -/

/-- A bit of the number whose bits below `n` are those that a test names. -/
theorem testBit_foldl_range (p : Nat → Bool) (n f : Nat) :
    ((List.range n).foldl (fun a i => if p i then a + 2 ^ i else a) 0).testBit f = (decide (f < n) && p f) ∧
      (List.range n).foldl (fun a i => if p i then a + 2 ^ i else a) 0 < 2 ^ n := by
  induction n with
  | zero => simp
  | succ n ih =>
    obtain ⟨hb, hl⟩ := ih
    rw [List.range_succ, List.foldl_append]
    simp only [List.foldl_cons, List.foldl_nil]
    generalize (List.range n).foldl (fun a i => if p i then a + 2 ^ i else a) 0 = x at hb hl
    by_cases hp : p n = true
    · refine ⟨?_, by simp [hp, Nat.pow_succ]; omega⟩
      rw [if_pos hp, Nat.add_comm]
      rcases Nat.lt_trichotomy f n with h | h | h
      · rw [Nat.testBit_two_pow_add_gt h, hb]
        simp [h, Nat.lt_succ_of_lt h]
      · subst h
        rw [Nat.testBit_two_pow_add_eq, hb]
        simp [hp]
      · rw [Nat.testBit_lt_two_pow (lt_of_lt_of_le (by omega : 2 ^ n + x < 2 ^ (n + 1)) (Nat.pow_le_pow_right (by omega) h))]
        simp [show ¬ f < n + 1 by omega]
    · refine ⟨?_, by simp [hp, Nat.pow_succ]; omega⟩
      rw [if_neg hp, hb]
      by_cases h : f = n
      · simp [h, hp]
      · simp [show f < n + 1 ↔ f < n by omega]

/-- A flag that is left is one of the clause in progress, or has outstanding work. -/
theorem State.flagsLeft_bit (s : State) (u : Nat) (c : Option Clause) (f : BitVec 12) (i : Nat) (hi : i < 12) :
    (s.flagsLeft u c f).getLsbD i = (f.getLsbD i && (((c.map Clause.sets).getD 0).getLsbD i || s.flagBusy u i)) := by
  rw [State.flagsLeft, BitVec.getLsbD_ofNat, (testBit_foldl_range _ 12 i).1]
  simp [hi]

/-- Clearing flags leaves the outstanding work as it is. -/
@[simp] theorem State.clearFlags_flagBusy (s : State) (u f : Nat) : s.clearFlags.flagBusy u f = s.flagBusy u f := rfl

/-- After flags have cleared, every one that is set is tracked (R24). -/
theorem State.clearFlags_flagsTracked (s : State) : s.clearFlags.flagsTracked := by
  intro t ht f hf hb
  obtain ⟨t₀, -, rfl⟩ : ∃ t₀ ∈ s.teams, (if t₀.flags = 0 then t₀ else { t₀ with flags := s.flagsLeft t₀.uid t₀.clause t₀.flags }) = t :=
    List.mem_map.1 (by simpa [State.clearFlags, State.teams, State.mapTeams] using ht)
  split at hb
  next hz => simp [hz] at hb
  next hz =>
    rw [if_neg hz, State.clearFlags_flagBusy]
    rw [State.flagsLeft_bit s _ _ _ f hf, Bool.and_eq_true, Bool.or_eq_true] at hb
    exact hb.2

/-- Every step ends with flags cleared. -/
theorem step_clearFlags {s t : State} (h : step s = .next t) : ∃ u : State, t = u.clearFlags := by
  obtain ⟨-, -, v, -, -, rfl⟩ | ⟨v, -, rfl⟩ := step_cases h
  · exact ⟨_, rfl⟩
  · exact ⟨_, rfl⟩

/-- Settles O6: whatever a step does, it ends by clearing the flags that nothing is tracked under. -/
theorem stepKeepsFlagsTracked : Obligations.StepKeepsFlagsTracked := by
  unfold Obligations.StepKeepsFlagsTracked
  intro s t _ h
  obtain ⟨u, rfl⟩ := step_clearFlags h
  exact u.clearFlags_flagsTracked

/-! ## The instruction of a step -/

/-- A ready team in a clause takes the slot and executes its next word. -/
theorem teamNext_of_ready {s : State} {u : Nat} {t : Team} {c : Clause} {w : Word} (ht : s.team? u = some t)
    (hr : s.ready t = true) (hc : t.clause = some c) (hw : c.words[t.idx]? = some w) :
    s.teamNext u = (({ s.focusTeam u with issuer := .team }).beginIssue, some (decodeWord w)) := by
  simp [State.teamNext, ht, hr, hc, Team.word?, hw]

/-- Settles O4: the agenda's first move is the team's, and its next word is the instruction. -/
theorem stepRunsDecodedWord : Obligations.StepRunsDecodedWord := by
  unfold Obligations.StepRunsDecodedWord
  rintro s s' t c w rest ha rfl ht hr hc hw
  have hs : s.tick.select = ({ s.tick with agenda := rest }).teamNext t.uid := by
    simp [State.select, State.nextMove, ha, State.moveNext]
  rw [teamNext_of_ready ht hr hc hw] at hs
  simp only [step, hs]

end Sys2Proof.Machine
end

section
/-! SUPPORT. Memory: a write is read back, and nothing else changes (R9). -/

namespace Sys2Proof.Machine

/-- Cells that start where their location says stand where their location says. -/
theorem storePlace_cellsFrom {s : State} {loc n : Nat} {bs : List Byte} (hn : bs.length = n)
    (h : ∀ i, i < n → s.storePlace (loc + i) = loc + i) : ∀ c ∈ cellsFrom loc bs, s.storePlace c.1 = c.1 := by
  intro c hc
  obtain ⟨h1, h2⟩ := mem_cellsFrom bs loc c hc
  have := h (c.1 - loc) (by omega)
  rwa [Nat.add_sub_cancel' h1] at this

/-- Settles O9: the laws of memory, for bytes that stand where their location says. -/
theorem memoryWriteThenRead : Obligations.MemoryWriteThenRead := by
  unfold Obligations.MemoryWriteThenRead
  intro s loc n x
  refine ⟨writeMem_wf s _, fun h => ?_⟩
  have hp := storePlace_cellsFrom (leBytes_length n x) h
  refine ⟨cellNat_writeMem s loc n x hp, fun a ha => ?_⟩
  rw [State.byte, writeMem_mem s _ hp]
  exact cellAt_writeCells_outside _ _ _ _ (by simpa using ha)

end Sys2Proof.Machine
end

section
/-! SUPPORT. Which trap an instruction takes when conditions stop it (R36), and the traps of words that no row lists (R17, R33). -/

namespace Sys2Proof.Machine

/-! ## The lowest of several conditions (R36) -/

/-- The trap chosen is one of the conditions', and no condition has a lower code. -/
theorem lowestTrap_le {ts : List Trap} {x u : Trap} (h : lowestTrap ts = some x) (hu : u ∈ ts) : x.code ≤ u.code := by
  induction ts generalizing x with
  | nil => simp at hu
  | cons t ts ih =>
    simp only [lowestTrap] at h
    cases e : lowestTrap ts with
    | none =>
      rw [lowestTrap_eq_none] at e
      subst e
      simp_all [lowestTrap]
    | some y =>
      simp only [e] at h
      rcases List.mem_cons.1 hu with rfl | hu'
      · split at h <;> cases h <;> omega
      · have := ih e hu'
        split at h <;> cases h <;> omega

/-- A condition is chosen when every other one has a higher code. -/
theorem lowestTrap_eq_some {ts : List Trap} {x : Trap} (hx : x ∈ ts) (hl : ∀ u ∈ ts, u = x ∨ x.code < u.code) :
    lowestTrap ts = some x := by
  cases h : lowestTrap ts with
  | none => simp_all [lowestTrap_eq_none]
  | some y =>
    have h1 := lowestTrap_le h hx
    rcases hl y (lowestTrap_mem h) with rfl | h2
    · rfl
    · omega

/-- A condition is chosen when it comes first and no later one has a lower code. -/
theorem lowestTrap_cons {ts : List Trap} {x : Trap} (hl : ∀ u ∈ ts, x.code ≤ u.code) : lowestTrap (x :: ts) = some x := by
  cases h : lowestTrap ts with
  | none => simp [lowestTrap, h]
  | some y =>
    have := hl y (lowestTrap_mem h)
    simp [lowestTrap, h, Nat.not_lt.2 this]

/-! ## Conditions -/

/-- What a condition on the whole instruction is. -/
@[simp] theorem mem_whenCond {b : Bool} {t : Trap} {c : Cond} : c ∈ whenCond b t ↔ b = true ∧ c = (none, t) := by
  cases b <;> simp [whenCond]

/-- The conditions of operand codes. -/
@[simp] theorem mem_okCond {b : Bool} {c : Cond} : c ∈ okCond b ↔ b = false ∧ c = (none, tOPERAND) := by
  simp [okCond]

/-- A condition that does not hold. -/
@[simp] theorem whenCond_false (t : Trap) : whenCond false t = [] := rfl

/-- A condition that holds. -/
@[simp] theorem whenCond_true (t : Trap) : whenCond true t = [(none, t)] := rfl

/-- Legal operand codes are no condition. -/
@[simp] theorem okCond_true : okCond true = [] := rfl

/-- Illegal operand codes are one. -/
@[simp] theorem okCond_false : okCond false = [(none, tOPERAND)] := rfl

/-- The shared conditions in the last place of a clause that names its flags. -/
theorem Spec.conds_nil {sp : Spec} {s : State} (hl : sp.control = true → s.lastInClause = true)
    (ha : sp.cls = 1 → s.hasSeta = true) (hb : sp.cls = 2 → s.hasSetb = true) : sp.conds s.cur = [] := by
  simp only [State.lastInClause, State.hasSeta, State.hasSetb, decide_eq_true_eq] at hl ha hb
  have h1 : (sp.control && decide (s.cur.idx + 1 ≠ (s.cur.clause.map Clause.icnt).getD 1)) = false := by
    cases hc : sp.control <;> simp_all
  have h2 : ((sp.cls == 1 && s.cur.seta == 15) || (sp.cls == 2 && s.cur.setb == 15)) = false := by
    by_cases h1 : sp.cls = 1 <;> by_cases h2 : sp.cls = 2 <;> simp_all
  simp only [Spec.conds, h1, h2, whenCond_false, List.append_nil]

/-- The shared conditions where the place in the clause, or the flag, is missing (R22, R26): ILLEGAL. -/
theorem Spec.conds_illegal {sp : Spec} {s : State} (h : (sp.control = true ∧ s.lastInClause = false) ∨
    (sp.cls = 1 ∧ s.cur.seta = 15) ∨ (sp.cls = 2 ∧ s.cur.setb = 15)) :
    ∃ cs, sp.conds s.cur = (none, tILLEGAL) :: cs ∧ ∀ c ∈ cs, c.2 = tILLEGAL := by
  have hc : ∀ c ∈ sp.conds s.cur, c = (none, tILLEGAL) := by
    intro c hc
    simp only [Spec.conds, List.mem_append, mem_whenCond] at hc
    rcases hc with hc | hc <;> exact hc.2
  have hn : (none, tILLEGAL) ∈ sp.conds s.cur := by
    simp only [Spec.conds, List.mem_append, mem_whenCond, and_true, Bool.and_eq_true, Bool.or_eq_true, decide_eq_true_eq,
      beq_iff_eq, State.lastInClause, decide_eq_false_iff_not] at h ⊢
    exact h
  cases hs : sp.conds s.cur with
  | nil => simp [hs] at hn
  | cons c cs =>
    rw [hs] at hc
    exact ⟨cs, by rw [hc c (by simp)], fun d hd => by rw [hc d (by simp [hd])]⟩

/-! ## The trap of an instruction that conditions stop -/

/-- Conditions stop a plain team's instruction: it takes their lowest trap, if that is below HAZARD (R36). -/
theorem trapsHere_of_conds {i : Instr} {s : State} {x : Trap} {sp : Spec} {u : Uses} {conds : Team → State → List Cond}
    {run : State → Res} (hp : s.plain = true) (hh : s.hasHandler = true) (he : exec i s = issue sp u conds run s)
    (hx : lowestTrap ((sp.conds s.cur ++ conds s.cur s).map (fun c => c.2)) = some x) (hc : x.code < 16) : TrapsHere i s x := by
  obtain ⟨c, hm, rfl⟩ := List.mem_map.1 (lowestTrap_mem hx)
  refine ⟨_, he.trans (issue_conds hp ?_), raise_entered hh hx⟩
  rw [List.all_eq_false]
  exact ⟨c, hm, by simpa using hc⟩

/-- The same, the shared conditions being met. -/
theorem trapsHere_of_own_conds {i : Instr} {s : State} {x : Trap} {sp : Spec} {u : Uses} {conds : Team → State → List Cond}
    {run : State → Res} (hp : s.plain = true) (hh : s.hasHandler = true) (he : exec i s = issue sp u conds run s)
    (hs : sp.conds s.cur = []) (hx : ∃ c ∈ conds s.cur s, c.2 = x) (hl : ∀ c ∈ conds s.cur s, c.2 = x ∨ x.code < c.2.code)
    (hc : x.code < 16) : TrapsHere i s x := by
  refine trapsHere_of_conds hp hh he (lowestTrap_eq_some ?_ ?_) hc
  · simpa [hs] using hx
  · intro v hv
    obtain ⟨c, hm, rfl⟩ := List.mem_map.1 hv
    exact hl c (by simpa [hs] using hm)

/-- Conditions none of which has the code 0, which R36 gives to no trap. -/
def Numbered (cs : List Cond) : Prop := ∀ c ∈ cs, 1 ≤ c.2.code

/-- An instruction out of place, or without its flag, is ILLEGAL whatever else is wrong with it (R22, R26, R36). -/
theorem trapsHere_illegal {i : Instr} {s : State} {sp : Spec} {u : Uses} {conds : Team → State → List Cond} {run : State → Res}
    (hp : s.plain = true) (hh : s.hasHandler = true) (he : exec i s = issue sp u conds run s)
    (hi : (sp.control = true ∧ s.lastInClause = false) ∨ (sp.cls = 1 ∧ s.cur.seta = 15) ∨ (sp.cls = 2 ∧ s.cur.setb = 15))
    (hn : Numbered (conds s.cur s)) : TrapsHere i s ⟨1, 0, 0⟩ := by
  obtain ⟨cs, hs, hcs⟩ := Spec.conds_illegal hi
  refine trapsHere_of_conds hp hh he ?_ (by decide)
  rw [hs, List.cons_append, List.map_cons]
  refine lowestTrap_cons fun v hv => ?_
  obtain ⟨c, hc, rfl⟩ := List.mem_map.1 hv
  rcases List.mem_append.1 hc with hc | hc
  · rw [hcs c hc]
  · exact hn c hc

/-! ## Words that name no instruction -/

/-- Whether an opcode lies in one range or the other. -/
theorem opIn_pair (op a b c d : Nat) : opIn op [(a, b), (c, d)] = true ↔ (a ≤ op ∧ op ≤ b) ∨ (c ≤ op ∧ op ≤ d) := by
  simp [opIn]

/-- An opcode with an unused field is one that is ILLEGAL of itself only where R81, R119, R122, R200 or R276 say so; a team never
meets R200's cases. -/
theorem strayIllegal_false {s : State} {t : Team} {op : Nat} (ht : s.issuer = .team)
    (ho : op ∉ [0x008, 0x086, 0x089, 0x151, 0x152]) : s.strayIllegal t op = false := by
  simp only [List.mem_cons, List.not_mem_nil, or_false, not_or] at ho
  simp [State.strayIllegal, State.spindleEng, ht, ho]

/-- An unlisted opcode is ILLEGAL (R33). -/
theorem trapsHere_unlistedOpcode {s : State} {w : Word} (hp : s.plain = true) (hh : s.hasHandler = true) :
    TrapsHere (.unlistedOpcode w) s ⟨1, 0, 0⟩ :=
  trapsHere_of_own_conds hp hh rfl (Spec.conds_nil (by simp) (by simp) (by simp)) ⟨_, List.mem_singleton_self _, rfl⟩
    (by rintro c hc; rw [List.mem_singleton.1 hc]; exact .inl rfl) (by decide)

/-- An unused field that is not 124 is OPERAND where nothing lower holds (R17). -/
theorem trapsHere_unusedField {s : State} {w : Word} (hp : s.plain = true) (hh : s.hasHandler = true)
    (hl : (opcodeSpec (opcodeOf w)).control = true → s.lastInClause = true) (hb : s.hasSetb = true)
    (ho : opcodeOf w ∉ [0x008, 0x086, 0x089, 0x151, 0x152]) : TrapsHere (.unusedFieldNotZ w) s ⟨2, 0, 0⟩ := by
  have ht := ((State.plain_iff s).1 hp).1
  refine trapsHere_of_own_conds hp hh rfl (Spec.conds_nil hl (fun h => ?_) (fun _ => hb)) ⟨(none, tOPERAND), by simp, rfl⟩ ?_ (by decide)
  · simp only [opcodeSpec] at h
    split at h <;> simp at h
  · intro c hc
    rw [strayIllegal_false ht ho, whenCond_false, List.nil_append] at hc
    rw [List.mem_singleton.1 hc]
    exact .inl rfl

/-- A control transfer out of its place is ILLEGAL, an unused field or not (R22, R36). -/
theorem trapsHere_unusedField_illegal {s : State} {w : Word} (hp : s.plain = true) (hh : s.hasHandler = true)
    (hc : (opcodeSpec (opcodeOf w)).control = true) (hl : s.lastInClause = false) :
    TrapsHere (.unusedFieldNotZ w) s ⟨1, 0, 0⟩ := by
  refine trapsHere_illegal hp hh rfl (.inl ⟨hc, hl⟩) fun c hm => ?_
  simp only [List.mem_append, mem_whenCond, List.mem_singleton] at hm
  rcases hm with ⟨-, rfl⟩ | rfl <;> decide

/-- Settles O3: the map has no form for the word, and conditions stop what it stands for. -/
theorem unlistedWordsTrap : Obligations.UnlistedWordsTrap := by
  unfold Obligations.UnlistedWordsTrap
  intro s w hp hh
  have hcontrol : (opcodeSpec (opcodeOf w)).control = true ↔
      (0x006 ≤ opcodeOf w ∧ opcodeOf w ≤ 0x008) ∨ (0x080 ≤ opcodeOf w ∧ opcodeOf w ≤ 0x08A) := opIn_pair ..
  refine ⟨fun hf => by simp [decodeWord, hf], trapsHere_unlistedOpcode hp hh, fun hl hb ho => ?_, fun hc hl => ?_⟩
  · exact trapsHere_unusedField hp hh (fun h => hl (hcontrol.1 h)) hb ho
  · exact trapsHere_unusedField_illegal hp hh (hcontrol.2 hc) hl

end Sys2Proof.Machine
end


section
/-! SUPPORT. No condition of an instruction has code 0 (R36), and so what R22 and R26 demand of a clause comes first. -/

namespace Sys2Proof.Machine

/-! ## Conditions are numbered from 1 (R36) -/

/-- ILLEGAL's code. -/
@[simp] theorem tILLEGAL_code : tILLEGAL.code = 1 := rfl

/-- OPERAND's code. -/
@[simp] theorem tOPERAND_code : tOPERAND.code = 2 := rfl

/-- ALIGN's code. -/
@[simp] theorem tALIGN_code : tALIGN.code = 3 := rfl

/-- ACCESS's code. -/
@[simp] theorem tACCESS_code (sub : Nat) : (tACCESS sub).code = 5 := rfl

/-- BARCLOB's code. -/
@[simp] theorem tBARCLOB_code : tBARCLOB.code = 6 := rfl

/-- SPILLFULL's code. -/
@[simp] theorem tSPILLFULL_code : tSPILLFULL.code = 22 := rfl

/-- No condition. -/
@[simp] theorem numbered_nil : Numbered [] := by simp [Numbered]

/-- Conditions of two lists. -/
@[simp] theorem numbered_append {cs ds : List Cond} : Numbered (cs ++ ds) ↔ Numbered cs ∧ Numbered ds := by
  simp only [Numbered, List.forall_mem_append]

/-- One more condition. -/
@[simp] theorem numbered_cons {c : Cond} {cs : List Cond} : Numbered (c :: cs) ↔ 1 ≤ c.2.code ∧ Numbered cs := by
  simp only [Numbered, List.forall_mem_cons]

/-- Conditions of each item of a list. -/
@[simp] theorem numbered_flatMap {β : Type} {xs : List β} {f : β → List Cond} :
    Numbered (xs.flatMap f) ↔ ∀ x ∈ xs, Numbered (f x) := by
  simp only [Numbered, List.mem_flatMap, forall_exists_index, and_imp]
  exact ⟨fun h x hx c hc => h c x hx hc, fun h c x hx hc => h x hx c hc⟩

/-- The same conditions, tied to no lane. -/
@[simp] theorem numbered_untied {cs : List Cond} : Numbered (cs.map (fun c => (none, c.2))) ↔ Numbered cs := by
  simp only [Numbered, List.forall_mem_map]

/-- Conditions that hold under a test. -/
@[simp] theorem numbered_ite {p : Prop} [Decidable p] {cs ds : List Cond} :
    Numbered (if p then cs else ds) ↔ (p → Numbered cs) ∧ (¬ p → Numbered ds) := by
  split <;> simp_all

/-- A condition on the whole instruction. -/
@[simp] theorem numbered_whenCond {b : Bool} {t : Trap} : Numbered (whenCond b t) ↔ (b = true → 1 ≤ t.code) := by
  cases b <;> simp

/-- The condition of operand codes. -/
@[simp] theorem numbered_okCond (b : Bool) : Numbered (okCond b) := by simp [okCond]

/-- The condition of a target. -/
@[simp] theorem numbered_alignCond (pc : DWord) : Numbered (alignCond pc) := by simp [alignCond]

/-- An answer that refuses, if it does, with a trap of R36. -/
def Refuses {β : Type} (r : Except Trap β) : Prop := ∀ x, r = .error x → 1 ≤ x.code

/-- An answer that refuses nothing. -/
@[simp] theorem refuses_ok {β : Type} (p : β) : Refuses (.ok p : Except Trap β) := by simp [Refuses]

/-- A refusal with a trap of R36. -/
theorem refuses_error {β : Type} {x : Trap} (h : 1 ≤ x.code) : Refuses (.error x : Except Trap β) := by
  rintro y ⟨⟩
  exact h

/-- A refusal of a place (R131). -/
@[simp] theorem refuses_tACCESS {β : Type} (n : Nat) : Refuses (.error (tACCESS n) : Except Trap β) :=
  refuses_error (by simp)

/-- A refusal of an address (R133). -/
@[simp] theorem refuses_tALIGN {β : Type} : Refuses (.error tALIGN : Except Trap β) := refuses_error (by decide)

/-- One answer or the other. -/
theorem refuses_ite {β : Type} {p : Prop} [Decidable p] {r q : Except Trap β} (hr : Refuses r) (hq : Refuses q) :
    Refuses (if p then r else q) := by
  split <;> assumption

/-- A hank window's answer (R445). -/
@[simp] theorem refuses_hankPlace (s : State) (t : Team) (w : Wg) (off size : Nat) : Refuses (s.hankPlace t w off size) := by
  fun_cases State.hankPlace s t w off size <;> simp

/-- Stage 1 of an access (R140). -/
theorem refuses_stage1 (s : State) (t : Team) (lane : Nat) (va : DWord) (size : Nat) (need : Need) :
    Refuses (s.stage1 t lane va size need) := by
  fun_cases State.stage1 s t lane va size need <;> simp

/-- Stage-1 conditions of accesses. -/
@[simp] theorem numbered_stage1Conds (s : State) (t : Team) (need : Need) (xs : List (Nat × DWord × Nat)) :
    Numbered (s.stage1Conds t need xs) := by
  refine numbered_flatMap.2 fun x _ => ?_
  unfold State.stage1Cond
  split
  next h => simp [refuses_stage1 _ _ _ _ _ _ _ h]
  all_goals simp

/-- Conditions of a load. -/
@[simp] theorem numbered_loadConds (f : LoadForm) (ok : Bool) (d a b : Code) (t : Team) (s : State) :
    Numbered (loadConds f ok d a b t s) := by simp [loadConds]

/-- Conditions of cache maintenance. -/
@[simp] theorem numbered_cacheCond (s : State) (t : Team) (l : Nat) (va : DWord) : Numbered (s.cacheCond t l va) := by
  unfold State.cacheCond
  split
  next h => simp [refuses_stage1 _ _ _ _ _ _ _ h]
  next => simp

/-- Conditions of an atomic through a binding. -/
@[simp] theorem numbered_boundConds (op : AtOp) (bOk : Team → Bool) (d a : Code) (old : Option Code) (t : Team) (s : State) :
    Numbered (boundConds op bOk d a old t s) := by
  refine numbered_ite.2 ⟨fun _ => numbered_append.2 ⟨numbered_flatMap.2 fun l _ => ?_, ?_⟩, by simp⟩
  · split <;> simp
  · split <;> simp

/-- A barrier's place (R258, R259). -/
theorem refuses_barrierPlace (s : State) (t : Team) (va : DWord) (align : Nat) : Refuses (s.barrierPlace t va align) := by
  fun_cases State.barrierPlace s t va align
  case case2 h => exact refuses_error (refuses_stage1 _ _ _ _ _ _ _ h)
  all_goals simp

/-- Conditions of a barrier's address. -/
@[simp] theorem numbered_barrierConds (s : State) (t : Team) (a : Code) (align : Nat) : Numbered (s.barrierConds t a align) := by
  unfold State.barrierConds
  split
  · simp
  split
  next => simp
  next h => simp [refuses_barrierPlace _ _ _ _ _ h]

/-- Conditions of one address of a copy. -/
@[simp] theorem numbered_copyCond (s : State) (t : Team) (need : Need) (size l : Nat) (va : DWord) :
    Numbered (s.copyCond t need size l va) := by
  refine numbered_append.2 ⟨by simp, ?_⟩
  split
  next h => simp [refuses_stage1 _ _ _ _ _ _ _ h]
  next => simp

/-- Conditions of tiles. -/
@[simp] theorem numbered_tileConds (s : State) (t : Team) (mustHold : Bool) (tiles : List Nat) :
    Numbered (s.tileConds t mustHold tiles) := numbered_whenCond.2 (by simp)

/-- Conditions of a matrix instruction on the stream spindle. -/
@[simp] theorem numbered_streamConds (s : State) : Numbered s.streamConds := numbered_whenCond.2 (by simp)

/-- Conditions of an operand's alignment. -/
@[simp] theorem numbered_alignConds (o : Operand) : Numbered o.alignConds := numbered_whenCond.2 (by simp)

/-- Conditions of an operand outside every record. -/
@[simp] theorem numbered_strayConds (o : Operand) : Numbered o.strayConds := by simp [Operand.strayConds]

/-- Conditions of an operand. -/
@[simp] theorem numbered_operandConds (o : Operand) (k : Nat) : Numbered (o.conds k) := by simp [Operand.conds]

/-- Conditions of element indices. -/
@[simp] theorem numbered_elemConds (t : Team) (b : Code) (lanes : List Nat) : Numbered (elemConds t b lanes) := by simp [elemConds]

/-- Conditions of MMA. -/
@[simp] theorem numbered_mmaConds (d a b : Code) (t : Team) (s : State) : Numbered (mmaConds d a b t s) := by
  fun_cases mmaConds d a b t s <;> simp

/-- Conditions of MMAP. -/
@[simp] theorem numbered_mmapConds (d a b : Code) (t : Team) (s : State) : Numbered (mmapConds d a b t s) := by
  simp only [mmapConds, numbered_append, numbered_whenCond, numbered_ite]
  refine ⟨by simp, by simp, fun _ => ⟨by simp, fun _ => ⟨by simp, fun _ => ⟨by simp, fun _ => ⟨by simp, fun _ => ?_⟩⟩⟩⟩⟩
  split <;> simp

/-! ## Instructions out of place -/

section
variable {s : State} (hp : s.plain = true) (hh : s.hasHandler = true)
include hp hh

/-- A control-flow instruction that is not the last of its clause (R22). -/
theorem trapsHere_control (hl : s.lastInClause = false) (a b d : Code) :
    ∀ i ∈ [Instr.br b, .brc d b, .brany d b, .brall d b, .loop d b, .call b, .calli a, .ret, .exit, .trap b, .brk, .sret,
      .join, .mark b], TrapsHere i s ⟨1, 0, 0⟩ := by
  simp only [List.forall_mem_cons, List.not_mem_nil, false_implies, implies_true, and_true]
  and_intros
  all_goals
    refine trapsHere_illegal hp hh rfl (.inl ⟨rfl, hl⟩) ?_
    simp only [numbered_append, numbered_whenCond, numbered_ite, numbered_okCond, numbered_alignCond, numbered_nil, numbered_flatMap,
      tILLEGAL_code, tSPILLFULL_code, le_refl, implies_true, and_true, Nat.reduceLeDiff]

/-- A load-class instruction in a clause that names no flag for loads (R25, R26). -/
theorem trapsHere_noSeta (ha : s.cur.seta = 15) (a b d : Code) :
    ∀ i ∈ [Instr.ldb d a b, .ldh d a b, .ldw d a b, .ldd d a b, .ldq d a b, .ldwa d a b, .ldda d a b,
      .lds d a b, .ldsd d a b, .atadd d a b, .atand d a b, .ator d a b, .atxor d a b, .atmin d a b, .atmax d a b,
      .atxch d a b, .atcas d a b, .bld d a b, .bldn d a b, .bldd d a b, .badd d a b, .bcas d a b, .bxch d a b,
      .rldw d a b, .rldd d a b, .ldacc d a b, .arrive d a b], TrapsHere i s ⟨1, 0, 0⟩ := by
  simp only [List.forall_mem_cons, List.not_mem_nil, false_implies, implies_true, and_true]
  and_intros
  all_goals
    refine trapsHere_illegal hp hh rfl (.inr (.inl ⟨rfl, ha⟩)) ?_
    simp

/-- Other long-latency work in a clause that names no flag for it (R25, R26). -/
theorem trapsHere_noSetb (hb : s.cur.setb = 15) (a b d : Code) :
    ∀ i ∈ [Instr.stb d a b, .sth d a b, .stw d a b, .std d a b, .stq d a b, .stwl d a b, .stdl d a b,
      .rmadd a b, .rmand a b, .rmor a b, .rmxor a b, .rmmin a b, .rmmax a b, .cflush a b, .cclean a b,
      .cinv a b, .cpy4 a b, .cpy8 a b, .cpy16 a b, .cra4 a b, .cra8 a b, .cra16 a b, .mma d a b, .mmap d a b,
      .mzero d, .stacc d a b, .mtrq a b, .handoff a b, .take a b], TrapsHere i s ⟨1, 0, 0⟩ := by
  simp only [List.forall_mem_cons, List.not_mem_nil, false_implies, implies_true, and_true]
  and_intros
  all_goals
    refine trapsHere_illegal hp hh rfl (.inr (.inr ⟨rfl, hb⟩)) ?_
    simp
  intros
  split <;> simp

end

/-- Settles O13: ILLEGAL comes first among the conditions of each instruction. -/
theorem clauseRulesAreChecked : Obligations.ClauseRulesAreChecked := by
  unfold Obligations.ClauseRulesAreChecked
  intro s a b d hp hh
  exact ⟨fun hl => trapsHere_control hp hh hl a b d, fun ha => trapsHere_noSeta hp hh ha a b d,
    fun hb => trapsHere_noSetb hp hh hb a b d⟩

end Sys2Proof.Machine
end

section
/-! SUPPORT. The order of conditions (R36), and what stage 1 says of an access (R133, R140). -/

namespace Sys2Proof.Machine

/-! ## Stage 1 -/

/-- An address that is not a multiple of the access's size (R133). -/
theorem stage1_misaligned {s : State} {t : Team} {lane size : Nat} {va : DWord} {need : Need} (h : va.toNat % size ≠ 0) :
    s.stage1 t lane va size need = .error tALIGN := by
  rw [State.stage1, if_pos h]

/-- The windows from 6 on are reserved (R131, R450). -/
theorem stage1_reserved {s : State} {t : Team} {lane size : Nat} {va : DWord} {need : Need} (h : va.toNat % size = 0)
    (hv : 0xFFFFF60000000000 ≤ va.toNat) : s.stage1 t lane va size need = .error (tACCESS 1) := by
  have hb : apertureBase = 0xFFFFF00000000000 := rfl
  have hin : inAperture va = true := decide_eq_true (by omega)
  obtain ⟨k, hk⟩ := Nat.exists_eq_add_of_le' (show 6 ≤ (va.toNat - apertureBase) / 2 ^ 40 by omega)
  rw [State.stage1, if_neg (by simp [h]), hin, hk]
  cases s.wg? t.wg <;> rfl

/-- The stage-1 conditions of one access that stage 1 refuses. -/
theorem stage1Conds_error {s : State} {t : Team} {need : Need} {x : Nat × DWord × Nat} {u : Trap}
    (h : s.stage1 t x.1 x.2.1 x.2.2 need = .error u) : s.stage1Conds t need [x] = [(some x.1, u)] := by
  simp [State.stage1Conds, State.stage1Cond, h]

/-- No access, no condition. -/
theorem State.stage1Conds_nil (s : State) (t : Team) (need : Need) : s.stage1Conds t need [] = [] := rfl

/-- A team without bindings has no store of a bound destination. -/
theorem destStores_nil {s : State} (lanes : List Nat) (d : Code) (n : Nat) (h : s.cur.bindings = []) :
    s.destStores lanes d n = [] := by
  simp [State.destStores, h]

/-! ## What the loads and stores are -/

/-- The entry of a per-lane load of a form. -/
def Team.laneLoad (t : Team) (f : LoadForm) (dOk : Bool) (d a b : Code) : MemEntry :=
  ⟨d, f.size, dOk && baseOk t a && srcOk t false b, t.loadAccesses f.size d a b⟩

/-- The entry of a store of a form. -/
def Team.laneStore (t : Team) (f : StoreForm) (dOk : Bool) (d a b : Code) : MemEntry :=
  ⟨d, f.size, dOk && baseOk t a && srcOk t false b, storeAccesses (t.laneStores f d a b)⟩

/-- A store's entry as the statements write it. -/
theorem storeOf_eq_laneStore (t : Team) (size : Nat) (release dOk : Bool) (d a b : Code) :
    t.storeOf size dOk d a b = t.laneStore { size := size, release := release } dOk d a b := by
  simp only [Team.storeOf, Team.laneStore, storeAccesses, Team.laneStores, List.map_map]
  rfl

/-- What the loads' entries are: per-lane loads of a form, and the scalar loads. -/
theorem loadEntry_some {s : State} {i : Instr} {e : MemEntry} (h : s.cur.loadEntry i = some e) :
    (∃ f dOk d a b, exec i s = issueLoad f dOk d a b s ∧ f.acquire = isAcquire i ∧ f.tagged = false ∧
      e = s.cur.laneLoad f (dOk s.cur) d a b) ∨
    (∃ size d a b, exec i s = issueScalarLoad size d a b s ∧ isAcquire i = false ∧ e = s.cur.scalarLoadOf size d a b) := by
  cases i <;> cases h
  case ldb d a b => exact .inl ⟨{ size := 1, ext := s.cur.signExtends }, fun t => dstOk t false d, d, a, b, rfl, rfl, rfl, rfl⟩
  case ldh d a b => exact .inl ⟨{ size := 2, ext := s.cur.signExtends }, fun t => dstOk t false d, d, a, b, rfl, rfl, rfl, rfl⟩
  case ldw d a b => exact .inl ⟨{ size := 4 }, fun t => dstOk t false d, d, a, b, rfl, rfl, rfl, rfl⟩
  case ldd d a b => exact .inl ⟨{ size := 8 }, fun t => dstOk t true d, d, a, b, rfl, rfl, rfl, rfl⟩
  case ldq d a b => exact .inl ⟨{ size := 16 }, fun t => quadOk t false d, d, a, b, rfl, rfl, rfl, rfl⟩
  case ldwa d a b => exact .inl ⟨{ size := 4, acquire := true }, fun t => dstOk t false d, d, a, b, rfl, rfl, rfl, rfl⟩
  case ldda d a b => exact .inl ⟨{ size := 8, acquire := true }, fun t => dstOk t true d, d, a, b, rfl, rfl, rfl, rfl⟩
  case lds d a b => exact .inr ⟨4, d, a, b, rfl, rfl, rfl⟩
  case ldsd d a b => exact .inr ⟨8, d, a, b, rfl, rfl, rfl⟩

/-- What the stores' entries are. -/
theorem storeEntry_some {s : State} {i : Instr} {e : MemEntry} (h : s.cur.storeEntry i = some e) :
    ∃ f dOk d a b, exec i s = issueStore f dOk d a b s ∧ f.release = isRelease i ∧ e = s.cur.laneStore f (dOk s.cur) d a b := by
  cases i <;> cases h
  case stb d a b => exact ⟨{ size := 1 }, fun t => srcOk t false d, d, a, b, rfl, rfl, storeOf_eq_laneStore ..⟩
  case sth d a b => exact ⟨{ size := 2 }, fun t => srcOk t false d, d, a, b, rfl, rfl, storeOf_eq_laneStore ..⟩
  case stw d a b => exact ⟨{ size := 4 }, fun t => srcOk t false d, d, a, b, rfl, rfl, storeOf_eq_laneStore ..⟩
  case std d a b => exact ⟨{ size := 8 }, fun t => pairDataOk t d, d, a, b, rfl, rfl, storeOf_eq_laneStore ..⟩
  case stq d a b => exact ⟨{ size := 16 }, fun t => quadOk t true d, d, a, b, rfl, rfl, storeOf_eq_laneStore ..⟩
  case stwl d a b =>
    exact ⟨{ size := 4, release := true }, fun t => srcOk t false d, d, a, b, rfl, rfl, storeOf_eq_laneStore ..⟩
  case stdl d a b =>
    exact ⟨{ size := 8, release := true }, fun t => pairDataOk t d, d, a, b, rfl, rfl, storeOf_eq_laneStore ..⟩

/-! ## Conditions of high codes -/

/-- Conditions that stop a plain team's instruction whose body finds none: the lowest trap is taken, whatever its code (R36). -/
theorem issue_conds_bodyless {sp : Spec} {u : Uses} {conds : Team → State → List Cond} {run : State → Res} {s : State}
    (h : s.plain = true) (hn : sp.conds s.cur ++ conds s.cur s ≠ []) (hr : ∀ t cs m, run s ≠ .trap t cs m) :
    issue sp u conds run s = .next (s.raise (sp.conds s.cur ++ conds s.cur s) 0) := by
  by_cases hc : (sp.conds s.cur ++ conds s.cur s).all (fun c => decide (16 ≤ c.2.code)) = false
  · exact issue_conds h hc
  obtain ⟨h1, h2, h3, h4, h5, h6, h7, h8, h15, h9, h10, h11, h14, h12, h13⟩ := (State.plain_iff s).1 h
  have e1 : s.hazardConds sp u = [] := by simp only [State.hazardConds, h12, Bool.false_eq_true, if_false]
  have e2 : s.expiredConds sp u = [] := by simp only [State.expiredConds, h13, Bool.false_eq_true, if_false]
  have e3 : s.expiredLanes sp u = [] := by simp [State.expiredLanes, h10]
  have e4 : s.poisonLanes sp u = [] := by simp [State.poisonLanes, h11]
  have e6 : withTags sp u run s = run s := by simp [withTags, h6]
  simp only [issue, h1, h2, if_true, State.issueTeam, h4, h14, State.execute, e1, e2, e3, e4, e6, h6, List.append_nil,
    eq_true_of_ne_false hc, ne_eq, hn, not_false_eq_true, not_true_eq_false, decide_false, whenCond_false, Bool.false_eq_true, if_false]

/-! ## CALL -/

/-- The conditions of CALL in the last place of its clause (R77, R114, R120). -/
def callConds (b : Code) (t : Team) (_ : State) : List Cond :=
  okCond (skOk t true b) ++ alignCond (t.target b) ++ whenCond (!t.stackRoom 1) tSPILLFULL

/-- The body of CALL. -/
def callRun (b : Code) (s : State) : Res :=
  .jump (s.setCur { s.cur.goTo (s.cur.target b) with stack := s.cur.callEntry :: s.cur.stack, written := 0 })

/-- A clause's last place meets what R22 demands of CALL. -/
theorem controlSpec_conds {s : State} (hl : s.lastInClause = true) (n : Nat) : (controlSpec n).conds s.cur = [] :=
  Spec.conds_nil (fun _ => hl) (by simp [controlSpec]) (by simp [controlSpec])

section
variable {s : State} {b : Code} (hp : s.plain = true) (hh : s.hasHandler = true) (hl : s.lastInClause = true)
include hp hh hl

/-- CALL with an illegal operand code (R16). -/
theorem call_operand (hb : skOk s.cur true b = false) : TrapsHere (.call b) s ⟨2, 0, 0⟩ := by
  refine trapsHere_of_own_conds hp hh (conds := callConds b) (run := callRun b) rfl (controlSpec_conds hl _)
    ⟨(none, tOPERAND), by simp [callConds, hb], rfl⟩ ?_ (by decide)
  intro c hc
  simp only [callConds, alignCond, List.mem_append, mem_okCond, mem_whenCond] at hc
  rcases hc with (⟨-, rfl⟩ | ⟨-, rfl⟩) | ⟨-, rfl⟩
  · exact .inl rfl
  all_goals exact .inr (by decide)

/-- CALL to a target that is not a multiple of 4 (R114). -/
theorem call_align (hb : skOk s.cur true b = true) (ht : (s.cur.target b).toNat % 4 ≠ 0) : TrapsHere (.call b) s ⟨3, 0, 0⟩ := by
  refine trapsHere_of_own_conds hp hh (conds := callConds b) (run := callRun b) rfl (controlSpec_conds hl _)
    ⟨(none, tALIGN), by simp [callConds, alignCond, ht], rfl⟩ ?_ (by decide)
  intro c hc
  simp only [callConds, alignCond, hb, okCond_true, List.nil_append, List.mem_append, mem_whenCond] at hc
  rcases hc with ⟨-, rfl⟩ | ⟨-, rfl⟩
  · exact .inl rfl
  · exact .inr (by decide)

/-- CALL on a full stack (R120). -/
theorem call_full (hb : skOk s.cur true b = true) (ht : (s.cur.target b).toNat % 4 = 0) (hf : 4096 ≤ s.cur.stack.length) :
    TrapsHere (.call b) s ⟨22, 0, 0⟩ := by
  have hroom : s.cur.stackRoom 1 = false := decide_eq_false (by simp only [Config.stackDepth]; omega)
  have hc : (controlSpec 2).conds s.cur ++ callConds b s.cur s = [(none, tSPILLFULL)] := by
    simp [controlSpec_conds hl, callConds, alignCond, hb, ht, hroom]
  refine ⟨_, issue_conds_bodyless (sp := controlSpec 2) (conds := callConds b) (run := callRun b) hp (by simp [hc])
    (by simp [callRun]), raise_entered hh ?_⟩
  rw [hc]
  rfl

end

/-! ## One access that stage 1 refuses -/

/-- A load or store of one access takes the trap of stage 1 (R133, R140). -/
theorem trapsHere_access {s : State} {i : Instr} {e : MemEntry} {x : Nat × DWord × Nat} {u : Trap} (hp : s.plain = true)
    (hh : s.hasHandler = true) (ha : s.hasSeta = true) (hb : s.hasSetb = true) (hbind : s.cur.bindings = [])
    (he : s.cur.loadEntry i = some e ∨ s.cur.storeEntry i = some e) (hok : e.legal = true) (hx : e.accesses = [x])
    (hu : ∀ need, s.stage1 s.cur x.1 x.2.1 x.2.2 need = .error u) (hc : u.code < 16) : TrapsHere i s u := by
  have hone (need : Need) := stage1Conds_error (hu need)
  have close {i : Instr} {sp : Spec} {us : Uses} {conds : Team → State → List Cond} {run : State → Res} {c : Option Nat}
      (he : exec i s = issue sp us conds run s) (hcl : sp.control = false) (hcs : conds s.cur s = [(c, u)]) : TrapsHere i s u :=
    trapsHere_of_own_conds hp hh he (Spec.conds_nil (by simp [hcl]) (fun _ => ha) (fun _ => hb)) (by simp [hcs]) (by simp [hcs]) hc
  rcases he with he | he
  · rcases loadEntry_some he with ⟨f, dOk, d, a, b, hi, -, -, rfl⟩ | ⟨size, d, a, b, hi, -, rfl⟩
    · simp only [Team.laneLoad] at hok hx
      exact close hi rfl (c := some x.1) (by simp [loadConds, hok, hx, hone, destStores_nil, hbind, State.stage1Conds_nil])
    · simp only [Team.scalarLoadOf] at hok hx
      exact close hi rfl (by
        rw [if_pos hok]
        exact congrArg _ ((congrArg _ hx).trans (hone _)))
  · obtain ⟨f, dOk, d, a, b, hi, -, rfl⟩ := storeEntry_some he
    simp only [Team.laneStore] at hok hx
    exact close hi rfl (c := some x.1) (by simp [hok, hx, hone])

/-- The size of an entry's accesses is the entry's. -/
theorem entry_size {s : State} {i : Instr} {e : MemEntry} {x : Nat × DWord × Nat}
    (he : s.cur.loadEntry i = some e ∨ s.cur.storeEntry i = some e) (hx : x ∈ e.accesses) : x.2.2 = e.size := by
  rcases he with he | he
  · rcases loadEntry_some he with ⟨f, dOk, d, a, b, -, -, -, rfl⟩ | ⟨size, d, a, b, -, -, rfl⟩
    · obtain ⟨l, -, rfl⟩ := List.mem_map.1 hx
      rfl
    · rw [List.mem_singleton.1 hx]
      rfl
  · obtain ⟨f, dOk, d, a, b, -, -, rfl⟩ := storeEntry_some he
    obtain ⟨y, hy, rfl⟩ := List.mem_map.1 hx
    obtain ⟨l, -, rfl⟩ := List.mem_map.1 hy
    rfl

/-- Settles O12: R36's order for CALL, and stage 1 of one access. -/
theorem conditionsAreChecked : Obligations.ConditionsAreChecked := by
  unfold Obligations.ConditionsAreChecked
  refine ⟨fun s b hp hh => ⟨fun hl => trapsHere_control hp hh hl 0 b 0 _ (by simp), fun hl => call_operand hp hh hl,
    fun hl => call_align hp hh hl, fun hl => call_full hp hh hl⟩, fun s i e x hp hh ha hb hbind he hok hx => ?_⟩
  have hs : x.2.2 = e.size := entry_size he (by simp [hx])
  refine ⟨fun hm => ?_, fun hm hv => ?_⟩
  · exact trapsHere_access hp hh ha hb hbind he hok hx (fun _ => stage1_misaligned (by rwa [hs])) (by decide)
  · exact trapsHere_access hp hh ha hb hbind he hok hx (fun _ => stage1_reserved (by rwa [hs]) hv) (by decide)

end Sys2Proof.Machine
end

section
/-! SUPPORT. What is written to the registers of a team that has no bindings, and what the end of an instruction leaves alone. -/

namespace Sys2Proof.Machine

/-! ## The end of an instruction (R22) -/

namespace Team
variable (t : Team)

/-- The parts of a team that the end of an instruction moves on. -/
theorem advance_eq : ∃ pc idx clause yielding last, t.advance = { t with
    only := none, checked := false, service := none, resumed := false, focused := t.focused && t.hlevel, fresh := t.fresh + 1,
    park := .running, pc := pc, idx := idx, clause := clause, yielding := yielding, lastIssue := last } := by
  unfold advance
  dsimp only
  split
  · exact ⟨_, _, _, _, _, rfl⟩
  · split
    · exact ⟨_, _, _, _, _, rfl⟩
    · unfold yieldsAfter
      split <;> exact ⟨_, _, _, _, _, rfl⟩

/-- Where the next instruction stands, from the place of one that completes. -/
def following (pc : DWord) (idx : Nat) : Option Clause → DWord × Nat × Option Clause
  | none => (pc, idx, none)
  | some c => if idx + 1 < c.icnt then (pc, idx + 1, some c) else (pc + BitVec.ofNat 64 c.length, 0, none)

/-- The end of an instruction goes there. -/
theorem advance_following : (t.advance.pc, t.advance.idx, t.advance.clause) = following t.pc t.idx t.clause := by
  cases hc : t.clause with
  | none => simp [advance, following, hc]
  | some c =>
    simp only [advance, following, hc]
    split
    · rfl
    · simp only [yieldsAfter, nextPc]
      split <;> rfl

/-- Where a team stands after an instruction depends on where it stood. -/
theorem advance_place {t u : Team} (hp : u.pc = t.pc) (hi : u.idx = t.idx) (hc : u.clause = t.clause) :
    u.advance.pc = t.advance.pc ∧ u.advance.idx = t.advance.idx ∧ u.advance.clause = t.advance.clause := by
  have h := u.advance_following
  rw [hp, hi, hc, ← t.advance_following] at h
  simpa only [Prod.mk.injEq] using h

@[simp] theorem advance_v : t.advance.v = t.v := by obtain ⟨_, _, _, _, _, h⟩ := t.advance_eq; rw [h]
@[simp] theorem advance_s : t.advance.s = t.s := by obtain ⟨_, _, _, _, _, h⟩ := t.advance_eq; rw [h]
@[simp] theorem advance_p : t.advance.p = t.p := by obtain ⟨_, _, _, _, _, h⟩ := t.advance_eq; rw [h]
@[simp] theorem advance_size : t.advance.size = t.size := by obtain ⟨_, _, _, _, _, h⟩ := t.advance_eq; rw [h]
@[simp] theorem advance_mode : t.advance.mode = t.mode := by obtain ⟨_, _, _, _, _, h⟩ := t.advance_eq; rw [h]
@[simp] theorem advance_mask : t.advance.mask = t.mask := by obtain ⟨_, _, _, _, _, h⟩ := t.advance_eq; rw [h]
@[simp] theorem advance_stack : t.advance.stack = t.stack := by obtain ⟨_, _, _, _, _, h⟩ := t.advance_eq; rw [h]
@[simp] theorem advance_stepctl : t.advance.stepctl = t.stepctl := by obtain ⟨_, _, _, _, _, h⟩ := t.advance_eq; rw [h]
@[simp] theorem advance_flags : t.advance.flags = t.flags := by obtain ⟨_, _, _, _, _, h⟩ := t.advance_eq; rw [h]
@[simp] theorem advance_bindings : t.advance.bindings = t.bindings := by obtain ⟨_, _, _, _, _, h⟩ := t.advance_eq; rw [h]
@[simp] theorem advance_tstat : t.advance.tstat = t.tstat := by obtain ⟨_, _, _, _, _, h⟩ := t.advance_eq; rw [h]
@[simp] theorem advance_faultPc : t.advance.faultPc = t.faultPc := by obtain ⟨_, _, _, _, _, h⟩ := t.advance_eq; rw [h]
@[simp] theorem advance_faultInfo : t.advance.faultInfo = t.faultInfo := by obtain ⟨_, _, _, _, _, h⟩ := t.advance_eq; rw [h]
@[simp] theorem advance_faultMask : t.advance.faultMask = t.faultMask := by obtain ⟨_, _, _, _, _, h⟩ := t.advance_eq; rw [h]
@[simp] theorem advance_saveMode : t.advance.saveMode = t.saveMode := by obtain ⟨_, _, _, _, _, h⟩ := t.advance_eq; rw [h]
@[simp] theorem advance_saveMask : t.advance.saveMask = t.saveMask := by obtain ⟨_, _, _, _, _, h⟩ := t.advance_eq; rw [h]
@[simp] theorem advance_shortLived : t.advance.shortLived = t.shortLived := by obtain ⟨_, _, _, _, _, h⟩ := t.advance_eq; rw [h]
@[simp] theorem advance_now : t.advance.now = t.now := by obtain ⟨_, _, _, _, _, h⟩ := t.advance_eq; rw [h]

/-! ## Short-lived values that have not decayed (R190) -/

/-- Every short-lived value was written in this cycle. -/
def Undecayed : Prop := ∀ e ∈ t.shortLived, e.2 = t.now

variable {t}

/-- A team without short-lived values. -/
theorem undecayed_of_nil (h : t.shortLived = []) : t.Undecayed := by simp [Undecayed, h]

/-- The end of an instruction is no time. -/
theorem Undecayed.advance (h : t.Undecayed) : t.advance.Undecayed := by simpa [Undecayed] using h

/-- A register then reads as what stands in it. -/
theorem Undecayed.vget (h : t.Undecayed) (l r : Nat) : t.vget l r = tget 0 t.v (vkey l r) := by
  have hd : t.decay (vkey l r) = 0 := by
    unfold decay
    split
    next => rfl
    next at_ he =>
      obtain ⟨xs, ys, hl, -⟩ := List.lookup_eq_some_iff.1 he
      have : at_ = t.now := h (vkey l r, at_) (by simp [hl])
      simp [this]
  simp [Team.vget, expired, hd]

end Team

/-- Registers of different lanes, or of different numbers, have different keys. -/
theorem vkey_inj {l m r q : Nat} (hr : r < 96) (hq : q < 96) : vkey l r = vkey m q ↔ l = m ∧ r = q := by
  simp only [vkey]
  omega

namespace Team

/-! ## Registers written (R13, R86) -/

/-- A team differs from another in its registers only, the marks of their values included. -/
def RegsOnly (t u : Team) : Prop := ∃ v s written short poison,
  u = { t with v := v, s := s, written := written, shortLived := short, poison := poison }

/-- No difference. -/
theorem RegsOnly.refl (t : Team) : t.RegsOnly t := ⟨_, _, _, _, _, rfl⟩

/-- One after the other. -/
theorem RegsOnly.trans {t u w : Team} (h : t.RegsOnly u) (k : u.RegsOnly w) : t.RegsOnly w := by
  obtain ⟨_, _, _, _, _, rfl⟩ := h
  obtain ⟨_, _, _, _, _, rfl⟩ := k
  exact ⟨_, _, _, _, _, rfl⟩

section
variable {t : Team} {short : Bool} {l d : Nat}

/-- A vector register written. -/
theorem regsOnly_vset (x : Word) : t.RegsOnly (t.vset short l d x) := ⟨_, _, _, _, _, rfl⟩

/-- A scalar written. -/
theorem regsOnly_sset (n : Nat) (x : Word) : t.RegsOnly (t.sset n x) := ⟨_, _, _, _, _, rfl⟩

/-- Vector registers written. -/
theorem regsOnly_vrun (ws : List Word) : t.RegsOnly (t.vrun short l d ws) := by
  induction ws generalizing t d with
  | nil => exact .refl t
  | cons x ws ih => exact (regsOnly_vset x).trans ih

/-- Scalars written. -/
theorem regsOnly_srun (n : Nat) (ws : List Word) : t.RegsOnly (t.srun n ws) := by
  induction ws generalizing t n with
  | nil => exact .refl t
  | cons x ws ih => exact (regsOnly_sset n x).trans (ih _)

/-- A vector register written in this cycle. -/
theorem Undecayed.vset (h : t.Undecayed) (x : Word) : (t.vset short l d x).Undecayed := by
  intro e he
  simp only [Team.vset, markWrite, aput, adel] at he
  split at he
  · rcases mem_tput _ _ _ _ he with rfl | he
    · rfl
    · exact h e he
  · exact h e ((tdel_sublist _ _).subset he)

/-- Vector registers written in this cycle. -/
theorem Undecayed.vrun (h : t.Undecayed) (ws : List Word) : (t.vrun short l d ws).Undecayed := by
  induction ws generalizing t d with
  | nil => exact h
  | cons x ws ih => exact ih (h.vset x)

/-- What stands in a register after registers of a lane were written. -/
theorem tget_vrun (ws : List Word) {m r : Nat} (hd : d + ws.length ≤ 96) (hr : r < 96) :
    tget 0 (t.vrun short l d ws).v (vkey m r) =
      if m = l ∧ d ≤ r ∧ r < d + ws.length then ws.getD (r - d) 0 else tget 0 t.v (vkey m r) := by
  induction ws generalizing t d with
  | nil => simp [Team.vrun]
  | cons x ws ih =>
    simp only [List.length_cons] at hd ⊢
    rw [Team.vrun, ih (by omega)]
    by_cases hk : m = l ∧ r = d
    · obtain ⟨rfl, rfl⟩ := hk
      simp [Team.vset]
    · have hne : vkey m r ≠ vkey l d := fun h => hk ((vkey_inj hr (by omega)).1 h)
      have : tget 0 (t.vset short l d x).v (vkey m r) = tget 0 t.v (vkey m r) := tget_tset_of_ne _ _ _ hne
      rw [this]
      by_cases hm : m = l ∧ d ≤ r ∧ r < d + (ws.length + 1)
      · obtain ⟨rfl, h1, h2⟩ := hm
        have : r - d = (r - (d + 1)) + 1 := by omega
        rw [if_pos ⟨rfl, by omega, by omega⟩, if_pos ⟨rfl, h1, h2⟩, this, List.getD_cons_succ]
      · rw [if_neg (by omega), if_neg hm]

/-- A scalar after scalars from a number on were written. -/
theorem sget_srun (n : Nat) (ws : List Word) (k : Nat) :
    (t.srun n ws).sget k = if n ≤ k ∧ k < n + ws.length then ws.getD (k - n) 0 else t.sget k := by
  induction ws generalizing t n with
  | nil => simp [srun]
  | cons x ws ih =>
    simp only [List.length_cons]
    rw [srun, ih]
    by_cases hk : k = n
    · subst hk
      simp
    · rw [sget_sset_of_ne _ _ hk]
      by_cases hm : n ≤ k ∧ k < n + (ws.length + 1)
      · have : k - n = (k - (n + 1)) + 1 := by omega
        rw [if_pos ⟨by omega, by omega⟩, if_pos hm, this, List.getD_cons_succ]
      · rw [if_neg (by omega), if_neg hm]

end

/-! ## Results of lanes -/

/-- The results of lanes written to vector registers from a register on. -/
def putLanes (t : Team) (d : Nat) (ws : List LaneWords) : Team := ws.foldl (fun t w => t.vrun t.sl w.1 d w.2) t

section
variable {t : Team} {d : Nat}

/-- Only registers change. -/
theorem regsOnly_putLanes (ws : List LaneWords) : t.RegsOnly (t.putLanes d ws) := by
  induction ws generalizing t with
  | nil => exact .refl t
  | cons w ws ih => exact (regsOnly_vrun w.2).trans ih

/-- Nothing decays. -/
theorem Undecayed.putLanes (h : t.Undecayed) (ws : List LaneWords) : (t.putLanes d ws).Undecayed := by
  induction ws generalizing t with
  | nil => exact h
  | cons w ws ih => exact ih (h.vrun w.2)

/-- No register but those of the lanes with results changes. -/
theorem tget_putLanes_of_not_mem (ws : List LaneWords) {n m r : Nat} (hn : ∀ w ∈ ws, w.2.length = n) (hd : d + n ≤ 96)
    (hr : r < 96) (hm : ¬ ((∃ w ∈ ws, w.1 = m) ∧ d ≤ r ∧ r < d + n)) :
    tget 0 (t.putLanes d ws).v (vkey m r) = tget 0 t.v (vkey m r) := by
  induction ws generalizing t with
  | nil => rfl
  | cons w ws ih =>
    have hw := hn w (by simp)
    refine (ih (t := t.vrun t.sl w.1 d w.2) (fun x hx => hn x (by simp [hx])) fun h => hm ⟨?_, h.2⟩).trans ?_
    · obtain ⟨x, hx, he⟩ := h.1
      exact ⟨x, by simp [hx], he⟩
    · rw [tget_vrun w.2 (by omega) hr, if_neg]
      rintro ⟨rfl, h1, h2⟩
      exact hm ⟨⟨w, by simp, rfl⟩, h1, by omega⟩

/-- Each lane's registers take its results. -/
theorem tget_putLanes_of_mem {ws : List LaneWords} {w : LaneWords} {n r : Nat} (hn : ∀ w ∈ ws, w.2.length = n) (hd : d + n ≤ 96)
    (hu : (ws.map (fun w => w.1)).Nodup) (hw : w ∈ ws) (h1 : d ≤ r) (h2 : r < d + n) :
    tget 0 (t.putLanes d ws).v (vkey w.1 r) = w.2.getD (r - d) 0 := by
  induction ws generalizing t with
  | nil => simp at hw
  | cons x ws ih =>
    simp only [List.map_cons, List.nodup_cons, List.mem_map, not_exists, not_and] at hu
    have hn' : ∀ w ∈ ws, w.2.length = n := fun y hy => hn y (by simp [hy])
    rcases List.mem_cons.1 hw with rfl | hw
    · refine (tget_putLanes_of_not_mem (t := t.vrun t.sl w.1 d w.2) ws hn' hd (by omega) ?_).trans ?_
      · rintro ⟨⟨y, hy, he⟩, -⟩
        exact hu.1 y hy he
      · rw [tget_vrun w.2 (by have := hn w (by simp); omega) (by omega), if_pos]
        have := hn w (by simp)
        exact ⟨rfl, h1, by omega⟩
    · exact ih (t := t.vrun t.sl x.1 d x.2) hn' hu.2 hw

end

/-- Vector registers written leave the scalars. -/
theorem vrun_s (t : Team) (short : Bool) (l d : Nat) (ws : List Word) : (t.vrun short l d ws).s = t.s := by
  induction ws generalizing t d with
  | nil => rfl
  | cons x ws ih => exact ih _ _

/-- Results of lanes leave the scalars. -/
@[simp] theorem putLanes_s (t : Team) (d : Nat) (ws : List LaneWords) : (t.putLanes d ws).s = t.s := by
  induction ws generalizing t with
  | nil => rfl
  | cons w ws ih => exact (ih _).trans (vrun_s ..)

/-- Scalars written leave the vector registers and their marks. -/
theorem srun_v (t : Team) (n : Nat) (ws : List Word) : (t.srun n ws).v = t.v ∧ (t.srun n ws).shortLived = t.shortLived := by
  induction ws generalizing t n with
  | nil => exact ⟨rfl, rfl⟩
  | cons x ws ih => exact ih _ _

/-- What a team with other registers has in common with it. -/
theorem RegsOnly.kept {t u : Team} (h : t.RegsOnly u) : u.p = t.p ∧ u.mode = t.mode ∧ u.mask = t.mask ∧ u.stack = t.stack ∧
    u.stepctl = t.stepctl ∧ u.flags = t.flags ∧ u.bindings = t.bindings ∧ u.tstat = t.tstat := by
  obtain ⟨_, _, _, _, _, rfl⟩ := h
  exact ⟨rfl, rfl, rfl, rfl, rfl, rfl, rfl, rfl⟩

/-- The fault registers and the save slot. -/
theorem RegsOnly.fault {t u : Team} (h : t.RegsOnly u) : u.faultPc = t.faultPc ∧ u.faultInfo = t.faultInfo ∧
    u.faultMask = t.faultMask ∧ u.saveMode = t.saveMode ∧ u.saveMask = t.saveMask := by
  obtain ⟨_, _, _, _, _, rfl⟩ := h
  exact ⟨rfl, rfl, rfl, rfl, rfl⟩

/-- It stands at the same place. -/
theorem RegsOnly.place {t u : Team} (h : t.RegsOnly u) : u.pc = t.pc ∧ u.idx = t.idx ∧ u.clause = t.clause := by
  obtain ⟨_, _, _, _, _, rfl⟩ := h
  exact ⟨rfl, rfl, rfl⟩

/-- The contributing lanes, one by one. -/
theorem mem_contribLanes (t : Team) (l : Nat) : l ∈ t.contribLanes ↔ l < t.size ∧ t.contrib.getLsbD l = true := by
  simp [contribLanes, lanesOf]

/-- No lane contributes twice. -/
theorem contribLanes_nodup (t : Team) : t.contribLanes.Nodup := List.nodup_range.filter _

/-- A run of vector registers is a vector code of registers that exist. -/
theorem le_of_vRun {t : Team} {n : Nat} {d : Code} (hn : n = 1 ∨ n = 2) (h : vRun t n n d = true) :
    isV d = true ∧ d.toNat + n ≤ 96 ∧ d.toNat % n = 0 := by
  simp only [vRun, isV, Bool.and_eq_true, decide_eq_true_eq] at h ⊢
  rcases hn with rfl | rfl <;> omega

/-- Outside regions no register has a tag. -/
theorem dropTags_of_not_inRegion {t : Team} (h : t.inRegion = false) (l : Nat) (rs : List Nat) : t.dropTags l rs = t := by
  unfold dropTags
  split
  next => rfl
  next r he =>
    obtain ⟨xs, ys, hl, -⟩ := List.lookup_eq_some_iff.1 he
    have : r.open_ = false := by
      simp only [inRegion, List.any_eq_false, Bool.not_eq_true] at h
      exact h (l, r) (by simp [hl])
    simp [this]

/-- Only registers differ, so regions do not. -/
theorem RegsOnly.inRegion {t u : Team} (h : t.RegsOnly u) : u.inRegion = t.inRegion := by
  obtain ⟨_, _, _, _, _, rfl⟩ := h
  rfl

end Team

/-- The results of lanes written to vector registers of a team without bindings, outside regions. -/
theorem writeLanes_unbound {s : State} {pair : Bool} {d : Nat} {ws : List LaneWords} {also : Team → List Nat → Team}
    (hb : s.cur.bindings = []) (hr : (also s.cur (ws.map (fun w => w.1))).inRegion = false) :
    s.writeLanes pair d ws also = .done (s.setCur ((also s.cur (ws.map (fun w => w.1))).putLanes d ws)) := by
  have hd : s.cur.destStoresOf pair d ws = [] := by simp [Team.destStoresOf, hb]
  have hput : ∀ (t : Team), t.inRegion = false → ws.foldl (fun t w =>
      (t.vrun t.sl w.1 d w.2).dropTags w.1 ((List.range w.2.length).map (fun i => d + i))) t = t.putLanes d ws := by
    intro t ht
    clear hr hd
    induction ws generalizing t with
    | nil => rfl
    | cons w ws ih =>
      have ht' : (t.vrun t.sl w.1 d w.2).inRegion = false := (Team.regsOnly_vrun w.2).inRegion.trans ht
      rw [List.foldl_cons, Team.dropTags_of_not_inRegion ht', ih _ ht']
      rfl
  simp only [State.writeLanes, hd, if_true]
  rw [hput _ hr]

end Sys2Proof.Machine
end

section
/-! SUPPORT. MODE and the control registers (R29, R35, R90–R93). -/

namespace Sys2Proof.Machine

/-! ## MODE (R29) -/

/-- What R29 refuses of a MODE value. -/
theorem modeOk_eq_false_iff (v : ModeVal) : modeOk v = false ↔ 12 ≤ (v.extractLsb' 17 4).toNat ∨ 6 ≤ (v.extractLsb' 14 3).toNat ∨
    6 ≤ (v.extractLsb' 4 3).toNat ∨ v.extractLsb' 0 4 ≠ 0 := by
  simp only [modeOk, Bool.and_eq_false_iff, decide_eq_false_iff_not, ne_eq, or_assoc, Nat.not_le, Nat.lt_iff_add_one_le, Nat.reduceAdd]

/-- The guard fields replaced, the others kept. -/
theorem withGuard_eq (m v : ModeVal) : withGuard m v = m.extractLsb' 12 9 ++ v.extractLsb' 0 5 ++ m.extractLsb' 0 7 := by
  apply BitVec.eq_of_getLsbD_eq
  intro i hi
  simp only [withGuard, BitVec.getLsbD_or, BitVec.getLsbD_and, BitVec.getLsbD_not, BitVec.getLsbD_shiftLeft,
    BitVec.getLsbD_append, BitVec.getLsbD_extractLsb']
  interval_cases i <;> simp

/-- An instruction without operands that completes. -/
theorem issue_done {u : Uses} {conds : Team → State → List Cond} {run : State → Res} {s r : State} {sp : Spec}
    (hp : s.plain = true) (hs : sp.conds s.cur = []) (hc : conds s.cur s = []) (hr : run s = .done r) :
    issue sp u conds run s = .next (r.setCur r.cur.advance) := by
  have hst : s.cur.stepping = false := by
    obtain ⟨-, -, -, -, -, -, h, -⟩ := (State.plain_iff s).1 hp
    exact h
  rw [issue_plain hp hs hc, hr, conclude_done hst]

/-- The same where the team alone has changed. -/
theorem issue_done_cur {uses : Uses} {conds : Team → State → List Cond} {run : State → Res} {s : State} {u : Team} {sp : Spec}
    (hp : s.plain = true) (hs : sp.conds s.cur = []) (hc : conds s.cur s = []) (hr : run s = .done (s.setCur u)) :
    issue sp uses conds run s = .next (s.setCur u.advance) :=
  issue_done hp hs hc hr

/-- A plain instruction with no shared conditions. -/
theorem Spec.conds_free {sp : Spec} {t : Team} (hc : sp.control = false) (h : sp.cls = 0) : sp.conds t = [] := by
  simp [Spec.conds, hc, h]

/-- One condition that holds. -/
theorem trapsHere_whenCond {i : Instr} {s : State} {x : Trap} {sp : Spec} {u : Uses} {b : Bool} {conds : Team → State → List Cond}
    {run : State → Res} (hp : s.plain = true) (hh : s.hasHandler = true) (he : exec i s = issue sp u conds run s)
    (hs : sp.conds s.cur = []) (hc : conds s.cur s = whenCond b x) (hb : b = true) (hx : x.code < 16) : TrapsHere i s x :=
  trapsHere_of_own_conds hp hh he hs (by simp [hc, hb]) (by simp [hc]) hx

/-- MODE with a value that R29 allows. -/
theorem exec_mode {s : State} {v : ModeVal} (hp : s.plain = true) (hv : modeOk v = true) :
    exec (.mode v) s = .next (s.setCur { s.cur with mode := v }.advance) :=
  issue_done_cur hp rfl (conds := fun _ _ => whenCond (!modeOk v) tILLEGAL) (by simp [hv]) rfl

/-- MGUARD with a value that R29 allows. -/
theorem exec_mguard {s : State} {v : ModeVal} (hp : s.plain = true) (hv : v.extractLsb' 5 16 = 0) :
    exec (.mguard v) s = .next (s.setCur { s.cur with mode := withGuard s.cur.mode v }.advance) :=
  issue_done_cur hp rfl (conds := fun _ _ => whenCond (decide (v.extractLsb' 5 16 ≠ 0)) tILLEGAL) (by simp [hv]) rfl

/-! ## The conditions of SETC -/

/-- Its index, operand and value (R93). -/
def setcConds (a b : Code) (t : Team) (s : State) : List Cond :=
  ctrlConds t s a ++ okCond (srcOk t (ctrlWide (t.ctrlIndex a)) b && ctrlWritable (t.ctrlIndex a)) ++
    whenCond (srcOk t (ctrlWide (t.ctrlIndex a)) b && ctrlWritable (t.ctrlIndex a) && t.leader.isSome &&
      !s.ctrlCheck t (t.ctrlIndex a) (t.opndN (ctrlWide (t.ctrlIndex a)) (t.leader.getD 0) b)) tOPERAND

/-- Its body. -/
def setcRun (a b : Code) (s : State) : Res :=
  match s.cur.leader with
  | none => .done s
  | some l => .done (s.ctrlWrite (s.cur.ctrlIndex a) (s.cur.opndN (ctrlWide (s.cur.ctrlIndex a)) l b))

/-- SETC is the issue of these. -/
theorem exec_setc_eq (a b : Code) (s : State) : exec (.setc a b) s = issue { whole := true, lanes := .leader }
    { reads := [(a, 1), (b, regs (ctrlWide (s.cur.ctrlIndex a)))], writes := [] } (setcConds a b) (setcRun a b) s := rfl

/-- SETC of a register that the team may write, with a value that its check allows. -/
theorem exec_setc {s : State} {a b : Code} {l i x : Nat} (hp : s.plain = true) (ha : kRun s.cur 1 1 a = true)
    (hi : s.cur.ctrlIndex a = i) (hl : s.cur.leader = some l) (hb : srcOk s.cur (ctrlWide i) b = true)
    (hw : ctrlKnown i = true ∧ ctrlWritable i = true) (hpr : 0x40 ≤ i → s.curCtx.priv = true)
    (hx : s.cur.opndN (ctrlWide i) l b = x) (hc : s.ctrlCheck s.cur i x = true) :
    exec (.setc a b) s = .next ((s.ctrlWrite i x).setCur (s.ctrlWrite i x).cur.advance) := by
  subst hi hx
  rw [exec_setc_eq]
  refine issue_done hp rfl ?_ ?_
  · have h40 : (decide (0x40 ≤ s.cur.ctrlIndex a) && !s.curCtx.priv) = false := by
      by_cases h : 0x40 ≤ s.cur.ctrlIndex a
      · simp [hpr h]
      · simp [Nat.lt_of_not_le h]
    simp [setcConds, ctrlConds, ha, hw, hl, hb, hc, h40]
  · simp [setcRun, hl]

/-- SETC of MODE with a value that R29 refuses. -/
theorem setc_mode_refused {s : State} {a b : Code} {l : Nat} (hp : s.plain = true) (hh : s.hasHandler = true)
    (ha : kRun s.cur 1 1 a = true) (hi : s.cur.ctrlIndex a = 1) (hl : s.cur.leader = some l) (hb : srcOk s.cur false b = true)
    (hc : s.ctrlCheck s.cur 1 (s.cur.opnd32 l b).toNat = false) : TrapsHere (.setc a b) s ⟨2, 0, 0⟩ := by
  refine trapsHere_whenCond hp hh (exec_setc_eq a b s) rfl (b := true) ?_ rfl (by decide)
  simp [setcConds, ctrlConds, hi, ha, hl, hb, ctrlKnown, ctrlWide, ctrlWritable, Team.opndN, hc]
  rfl

/-- The check of a value for MODE (R29). -/
theorem ctrlCheck_mode {s : State} {t : Team} {x : Word} {v : ModeVal} (hv : x.extractLsb' 0 21 = v) :
    s.ctrlCheck t 1 x.toNat = (decide (x.extractLsb' 21 11 = 0) && modeOk v) := by
  have hx : BitVec.ofNat 21 x.toNat = v := by rw [← hv]; rfl
  have hz : x.toNat < 2 ^ 21 ↔ x.extractLsb' 21 11 = 0 := by
    rw [← BitVec.toNat_inj]
    simp only [BitVec.extractLsb'_toNat, Nat.shiftRight_eq_div_pow]
    have := x.isLt
    simp
    omega
  simp only [State.ctrlCheck, hx, hz]

/-- Settles O15: each of the three checks R29's conditions and writes MODE. -/
theorem modeWritesAreChecked : Obligations.ModeWritesAreChecked := by
  unfold Obligations.ModeWritesAreChecked
  intro s v hp bad
  have hbad : bad ↔ modeOk v = false := (modeOk_eq_false_iff v).symm
  refine ⟨fun h => ?_, fun h hh => ?_, fun h => ?_, fun h hh => ?_, fun a b l x ha hi hb hl hx hv => ⟨fun h => ?_, fun h hh => ?_⟩⟩
  · exact exec_mode hp (by simpa [hbad] using h)
  · exact trapsHere_whenCond hp hh rfl rfl (b := !modeOk v) rfl (by simp [hbad.1 h]) (by decide)
  · rw [exec_mguard hp h, withGuard_eq]
  · exact trapsHere_whenCond hp hh rfl rfl (b := decide (v.extractLsb' 5 16 ≠ 0)) rfl (decide_eq_true h) (by decide)
  all_goals have hi' : s.cur.ctrlIndex a = 1 := by simp [Team.ctrlIndex, hi]
  all_goals have hc : s.ctrlCheck s.cur 1 x.toNat = (decide (x.extractLsb' 21 11 = 0) && modeOk v) := ctrlCheck_mode hv
  · have hm : modeOk v = true := by simpa [hbad] using h.1
    rw [exec_setc hp ha hi' hl hb (by decide) (by simp) (congrArg BitVec.toNat hx) (by simp [hc, h.2, hm])]
    subst hv
    rfl
  · refine setc_mode_refused hp hh ha hi' hl hb ?_
    rw [hx, hc]
    rcases h with h | h
    · simp [hbad.1 h]
    · simp only [decide_eq_false h, Bool.false_and]

end Sys2Proof.Machine
end

section
/-! SUPPORT. GETC, SETC, and the guards of control registers (R35, R92, R93). -/

namespace Sys2Proof.Machine

/-! ## GETC (R92) -/

/-- The conditions of GETC. -/
def getcConds (d a b : Code) (t : Team) (s : State) : List Cond :=
  ctrlConds t s a ++ okCond (dstOk t (ctrlWide (t.ctrlIndex a)) d &&
    (if t.ctrlIndex a = 0x04 then srcOk t false b else isZ b) &&
    (t.ctrlIndex a ≠ 0x04 || t.leader.isNone || decide ((t.lead32 b).toNat < 32)))

/-- The body of GETC of a register that the core holds itself. -/
def getcRun (d a b : Code) (s : State) : Res :=
  s.writeDest (ctrlWide (s.cur.ctrlIndex a)) d
    ((s.cur.evalLanes d).map (fun l => (l, wordsOf (regs (ctrlWide (s.cur.ctrlIndex a)))
      (s.ctrlRead (s.cur.ctrlIndex a) (s.cur.lead32 b).toNat l))))
    (fun t lanes => if s.cur.ctrlIndex a = 0x08 && decide (lanes ≠ []) then { t with clkLatch := some (hiWord s.ticks) } else t)

/-- A plain GETC without conditions of a register that the core holds itself runs its body. -/
theorem exec_getc {s : State} {d a b : Code} (hp : s.plain = true) (hi : s.cur.ctrlIndex a ≠ 0x0F ∧ s.cur.ctrlIndex a ≠ 0x10)
    (hc : getcConds d a b s.cur s = []) : exec (.getc d a b) s = .next (State.conclude s.cur 0 none (getcRun d a b s)) := by
  refine (issue_plain hp ?_ hc).trans ?_
  · exact Spec.conds_free rfl (by simp [ctrlCls, hi.1, hi.2])
  · dsimp only
    rw [if_neg (by simp [hi.1, hi.2])]
    rfl

/-- A control register that GETC may read, and the words that every lane reads of it. -/
structure Reads (s : State) (a : Code) (words : List Word) : Prop where
  known : ctrlKnown (s.cur.ctrlIndex a) = true
  here : s.cur.ctrlIndex a ≠ 0x04 ∧ s.cur.ctrlIndex a ≠ 0x0F ∧ s.cur.ctrlIndex a ≠ 0x10
  guard : 0x40 ≤ s.cur.ctrlIndex a → s.curCtx.priv = true
  value : ∀ w l, wordsOf (regs (ctrlWide (s.cur.ctrlIndex a))) (s.ctrlRead (s.cur.ctrlIndex a) w l) = words

section
variable {s : State} {d a b : Code} {words : List Word} (hp : s.plain = true) (ha : kRun s.cur 1 1 a = true)
  (hz : isZ b = true) (hr : Reads s a words)
include hp ha hz hr

/-- GETC then runs its body, for a destination that fits the register. -/
theorem getc_runs (hd : dstOk s.cur (ctrlWide (s.cur.ctrlIndex a)) d = true) :
    exec (.getc d a b) s = .next (State.conclude s.cur 0 none (getcRun d a b s)) := by
  obtain ⟨hk, ⟨h4, hF, h10⟩, hg, -⟩ := hr
  have h40 : (decide (0x40 ≤ s.cur.ctrlIndex a) && !s.curCtx.priv) = false := by
    by_cases h : 0x40 ≤ s.cur.ctrlIndex a
    · simp [hg h]
    · simp [Nat.lt_of_not_le h]
  refine exec_getc hp ⟨hF, h10⟩ ?_
  simp [getcConds, ctrlConds, hk, ha, hz, hd, h4, h40]

/-- The words go to the registers of each contributing lane. -/
theorem getc_vector (hb : s.cur.bindings = []) (hv : isV d = true) (hd : dstOk s.cur (ctrlWide (s.cur.ctrlIndex a)) d = true) :
    ∃ c, exec (.getc d a b) s = .next (s.setCur (Team.putLanes { s.cur with clkLatch := c } d.toNat
      (s.cur.contribLanes.map (fun l => (l, words)))).advance) := by
  obtain ⟨-, -, -, -, -, hreg, hst, -⟩ := (State.plain_iff s).1 hp
  have hs : isS d = false := by simp_all [isV, isS]
  have hrun : ∃ c, getcRun d a b s = .done (s.setCur (Team.putLanes { s.cur with clkLatch := c } d.toNat
      (s.cur.contribLanes.map (fun l => (l, words))))) := by
    simp only [getcRun, State.writeDest, hv, if_true, Team.evalLanes, hs, Bool.false_eq_true, if_false, hr.value]
    rw [writeLanes_unbound hb (by split <;> exact hreg)]
    split
    · exact ⟨_, rfl⟩
    · exact ⟨_, rfl⟩
  obtain ⟨c, hc⟩ := hrun
  exact ⟨c, by rw [getc_runs hp ha hz hr hd, hc, conclude_done hst]; rfl⟩

/-- The words go to the scalars. -/
theorem getc_scalar (hl : s.cur.leader ≠ none) (hs : isS d = true) (hd : dstOk s.cur (ctrlWide (s.cur.ctrlIndex a)) d = true) :
    ∃ c, exec (.getc d a b) s = .next (s.setCur (Team.srun { s.cur with clkLatch := c } (sNum d) words).advance) := by
  obtain ⟨-, -, -, -, -, hreg, hst, -⟩ := (State.plain_iff s).1 hp
  obtain ⟨l, hl⟩ := Option.ne_none_iff_exists'.1 hl
  have hv : isV d = false := by simp_all [isV, isS]
  have hrun : ∃ c, getcRun d a b s = .done (s.setCur (Team.srun { s.cur with clkLatch := c } (sNum d) words)) := by
    simp only [getcRun, State.writeDest, hv, Bool.false_eq_true, if_false, hs, if_true, Team.evalLanes, hl, Option.toList, List.map,
      hr.value, List.head?_cons]
    split
    · exact ⟨_, rfl⟩
    · exact ⟨_, rfl⟩
  obtain ⟨c, hc⟩ := hrun
  exact ⟨c, by rw [getc_runs hp ha hz hr hd, hc, conclude_done hst]; rfl⟩

end

/-- What a vector destination reads as, and what else has not changed, when every contributing lane takes the same words. -/
theorem putLanes_const {t u : Team} {d : Code} {words : List Word} {n : Nat} (hu : u = t.putLanes d.toNat
      (t.contribLanes.map (fun l => (l, words)))) (ht : t.Undecayed) (hn : words.length = n) (hd : d.toNat + n ≤ 96) (l r : Nat)
    (hr : r < 96) : u.advance.vget l r = if (l < t.size ∧ t.contrib.getLsbD l = true) ∧ d.toNat ≤ r ∧ r < d.toNat + n
      then words.getD (r - d.toNat) 0 else t.vget l r := by
  subst hu
  rw [(ht.putLanes _).advance.vget, ht.vget, Team.advance_v]
  have hlen : ∀ w ∈ t.contribLanes.map (fun l => (l, words)), w.2.length = n := by simp [hn]
  split
  next h =>
    have hm : (l, words) ∈ t.contribLanes.map (fun l => (l, words)) := by simpa [t.mem_contribLanes] using h.1
    have hu : ((t.contribLanes.map (fun l => (l, words))).map (fun w => w.1)).Nodup := by
      simpa [Function.comp_def] using t.contribLanes_nodup
    exact Team.tget_putLanes_of_mem (w := (l, words)) hlen hd hu hm h.2.1 h.2.2
  next h =>
    refine Team.tget_putLanes_of_not_mem _ hlen hd hr ?_
    simpa [t.mem_contribLanes] using h

/-- The low and the high word of a register of 64 bits. -/
theorem wordsOf_two (x : DWord) : wordsOf 2 x.toNat = [loWord x, hiWord x] := by
  simp [wordsOf, loWord, hiWord, BitVec.extractLsb', Nat.shiftRight_eq_div_pow]

/-- They are the whole of it. -/
theorem pairOf_lo_hi (x : DWord) : pairOf (loWord x) (hiWord x) = x := by
  simp only [pairOf, loWord, hiWord]
  exact BitVec.extractLsb'_append_extractLsb'_eq_extractLsb' (by decide) |>.trans (BitVec.extractLsb'_eq_self ..)

/-- One word. -/
theorem wordsOf_one (x : Nat) : wordsOf 1 x = [BitVec.ofNat 32 x] := rfl

/-- A register of 32 bits that R35 lists. -/
theorem reads_one {s : State} {a : Code} {x : Word}
    (h : s.cur.lit (a.toNat - 120) = 0 ∧ x = s.cur.tstat ∨ s.cur.lit (a.toNat - 120) = 1 ∧ x = s.cur.mode.setWidth 32 ∨
       s.cur.lit (a.toNat - 120) = 3 ∧ x = s.cur.faultInfo ∨ s.cur.lit (a.toNat - 120) = 8 ∧ x = s.ticks.extractLsb' 0 32 ∨
       s.cur.lit (a.toNat - 120) = 9 ∧ x = s.cur.clkLatch.getD (s.ticks.extractLsb' 32 32) ∨
       s.cur.lit (a.toNat - 120) = 10 ∧ x = BitVec.ofNat 32 s.curCore ∨
       s.cur.lit (a.toNat - 120) = 13 ∧ x = BitVec.ofNat 32 (s.fab.ndev * 2 ^ 16 + s.fab.dev) ∨
       s.cur.lit (a.toNat - 120) = 18 ∧ x = BitVec.ofNat 32 s.cur.stack.length ∨
       s.curCtx.priv = true ∧
         (s.cur.lit (a.toNat - 120) = 0x40 ∧ x = BitVec.ofNat 32 s.coh.leaseL1 ∨
         s.cur.lit (a.toNat - 120) = 0x41 ∧ x = BitVec.ofNat 32 s.coh.leasePeer ∨
         s.cur.lit (a.toNat - 120) = 0x42 ∧ x = s.curCtx.mixchk ∨ s.cur.lit (a.toNat - 120) = 0x43 ∧ x = s.curCtx.hazchk ∨
         s.cur.lit (a.toNat - 120) = 0x44 ∧ x = s.cur.stepctl ∨
         s.cur.lit (a.toNat - 120) = 0x45 ∧ x = (s.die (dieOf s.curCore)).carve)) :
    Reads s a [x] ∧ ctrlWide (s.cur.ctrlIndex a) = false := by
  rcases h with ⟨h, rfl⟩ | ⟨h, rfl⟩ | ⟨h, rfl⟩ | ⟨h, rfl⟩ | ⟨h, rfl⟩ | ⟨h, rfl⟩ | ⟨h, rfl⟩ | ⟨h, rfl⟩ | ⟨hp, h⟩
  on_goal 9 => rcases h with ⟨h, rfl⟩ | ⟨h, rfl⟩ | ⟨h, rfl⟩ | ⟨h, rfl⟩ | ⟨h, rfl⟩ | ⟨h, rfl⟩
  all_goals
    have hi := congrArg BitVec.toNat h
    simp only [BitVec.reduceToNat, BitVec.ofNat_eq_ofNat] at hi
    change s.cur.ctrlIndex a = _ at hi
    refine ⟨⟨by rw [hi]; decide, by rw [hi]; decide, by simp [*], fun w l => ?_⟩, by rw [hi]; decide⟩
    rw [hi]
    simp [ctrlWide, regs, wordsOf_one, State.ctrlRead, loWord, hiWord, -BitVec.extractLsb'_toNat]

/-- A register of 64 bits that R35 lists. -/
theorem reads_two {s : State} {a : Code} {x : DWord}
    (h : s.cur.lit (a.toNat - 120) = 2 ∧ x = s.cur.faultPc ∨
       s.curCtx.priv = true ∧ (s.cur.lit (a.toNat - 120) = 0x46 ∧ x = s.curCtx.spillBase ∨
         s.cur.lit (a.toNat - 120) = 0x47 ∧ x = s.curCtx.trapBase)) :
    Reads s a [loWord x, hiWord x] ∧ ctrlWide (s.cur.ctrlIndex a) = true := by
  rcases h with ⟨h, rfl⟩ | ⟨hp, ⟨h, rfl⟩ | ⟨h, rfl⟩⟩
  all_goals
    have hi := congrArg BitVec.toNat h
    simp only [BitVec.reduceToNat, BitVec.ofNat_eq_ofNat] at hi
    change s.cur.ctrlIndex a = _ at hi
    refine ⟨⟨by rw [hi]; decide, by rw [hi]; decide, by simp [*], fun w l => ?_⟩, by rw [hi]; decide⟩
    rw [hi]
    exact wordsOf_two _

/-- A pair of vector registers as an operand. -/
theorem opnd64_vector {t : Team} {d : Code} (hv : isV d = true) (hd : d.toNat + 2 ≤ 96) (l : Nat) :
    t.opnd64 l d = pairOf (t.vget l d.toNat) (t.vget l (d.toNat + 1)) := by
  have hc : (codeAt d 1).toNat = d.toNat + 1 := by
    simp only [codeAt, BitVec.toNat_ofNat]
    omega
  have hv1 : isV (codeAt d 1) = true := by
    rw [isV, hc]
    exact decide_eq_true (by omega)
  simp [Team.opnd64, Team.opnd32, hv, hv1, hc]

/-- A pair of scalars as an operand. -/
theorem opnd64_scalar {t : Team} {d : Code} (hs : isS d = true) (hd : sNum d + 2 ≤ 24) (l : Nat) :
    t.opnd64 l d = pairOf (t.sget (sNum d)) (t.sget (sNum d + 1)) := by
  simp only [isS, sNum, Bool.and_eq_true, decide_eq_true_eq] at hs hd
  have hc : (codeAt d 1).toNat = d.toNat + 1 := by
    simp only [codeAt, BitVec.toNat_ofNat]
    omega
  have hv : isV d = false := decide_eq_false (by omega)
  have hs0 : isS d = true := by simp only [isS, Bool.and_eq_true, decide_eq_true_eq]; omega
  have hv1 : isV (codeAt d 1) = false := by rw [isV, hc]; exact decide_eq_false (by omega)
  have hs1 : isS (codeAt d 1) = true := by simp only [isS, hc, Bool.and_eq_true, decide_eq_true_eq]; omega
  have hn1 : sNum (codeAt d 1) = sNum d + 1 := by simp only [sNum, hc]; omega
  simp [Team.opnd64, Team.opnd32, hv, hs0, hv1, hs1, hn1]

/-- What GETC leaves of the team and of memory, whatever its destination. -/
structure GetcFrame (s t : State) : Prop where
  predicates : t.cur.p = s.cur.p
  mode : t.cur.mode = s.cur.mode
  tstat : t.cur.tstat = s.cur.tstat
  place : t.cur.pc = s.cur.advance.pc
  memory : t.mem = s.mem

/-- A team that differs in its registers, and in the latch of the clock, goes on. -/
theorem getcFrame_of {s : State} {u : Team} {c : Option Word} (h : Team.RegsOnly { s.cur with clkLatch := c } u) :
    GetcFrame s (s.setCur u.advance) := by
  obtain ⟨hp, hm, -, -, -, -, -, ht⟩ := h.kept
  obtain ⟨hpc, hi, hc⟩ := h.place
  exact ⟨u.advance_p.trans hp, u.advance_mode.trans hm, u.advance_tstat.trans ht, (Team.advance_place (t := s.cur) hpc hi hc).1, rfl⟩

section
variable {s : State} {d a b : Code} {words : List Word} {n : Nat} (hp : s.plain = true) (ha : kRun s.cur 1 1 a = true)
  (hz : isZ b = true) (hr : Reads s a words) (hn : n = regs (ctrlWide (s.cur.ctrlIndex a))) (hlen : words.length = n)
include hp ha hz hr hn hlen

/-- GETC to vector registers: each contributing lane takes the words, nothing else changes. -/
theorem getc_to_vector (hb : s.cur.bindings = []) (hd : vRun s.cur n n d = true) : ∃ t, exec (.getc d a b) s = .next t ∧
    (∀ l r, r < 96 → t.cur.vget l r = if (l < s.cur.size ∧ s.cur.contrib.getLsbD l = true) ∧ d.toNat ≤ r ∧ r < d.toNat + n
      then words.getD (r - d.toNat) 0 else s.cur.vget l r) ∧ t.cur.s = s.cur.s ∧ GetcFrame s t := by
  have hn12 : n = 1 ∨ n = 2 := by
    subst hn
    unfold regs
    split <;> simp
  obtain ⟨hv, hd96, -⟩ := Team.le_of_vRun hn12 hd
  have hdst : dstOk s.cur (ctrlWide (s.cur.ctrlIndex a)) d = true := by
    subst hn
    simp only [dstOk, Bool.or_eq_true]
    exact .inl (.inl hd)
  obtain ⟨c, hx⟩ := getc_vector hp ha hz hr hb hv hdst
  have hsl : s.cur.shortLived = [] := by
    obtain ⟨-, -, -, -, -, -, -, -, -, -, h, -⟩ := (State.plain_iff s).1 hp
    exact h
  refine ⟨_, hx, fun l r => ?_, ?_, getcFrame_of (Team.regsOnly_putLanes _)⟩
  · exact putLanes_const (t := { s.cur with clkLatch := c }) rfl (Team.undecayed_of_nil hsl) hlen hd96 l r
  · exact (Team.advance_s _).trans (Team.putLanes_s ..)

/-- GETC to scalars: they take the words, nothing else changes. -/
theorem getc_to_scalar (hl : s.cur.leader ≠ none) (hd : sRun n n d = true) : ∃ t, exec (.getc d a b) s = .next t ∧
    (∀ k, t.cur.sget k = if sNum d ≤ k ∧ k < sNum d + n then words.getD (k - sNum d) 0 else s.cur.sget k) ∧
    t.cur.v = s.cur.v ∧ GetcFrame s t := by
  have hs : isS d = true := by
    simp only [sRun, Bool.and_eq_true] at hd
    exact hd.1.1
  have hdst : dstOk s.cur (ctrlWide (s.cur.ctrlIndex a)) d = true := by
    subst hn
    simp only [dstOk, Bool.or_eq_true]
    exact .inl (.inr hd)
  obtain ⟨c, hx⟩ := getc_scalar hp ha hz hr hl hs hdst
  refine ⟨_, hx, fun k => ?_, (Team.advance_v _).trans (Team.srun_v _ _ _).1, getcFrame_of (Team.regsOnly_srun _ _)⟩
  have hadv (u : Team) : u.advance.sget k = u.sget k := by rw [Team.sget, Team.advance_s, ← Team.sget]
  rw [← hlen]
  exact (hadv _).trans (Team.sget_srun _ _ _)

end

/-! ## SETC (R93) -/

/-- SETC of TSTAT writes its RW bits (R71). -/
theorem setc_tstat {s : State} {a b : Code} {l : Nat} (hp : s.plain = true) (ha : kRun s.cur 1 1 a = true)
    (hl : s.cur.leader = some l) (hi : s.cur.ctrlIndex a = 0) (hb : srcOk s.cur false b = true)
    (hx : s.cur.opnd32 l b &&& 0xE0FEF800 = 0) : exec (.setc a b) s = .next (s.setCur { s.cur with
      tstat := (s.cur.tstat &&& 0xFFFFF800) ||| (s.cur.opnd32 l b &&& 0x7FF) }.advance) := by
  have hc : s.ctrlCheck s.cur 0 (s.cur.opnd32 l b).toNat = true := by
    simpa [State.ctrlCheck, tstatReserved] using hx
  have hw : s.ctrlWrite 0 (s.cur.opnd32 l b).toNat = s.setCur { s.cur with
      tstat := (s.cur.tstat &&& 0xFFFFF800) ||| (s.cur.opnd32 l b &&& 0x7FF) } := by
    change s.setCur (s.cur.writeTstat (BitVec.ofNat 32 (s.cur.opnd32 l b).toNat)) = _
    rw [BitVec.ofNat_toNat, BitVec.setWidth_eq]
    rfl
  rw [exec_setc (x := (s.cur.opnd32 l b).toNat) hp ha hi hl hb (by decide) (by simp) rfl hc, hw]
  rfl

/-- SETC of a register of the context. -/
theorem setc_context {s : State} {a b : Code} {l i x : Nat} {y : Context} (hp : s.plain = true) (ha : kRun s.cur 1 1 a = true)
    (hl : s.cur.leader = some l) (hi : s.cur.ctrlIndex a = i) (hi' : i = 0x43 ∨ i = 0x47) (hpr : s.curCtx.priv = true)
    (hb : srcOk s.cur (ctrlWide i) b = true) (hx : s.cur.opndN (ctrlWide i) l b = x)
    (hc : s.ctrlCheck s.cur i x = true) (hw : s.ctrlWrite i x = s.setCtx s.curCtxNum y) :
    ∃ t, exec (.setc a b) s = .next t ∧ t.cur = s.cur.advance ∧ t.ctx s.curCtxNum = y ∧
      (∀ c, c ≠ s.curCtxNum → t.ctx c = s.ctx c) ∧ t.mem = s.mem := by
  have hk : ctrlKnown i = true ∧ ctrlWritable i = true := by rcases hi' with rfl | rfl <;> decide
  refine ⟨_, exec_setc hp ha hi hl hb hk (fun _ => hpr) hx hc, ?_⟩
  rw [hw]
  exact ⟨rfl, State.setCtx_ctx_self .., fun c h => State.setCtx_ctx_of_ne s y h, rfl⟩

/-! ## The guards of GETC and SETC (R35) -/

/-- What the indices of privileged registers of 32 bits have in common. -/
theorem ctrl_privileged {i : Nat} (hi : 0x40 ≤ i ∧ i ≤ 0x45) :
    ctrlKnown i = true ∧ ctrlWide i = false ∧ ctrlWritable i = true ∧ i ≠ 0x04 ∧ i ≠ 0x0F ∧ i ≠ 0x10 := by
  obtain ⟨h1, h2⟩ := hi
  interval_cases i <;> decide

section
variable {s : State} {d a b : Code} (hp : s.plain = true) (hh : s.hasHandler = true) (ha : kRun s.cur 1 1 a = true)
include hp hh ha

/-- An index that R35 does not list. -/
theorem ctrl_unknown (hk : ctrlKnown (s.cur.ctrlIndex a) = false) :
    TrapsHere (.getc d a b) s ⟨2, 0, 0⟩ ∧ TrapsHere (.setc a b) s ⟨2, 0, 0⟩ := by
  have hcls : ctrlCls s.cur a = 0 := by
    have h1 : s.cur.ctrlIndex a ≠ 0x0F := fun h => by simp [h, ctrlKnown] at hk
    have h2 : s.cur.ctrlIndex a ≠ 0x10 := fun h => by simp [h, ctrlKnown] at hk
    simp [ctrlCls, h1, h2]
  have hctrl : ctrlConds s.cur s a = [(none, tOPERAND)] := by simp [ctrlConds, ha, hk]
  constructor
  · refine trapsHere_of_own_conds hp hh (conds := getcConds d a b) rfl (Spec.conds_free rfl hcls) ⟨(none, tOPERAND), ?_, rfl⟩ ?_
      (by decide)
    · simp [getcConds, hctrl]
    · intro c hc
      simp only [getcConds, hctrl, List.mem_append, List.mem_singleton, mem_okCond] at hc
      rcases hc with rfl | ⟨-, rfl⟩ <;> exact .inl rfl
  · refine trapsHere_of_own_conds hp hh (exec_setc_eq a b s) rfl ⟨(none, tOPERAND), ?_, rfl⟩ ?_ (by decide)
    · simp [setcConds, hctrl]
    · intro c hc
      simp only [setcConds, hctrl, List.mem_append, List.mem_singleton, mem_okCond, mem_whenCond] at hc
      rcases hc with (rfl | ⟨-, rfl⟩) | ⟨-, rfl⟩ <;> exact .inl rfl

/-- A register that only a privileged context may reach, in one that is not: GETC. -/
theorem getc_unprivileged (hi : 0x40 ≤ s.cur.ctrlIndex a ∧ s.cur.ctrlIndex a ≤ 0x45) (hpr : s.curCtx.priv = false)
    (hd : vRun s.cur 1 1 d = true) (hz : isZ b = true) : TrapsHere (.getc d a b) s ⟨5, 2, 0⟩ := by
  obtain ⟨hk, hw, -, h4, hF, h10⟩ := ctrl_privileged hi
  have hdst : dstOk s.cur false d = true := by simp [dstOk, hd]
  refine trapsHere_whenCond hp hh (b := true) (conds := getcConds d a b) rfl
    (Spec.conds_free rfl (by simp [ctrlCls, hF, h10])) ?_ rfl (by decide)
  simp [getcConds, ctrlConds, ha, hk, hw, hi.1, hpr, hdst, h4, hz]
  rfl

/-- The same: SETC. -/
theorem setc_unprivileged (hi : 0x40 ≤ s.cur.ctrlIndex a ∧ s.cur.ctrlIndex a ≤ 0x45) (hpr : s.curCtx.priv = false)
    (hb : srcOk s.cur false b = true)
    (hl : s.cur.leader = none ∨ ∃ l, s.cur.leader = some l ∧ s.ctrlCheck s.cur (s.cur.ctrlIndex a) (s.cur.opnd32 l b).toNat = true) :
    TrapsHere (.setc a b) s ⟨5, 2, 0⟩ := by
  obtain ⟨hk, hw, hwr, -, -, -⟩ := ctrl_privileged hi
  refine trapsHere_whenCond hp hh (b := true) (exec_setc_eq a b s) rfl ?_ rfl (by decide)
  have hcheck : (s.cur.leader.isSome &&
      !s.ctrlCheck s.cur (s.cur.ctrlIndex a) (s.cur.opnd32 (s.cur.leader.getD 0) b).toNat) = false := by
    rcases hl with hl | ⟨l, hl, hc⟩
    · simp [hl]
    · simp [hl, hc]
  simp [setcConds, ctrlConds, ha, hk, hw, hwr, hi.1, hpr, hb, Team.opndN, hcheck]
  rfl

end

/-- SETC of a register marked RO. -/
theorem setc_readOnly {s : State} {a b : Code} (hp : s.plain = true) (hh : s.hasHandler = true)
    (hw : ctrlWritable (s.cur.ctrlIndex a) = false) (hi : s.cur.ctrlIndex a < 0x40) : TrapsHere (.setc a b) s ⟨2, 0, 0⟩ := by
  refine trapsHere_of_own_conds hp hh (exec_setc_eq a b s) rfl ⟨(none, tOPERAND), ?_, rfl⟩ ?_ (by decide)
  · simp [setcConds, hw]
  · intro c hc
    simp only [setcConds, ctrlConds, List.mem_append, mem_okCond, mem_whenCond, decide_eq_false (Nat.not_le.2 hi), Bool.false_and,
      Bool.false_eq_true, false_and, or_false] at hc
    rcases hc with (⟨-, rfl⟩ | ⟨-, rfl⟩) | ⟨-, rfl⟩ <;> exact .inl rfl

/-- The indices that R35 does not list. -/
theorem ctrlKnown_eq_false {i : Nat} (h : i = 7 ∨ (0x13 ≤ i ∧ i < 0x40) ∨ 0x48 ≤ i) : ctrlKnown i = false := by
  rcases h with rfl | h
  · rfl
  · simp only [ctrlKnown, Bool.or_eq_false_iff, Bool.and_eq_false_iff, decide_eq_false_iff_not]
    omega

/-- The registers marked RO. -/
theorem ctrlWritable_eq_false {i : Nat} (h : (3 ≤ i ∧ i ≤ 14 ∧ i ≠ 7) ∨ i = 17 ∨ i = 18) : ctrlWritable i = false ∧ i < 0x40 := by
  rcases h with ⟨h1, h2, -⟩ | rfl | rfl
  · interval_cases i <;> decide
  · decide
  · decide

/-- Settles O16: the registers read and written one by one, and their guards. -/
theorem controlRegistersReadAndWrite : Obligations.ControlRegistersReadAndWrite := by
  unfold Obligations.ControlRegistersReadAndWrite
  refine ⟨fun s d a b x hp ha hz hl hx => ?_, fun s d a b x hp ha hz hl hx => ?_, fun s a b l hp ha hl => ⟨fun hi hb hx => ?_,
    fun hi hpr hb hx => ?_, fun hi hpr hb hx => ?_⟩, fun s d a b hp hh ha => ?_⟩
  · obtain ⟨hr, hw⟩ := reads_one hx
    have hn : 1 = regs (ctrlWide (s.cur.ctrlIndex a)) := by rw [hw]; rfl
    refine ⟨fun hd hb => ?_, fun hd => ?_⟩
    · obtain ⟨t, ht, hv, hs, hf⟩ := getc_to_vector hp ha hz hr hn rfl hb hd
      obtain ⟨-, hd96, -⟩ := Team.le_of_vRun (.inl rfl) hd
      refine ⟨t, ht, fun l => ?_, fun l r hr96 hne => ?_, hs, hf.predicates, hf.mode, hf.tstat, hf.place, hf.memory⟩
      · simp [hv l d.toNat hd96, and_comm]
      · rw [hv l r hr96, if_neg (by omega)]
    · obtain ⟨t, ht, hs, hv, hf⟩ := getc_to_scalar hp ha hz hr hn rfl hl hd
      refine ⟨t, ht, ?_, fun k hne => ?_, hv, hf.predicates, hf.mode, hf.tstat, hf.place, hf.memory⟩
      · simp [hs]
      · rw [hs, if_neg (by omega)]
  · obtain ⟨hr, hw⟩ := reads_two hx
    have hn : 2 = regs (ctrlWide (s.cur.ctrlIndex a)) := by rw [hw]; rfl
    refine ⟨fun hd hb => ?_, fun hd => ?_⟩
    · obtain ⟨t, ht, hv, hs, hf⟩ := getc_to_vector hp ha hz hr hn rfl hb hd
      obtain ⟨hdv, hd96, -⟩ := Team.le_of_vRun (.inr rfl) hd
      refine ⟨t, ht, fun l hl hc => ?_, hs, hf.predicates, hf.tstat, hf.place, hf.memory⟩
      rw [opnd64_vector hdv hd96, hv l _ (by omega), hv l _ (by omega)]
      simp [hl, hc, pairOf_lo_hi]
    · obtain ⟨t, ht, hs, hv, hf⟩ := getc_to_scalar hp ha hz hr hn rfl hl hd
      have hd' : isS d = true ∧ sNum d + 2 ≤ 24 := by
        simp only [sRun, Bool.and_eq_true, decide_eq_true_eq] at hd
        exact hd.1
      refine ⟨t, ht, fun l => ?_, fun k h1 h2 => ?_, hv, hf.predicates, hf.tstat, hf.place, hf.memory⟩
      · rw [opnd64_scalar hd'.1 hd'.2, hs, hs]
        simp [pairOf_lo_hi]
      · rw [hs, if_neg (by omega)]
  · exact setc_tstat hp ha hl (by simp [Team.ctrlIndex, hi]) hb hx
  · refine setc_context (i := 0x43) (x := (s.cur.opnd32 l b).toNat) hp ha hl (by simp [Team.ctrlIndex, hi]) (.inl rfl) hpr hb rfl
      (decide_eq_true hx) ?_
    change s.setCtx _ { s.ctx _ with hazchk := BitVec.ofNat 32 _ } = _
    rw [BitVec.ofNat_toNat, BitVec.setWidth_eq]
    rfl
  · refine setc_context (i := 0x47) (x := (s.cur.opnd64 l b).toNat) hp ha hl (by simp [Team.ctrlIndex, hi]) (.inr rfl) hpr hb rfl
      (decide_eq_true hx) ?_
    change s.setCtx _ { s.ctx _ with trapBase := BitVec.ofNat 64 _ } = _
    rw [BitVec.ofNat_toNat, BitVec.setWidth_eq]
    rfl
  · intro i
    refine ⟨fun hi => ?_, fun hi hd hz => ?_, fun hi hb hl => ?_, fun hi => ?_⟩
    · exact ctrl_unknown hp hh ha (ctrlKnown_eq_false hi)
    · exact getc_unprivileged hp hh ha ⟨hi.1, hi.2.1⟩ hi.2.2 hd hz
    · exact setc_unprivileged hp hh ha ⟨hi.1, hi.2.1⟩ hi.2.2 hb hl
    · obtain ⟨hw, h40⟩ := ctrlWritable_eq_false hi
      exact setc_readOnly hp hh hw h40

end Sys2Proof.Machine
end

section
/-! SUPPORT. Where transfers of control land (R114–R117). -/

namespace Sys2Proof.Machine

/-- The end of a transfer of a team that nothing limits is where R22 puts it. -/
theorem landed_goTo {t u : Team} (pc : DWord) (hu : u.only = none ∧ u.service = none) (hc : u.clause = t.clause) :
    (u.goTo pc).landed t.clause = u.landsAt pc := by
  have hy : t.clause.any Clause.yield = u.yieldBit := by
    rw [Team.yieldBit, hc]
    cases t.clause <;> rfl
  obtain ⟨ho, hs⟩ := hu
  cases hyb : u.yieldBit
  · simp [Team.landed, Team.goTo, Team.yieldsAfter, Team.landsAt, hy, hyb, ho, hs, Team.hlevel]
  · simp [Team.landed, Team.goTo, Team.yieldsAfter, Team.landsAt, hy, hyb, ho, hs, Team.hlevel]

/-- A transfer that nothing stops. -/
theorem issue_jump {uses : Uses} {conds : Team → State → List Cond} {run : State → Res} {s : State} {u : Team} {sp : Spec}
    (hp : s.plain = true) (hs : sp.conds s.cur = []) (hc : conds s.cur s = []) (hr : run s = .jump (s.setCur u)) :
    issue sp uses conds run s = .next (s.setCur (u.landed s.cur.clause)) := by
  obtain ⟨-, -, -, -, -, -, hst, -⟩ := (State.plain_iff s).1 hp
  rw [issue_plain hp hs hc, hr, conclude_jump hst]
  rfl

/-- A transfer to a place that nothing stops, the team's own clause left. -/
theorem issue_goTo {uses : Uses} {conds : Team → State → List Cond} {run : State → Res} {s : State} {u : Team} {pc : DWord} {sp : Spec}
    (hp : s.plain = true) (hs : sp.conds s.cur = []) (hc : conds s.cur s = []) (hr : run s = .jump (s.setCur (u.goTo pc)))
    (hu : u.only = s.cur.only ∧ u.service = s.cur.service ∧ u.clause = s.cur.clause) :
    issue sp uses conds run s = .next (s.setCur (u.landsAt pc)) := by
  obtain ⟨-, -, -, hsv, -, -, -, ho, -⟩ := (State.plain_iff s).1 hp
  obtain ⟨h1, h2, h3⟩ := hu
  rw [issue_jump hp hs hc hr, landed_goTo pc ⟨h1.trans ho, h2.trans hsv⟩ h3]

/-- The lanes that a branch takes (R116). -/
theorem taken_eq (t : Team) (d : Code) : t.taken d = t.takenLanes d := rfl

/-- The lanes that it does not. -/
theorem notTaken_eq (t : Team) (d : Code) : t.notTaken d = t.mask &&& ~~~ t.takenLanes d := by
  rw [← taken_eq, Team.notTaken, Team.taken]
  ext i hi
  simp only [BitVec.getElem_and, BitVec.getElem_not]
  cases t.mask[i] <;> rfl

/-- The target of a branch (R114). -/
theorem target_eq (t : Team) (b : Code) : t.target b = t.branchTo b := rfl

/-- A target that is used is no condition when it is a clause address. -/
theorem alignCond_ite {p : Prop} [Decidable p] {pc : DWord} (h : ¬ p → pc.toNat % 4 = 0) :
    (if p then [] else alignCond pc) = [] := by
  split
  · rfl
  · simp [alignCond, h ‹_›]

/-- The conditions of BRC do not hold. -/
theorem brcConds_nil {s : State} {b d : Code} (hb : skOk s.cur true b = true) (hd : d.toNat < 16)
    (ha : s.cur.takenLanes d ≠ 0 → (s.cur.branchTo b).toNat % 4 = 0)
    (hroom : s.cur.takenLanes d ≠ 0 → s.cur.mask &&& ~~~ s.cur.takenLanes d ≠ 0 → s.cur.stack.length < 4096) : okCond (predOk true d && skOk s.cur true b) ++
    (if s.cur.taken d = 0 then [] else alignCond (s.cur.target b)) ++
    whenCond (decide (s.cur.taken d ≠ 0) && decide (s.cur.notTaken d ≠ 0) && !s.cur.inRegion && !s.cur.stackRoom 1) tSPILLFULL = [] := by
  have hfull : (decide (s.cur.taken d ≠ 0) && decide (s.cur.notTaken d ≠ 0) && !s.cur.inRegion && !s.cur.stackRoom 1) = false := by
    rw [taken_eq, notTaken_eq]
    by_cases h1 : s.cur.takenLanes d ≠ 0
    · by_cases h2 : s.cur.mask &&& ~~~ s.cur.takenLanes d ≠ 0
      · have hr : s.cur.stackRoom 1 = true := decide_eq_true (Nat.succ_le_of_lt (hroom h1 h2))
        simp only [hr, Bool.not_true, Bool.and_false]
      · simp only [decide_eq_false h2, Bool.and_false, Bool.false_and]
    · simp only [decide_eq_false h1, Bool.false_and]
  have ha' : ¬ s.cur.taken d = 0 → (s.cur.target b).toNat % 4 = 0 := ha
  rw [hfull, alignCond_ite ha']
  simp [hb, predOk, hd]

section
variable {s : State} {b d : Code} (hp : s.plain = true) (hl : s.lastInClause = true) (hb : skOk s.cur true b = true)
include hp hl hb

/-- BR (R115). -/
theorem exec_br (ha : (s.cur.branchTo b).toNat % 4 = 0) :
    exec (.br b) s = .next (s.setCur (s.cur.landsAt (s.cur.branchTo b))) :=
  issue_goTo hp (Spec.conds_nil (fun _ => hl) (by simp [controlSpec]) (by simp [controlSpec]))
    (by simp [hb, alignCond, target_eq, ha]) rfl ⟨rfl, rfl, rfl⟩

/-- BRANY (R116). -/
theorem exec_brany (hd : d.toNat < 16) (ha : s.cur.takenLanes d ≠ 0 → (s.cur.branchTo b).toNat % 4 = 0) :
    exec (.brany d b) s = .next (s.setCur (s.cur.landsAt
      (if s.cur.takenLanes d = 0 then s.cur.nextPc else s.cur.branchTo b))) := by
  refine issue_goTo hp (controlSpec_conds hl 0) ?_ rfl ⟨rfl, rfl, rfl⟩
  have ha' : ¬ s.cur.taken d = 0 → (s.cur.target b).toNat % 4 = 0 := ha
  rw [alignCond_ite ha']
  simp [hb, predOk, hd]

/-- BRALL (R116). -/
theorem exec_brall (hd : d.toNat < 16)
    (ha : s.cur.mask &&& ~~~ s.cur.takenLanes d = 0 → (s.cur.branchTo b).toNat % 4 = 0) :
    exec (.brall d b) s = .next (s.setCur (s.cur.landsAt
      (if s.cur.mask &&& ~~~ s.cur.takenLanes d = 0 then s.cur.branchTo b else s.cur.nextPc))) := by
  rw [← notTaken_eq] at ha ⊢
  refine issue_goTo hp (controlSpec_conds hl 0) ?_ rfl ⟨rfl, rfl, rfl⟩
  have hcond : (if s.cur.notTaken d = 0 then alignCond (s.cur.target b) else []) = [] := by
    split
    next h => simp [alignCond, target_eq, ha h]
    next => rfl
  rw [hcond]
  simp [hb, predOk, hd]

/-- LOOP (R117). -/
theorem exec_loop (hd : isS d = true) (ha : s.cur.sget (sNum d) ≠ 1 → (s.cur.branchTo b).toNat % 4 = 0) :
    exec (.loop d b) s = .next (s.setCur ((s.cur.sset (sNum d) (s.cur.sget (sNum d) - 1)).landsAt
      (if s.cur.sget (sNum d) = 1 then s.cur.nextPc else s.cur.branchTo b))) := by
  have h1 : s.cur.sget (sNum d) - 1 = 0 ↔ s.cur.sget (sNum d) = 1 := BitVec.sub_eq_iff_eq_add.trans (by simp)
  refine issue_goTo hp (Spec.conds_nil (fun _ => hl) (by simp [controlSpec]) (by simp [controlSpec])) ?_ ?_ ⟨rfl, rfl, rfl⟩
  · simp only [h1, target_eq]
    rw [alignCond_ite ha]
    simp [hb, hd]
  · simp only [h1, target_eq]

section
variable (hd : d.toNat < 16) (ha : s.cur.takenLanes d ≠ 0 → (s.cur.branchTo b).toNat % 4 = 0)
  (hroom : s.cur.takenLanes d ≠ 0 → s.cur.mask &&& ~~~ s.cur.takenLanes d ≠ 0 → s.cur.stack.length < 4096)
include hd ha hroom

/-- BRC that takes no lane goes on at next (R116). -/
theorem exec_brc_none (h : s.cur.takenLanes d = 0) :
    exec (.brc d b) s = .next (s.setCur (s.cur.landsAt s.cur.nextPc)) :=
  issue_goTo hp (controlSpec_conds hl 0) (brcConds_nil hb hd ha hroom) (if_pos h) ⟨rfl, rfl, rfl⟩

/-- BRC that takes every lane goes to the target (R116). -/
theorem exec_brc_all (h : s.cur.takenLanes d ≠ 0) (h' : s.cur.mask &&& ~~~ s.cur.takenLanes d = 0) :
    exec (.brc d b) s = .next (s.setCur (s.cur.landsAt (s.cur.branchTo b))) := by
  rw [← notTaken_eq] at h'
  exact issue_goTo hp (controlSpec_conds hl 0) (brcConds_nil hb hd ha hroom) ((if_neg h).trans (if_pos h')) ⟨rfl, rfl, rfl⟩

/-- BRC that divides the mask (R116). -/
theorem exec_brc_divides (h : s.cur.takenLanes d ≠ 0) (h' : s.cur.mask &&& ~~~ s.cur.takenLanes d ≠ 0) :
    exec (.brc d b) s = .next (s.setCur { s.cur.landsAt (s.cur.branchTo b) with
      mask := s.cur.takenLanes d
      stack := .pending s.cur.nextPc (s.cur.mask &&& ~~~ s.cur.takenLanes d) s.cur.s s.cur.written false :: s.cur.stack }) := by
  obtain ⟨-, -, -, -, -, hreg, -⟩ := (State.plain_iff s).1 hp
  have hn := brcConds_nil hb hd ha hroom
  rw [← notTaken_eq] at h' ⊢
  exact issue_goTo (u := { s.cur with
      mask := s.cur.taken d
      stack := .pending s.cur.nextPc (s.cur.notTaken d) s.cur.s s.cur.written false :: s.cur.stack }) hp (controlSpec_conds hl 0) hn
    ((if_neg h).trans ((if_neg h').trans (if_neg (by simp [hreg])))) ⟨rfl, rfl, rfl⟩

end
end

/-- Settles O24: each branch lands where R115 to R117 put it. -/
theorem branchesTransferOrDivide : Obligations.BranchesTransferOrDivide := by
  unfold Obligations.BranchesTransferOrDivide
  refine ⟨fun s d b hp hl hb => ?_, fun s d b hp hl hb hd ha hroom => ?_⟩
  · intro aligned
    exact ⟨exec_br hp hl hb, exec_brany hp hl hb, exec_brall hp hl hb, exec_loop hp hl hb⟩
  · intro taken rest
    exact ⟨exec_brc_none hp hl hb hd ha hroom, exec_brc_all hp hl hb hd ha hroom, exec_brc_divides hp hl hb hd ha hroom⟩

end Sys2Proof.Machine
end

section
/-! SUPPORT. The start of a clause (R19–R24). -/

namespace Sys2Proof.Machine

/-- Words that the issuer reads one by one, without a change of the state, are fetched together. -/
theorem fetchWords_eq {s : State} {who : Nat × Nat} {core c : Nat} {ws : List Word} {va : DWord}
    (h : ∀ (k : Nat) (w : Word), ws[k]? = some w → s.fetchWord who core c (va + BitVec.ofNat 64 (4 * k)) = (s, .words [w])) :
    State.fetchWords who core c ws.length va s = (s, .words ws) := by
  induction ws generalizing va with
  | nil => rfl
  | cons w ws ih =>
    have hw : s.fetchWord who core c va = (s, .words [w]) := by simpa using h 0 w rfl
    have hrest : State.fetchWords who core c ws.length (va + 4) s = (s, .words ws) := by
      refine ih fun k x hx => ?_
      have hva : va + 4 + BitVec.ofNat 64 (4 * k) = va + BitVec.ofNat 64 (4 * (k + 1)) := by
        apply BitVec.eq_of_toNat_eq
        simp
        omega
      rw [hva]
      exact h (k + 1) x (by simpa using hx)
    simp only [List.length_cons, State.fetchWords, hw, hrest, List.singleton_append]

/-- A clause whose header keeps R19 is latched as memory holds it. -/
theorem fetchClause_eq {s : State} {who : Nat × Nat} {core c : Nat} {pc : DWord} {h : Word} {ws : List Word} (hh : headerOk h = true)
    (hn : ws.length = (h >>> 28).toNat + (h.extractLsb' 25 3).toNat)
    (hf : ∀ (k : Nat) (w : Word), (h :: ws)[k]? = some w → s.fetchWord who core c (pc + BitVec.ofNat 64 (4 * k)) = (s, .words [w])) :
    s.fetchClause who core c pc = (s, .clause (mkClause h ws)) := by
  have h1 : State.fetchWords who core c 1 pc s = (s, .words [h]) := by
    refine fetchWords_eq (ws := [h]) fun k w hw => ?_
    cases k with
    | zero => exact hf 0 w (by simpa using hw)
    | succ k => simp at hw
  have h2 : State.fetchWords who core c ws.length (pc + 4) s = (s, .words ws) := by
    refine fetchWords_eq fun k w hw => ?_
    have hva : pc + 4 + BitVec.ofNat 64 (4 * k) = pc + BitVec.ofNat 64 (4 * (k + 1)) := by
      apply BitVec.eq_of_toNat_eq
      simp
      omega
    rw [hva]
    exact hf (k + 1) w (by simpa using hw)
  have hlen : Clause.icnt ⟨h, [], []⟩ + Clause.lcnt ⟨h, [], []⟩ = ws.length := hn.symm
  simp only [State.fetchClause, h1, hh, Bool.not_true, Bool.false_eq_true, if_false, hlen, h2]

/-- The flags that a clause sets (R24). -/
theorem sets_getLsbD (c : Clause) {f : Nat} (hf : f < 12) :
    c.sets.getLsbD f = (decide (c.seta = f) || decide (c.setb = f)) := by
  have hone (k : Nat) : (if k < 12 then (1 : BitVec 12) <<< k else 0).getLsbD f = decide (k = f) := by
    split
    · have h : (¬ f < k ∧ f - k = 0) ↔ k = f := by omega
      simp only [BitVec.getLsbD_shiftLeft, hf, ← h, decide_true, Bool.true_and, Bool.decide_and, decide_not]
      simp
    · have : k ≠ f := by omega
      simp [this]
  simp only [Clause.sets, BitVec.getLsbD_or, hone]

/-- Without bindings there is nothing to observe. -/
theorem observe_unbound {s : State} (h : s.cur.bindings = []) : s.observe = s := by
  simp [State.observe, State.observed, h, State.setCur]

/-- Snapshots of uncached lines are not memory. -/
theorem dropSnaps_mem (s : State) : s.dropSnaps.mem = s.mem := by
  unfold State.dropSnaps
  split <;> rfl

/-- The clause that begins, for a team without bindings. -/
theorem beginClause_unbound {s : State} (c : Clause) (h : s.cur.bindings = []) :
    s.beginClause c = s.dropSnaps.setCur { s.cur with
      clause := some c, service := none, park := .running, flags := s.cur.flags ||| c.sets, resumed := false } := by
  simp only [State.beginClause]
  split
  · exact observe_unbound h
  · rfl

/-- A boundary with nothing against it begins the clause that memory holds. -/
theorem startTeamClause_begins {s : State} {c : Clause} (hs : s.cur.service = none) (hd : s.cur.duePending = none)
    (hi : s.cur.idx = 0) (hb : s.cur.bindings = []) (hc : c.icnt ≠ 0) (hw : c.wait &&& s.cur.flags = 0)
    (hf : s.fetchClause (0, s.cur.uid) s.curCore s.curCtxNum s.cur.pc = (s, .clause c)) :
    s.startTeamClause = s.beginClause c := by
  have hobs : s.obsWaits s.cur = false := by simp [State.obsWaits, hb]
  simp only [State.startTeamClause, hs, hd, hf]
  rw [if_neg (by omega), if_neg (fun h => h.2 hw), if_neg (by simp [hobs])]

/-- Settles O5: the words are fetched as they stand, and the clause begins. -/
theorem clauseStartLatchesWords : Obligations.ClauseStartLatchesWords := by
  unfold Obligations.ClauseStartLatchesWords
  intro s h ws hteam hmay hsv hdue hidx hb hh hlen hf hwait
  have hicnt : (mkClause h ws).icnt ≠ 0 := by
    simp only [headerOk, Bool.and_eq_true, decide_eq_true_eq] at hh
    exact hh.1.1.1.1
  have hbegin : exec .clauseStart s = .next (s.beginClause (mkClause h ws)) := by
    rw [← startTeamClause_begins hsv hdue hidx hb hicnt hwait (fetchClause_eq hh hlen hf)]
    change execClauseStart s = _
    simp only [execClauseStart, hteam, hmay, if_true]
  rw [beginClause_unbound _ hb] at hbegin
  refine ⟨_, hbegin, ⟨mkClause h ws, rfl, rfl, List.take_append_drop _ _, ?_⟩, fun f hf => ?_, rfl, hidx, rfl, rfl, rfl, rfl, dropSnaps_mem s⟩
  · simp only [mkClause, List.length_take]
    exact Nat.min_eq_left (by rw [hlen]; exact Nat.le_add_right _ _)
  · change (s.cur.flags ||| (mkClause h ws).sets).getLsbD f = _
    rw [BitVec.getLsbD_or, sets_getLsbD _ hf, Bool.or_assoc]
    rfl

end Sys2Proof.Machine
end

section
/-! SUPPORT. A team whose allotment exceeds the 96 registers of a lane (R13, R69), which `State.computes` does not exclude. -/

namespace Sys2Proof.Machine

/-- A team of one active lane under f32 that may write up to v99: an allotment that R69 gives to no team. Lane 1's v0 holds 5. -/
def overAllotted : Team :=
  { Team.absent with live := true, allot := 100, mask := 1, mode := 0x80010, v := [(vkey 1 0, 5)] }

/-- It issues. -/
def overAllottedState : State := { State.reset with cur := overAllotted }

/-- UNPK.I8 of v0 to v95 on writes four registers of lane 0, and the last three of them are lane 1's v0 to v2. -/
theorem unpk_overAllotted : overAllottedState.computes = true ∧
    (overAllotted.entry (.unpkI8 95 0 124)).map (fun e => (e.legal, e.d.toNat)) = some (true, 95) ∧
    overAllotted.vget 1 0 = 5 ∧
    (match exec (.unpkI8 95 0 124) overAllottedState with
      | .next t => t.cur.vget 1 0 == 0
      | _ => false) = true := by decide +kernel

/-- Refutes O19: with an allotment above 96 a run of registers goes beyond a lane's own, and UNPK writes a lane that does not
contribute. -/
theorem not_computeCompletesWithFrame : ¬ Obligations.ComputeCompletesWithFrame := by
  unfold Obligations.ComputeCompletesWithFrame
  intro h
  obtain ⟨hc, he, hv, hx⟩ := unpk_overAllotted
  obtain ⟨e, he, hl⟩ := Option.map_eq_some_iff.1 he
  simp only [Prod.mk.injEq] at hl
  obtain ⟨hlegal, hd⟩ := hl
  obtain ⟨t, ht, hf⟩ := (h overAllottedState (.unpkI8 95 0 124) e hc he).1 hlegal
  rw [ht] at hx
  have hkept : t.cur.vget 1 0 = 5 := (hf.vector 1 0 (by decide) (by omega)).trans hv
  simp [hkept] at hx

end Sys2Proof.Machine
end

section
/-! SUPPORT. The places that stage 1 and stage 2 find on this device (R140), and instructions that nothing of the device keeps back. -/

namespace Sys2Proof.Machine

/-! ## Kinds of locations (log entry 2) -/

/-- The kind of a location. -/
theorem locKind_mkLoc {k id off : Nat} (hk : k < 16) (ho : off < 2 ^ 60) : locKind (mkLoc k id off) = k := by
  simp only [locKind, mkLoc]
  omega

/-- The kinds of the places of a space: on this device none is in a member's window, and a store's own are scratchpad, slice and
segment. -/
def Placed (sp : Space) (loc : Nat) : Prop :=
  (onDevice sp = true → locKind loc ≠ 7) ∧ (sp = .store → 1 ≤ locKind loc ∧ locKind loc ≤ 3)

/-- A location of a kind. -/
theorem placed_of_kind {sp : Space} {k id off : Nat} (hk : k < 7) (hs : sp = .store → 1 ≤ k ∧ k ≤ 3) (ho : off < 2 ^ 60) :
    Placed sp (mkLoc k id off) := by
  rw [Placed, locKind_mkLoc (by omega) ho]
  exact ⟨fun _ => by omega, hs⟩

/-- A place in the window of a member elsewhere. -/
theorem placed_member (m loc : Nat) : Placed (.member m) loc := ⟨fun h => by simp [onDevice] at h, nofun⟩

/-- A leaf names no store of the device. -/
theorem leafSpace_ne_store (leaf : DWord) : leafSpace leaf ≠ .store := by
  unfold leafSpace
  split
  · simp
  · split <;> simp

/-- A physical address is below 2^48 (R356). -/
theorem leafPa_lt (leaf : DWord) (level : Nat) (va : DWord) : leafPa leaf level va < 2 ^ 49 := by
  have he : entryPa leaf < 2 ^ 48 := by
    have := (leaf.extractLsb' 12 36).isLt
    simp only [entryPa]
    omega
  have hn : 0 < pageBytes leaf level ∧ pageBytes leaf level ≤ 2 ^ 30 := by
    unfold pageBytes
    split
    · decide
    · decide
    · split <;> decide
  have hm : va.toNat % pageBytes leaf level < pageBytes leaf level := Nat.mod_lt _ hn.1
  have hd : entryPa leaf / pageBytes leaf level * pageBytes leaf level ≤ entryPa leaf := Nat.div_mul_le_self _ _
  simp only [leafPa]
  omega

/-- The place of a leaf. -/
theorem placed_leaf (leaf : DWord) (level : Nat) (va : DWord) : Placed (leafSpace leaf) (leafLoc leaf level va) := by
  have h := leafPa_lt leaf level va
  unfold leafLoc
  split
  · exact placed_of_kind (by decide) (fun hs => absurd hs (leafSpace_ne_store leaf)) (by omega)
  · refine ⟨fun _ => ?_, fun hs => absurd hs (leafSpace_ne_store leaf)⟩
    simp only [locKind]
    omega

/-- A place of the hank window. -/
theorem hankPlace_placed {s : State} {t : Team} {w : Wg} {off size : Nat} {sp : Space} {loc : Nat}
    (h : s.hankPlace t w off size = .ok (.direct sp loc)) : Placed sp loc := by
  have ho : off % 0x1000000 < 2 ^ 60 := by omega
  unfold State.hankPlace at h
  split at h
  · cases h
  · dsimp only at h
    split at h
    · cases h
    · split at h
      · split at h
        · cases h
          exact placed_of_kind (by decide) (fun _ => by decide) ho
        · cases h
          exact placed_member _ _
      · cases h
        exact placed_member _ _

/-- The place that stage 1 gives in a window. -/
theorem stage1_placed {s : State} {t : Team} {lane size : Nat} {va : DWord} {need : Need} {sp : Space} {loc : Nat} (hl : lane < 1024)
    (h : s.stage1 t lane va size need = .ok (.direct sp loc)) : Placed sp loc := by
  revert h
  fun_cases State.stage1 s t lane va size need
  case case20 => exact hankPlace_placed
  all_goals rintro ⟨⟩
  case case5 hoff _ => exact placed_of_kind (by decide) (fun _ => by decide) (by omega)
  case case7 => exact placed_of_kind (by decide) (fun _ => by decide) (Nat.lt_trans (Nat.mod_lt _ (by decide)) (by decide))
  case case12 => exact placed_of_kind (by decide) (fun _ => by decide) (Nat.lt_trans (Nat.mod_lt _ (by decide)) (by decide))
  case case16 => exact placed_of_kind (by decide) nofun (Nat.lt_trans (Nat.mod_lt _ (by decide)) (by decide))
  case case18 => exact placed_of_kind (by decide) nofun (Nat.lt_trans (Nat.mod_lt _ (by decide)) (by decide))

/-- The place that a leaf's permissions leave. -/
theorem leafSite_placed {leaf va : DWord} {level : Nat} {need : Need} {x : Bool} {sp : Space} {loc : Nat}
    (h : leafSite leaf level va need x = .at_ sp loc) : Placed sp loc := by
  unfold leafSite at h
  dsimp only at h
  split at h
  · cases h
  · split at h
    · cases h
    · cases h
      exact placed_leaf leaf level va

/-- The place that a translation gives. -/
theorem translate_placed {s : State} {c : Nat} {va : DWord} {need : Need} {x : Bool} {sp : Space} {loc : Nat}
    (h : (s.translate c va need x).2 = .at_ sp loc) : Placed sp loc := by
  revert h
  fun_cases State.translate s c va need x
  case case1 | case4 | case5 => rintro ⟨⟩
  all_goals exact leafSite_placed

/-- The place that stage 2 gives. -/
theorem stage2_placed {s : State} {c : Nat} {wg : Option Wg} {pre : Pre} {size : Nat} {need : Need} {sp : Space} {loc : Nat}
    (hpre : ∀ sp loc, pre = .direct sp loc → Placed sp loc) (h : (s.stage2 c wg pre size need).2 = .at_ sp loc) : Placed sp loc := by
  revert h
  fun_cases State.stage2 s c wg pre size need
  case case1 => rintro ⟨⟩
  case case2 => exact fun h => hpre sp loc (by cases h; rfl)
  case case3 poisonCheck _ _ _ =>
    intro h
    simp only [poisonCheck] at h
    split at h
    · cases h
    · exact hpre sp loc (by cases h; rfl)
  case case4 poisonCheck _ _ =>
    intro h
    simp only [poisonCheck] at h
    split at h
    · split at h
      · cases h
      · exact translate_placed h
    · exact translate_placed h

/-- The places of a list of accesses. -/
theorem sites_placed {s : State} {need : Need} {acc : List (Nat × DWord × Nat)} (hl : ∀ x ∈ acc, x.1 < 1024) :
    ∀ y ∈ (State.sites need acc s).2, ∀ sp loc, y.2 = .at_ sp loc → Placed sp loc := by
  induction acc generalizing s with
  | nil => simp [State.sites]
  | cons x xs ih =>
    simp only [State.sites, List.mem_cons]
    rintro y (rfl | hy) sp loc h
    · refine stage2_placed (fun sp loc hpre => ?_) h
      unfold State.preOf at hpre
      split at hpre
      next p hp => exact stage1_placed (hl x (by simp)) (hp.trans (congrArg _ hpre))
      next => cases hpre
    · exact ih (fun z hz => hl z (by simp [hz])) y hy sp loc h

/-- The kinds of the places that accesses reach. -/
theorem placed_kinds {s : State} {need : Need} {acc : List (Nat × DWord × Nat)} {f : Nat → Space × Nat}
    (hp : s.placed need acc f) (hl : ∀ x ∈ acc, x.1 < 1024) : ∀ x ∈ acc, Placed (f x.1).1 (f x.1).2 := by
  obtain ⟨-, hs, -⟩ := hp
  intro x hm
  refine sites_placed (s := s) (need := need) hl (x.1, .at_ (f x.1).1 (f x.1).2) ?_ _ _ rfl
  rw [hs]
  exact List.mem_map.2 ⟨x, hm, rfl⟩

/-- No place that accesses reach on this device is in the window of a member elsewhere. -/
theorem placed_not_farMember {s : State} {need : Need} {acc : List (Nat × DWord × Nat)} {f : Nat → Space × Nat}
    (hp : s.placed need acc f) (hl : ∀ x ∈ acc, x.1 < 1024) : ∀ x ∈ acc, s.farMember (f x.1).2 = false := by
  intro x hm
  obtain ⟨-, -, hx⟩ := id hp
  have h7 : locKind (f x.1).2 ≠ 7 := by
    exact (placed_kinds hp hl x hm).1 (hx x hm).1
  simp [State.farMember, h7]

end Sys2Proof.Machine
end

section
/-! SUPPORT. What stores change beside memory (R137, R157, R192), and the table walks that they leave alone. -/

namespace Sys2Proof.Machine

/-! ## Marks of bindings and read sets (R157, R270) -/

/-- A change of teams that touches their bindings and read sets only. -/
def MarksOnly (f : Team → Team) : Prop := ∀ t, ∃ b r, f t = { t with bindings := b, region := r }

/-- No change. -/
theorem MarksOnly.id : MarksOnly (fun t => t) := fun _ => ⟨_, _, rfl⟩

/-- One change after another. -/
theorem MarksOnly.comp {f g : Team → Team} (hf : MarksOnly f) (hg : MarksOnly g) : MarksOnly (fun t => g (f t)) := by
  intro t
  obtain ⟨b, r, h⟩ := hf t
  obtain ⟨b', r', h'⟩ := hg (f t)
  exact ⟨b', r', h'.trans (by rw [h])⟩

/-- A change under a test. -/
theorem MarksOnly.ite {f g : Team → Team} {p : Team → Bool} (hf : MarksOnly f) (hg : MarksOnly g) :
    MarksOnly (fun t => if p t then f t else g t) := by
  intro t
  dsimp only
  split
  · exact hf t
  · exact hg t

/-- PEND. -/
theorem marksOnly_bindings (lines : List Nat) (team : Nat) (own : Option Nat) : MarksOnly (markBindings lines team own) :=
  fun _ => ⟨_, _, rfl⟩

/-- Read sets. -/
theorem marksOnly_regions (lines : List Nat) : MarksOnly (markRegions lines) := fun _ => ⟨_, _, rfl⟩

/-- Notices. -/
theorem marksOnly_notices (lines : List Nat) : MarksOnly (settleNotices lines) := fun _ => ⟨_, _, rfl⟩

/-- PEND and notices. -/
theorem marksOnly_notice (lines : List Nat) (team : Nat) (own : Option Nat) : MarksOnly (noticeBindings lines team own) :=
  fun _ => ⟨_, _, rfl⟩

/-! ## States that differ by stores on their way -/

/-- Contexts with the same tables and lane backing. -/
def SameTables (cs ds : List (Nat × Context)) : Prop :=
  ∀ c, (tget Context.reset ds c).lbase = (tget Context.reset cs c).lbase ∧
    (tget Context.reset ds c).ptroot = (tget Context.reset cs c).ptroot

/-- A state that stores of the issuing team have led to: memory, poison, the store path, notices, and marks. -/
def Stored (s t : State) : Prop := ∃ mem poison ctxs f path msgs, MarksOnly f ∧ SameTables s.ctxs ctxs ∧
  t = { s with
    mem := mem, poison := poison, ctxs := ctxs, cur := f s.cur, others := s.others.map f, path := path
    coh := { s.coh with msgs := msgs } }

/-- No change. -/
theorem Stored.refl (s : State) : Stored s s :=
  ⟨s.mem, s.poison, s.ctxs, fun t => t, s.path, s.coh.msgs, .id, fun _ => ⟨rfl, rfl⟩, by simp⟩

/-- One after another. -/
theorem Stored.trans {s t u : State} (h : Stored s t) (k : Stored t u) : Stored s u := by
  obtain ⟨_, _, _, f, _, _, hf, hc, rfl⟩ := h
  obtain ⟨mem, poison, ctxs, g, path, msgs, hg, hd, rfl⟩ := k
  refine ⟨mem, poison, ctxs, fun t => g (f t), path, msgs, hf.comp hg, fun c => ?_, ?_⟩
  · exact ⟨(hd c).1.trans (hc c).1, (hd c).2.trans (hc c).2⟩
  · simp [Function.comp_def]

/-- A write to memory. -/
theorem stored_writeMem (s : State) (cells : List Host.Cell) : Stored s (s.writeMem cells) :=
  ⟨_, _, s.ctxs, fun t => t, s.path, s.coh.msgs, .id, fun _ => ⟨rfl, rfl⟩, by simp only [State.writeMem, List.map_id']; rfl⟩

/-- The store path. -/
theorem stored_path (s : State) (es : List StoreEntry) : Stored s { s with path := es } :=
  ⟨s.mem, s.poison, s.ctxs, fun t => t, es, s.coh.msgs, .id, fun _ => ⟨rfl, rfl⟩, by simp⟩

/-- Marks. -/
theorem stored_mapTeams (s : State) {f : Team → Team} (hf : MarksOnly f) : Stored s (s.mapTeams f) :=
  ⟨s.mem, s.poison, s.ctxs, f, s.path, s.coh.msgs, hf, fun _ => ⟨rfl, rfl⟩, rfl⟩

/-- Notices. -/
theorem stored_msgs (s : State) (msgs : List Msg) : Stored s { s with coh := { s.coh with msgs := msgs } } :=
  ⟨s.mem, s.poison, s.ctxs, fun t => t, s.path, msgs, .id, fun _ => ⟨rfl, rfl⟩, by simp⟩

/-- Contexts whose bindings of TAIL a write reaches keep their tables. -/
theorem sameTables_tail (cs : List (Nat × Context)) (p : Nat × Context → Bool) :
    SameTables cs (cs.map (fun e => if p e then (e.1, { e.2 with tailPend := true }) else e)) := by
  intro c
  induction cs with
  | nil => exact ⟨rfl, rfl⟩
  | cons e cs ih =>
    simp only [List.map_cons]
    split
    all_goals
      simp only [tget]
      split
      · exact ⟨rfl, rfl⟩
      · exact ih

/-- What a write reaches. -/
theorem stored_reach (s : State) (cells : List Host.Cell) (team : Nat) (own : Option Nat) (skip : List Nat) :
    Stored s (s.reach cells team own skip) := by
  have hmarks : MarksOnly (fun t => if skip.contains (s.teamCore t) then settleNotices (linesOf cells) t
      else markRegions (linesOf cells) (markBindings (linesOf cells) team own t)) :=
    MarksOnly.ite (marksOnly_notices _) ((marksOnly_bindings _ _ _).comp (marksOnly_regions _))
  exact ⟨s.mem, s.poison, _, _, s.path, s.coh.msgs, hmarks,
    sameTables_tail s.ctxs (fun e => (e.2.tail.map lineOf).any (fun l => (linesOf cells).contains l)), rfl⟩

/-- A write performed. -/
theorem stored_perform (s : State) (cells : List Host.Cell) (team : Nat) (own : Option Nat) (skip : List Nat) :
    Stored s (s.perform cells team own skip) := (stored_writeMem s cells).trans (stored_reach _ cells team own skip)

/-- What a write on its way reaches in its core. -/
theorem stored_reachCore (s : State) (core : Nat) (cells : List Host.Cell) (team : Nat) (own : Option Nat) (who : Team → Bool) :
    Stored s (s.reachCore core cells team own who) := by
  have hmarks : MarksOnly (fun t => if (s.teamCore t == core && who t) = true then
      (let t := noticeBindings (linesOf cells) team own t
       if t.uid == team then t else markRegions (linesOf cells) t) else t) := by
    refine MarksOnly.ite (p := fun t => s.teamCore t == core && who t) ?_ .id
    exact (marksOnly_notice _ _ _).comp (MarksOnly.ite (p := fun t => t.uid == team) .id (marksOnly_regions _))
  unfold State.reachCore
  dsimp only
  split
  · exact stored_mapTeams s hmarks
  · exact (stored_mapTeams s hmarks).trans (stored_msgs _ _)

/-! ## What such states have in common -/

section
variable {s t : State} (h : Stored s t)
include h

/-- The issuing team, but for its marks. -/
theorem Stored.cur : ∃ b r, t.cur = { s.cur with bindings := b, region := r } := by
  obtain ⟨_, _, _, f, _, _, hf, -, rfl⟩ := h
  exact hf s.cur

/-- Accesses on their way, beside the store path. -/
theorem Stored.accesses : t.loads = s.loads ∧ t.xfers = s.xfers ∧ t.coh.reqs = s.coh.reqs ∧ t.coh.txns = s.coh.txns ∧
    t.fab = s.fab ∧ t.nextSeq = s.nextSeq := by
  obtain ⟨_, _, _, f, _, _, -, -, rfl⟩ := h
  exact ⟨rfl, rfl, rfl, rfl, rfl, rfl⟩

/-- A team by its name, but for its marks. -/
theorem Stored.team? (u : Nat) : ∃ f, MarksOnly f ∧ t.team? u = (s.team? u).map f := by
  obtain ⟨_, _, _, f, _, _, hf, -, rfl⟩ := h
  refine ⟨f, hf, ?_⟩
  have hk : (fun t : Team => t.live && t.uid == u) ∘ f = fun t => t.live && t.uid == u := by
    funext t
    obtain ⟨b, r, ht⟩ := hf t
    simp [ht]
  simp only [State.team?, State.teams]
  rw [← List.map_cons, List.find?_map, hk]

/-- The core and the context of the issuing team. -/
theorem Stored.curCore : t.curCore = s.curCore ∧ t.curCtxNum = s.curCtxNum ∧ t.wgs = s.wgs := by
  obtain ⟨b, r, hc⟩ := h.cur
  have hw : t.wgs = s.wgs := by
    obtain ⟨_, _, _, f, _, _, -, -, rfl⟩ := h
    rfl
  simp only [State.curCore, State.curCtxNum, State.curWg, State.wg?, hw, hc, and_self]

end

end Sys2Proof.Machine
end

section
/-! SUPPORT. Writes to the device's own stores leave the tables alone (R356), and with them where each byte stands (R193). -/

namespace Sys2Proof.Machine

/-! ## Table walks -/

/-- The bytes of physical addresses are the same. -/
def SameLow (s t : State) : Prop := ∀ a, a < 2 ^ 60 → cellAt t.mem a = cellAt s.mem a

/-- Bytes of a range. -/
theorem cellBytes_congr {m m' : List Host.Cell} {loc n : Nat} (h : ∀ a, loc ≤ a → a < loc + n → cellAt m' a = cellAt m a) :
    cellBytes m' loc n = cellBytes m loc n := by
  induction n generalizing loc with
  | zero => rfl
  | succ n ih =>
    rw [cellBytes, cellBytes, h loc (le_refl _) (by omega), ih fun a h1 h2 => h a (by omega) (by omega)]

/-- A number at a physical address. -/
theorem SameLow.cellNat {s t : State} (h : SameLow s t) {loc n : Nat} (hn : loc + n ≤ 2 ^ 60) :
    cellNat t.mem loc n = cellNat s.mem loc n := by
  rw [Sys2Proof.Machine.cellNat, Sys2Proof.Machine.cellNat, cellBytes_congr fun a _ h2 => h a (by omega)]

/-- An address indexes a table of at most 2^18 entries. -/
theorem levelIndex_lt (va : DWord) (level : Nat) : levelIndex va level < 2 ^ 18 := by
  unfold levelIndex
  split
  · exact (va.extractLsb' 39 18).isLt
  · have := (va.extractLsb' 30 9).isLt; omega
  · have := (va.extractLsb' 21 9).isLt; omega
  · have := (va.extractLsb' 12 9).isLt; omega

/-- An entry is checked by what stands at physical addresses. -/
theorem badEntry_congr {s t : State} (h : SameLow s t) (hb : ∀ pa n, t.backed pa n = s.backed pa n) {e : DWord} {level at_ : Nat}
    (ha : at_ < 2 ^ 59) : t.badEntry e level at_ = s.badEntry e level at_ := by
  have hg : ((List.range 16).all fun i => decide (groupBits (BitVec.ofNat 64 (cellNat t.mem (at_ / 128 * 128 + 8 * i) 8)) = groupBits e)) =
      (List.range 16).all fun i => decide (groupBits (BitVec.ofNat 64 (cellNat s.mem (at_ / 128 * 128 + 8 * i) 8)) = groupBits e) := by
    rw [Bool.eq_iff_iff, List.all_eq_true, List.all_eq_true]
    refine forall₂_congr fun i hi => ?_
    have := List.mem_range.1 hi
    rw [h.cellNat (by omega)]
  simp only [State.badEntry, hb]
  rw [hg]

/-- A walk from a table at a physical address reads what stands at physical addresses. -/
theorem walkFrom_congr {s t : State} (h : SameLow s t) (hb : ∀ pa n, t.backed pa n = s.backed pa n) (va : DWord)
    (left level table : Nat) (ht : table < 2 ^ 48) : t.walkFrom va left level table = s.walkFrom va left level table := by
  induction left generalizing level table with
  | zero =>
    have hi := levelIndex_lt va level
    unfold State.walkFrom
    simp only [h.cellNat (show table + 8 * levelIndex va level + 8 ≤ 2 ^ 60 by omega),
      badEntry_congr h hb (show table + 8 * levelIndex va level < 2 ^ 59 by omega)]
  | succ n ih =>
    have hi := levelIndex_lt va level
    have hpa (e : DWord) : entryPa e < 2 ^ 48 := by
      have := (e.extractLsb' 12 36).isLt
      simp only [entryPa]
      omega
    unfold State.walkFrom
    simp only [h.cellNat (show table + 8 * levelIndex va level + 8 ≤ 2 ^ 60 by omega),
      badEntry_congr h hb (show table + 8 * levelIndex va level < 2 ^ 59 by omega), ih _ _ (hpa _)]

section
variable {s t : State} (h : Stored s t) (hl : SameLow s t)
include h hl

/-- Walks after stores to the device's own stores. -/
theorem Stored.walk (c : Nat) (va : DWord) : t.walk c va = s.walk c va := by
  obtain ⟨_, _, _, f, _, _, -, hc, rfl⟩ := h
  have hr := (hc c).2
  simp only [State.walk, State.ctx] at hr ⊢
  rw [hr]
  exact walkFrom_congr hl (fun _ _ => rfl) va 3 0 _ (BitVec.isLt _)

/-- Bytes stand where they stood. -/
theorem Stored.storePlace (loc : Nat) : t.storePlace loc = s.storePlace loc := by
  obtain ⟨f, hf, hteam⟩ := h.team? (locId loc)
  have hwalk := h.walk hl
  obtain ⟨_, _, _, f', _, _, -, hc, ht⟩ := h
  have hw (u : Nat) : t.wg? u = s.wg? u := by rw [ht]; rfl
  have ht' (c : Nat) (va : DWord) : t.tlbEntry c va = s.tlbEntry c va := by rw [ht]; rfl
  have hb (c : Nat) : (t.ctx c).lbase = (s.ctx c).lbase := by
    rw [ht]
    exact (hc c).1
  simp only [State.storePlace, hteam, hw, ht', hb, hwalk]
  cases s.team? (locId loc) with
  | none => rfl
  | some u =>
    obtain ⟨b, r, hu⟩ := hf u
    simp only [Option.map_some, hu]

end

/-! ## Writes that enter (R137, R192) -/

/-- Loads of a team that have their values are not performed again. -/
theorem forceLoads_done {team loc size : Nat} {ls : List Load} {s : State} (h : ∀ l ∈ ls, l.team = team → l.value ≠ none) :
    State.forceLoads team loc size ls s = s := by
  induction ls with
  | nil => rfl
  | cons l ls ih =>
    have hl : (l.team == team && l.value.isNone) = false := by
      by_cases hu : l.team = team
      · obtain ⟨v, hv⟩ := Option.ne_none_iff_exists'.1 (h l (by simp) hu)
        simp [hv]
      · simp [hu]
    rw [State.forceLoads, if_neg, ih fun x hx => h x (by simp [hx])]
    intro hc
    simp only [Bool.and_eq_true] at hc
    obtain ⟨⟨⟨⟨⟨⟨h1, -⟩, h2⟩, -⟩, -⟩, -⟩, -⟩ := hc
    simp [h1, h2] at hl

/-- The accesses before a place in program order, while the store path holds later ones only. -/
theorem Stored.accessesDone {s t : State} (h : Stored s t) (hp : s.path = []) {seq : Nat}
    (hq : ∀ e ∈ t.path, ∀ g ∈ e.tags, seq ≤ g.seq) (team scope : Nat) :
    t.accessesDone team seq scope = s.accessesDone team seq scope := by
  obtain ⟨hloads, -, hreqs, htxns, hfab, -⟩ := h.accesses
  have hpath : (t.path.flatMap StoreEntry.tags).any (fun g => g.team == team && decide (g.seq < seq)) = false := by
    simp only [List.any_eq_false, List.mem_flatMap]
    rintro g ⟨e, he, hg⟩
    simp [Nat.not_lt.2 (hq e he g hg)]
  have hopen : t.openTags.any (fun g => g.team == team && decide (g.seq < seq)) = false := by
    simp only [State.openTags, List.any_eq_false, List.mem_flatMap, List.mem_filter]
    rintro g ⟨e, ⟨he, -⟩, hg⟩
    simp [Nat.not_lt.2 (hq e he g hg)]
  have hopen' : s.openTags = [] := by simp [State.openTags, hp]
  simp only [State.accessesDone, hloads, hopen, hopen', State.pendingTags, List.any_append, hpath, hp, hreqs, htxns, State.peerTags,
    hfab, List.flatMap_nil, List.any_nil]

/-- What holds a team's write back, where no fence does: the release itself. -/
theorem Stored.holdOf {s t : State} (h : Stored s t) (hlive : s.cur.live = true) (hf : s.cur.fencer = []) (hp : s.path = [])
    {seq : Nat} (hq : ∀ e ∈ t.path, ∀ g ∈ e.tags, seq ≤ g.seq) (release : Bool) (scope : Nat) :
    t.holdOf s.cur.uid seq (if release then some scope else none) =
      if release && !s.accessesDone s.cur.uid seq scope then [(seq, scope)] else [] := by
  obtain ⟨f, hmf, hteam⟩ := h.team? s.cur.uid
  have hs : s.team? s.cur.uid = some s.cur := by simp [State.team?, State.teams, hlive]
  have hfence : (f s.cur).fencer = [] := by
    obtain ⟨b, r, hc⟩ := hmf s.cur
    rw [hc]
    exact hf
  simp only [State.holdOf, hteam, hs, Option.map_some, Option.getD_some, hfence, List.filter_nil, List.nil_append]
  cases release
  · rfl
  · simp only [if_true, Option.map_some, Option.toList_some, List.filter_cons, List.filter_nil, Bool.true_and,
      h.accessesDone hp hq]

end Sys2Proof.Machine
end

section
/-! SUPPORT. How the stores of an instruction enter (R135, R137, R192). -/

namespace Sys2Proof.Machine

/-! ## The order of lanes -/

/-- The order that hardware chooses is one of the same items. -/
theorem pickOrder_perm {α : Type} (fresh n : Nat) (l : List α) : (pickOrder fresh n l).Perm l := by
  induction n generalizing l with
  | zero => exact .refl l
  | succ n ih =>
    unfold pickOrder
    split
    · exact .refl _
    · exact .refl _
    · next x xs _ =>
      dsimp only
      split
      next y hy =>
        obtain ⟨hk, rfl⟩ := List.getElem?_eq_some_iff.1 hy
        exact ((ih _).cons _).trans (List.getElem_cons_eraseIdx_perm hk)
      next => exact (ih xs).cons x

/-- The order in which lane stores take effect. -/
theorem storeOrder_perm (s : State) (xs : List (LaneStore × Site)) : (s.storeOrder xs).Perm xs := by
  unfold State.storeOrder
  dsimp only
  split
  · exact pickOrder_perm _ _ _
  · exact .refl _

/-! ## Room in the store path (R192) -/

/-- No item is left twice. -/
theorem nodup_eraseDups {α : Type} [BEq α] [LawfulBEq α] (l : List α) : l.eraseDups.Nodup := by
  induction hn : l.length using Nat.strong_induction_on generalizing l with
  | _ n ih =>
    cases l with
    | nil => simp
    | cons a l =>
      rw [List.eraseDups_cons, List.nodup_cons]
      have hlen : (l.filter (fun b => !b == a)).length < n := by
        rw [← hn]
        exact Nat.lt_succ_of_le (List.length_filter_le _ _)
      exact ⟨by simp [List.mem_eraseDups], ih _ hlen _ rfl⟩

/-- Items among those of another list are not more. -/
theorem length_eraseDups_le {α : Type} [BEq α] [LawfulBEq α] {l m : List α} (h : ∀ a ∈ l, a ∈ m) :
    l.eraseDups.length ≤ m.eraseDups.length :=
  (nodup_eraseDups l).length_le_of_subset fun _ ha => List.mem_eraseDups.2 (h _ (List.mem_eraseDups.1 ha))

/-- The line that a store needs in the path: none in a store of the device. -/
def pathLineOf (site : Site) : Option Nat :=
  match site with
  | .at_ .store _ => none
  | .at_ .opBuf _ => none
  | .at_ _ loc => some (lineOf loc)
  | _ => none

/-- One store more is taken in where its line fits. -/
theorem fitPath_cons (lines : List Nat) (x : LaneStore × Site) (xs : List (LaneStore × Site)) : fitPath lines (x :: xs) =
    if Config.storePath < ((lines ++ (pathLineOf x.2).toList).eraseDups).length then ([], x :: xs)
    else (x :: (fitPath ((lines ++ (pathLineOf x.2).toList).eraseDups) xs).1,
      (fitPath ((lines ++ (pathLineOf x.2).toList).eraseDups) xs).2) := rfl

/-- Stores whose lines fit the path are taken in together. -/
theorem fitPath_all {lines all : List Nat} {xs : List (LaneStore × Site)} (ha : all.eraseDups.length ≤ 64) (hl : ∀ n ∈ lines, n ∈ all)
    (hx : ∀ x ∈ xs, ∀ n ∈ pathLineOf x.2, n ∈ all) : fitPath lines xs = (xs, []) := by
  induction xs generalizing lines with
  | nil => rfl
  | cons x xs ih =>
    have hsub : ∀ n ∈ lines ++ (pathLineOf x.2).toList, n ∈ all := by
      intro n hn
      rcases List.mem_append.1 hn with hn | hn
      · exact hl n hn
      · exact hx x (by simp) n (by simpa using hn)
    have hroom : ¬ Config.storePath < ((lines ++ (pathLineOf x.2).toList).eraseDups).length := by
      have := length_eraseDups_le hsub
      simp only [Config.storePath]
      omega
    have hrest := ih (lines := (lines ++ (pathLineOf x.2).toList).eraseDups) (fun n hn => hsub n (List.mem_eraseDups.1 hn))
      (fun y hy => hx y (by simp [hy]))
    rw [fitPath_cons, if_neg hroom, hrest]

/-! ## The body of a store whose places are known -/

/-- The lane stores with the places that they reach. -/
def sited (f : Nat → Space × Nat) (xs : List LaneStore) : List (LaneStore × Site) :=
  xs.map (fun x => (x, .at_ (f x.lane).1 (f x.lane).2))

/-- Sites without fault complete an instruction. -/
theorem afterSites_done {s : State} {need : Need} {scalar : Bool} {rs : List (Nat × Site)} (h : ∀ r ∈ rs, r.2.ok = true) :
    s.afterSites need scalar rs = .done s := by
  have hf : rs.filter (fun f => !f.2.ok) = [] := List.filter_eq_nil_iff.2 fun r hr => by simp [h r hr]
  simp only [State.afterSites, hf, if_true]

/-- Nothing of the device keeps a store back. -/
theorem mustWait_write {s : State} {ps : List (Nat × Nat × Nat)} (hx : s.xfers = [])
    (hl : ∀ x ∈ s.loads, x.team = s.cur.uid → x.value ≠ none)
    (hp : ∀ p ∈ ps, s.memberStopped p.2.1 = false ∧ s.drained p.2.1 = false) : s.mustWait .write ps = false := by
  simp only [State.mustWait, List.any_eq_false]
  intro p hm
  obtain ⟨h1, h2⟩ := hp p hm
  have hload : (s.loads.any fun l => l.team == s.cur.uid && l.value.isNone && l.kind.reads && !l.space.remote &&
      overlaps l.loc l.size p.2.1 p.2.2 && !s.loadReady l) = false := by
    rw [List.any_eq_false]
    intro l hlm
    by_cases hu : l.team = s.cur.uid
    · obtain ⟨v, hv⟩ := Option.ne_none_iff_exists'.1 (hl l hlm hu)
      simp [hv]
    · simp [hu]
  have hr : (Touch.write == Touch.read) = false := by decide
  have hm : (Touch.write == Touch.rmw) = false := by decide
  simp only [h1, h2, State.copyAhead, hx, List.any_nil, hload, hr, hm, Bool.false_and, Bool.or_self, Bool.false_eq_true, not_false_eq_true]

/-- A team that runs does not stop waiting. -/
theorem unpark_of_running {s : State} (h : s.cur.park = .running) : s.unpark = s := by
  have hc : { s.cur with park := .running } = s.cur := by rw [← h]
  rw [State.unpark, hc]
  rfl

section
variable {s : State} {release : Bool} {d : Code} {xs : List LaneStore} {f : Nat → Space × Nat} {all : List Nat}
  (hq : s.quiet) (hk : s.cur.park = .running) (hreg : s.cur.inRegion = false) (hp : s.placed Need.store (storeAccesses xs) f)
  (hl : ∀ x ∈ xs, x.lane < 1024) (ha : all.eraseDups.length ≤ 64)
  (hfit : ∀ x ∈ xs, ∀ n ∈ pathLineOf (.at_ (f x.lane).1 (f x.lane).2), n ∈ all)
include hq hk hreg hp hl ha hfit

/-- The stores enter one after another, and the instruction completes. -/
theorem runStores_enters (hne : xs ≠ []) : s.runStores release Need.store d xs =
    .done (State.enterStores s.nextSeq release (s.storeOrder (sited f xs)) s.takeSeq).draw := by
  obtain ⟨hx, hloads, hpath, -, -, hthrough⟩ := hq
  obtain ⟨-, hsites, hplace⟩ := id hp
  have hfar := placed_not_farMember hp (by simpa [storeAccesses] using hl)
  have hlines : s.pathLines s.curCore = [] := by simp [State.pathLines, hpath, hthrough]
  have hsites' : State.sites Need.store (storeAccesses xs) s = (s, xs.map (fun x => (x.lane, .at_ (f x.lane).1 (f x.lane).2))) := by
    rw [hsites, storeAccesses, List.map_map]
    rfl
  have hpairs : xs.zip ((xs.map (fun x => (x.lane, Site.at_ (f x.lane).1 (f x.lane).2))).map (fun x => x.2)) = sited f xs := by
    rw [List.map_map]
    exact List.map_prod_left_eq_zip.symm
  have hwait : s.mustWait .write (placesOf (storeAccesses xs) (xs.map (fun x => (x.lane, .at_ (f x.lane).1 (f x.lane).2)))) = false := by
    refine mustWait_write hx (fun l hlm => (hloads l hlm).2) fun p hm => ?_
    rw [placesOf, storeAccesses, List.zip_map', List.mem_filterMap] at hm
    obtain ⟨_, hy, hp⟩ := hm
    obtain ⟨x, hxm, rfl⟩ := List.mem_map.1 hy
    cases hp
    obtain ⟨-, hstop, hdrain, -⟩ := hplace _ (List.mem_map.2 ⟨x, hxm, rfl⟩)
    exact ⟨hstop, hdrain⟩
  have hcheck : s.farCheck (lanePlaces (storeAccesses xs) (xs.map (fun x => (x.lane, .at_ (f x.lane).1 (f x.lane).2)))) = none := by
    have hnone : (lanePlaces (storeAccesses xs) (xs.map (fun x => (x.lane, .at_ (f x.lane).1 (f x.lane).2)))).filter
        (fun w => s.farMember w.2.1) = [] := by
      rw [List.filter_eq_nil_iff]
      intro p hm
      rw [lanePlaces, storeAccesses, List.zip_map', List.mem_filterMap] at hm
      obtain ⟨_, hy, hp⟩ := hm
      obtain ⟨x, hxm, rfl⟩ := List.mem_map.1 hy
      cases hp
      simp [hfar _ (List.mem_map.2 ⟨x, hxm, rfl⟩)]
    simp [State.farCheck, hnone]
  have hall : fitPath [] (s.storeOrder (sited f xs)) = (s.storeOrder (sited f xs), []) := by
    refine fitPath_all ha (by simp) fun x hm => ?_
    obtain ⟨y, hy, rfl⟩ := List.mem_map.1 ((storeOrder_perm s _).subset hm)
    exact hfit y hy
  have hfull : ¬ (decide (Config.storePath ≤ ([] : List Nat).length) || false) = true := by decide
  have hdone (t : State) : t.afterSites Need.store false (xs.map (fun x => (x.lane, .at_ (f x.lane).1 (f x.lane).2))) = .done t :=
    afterSites_done fun r hr => by
      obtain ⟨x, -, rfl⟩ := List.mem_map.1 hr
      rfl
  simp only [State.runStores, if_neg hne, hsites', hreg, Bool.false_eq_true, if_false, hwait, hcheck, Option.getD_none, hpairs,
    unpark_of_running hk, hlines, if_neg hfull, hall, if_true, hdone]

end

end Sys2Proof.Machine
end

section
/-! SUPPORT. One store after another enters: at its place, or in the store path (R137, R192). -/

namespace Sys2Proof.Machine

/-! ## Merging (R192) -/

/-- A store that merges does so into one entry, which takes it. -/
theorem mergePath_some {x : StoreEntry} {es r : List StoreEntry} (h : mergePath x es = some r) :
    ∃ l e m, es = l ++ e :: m ∧ e.takes x = true ∧ r = l ++ e.merge x :: m := by
  induction es generalizing r with
  | nil => cases h
  | cons e es ih =>
    unfold mergePath at h
    split at h
    · split at h
      next ht =>
        cases h
        exact ⟨[], e, es, rfl, ht, rfl⟩
      next => cases h
    · obtain ⟨r', hr, rfl⟩ := Option.map_eq_some_iff.1 h
      obtain ⟨l, e', m, rfl, ht, rfl⟩ := ih hr
      exact ⟨e :: l, e', m, rfl, ht, rfl⟩

/-- A store joins the path as an entry of its own, or merges into one that takes it. -/
theorem addPath_cases (x : StoreEntry) (es : List StoreEntry) :
    addPath x es = es ++ [x] ∨ ∃ l e m, es = l ++ e :: m ∧ e.takes x = true ∧ addPath x es = l ++ e.merge x :: m := by
  unfold addPath
  split
  next r hr =>
    obtain ⟨l, e, m, hes, ht, rfl⟩ := mergePath_some hr
    refine .inr ⟨m.reverse, e, l.reverse, ?_, ht, by simp⟩
    rw [← List.reverse_reverse es, hes]
    simp
  next => exact .inl rfl

/-- The entries of one instruction's stores. -/
def Uniform (core : Nat) (tag : Tag) (hold : List (Nat × Nat)) (es : List StoreEntry) : Prop :=
  ∀ e ∈ es, e.core = core ∧ e.red = none ∧ e.tag = tag ∧ (∀ g ∈ e.merged, g = tag) ∧ e.hold = hold

/-- Some entry of the line of a place holds cells. -/
def Held (space : Space) (loc : Nat) (cells : List Host.Cell) (es : List StoreEntry) : Prop :=
  ∃ e ∈ es, e.space = space ∧ lineOf e.loc = lineOf loc ∧ ∀ c ∈ cells, c ∈ e.cells

/-- What an entry takes is of its space and its line. -/
theorem StoreEntry.takes_place {e x : StoreEntry} (h : e.takes x = true) : e.space = x.space ∧ lineOf e.loc = lineOf x.loc := by
  simp only [StoreEntry.takes, Bool.and_eq_true, decide_eq_true_eq, beq_iff_eq] at h
  obtain ⟨⟨⟨⟨⟨⟨⟨⟨-, hs⟩, hl⟩, -⟩, -⟩, -⟩, -⟩, -⟩, -⟩ := h
  exact ⟨hs, hl⟩

section
variable {core : Nat} {tag : Tag} {hold : List (Nat × Nat)} {x : StoreEntry} {es : List StoreEntry}

/-- One store more of the instruction. -/
theorem uniform_addPath (h : Uniform core tag hold es) (hx : Uniform core tag hold [x]) : Uniform core tag hold (addPath x es) := by
  rcases addPath_cases x es with hc | ⟨l, e, m, rfl, -, hc⟩
  · rw [hc]
    intro y hy
    rcases List.mem_append.1 hy with hy | hy
    · exact h y hy
    · exact hx y hy
  · rw [hc]
    intro y hy
    obtain ⟨-, -, hxt, hxm, -⟩ := hx x (by simp)
    rcases List.mem_append.1 hy with hy | hy
    · exact h y (by simp [hy])
    rcases List.mem_cons.1 hy with rfl | hy
    · obtain ⟨h1, h2, h3, h4, h5⟩ := h e (by simp)
      refine ⟨h1, h2, h3, fun g hg => ?_, h5⟩
      rcases List.mem_append.1 hg with hg | hg
      · exact h4 g hg
      rcases List.mem_cons.1 hg with rfl | hg
      · exact hxt
      · exact hxm g hg
    · exact h y (by simp [hy])

/-- What a path holds it still holds. -/
theorem held_addPath {space : Space} {loc : Nat} {cells : List Host.Cell} (h : Held space loc cells es) :
    Held space loc cells (addPath x es) := by
  obtain ⟨p, hp, hs, hl, hc⟩ := h
  rcases addPath_cases x es with ha | ⟨l, e, m, rfl, -, ha⟩
  · exact ⟨p, by simp [ha, hp], hs, hl, hc⟩
  rw [ha]
  rcases List.mem_append.1 hp with hp | hp
  · exact ⟨p, by simp [hp], hs, hl, hc⟩
  rcases List.mem_cons.1 hp with rfl | hp
  · exact ⟨p.merge x, by simp, hs, hl, fun c hm => List.mem_append.2 (.inl (hc c hm))⟩
  · exact ⟨p, by simp [hp], hs, hl, hc⟩

/-- A store that has joined the path is held there. -/
theorem held_addPath_self (x : StoreEntry) (es : List StoreEntry) : Held x.space x.loc x.cells (addPath x es) := by
  rcases addPath_cases x es with ha | ⟨l, e, m, rfl, ht, ha⟩
  · exact ⟨x, by simp [ha], rfl, rfl, fun _ h => h⟩
  · obtain ⟨hs, hl⟩ := StoreEntry.takes_place ht
    exact ⟨e.merge x, by simp [ha], hs, hl, fun c hm => List.mem_append.2 (.inr hm)⟩

end

/-! ## One store enters -/

/-- What a write reaches in its core is neither memory nor the store path. -/
theorem reachCore_frame (s : State) (core : Nat) (cells : List Host.Cell) (team : Nat) (own : Option Nat) (who : Team → Bool) :
    (s.reachCore core cells team own who).mem = s.mem ∧ (s.reachCore core cells team own who).path = s.path := by
  unfold State.reachCore
  dsimp only
  split
  · exact ⟨rfl, rfl⟩
  · exact ⟨rfl, rfl⟩

/-- A lane's store to plain bytes: no reduction, and not through a binding. -/
def LaneStore.IsPlain (x : LaneStore) : Prop := x.own = none ∧ x.red = none

/-- The entry of a plain store. -/
def State.plainEntry (s : State) (seq : Nat) (hold : List (Nat × Nat)) (strong : List (Nat × Nat × Nat)) (x : LaneStore) (space : Space)
    (loc : Nat) : StoreEntry :=
  { core := s.curCore, space := space, loc := loc, cells := cellsFrom loc (leBytes x.size x.value), red := none, hold := hold,
    strong := strong, tag := ⟨s.cur.uid, seq, s.cur.setb, s.cur.scope, none⟩, merged := [] }

section
variable {s t : State} (h : Stored s t) (hlive : s.cur.live = true) (hf : s.cur.fencer = []) (hp : s.path = []) {seq : Nat}
  (hq : ∀ e ∈ t.path, ∀ g ∈ e.tags, seq ≤ g.seq) (hloads : ∀ l ∈ s.loads, l.team = s.cur.uid → l.value ≠ none)
include h hlive hf hp hq hloads

/-- A plain store enters as an entry that its own release alone may hold. -/
theorem Stored.enterStore (release : Bool) {x : LaneStore} (hx : x.IsPlain) (space : Space) (loc : Nat) :
    ∃ strong, (∀ y ∈ strong, y.2.1 = loc) ∧ t.enterStore seq release x space loc = t.enterPath (s.plainEntry seq
      (if release && !s.accessesDone s.cur.uid seq s.cur.scope then [(seq, s.cur.scope)] else []) strong x space loc) := by
  obtain ⟨hown, hred⟩ := hx
  obtain ⟨hl, -⟩ := h.accesses
  obtain ⟨b, r, hc⟩ := h.cur
  obtain ⟨hcore, -⟩ := h.curCore
  have hu : t.cur.uid = s.cur.uid := by rw [hc]
  have hsc : t.cur.scope = s.cur.scope := by rw [hc]; rfl
  have hsb : t.cur.setb = s.cur.setb := by rw [hc]; rfl
  have hforce : State.forceLoads t.cur.uid loc x.size t.loads t = t := forceLoads_done (by rwa [hl, hu])
  refine ⟨if x.strong || x.red.isSome then [(s.cur.uid, loc, t.strongSize x.size)] else [], fun y hy => ?_, ?_⟩
  · split at hy
    · rw [List.mem_singleton.1 hy]
    · cases hy
  rw [State.enterStore]
  rw [hforce, hu, hsc, hsb, hcore, hred, hown, h.holdOf hlive hf hp hq]
  rfl

end

/-! ## Performed at once (R137) -/

/-- Strong accesses to the device's own stores are not recorded (R136). -/
theorem noteAll_own {s : State} {xs : List (Nat × Nat × Nat)} (h : ∀ x ∈ xs, recorded x.2.1 = false) : s.noteAll xs = s := by
  unfold State.noteAll
  induction xs with
  | nil => rfl
  | cons x xs ih =>
    have hx : s.noteStrong x.1 x.2.1 x.2.2 = s := by simp [State.noteStrong, h x (by simp)]
    rw [List.foldl_cons, hx]
    exact ih fun y hy => h y (by simp [hy])

/-- A write to a store of the device that nothing holds or precedes is performed as it enters. -/
theorem enterPath_own {t : State} {e : StoreEntry} (hs : e.space = .store) (hown : e.tag.own = none) (hhold : e.hold = [])
    (hred : e.red = none) (hstrong : ∀ x ∈ e.strong, recorded x.2.1 = false) (hp : t.path = []) (hx : t.xfers = []) :
    t.enterPath e = t.perform e.cells e.tag.team none [] := by
  have hopen : t.copiesOpen e.tag.team e.tag.seq = false := by simp [State.copiesOpen, hx]
  have hrecall : t.recallCopies (lineOf e.loc * 128) 128 = t := by simp [State.recallCopies, hx]
  have hnow : t.performEntry e [] = t.perform e.cells e.tag.team none [] := by
    simp only [State.performEntry, hrecall, noteAll_own hstrong, hred, hs, reduceCtorEq, decide_false, Bool.false_eq_true, if_false, hown]
    cases e.cells <;> rfl
  simp only [State.enterPath, hown, hs, hhold, hp, hopen, List.any_nil, decide_true, Bool.true_or, Bool.not_false, Bool.and_self, if_true,
    hnow]

/-- A write that is performed changes memory to its bytes. -/
theorem perform_mem {s : State} {cells : List Host.Cell} {team : Nat} {own : Option Nat} {skip : List Nat}
    (h : ∀ c ∈ cells, s.storePlace c.1 = c.1) : (s.perform cells team own skip).mem = writeCells s.mem cells :=
  (show (s.perform cells team own skip).mem = (s.writeMem cells).mem from rfl).trans (writeMem_mem s cells h)

/-- A write leaves the path alone. -/
theorem perform_path (s : State) (cells : List Host.Cell) (team : Nat) (own : Option Nat) (skip : List Nat) :
    (s.perform cells team own skip).path = s.path := rfl

/-- The bytes of a lane's store are outside a place. -/
def Clear (f : Nat → Space × Nat) (a : Nat) (x : LaneStore) : Prop := a < (f x.lane).2 ∨ (f x.lane).2 + x.size ≤ a

/-- The state so far, with nothing in the store path. -/
structure Entered (s t : State) : Prop where
  stored : Stored s t
  low : SameLow s t
  path : t.path = []

section
variable {s : State} (hlive : s.cur.live = true) (hf : s.cur.fencer = []) (hp : s.path = []) (hx : s.xfers = [])
  (hloads : ∀ l ∈ s.loads, l.team = s.cur.uid → l.value ≠ none) {seq : Nat} {release : Bool} {f : Nat → Space × Nat}
  (hrel : release = true → s.accessesDone s.cur.uid seq s.cur.scope = true)
include hlive hf hp hx hloads hrel

/-- One store to the device's own stores is performed: its bytes are in memory, and no other byte has changed. -/
theorem Entered.enterStore {t : State} (h : Entered s t) {x : LaneStore} (hpl : x.IsPlain) (hs : (f x.lane).1 = .store)
    (hk : Placed (f x.lane).1 (f x.lane).2) (hplace : ∀ i, i < x.size → s.storePlace ((f x.lane).2 + i) = (f x.lane).2 + i) :
    let u := t.enterStore seq release x (f x.lane).1 (f x.lane).2
    Entered s u ∧ cellBytes u.mem (f x.lane).2 x.size = leBytes x.size x.value ∧ ∀ a, Clear f a x → cellAt u.mem a = cellAt t.mem a := by
  obtain ⟨hst, hlow, hpath⟩ := h
  obtain ⟨hk1, hk3⟩ := hk.2 hs
  have hhold : (if release && !s.accessesDone s.cur.uid seq s.cur.scope then [(seq, s.cur.scope)] else []) = [] := by
    rw [if_neg]
    cases release
    · simp
    · simp [hrel rfl]
  obtain ⟨strong, hstrong, he⟩ := hst.enterStore hlive hf hp (by simp [hpath]) hloads release hpl (f x.lane).1 (f x.lane).2
  have hxfers : t.xfers = [] := by
    obtain ⟨-, h, -⟩ := hst.accesses
    rw [h, hx]
  rw [hhold, enterPath_own hs rfl rfl rfl ?_ hpath hxfers] at he
  · have hcells := storePlace_cellsFrom (s := t) (leBytes_length x.size x.value) fun i hi => by
      rw [hst.storePlace hlow, hplace i hi]
    have hbase : 2 ^ 60 ≤ (f x.lane).2 := by
      simp only [locKind] at hk1
      omega
    have hmem : (t.enterStore seq release x (f x.lane).1 (f x.lane).2).mem =
        writeCells t.mem (cellsFrom (f x.lane).2 (leBytes x.size x.value)) := by
      rw [he]
      exact perform_mem hcells
    have hout (a : Nat) (ha : Clear f a x) : cellAt (t.enterStore seq release x (f x.lane).1 (f x.lane).2).mem a = cellAt t.mem a := by
      rw [hmem]
      exact cellAt_writeCells_outside _ _ _ _ (by simpa [Clear] using ha)
    refine ⟨⟨?_, fun a ha => ?_, ?_⟩, ?_, hout⟩
    · rw [he]
      exact hst.trans (stored_perform ..)
    · rw [hout a (.inl (by omega)), hlow a ha]
    · rw [he, perform_path, hpath]
    · have := cellBytes_writeCells (leBytes x.size x.value) t.mem (f x.lane).2
      rwa [leBytes_length, ← hmem] at this
  · intro y hy
    rw [hstrong y hy]
    simp only [recorded, Bool.or_eq_false_iff, beq_eq_false_iff_ne]
    omega

/-- The stores of an instruction to the device's own stores are performed in order. -/
theorem Entered.enterStores {L : List (LaneStore × Site)} {t : State} (h : Entered s t)
    (hL : ∀ x ∈ L, x.2 = .at_ (f x.1.lane).1 (f x.1.lane).2 ∧ x.1.IsPlain ∧ (f x.1.lane).1 = .store ∧
      Placed (f x.1.lane).1 (f x.1.lane).2 ∧ ∀ i, i < x.1.size → s.storePlace ((f x.1.lane).2 + i) = (f x.1.lane).2 + i) :
    Entered s (State.enterStores seq release L t) ∧
      ∀ a, (∀ x ∈ L, Clear f a x.1) → cellAt (State.enterStores seq release L t).mem a = cellAt t.mem a := by
  induction L generalizing t with
  | nil => exact ⟨h, fun _ _ => rfl⟩
  | cons x L ih =>
    obtain ⟨hsite, hpl, hs, hk, hplace⟩ := hL x (by simp)
    obtain ⟨he, -, hout⟩ := h.enterStore (seq := seq) (release := release) hlive hf hp hx hloads hrel hpl hs hk hplace
    obtain ⟨hend, hrest⟩ := ih he fun y hy => hL y (by simp [hy])
    rw [State.enterStores, hsite]
    exact ⟨hend, fun a ha => (hrest a fun y hy => ha y (by simp [hy])).trans (hout a (ha x (by simp)))⟩

/-- Where no two lanes meet, each lane's bytes stand in memory at the end. -/
theorem Entered.enterStores_bytes {L : List (LaneStore × Site)} {t : State} (h : Entered s t)
    (hL : ∀ x ∈ L, x.2 = .at_ (f x.1.lane).1 (f x.1.lane).2 ∧ x.1.IsPlain ∧ (f x.1.lane).1 = .store ∧
      Placed (f x.1.lane).1 (f x.1.lane).2 ∧ ∀ i, i < x.1.size → s.storePlace ((f x.1.lane).2 + i) = (f x.1.lane).2 + i)
    (hapart : L.Pairwise fun x y => ∀ i, i < x.1.size → Clear f ((f x.1.lane).2 + i) y.1) :
    ∀ x ∈ L, cellBytes (State.enterStores seq release L t).mem (f x.1.lane).2 x.1.size = leBytes x.1.size x.1.value := by
  induction L generalizing t with
  | nil => simp
  | cons x L ih =>
    obtain ⟨hsite, hpl, hs, hk, hplace⟩ := hL x (by simp)
    obtain ⟨hhead, hapart⟩ := List.pairwise_cons.1 hapart
    obtain ⟨he, hbytes, -⟩ := h.enterStore (seq := seq) (release := release) hlive hf hp hx hloads hrel hpl hs hk hplace
    have hL' : ∀ y ∈ L, _ := fun y hy => hL y (List.mem_cons_of_mem _ hy)
    rw [State.enterStores, hsite]
    intro y hy
    rcases List.mem_cons.1 hy with rfl | hy
    · rw [← hbytes]
      obtain ⟨-, hrest⟩ := he.enterStores (seq := seq) (release := release) hlive hf hp hx hloads hrel hL'
      exact cellBytes_congr fun a h1 h2 => hrest a fun z hz => by
        have := hhead z hz (a - (f y.1.lane).2) (by omega)
        rwa [Nat.add_sub_cancel' h1] at this
    · exact ih he hL' hapart y hy

end

/-! ## Into the store path (R192) -/

/-- A write that is held, or that leaves the device's own stores, joins the path. -/
theorem enterPath_queued {t : State} {e : StoreEntry} (hown : e.tag.own = none) (hq : e.hold ≠ [] ∨ e.space ≠ .store ∧ e.space ≠ .opBuf) :
    Stored t (t.enterPath e) ∧ (t.enterPath e).mem = t.mem ∧ (t.enterPath e).path = addPath e t.path := by
  have hnot : ((decide (e.space = .store) || decide (e.space = .opBuf)) && decide (e.hold = []) &&
      !t.path.any (fun x => x.core == e.core && x.meets e) && !t.copiesOpen e.tag.team e.tag.seq) = false := by
    rcases hq with h | ⟨h1, h2⟩
    · simp [h]
    · simp [h1, h2]
  simp only [State.enterPath, hown, hnot, Bool.false_eq_true, if_false]
  split
  · exact ⟨stored_path _ _, rfl, rfl⟩
  · exact ⟨(stored_path t _).trans (stored_reachCore ..), (reachCore_frame ..).1, (reachCore_frame ..).2⟩

/-- The state so far, with the instruction's stores in the path. -/
structure Queued (s t : State) (tag : Tag) (hold : List (Nat × Nat)) : Prop where
  stored : Stored s t
  mem : t.mem = s.mem
  path : Uniform s.curCore tag hold t.path

section
variable {s : State} (hlive : s.cur.live = true) (hf : s.cur.fencer = []) (hp : s.path = [])
  (hloads : ∀ l ∈ s.loads, l.team = s.cur.uid → l.value ≠ none) {seq : Nat} {release : Bool} {f : Nat → Space × Nat}
include hlive hf hp hloads

/-- The stores of an instruction join the path in order. -/
theorem Queued.enterStores {hold : List (Nat × Nat)}
    (hh : hold = if release && !s.accessesDone s.cur.uid seq s.cur.scope then [(seq, s.cur.scope)] else []) {L : List (LaneStore × Site)}
    {t : State} (h : Queued s t ⟨s.cur.uid, seq, s.cur.setb, s.cur.scope, none⟩ hold)
    (hL : ∀ x ∈ L, x.2 = .at_ (f x.1.lane).1 (f x.1.lane).2 ∧ x.1.IsPlain ∧
      (hold ≠ [] ∨ (f x.1.lane).1 ≠ .store ∧ (f x.1.lane).1 ≠ .opBuf)) :
    Queued s (State.enterStores seq release L t) ⟨s.cur.uid, seq, s.cur.setb, s.cur.scope, none⟩ hold ∧
      (∀ sp loc cells, Held sp loc cells t.path → Held sp loc cells (State.enterStores seq release L t).path) ∧
      ∀ x ∈ L, Held (f x.1.lane).1 (f x.1.lane).2 (cellsFrom (f x.1.lane).2 (leBytes x.1.size x.1.value))
        (State.enterStores seq release L t).path := by
  induction L generalizing t with
  | nil => exact ⟨h, fun _ _ _ h => h, by simp⟩
  | cons x L ih =>
    obtain ⟨hst, hmem, hpath⟩ := h
    obtain ⟨hsite, hpl, hq⟩ := hL x (by simp)
    have hseq : ∀ e ∈ t.path, ∀ g ∈ e.tags, seq ≤ g.seq := by
      intro e he g hg
      obtain ⟨-, -, htag, hmerged, -⟩ := hpath e he
      rcases List.mem_cons.1 hg with rfl | hg
      · rw [htag]
      · rw [hmerged g hg]
    obtain ⟨strong, -, he⟩ := hst.enterStore hlive hf hp hseq hloads release hpl (f x.1.lane).1 (f x.1.lane).2
    rw [← hh] at he
    obtain ⟨h1, h2, h3⟩ := enterPath_queued (t := t) (e := s.plainEntry seq hold strong x.1 (f x.1.lane).1 (f x.1.lane).2) rfl hq
    rw [← he] at h1 h2 h3
    have hnext : Queued s (t.enterStore seq release x.1 (f x.1.lane).1 (f x.1.lane).2) ⟨s.cur.uid, seq, s.cur.setb, s.cur.scope, none⟩
        hold := by
      refine ⟨hst.trans h1, h2.trans hmem, ?_⟩
      rw [h3]
      refine uniform_addPath hpath fun y hy => ?_
      rw [List.mem_singleton.1 hy]
      exact ⟨rfl, rfl, rfl, by simp [State.plainEntry], rfl⟩
    obtain ⟨hend, hkeep, hall⟩ := ih hnext fun y hy => hL y (by simp [hy])
    rw [State.enterStores, hsite]
    refine ⟨hend, fun sp loc cells hheld => hkeep _ _ _ (by rw [h3]; exact held_addPath hheld), fun y hy => ?_⟩
    rcases List.mem_cons.1 hy with rfl | hy
    · exact hkeep _ _ _ (by rw [h3]; exact held_addPath_self (s.plainEntry ..) _)
    · exact hall y hy

end

end Sys2Proof.Machine
end

section
/-! SUPPORT. Stores settle their obligation (R137, R144, R146, R192). -/

namespace Sys2Proof.Machine

/-! ## Data (R144) -/

/-- The code after the first of a run is the first. -/
theorem codeAt_zero (c : Code) : codeAt c 0 = c := by simp [codeAt]

/-- Codes of a run follow one another. -/
theorem codeAt_codeAt (c : Code) (i j : Nat) : codeAt (codeAt c i) j = codeAt c (i + j) := by
  apply BitVec.eq_of_toNat_eq
  simp only [codeAt, BitVec.toNat_ofNat]
  omega

section
variable {t : Team} {l : Nat} {d : Code}

/-- z is 0 (R11). -/
theorem opnd32_z (h : isZ d = true) : t.opnd32 l d = 0 := by
  have hd : d.toNat = 124 := by simpa [isZ] using h
  simp [Team.opnd32, isV, isS, isK, hd]

/-- What z stores. -/
theorem dataOf_z (h : isZ d = true) (size : Nat) : t.dataOf l d size = 0 := by
  simp [Team.dataOf, h]

/-- A sum over the first four. -/
theorem sum_range_four (g : Nat → Nat) : ((List.range 4).map g).sum = g 0 + (g 1 + (g 2 + (g 3 + 0))) := by
  simp [List.range_succ]

/-- A number of 32-bit digits, nested. -/
theorem words_nested (a b c d : Nat) : a * 2 ^ (32 * 0) + (b * 2 ^ (32 * 1) + (c * 2 ^ (32 * 2) + (d * 2 ^ (32 * 3) + 0))) =
    a + 2 ^ 32 * (b + 2 ^ 32 * (c + 2 ^ 32 * d)) := by
  rw [show 2 ^ (32 * 0) = 1 by norm_num, show 2 ^ (32 * 2) = 2 ^ 32 * 2 ^ 32 by norm_num,
    show 2 ^ (32 * 3) = 2 ^ 32 * 2 ^ 32 * 2 ^ 32 by norm_num]
  generalize 2 ^ 32 = B
  ring

/-- The words of a run, lowest first. -/
theorem dataOf_run (h : isZ d = false) (size : Nat) : t.dataOf l d size = ((t.opnd32 l d).toNat + 2 ^ 32 * ((t.opnd32 l (codeAt d 1)).toNat +
    2 ^ 32 * ((t.opnd32 l (codeAt d 2)).toNat + 2 ^ 32 * (t.opnd32 l (codeAt d 3)).toNat))) % 256 ^ size := by
  have hw (i : Nat) : (if isZ d then 0 else (t.opnd32 l (codeAt d i)).toNat) = (t.opnd32 l (codeAt d i)).toNat := if_neg (by simp [h])
  rw [Team.dataOf, sum_range_four, hw, hw, hw, hw, codeAt_zero, words_nested]

/-- A run of one. -/
theorem opndRun_one (c : Code) : t.opndRun l c 1 = (t.opnd32 l c).toNat := by
  simp only [Team.opndRun]
  split
  next h => simp [opnd32_z h]
  next => simp

/-- A run of two that does not start with z. -/
theorem opndRun_two (h : isZ d = false) : t.opndRun l d 2 = (t.opnd32 l d).toNat + 2 ^ 32 * (t.opnd32 l (codeAt d 1)).toNat := by
  rw [Team.opndRun, if_neg (by simp [h]), opndRun_one]

/-- No code of four aligned registers or literals is z. -/
theorem not_isZ_of_quadOk (hq : quadOk t true d = true) (h : isZ d = false) {i : Nat} (hi : i < 4) : isZ (codeAt d i) = false := by
  have hd := d.isLt
  simp only [quadOk, vRun, sRun, kRun, isV, isS, isK, isZ, sNum, codeAt, Bool.or_eq_true, Bool.and_eq_true, decide_eq_true_eq,
    decide_eq_false_iff_not, BitVec.toNat_ofNat] at hq h ⊢
  omega

/-- A run of four. -/
theorem opndRun_four (hq : quadOk t true d = true) (h : isZ d = false) : t.opndRun l d 4 = (t.opnd32 l d).toNat +
    2 ^ 32 * ((t.opnd32 l (codeAt d 1)).toNat + 2 ^ 32 * ((t.opnd32 l (codeAt d 2)).toNat + 2 ^ 32 * (t.opnd32 l (codeAt d 3)).toNat)) := by
  have hz {i : Nat} (hi : i < 4) : ¬ isZ (codeAt d i) = true := by simp [not_isZ_of_quadOk hq h hi]
  rw [Team.opndRun, if_neg (by simp [h]), Team.opndRun, if_neg (hz (by decide)), codeAt_codeAt, opndRun_two (by simpa using hz (by decide)),
    codeAt_codeAt]

/-- Of a word's bytes and more, the low ones. -/
theorem low_of_word (a k : Nat) {size : Nat} (h : size ≤ 4) : (a + 2 ^ 32 * k) % 256 ^ size = a % 256 ^ size := by
  have hd : 2 ^ 32 = 256 ^ size * 256 ^ (4 - size) := by
    rw [← pow_add, Nat.add_sub_cancel' h]
    norm_num
  rw [hd, Nat.mul_assoc, Nat.add_mul_mod_self_left]

/-- The data of a store are the bytes that the statement names. -/
theorem storeData_eq {size : Nat} (h : size ≤ 4 ∨ size = 8 ∨ size = 16 ∧ quadOk t true d = true) :
    t.storeData size l d = t.dataOf l d size := by
  cases hz : isZ d
  · rw [dataOf_run hz]
    rcases h with h | rfl | ⟨rfl, hq⟩
    · rw [low_of_word _ _ h, Team.storeData, if_pos h]
    · rw [Team.storeData, if_neg (by decide), opndRun_two hz, Nat.mul_add, ← Nat.add_assoc, ← Nat.mul_assoc,
        show 2 ^ 32 * 2 ^ 32 = 256 ^ 8 by norm_num, Nat.add_mul_mod_self_left]
    · rw [Team.storeData, if_neg (by decide), opndRun_four hq hz]
  · have hrun (n : Nat) : t.opndRun l d n = 0 := by
      cases n with
      | zero => rfl
      | succ n => rw [Team.opndRun, if_pos hz]
    rw [dataOf_z hz, Team.storeData, opnd32_z hz, hrun]
    simp

end

/-- The data of a legal entry. -/
theorem storeEntry_data {t : Team} {i : Instr} {e : MemEntry} (h : t.storeEntry i = some e) (hl : e.legal = true) (l : Nat) :
    t.storeData e.size l e.d = t.dataOf l e.d e.size := by
  refine storeData_eq ?_
  cases i <;> cases h
  case stb | sth | stw | stwl => exact .inl (by simp [Team.storeOf])
  case std | stdl => exact .inr (.inl rfl)
  case stq =>
    simp only [Team.storeOf, Bool.and_eq_true] at hl
    obtain ⟨⟨hq, -⟩, -⟩ := hl
    exact .inr (.inr ⟨rfl, hq⟩)

/-! ## The instruction -/

/-- What a store instruction's stores leave. -/
def State.storesEntered (s : State) (release : Bool) (f : Nat → Space × Nat) (xs : List LaneStore) : State :=
  if xs = [] then s else (State.enterStores s.nextSeq release (s.storeOrder (sited f xs)) s.takeSeq).draw

/-- The lane stores of an entry. -/
structure StoresOf (t : Team) (e : MemEntry) (xs : List LaneStore) : Prop where
  accesses : e.accesses = storeAccesses xs
  lanes : (xs.map LaneStore.lane).Nodup
  plain : ∀ x ∈ xs, x.IsPlain
  lane_lt : ∀ x ∈ xs, x.lane < 1024
  size : ∀ x ∈ xs, x.size = e.size
  value : ∀ x ∈ xs, x.value = t.dataOf x.lane e.d e.size

/-- A lane store by its access. -/
theorem StoresOf.mem {t : Team} {e : MemEntry} {xs : List LaneStore} (h : StoresOf t e xs) {y : Nat × DWord × Nat} (hy : y ∈ e.accesses) :
    ∃ x ∈ xs, y.1 = x.lane ∧ y.2.2 = x.size := by
  rw [h.accesses] at hy
  obtain ⟨x, hx, rfl⟩ := List.mem_map.1 hy
  exact ⟨x, hx, rfl, rfl⟩

/-- A lane store's access. -/
theorem StoresOf.access {t : Team} {e : MemEntry} {xs : List LaneStore} (h : StoresOf t e xs) {x : LaneStore} (hx : x ∈ xs) :
    ∃ y ∈ e.accesses, y.1 = x.lane ∧ y.2.2 = x.size := by
  rw [h.accesses]
  exact ⟨_, List.mem_map.2 ⟨x, hx, rfl⟩, rfl, rfl⟩

/-- Lanes that contribute are lanes of a team. -/
theorem Team.lane_lt_of_contrib {t : Team} {l : Nat} (h : l ∈ t.contribLanes) : l < 1024 := by
  obtain ⟨-, hb⟩ := (t.mem_contribLanes l).1 h
  exact BitVec.lt_of_getLsbD hb

/-- A legal store instruction whose places are known completes with its stores entered. -/
theorem exec_store {s : State} {i : Instr} {e : MemEntry} {f : Nat → Space × Nat} {all : List Nat} (hp : s.plain = true)
    (hb : s.hasSetb = true) (hq : s.quiet) (he : s.cur.storeEntry i = some e) (hok : e.legal = true)
    (hpl : s.placed Need.store e.accesses f) (ha : all.eraseDups.length ≤ 64)
    (hfit : ∀ x ∈ e.accesses, ∀ n ∈ pathLineOf (.at_ (f x.1).1 (f x.1).2), n ∈ all) : ∃ xs, StoresOf s.cur e xs ∧
      exec i s = .next ((s.storesEntered (isRelease i) f xs).setCur (s.storesEntered (isRelease i) f xs).cur.advance) := by
  obtain ⟨-, -, -, -, hrun, hreg, -⟩ := (State.plain_iff s).1 hp
  have hdata (l : Nat) := storeEntry_data he hok l
  obtain ⟨g, dOk, d, a, b, hexec, hrel, rfl⟩ := storeEntry_some he
  have hlane {x : LaneStore} (hx : x ∈ s.cur.laneStores g d a b) : ∃ l ∈ s.cur.contribLanes,
      (⟨l, s.cur.addr l a b, g.size, s.cur.storeData g.size l d, none, g.release, none⟩ : LaneStore) = x := List.mem_map.1 hx
  have hof : StoresOf s.cur (s.cur.laneStore g (dOk s.cur) d a b) (s.cur.laneStores g d a b) := by
    refine ⟨rfl, ?_, fun x hx => ?_, fun x hx => ?_, fun x hx => ?_, fun x hx => ?_⟩
    · rw [Team.laneStores, List.map_map]
      exact (List.map_id _).symm ▸ s.cur.contribLanes_nodup
    all_goals obtain ⟨l, hl, rfl⟩ := hlane hx
    · exact ⟨rfl, rfl⟩
    · exact Team.lane_lt_of_contrib hl
    · rfl
    · exact hdata l
  refine ⟨_, hof, ?_⟩
  have hconc : s.concretiseStore g d a b = s := by simp [State.concretiseStore, hreg]
  have hbody : s.runStores g.release Need.store d (s.cur.laneStores g d a b) =
      .done (s.storesEntered (isRelease i) f (s.cur.laneStores g d a b)) := by
    rw [hrel, State.storesEntered]
    split
    next hnil => rw [hnil, State.runStores, if_pos rfl]
    next hne =>
      refine runStores_enters hq hrun hreg hpl hof.lane_lt ha (fun x hx n hn => ?_) hne
      obtain ⟨y, hy, hl, -⟩ := hof.access hx
      exact hfit y hy n (by rwa [hl])
  obtain ⟨hconds, -⟩ := hpl
  rw [hexec]
  refine issue_done hp (Spec.conds_nil nofun nofun fun _ => hb) ?_ ?_
  · exact (if_pos hok).trans hconds
  · dsimp only
    rw [hconc]
    exact hbody

/-- A team whose marks alone have changed goes on. -/
theorem teamKept_marks {s t : State} (hp : s.plain = true) (h : ∃ b r, t.cur = { s.cur with bindings := b, region := r }) :
    TeamKept s (t.setCur t.cur.advance) := by
  obtain ⟨-, -, hending, -⟩ := (State.plain_iff s).1 hp
  obtain ⟨b, r, h⟩ := h
  have hplace := Team.advance_place (t := s.cur) (u := t.cur) (by rw [h]) (by rw [h]) (by rw [h])
  obtain ⟨_, _, _, _, _, ha⟩ := t.cur.advance_eq
  have hgen : t.cur.advance.gen = s.cur.gen ∧ t.cur.advance.park = .running ∧ t.cur.advance.ending = false := by
    rw [ha, h]
    exact ⟨rfl, rfl, hending⟩
  obtain ⟨hgen, hpark, hend⟩ := hgen
  refine ⟨⟨?_, ?_, ?_, hgen⟩, ⟨?_, ?_, ?_, ?_⟩, ?_, ⟨?_, ?_, ?_⟩, hplace, hpark, hend⟩
  all_goals simp [State.setCur, h]

/-! ## What the stores leave -/

section
variable {s : State} {e : MemEntry} {xs : List LaneStore} {f : Nat → Space × Nat} {release : Bool} (hp : s.plain = true) (hq : s.quiet)
  (hf : s.cur.fencer = []) (hx : StoresOf s.cur e xs)
include hp hq hf hx

/-- Stores to the device's own stores that nothing holds leave their bytes in memory. -/
theorem storesEntered_own (hpl : s.placed Need.store e.accesses f) (hs : ∀ x ∈ e.accesses, (f x.1).1 = .store)
    (hrel : release = true → s.accessesDone s.cur.uid s.nextSeq s.cur.scope = true)
    (hapart : ∀ x ∈ e.accesses, ∀ y ∈ e.accesses, x.1 ≠ y.1 →
      (f x.1).2 + e.size ≤ (f y.1).2 ∨ (f y.1).2 + e.size ≤ (f x.1).2) :
    let t := s.storesEntered release f xs
    (∃ b r, t.cur = { s.cur with bindings := b, region := r }) ∧ (∀ a, (∀ x ∈ xs, Clear f a x) → t.byte a = s.byte a) ∧
      ∀ x ∈ xs, cellBytes t.mem (f x.lane).2 x.size = leBytes x.size x.value := by
  obtain ⟨-, hlive, -⟩ := (State.plain_iff s).1 hp
  obtain ⟨hxfers, hloads, hpath, -⟩ := hq
  obtain ⟨-, -, hplace⟩ := id hpl
  have hkinds := placed_kinds hpl fun y hy => by
    obtain ⟨x, hm, h, -⟩ := hx.mem hy
    rw [h]
    exact hx.lane_lt x hm
  unfold State.storesEntered
  split
  next hnil => exact ⟨⟨_, _, rfl⟩, fun _ _ => rfl, by simp [hnil]⟩
  next =>
    have hperm := storeOrder_perm s (sited f xs)
    have hL : ∀ x ∈ s.storeOrder (sited f xs), x.2 = .at_ (f x.1.lane).1 (f x.1.lane).2 ∧ x.1.IsPlain ∧ (f x.1.lane).1 = .store ∧
        Placed (f x.1.lane).1 (f x.1.lane).2 ∧ ∀ i, i < x.1.size → s.takeSeq.storePlace ((f x.1.lane).2 + i) = (f x.1.lane).2 + i := by
      intro p hm
      obtain ⟨x, hxm, rfl⟩ := List.mem_map.1 (hperm.subset hm)
      obtain ⟨y, hy, hl, hsz⟩ := hx.access hxm
      obtain ⟨-, -, -, hbytes⟩ := hplace y hy
      rw [hl, hsz] at hbytes
      have hk := hkinds y hy
      have hst := hs y hy
      rw [hl] at hk hst
      exact ⟨rfl, hx.plain x hxm, hst, hk, hbytes⟩
    have hpair : (s.storeOrder (sited f xs)).Pairwise fun x y => ∀ i, i < x.1.size → Clear f ((f x.1.lane).2 + i) y.1 := by
      have hsited : (sited f xs).Pairwise (fun x y => (f x.1.lane).2 + e.size ≤ (f y.1.lane).2 ∨
          (f y.1.lane).2 + e.size ≤ (f x.1.lane).2) := by
        refine List.pairwise_map.2 ((List.pairwise_map.1 hx.lanes).imp_of_mem fun {x y} hxm hym hne => ?_)
        obtain ⟨x', hx', hxl, -⟩ := hx.access hxm
        obtain ⟨y', hy', hyl, -⟩ := hx.access hym
        have := hapart x' hx' y' hy' (by rwa [hxl, hyl])
        rwa [hxl, hyl] at this
      refine ((hperm.pairwise_iff fun h => h.symm).2 hsited).imp_of_mem fun {p q} hpm hqm h i hi => ?_
      obtain ⟨x, hxm, rfl⟩ := List.mem_map.1 (hperm.subset hpm)
      obtain ⟨y, hym, rfl⟩ := List.mem_map.1 (hperm.subset hqm)
      have hxs := hx.size x hxm
      have hys := hx.size y hym
      simp only [Clear] at h hi ⊢
      omega
    have hstart : Entered s.takeSeq s.takeSeq := ⟨.refl _, fun _ _ => rfl, hpath⟩
    obtain ⟨⟨hst, -, -⟩, hout⟩ := hstart.enterStores (s := s.takeSeq) (seq := s.nextSeq) (release := release) hlive hf hpath hxfers
      (fun l hl => (hloads l hl).2) hrel hL
    have hin := hstart.enterStores_bytes (s := s.takeSeq) (seq := s.nextSeq) (release := release) hlive hf hpath hxfers
      (fun l hl => (hloads l hl).2) hrel hL hpair
    refine ⟨hst.cur, fun a ha => hout a fun p hm => ?_, fun x hxm => hin (x, .at_ (f x.lane).1 (f x.lane).2) (hperm.symm.subset ?_)⟩
    · obtain ⟨x, hxm, rfl⟩ := List.mem_map.1 (hperm.subset hm)
      exact ha x hxm
    · exact List.mem_map.2 ⟨x, hxm, rfl⟩

/-- Stores that are held, or that leave the device's own stores, are in the store path, and memory has not changed. -/
theorem storesEntered_queued {hold : List (Nat × Nat)}
    (hh : hold = if release && !s.accessesDone s.cur.uid s.nextSeq s.cur.scope then [(s.nextSeq, s.cur.scope)] else [])
    (hs : ∀ x ∈ e.accesses, hold ≠ [] ∨ (f x.1).1 ≠ .store ∧ (f x.1).1 ≠ .opBuf) :
    let t := s.storesEntered release f xs
    (∃ b r, t.cur = { s.cur with bindings := b, region := r }) ∧ t.mem = s.mem ∧
      Uniform s.curCore ⟨s.cur.uid, s.nextSeq, s.cur.setb, s.cur.scope, none⟩ hold t.path ∧
      ∀ x ∈ xs, Held (f x.lane).1 (f x.lane).2 (cellsFrom (f x.lane).2 (leBytes x.size x.value)) t.path := by
  obtain ⟨-, hlive, -⟩ := (State.plain_iff s).1 hp
  obtain ⟨-, hloads, hpath, -⟩ := hq
  have hnone (core : Nat) (tag : Tag) : Uniform core tag hold s.path := by simp [Uniform, hpath]
  unfold State.storesEntered
  split
  next hnil => exact ⟨⟨_, _, rfl⟩, rfl, hnone _ _, by simp [hnil]⟩
  next =>
    have hperm := storeOrder_perm s (sited f xs)
    have hstart : Queued s.takeSeq s.takeSeq ⟨s.cur.uid, s.nextSeq, s.cur.setb, s.cur.scope, none⟩ hold := ⟨.refl _, rfl, hnone _ _⟩
    obtain ⟨⟨hst, hmem, huni⟩, -, hall⟩ := Queued.enterStores (s := s.takeSeq) (f := f) hlive hf hpath (fun l hl => (hloads l hl).2) hh
      (L := s.storeOrder (sited f xs)) hstart fun p hm => by
        obtain ⟨x, hxm, rfl⟩ := List.mem_map.1 (hperm.subset hm)
        obtain ⟨y, hy, hl, -⟩ := hx.access hxm
        have hsp := hs y hy
        rw [hl] at hsp
        exact ⟨rfl, hx.plain x hxm, hsp⟩
    refine ⟨hst.cur, hmem, huni, fun x hxm => hall (x, .at_ (f x.lane).1 (f x.lane).2) (hperm.symm.subset ?_)⟩
    exact List.mem_map.2 ⟨x, hxm, rfl⟩

end

/-- The line that a store takes in the path is its own. -/
theorem lineOf_of_pathLineOf {sp : Space} {loc n : Nat} (h : n ∈ pathLineOf (.at_ sp loc)) : lineOf loc = n := by
  cases sp with
  | store | opBuf => cases h
  | _ => exact Option.some.inj h

/-- The bytes of a value, as the number that they make. -/
theorem cellNat_of_bytes {m : List Host.Cell} {loc size v : Nat} {t : Team} {l : Nat} {d : Code} (hv : v = t.dataOf l d size)
    (h : cellBytes m loc size = leBytes size v) : cellNat m loc size = t.dataOf l d size := by
  rw [cellNat, h, leNat_leBytes, hv, Team.dataOf, Nat.mod_mod]

/-- Settles O29: the stores of an instruction enter lane by lane, each performed where nothing holds it, else in the path. -/
theorem storesArePerformedOrQueued : Obligations.StoresArePerformedOrQueued := by
  unfold Obligations.StoresArePerformedOrQueued
  refine ⟨fun s i e f hp hb hq hf he hok hrel hpl hs hapart => ?_, fun s i e f hp hb hq hf he hok hpl hfit => ?_⟩
  · obtain ⟨xs, hx, hexec⟩ := exec_store (all := []) hp hb hq he hok hpl (by simp) fun x hm n hn => by simp [hs x hm, pathLineOf] at hn
    obtain ⟨hcur, hout, hin⟩ := storesEntered_own (release := isRelease i) hp hq hf hx hpl hs hrel hapart
    refine ⟨_, hexec, teamKept_marks hp hcur, fun y hy => ?_, fun a ha => hout a fun x hm => ?_⟩
    · obtain ⟨x, hm, hl, -⟩ := hx.mem hy
      have hbytes := hin x hm
      have hv := hx.value x hm
      rw [hx.size x hm] at hbytes
      rw [hl]
      exact cellNat_of_bytes hv hbytes
    · obtain ⟨y, hy, hl, hsz⟩ := hx.access hm
      have := ha y hy
      rwa [hl, ← hx.size x hm] at this
  · intro held hs
    have hline : ∀ x ∈ e.accesses, ∀ n ∈ pathLineOf (.at_ (f x.1).1 (f x.1).2), n ∈ e.accesses.map (fun x => (f x.1).2 / 128) := by
      intro x hm n hn
      exact List.mem_map.2 ⟨x, hm, lineOf_of_pathLineOf hn⟩
    obtain ⟨xs, hx, hexec⟩ := exec_store hp hb hq he hok hpl hfit hline
    obtain ⟨hcur, hmem, huni, hall⟩ := storesEntered_queued (release := isRelease i) (f := f) hp hq hf hx rfl fun x hm => by
      rcases hs x hm with h | h
      · exact .inl (by simp [held] at h; simp [h])
      · exact .inr h
    refine ⟨_, hexec, teamKept_marks hp hcur, fun a => congrArg (cellAt · a) hmem, fun y hy => ?_⟩
    obtain ⟨x, hm, hl, -⟩ := hx.mem hy
    obtain ⟨p, hpm, hsp, hln, hcells⟩ := hall x hm
    obtain ⟨hcore, hred, htag, -, hhold⟩ := huni p hpm
    rw [hx.size x hm, hx.value x hm] at hcells
    rw [hl]
    exact ⟨p, hpm, hcore, hsp, hln, hred, hcells, htag, hhold⟩

end Sys2Proof.Machine
end

section
/-! SUPPORT. What an atomic leaves at memory, in exact arithmetic (R151, R152). -/

namespace Sys2Proof.Machine

/-- Bits of a 32-bit or 64-bit integer TYPE. -/
def intWidth (ty : Nat) : Nat := if 2 ≤ ty then 64 else 32

/-- The integer TYPEs of one element (R28). -/
theorem intType_facts {ty : Nat} (h : ty ≤ 3) : typeFmt ty = none ∧ typeCount ty = 1 ∧ typeWidth ty = intWidth ty ∧
    (if wide ty then 64 else 32) = intWidth ty ∧ typeSigned ty = decide (ty = 0 ∨ ty = 2) := by
  interval_cases ty <;> decide

/-- Two's complement by either definition. -/
theorem toInt_eq_asInt {w x : Nat} (hw : 0 < w) (sg : Bool) (h : x < 2 ^ w) : toInt w sg x = asInt w sg x := by
  have hc : decide (2 ^ (w - 1) ≤ x) = decide (2 ^ w ≤ 2 * x) := by
    obtain ⟨n, rfl⟩ := Nat.exists_eq_succ_of_ne_zero hw.ne'
    rw [decide_eq_decide, Nat.succ_sub_one, Nat.pow_succ]
    omega
  simp only [toInt, asInt, Nat.mod_eq_of_lt h, hc, Nat.cast_pow, Nat.cast_ofNat]

/-- Two's complement keeps the value modulo 2^w. -/
theorem toInt_emod (w : Nat) (sg : Bool) (x : Nat) : toInt w sg x % 2 ^ w = (x : Int) % 2 ^ w := by
  unfold toInt
  split
  · exact Int.sub_emod_right _ _
  · rfl

/-- A wrapped sum. -/
theorem wrapInt_add (w : Nat) (sg : Bool) (x y : Nat) : wrapInt w (toInt w sg x + toInt w sg y) = (x + y) % 2 ^ w := by
  rw [wrapInt, Int.add_emod, toInt_emod, toInt_emod, ← Int.add_emod]
  norm_cast

/-- One element of an integer TYPE. -/
theorem binElem_int {ty : Nat} (hty : ty ≤ 3) (op : BinOp) (x y : Nat) :
    (binElem op ty Env.nearest x y).bits = intBin op (intWidth ty) (decide (ty = 0 ∨ ty = 2)) false x y := by
  obtain ⟨hfmt, -, hwidth, -, hsigned⟩ := intType_facts hty
  simp only [binElem, hfmt, Elem.plain, hwidth, hsigned, Env.nearest]

section
variable {ty old : Nat} (hty : ty ≤ 3) (hold : old < 2 ^ intWidth ty)
include hty hold

/-- An operation on elements, of one element. -/
theorem atomicNew_elem (f : Nat → Nat → Nat) (b : Nat) :
    ((List.range (typeCount ty)).map (fun e => f (elemOf ty old e) (elemOf ty b e) * 2 ^ (typeWidth ty * e))).sum =
      f old (b % 2 ^ intWidth ty) := by
  obtain ⟨-, hcount, hwidth, -⟩ := intType_facts hty
  have helem (x : Nat) : elemOf ty x 0 = x % 2 ^ intWidth ty := by
    rw [elemOf, bits, hwidth, Nat.mul_zero, Nat.shiftRight_zero]
  have hone : List.range (typeCount ty) = [0] := by rw [hcount]; rfl
  rw [hone, List.map_singleton, List.sum_singleton, helem, helem, Nat.mod_eq_of_lt hold, Nat.mul_zero, pow_zero, Nat.mul_one]

/-- What an atomic leaves, as the statements write it. -/
theorem atomicNew_eq (op : AtOp) (b other : Nat) : atomicNew op ty old b other = rmwValue op ty old b other := by
  obtain ⟨-, -, -, hwide, -⟩ := intType_facts hty
  have hw : 0 < intWidth ty := by unfold intWidth; split <;> decide
  have hb : b % 2 ^ intWidth ty < 2 ^ intWidth ty := Nat.mod_lt _ (by positivity)
  cases op with
  | add =>
    refine (atomicNew_elem hty hold (fun x y => (binElem .add ty Env.nearest x y).bits) b).trans ?_
    rw [binElem_int hty]
    exact wrapInt_add ..
  | min =>
    refine (atomicNew_elem hty hold (fun x y => (binElem .min ty Env.nearest x y).bits) b).trans ?_
    simp only [binElem_int hty, intBin, toInt_eq_asInt hw _ hold, toInt_eq_asInt hw _ hb]
    rw [← ite_not]
    simp only [not_le]
    rfl
  | max =>
    refine (atomicNew_elem hty hold (fun x y => (binElem .max ty Env.nearest x y).bits) b).trans ?_
    simp only [binElem_int hty, intBin, toInt_eq_asInt hw _ hold, toInt_eq_asInt hw _ hb]
    rw [← ite_not]
    simp only [not_le]
    rfl
  | and =>
    simp only [atomicNew, hwide, Nat.and_mod_two_pow, Nat.mod_eq_of_lt hold]
    rfl
  | or =>
    simp only [atomicNew, hwide, Nat.or_mod_two_pow, Nat.mod_eq_of_lt hold]
    rfl
  | xor =>
    simp only [atomicNew, hwide, Nat.xor_mod_two_pow, Nat.mod_eq_of_lt hold]
    rfl
  | xch =>
    simp only [atomicNew, hwide]
    rfl
  | cas =>
    simp only [atomicNew, hwide]
    rfl

omit hty in
/-- It fits the width. -/
theorem rmwValue_lt (op : AtOp) (b other : Nat) : rmwValue op ty old b other < 2 ^ intWidth ty := by
  have hpos : 0 < 2 ^ intWidth ty := by positivity
  have hb : b % 2 ^ intWidth ty < 2 ^ intWidth ty := Nat.mod_lt _ hpos
  have ho : other % 2 ^ intWidth ty < 2 ^ intWidth ty := Nat.mod_lt _ hpos
  have hite {p : Prop} [Decidable p] {x y : Nat} (hx : x < 2 ^ intWidth ty) (hy : y < 2 ^ intWidth ty) :
      (if p then x else y) < 2 ^ intWidth ty := by split <;> assumption
  cases op with
  | add => exact Nat.mod_lt _ hpos
  | min => exact hite hb hold
  | max => exact hite hb hold
  | and => exact Nat.and_lt_two_pow _ hb
  | or => exact Nat.or_lt_two_pow hold hb
  | xor => exact Nat.xor_lt_two_pow hold hb
  | xch => exact hb
  | cas => exact hite ho hold

end

end Sys2Proof.Machine
end

section
/-! SUPPORT. What a read-modify-write at its place changes (R136, R155, R157, R198). -/

namespace Sys2Proof.Machine

/-! ## Associations -/

/-- An association with a key listed. -/
theorem alook_aput {β : Type} (l : List (Nat × β)) (n k : Nat) (x : β) : alook (aput l n x) k = if k = n then some x else alook l k := by
  unfold alook aput
  induction l with
  | nil =>
    rw [tput, List.lookup_cons]
    by_cases h : k = n
    · simp [h]
    · simp [h, beq_eq_false_iff_ne.2 h]
  | cons e l ih =>
    obtain ⟨m, y⟩ := e
    unfold tput
    split
    · rw [List.lookup_cons]
      by_cases h : k = n
      · simp [h]
      · simp [h, beq_eq_false_iff_ne.2 h]
    · split
      next hm =>
        rw [List.lookup_cons, List.lookup_cons]
        by_cases h : k = n
        · simp [h]
        · simp [h, beq_eq_false_iff_ne.2 h, ← hm]
      next hlt hm =>
        rw [List.lookup_cons, ih, List.lookup_cons]
        by_cases h : k = m
        · subst h
          simp [Ne.symm hm]
        · simp [beq_eq_false_iff_ne.2 h]

/-- An association whose entries change under their keys. -/
theorem alook_map {β γ : Type} (l : List (Nat × β)) (f : Nat × β → Nat × β) (g : β → γ) (h : ∀ e, (f e).1 = e.1 ∧ g (f e).2 = g e.2) (k : Nat) :
    (alook (l.map f) k).map g = (alook l k).map g := by
  unfold alook
  induction l with
  | nil => rfl
  | cons e l ih =>
    obtain ⟨h1, h2⟩ := h e
    rw [List.map_cons, List.lookup_cons, List.lookup_cons, h1]
    split
    · simp [h2]
    · exact ih

/-! ## Teams -/

/-- A change of teams that keeps which registers are bound, and touches marks and traps that are due alone. -/
def Reached (f : Team → Team) : Prop := ∀ t, ∃ b r p, f t = { t with bindings := b, region := r, pendTraps := p } ∧
  ∀ k, (alook b k).map Binding.size8 = (alook t.bindings k).map Binding.size8

/-- No change. -/
theorem Reached.id : Reached (fun t => t) := fun _ => ⟨_, _, _, rfl, fun _ => rfl⟩

/-- One change after another. -/
theorem Reached.comp {f g : Team → Team} (hf : Reached f) (hg : Reached g) : Reached (fun t => g (f t)) := by
  intro t
  obtain ⟨b, r, p, h, hb⟩ := hf t
  obtain ⟨b', r', p', h', hb'⟩ := hg (f t)
  refine ⟨b', r', p', h'.trans (by rw [h]), fun k => (hb' k).trans ?_⟩
  rw [h]
  exact hb k

/-- A change under a test. -/
theorem Reached.ite {f g : Team → Team} {p : Team → Bool} (hf : Reached f) (hg : Reached g) :
    Reached (fun t => if p t then f t else g t) := by
  intro t
  dsimp only
  split
  · exact hf t
  · exact hg t

/-- A mark set or left. -/
theorem alook_marks (l : List (Nat × Binding)) (p : Nat × Binding → Bool) (now k : Nat) :
    (alook (l.map (fun e => if p e then (e.1, e.2.mark now) else e)) k).map Binding.size8 = (alook l k).map Binding.size8 := by
  refine alook_map l _ Binding.size8 (fun e => ?_) k
  split <;> exact ⟨rfl, rfl⟩

/-- PEND. -/
theorem reached_bindings (lines : List Nat) (team : Nat) (own : Option Nat) : Reached (markBindings lines team own) := fun t =>
  ⟨_, _, _, rfl, alook_marks t.bindings _ t.now⟩

/-- Notices. -/
theorem reached_notices (lines : List Nat) : Reached (settleNotices lines) := fun t => ⟨_, _, _, rfl, alook_marks t.bindings _ t.now⟩

/-- Read sets. -/
theorem reached_regions (lines : List Nat) : Reached (markRegions lines) := fun _ => ⟨_, _, _, rfl, fun _ => rfl⟩

/-- A trap that is due. -/
theorem reached_keepTrap (x : Trap) : Reached (fun t => t.keepTrap x) := by
  intro t
  dsimp only
  unfold Team.keepTrap
  split
  · exact ⟨_, _, _, rfl, fun _ => rfl⟩
  · exact ⟨_, _, _, rfl, fun _ => rfl⟩

/-- The bytes that a binding holds. -/
theorem reached_wrote (key : Nat) (cells : List Host.Cell) : Reached (fun t => t.wrote key cells) := by
  intro t
  dsimp only
  unfold Team.wrote
  split
  · exact ⟨_, _, _, rfl, fun _ => rfl⟩
  next b hb =>
    split
    · refine ⟨_, _, _, rfl, fun k => ?_⟩
      rw [alook_aput]
      split
      next hk => rw [hk, hb]; rfl
      next => rfl
    · exact ⟨_, _, _, rfl, fun _ => rfl⟩

section
variable {f : Team → Team} (hf : Reached f) (t : Team)
include hf

/-- Names stay. -/
theorem Reached.name : (f t).live = t.live ∧ (f t).uid = t.uid := by
  obtain ⟨b, r, p, h, -⟩ := hf t
  rw [h]
  exact ⟨rfl, rfl⟩

/-- Registers stay. -/
theorem Reached.registers : (f t).v = t.v ∧ (f t).s = t.s ∧ (f t).p = t.p := by
  obtain ⟨b, r, p, h, -⟩ := hf t
  rw [h]
  exact ⟨rfl, rfl, rfl⟩

/-- A register that is not bound stays so. -/
theorem Reached.boundAt {l q : Nat} (h : t.boundAt l q = none) : (f t).boundAt l q = none := by
  obtain ⟨b, r, p, hft, hb⟩ := hf t
  have hnone (k : Nat) (hk : alook t.bindings k = none) : alook b k = none := by
    have := hb k
    rw [hk] at this
    exact Option.map_eq_none_iff.1 this
  rw [hft]
  unfold Team.boundAt at h ⊢
  split at h
  · cases h
  next h0 =>
    dsimp only
    rw [hnone _ h0]
    dsimp only
    split at h
    next hq => rw [if_pos hq]
    next hq =>
      rw [if_neg hq]
      have hsize := hb (vkey l (q - 1))
      split at h
      next x hx =>
        split at h
        · cases h
        next h8 =>
          rw [hx] at hsize
          obtain ⟨y, hy, hy8⟩ := Option.map_eq_some_iff.1 hsize
          rw [hy]
          exact if_neg (by rwa [hy8])
      next hx => rw [hnone _ hx]

end

/-! ## States -/

/-- A state that differs by marks and due traps of teams, and not in loads or the workgroups. -/
def Updated (s t : State) : Prop := ∃ f, Reached f ∧ t.cur = f s.cur ∧ t.others = s.others.map f ∧ t.loads = s.loads ∧ t.cycle = s.cycle

/-- No change. -/
theorem Updated.refl (s : State) : Updated s s := ⟨_, .id, rfl, by simp, rfl, rfl⟩

/-- One change after another. -/
theorem Updated.trans {s t u : State} (h : Updated s t) (k : Updated t u) : Updated s u := by
  obtain ⟨f, hf, h1, h2, h3, h4⟩ := h
  obtain ⟨g, hg, k1, k2, k3, k4⟩ := k
  refine ⟨_, hf.comp hg, k1.trans (by rw [h1]), k2.trans ?_, k3.trans h3, k4.trans h4⟩
  rw [h2, List.map_map]
  rfl

/-- A change of teams. -/
theorem updated_mapTeams (s : State) {f : Team → Team} (hf : Reached f) : Updated s (s.mapTeams f) := ⟨f, hf, rfl, rfl, rfl, rfl⟩

/-- A change of one team. -/
theorem updated_modTeam (s : State) (u : Nat) {f : Team → Team} (hf : Reached f) : Updated s (s.modTeam u f) :=
  updated_mapTeams s (Reached.ite (p := fun t => t.live && t.uid == u) hf .id)

/-- A change beside teams, loads and time. -/
theorem updated_of_eq {s t : State} (h : t.cur = s.cur ∧ t.others = s.others ∧ t.loads = s.loads ∧ t.cycle = s.cycle) : Updated s t := by
  obtain ⟨h1, h2, h3, h4⟩ := h
  exact ⟨_, .id, h1, by simp [h2], h3, h4⟩

/-- A team of a state where all teams have changed under their names. -/
theorem team?_of_map {s t : State} {f : Team → Team} (hf : ∀ x, (f x).live = x.live ∧ (f x).uid = x.uid) (hc : t.cur = f s.cur)
    (ho : t.others = s.others.map f) (u : Nat) : t.team? u = (s.team? u).map f := by
  have hk : (fun x : Team => x.live && x.uid == u) ∘ f = fun x => x.live && x.uid == u := by
    funext x
    simp [(hf x).1, (hf x).2]
  simp only [State.team?, State.teams, hc, ho]
  rw [← List.map_cons, List.find?_map, hk]

/-- A team by its name. -/
theorem Updated.team? {s t : State} (h : Updated s t) {u : Nat} {x : Team} (hx : s.team? u = some x) :
    ∃ f, Reached f ∧ t.team? u = some (f x) := by
  obtain ⟨f, hf, h1, h2, -⟩ := h
  exact ⟨f, hf, by rw [team?_of_map hf.name h1 h2, hx]; rfl⟩

/-- A changed team by its name. -/
theorem team?_modTeam {s : State} {u : Nat} {x : Team} {f : Team → Team} (hf : ∀ t, (f t).live = t.live ∧ (f t).uid = t.uid)
    (hx : s.team? u = some x) : (s.modTeam u f).team? u = some (f x) := by
  have hname : ∀ t : Team, (if t.live && t.uid == u then f t else t).live = t.live ∧ (if t.live && t.uid == u then f t else t).uid = t.uid := by
    intro t
    split
    · exact hf t
    · exact ⟨rfl, rfl⟩
  have htest : (x.live && x.uid == u) = true := by simpa using List.find?_some hx
  rw [show (s.modTeam u f).team? u = _ from team?_of_map hname rfl rfl u, hx]
  exact congrArg some (if_pos htest)

/-- Bytes stand where they stood while teams keep their slices and slots. -/
theorem storePlace_mapTeams (s : State) {f : Team → Team} (hf : ∀ t, (f t).live = t.live ∧ (f t).uid = t.uid)
    (hs : ∀ t, (f t).slice = t.slice ∧ (f t).wg = t.wg ∧ (f t).slot = t.slot) (a : Nat) :
    (s.mapTeams f).storePlace a = s.storePlace a := by
  have hteam := team?_of_map (s := s) (t := s.mapTeams f) hf rfl rfl (locId a)
  have hwalk (c : Nat) (va : DWord) : (s.mapTeams f).walk c va = s.walk c va :=
    walkFrom_congr (s := s) (fun _ _ => rfl) (fun _ _ => rfl) va 3 0 _ (BitVec.isLt _)
  have hw (u : Nat) : (s.mapTeams f).wg? u = s.wg? u := rfl
  have ht (c : Nat) (va : DWord) : (s.mapTeams f).tlbEntry c va = s.tlbEntry c va := rfl
  have hb (c : Nat) : (s.mapTeams f).ctx c = s.ctx c := rfl
  simp only [State.storePlace, hteam, hw, ht, hb, hwalk]
  cases s.team? (locId a) with
  | none => rfl
  | some u =>
    obtain ⟨h1, h2, h3⟩ := hs u
    simp only [Option.map_some, h1, h2, h3]

/-! ## The steps of a read-modify-write -/

/-- Strong accesses noted: bytes stand where they stood, and memory is as before. -/
theorem noteStrong_facts (s : State) (team loc size : Nat) : Updated s (s.noteStrong team loc size) ∧
    (s.noteStrong team loc size).mem = s.mem ∧ (∀ a, (s.noteStrong team loc size).storePlace a = s.storePlace a) := by
  unfold State.noteStrong
  dsimp only
  split
  · exact ⟨.refl s, rfl, fun _ => rfl⟩
  split
  · refine ⟨(updated_of_eq ⟨rfl, rfl, rfl, rfl⟩).trans (updated_modTeam _ team (reached_keepTrap _)), rfl, fun a => ?_⟩
    have hkeep (t : Team) : (t.keepTrap tMIXSIZE).slice = t.slice ∧ (t.keepTrap tMIXSIZE).wg = t.wg ∧
        (t.keepTrap tMIXSIZE).slot = t.slot := by
      unfold Team.keepTrap
      split <;> exact ⟨rfl, rfl, rfl⟩
    refine storePlace_mapTeams _ (fun t => ?_) (fun t => ?_) a
    all_goals split
    · exact (reached_keepTrap _).name t
    · exact ⟨rfl, rfl⟩
    · exact hkeep t
    · exact ⟨rfl, rfl, rfl⟩
  · exact ⟨updated_of_eq ⟨rfl, rfl, rfl, rfl⟩, rfl, fun _ => rfl⟩

/-- A write performed. -/
theorem updated_perform (s : State) (cells : List Host.Cell) (team : Nat) (own : Option Nat) (skip : List Nat) :
    Updated s (s.perform cells team own skip) := by
  have hmarks : Reached (fun t => if skip.contains (s.teamCore t) then settleNotices (linesOf cells) t
      else markRegions (linesOf cells) (markBindings (linesOf cells) team own t)) :=
    Reached.ite (reached_notices _) ((reached_bindings _ _ _).comp (reached_regions _))
  exact ⟨_, hmarks, rfl, rfl, rfl, rfl⟩

/-- Poisoned bytes stay poisoned, and the team takes MCHK (R198). -/
theorem updated_poison (s : State) (bad : Bool) (gs : List Nat) (team : Nat) (x : Trap) :
    let t := if bad then (s.addPoison gs).modTeam team (fun t => t.keepTrap x) else s
    Updated s t ∧ t.mem = s.mem := by
  dsimp only
  split
  · exact ⟨(updated_of_eq ⟨rfl, rfl, rfl, rfl⟩).trans (updated_modTeam _ team (reached_keepTrap x)), rfl⟩
  · exact ⟨.refl s, rfl⟩

/-- A number in memory, of bytes that stand where their location says. -/
theorem memNat_eq {s : State} {loc n : Nat} (h : ∀ i, i < n → s.storePlace (loc + i) = loc + i) : s.memNat loc n = cellNat s.mem loc n := by
  rw [State.memNat, cellNat]
  congr 1
  induction n generalizing loc with
  | zero => rfl
  | succ n ih =>
    have hrest := ih (loc := loc + 1) fun i hi => by
      have := h (i + 1) (by omega)
      rwa [show loc + (i + 1) = loc + 1 + i by omega] at this
    have h0 := h 0 (by omega)
    rw [List.range_succ_eq_map, List.map_cons, List.map_map, cellBytes, ← hrest]
    refine congrArg₂ _ (by rw [State.memByte, h0, Nat.add_zero]) (List.map_congr_left fun i _ => ?_)
    rw [Function.comp_apply, Nat.succ_eq_add_one, show loc + (i + 1) = loc + 1 + i by omega]

section
variable {s : State} {core team loc size : Nat} {own : Option Nat} {f : Nat → Nat}
  (hplace : ∀ i, i < size → s.storePlace (loc + i) = loc + i)
include hplace

/-- A read-modify-write of hardware-coherent memory: the old value and the new one, which its bytes are left with. -/
theorem updateAt_hardware : (s.updateAt core team .hardware loc size own f).2 = (cellNat s.mem loc size, f (cellNat s.mem loc size)) ∧
    Updated s (s.updateAt core team .hardware loc size own f).1 ∧ (s.updateAt core team .hardware loc size own f).1.mem =
      writeCells s.mem (cellsFrom loc (leBytes size (f (cellNat s.mem loc size)))) := by
  have hold : s.oldValue core team .hardware loc size = cellNat s.mem loc size := memNat_eq hplace
  have hcells := storePlace_cellsFrom (leBytes_length size (f (cellNat s.mem loc size))) hplace
  have hperform (cells : List Host.Cell) : s.performIn .hardware cells team own [] = s.perform cells team own [] := by
    cases cells <;> rfl
  have hwrite := updated_perform s (cellsFrom loc (leBytes size (f (cellNat s.mem loc size)))) team own []
  have hmem := perform_mem (s := s) (team := team) (own := own) (skip := []) hcells
  simp only [State.updateAt, reduceCtorEq, decide_false, Bool.false_eq_true, if_false, hold, hperform]
  refine ⟨trivial, ?_⟩
  cases own with
  | none => exact ⟨hwrite.trans (updated_poison ..).1, (updated_poison ..).2.trans hmem⟩
  | some k => exact ⟨(hwrite.trans (updated_poison ..).1).trans (updated_modTeam _ team (reached_wrote k _)), (updated_poison ..).2.trans hmem⟩

end

end Sys2Proof.Machine
end

section
/-! SUPPORT. Data returns to registers of hardware-coherent memory (R24, R137, R153, R155, R174, R178). -/

namespace Sys2Proof.Machine

/-! ## Loads performed -/

section
variable {s : State} (hx : s.xfers = []) (hpath : s.path = []) {l : Load} (hs : l.space = .hardware) (hv : l.value = none)
  (hplace : ∀ i, i < l.size → s.storePlace (l.loc + i) = l.loc + i)
include hpath hs hplace

/-- A team reads hardware-coherent memory, where its core's path is empty. -/
theorem readAt_hardware (core team : Nat) : s.readAt core team l.space l.loc l.size = cellNat s.mem l.loc l.size := by
  have hbyte (a : Nat) : s.seenByte core team a = s.memByte a := by simp [State.seenByte, State.overlay, hpath, coverByte]
  rw [hs, ← memNat_eq hplace]
  simp only [State.readAt, State.seenNat, State.seenBytes, hbyte]
  rfl

/-- A read-modify-write of a load's place (R155). -/
theorem performRmw_hardware (op : AtOp) (ty : Nat) (b other : DWord) (own : Option Nat) :
    let new := atomicNew op ty (cellNat s.mem l.loc l.size) b.toNat other.toNat
    (s.performRmw l op ty b other own).2 = (cellNat s.mem l.loc l.size, new) ∧ Updated s (s.performRmw l op ty b other own).1 ∧
      (s.performRmw l op ty b other own).1.mem = writeCells s.mem (cellsFrom l.loc (leBytes l.size new)) := by
  have hforce : s.forceRange (s.coreOf l.team) l.team l.loc l.size = s := by simp [State.forceRange, hpath, needed]
  obtain ⟨hnote, hmem, hstand⟩ := noteStrong_facts s l.team l.loc (sizeUnder l.chk l.size)
  obtain ⟨h1, h2, h3⟩ := updateAt_hardware (core := s.coreOf l.team) (team := l.team) (own := own)
    (f := fun old => atomicNew op ty old b.toNat other.toNat) fun i hi => (hstand (l.loc + i)).trans (hplace i hi)
  rw [hmem] at h1 h3
  simp only [State.performRmw, hforce, hs, reduceCtorEq, decide_false, Bool.false_eq_true, if_false]
  exact ⟨h1, (hnote.trans h2).trans (updated_of_eq ⟨rfl, rfl, rfl, rfl⟩), h3⟩

include hx hv

/-- A plain load takes the bytes of memory. -/
theorem performLoad_plain (hk : l.kind = .plain) :
    s.performLoad l = (s, { l with value := some (BitVec.ofNat 128 (cellNat s.mem l.loc l.size)) }) := by
  have hrecall : s.recallCopies l.loc l.size = s := by simp [State.recallCopies, hx]
  have hread := readAt_hardware hpath hs hplace
  rw [hs] at hread
  simp only [State.performLoad, hv, hk, hrecall, Option.isSome_none, hs, reduceCtorEq, decide_false, Bool.false_eq_true, if_false, hread]

/-- An atomic takes the old value. -/
theorem performLoad_atomic {op : AtOp} {ty : Nat} {b other : DWord} (hk : l.kind = .atomic op ty b other) : ∃ t, Updated s t ∧
    t.mem = writeCells s.mem (cellsFrom l.loc (leBytes l.size (atomicNew op ty (cellNat s.mem l.loc l.size) b.toNat other.toNat))) ∧
    s.performLoad l = (t, { l with value := some (BitVec.ofNat 128 (cellNat s.mem l.loc l.size)) }) := by
  have hrecall : s.recallCopies l.loc l.size = s := by simp [State.recallCopies, hx]
  obtain ⟨h1, h2, h3⟩ := performRmw_hardware hpath hs hplace op ty b other none
  refine ⟨_, h2, h3, ?_⟩
  simp only [State.performLoad, hv, hrecall, Option.isSome_none, Bool.false_eq_true, if_false]
  rw [hk]
  simp only [h1]

/-- An atomic through a binding takes the new value, and the old one above it. -/
theorem performLoad_bound {op : AtOp} {ty : Nat} {b other : DWord} {old : List Dest} (hk : l.kind = .bound op ty b other old) :
    let new := atomicNew op ty (cellNat s.mem l.loc l.size) b.toNat other.toNat
    ∃ t, Updated s t ∧ t.mem = writeCells s.mem (cellsFrom l.loc (leBytes l.size new)) ∧
      s.performLoad l = (t, { l with value := some (BitVec.ofNat 128 (new + 2 ^ 64 * cellNat s.mem l.loc l.size)) }) := by
  have hrecall : s.recallCopies l.loc l.size = s := by simp [State.recallCopies, hx]
  obtain ⟨own, hown⟩ : ∃ own, s.performLoad l = ((s.performRmw l op ty b other own).1, { l with value := some (BitVec.ofNat 128
      ((s.performRmw l op ty b other own).2.2 + 2 ^ 64 * (s.performRmw l op ty b other own).2.1)) }) := by
    refine ⟨?own, ?eq⟩
    case eq =>
      rw [State.performLoad, if_neg (by simp [hv]), hrecall, hk]
  obtain ⟨h1, h2, h3⟩ := performRmw_hardware hpath hs hplace op ty b other own
  rw [h1] at hown
  exact ⟨_, h2, h3, hown⟩

end

/-! ## Loads that can be performed, and those that ask (R155, R340) -/

section
variable {s : State} (hstill : s.still) {l : Load} (hs : l.space = .hardware) (hv : l.value = none)
include hstill hs hv

/-- A read is ready where its core holds the line. -/
theorem loadReady_read (hk : l.kind.rmw = false) (h0 : 0 < l.size) :
    s.loadReady l = (s.copyAt (s.coreOf l.team) (lineOf l.loc)).isSome := by
  obtain ⟨-, hpath, -, -, hports⟩ := hstill
  have hover : (List.range l.size).all (fun i => (coverByte (s.overlay (s.coreOf l.team) l.team) (l.loc + i)).isSome) = false := by
    rw [List.all_eq_false]
    exact ⟨0, List.mem_range.2 h0, by simp [State.overlay, hpath, coverByte]⟩
  simp only [State.loadReady, hv, hs, hk, Space.remote, State.hostOwned, hports, State.readsHere, State.coherent, hover, Option.isSome_none,
    Bool.false_eq_true, if_false, List.any_nil, reduceCtorEq, decide_false, Bool.not_true, Bool.not_false, Bool.false_or, Bool.or_false,
    Bool.true_and]

/-- An atomic is ready where its core's L1 holds the line exclusive. -/
theorem loadReady_rmw (hk : l.kind.rmw = true) : s.loadReady l = s.owns (s.coreOf l.team) (lineOf l.loc) := by
  obtain ⟨hx, hpath, -, -, hports⟩ := hstill
  simp only [State.loadReady, hv, hs, hk, Space.remote, State.hostHeld, hports, State.mayRmw, State.coherent, State.copiesOpen, hx, hpath,
    needed, Option.isSome_none, if_true, List.any_nil, List.all_nil, reduceCtorEq, decide_false, Bool.false_eq_true, if_false,
    Bool.not_true, Bool.not_false, Bool.false_or, Bool.and_true]

omit hv in
/-- A read without the line asks for it. -/
theorem prepareLoad_read (hk : l.kind.rmw = false) (hc : s.copyAt (s.coreOf l.team) (lineOf l.loc) = none) :
    s.prepareLoad l = { s with coh := { s.coh with reqs := [⟨.getS, s.coreOf l.team, lineOf l.loc, [], [], none⟩] } } := by
  obtain ⟨-, -, hreqs, htxns, -⟩ := hstill
  have hne : decide (Space.hardware ≠ Space.chip) = true := by decide
  simp only [State.prepareLoad, hk, hs, State.askRead, State.coherent, State.askShared, hc, State.asking, hreqs, htxns, Option.isSome_none,
    hne, Bool.not_false, Bool.and_self, if_true, List.any_nil, Bool.or_self, Bool.false_eq_true, if_false,
    List.nil_append]

omit hv in
/-- An atomic without the line asks for it exclusive. -/
theorem prepareLoad_rmw (hk : l.kind.rmw = true) (hc : s.owns (s.coreOf l.team) (lineOf l.loc) = false) :
    s.prepareLoad l = { s with coh := { s.coh with
      reqs := [⟨s.writeReq (s.coreOf l.team) (lineOf l.loc), s.coreOf l.team, lineOf l.loc, [], [], none⟩] } } := by
  obtain ⟨-, -, hreqs, htxns, -⟩ := hstill
  have hne : decide (Space.hardware ≠ Space.chip) = true := by decide
  simp only [State.prepareLoad, hk, hs, State.coherent, hc, State.askExclusive, State.asking, hreqs, htxns, Bool.not_true,
    hne, Bool.and_self, if_true, List.any_nil, Bool.or_self, Bool.false_eq_true, if_false, List.nil_append]

end

/-! ## A word reaches its register (R27) -/

/-- Delivery keeps a team's name. -/
theorem takes_name (t : Team) (short : Bool) (d : Dest) (w : Word) :
    (t.takes short d w).live = t.live ∧ (t.takes short d w).uid = t.uid := by
  cases d <;> exact ⟨rfl, rfl⟩

/-- A change of one team that changes nothing. -/
theorem modTeam_id (s : State) (u : Nat) : s.modTeam u (fun t => t) = s := by
  simp only [State.modTeam, State.mapTeams, ite_self, List.map_id']

/-- A word reaches a register that is not bound. -/
theorem deliver_unbound {s : State} {l : Load} {t : Team} {d : Dest} (ht : s.team? l.team = some t)
    (hb : ∀ lane r, d = .vec lane r → t.boundAt lane r = none) (w : Word) :
    s.deliver l d w = s.modTeam l.team (fun t => t.takes l.short d w) := by
  cases d with
  | none => exact (modTeam_id ..).symm
  | scal n => rfl
  | vec lane r =>
    simp only [State.deliver, ht, hb lane r rfl, ite_self]
    rfl

/-- A word of a load that binds or updates its registers reaches them. -/
theorem deliver_binding {s : State} {l : Load} {t : Team} {lane r : Nat} (ht : s.team? l.team = some t)
    (hk : (∃ nt e va sp, l.kind = .bind nt e va sp) ∨ ∃ op ty b c old, l.kind = .bound op ty b c old) (w : Word) :
    s.deliver l (.vec lane r) w = s.modTeam l.team (fun t => t.vset l.short lane r w) := by
  rcases hk with ⟨nt, e, va, sp, hk⟩ | ⟨op, ty, b, c, old, hk⟩
  · simp only [State.deliver, ht, hk]
    rfl
  · simp only [State.deliver, ht, hk]
    rfl

/-- A team's registers without bindings. -/
theorem boundAt_nil {t : Team} (h : t.bindings = []) (l r : Nat) : t.boundAt l r = none := by
  simp [Team.boundAt, h, alook]

/-- Without a binding no pair is delivered at once. -/
theorem pairOver_unbound {t : Team} (hb : ∀ l r, t.boundAt l r = none) (a b : Option Dest) : t.pairOver a b = none := by
  unfold Team.pairOver
  split
  · rw [hb]
  · rfl

/-- A word of a load reaches a team without bindings, and leaves the list of what is outstanding. -/
theorem returnWord_unbound {s : State} {l : Load} {t : Team} {k w : Nat} {d : Dest} {pre post : List (Nat × Dest)}
    (ht : s.team? l.team = some t) (hb : ∀ l r, t.boundAt l r = none) (hd : l.dests = pre ++ (w, d) :: post)
    (hw : ∀ e ∈ pre ++ post, e.1 ≠ w) : s.returnWord k w l =
      (if pre ++ post = [] then s.dropLoad k else s.setLoad k { l with dests := pre ++ post }).modTeam l.team
        (fun t => t.takes l.short d (l.word w)) := by
  have hpair : s.pairWord l w = none := by
    simp only [State.pairWord, ht, Option.bind_some, pairOver_unbound hb]
    rfl
  have hpre : ∀ e ∈ pre, e.1 ≠ w := fun e he => hw e (by simp [he])
  have hpost : ∀ e ∈ post, e.1 ≠ w := fun e he => hw e (by simp [he])
  have hrest : l.dests.filter (fun d => decide (d.1 ≠ w)) = pre ++ post := by
    rw [hd, List.filter_append, List.filter_cons_of_neg (by simp), List.filter_eq_self.2 (by simpa using hpre),
      List.filter_eq_self.2 (by simpa using hpost)]
  have hthis : l.dests.filter (fun d => decide (d.1 = w)) = [(w, d)] := by
    rw [hd, List.filter_append, List.filter_cons_of_pos (by simp), List.filter_eq_nil_iff.2 (by simpa using hpre),
      List.filter_eq_nil_iff.2 (by simpa using hpost)]
    rfl
  simp only [State.returnWord, hpair, hrest, hthis, List.foldl_cons, List.foldl_nil]
  refine deliver_unbound (t := t) ?_ (fun _ _ _ => hb _ _) _
  split <;> exact ht

end Sys2Proof.Machine
end

section
/-! SUPPORT. The data of loads, atomics and bind loads return. -/

namespace Sys2Proof.Machine

/-! ## Values -/

/-- A number of bytes. -/
theorem leNat_lt (bs : List Byte) : leNat bs < 256 ^ bs.length := by
  induction bs with
  | nil => simp [leNat]
  | cons b bs ih =>
    have hb := b.isLt
    rw [leNat, List.length_cons, Nat.pow_succ]
    omega

/-- As many bytes as asked for. -/
theorem cellBytes_length (m : List Host.Cell) (loc n : Nat) : (cellBytes m loc n).length = n := by
  induction n generalizing loc with
  | zero => rfl
  | succ n ih => rw [cellBytes, List.length_cons, ih]

/-- A number in memory fits its bytes. -/
theorem cellNat_lt (m : List Host.Cell) (loc n : Nat) : cellNat m loc n < 256 ^ n := by
  have h := leNat_lt (cellBytes m loc n)
  rwa [cellBytes_length] at h

/-- A number written is read back, as far as it fits. -/
theorem cellNat_writeCells (m : List Host.Cell) (loc n x : Nat) : cellNat (writeCells m (cellsFrom loc (leBytes n x))) loc n = x % 256 ^ n := by
  have h := cellBytes_writeCells (leBytes n x) m loc
  rw [leBytes_length] at h
  rw [cellNat, h, leNat_leBytes]

/-- A word of a value that is not extended. -/
theorem word_of_value {l : Load} {x i : Nat} (he : l.ext = .none) (hv : l.value = some (BitVec.ofNat 128 x)) (hx : x < 2 ^ 128) :
    l.word i = BitVec.ofNat 32 (x / 2 ^ (32 * i)) := by
  simp only [Load.word, hv, he, BitVec.toNat_ofNat, Nat.mod_eq_of_lt hx]

/-- The words of a value that holds a new and an old one. -/
theorem word_halves {l : Load} {new old : Nat} (he : l.ext = .none) (hv : l.value = some (BitVec.ofNat 128 (new + 2 ^ 64 * old)))
    (hn : new < 2 ^ 32) (ho : old < 2 ^ 32) : l.word 0 = BitVec.ofNat 32 new ∧ l.word 2 = BitVec.ofNat 32 old := by
  have hx : new + 2 ^ 64 * old < 2 ^ 128 := by omega
  rw [word_of_value he hv hx, word_of_value he hv hx]
  refine ⟨BitVec.eq_of_toNat_eq ?_, BitVec.eq_of_toNat_eq ?_⟩
  all_goals
    simp only [BitVec.toNat_ofNat]
    omega

/-- An atomic through a binding returns to its bound register, and to another that is not bound. -/
theorem boundReturn_one {s rs : State} {x got : Load} {t : Team} {l r q : Nat} (hload : s.performLoad x = (rs, got))
    (hd : got.dests = [(0, .vec l r)])
    (hk : (∃ nt e va sp, got.kind = .bind nt e va sp) ∨ ∃ op ty b c old, got.kind = .bound op ty b c old) (hteam : got.team = x.team)
    (ht : rs.team? x.team = some t) (hb : t.boundAt l q = none) : s.boundReturn x [.vec l q] =
      (rs.modTeam x.team (fun t => t.vset got.short l r (got.word 0))).modTeam x.team (fun t => t.vset got.short l q (got.word 2)) := by
  have hfirst := deliver_binding (l := got) (lane := l) (r := r) (by rwa [hteam]) hk (got.word 0)
  rw [hteam] at hfirst
  have ht' : (rs.modTeam x.team (fun t => t.vset got.short l r (got.word 0))).team? x.team = some (t.vset got.short l r (got.word 0)) :=
    team?_modTeam (fun _ => ⟨rfl, rfl⟩) ht
  have hpair : (t.vset got.short l r (got.word 0)).pairOver (some (.vec l q)) none = none := rfl
  have hsecond := deliver_unbound (l := { got with kind := .plain }) (d := .vec l q) (t := t.vset got.short l r (got.word 0))
    (by rw [show ({ got with kind := .plain } : Load).team = x.team from hteam]; exact ht')
    (fun _ _ h => by cases h; exact hb) (got.word 2)
  rw [show ({ got with kind := .plain } : Load).team = x.team from hteam, hd] at hsecond
  simp only [State.boundReturn, hload, hd, List.foldl_cons, List.foldl_nil, hfirst, hteam]
  rw [ht', show (some (t.vset got.short l r (got.word 0))).bind (fun a => a.pairOver [Dest.vec l q][0]? [Dest.vec l q][1]?) = none from hpair]
  exact hsecond

/-- The line of a bobbin is asked for, and nothing else. -/
theorem holdBound_coh (s : State) (core : Nat) (space : Space) (loc : Nat) (spilled : Bool) :
    ∃ coh, s.holdBound core space loc spilled = { s with coh := coh } := by
  unfold State.holdBound State.askShared
  dsimp only
  split
  · exact ⟨_, rfl⟩
  split
  · split
    · split <;> exact ⟨_, rfl⟩
    · exact ⟨_, rfl⟩
  · split <;> exact ⟨_, rfl⟩

/-- A team whose register is bound to a place, in the stead of what it was bound to. -/
def Team.bound (t : Team) (l r : Nat) (b : Binding) : Team :=
  ({ t.unbindReg l r with bindings := aput (t.unbindReg l r).bindings (vkey l r) b }).unmark [vkey l r]

/-- Binding a register keeps a team's name. -/
theorem bound_name (t : Team) (l r : Nat) (b : Binding) : (t.bound l r b).live = t.live ∧ (t.bound l r b).uid = t.uid := by
  have h : (t.unbindReg l r).live = t.live ∧ (t.unbindReg l r).uid = t.uid := by
    unfold Team.unbindReg
    split <;> exact ⟨rfl, rfl⟩
  exact h

/-- The first binding of a team: its registers are as before. -/
theorem bound_facts {t : Team} (l r : Nat) (b : Binding) (h : t.bindings = []) :
    (t.bound l r b).sameRegisters t ∧ (t.bound l r b).bindings = [(vkey l r, b)] := by
  have hunbind : t.unbindReg l r = t := by simp only [Team.unbindReg, boundAt_nil h]
  refine ⟨?_, ?_⟩
  · simp only [Team.bound, hunbind, Team.unmark]
    exact ⟨rfl, rfl, rfl⟩
  · simp only [Team.bound, hunbind, Team.unmark, h]
    rfl

/-- The binding of a read that has not changed since. -/
def freshBinding (s : State) (x : Load) (nt : Bool) (va : Nat) (sp : Bool) (value : Nat) : Binding :=
  ⟨nt, false, va, x.space, x.loc, false, false, sp, s.cycle, s.cycle, false, s.heldAt x.space x.loc value⟩

/-- A bind load of one register returns. -/
theorem bindReturn_one {s : State} {x : Load} {t : Team} {nt : Bool} {va : Nat} {sp : Bool} {l r : Nat} {v : BitVec 128}
    (hload : s.performLoad { x with kind := .plain } = (s, { x with kind := .plain, value := some v })) (hkind : x.kind = .bind nt false va sp)
    (hd : x.dests = [(0, .vec l r)]) (ht : s.team? x.team = some t) : ∃ core, s.bindReturn x nt false va sp =
      ((s.modTeam x.team (fun t => t.vset x.short l r (Load.word { x with kind := .plain, value := some v } 0))).holdBound core x.space x.loc
        sp).modTeam x.team (fun t => t.bound l r (freshBinding s x nt va sp (v.toNat % 256 ^ 4))) := by
  have hdeliver := deliver_binding (s := s) (l := { x with value := some v }) (lane := l) (r := r) ht (.inl ⟨_, _, _, _, hkind⟩)
    (Load.word { x with kind := .plain, value := some v } 0)
  refine ⟨(s.modTeam x.team (fun t => t.vset x.short l r (Load.word { x with kind := .plain, value := some v } 0))).coreOf x.team, ?_⟩
  rw [State.bindReturn, hload]
  dsimp only
  rw [hd]
  dsimp only [List.head?_cons]
  rw [List.foldl_cons, List.foldl_nil]
  rw [hd] at hdeliver
  rw [hdeliver]
  rfl

section
variable {s : State} {k w : Nat} {x : Load} {t : Team} (hk : s.loads[k]? = some x) (ht : s.team? x.team = some t) (hstill : s.still)
  (hs : x.space = .hardware) (hv : x.value = none)
include hk hs hv

/-! ## What a return is -/

/-- A load or an atomic returns. -/
theorem exec_return_plain (hkind : x.kind = .plain ∨ ∃ op ty b c, x.kind = .atomic op ty b c) : exec (.loadDataReturn k w) s =
    .next (if s.loadReady x then ((s.performLoad x).1.setLoad k (s.performLoad x).2).returnWord k w (s.performLoad x).2
      else s.prepareLoad x) := by
  have hexec : exec (.loadDataReturn k w) s = .next (s.returnLoad k w x) := by
    rw [show exec (.loadDataReturn k w) s = execLoadDataReturn k w s from rfl, execLoadDataReturn, hk]
  rw [hexec]
  have hrem : x.space.remote = false := by rw [hs]; rfl
  congr 1
  rcases hkind with h | ⟨op, ty, b, c, h⟩
  all_goals
    cases hr : s.loadReady x
    all_goals simp only [State.returnLoad, h, hv, hrem, hr, Option.isSome_none, Bool.false_eq_true, if_false, Bool.not_true, Bool.not_false, if_true]

omit hv in
/-- A bind load returns. -/
theorem exec_return_bind {nt e : Bool} {va : Nat} {sp : Bool} (hkind : x.kind = .bind nt e va sp) : exec (.loadDataReturn k w) s =
    .next (if s.loadReady x then (s.dropLoad k).bindReturn x nt e va sp else s.prepareLoad x) := by
  rw [show exec (.loadDataReturn k w) s = execLoadDataReturn k w s from rfl, execLoadDataReturn, hk]
  have hrem : x.space.remote = false := by rw [hs]; rfl
  cases hr : s.loadReady x
  all_goals simp only [State.returnLoad, hkind, hrem, hr, Bool.false_and, Bool.false_eq_true, if_false, Bool.not_true, Bool.not_false, if_true]

omit hv in
/-- An atomic through a binding returns. -/
theorem exec_return_bound {op : AtOp} {ty : Nat} {b c : DWord} {old : List Dest} (hkind : x.kind = .bound op ty b c old) :
    exec (.loadDataReturn k w) s = .next (if s.loadReady x then (s.dropLoad k).boundReturn x old else s.prepareLoad x) := by
  rw [show exec (.loadDataReturn k w) s = execLoadDataReturn k w s from rfl, execLoadDataReturn, hk]
  have hrem : x.space.remote = false := by rw [hs]; rfl
  cases hr : s.loadReady x
  all_goals simp only [State.returnLoad, hkind, hrem, hr, Bool.false_and, Bool.false_eq_true, if_false, Bool.not_true, Bool.not_false, if_true]

include ht hstill

/-! ## Without the line -/

/-- A load or bind load without its line asks for it. -/
theorem return_asks_shared (h0 : 0 < x.size) (hc : s.copyAt (s.coreOf x.team) (lineOf x.loc) = none)
    (hkind : x.kind = .plain ∨ ∃ nt e va sp, x.kind = .bind nt e va sp) : ∃ u, exec (.loadDataReturn k w) s = .next u ∧ u.mem = s.mem ∧
      u.loads = s.loads ∧ u.team? x.team = some t ∧ u.coh.reqs = [⟨.getS, s.coreOf x.team, lineOf x.loc, [], [], none⟩] := by
  have hrmw : x.kind.rmw = false := by rcases hkind with h | ⟨nt, e, va, sp, h⟩ <;> rw [h] <;> rfl
  have hready : ¬ s.loadReady x = true := by rw [loadReady_read hstill hs hv hrmw h0, hc]; decide
  have hasks := prepareLoad_read hstill hs hrmw hc
  refine ⟨s.prepareLoad x, ?_, ?_⟩
  · rcases hkind with h | ⟨nt, e, va, sp, h⟩
    · rw [exec_return_plain hk hs hv (.inl h), if_neg hready]
    · rw [exec_return_bind hk hs h, if_neg hready]
  · rw [hasks]
    exact ⟨rfl, rfl, ht, rfl⟩

/-- An atomic without its line asks for it. -/
theorem return_asks_exclusive {op : AtOp} {ty : Nat} {b c : DWord} (hkind : x.kind = .atomic op ty b c)
    (ho : s.owns (s.coreOf x.team) (lineOf x.loc) = false) : ∃ u, exec (.loadDataReturn k w) s = .next u ∧ u.mem = s.mem ∧
      u.loads = s.loads ∧ u.team? x.team = some t ∧ u.asking (s.coreOf x.team) (lineOf x.loc) [.getM, .upgrade] = true := by
  have hrmw : x.kind.rmw = true := by rw [hkind]; rfl
  have hready : ¬ s.loadReady x = true := by rw [loadReady_rmw hstill hs hv hrmw, ho]; decide
  refine ⟨s.prepareLoad x, by rw [exec_return_plain hk hs hv (.inr ⟨op, ty, b, c, hkind⟩), if_neg hready], ?_⟩
  rw [prepareLoad_rmw hstill hs hrmw ho]
  refine ⟨rfl, rfl, ht, ?_⟩
  have hreq : [Req.getM, .upgrade].contains (s.writeReq (s.coreOf x.team) (lineOf x.loc)) = true := by
    unfold State.writeReq
    split <;> decide
  simp only [State.asking, List.any_cons, beq_self_eq_true, Bool.true_and, hreq, Bool.true_or]

variable (hplace : ∀ j, j < x.size → s.storePlace (x.loc + j) = x.loc + j)
include hplace

/-! ## With the line -/

section
variable {d : Dest} {pre post : List (Nat × Dest)} (hd : x.dests = pre ++ (w, d) :: post) (hw : ∀ e ∈ pre ++ post, e.1 ≠ w)
  (hb : t.bindings = [])
include hd hw hb

omit hk hstill hs hv hplace in
/-- A word of a performed load reaches its register. -/
theorem returned_word {r : State} (hr : Updated s r) (got : Load) (hteam : got.team = x.team) (hdests : got.dests = x.dests) :
    ((r.setLoad k got).returnWord k w got).mem = r.mem ∧ ((r.setLoad k got).returnWord k w got).loads =
      (if pre ++ post = [] then s.loads.eraseIdx k else s.loads.set k { got with dests := pre ++ post }) ∧
      ∃ t', ((r.setLoad k got).returnWord k w got).team? x.team = some t' ∧ t'.sameRegisters (t.takes got.short d (got.word w)) := by
  obtain ⟨f, hf, hteam?⟩ := hr.team? ht
  have hloads : r.loads = s.loads := by
    obtain ⟨_, _, -, -, h, -⟩ := hr
    exact h
  have hunbound : ∀ l q, (f t).boundAt l q = none := fun l q => hf.boundAt t (boundAt_nil hb l q)
  rw [returnWord_unbound (t := f t) (pre := pre) (post := post) (d := d) (by rw [hteam]; exact hteam?) hunbound (by rw [hdests, hd]) hw, hteam]
  refine ⟨?_, ?_, _, team?_modTeam (fun t => takes_name t got.short d (got.word w)) (x := f t) ?_, ?_⟩
  · split <;> rfl
  · split
    · rw [← hloads]
      exact List.eraseIdx_set_eq
    · rw [← hloads]
      exact List.set_set _
  · split <;> exact hteam?
  · obtain ⟨h1, h2, h3⟩ := hf.registers t
    cases d <;> simp [Team.sameRegisters, Team.takes, Team.vset, Team.sset, h1, h2, h3]

/-- A load's word returns. -/
theorem return_plain (h0 : 0 < x.size) (hkind : x.kind = .plain) (hc : s.copyAt (s.coreOf x.team) (lineOf x.loc) ≠ none) :
    let got : Load := { x with value := some (BitVec.ofNat 128 (cellNat s.mem x.loc x.size)) }
    ∃ u t', exec (.loadDataReturn k w) s = .next u ∧ (∀ a, u.byte a = s.byte a) ∧
      u.loads = (if pre ++ post = [] then s.loads.eraseIdx k else s.loads.set k { got with dests := pre ++ post }) ∧
      u.team? x.team = some t' ∧ t'.sameRegisters (t.takes x.short d (got.word w)) := by
  have hready : s.loadReady x = true := by
    rw [loadReady_read hstill hs hv (by rw [hkind]; rfl) h0]
    exact Option.isSome_iff_ne_none.2 hc
  obtain ⟨hx, hpath, -⟩ := id hstill
  have hload := performLoad_plain hx hpath hs hv hplace hkind
  obtain ⟨hmem, hloads, t', ht', hregs⟩ := returned_word ht hd hw hb (.refl s)
    { x with value := some (BitVec.ofNat 128 (cellNat s.mem x.loc x.size)) } rfl rfl
  refine ⟨_, t', by rw [exec_return_plain hk hs hv (.inl hkind), if_pos hready, hload], fun a => ?_, hloads, ht', hregs⟩
  rw [State.byte, hmem]
  rfl

/-- An atomic's old value returns. -/
theorem return_atomic {op : AtOp} {ty : Nat} {b c : DWord} (hkind : x.kind = .atomic op ty b c)
    (ho : s.owns (s.coreOf x.team) (lineOf x.loc) = true) (hty : ty ≤ 3) (hsize : x.size = if 2 ≤ ty then 8 else 4) :
    let n := cellNat s.mem x.loc x.size
    let got : Load := { x with value := some (BitVec.ofNat 128 n) }
    ∃ u t', exec (.loadDataReturn k w) s = .next u ∧ cellNat u.mem x.loc x.size = rmwValue op ty n b.toNat c.toNat ∧
      (∀ a, (a < x.loc ∨ x.loc + x.size ≤ a) → u.byte a = s.byte a) ∧
      u.loads = (if pre ++ post = [] then s.loads.eraseIdx k else s.loads.set k { got with dests := pre ++ post }) ∧
      u.team? x.team = some t' ∧ t'.sameRegisters (t.takes x.short d (got.word w)) := by
  have hready : s.loadReady x = true := by rwa [loadReady_rmw hstill hs hv (by rw [hkind]; rfl)]
  obtain ⟨hx, hpath, -⟩ := id hstill
  obtain ⟨r, hr, hwrites, hload⟩ := performLoad_atomic hx hpath hs hv hplace hkind
  obtain ⟨hmem, hloads, t', ht', hregs⟩ := returned_word ht hd hw hb hr
    { x with value := some (BitVec.ofNat 128 (cellNat s.mem x.loc x.size)) } rfl rfl
  have hpow : 256 ^ x.size = 2 ^ intWidth ty := by
    rw [hsize, intWidth]
    split <;> norm_num
  have hold : cellNat s.mem x.loc x.size < 2 ^ intWidth ty := hpow ▸ cellNat_lt ..
  refine ⟨_, t', by rw [exec_return_plain hk hs hv (.inr ⟨op, ty, b, c, hkind⟩), if_pos hready, hload], ?_, fun a ha => ?_, hloads, ht', hregs⟩
  · rw [hmem, hwrites, cellNat_writeCells, atomicNew_eq hty hold, hpow, Nat.mod_eq_of_lt (rmwValue_lt hold ..)]
  · rw [State.byte, hmem, hwrites]
    exact cellAt_writeCells_outside _ _ _ _ (by rwa [leBytes_length])

end

/-! ## Bindings -/

/-- An atomic through a binding leaves the new value in the bound register and the old one in its destination. -/
theorem return_bound {op : AtOp} {ty : Nat} {b c : DWord} {l r q : Nat} (hkind : x.kind = .bound op ty b c [.vec l q])
    (ho : s.owns (s.coreOf x.team) (lineOf x.loc) = true) (hty : ty ≤ 1) (hsize : x.size = 4) (he : x.ext = .none)
    (hd : x.dests = [(0, .vec l r)]) (hr : r < 96) (hq : q < 96) (hne : q ≠ r) (hb : t.boundAt l q = none) :
    let n := cellNat s.mem x.loc x.size
    ∃ u t', exec (.loadDataReturn k w) s = .next u ∧ cellNat u.mem x.loc 4 = rmwValue op ty n b.toNat c.toNat ∧
      (∀ a, (a < x.loc ∨ x.loc + 4 ≤ a) → u.byte a = s.byte a) ∧ u.loads = s.loads.eraseIdx k ∧
      u.team? x.team = some t' ∧ tget 0 t'.v (vkey l r) = BitVec.ofNat 32 (rmwValue op ty n b.toNat c.toNat) ∧
      tget 0 t'.v (vkey l q) = BitVec.ofNat 32 n ∧
      (∀ j, j ≠ vkey l r → j ≠ vkey l q → tget 0 t'.v j = tget 0 t.v j) := by
  have hready : s.loadReady x = true := by rwa [loadReady_rmw hstill hs hv (by rw [hkind]; rfl)]
  obtain ⟨hx, hpath, -⟩ := id hstill
  obtain ⟨rs, hu, hwrites, hload⟩ := performLoad_bound (s := s.dropLoad k) hx hpath hs hv hplace hkind
  obtain ⟨f, hf, hteam⟩ := hu.team? (x := t) ht
  have hloads : rs.loads = s.loads.eraseIdx k := by
    obtain ⟨_, _, -, -, h, -⟩ := hu
    exact h
  have hpow : 256 ^ x.size = 2 ^ intWidth ty := by
    rw [hsize, intWidth, if_neg (by omega)]
    norm_num
  have hw32 : 2 ^ intWidth ty = 2 ^ 32 := by rw [intWidth, if_neg (by omega)]
  have hold : cellNat s.mem x.loc x.size < 2 ^ intWidth ty := hpow ▸ cellNat_lt ..
  have hnew := rmwValue_lt (ty := ty) hold op b.toNat c.toNat
  have hval := atomicNew_eq (by omega) hold op b.toNat c.toNat
  obtain ⟨got, hgot⟩ : ∃ got : Load, got = { x with value := some (BitVec.ofNat 128
    (atomicNew op ty (cellNat s.mem x.loc x.size) b.toNat c.toNat + 2 ^ 64 * cellNat s.mem x.loc x.size)) } := ⟨_, rfl⟩
  have hload' : (s.dropLoad k).performLoad x = (rs, got) := hload.trans (by rw [hgot]; rfl)
  have hgd : got.dests = [(0, .vec l r)] := by rw [hgot]; exact hd
  have hgk : got.kind = .bound op ty b c [.vec l q] := by rw [hgot]; exact hkind
  have hgt : got.team = x.team := by rw [hgot]
  obtain ⟨hlow, hhigh⟩ := word_halves (l := got) (by rw [hgot]; exact he) (by rw [hgot, hval]) (hw32 ▸ hnew) (hw32 ▸ hold)
  have hreturn := boundReturn_one hload' hgd (.inr ⟨op, ty, b, c, _, hgk⟩) hgt hteam (hf.boundAt t hb)
  rw [hlow, hhigh] at hreturn
  have hmem : rs.mem = writeCells s.mem (cellsFrom x.loc (leBytes x.size (rmwValue op ty (cellNat s.mem x.loc x.size) b.toNat c.toNat))) := by
    rw [← hval]
    exact hwrites
  have hregs : ((f t).v) = t.v := (hf.registers t).1
  have hexec := exec_return_bound (w := w) hk hs hkind
  rw [if_pos hready, hreturn] at hexec
  refine ⟨_, _, hexec, ?_, fun a ha => ?_, hloads, team?_modTeam (fun _ => ⟨rfl, rfl⟩) (team?_modTeam (fun _ => ⟨rfl, rfl⟩) hteam), ?_, ?_, fun j h1 h2 => ?_⟩
  · rw [← hsize]
    refine (congrArg (cellNat · x.loc x.size) hmem).trans ?_
    rw [cellNat_writeCells, hpow, Nat.mod_eq_of_lt hnew]
  · refine (congrArg (cellAt · a) hmem).trans (cellAt_writeCells_outside _ _ _ _ ?_)
    rwa [leBytes_length, hsize]
  · have hkeys : vkey l r ≠ vkey l q := fun h => hne ((vkey_inj hr hq).1 h).2.symm
    simp only [Team.vset, tget_tset_of_ne _ _ _ hkeys, tget_tset_self]
  · simp only [Team.vset, tget_tset_self]
  · simp only [Team.vset, tget_tset_of_ne _ _ _ h1, tget_tset_of_ne _ _ _ h2, hregs]

/-- A bind load registers its binding with the bytes that it takes. -/
theorem return_bind {nt : Bool} {va : Nat} {sp : Bool} {l r : Nat} (hkind : x.kind = .bind nt false va sp) (hsize : x.size = 4)
    (he : x.ext = .none) (hd : x.dests = [(0, .vec l r)]) (hc : s.copyAt (s.coreOf x.team) (lineOf x.loc) ≠ none)
    (hb : t.bindings = []) : ∃ u t', exec (.loadDataReturn k w) s = .next u ∧ (∀ a, u.byte a = s.byte a) ∧
      u.loads = s.loads.eraseIdx k ∧ u.team? x.team = some t' ∧
      t'.sameRegisters (t.vset x.short l r (BitVec.ofNat 32 (cellNat s.mem x.loc x.size))) ∧
      t'.bindings = [(vkey l r, ⟨nt, false, va, .hardware, x.loc, false, false, sp, s.cycle, s.cycle, false, none⟩)] := by
  have hready : s.loadReady x = true := by
    rw [loadReady_read hstill hs hv (by rw [hkind]; rfl) (by omega)]
    exact Option.isSome_iff_ne_none.2 hc
  obtain ⟨hx, hpath, -⟩ := id hstill
  have hload := performLoad_plain (s := s.dropLoad k) (l := { x with kind := .plain }) hx hpath hs hv hplace rfl
  have hword := word_of_value (l := { x with kind := .plain, value := some (BitVec.ofNat 128 (cellNat s.mem x.loc x.size)) }) (i := 0) he rfl
    (lt_of_lt_of_le (cellNat_lt s.mem x.loc x.size) (by rw [hsize]; norm_num))
  rw [Nat.mul_zero, pow_zero, Nat.div_one] at hword
  obtain ⟨core, hreturn⟩ := bindReturn_one (t := t) (nt := nt) (va := va) (sp := sp) hload hkind hd ht
  obtain ⟨coh, hcoh⟩ := holdBound_coh ((s.dropLoad k).modTeam x.team (fun t => t.vset x.short l r
    (BitVec.ofNat 32 (cellNat s.mem x.loc x.size)))) core x.space x.loc sp
  rw [show Load.word { x with kind := .plain, value := some (BitVec.ofNat 128 (cellNat (s.dropLoad k).mem x.loc x.size)) } 0 = _ from hword,
    hcoh] at hreturn
  have hexec := exec_return_bind (w := w) hk hs hkind
  rw [if_pos hready, hreturn] at hexec
  obtain ⟨hregs, hbound⟩ := bound_facts (t := t.vset x.short l r (BitVec.ofNat 32 (cellNat s.mem x.loc x.size))) l r
    (freshBinding s x nt va sp ((BitVec.ofNat 128 (cellNat s.mem x.loc x.size)).toNat % 256 ^ 4)) hb
  have hset : ((s.dropLoad k).modTeam x.team (fun t => t.vset x.short l r (BitVec.ofNat 32 (cellNat s.mem x.loc x.size)))).team? x.team =
      some (t.vset x.short l r (BitVec.ofNat 32 (cellNat s.mem x.loc x.size))) :=
    team?_modTeam (s := s.dropLoad k) (fun _ => ⟨rfl, rfl⟩) ht
  refine ⟨_, _, hexec, fun a => rfl, rfl, team?_modTeam (fun t => bound_name t l r _) hset, hregs, ?_⟩
  · refine hbound.trans ?_
    simp only [freshBinding, hs, State.heldAt]

end

/-- Settles O36: what a return does, by the kind of the load and by whether its core holds the line. -/
theorem loadDataReturns : Obligations.LoadDataReturns := by
  unfold Obligations.LoadDataReturns
  intro s k w x t d pre post hk ht hstill hs hv h0 hmax hd hw hplace held n got rest
  refine ⟨fun hc hkind => ?_, fun hkind hc hb => ?_, fun op ty b c hkind ho => ?_, fun op ty b c hkind ho hty hsize hb => ?_,
    fun op ty b c l r q hkind ho hty hsize he hd hr hq hne hb => ?_, fun nt va sp l r hkind hsize he hd hr hc hb => ?_⟩
  · exact return_asks_shared hk ht hstill hs hv h0 (not_not.1 hc) hkind
  · exact return_plain hk ht hstill hs hv hplace hd hw hb h0 hkind hc
  · exact return_asks_exclusive hk ht hstill hs hv hkind ho
  · exact return_atomic hk ht hstill hs hv hplace hd hw hb hkind ho hty hsize
  · exact return_bound hk ht hstill hs hv hplace hkind ho hty hsize he hd hr hq hne hb
  · exact return_bind hk ht hstill hs hv hplace hkind hsize he hd hc hb

end Sys2Proof.Machine
end

section
/-! SUPPORT. Memory keeps its canonical form (O7). Every function of the model that gives a state has one lemma here, in the model's
order: from a state whose memory is canonical it gives one whose memory is. Few of them write memory (`writeMem`, `clearStore`,
`moveStore`, `moveRange`, `ownView`, `reset`); the others pass a state on, and their lemmas follow the functions that they call. A lemma is
named after its function under `State.memCanonical`, so that a proof reads as the function does: `h.setCur.observe` is of
`(s.setCur t).observe`. `h.frame` is of an update of `s` that leaves `s.mem` as it is. -/
namespace Sys2Proof.Machine

-- The lemmas are elaborated one after another: each cites those before it, and hundreds of waiting threads would fill memory.
set_option Elab.async false

/-! ## The form through combinators -/

/-- A result that leaves memory in its canonical form. -/
def Res.Canonical : Res → Prop
  | .done t => t.memCanonical
  | .jump t => t.memCanonical
  | .stay t => t.memCanonical
  | .trap t _ _ => t.memCanonical

/-- An outcome that leaves memory in its canonical form. -/
def CanonicalOutcome : Host.Outcome State Fault Refusal → Prop
  | .next t => t.memCanonical
  | _ => True

theorem State.memCanonical.foldl {α : Type} {s : State} {f : State → α → State} {l : List α} (h : s.memCanonical)
    (hf : ∀ s x, s.memCanonical → (f s x).memCanonical) : (l.foldl f s).memCanonical := by
  induction l generalizing s with
  | nil => exact h
  | cons x l ih => exact ih (hf s x h)

/-- A state, if any, with memory in its canonical form. -/
def CanonicalOption : Option State → Prop
  | some t => t.memCanonical
  | none => True

/-- A result, if any, that leaves memory in its canonical form. -/
def CanonicalOptRes : Option Res → Prop
  | some r => r.Canonical
  | none => True

/-- A state beside something else, if any, with memory in its canonical form. -/
def CanonicalOptPair {α : Type} : Option (State × α) → Prop
  | some p => p.1.memCanonical
  | none => True

theorem canonical_getD {o : Option State} {s : State} (ho : CanonicalOption o) (h : s.memCanonical) : (o.getD s).memCanonical := by
  cases o with
  | none => exact h
  | some t => exact ho

theorem canonicalRes_getD {o : Option Res} {r : Res} (ho : CanonicalOptRes o) (h : r.Canonical) : (o.getD r).Canonical := by
  cases o with
  | none => exact h
  | some t => exact ho

theorem canonicalOption_map {α : Type} {o : Option α} {f : α → State} (h : ∀ x, (f x).memCanonical) : CanonicalOption (o.map f) := by
  cases o with
  | none => trivial
  | some x => exact h x

theorem canonical_foldl_fst {α β : Type} {f : State × β → α → State × β} {l : List α} {p : State × β} (h : p.1.memCanonical)
    (hf : ∀ p x, p.1.memCanonical → (f p x).1.memCanonical) : (l.foldl f p).1.memCanonical := by
  induction l generalizing p with
  | nil => exact h
  | cons x l ih => exact ih (hf p x h)

/-- What leaves memory as it is keeps its form. -/
theorem State.memCanonical.frame {s t : State} (h : s.memCanonical) (e : t.mem = s.mem := by rfl) : t.memCanonical := by
  rw [State.memCanonical, e]
  exact h

theorem canonical_fst {α : Type} {p : State × α} {t : State} {x : α} (e : p = (t, x)) (h : p.1.memCanonical) : t.memCanonical := by
  rw [e] at h
  exact h

theorem canonical_of_eq {α : Type} {p : State × α} {t : State} {x : α} (e : p = (t, x)) (h : t.memCanonical) :
    p.1.memCanonical := by
  rw [e]
  exact h

theorem canonical_some {o : Option State} {t : State} (e : o = some t) (h : CanonicalOption o) : t.memCanonical := by
  rw [e] at h
  exact h

theorem canonical_done {r : Res} {t : State} (e : r = .done t) (h : r.Canonical) : t.memCanonical := by
  rw [e] at h
  exact h

theorem canonical_jump {r : Res} {t : State} (e : r = .jump t) (h : r.Canonical) : t.memCanonical := by
  rw [e] at h
  exact h

theorem canonical_stay {r : Res} {t : State} (e : r = .stay t) (h : r.Canonical) : t.memCanonical := by
  rw [e] at h
  exact h

theorem canonical_trap {r : Res} {t : State} {cs : List Cond} {m : Mask} (e : r = .trap t cs m) (h : r.Canonical) : t.memCanonical := by
  rw [e] at h
  exact h

theorem canonicalPair_findSome {α β : Type} {l : List α} {f : α → Option (State × β)} (h : ∀ x, CanonicalOptPair (f x)) :
    CanonicalOptPair (l.findSome? f) := by
  induction l with
  | nil => trivial
  | cons x l ih =>
    rw [List.findSome?_cons]
    split
    next p hp => exact hp ▸ h x
    next => exact ih

theorem canonicalPair_map {α β : Type} {o : Option (State × α)} {f : α → β} (h : CanonicalOptPair o) :
    CanonicalOptPair (o.map (fun p => (p.1, f p.2))) := by
  cases o with
  | none => trivial
  | some p => exact h

theorem canonicalOption_map_pair {α : Type} {o : Option (State × α)} {f : State × α → State} (h : CanonicalOptPair o)
    (hf : ∀ p, p.1.memCanonical → (f p).memCanonical) : CanonicalOption (o.map f) := by
  cases o with
  | none => trivial
  | some p => exact hf p h

theorem canonicalOption_bind {α : Type} {o : Option α} {f : α → Option State} (h : ∀ x, CanonicalOption (f x)) :
    CanonicalOption (o.bind f) := by
  cases o with
  | none => trivial
  | some x => exact h x

/-- One state or another. -/
theorem State.memCanonical.ite {c : Prop} [Decidable c] {s t : State} (hs : s.memCanonical) (ht : t.memCanonical) :
    (if c then s else t).memCanonical := by
  split
  · exact hs
  · exact ht

theorem canonical_ite_fst {α : Type} {c : Prop} [Decidable c] {p q : State × α} (hp : p.1.memCanonical) (hq : q.1.memCanonical) :
    (if c then p else q).1.memCanonical := by
  split
  · exact hp
  · exact hq

/-! ## Base: what the functions of `Machine/Base` leave of the form -/

theorem State.memCanonical.setCore {c x} {s : State} (h : s.memCanonical) :
    (s.setCore c x).memCanonical :=
  h

theorem State.memCanonical.setCtx {c x} {s : State} (h : s.memCanonical) :
    (s.setCtx c x).memCanonical :=
  h

theorem State.memCanonical.setDie {d x} {s : State} (h : s.memCanonical) :
    (s.setDie d x).memCanonical :=
  h

theorem State.memCanonical.setHostPort {p x} {s : State} (h : s.memCanonical) :
    (s.setHostPort p x).memCanonical :=
  h

theorem State.memCanonical.modWg {u f} {s : State} (h : s.memCanonical) :
    (s.modWg u f).memCanonical :=
  h

theorem State.memCanonical.mapTeams {f} {s : State} (h : s.memCanonical) :
    (s.mapTeams f).memCanonical :=
  h

theorem State.memCanonical.modTeam {u f} {s : State} (h : s.memCanonical) :
    (s.modTeam u f).memCanonical :=
  h.mapTeams

theorem State.memCanonical.setCur {t} {s : State} (h : s.memCanonical) :
    (s.setCur t).memCanonical :=
  h

theorem State.memCanonical.modLaunch {id f} {s : State} (h : s.memCanonical) :
    (s.modLaunch id f).memCanonical :=
  h

theorem State.memCanonical.draw {s : State} (h : s.memCanonical) :
    s.draw.memCanonical :=
  h

theorem State.memCanonical.takeSeq {s : State} (h : s.memCanonical) :
    s.takeSeq.memCanonical :=
  h

/-! ## Memory: what the functions of `Machine/Memory` leave of the form -/

theorem State.memCanonical.reach {cells team own skip} {s : State} (h : s.memCanonical) :
    (s.reach cells team own skip).memCanonical :=
  h.frame.mapTeams

theorem State.memCanonical.writeMem {cells} {s : State} (h : s.memCanonical) :
    (s.writeMem cells).memCanonical :=
  writeMem_wf s cells h

theorem State.memCanonical.perform {cells team own skip} {s : State} (h : s.memCanonical) :
    (s.perform cells team own skip).memCanonical :=
  h.writeMem.reach

theorem State.memCanonical.writePast {cells} {s : State} (h : s.memCanonical) :
    (s.writePast cells).memCanonical :=
  h.writeMem.draw

theorem State.memCanonical.performIn {space cells team own skip} {s : State} (h : s.memCanonical) :
    (s.performIn space cells team own skip).memCanonical := by
  unfold State.performIn
  split
  · split
    · exact h.perform
    · exact h.writePast
  · exact h.perform

theorem State.memCanonical.observe {s : State} (h : s.memCanonical) :
    s.observe.memCanonical :=
  h.setCur

theorem State.memCanonical.setDir {line e} {s : State} (h : s.memCanonical) :
    (s.setDir line e).memCanonical :=
  h

theorem State.memCanonical.invalidateOthers {agent lines} {s : State} (h : s.memCanonical) :
    (s.invalidateOthers agent lines).memCanonical :=
  h.frame.foldl (fun _ _ h2 => h2.setDir)

theorem State.memCanonical.atHomeSlice {line} {s : State} (h : s.memCanonical) :
    (s.atHomeSlice line).memCanonical :=
  h.invalidateOthers

theorem State.memCanonical.touchEntry {w wr} {s : State} (h : s.memCanonical) :
    (s.touchEntry w wr).memCanonical :=
  h.ite h.perform.atHomeSlice

theorem State.memCanonical.fillTlb {c va leaf level} {s : State} (h : s.memCanonical) :
    (s.fillTlb c va leaf level).memCanonical := by
  unfold State.fillTlb
  dsimp only
  split
  · exact h
  · exact h

theorem State.memCanonical.translate {c va need x} {s : State} (h : s.memCanonical) :
    (s.translate c va need x).1.memCanonical := by
  unfold State.translate
  dsimp only
  split
  · exact h
  · split
    · exact h
    · split
      · split
        · split
          · exact h.draw
          · exact h.draw
        · exact h
      · split
        · exact h.draw
        · split
          · exact h.touchEntry.fillTlb
          · exact h

theorem State.memCanonical.stage2 {c wg pre size need} {s : State} (h : s.memCanonical) :
    (s.stage2 c wg pre size need).1.memCanonical := by
  unfold State.stage2
  dsimp only
  split
  · split
    · split
      · exact h
      · exact h
    · split
      · exact h
      · exact h
  · split
    · exact h
    · exact h
  · split
    · split
      · exact h.translate
      · exact h.translate
    · exact h.translate

theorem State.memCanonical.touchCtx {c va} {s : State} (h : s.memCanonical) :
    (s.touchCtx c va).memCanonical :=
  h.translate

theorem State.memCanonical.writeNow {c va bs} {s : State} (h : s.memCanonical) :
    (s.writeNow c va bs).1.memCanonical := by
  unfold State.writeNow
  split
  next _ t1 _ _ _ heq =>
    have ht1 : t1.memCanonical := canonical_fst heq h.translate
    exact ht1
  next _ t1 _ _ _ heq =>
    have ht1 : t1.memCanonical := canonical_fst heq h.translate
    exact ht1.perform.atHomeSlice
  next _ t1 _ _ heq =>
    have ht1 : t1.memCanonical := canonical_fst heq h.translate
    exact ht1
  next _ t1 _ heq =>
    have ht1 : t1.memCanonical := canonical_fst heq h.translate
    exact ht1

theorem State.memCanonical.writeCtx {c va bs} {s : State} (h : s.memCanonical) :
    (s.writeCtx c va bs).memCanonical := by
  unfold State.writeCtx
  dsimp only
  split
  · exact h.setCtx
  · split
    next _ t3 _ heq3 =>
      have ht3 : t3.memCanonical := canonical_fst heq3 h.writeNow
      exact ht3.setCtx
    next _ t3 heq3 =>
      have ht3 : t3.memCanonical := canonical_fst heq3 h.writeNow
      exact ht3

theorem State.memCanonical.writeQueue {c base e} {s : State} (h : s.memCanonical) :
    (s.writeQueue c base e).memCanonical :=
  h.writeCtx.writeCtx

theorem State.memCanonical.postFq {c kind sub arg0 arg1 party} {s : State} (h : s.memCanonical) :
    (s.postFq c kind sub arg0 arg1 party).memCanonical := by
  unfold State.postFq
  dsimp only
  split
  · exact h.touchCtx.setCtx.writeQueue
  · exact h.touchCtx.setCtx

theorem State.memCanonical.postHrq {c kind sub arg0 arg1 party} {s : State} (h : s.memCanonical) :
    (s.postHrq c kind sub arg0 arg1 party).memCanonical := by
  unfold State.postHrq
  dsimp only
  split
  · exact h.touchCtx.setCtx.writeQueue
  · exact h.touchCtx.setCtx

theorem State.memCanonical.askPage {c page access t party arg1} {s : State} (h : s.memCanonical) :
    (s.askPage c page access t party arg1).memCanonical := by
  unfold State.askPage
  dsimp only
  split
  · exact h.frame
  · split
    · exact h.frame
    · exact h.frame.postFq

/-! ## Ops: what the functions of `Machine/Ops` leave of the form -/

theorem State.memCanonical.endWg {u status trap} {s : State} (h : s.memCanonical) :
    (s.endWg u status trap).memCanonical := by
  unfold State.endWg
  dsimp only
  split
  · exact h
  · exact h.frame.mapTeams.modWg

theorem State.memCanonical.takeTrap {x fmask fpc} {s : State} (h : s.memCanonical) :
    (s.takeTrap x fmask fpc).memCanonical := by
  unfold State.takeTrap
  dsimp only
  split
  · exact h.endWg
  · split
    · exact h.frame.endWg
    · exact h.setCur

theorem State.memCanonical.trapHere {x fmask} {s : State} (h : s.memCanonical) :
    (s.trapHere x fmask).memCanonical :=
  h.takeTrap

theorem State.memCanonical.stepStop {before} {s : State} (h : s.memCanonical) :
    (State.stepStop before s).memCanonical := by
  unfold State.stepStop
  dsimp only
  split
  · exact h.observe.takeTrap
  · exact h

theorem State.memCanonical.settleAborts {s : State} (h : s.memCanonical) :
    s.settleAborts.memCanonical := by
  unfold State.settleAborts
  split
  · exact h.setCur
  · exact h.setCur

theorem State.memCanonical.runRegion {run n} {s : State} (hs : s.memCanonical) (hrun : ∀ t, t.memCanonical → (run t).Canonical) :
    (State.runRegion run n s).memCanonical := by
  induction n generalizing s with
  | zero =>
    unfold State.runRegion
    exact hs.setCur
  | succ n ih =>
    unfold State.runRegion
    dsimp only
    split
    next _ t2 heq2 =>
      have ht2 : t2.memCanonical := canonical_done heq2 (hrun _ hs)
      exact ht2.setCur.settleAborts
    next _ t2 heq2 =>
      have ht2 : t2.memCanonical := canonical_jump heq2 (hrun _ hs)
      exact ht2.setCur
    next _ t2 heq2 =>
      have ht2 : t2.memCanonical := canonical_stay heq2 (hrun _ hs)
      exact ht2.setCur
    next _ t2 _ _ heq2 =>
      have ht2 : t2.memCanonical := canonical_trap heq2 (hrun _ hs)
      split
      · split
        · exact ht2.setCur
        · exact ih ht2.setCur
      · exact ht2.setCur.settleAborts

theorem State.memCanonical.issueRegion {sp cs run} {s : State} (hs : s.memCanonical) (hrun : ∀ t, t.memCanonical → (run t).Canonical) :
    (State.issueRegion sp cs run s).memCanonical := by
  unfold State.issueRegion
  dsimp only
  split
  · exact hs.setCur.settleAborts
  · split
    · exact hs.runRegion (fun _ h6 => hrun _ h6)
    · split
      · exact hs.setCur
      · exact hs.setCur.runRegion (fun _ h8 => hrun _ h8)

theorem State.memCanonical.raise {cs fmask} {s : State} (h : s.memCanonical) :
    (s.raise cs fmask).memCanonical := by
  unfold State.raise
  split
  · exact h.trapHere
  · exact h

theorem Res.Canonical.conclude {before owed rest r} (hr : r.Canonical) :
    (State.conclude before owed rest r).memCanonical := by
  cases r with
  | done s =>
    have hs : s.memCanonical := hr
    unfold State.conclude
    dsimp only
    split
    · exact hs.trapHere
    · split
      · exact hs.observe.setCur.trapHere
      · exact hs.setCur.stepStop
  | jump s =>
    have hs : s.memCanonical := hr
    exact hs.setCur.stepStop
  | stay s =>
    have hs : s.memCanonical := hr
    unfold State.conclude
    dsimp only
    split
    · exact hs.setCur
    · exact hs.setCur
  | trap s cs fmask =>
    have hs : s.memCanonical := hr
    exact hs.raise

theorem State.memCanonical.execute {sp u conds run} {s : State} (hs : s.memCanonical) (hrun : ∀ t, t.memCanonical → (run t).Canonical) :
    (State.execute sp u conds run s).memCanonical := by
  unfold State.execute
  dsimp only
  refine State.memCanonical.ite ?_ ?_
  · refine State.memCanonical.issueRegion ?_ (fun _ h4 => hrun _ h4)
    split
    · exact hs
    · exact hs.setCur
  · split
    · refine State.memCanonical.raise ?_
      split
      · exact hs
      · exact hs.setCur
    · refine State.memCanonical.ite ?_ ?_
      · refine State.memCanonical.raise ?_
        split
        · exact hs
        · exact hs.setCur
      · refine State.memCanonical.ite ?_ ?_
        · refine Res.Canonical.conclude ?_
          refine hrun _ ?_
          refine State.memCanonical.setCur ?_
          split
          · exact hs
          · exact hs.setCur
        · refine Res.Canonical.conclude ?_
          refine hrun _ ?_
          split
          · exact hs
          · exact hs.setCur

theorem State.memCanonical.afterService {v go} {s : State} (h : s.memCanonical) (hgo : ∀ t, t.memCanonical → (go t).memCanonical) :
    (s.afterService v go).memCanonical := by
  unfold State.afterService
  dsimp only
  split
  · exact h
  · split
    · split
      · split
        · split
          · exact h.setCur.setCur
          · exact hgo _ h.setCur.setCur
        · exact h.setCur.trapHere
      · split
        · split
          · exact h.setCur.setCur
          · exact hgo _ h.setCur.setCur
        · exact h.setCur.trapHere
    · refine hgo _ ?_
      split
      · exact h.setCur
      · exact h.setCur.setCur

theorem State.memCanonical.issueTeam {sp u conds run} {s : State} (hs : s.memCanonical) (hrun : ∀ t, t.memCanonical → (run t).Canonical) :
    (State.issueTeam sp u conds run s).memCanonical := by
  unfold State.issueTeam
  dsimp only
  split
  · exact hs.afterService (fun _ h4 => h4.execute (fun _ h7 => hrun _ h7))
  · split
    · exact hs.setCur.trapHere
    · exact hs.execute (fun _ h6 => hrun _ h6)

/-! ## Directory: what the functions of `Machine/Directory` leave of the form -/

theorem State.memCanonical.waitUnits {u} {s : State} (h : s.memCanonical) :
    (s.waitUnits u).memCanonical := by
  unfold State.waitUnits
  dsimp only
  split
  · exact h
  · exact h

theorem State.memCanonical.dropCopy {agent line} {s : State} (h : s.memCanonical) :
    (s.dropCopy agent line).memCanonical :=
  h

theorem State.memCanonical.loseLine {core line} {s : State} (h : s.memCanonical) :
    (s.loseLine core line).memCanonical :=
  h.mapTeams

theorem State.memCanonical.giveUp {agent line} {s : State} (h : s.memCanonical) :
    (s.giveUp agent line).memCanonical := by
  unfold State.giveUp
  dsimp only
  split
  · exact h
  · split
    · exact h.dropCopy
    · exact h.frame

theorem State.memCanonical.askExclusive {agent line} {s : State} (h : s.memCanonical) :
    (s.askExclusive agent line).memCanonical := by
  unfold State.askExclusive
  dsimp only
  split
  · exact h
  · exact h

theorem State.memCanonical.askShared {core line} {s : State} (h : s.memCanonical) :
    (s.askShared core line).memCanonical := by
  unfold State.askShared
  dsimp only
  split
  · exact h
  · exact h

theorem State.memCanonical.askPipe {core line} {s : State} (h : s.memCanonical) :
    (s.askPipe core line).memCanonical := by
  unfold State.askPipe
  dsimp only
  split
  · exact h
  · exact h

theorem State.memCanonical.holdBound {core space loc spilled} {s : State} (h : s.memCanonical) :
    (s.holdBound core space loc spilled).memCanonical := by
  unfold State.holdBound
  dsimp only
  split
  · exact h
  · split
    · split
      · exact h.askShared
      · exact h
    · split
      · exact h
      · exact h

theorem State.memCanonical.rebind {core line spilled} {s : State} (h : s.memCanonical) :
    (s.rebind core line spilled).memCanonical :=
  h.foldl (fun _ _ h2 => h2.holdBound)

theorem State.memCanonical.rebindAll {lines} {s : State} (h : s.memCanonical) :
    (s.rebindAll lines).memCanonical :=
  h.foldl (fun _ _ h2 => h2.foldl (fun _ _ h5 => h5.rebind))

theorem State.memCanonical.loseLines {hit} {s : State} (h : s.memCanonical) :
    (s.loseLines hit).memCanonical :=
  h.mapTeams

theorem State.memCanonical.releaseHold {streamer line} {s : State} (h : s.memCanonical) :
    (s.releaseHold streamer line).memCanonical := by
  unfold State.releaseHold
  dsimp only
  split
  · exact h.dropCopy.setDir
  · exact h.dropCopy

/-! ## Packets: what the functions of `Machine/Packets` leave of the form -/

theorem State.memCanonical.setPort {n p} {s : State} (h : s.memCanonical) :
    (s.setPort n p).memCanonical :=
  h

theorem State.memCanonical.sendTo {peer pa k} {s : State} (h : s.memCanonical) :
    (s.sendTo peer pa k).memCanonical := by
  unfold State.sendTo
  split
  · exact h.setPort
  · split
    · exact h.draw
    · split
      · exact h.setPort.draw
      · exact h.draw

theorem State.memCanonical.request {peer ctx op misc pa line hasLine payload w} {s : State} (h : s.memCanonical) :
    (s.request peer ctx op misc pa line hasLine payload w).memCanonical :=
  h.frame.sendTo

theorem State.memCanonical.windowRequest {wg op misc loc payload w} {s : State} (h : s.memCanonical) :
    (s.windowRequest wg op misc loc payload w).memCanonical := by
  unfold State.windowRequest
  split
  · exact h
  · exact h.request

theorem State.memCanonical.farCheck {ws} {s : State} (h : s.memCanonical) :
    CanonicalOptRes (s.farCheck ws) := by
  unfold State.farCheck
  dsimp only
  split
  · exact trivial
  · exact (h.foldl (fun _ _ h10 => h10.windowRequest)).setCur

/-! ## Access: what the functions of `Machine/Access` leave of the form -/

theorem State.memCanonical.noteStrong {team loc size} {s : State} (h : s.memCanonical) :
    (s.noteStrong team loc size).memCanonical := by
  unfold State.noteStrong
  dsimp only
  split
  · exact h
  · split
    · exact h.frame.modTeam
    · exact h.frame

theorem State.memCanonical.noteAll {xs} {s : State} (h : s.memCanonical) :
    (s.noteAll xs).memCanonical :=
  h.foldl (fun _ _ h2 => h2.noteStrong)

theorem State.memCanonical.snoopLine {line shared} {s : State} (h : s.memCanonical) :
    (s.snoopLine line shared).memCanonical :=
  h

theorem State.memCanonical.modCopy {core seq f} {s : State} (h : s.memCanonical) :
    (s.modCopy core seq f).memCanonical :=
  h

theorem State.memCanonical.modXfer {x y} {s : State} (h : s.memCanonical) :
    (s.modXfer x y).memCanonical :=
  h

theorem State.memCanonical.releaseIdle {core} {s : State} (h : s.memCanonical) :
    (s.releaseIdle core).memCanonical := by
  unfold State.releaseIdle
  refine State.memCanonical.foldl h ?_
  intro _ _ h2
  split
  · exact h2
  · exact h2.releaseHold

theorem State.memCanonical.copyPoison {x} {s : State} (h : s.memCanonical) :
    (s.copyPoison x).memCanonical := by
  unfold State.copyPoison
  refine State.memCanonical.releaseIdle ?_
  split
  · exact h.modCopy
  · exact h.modCopy

theorem State.memCanonical.putXfer {x} {s : State} (h : s.memCanonical) :
    (s.putXfer x).memCanonical := by
  unfold State.putXfer
  dsimp only
  split
  · exact h.modXfer.releaseIdle
  · split
    · exact h.copyPoison
    · exact h.performIn.modXfer.releaseIdle

theorem State.memCanonical.forceCopies {n n2 n3} {s : State} (h : s.memCanonical) :
    (State.forceCopies n n2 n3 s).memCanonical := by
  induction n generalizing s n2 n3 with
  | zero =>
    unfold State.forceCopies
    exact h
  | succ n ih =>
    unfold State.forceCopies
    dsimp only
    refine State.memCanonical.foldl h ?_
    intro _ _ h3
    split
    · exact (ih h3).putXfer
    · exact ih h3

theorem State.memCanonical.recallCopies {loc size} {s : State} (h : s.memCanonical) :
    (s.recallCopies loc size).memCanonical := by
  unfold State.recallCopies
  split
  · exact h
  · exact h.forceCopies

theorem State.memCanonical.dropL1 {core line} {s : State} (h : s.memCanonical) :
    (s.dropL1 core line).memCanonical := by
  unfold State.dropL1
  dsimp only
  refine State.memCanonical.giveUp ?_
  split
  · exact h
  · split
    · exact h.frame
    · exact h.frame.recallCopies.writeMem

theorem State.memCanonical.l1Room {core line} {s : State} (h : s.memCanonical) :
    (s.l1Room core line).memCanonical := by
  unfold State.l1Room
  dsimp only
  split
  · exact h
  · split
    · exact h.draw.loseLine.dropL1
    · exact h

theorem State.memCanonical.setCopy {agent line st stamp} {s : State} (h : s.memCanonical) :
    (s.setCopy agent line st stamp).memCanonical := by
  unfold State.setCopy
  dsimp only
  show Memory.wf _ = true
  dsimp only
  split
  · exact h.dropCopy.l1Room
  · exact h.dropCopy

theorem State.memCanonical.putManaged {core line dirty} {s : State} (h : s.memCanonical) :
    (s.putManaged core line dirty).memCanonical :=
  h.recallCopies.l1Room

theorem State.memCanonical.fetchManaged {core loc} {s : State} (h : s.memCanonical) :
    (s.fetchManaged core loc).memCanonical := by
  unfold State.fetchManaged
  split
  · exact h
  · exact h.putManaged

theorem State.memCanonical.dirtyManaged {core cells} {s : State} (h : s.memCanonical) :
    (s.dirtyManaged core cells).memCanonical := by
  unfold State.dirtyManaged
  dsimp only
  refine State.memCanonical.foldl h ?_
  intro _ _ h2
  split
  · exact h2
  · exact h2.putManaged

theorem State.memCanonical.flushManaged {core line} {s : State} (h : s.memCanonical) :
    (s.flushManaged core line).memCanonical := by
  unfold State.flushManaged
  dsimp only
  split
  · exact h
  · split
    · exact h.frame
    · exact h.frame.recallCopies.writeMem

theorem State.memCanonical.markDiffering {core line} {s : State} (h : s.memCanonical) :
    (s.markDiffering core line).memCanonical :=
  h.mapTeams

theorem State.memCanonical.refetchBound {core line} {s : State} (h : s.memCanonical) :
    (s.refetchBound core line).memCanonical := by
  unfold State.refetchBound
  split
  · exact h.fetchManaged.markDiffering
  · exact h

theorem State.memCanonical.recallWalk {va n n2 n3} {s : State} (h : s.memCanonical) :
    (State.recallWalk va n n2 n3 s).memCanonical := by
  induction n generalizing s va n2 n3 with
  | zero =>
    unfold State.recallWalk
    exact h.recallCopies
  | succ n ih =>
    unfold State.recallWalk
    dsimp only
    split
    · exact ih h.recallCopies
    · exact h.recallCopies

theorem State.memCanonical.beforeWalk {c va} {s : State} (h : s.memCanonical) :
    (s.beforeWalk c va).memCanonical := by
  unfold State.beforeWalk
  split
  · exact h
  · exact h.recallWalk

theorem State.memCanonical.beforePlace {c p} {s : State} (h : s.memCanonical) :
    (s.beforePlace c p).memCanonical := by
  unfold State.beforePlace
  split
  · exact h.beforeWalk
  · exact h

theorem State.memCanonical.sites {need xs} {s : State} (h : s.memCanonical) :
    (State.sites need xs s).1.memCanonical := by
  induction xs generalizing s with
  | nil =>
    unfold State.sites
    exact h
  | cons x xs ih =>
    unfold State.sites
    exact ih h.beforePlace.stage2

theorem State.memCanonical.askPages {access wait ps} {s : State} (h : s.memCanonical) :
    (s.askPages access wait ps).memCanonical :=
  h.foldl (fun _ _ h2 => h2.askPage)

theorem State.memCanonical.afterSites {need scalar rs} {s : State} (h : s.memCanonical) :
    (s.afterSites need scalar rs).Canonical := by
  unfold State.afterSites
  dsimp only
  split
  · exact h
  · split
    · exact h.askPages
    · split
      · exact h
      · exact h.askPages.setCur

theorem State.memCanonical.addPoison {gs} {s : State} (h : s.memCanonical) :
    (s.addPoison gs).memCanonical :=
  h

theorem State.memCanonical.updateAt {core team space loc size own f} {s : State} (h : s.memCanonical) :
    (s.updateAt core team space loc size own f).1.memCanonical := by
  unfold State.updateAt
  dsimp only
  split
  · refine State.memCanonical.refetchBound ?_
    split
    · refine State.memCanonical.modTeam ?_
      split
      · refine State.memCanonical.modTeam ?_
        refine State.memCanonical.addPoison ?_
        refine State.memCanonical.performIn ?_
        split
        · exact h.flushManaged.draw
        · exact h.flushManaged
      · refine State.memCanonical.performIn ?_
        split
        · exact h.flushManaged.draw
        · exact h.flushManaged
    · split
      · refine State.memCanonical.modTeam ?_
        refine State.memCanonical.addPoison ?_
        refine State.memCanonical.performIn ?_
        split
        · exact h.flushManaged.draw
        · exact h.flushManaged
      · refine State.memCanonical.performIn ?_
        split
        · exact h.flushManaged.draw
        · exact h.flushManaged
  · split
    · refine State.memCanonical.modTeam ?_
      split
      · refine State.memCanonical.modTeam ?_
        refine State.memCanonical.addPoison ?_
        refine State.memCanonical.performIn ?_
        split
        · exact h.draw
        · exact h
      · refine State.memCanonical.performIn ?_
        split
        · exact h.draw
        · exact h
    · split
      · refine State.memCanonical.modTeam ?_
        refine State.memCanonical.addPoison ?_
        refine State.memCanonical.performIn ?_
        split
        · exact h.draw
        · exact h
      · refine State.memCanonical.performIn ?_
        split
        · exact h.draw
        · exact h

theorem State.memCanonical.performEntry {e skip} {s : State} (h : s.memCanonical) :
    (s.performEntry e skip).memCanonical := by
  unfold State.performEntry
  dsimp only
  split
  · exact h.recallCopies.noteAll.updateAt
  · split
    · exact h.recallCopies.noteAll.dirtyManaged
    · exact h.recallCopies.noteAll.performIn

theorem State.memCanonical.performNow {e} {s : State} (h : s.memCanonical) :
    (s.performNow e).memCanonical :=
  h.performEntry

theorem State.memCanonical.forceRange {core team loc size} {s : State} (h : s.memCanonical) :
    (s.forceRange core team loc size).memCanonical :=
  h.foldl (fun _ _ h2 => h2.performNow)

theorem State.memCanonical.reachCore {core cells team own who} {s : State} (h : s.memCanonical) :
    (s.reachCore core cells team own who).memCanonical :=
  h.mapTeams.ite h.frame

theorem State.memCanonical.enterPath {e} {s : State} (h : s.memCanonical) :
    (s.enterPath e).memCanonical := by
  unfold State.enterPath
  dsimp only
  split
  · split
    · exact h.modTeam.performEntry
    · split
      · exact h.frame
      · exact h.frame.reachCore
  · split
    · exact h.performEntry
    · split
      · exact h.frame
      · exact h.frame.reachCore

theorem State.memCanonical.storeThrough {l b key off size value} {s : State} (h : s.memCanonical) :
    (s.storeThrough l b key off size value).memCanonical :=
  h.enterPath

theorem State.memCanonical.deliver {l d w} {s : State} (h : s.memCanonical) :
    (s.deliver l d w).memCanonical := by
  unfold State.deliver
  dsimp only
  split
  · exact h
  · exact h.modTeam
  · split
    · exact h
    · split
      · split
        · exact h.modTeam
        · split
          · exact h.modTeam
          · exact h.modTeam.storeThrough
      · split
        · exact h.modTeam
        · split
          · exact h.modTeam
          · exact h.modTeam.storeThrough
      · split
        · exact h.modTeam
        · split
          · exact h.modTeam
          · exact h.modTeam.storeThrough
      · split
        · exact h.modTeam
        · split
          · exact h.modTeam
          · exact h.modTeam.storeThrough

theorem State.memCanonical.deliverPair {l x lo hi} {s : State} (h : s.memCanonical) :
    (s.deliverPair l x lo hi).memCanonical :=
  h.modTeam.storeThrough

theorem State.memCanonical.askRead {core space loc} {s : State} (h : s.memCanonical) :
    (s.askRead core space loc).memCanonical := by
  unfold State.askRead
  split
  · exact h.askShared
  · exact h.snoopLine

theorem State.memCanonical.prepareLoad {l} {s : State} (h : s.memCanonical) :
    (s.prepareLoad l).memCanonical := by
  unfold State.prepareLoad
  dsimp only
  split
  · exact h.askRead
  · split
    · split
      · exact h
      · exact h.askExclusive
    · exact h.snoopLine

theorem State.memCanonical.dirtyLine {core line} {s : State} (h : s.memCanonical) :
    (s.dirtyLine core line).memCanonical :=
  h

theorem State.memCanonical.performRmw {l op ty b other own} {s : State} (h : s.memCanonical) :
    (s.performRmw l op ty b other own).1.memCanonical := by
  unfold State.performRmw
  dsimp only
  split
  · exact h.forceRange.noteStrong.updateAt.atHomeSlice
  · exact h.forceRange.noteStrong.updateAt.dirtyLine

theorem State.memCanonical.performLoad {l} {s : State} (h : s.memCanonical) :
    (s.performLoad l).1.memCanonical := by
  unfold State.performLoad
  dsimp only
  split
  · exact h
  · split
    · exact h.recallCopies.performRmw
    · exact h.recallCopies.performRmw
    · dsimp only
      split
      · refine State.memCanonical.draw ?_
        split
        · exact h.recallCopies.fetchManaged
        · exact h.recallCopies
      · split
        · exact h.recallCopies.fetchManaged
        · exact h.recallCopies

theorem State.memCanonical.bindReturn {l notify size8 va spilled} {s : State} (h : s.memCanonical) :
    (s.bindReturn l notify size8 va spilled).memCanonical := by
  unfold State.bindReturn
  dsimp only
  split
  · exact ((h.performLoad.foldl (fun _ _ h8 => h8.deliver)).holdBound).modTeam
  · exact h.performLoad

theorem State.memCanonical.boundReturn {l old} {s : State} (h : s.memCanonical) :
    (s.boundReturn l old).memCanonical := by
  unfold State.boundReturn
  dsimp only
  split
  · exact (h.performLoad.foldl (fun _ _ h6 => h6.deliver)).deliverPair
  · exact (h.performLoad.foldl (fun _ _ h6 => h6.deliver)).foldl (fun _ _ h4 => h4.deliver)

theorem State.memCanonical.settleLoad {l} {s : State} (h : s.memCanonical) :
    (s.settleLoad l).memCanonical := by
  unfold State.settleLoad
  dsimp only
  split
  · exact h.frame.bindReturn
  · exact h.frame.boundReturn
  · exact h.performLoad.frame

theorem State.memCanonical.forceLoads {team loc size xs} {s : State} (h : s.memCanonical) :
    (State.forceLoads team loc size xs s).memCanonical := by
  induction xs generalizing s with
  | nil =>
    unfold State.forceLoads
    exact h
  | cons x xs ih =>
    unfold State.forceLoads
    refine ih ?_
    split
    · exact h.settleLoad
    · exact h

theorem State.memCanonical.enterStore {seq release ls space loc} {s : State} (h : s.memCanonical) :
    (s.enterStore seq release ls space loc).memCanonical :=
  h.forceLoads.enterPath

theorem State.memCanonical.enterStores {seq release xs} {s : State} (h : s.memCanonical) :
    (State.enterStores seq release xs s).memCanonical := by
  induction xs generalizing s with
  | nil =>
    unfold State.enterStores
    exact h
  | cons x xs ih =>
    unfold State.enterStores
    split
    · exact ih h.enterStore
    · exact ih h

theorem State.memCanonical.concretise {sp u} {s : State} (h : s.memCanonical) :
    (s.concretise sp u).memCanonical :=
  h.setCur

theorem State.memCanonical.concretiseAll {u} {s : State} (h : s.memCanonical) :
    (s.concretiseAll u).memCanonical :=
  h.setCur

theorem State.memCanonical.dropDests {lanes regs} {s : State} (h : s.memCanonical) :
    (s.dropDests lanes regs).memCanonical := by
  unfold State.dropDests
  split
  · exact h.setCur
  · exact h

theorem State.memCanonical.bufferBound {xs} {s : State} (h : s.memCanonical) :
    (s.bufferBound xs).memCanonical := by
  unfold State.bufferBound
  dsimp only
  refine State.memCanonical.foldl h ?_
  intro _ _ h2
  split
  · exact h2
  · split
    · exact h2.setCur
    · exact h2.setCur

theorem State.memCanonical.parkOn {p} {s : State} (h : s.memCanonical) :
    (s.parkOn p).Canonical :=
  h.setCur

theorem State.memCanonical.parkFor {ps} {s : State} (h : s.memCanonical) :
    (s.parkFor ps).Canonical :=
  h.parkOn

theorem State.memCanonical.unpark {s : State} (h : s.memCanonical) :
    s.unpark.memCanonical :=
  h.setCur

theorem State.memCanonical.writeLanes {pair d ws also} {s : State} (h : s.memCanonical) :
    (s.writeLanes pair d ws also).Canonical := by
  unfold State.writeLanes
  dsimp only
  split
  · exact h.setCur
  · split
    · exact h
    · split
      · exact h.sites.bufferBound.setCur.afterSites
      · split
        · exact h.sites.parkFor
        · exact canonicalRes_getD h.sites.farCheck h.sites.unpark.takeSeq.setCur.enterStores.draw.afterSites

theorem State.memCanonical.writeDest {pair d ws also} {s : State} (h : s.memCanonical) :
    (s.writeDest pair d ws also).Canonical := by
  unfold State.writeDest
  dsimp only
  split
  · exact h.writeLanes
  · split
    · split
      · exact h.setCur.setCur
      · exact h.setCur
    · exact h.setCur

theorem State.memCanonical.addLoad {x} {s : State} (h : s.memCanonical) :
    (s.addLoad x).memCanonical :=
  h.forceLoads

theorem State.memCanonical.addLoads {kind size ext dests xs} {s : State} (h : s.memCanonical) :
    (State.addLoads kind size ext dests xs s).memCanonical := by
  induction xs generalizing s with
  | nil =>
    unfold State.addLoads
    exact h
  | cons x xs ih =>
    unfold State.addLoads
    split
    · exact ih h.addLoad
    · exact ih h

theorem State.memCanonical.regionLoad {lane space loc size ext d n tagged inWindow} {s : State} (h : s.memCanonical) :
    (s.regionLoad lane space loc size ext d n tagged inWindow).memCanonical := by
  unfold State.regionLoad
  dsimp only
  split
  · exact h
  · split
    · exact h.setCur
    · split
      · exact h.recallCopies.setCur
      · exact (h.recallCopies.setCur.bufferBound.foldl (fun _ _ h10 => h10.deliver)).ite (h.recallCopies.setCur.bufferBound.foldl
          (fun _ _ h12 => h12.deliver))

theorem State.memCanonical.regionLoads {size ext d n tagged window xs} {s : State} (h : s.memCanonical) :
    (State.regionLoads size ext d n tagged window xs s).memCanonical := by
  induction xs generalizing s with
  | nil =>
    unfold State.regionLoads
    exact h
  | cons x xs ih =>
    unfold State.regionLoads
    split
    · exact ih h.regionLoad
    · exact ih h

theorem State.memCanonical.regionScalar {space loc size d n inWindow} {s : State} (h : s.memCanonical) :
    (s.regionScalar space loc size d n inWindow).memCanonical := by
  unfold State.regionScalar
  dsimp only
  split
  · exact h.setCur
  · split
    · exact h.recallCopies.setCur
    · exact h.recallCopies.frame

/-! ## Issue: what the functions of `Machine/Issue` leave of the form -/

theorem State.memCanonical.modProg {u f} {s : State} (h : s.memCanonical) :
    (s.modProg u f).memCanonical :=
  h

theorem State.memCanonical.asSpindle {p} {s : State} (h : s.memCanonical) :
    (s.asSpindle p).memCanonical :=
  h.draw

theorem State.memCanonical.unSpindle {p} {s : State} (h : s.memCanonical) :
    (s.unSpindle p).memCanonical := by
  unfold State.unSpindle
  split
  · exact h.frame.modProg
  · exact h

theorem State.memCanonical.endProg {u code} {s : State} (h : s.memCanonical) :
    (s.endProg u code).memCanonical := by
  unfold State.endProg
  dsimp only
  split
  · exact h
  · exact h.modProg.modWg

theorem State.memCanonical.issueSpindle {sp u conds run p} {s : State} (hs : s.memCanonical) (hrun : ∀ t, t.memCanonical →
    (run t).Canonical) :
    (State.issueSpindle sp u conds run p s).memCanonical := by
  unfold State.issueSpindle
  dsimp only
  split
  · exact hs.endProg
  · split
    · exact hs.endProg
    · split
      next _ t5 heq5 =>
        have ht5 : t5.memCanonical := canonical_done heq5 (hrun _ hs.asSpindle)
        exact ht5.setCur.unSpindle.modProg
      next _ t5 heq5 =>
        have ht5 : t5.memCanonical := canonical_jump heq5 (hrun _ hs.asSpindle)
        exact ht5.setCur.unSpindle.modProg
      next _ t5 heq5 =>
        have ht5 : t5.memCanonical := canonical_stay heq5 (hrun _ hs.asSpindle)
        exact ht5.unSpindle.modProg
      next _ t5 _ _ heq5 =>
        have ht5 : t5.memCanonical := canonical_trap heq5 (hrun _ hs.asSpindle)
        exact ht5.unSpindle.endProg

theorem State.memCanonical.withTags {sp u run} {s : State} (hs : s.memCanonical) (hrun : ∀ t, t.memCanonical → (run t).Canonical) :
    (withTags sp u run s).Canonical := by
  unfold Machine.withTags
  dsimp only
  split
  · split
    · split
      · exact hs.concretise
      · exact hrun _ hs.concretise
    · split
      · exact hs
      · exact hrun _ hs
    · split
      · exact hs.concretise.concretiseAll
      · exact hrun _ hs.concretise.concretiseAll
  · exact hrun _ hs

theorem State.memCanonical.issue {sp u conds run} {s : State} (hs : s.memCanonical) (hrun : ∀ t, t.memCanonical → (run t).Canonical) :
    CanonicalOutcome (issue sp u conds run s) := by
  unfold Machine.issue
  split
  · split
    · exact hs.issueTeam (fun _ h8 => h8.withTags (fun _ h11 => hrun _ h11))
    · exact trivial
  · split
    · split
      · exact trivial
      · exact hs.issueSpindle (fun _ h10 => hrun _ h10)
    · exact trivial

/-! ## Compute: what the functions of `Machine/Compute` leave of the form -/

theorem State.memCanonical.finishLanes {pair d n rs joint} {s : State} (h : s.memCanonical) :
    (s.finishLanes pair d n rs joint).Canonical := by
  unfold State.finishLanes
  dsimp only
  split
  · split
    · exact h
    · exact h.writeDest
  · split
    · exact h
    · exact h.writeDest

theorem State.memCanonical.evalType {d f} {s : State} (h : s.memCanonical) :
    (s.evalType d f).Canonical :=
  h.finishLanes

theorem State.memCanonical.runTagged {u d tag run} {s : State} (hs : s.memCanonical) (hrun : ∀ t, t.memCanonical → (run t).Canonical) :
    (runTagged u d tag run s).Canonical := by
  unfold Machine.runTagged
  dsimp only
  split
  · exact hrun _ hs
  · split
    · split
      · exact hs.setCur
      · split
        next _ t7 heq7 =>
          have ht7 : t7.memCanonical := canonical_done heq7 (hrun _ hs.setCur)
          exact ht7.setCur
        · exact hrun _ hs.setCur
    · split
      · exact hs.setCur
      · split
        next _ t7 heq7 =>
          have ht7 : t7.memCanonical := canonical_done heq7 (hrun _ hs.setCur)
          exact ht7.setCur
        · exact hrun _ hs.setCur

theorem State.memCanonical.binary {op d a b} {s : State} (h : s.memCanonical) :
    (State.binary op d a b s).Canonical :=
  h.evalType

theorem State.memCanonical.unary {op d a} {s : State} (h : s.memCanonical) :
    (State.unary op d a s).Canonical :=
  h.evalType

theorem State.memCanonical.issueBinary {sp ty d a b run} {s : State} (hs : s.memCanonical) (hrun : ∀ t, t.memCanonical →
    (run t).Canonical) :
    CanonicalOutcome (issueBinary sp ty d a b run s) :=
  hs.issue (fun _ h2 => hrun _ h2)

theorem State.memCanonical.issueUnary {sp ty d a run} {s : State} (hs : s.memCanonical) (hrun : ∀ t, t.memCanonical → (run t).Canonical) :
    CanonicalOutcome (issueUnary sp ty d a run s) :=
  hs.issue (fun _ h2 => hrun _ h2)

theorem State.memCanonical.bitwise {f d} {s : State} (h : s.memCanonical) :
    (State.bitwise f d s).Canonical :=
  h.evalType

theorem State.memCanonical.shifts {f d a b} {s : State} (h : s.memCanonical) :
    (State.shifts f d a b s).Canonical :=
  h.evalType

theorem State.memCanonical.compare {r rel d a b} {s : State} (h : s.memCanonical) :
    (State.compare r rel d a b s).Canonical := by
  unfold State.compare
  dsimp only
  split
  · split
    · exact h.setCur
    · exact h.setCur.setCur
  · split
    · split
      · exact h.setCur
      · exact h.setCur.setCur
    · dsimp only
      split
      · exact h.setCur
      · exact h.setCur.setCur

theorem State.memCanonical.issueCompare {ty d a b run} {s : State} (hs : s.memCanonical) (hrun : ∀ t, t.memCanonical → (run t).Canonical) :
    CanonicalOutcome (issueCompare ty d a b run s) :=
  hs.issue (fun _ h2 => hrun _ h2)

theorem State.memCanonical.predicate {f d} {s : State} (h : s.memCanonical) :
    (State.predicate f d s).Canonical :=
  h.setCur

theorem State.memCanonical.unpk {n d a b} {s : State} (h : s.memCanonical) :
    (State.unpk n d a b s).Canonical :=
  h.finishLanes

theorem State.memCanonical.pack {n d a b} {s : State} (h : s.memCanonical) :
    (State.pack n d a b s).Canonical :=
  h.finishLanes

theorem State.memCanonical.issueUnpk {n d a b run} {s : State} (hs : s.memCanonical) (hrun : ∀ t, t.memCanonical → (run t).Canonical) :
    CanonicalOutcome (issueUnpk n d a b run s) :=
  hs.issue (fun _ h2 => hrun _ h2)

theorem State.memCanonical.issuePack {n d a b run} {s : State} (hs : s.memCanonical) (hrun : ∀ t, t.memCanonical → (run t).Canonical) :
    CanonicalOutcome (issuePack n d a b run s) :=
  hs.issue (fun _ h2 => hrun _ h2)

theorem State.memCanonical.crossLane {src d a} {s : State} (h : s.memCanonical) :
    (State.crossLane src d a s).Canonical :=
  h.evalType

theorem State.memCanonical.issueCross {src lead d a b run} {s : State} (hs : s.memCanonical) (hrun : ∀ t, t.memCanonical →
    (run t).Canonical) :
    CanonicalOutcome (issueCross src lead d a b run s) :=
  hs.issue (fun _ h2 => hrun _ h2)

theorem State.memCanonical.reduceTeam {op d a} {s : State} (h : s.memCanonical) :
    (State.reduceTeam op d a s).Canonical := by
  unfold State.reduceTeam
  dsimp only
  split
  · exact h
  · exact h.finishLanes

theorem State.memCanonical.scanTeam {d a} {s : State} (h : s.memCanonical) :
    (State.scanTeam d a s).Canonical := by
  unfold State.scanTeam
  dsimp only
  split
  · exact h
  · exact h.finishLanes

theorem State.memCanonical.issueTree {scalarOk d a run} {s : State} (hs : s.memCanonical) (hrun : ∀ t, t.memCanonical → (run t).Canonical) :
    CanonicalOutcome (issueTree scalarOk d a run s) :=
  hs.issue (fun _ h2 => hrun _ h2)

/-! ## Arith: what the functions of `Machine/Arith` leave of the form -/

theorem State.memCanonical.execAdd {d a b} {s : State} (h : s.memCanonical) :
    CanonicalOutcome (execAdd d a b s) :=
  h.issueBinary (fun _ h2 => h2.runTagged (fun _ h5 => h5.binary))

theorem State.memCanonical.execSub {d a b} {s : State} (h : s.memCanonical) :
    CanonicalOutcome (execSub d a b s) :=
  h.issueBinary (fun _ h2 => h2.runTagged (fun _ h5 => h5.binary))

theorem State.memCanonical.execMul {d a b} {s : State} (h : s.memCanonical) :
    CanonicalOutcome (execMul d a b s) :=
  h.issueBinary (fun _ h2 => h2.binary)

theorem State.memCanonical.execMulh {d a b} {s : State} (h : s.memCanonical) :
    CanonicalOutcome (execMulh d a b s) :=
  h.issueBinary (fun _ h2 => h2.binary)

theorem State.memCanonical.execMac {d a b} {s : State} (h : s.memCanonical) :
    CanonicalOutcome (execMac d a b s) :=
  h.issue (fun _ h2 => h2.evalType)

theorem State.memCanonical.execDiv {d a b} {s : State} (h : s.memCanonical) :
    CanonicalOutcome (execDiv d a b s) :=
  h.issueBinary (fun _ h2 => h2.binary)

theorem State.memCanonical.execRem {d a b} {s : State} (h : s.memCanonical) :
    CanonicalOutcome (execRem d a b s) :=
  h.issueBinary (fun _ h2 => h2.binary)

theorem State.memCanonical.execMin {d a b} {s : State} (h : s.memCanonical) :
    CanonicalOutcome (execMin d a b s) :=
  h.issueBinary (fun _ h2 => h2.binary)

theorem State.memCanonical.execMax {d a b} {s : State} (h : s.memCanonical) :
    CanonicalOutcome (execMax d a b s) :=
  h.issueBinary (fun _ h2 => h2.binary)

theorem State.memCanonical.execAbs {d a} {s : State} (h : s.memCanonical) :
    CanonicalOutcome (execAbs d a s) :=
  h.issueUnary (fun _ h2 => h2.unary)

theorem State.memCanonical.execNeg {d a} {s : State} (h : s.memCanonical) :
    CanonicalOutcome (execNeg d a s) :=
  h.issueUnary (fun _ h2 => h2.unary)

theorem State.memCanonical.execClz {d a} {s : State} (h : s.memCanonical) :
    CanonicalOutcome (execClz d a s) :=
  h.issueUnary (fun _ h2 => h2.unary)

theorem State.memCanonical.execPopc {d a} {s : State} (h : s.memCanonical) :
    CanonicalOutcome (execPopc d a s) :=
  h.issueUnary (fun _ h2 => h2.unary)

theorem State.memCanonical.execRndi {d a} {s : State} (h : s.memCanonical) :
    CanonicalOutcome (execRndi d a s) :=
  h.issueUnary (fun _ h2 => h2.unary)

theorem State.memCanonical.execRcp {d a} {s : State} (h : s.memCanonical) :
    CanonicalOutcome (execRcp d a s) :=
  h.issueUnary (fun _ h2 => h2.unary)

theorem State.memCanonical.execRsq {d a} {s : State} (h : s.memCanonical) :
    CanonicalOutcome (execRsq d a s) :=
  h.issueUnary (fun _ h2 => h2.unary)

theorem State.memCanonical.execSqrt {d a} {s : State} (h : s.memCanonical) :
    CanonicalOutcome (execSqrt d a s) :=
  h.issueUnary (fun _ h2 => h2.unary)

theorem State.memCanonical.execExp2 {d a} {s : State} (h : s.memCanonical) :
    CanonicalOutcome (execExp2 d a s) :=
  h.issueUnary (fun _ h2 => h2.unary)

theorem State.memCanonical.execLog2 {d a} {s : State} (h : s.memCanonical) :
    CanonicalOutcome (execLog2 d a s) :=
  h.issueUnary (fun _ h2 => h2.unary)

theorem State.memCanonical.execSinp {d a} {s : State} (h : s.memCanonical) :
    CanonicalOutcome (execSinp d a s) :=
  h.issueUnary (fun _ h2 => h2.unary)

theorem State.memCanonical.execCosp {d a} {s : State} (h : s.memCanonical) :
    CanonicalOutcome (execCosp d a s) :=
  h.issueUnary (fun _ h2 => h2.unary)

theorem State.memCanonical.execAnd {d a b} {s : State} (h : s.memCanonical) :
    CanonicalOutcome (execAnd d a b s) :=
  h.issueBinary (fun _ h2 => h2.bitwise)

theorem State.memCanonical.execOr {d a b} {s : State} (h : s.memCanonical) :
    CanonicalOutcome (execOr d a b s) :=
  h.issueBinary (fun _ h2 => h2.bitwise)

theorem State.memCanonical.execXor {d a b} {s : State} (h : s.memCanonical) :
    CanonicalOutcome (execXor d a b s) :=
  h.issueBinary (fun _ h2 => h2.bitwise)

theorem State.memCanonical.execShl {d a b} {s : State} (h : s.memCanonical) :
    CanonicalOutcome (execShl d a b s) :=
  h.issueBinary (fun _ h2 => h2.shifts)

theorem State.memCanonical.execShr {d a b} {s : State} (h : s.memCanonical) :
    CanonicalOutcome (execShr d a b s) :=
  h.issueBinary (fun _ h2 => h2.shifts)

theorem State.memCanonical.execSra {d a b} {s : State} (h : s.memCanonical) :
    CanonicalOutcome (execSra d a b s) :=
  h.issueBinary (fun _ h2 => h2.shifts)

theorem State.memCanonical.execBfx {d a b} {s : State} (h : s.memCanonical) :
    CanonicalOutcome (execBfx d a b s) :=
  h.issueBinary (fun _ h2 => h2.bitwise)

theorem State.memCanonical.execBfi {d a b} {s : State} (h : s.memCanonical) :
    CanonicalOutcome (execBfi d a b s) :=
  h.issue (fun _ h2 => h2.bitwise)

theorem State.memCanonical.execSel {d a b} {s : State} (h : s.memCanonical) :
    CanonicalOutcome (execSel d a b s) :=
  h.issueBinary (fun _ h2 => h2.finishLanes)

theorem State.memCanonical.execMov {d a} {s : State} (h : s.memCanonical) :
    CanonicalOutcome (execMov d a s) :=
  h.issueUnary (fun _ h2 => h2.runTagged (fun _ h5 => h5.bitwise))

theorem State.memCanonical.execCvt {d a b} {s : State} (h : s.memCanonical) :
    CanonicalOutcome (execCvt d a b s) :=
  h.issue (fun _ h2 => h2.evalType)

theorem State.memCanonical.execCmpeq {d a b} {s : State} (h : s.memCanonical) :
    CanonicalOutcome (execCmpeq d a b s) :=
  h.issueCompare (fun _ h2 => h2.compare)

theorem State.memCanonical.execCmpne {d a b} {s : State} (h : s.memCanonical) :
    CanonicalOutcome (execCmpne d a b s) :=
  h.issueCompare (fun _ h2 => h2.compare)

theorem State.memCanonical.execCmplt {d a b} {s : State} (h : s.memCanonical) :
    CanonicalOutcome (execCmplt d a b s) :=
  h.issueCompare (fun _ h2 => h2.compare)

theorem State.memCanonical.execCmple {d a b} {s : State} (h : s.memCanonical) :
    CanonicalOutcome (execCmple d a b s) :=
  h.issueCompare (fun _ h2 => h2.compare)

theorem State.memCanonical.execCmpun {d a b} {s : State} (h : s.memCanonical) :
    CanonicalOutcome (execCmpun d a b s) :=
  h.issueCompare (fun _ h2 => h2.compare)

theorem State.memCanonical.execPand {d a b} {s : State} (h : s.memCanonical) :
    CanonicalOutcome (execPand d a b s) :=
  h.issue (fun _ h2 => h2.predicate)

theorem State.memCanonical.execPor {d a b} {s : State} (h : s.memCanonical) :
    CanonicalOutcome (execPor d a b s) :=
  h.issue (fun _ h2 => h2.predicate)

theorem State.memCanonical.execPxor {d a b} {s : State} (h : s.memCanonical) :
    CanonicalOutcome (execPxor d a b s) :=
  h.issue (fun _ h2 => h2.predicate)

theorem State.memCanonical.execPnot {d a} {s : State} (h : s.memCanonical) :
    CanonicalOutcome (execPnot d a s) :=
  h.issue (fun _ h2 => h2.predicate)

theorem State.memCanonical.execVany {d a} {s : State} (h : s.memCanonical) :
    CanonicalOutcome (execVany d a s) :=
  h.issue (fun _ h2 => h2.predicate)

theorem State.memCanonical.execVall {d a} {s : State} (h : s.memCanonical) :
    CanonicalOutcome (execVall d a s) :=
  h.issue (fun _ h2 => h2.predicate)

theorem State.memCanonical.execBallot {d a b} {s : State} (h : s.memCanonical) :
    CanonicalOutcome (execBallot d a b s) :=
  h.issue (fun _ h2 => h2.writeDest)

theorem State.memCanonical.execUnpkQn4 {d a b} {s : State} (h : s.memCanonical) :
    CanonicalOutcome (execUnpkQn4 d a b s) :=
  h.issueUnpk (fun _ h2 => h2.unpk)

theorem State.memCanonical.execUnpkF4 {d a b} {s : State} (h : s.memCanonical) :
    CanonicalOutcome (execUnpkF4 d a b s) :=
  h.issueUnpk (fun _ h2 => h2.unpk)

theorem State.memCanonical.execUnpkE4m3 {d a b} {s : State} (h : s.memCanonical) :
    CanonicalOutcome (execUnpkE4m3 d a b s) :=
  h.issueUnpk (fun _ h2 => h2.unpk)

theorem State.memCanonical.execUnpkE5m2 {d a b} {s : State} (h : s.memCanonical) :
    CanonicalOutcome (execUnpkE5m2 d a b s) :=
  h.issueUnpk (fun _ h2 => h2.unpk)

theorem State.memCanonical.execUnpkI8 {d a b} {s : State} (h : s.memCanonical) :
    CanonicalOutcome (execUnpkI8 d a b s) :=
  h.issueUnpk (fun _ h2 => h2.unpk)

theorem State.memCanonical.execUnpkBf {d a b} {s : State} (h : s.memCanonical) :
    CanonicalOutcome (execUnpkBf d a b s) :=
  h.issueUnpk (fun _ h2 => h2.unpk)

theorem State.memCanonical.execUnpkH {d a b} {s : State} (h : s.memCanonical) :
    CanonicalOutcome (execUnpkH d a b s) :=
  h.issueUnpk (fun _ h2 => h2.unpk)

theorem State.memCanonical.execPackQn4 {d a b} {s : State} (h : s.memCanonical) :
    CanonicalOutcome (execPackQn4 d a b s) :=
  h.issuePack (fun _ h2 => h2.pack)

theorem State.memCanonical.execPackF4 {d a b} {s : State} (h : s.memCanonical) :
    CanonicalOutcome (execPackF4 d a b s) :=
  h.issuePack (fun _ h2 => h2.pack)

theorem State.memCanonical.execPackE4m3 {d a b} {s : State} (h : s.memCanonical) :
    CanonicalOutcome (execPackE4m3 d a b s) :=
  h.issuePack (fun _ h2 => h2.pack)

theorem State.memCanonical.execPackE5m2 {d a b} {s : State} (h : s.memCanonical) :
    CanonicalOutcome (execPackE5m2 d a b s) :=
  h.issuePack (fun _ h2 => h2.pack)

theorem State.memCanonical.execPackI8 {d a b} {s : State} (h : s.memCanonical) :
    CanonicalOutcome (execPackI8 d a b s) :=
  h.issuePack (fun _ h2 => h2.pack)

theorem State.memCanonical.execPackBf {d a b} {s : State} (h : s.memCanonical) :
    CanonicalOutcome (execPackBf d a b s) :=
  h.issuePack (fun _ h2 => h2.pack)

theorem State.memCanonical.execPackH {d a b} {s : State} (h : s.memCanonical) :
    CanonicalOutcome (execPackH d a b s) :=
  h.issuePack (fun _ h2 => h2.pack)

theorem State.memCanonical.execXln {d a b} {s : State} (h : s.memCanonical) :
    CanonicalOutcome (execXln d a b s) :=
  h.issueCross (fun _ h2 => h2.crossLane)

theorem State.memCanonical.execXlnx {d a b} {s : State} (h : s.memCanonical) :
    CanonicalOutcome (execXlnx d a b s) :=
  h.issueCross (fun _ h2 => h2.crossLane)

theorem State.memCanonical.execRdlane {d a b} {s : State} (h : s.memCanonical) :
    CanonicalOutcome (execRdlane d a b s) :=
  h.issueCross (fun _ h2 => h2.crossLane)

theorem State.memCanonical.execTsum {d a} {s : State} (h : s.memCanonical) :
    CanonicalOutcome (execTsum d a s) :=
  h.issueTree (fun _ h2 => h2.reduceTeam)

theorem State.memCanonical.execTmin {d a} {s : State} (h : s.memCanonical) :
    CanonicalOutcome (execTmin d a s) :=
  h.issueTree (fun _ h2 => h2.reduceTeam)

theorem State.memCanonical.execTmax {d a} {s : State} (h : s.memCanonical) :
    CanonicalOutcome (execTmax d a s) :=
  h.issueTree (fun _ h2 => h2.reduceTeam)

theorem State.memCanonical.execTscan {d a} {s : State} (h : s.memCanonical) :
    CanonicalOutcome (execTscan d a s) :=
  h.issueTree (fun _ h2 => h2.scanTeam)

/-! ## Homes: what the functions of `Machine/Homes` leave of the form -/

theorem State.memCanonical.l2Touch {line} {s : State} (h : s.memCanonical) :
    (s.l2Touch line).memCanonical :=
  h

theorem State.memCanonical.l2Leave {line} {s : State} (h : s.memCanonical) :
    (s.l2Leave line).memCanonical :=
  h

theorem State.memCanonical.askUnseen {t} {s : State} (h : s.memCanonical) :
    (s.askUnseen t).memCanonical := by
  unfold State.askUnseen
  dsimp only
  refine State.memCanonical.foldl h ?_
  intro _ _ h2
  split
  · split
    · exact h2
    · exact h2.request
  · exact h2

theorem State.memCanonical.dropSnaps {s : State} (h : s.memCanonical) :
    s.dropSnaps.memCanonical := by
  unfold State.dropSnaps
  dsimp only
  split
  · exact h
  · exact h

theorem State.memCanonical.dropProxy {line} {s : State} (h : s.memCanonical) :
    (s.dropProxy line).memCanonical :=
  h

theorem State.memCanonical.yieldProxy {line again} {s : State} (h : s.memCanonical) :
    (s.yieldProxy line again).memCanonical := by
  unfold State.yieldProxy
  dsimp only
  split
  · exact h.l2Leave
  · split
    · refine State.memCanonical.request ?_
      split
      · exact h.dropProxy.l2Leave.loseLines.request
      · exact h.dropProxy.l2Leave.loseLines
      · exact h.dropProxy.l2Leave.loseLines.sendTo
    · split
      · exact h.dropProxy.l2Leave.loseLines.request
      · exact h.dropProxy.l2Leave.loseLines
      · exact h.dropProxy.l2Leave.loseLines.sendTo

theorem State.memCanonical.evictProxy {line} {s : State} (h : s.memCanonical) :
    (s.evictProxy line).memCanonical :=
  h.yieldProxy

theorem State.memCanonical.askLoad {ctx wg strong l} {s : State} (h : s.memCanonical) :
    (s.askLoad ctx wg strong l).1.memCanonical := by
  unfold State.askLoad
  dsimp only
  split
  · split
    · exact h.yieldProxy.request
    · split
      · exact h.request
      · split
        · exact h
        · split
          · exact h
          · exact h.request
  · split
    · exact h.windowRequest
    · exact h.windowRequest
  · exact h

theorem State.memCanonical.askLoads {seq strong xs} {s : State} (h : s.memCanonical) :
    (State.askLoads seq strong xs s).1.memCanonical := by
  induction xs generalizing s with
  | nil =>
    unfold State.askLoads
    exact h
  | cons x xs ih =>
    unfold State.askLoads
    dsimp only
    split
    · split
      next _ t4 heq4 =>
        have ht4 : t4.memCanonical := canonical_fst heq4 h.askLoad
        exact ih ht4.settleLoad
      next _ t4 _ heq4 =>
        have ht4 : t4.memCanonical := canonical_fst heq4 h.askLoad
        exact ih ht4
    · exact ih h

theorem Res.Canonical.withAsks {asks scalar r} (hr : r.Canonical) :
    (Res.withAsks asks scalar r).Canonical := by
  unfold Res.withAsks
  dsimp only
  split
  · exact hr
  · cases r with
    | done s =>
      have hs : s.memCanonical := hr
      exact hs.setCur
    | jump s =>
      have hs : s.memCanonical := hr
      exact hs.setCur
    | stay s =>
      have hs : s.memCanonical := hr
      exact hs.setCur
    | trap s cs fmask =>
      have hs : s.memCanonical := hr
      exact hs.setCur

theorem State.memCanonical.holdViews {mates loc size f} {s : State} (h : s.memCanonical) :
    (s.holdViews mates loc size f).memCanonical :=
  h.mapTeams

theorem State.memCanonical.ownView {wg loc bytes} {s : State} (h : s.memCanonical) :
    (s.ownView wg loc bytes).memCanonical := by
  unfold State.ownView
  refine State.memCanonical.holdViews ?_
  exact writeCells_wf _ _ (writeCells_wf _ _ h)

theorem State.memCanonical.reachWindow {wg line team own skip} {s : State} (h : s.memCanonical) :
    (s.reachWindow wg line team own skip).memCanonical :=
  h.reach.foldl (fun _ _ h2 => h2.reach)

theorem State.memCanonical.loseView {wg loc size} {s : State} (h : s.memCanonical) :
    (s.loseView wg loc size).memCanonical :=
  h.holdViews.draw

theorem State.memCanonical.sendStore {e wg} {s : State} (h : s.memCanonical) :
    (s.sendStore e wg).memCanonical := by
  unfold State.sendStore
  dsimp only
  split
  · split
    · exact h.yieldProxy.request
    · exact h.perform.request
  · split
    · exact h.windowRequest
    · exact h.ownView.reachWindow.windowRequest

theorem State.memCanonical.askDrop {agent line} {s : State} (h : s.memCanonical) :
    (s.askDrop agent line).memCanonical := by
  unfold State.askDrop
  dsimp only
  split
  · exact h
  · exact h

theorem State.memCanonical.l2Evict {line} {s : State} (h : s.memCanonical) :
    (s.l2Evict line).memCanonical := by
  unfold State.l2Evict
  split
  · exact h.evictProxy
  · split
    · exact h.setDir.l2Leave
    · exact h.askDrop

theorem State.memCanonical.l2Room {line} {s : State} (h : s.memCanonical) :
    (s.l2Room line).memCanonical := by
  unfold State.l2Room
  split
  · exact h
  · split
    · exact h.l2Evict
    · exact h

theorem State.memCanonical.takeWays {slice} {s : State} (h : s.memCanonical) :
    (s.takeWays slice).memCanonical := by
  unfold State.takeWays
  dsimp only
  split
  · exact h
  · split
    · exact h.setDie
    · exact h.foldl (fun _ _ h6 => h6.askDrop)

theorem State.memCanonical.takeDie {die} {s : State} (h : s.memCanonical) :
    (s.takeDie die).memCanonical :=
  h.foldl (fun _ _ h2 => h2.takeWays)

/-! ## System: what the functions of `Machine/System` leave of the form -/

theorem State.memCanonical.execNop {s : State} (h : s.memCanonical) :
    CanonicalOutcome (execNop s) :=
  h.issue (fun _ h2 => h2)

theorem State.memCanonical.execYield {s : State} (h : s.memCanonical) :
    CanonicalOutcome (execYield s) :=
  h.issue (fun _ h2 => h2.setCur)

theorem State.memCanonical.execMode {v} {s : State} (h : s.memCanonical) :
    CanonicalOutcome (execMode v s) :=
  h.issue (fun _ h2 => h2.setCur)

theorem State.memCanonical.execMguard {v} {s : State} (h : s.memCanonical) :
    CanonicalOutcome (execMguard v s) :=
  h.issue (fun _ h2 => h2.setCur)

theorem State.memCanonical.execGetc {d a b} {s : State} (h : s.memCanonical) :
    CanonicalOutcome (execGetc d a b s) := by
  unfold Machine.execGetc
  dsimp only
  refine State.memCanonical.issue h ?_
  intro _ h2
  split
  · show State.memCanonical _
    show Memory.wf _ = true
    dsimp only
    refine State.memCanonical.takeSeq ?_
    split
    · exact h2.dropDests
    · exact h2
  · exact h2.writeDest

theorem State.memCanonical.ctrlWrite {i x} {s : State} (h : s.memCanonical) :
    (s.ctrlWrite i x).memCanonical := by
  unfold State.ctrlWrite
  dsimp only
  split
  · exact h.setCur
  · exact h.setCur
  · exact h.setCur
  · split
    · exact h
    · split
      · exact h.frame.modWg
      · exact h.frame
  · exact h.modWg
  · exact h.frame
  · exact h.frame
  · exact h.setCtx
  · exact h.setCtx
  · exact h.setCur
  · exact h.setDie
  · exact h.setCtx
  · exact h.setCtx
  · exact h

theorem State.memCanonical.execSetc {a b} {s : State} (h : s.memCanonical) :
    CanonicalOutcome (execSetc a b s) := by
  unfold Machine.execSetc
  dsimp only
  refine State.memCanonical.issue h ?_
  intro _ h2
  split
  · exact h2
  · exact h2.ctrlWrite

theorem State.memCanonical.released {scope go} {s : State} (h : s.memCanonical) (hgo : ∀ t, t.memCanonical → (go t).Canonical) :
    (s.released scope go).Canonical := by
  unfold State.released
  split
  · exact hgo _ h.unpark
  · exact h.parkOn

theorem State.memCanonical.execHcall {d a b} {s : State} (h : s.memCanonical) :
    CanonicalOutcome (execHcall d a b s) := by
  unfold Machine.execHcall
  dsimp only
  refine State.memCanonical.issue h ?_
  intro _ h2
  split
  · show State.memCanonical _
    split
    · exact h2.unpark.setCur
    · exact h2.unpark
  · exact h2
  · refine State.memCanonical.released h2 ?_
    intro _ h7
    refine State.memCanonical.parkOn ?_
    split
    · exact h7
    · exact h7.postHrq

theorem State.memCanonical.dropTlb {c va kind} {s : State} (h : s.memCanonical) :
    (s.dropTlb c va kind).memCanonical :=
  h

theorem State.memCanonical.rewatch {c} {s : State} (h : s.memCanonical) :
    (s.rewatch c).memCanonical :=
  h.foldl (fun _ _ h2 => h2.modTeam.holdBound)

theorem State.memCanonical.execTlbinv {a b} {s : State} (h : s.memCanonical) :
    CanonicalOutcome (execTlbinv a b s) := by
  unfold Machine.execTlbinv
  dsimp only
  refine State.memCanonical.issue h ?_
  intro _ h2
  split
  · exact h2
  · split
    · split
      · exact h2.unpark
      · exact h2
    · refine State.memCanonical.released h2 ?_
      intro _ h9
      split
      · exact h9.dropTlb.rewatch.takeSeq
      · exact h9.dropTlb.rewatch.takeSeq.parkOn

/-! ## Mem: what the functions of `Machine/Mem` leave of the form -/

theorem State.memCanonical.askRegion {rs} {s : State} (h : s.memCanonical) :
    (s.askRegion rs).1.memCanonical := by
  unfold State.askRegion
  refine canonical_foldl_fst h ?_
  intro p x hp
  dsimp only
  split
  · split
    · exact hp
    · exact hp.request
  · exact hp

theorem Res.Canonical.forLanes {lanes r} (hr : r.Canonical) :
    (Res.forLanes lanes r).Canonical := by
  cases r with
  | done s => exact hr
  | jump s => exact hr
  | stay s =>
    have hs : s.memCanonical := hr
    exact hs.setCur
  | trap s cs fmask => exact hr

theorem State.memCanonical.satisfy {seq xs} {s : State} (h : s.memCanonical) :
    (State.satisfy seq xs s).memCanonical := by
  induction xs generalizing s with
  | nil =>
    unfold State.satisfy
    exact h
  | cons x xs ih =>
    unfold State.satisfy
    refine ih ?_
    split
    · exact h.settleLoad
    · exact h

theorem State.memCanonical.runRegionScalar {f d inWindow js} {s : State} (h : s.memCanonical) :
    (s.runRegionScalar f d inWindow js).Canonical := by
  unfold State.runRegionScalar
  dsimp only
  split
  next _ t1 _ _ heq =>
    have ht1 : t1.memCanonical := by
      refine canonical_trap heq ?_
      refine State.memCanonical.afterSites ?_
      refine State.memCanonical.takeSeq ?_
      refine State.memCanonical.foldl h ?_
      intro _ _ h8
      split
      · exact h8.regionScalar
      · exact h8
    exact ht1
  · refine State.memCanonical.afterSites ?_
    refine State.memCanonical.takeSeq ?_
    refine State.memCanonical.foldl h ?_
    intro _ _ h8
    split
    · exact h8.regionScalar
    · exact h8

theorem State.memCanonical.takeLoads {f scalar lanes window d js} {s : State} (h : s.memCanonical) :
    (State.takeLoads f scalar lanes window d js s).Canonical := by
  unfold State.takeLoads
  dsimp only
  split
  · split
    · exact Res.Canonical.forLanes (Res.Canonical.withAsks h.askRegion)
    · split
      · exact h.askRegion.runRegionScalar
      · exact h.askRegion.regionLoads.takeSeq.afterSites
  · refine Res.Canonical.withAsks ?_
    refine State.memCanonical.afterSites ?_
    refine State.memCanonical.takeSeq ?_
    split
    · exact h.addLoads.askLoads.satisfy.foldl (fun _ _ h12 => h12.noteStrong)
    · exact h.addLoads.askLoads

theorem State.memCanonical.runLoad {f scalar acc d} {s : State} (h : s.memCanonical) :
    (State.runLoad f scalar acc d s).Canonical := by
  unfold State.runLoad
  dsimp only
  split
  · exact h
  · split
    · exact h.sites.sites.parkFor
    · refine canonicalRes_getD h.sites.sites.farCheck ?_
      split
      · split
        · exact h.sites.sites.unpark.takeLoads
        · split
          · exact (h.sites.sites.foldl (fun _ _ h16 => h16.askRead)).parkOn
          · split
            next _ t13 heq13 =>
              have ht13 : t13.memCanonical := canonical_done heq13 (((h.sites.sites.foldl (fun _ _ h20 => h20.askRead)).unpark).takeLoads)
              split
              · exact ht13
              · exact ht13.setCur.parkOn
            next _ t13 heq13 =>
              have ht13 : t13.memCanonical := canonical_stay heq13 (((h.sites.sites.foldl (fun _ _ h20 => h20.askRead)).unpark).takeLoads)
              split
              · exact ht13
              · exact Res.Canonical.forLanes ht13
            · exact ((h.sites.sites.foldl (fun _ _ h20 => h20.askRead)).unpark).takeLoads
      · split
        · exact h.sites.sites.unpark.takeLoads
        · split
          · exact (h.sites.sites.foldl (fun _ _ h16 => h16.askRead)).parkOn
          · split
            next _ t13 heq13 =>
              have ht13 : t13.memCanonical := canonical_done heq13 (((h.sites.sites.foldl (fun _ _ h20 => h20.askRead)).unpark).takeLoads)
              split
              · exact ht13
              · exact ht13.setCur.parkOn
            next _ t13 heq13 =>
              have ht13 : t13.memCanonical := canonical_stay heq13 (((h.sites.sites.foldl (fun _ _ h20 => h20.askRead)).unpark).takeLoads)
              split
              · exact ht13
              · exact Res.Canonical.forLanes ht13
            · exact ((h.sites.sites.foldl (fun _ _ h20 => h20.askRead)).unpark).takeLoads

theorem State.memCanonical.issueLoad {f dOk d a b} {s : State} (h : s.memCanonical) :
    CanonicalOutcome (issueLoad f dOk d a b s) :=
  h.issue (fun _ h2 => h2.runLoad)

theorem State.memCanonical.execLdb {d a b} {s : State} (h : s.memCanonical) :
    CanonicalOutcome (execLdb d a b s) :=
  h.issueLoad

theorem State.memCanonical.execLdh {d a b} {s : State} (h : s.memCanonical) :
    CanonicalOutcome (execLdh d a b s) :=
  h.issueLoad

theorem State.memCanonical.execLdw {d a b} {s : State} (h : s.memCanonical) :
    CanonicalOutcome (execLdw d a b s) :=
  h.issueLoad

theorem State.memCanonical.execLdd {d a b} {s : State} (h : s.memCanonical) :
    CanonicalOutcome (execLdd d a b s) :=
  h.issueLoad

theorem State.memCanonical.execLdq {d a b} {s : State} (h : s.memCanonical) :
    CanonicalOutcome (execLdq d a b s) :=
  h.issueLoad

theorem State.memCanonical.execLdwa {d a b} {s : State} (h : s.memCanonical) :
    CanonicalOutcome (execLdwa d a b s) :=
  h.issueLoad

theorem State.memCanonical.execLdda {d a b} {s : State} (h : s.memCanonical) :
    CanonicalOutcome (execLdda d a b s) :=
  h.issueLoad

theorem State.memCanonical.issueSymbolic {size d a b} {s : State} (h : s.memCanonical) :
    CanonicalOutcome (issueSymbolic size d a b s) :=
  h.issue (fun _ h2 => h2.runLoad)

theorem State.memCanonical.execRldw {d a b} {s : State} (h : s.memCanonical) :
    CanonicalOutcome (execRldw d a b s) :=
  h.issueSymbolic

theorem State.memCanonical.execRldd {d a b} {s : State} (h : s.memCanonical) :
    CanonicalOutcome (execRldd d a b s) :=
  h.issueSymbolic

theorem State.memCanonical.issueScalarLoad {size d a b} {s : State} (h : s.memCanonical) :
    CanonicalOutcome (issueScalarLoad size d a b s) := by
  unfold Machine.issueScalarLoad
  dsimp only
  refine State.memCanonical.issue h ?_
  intro _ h2
  split
  · exact h2
  · exact h2.runLoad

theorem State.memCanonical.execLds {d a b} {s : State} (h : s.memCanonical) :
    CanonicalOutcome (execLds d a b s) :=
  h.issueScalarLoad

theorem State.memCanonical.execLdsd {d a b} {s : State} (h : s.memCanonical) :
    CanonicalOutcome (execLdsd d a b s) :=
  h.issueScalarLoad

theorem State.memCanonical.regionStore {d x} {s : State} (h : s.memCanonical) :
    (State.regionStore d s x).memCanonical := by
  unfold State.regionStore
  dsimp only
  split
  · split
    · exact h.setCur
    · exact h.setCur
  · exact h

theorem State.memCanonical.concretiseStore {f d a b} {s : State} (h : s.memCanonical) :
    (State.concretiseStore f d a b s).memCanonical := by
  unfold State.concretiseStore
  dsimp only
  split
  · exact h
  · exact h.setCur

theorem State.memCanonical.runStores {release need d xs} {s : State} (h : s.memCanonical) :
    (State.runStores release need d xs s).Canonical := by
  unfold State.runStores
  dsimp only
  split
  · exact h
  · split
    · exact (h.sites.foldl (fun _ _ h8 => h8.regionStore)).afterSites
    · split
      · exact h.sites.parkFor
      · refine canonicalRes_getD h.sites.farCheck ?_
        split
        · exact h.sites.unpark.takeSeq.enterStores.draw.afterSites
        · exact h.sites.unpark.takeSeq.enterStores.draw.setCur.parkOn

theorem State.memCanonical.issueStore {f dOk d a b} {s : State} (h : s.memCanonical) :
    CanonicalOutcome (issueStore f dOk d a b s) :=
  h.issue (fun _ h2 => h2.concretiseStore.runStores)

theorem State.memCanonical.execStb {d a b} {s : State} (h : s.memCanonical) :
    CanonicalOutcome (execStb d a b s) :=
  h.issueStore

theorem State.memCanonical.execSth {d a b} {s : State} (h : s.memCanonical) :
    CanonicalOutcome (execSth d a b s) :=
  h.issueStore

theorem State.memCanonical.execStw {d a b} {s : State} (h : s.memCanonical) :
    CanonicalOutcome (execStw d a b s) :=
  h.issueStore

theorem State.memCanonical.execStd {d a b} {s : State} (h : s.memCanonical) :
    CanonicalOutcome (execStd d a b s) :=
  h.issueStore

theorem State.memCanonical.execStq {d a b} {s : State} (h : s.memCanonical) :
    CanonicalOutcome (execStq d a b s) :=
  h.issueStore

theorem State.memCanonical.execStwl {d a b} {s : State} (h : s.memCanonical) :
    CanonicalOutcome (execStwl d a b s) :=
  h.issueStore

theorem State.memCanonical.execStdl {d a b} {s : State} (h : s.memCanonical) :
    CanonicalOutcome (execStdl d a b s) :=
  h.issueStore

theorem State.memCanonical.intoHome {line} {s : State} (h : s.memCanonical) :
    (s.intoHome line).memCanonical := by
  unfold State.intoHome
  split
  · exact h.l2Room
  · exact h.l2Touch

theorem State.memCanonical.prefetch {hint space loc} {s : State} (h : s.memCanonical) :
    (s.prefetch hint space loc).memCanonical := by
  unfold State.prefetch
  dsimp only
  split
  · split
    · exact h.intoHome
    · exact h.fetchManaged
  · exact h.ite h.request
  · exact h
  · split
    · exact h
    · split
      · exact h.askShared
      · split
        · exact h
        · exact h.askExclusive
      · exact h.intoHome

theorem State.memCanonical.runPft {hint a b} {s : State} (h : s.memCanonical) :
    (State.runPft hint a b s).Canonical := by
  unfold State.runPft
  show State.memCanonical _
  refine State.memCanonical.foldl h ?_
  intro _ _ h4
  split
  · exact h4
  · split
    · exact h4.prefetch
    · exact h4

theorem State.memCanonical.execPft {d a b} {s : State} (h : s.memCanonical) :
    CanonicalOutcome (execPft d a b s) :=
  h.issue (fun _ h2 => h2.runPft)

theorem State.memCanonical.cleanManaged {core line} {s : State} (h : s.memCanonical) :
    (s.cleanManaged core line).memCanonical := by
  unfold State.cleanManaged
  dsimp only
  split
  · exact h
  · show Memory.wf _ = true
    dsimp only
    split
    · exact h
    · exact h.recallCopies.writeMem

theorem State.memCanonical.dropManaged {core line} {s : State} (h : s.memCanonical) :
    (s.dropManaged core line).memCanonical :=
  h

theorem State.memCanonical.cleanLine {core line} {s : State} (h : s.memCanonical) :
    (s.cleanLine core line).memCanonical := by
  unfold State.cleanLine
  dsimp only
  split
  · exact h
  · split
    · exact h.setCopy
    · split
      · exact h.setCopy.setDir
      · exact h

theorem State.memCanonical.flushLine {core line} {s : State} (h : s.memCanonical) :
    (s.flushLine core line).memCanonical := by
  unfold State.flushLine
  dsimp only
  split
  · exact h.loseLine.giveUp.askShared
  · exact h.loseLine.giveUp

theorem State.memCanonical.cacheLine {kind space loc} {s : State} (h : s.memCanonical) :
    (s.cacheLine kind space loc).memCanonical := by
  unfold State.cacheLine
  dsimp only
  split
  · split
    · exact h.recallCopies.forceLoads.cleanManaged
    · refine State.memCanonical.refetchBound ?_
      refine State.memCanonical.loseLine ?_
      split
      · exact h.recallCopies.forceLoads.flushManaged
      · exact h.recallCopies.forceLoads.dropManaged
  · split
    · exact h.recallCopies.forceLoads.cleanLine
    · exact h.recallCopies.forceLoads.flushLine
  · split
    · exact h.recallCopies.forceLoads.cleanLine
    · exact h.recallCopies.forceLoads.flushLine
  · split
    · exact h.recallCopies.forceLoads
    · exact h.recallCopies.forceLoads.evictProxy
  · exact h.recallCopies.forceLoads

theorem State.memCanonical.runCache {kind a b} {s : State} (h : s.memCanonical) :
    (State.runCache kind a b s).Canonical := by
  unfold State.runCache
  dsimp only
  split
  · exact h.sites.parkFor
  · exact ((h.sites.unpark.foldl (fun _ _ h8 => h8.cacheLine)).takeSeq).afterSites

theorem State.memCanonical.issueCache {kind a b} {s : State} (h : s.memCanonical) :
    CanonicalOutcome (issueCache kind a b s) :=
  h.issue (fun _ h2 => h2.runCache)

theorem State.memCanonical.execCflush {a b} {s : State} (h : s.memCanonical) :
    CanonicalOutcome (execCflush a b s) :=
  h.issueCache

theorem State.memCanonical.execCclean {a b} {s : State} (h : s.memCanonical) :
    CanonicalOutcome (execCclean a b s) :=
  h.issueCache

theorem State.memCanonical.execCinv {a b} {s : State} (h : s.memCanonical) :
    CanonicalOutcome (execCinv a b s) :=
  h.issueCache

theorem State.memCanonical.execFencea {s : State} (h : s.memCanonical) :
    CanonicalOutcome (execFencea s) := by
  unfold Machine.execFencea
  refine State.memCanonical.issue h ?_
  intro _ h2
  split
  · exact h2.unpark
  · exact h2.parkOn

theorem State.memCanonical.execFencer {s : State} (h : s.memCanonical) :
    CanonicalOutcome (execFencer s) := by
  unfold Machine.execFencer
  dsimp only
  refine State.memCanonical.issue h ?_
  intro _ h2
  split
  · exact h2.setCur
  · exact h2.setCur.takeSeq

theorem State.memCanonical.execFences {s : State} (h : s.memCanonical) :
    CanonicalOutcome (execFences s) :=
  h.issue (fun _ h2 => h2.released (fun _ h5 => h5))

/-! ## Atomic: what the functions of `Machine/Atomic` leave of the form -/

theorem State.memCanonical.runAtomic {op d a b} {s : State} (h : s.memCanonical) :
    (State.runAtomic op d a b s).Canonical := by
  unfold State.runAtomic
  dsimp only
  split
  · exact h
  · split
    · exact h.sites.sites.parkFor
    · exact canonicalRes_getD h.sites.sites.farCheck h.sites.sites.unpark.addLoads.askLoads.takeSeq.draw.afterSites.withAsks

theorem State.memCanonical.issueAtomic {op d a b} {s : State} (h : s.memCanonical) :
    CanonicalOutcome (issueAtomic op d a b s) :=
  h.issue (fun _ h2 => h2.runAtomic)

theorem State.memCanonical.execAtadd {d a b} {s : State} (h : s.memCanonical) :
    CanonicalOutcome (execAtadd d a b s) :=
  h.issueAtomic

theorem State.memCanonical.execAtand {d a b} {s : State} (h : s.memCanonical) :
    CanonicalOutcome (execAtand d a b s) :=
  h.issueAtomic

theorem State.memCanonical.execAtor {d a b} {s : State} (h : s.memCanonical) :
    CanonicalOutcome (execAtor d a b s) :=
  h.issueAtomic

theorem State.memCanonical.execAtxor {d a b} {s : State} (h : s.memCanonical) :
    CanonicalOutcome (execAtxor d a b s) :=
  h.issueAtomic

theorem State.memCanonical.execAtmin {d a b} {s : State} (h : s.memCanonical) :
    CanonicalOutcome (execAtmin d a b s) :=
  h.issueAtomic

theorem State.memCanonical.execAtmax {d a b} {s : State} (h : s.memCanonical) :
    CanonicalOutcome (execAtmax d a b s) :=
  h.issueAtomic

theorem State.memCanonical.execAtxch {d a b} {s : State} (h : s.memCanonical) :
    CanonicalOutcome (execAtxch d a b s) :=
  h.issueAtomic

theorem State.memCanonical.execAtcas {d a b} {s : State} (h : s.memCanonical) :
    CanonicalOutcome (execAtcas d a b s) :=
  h.issueAtomic

theorem State.memCanonical.issueReduction {op a b} {s : State} (h : s.memCanonical) :
    CanonicalOutcome (issueReduction op a b s) :=
  h.issue (fun _ h2 => h2.runStores)

theorem State.memCanonical.execRmadd {a b} {s : State} (h : s.memCanonical) :
    CanonicalOutcome (execRmadd a b s) :=
  h.issueReduction

theorem State.memCanonical.execRmand {a b} {s : State} (h : s.memCanonical) :
    CanonicalOutcome (execRmand a b s) :=
  h.issueReduction

theorem State.memCanonical.execRmor {a b} {s : State} (h : s.memCanonical) :
    CanonicalOutcome (execRmor a b s) :=
  h.issueReduction

theorem State.memCanonical.execRmxor {a b} {s : State} (h : s.memCanonical) :
    CanonicalOutcome (execRmxor a b s) :=
  h.issueReduction

theorem State.memCanonical.execRmmin {a b} {s : State} (h : s.memCanonical) :
    CanonicalOutcome (execRmmin a b s) :=
  h.issueReduction

theorem State.memCanonical.execRmmax {a b} {s : State} (h : s.memCanonical) :
    CanonicalOutcome (execRmmax a b s) :=
  h.issueReduction

/-! ## Flow: what the functions of `Machine/Flow` leave of the form -/

theorem State.memCanonical.execBr {b} {s : State} (h : s.memCanonical) :
    CanonicalOutcome (execBr b s) :=
  h.issue (fun _ h2 => h2.setCur)

theorem State.memCanonical.execBrc {d b} {s : State} (h : s.memCanonical) :
    CanonicalOutcome (execBrc d b s) := by
  unfold Machine.execBrc
  dsimp only
  refine State.memCanonical.issue h ?_
  intro _ h2
  split
  · exact h2.setCur
  · split
    · exact h2.setCur
    · split
      · exact h2.setCur
      · exact h2.setCur

theorem State.memCanonical.execBrany {d b} {s : State} (h : s.memCanonical) :
    CanonicalOutcome (execBrany d b s) :=
  h.issue (fun _ h2 => h2.setCur)

theorem State.memCanonical.execBrall {d b} {s : State} (h : s.memCanonical) :
    CanonicalOutcome (execBrall d b s) :=
  h.issue (fun _ h2 => h2.setCur)

theorem State.memCanonical.execLoop {d b} {s : State} (h : s.memCanonical) :
    CanonicalOutcome (execLoop d b s) :=
  h.issue (fun _ h2 => h2.setCur)

theorem State.memCanonical.execMark {b} {s : State} (h : s.memCanonical) :
    CanonicalOutcome (execMark b s) :=
  h.issue (fun _ h2 => h2.setCur)

theorem State.memCanonical.execJoin {s : State} (h : s.memCanonical) :
    CanonicalOutcome (execJoin s) :=
  h.issue (fun _ h2 => h2.setCur)

theorem State.memCanonical.execCall {b} {s : State} (h : s.memCanonical) :
    CanonicalOutcome (execCall b s) :=
  h.issue (fun _ h2 => h2.setCur)

theorem State.memCanonical.execCalli {a} {s : State} (h : s.memCanonical) :
    CanonicalOutcome (execCalli a s) := by
  unfold Machine.execCalli
  dsimp only
  refine State.memCanonical.issue h ?_
  intro _ h2
  split
  · exact h2.setCur
  · exact h2.setCur

theorem State.memCanonical.execRet {s : State} (h : s.memCanonical) :
    CanonicalOutcome (execRet s) :=
  h.issue (fun _ h2 => h2.setCur)

theorem State.memCanonical.cutBinds {team lanes} {s : State} (h : s.memCanonical) :
    (s.cutBinds team lanes).memCanonical :=
  h

theorem State.memCanonical.execExit {s : State} (h : s.memCanonical) :
    CanonicalOutcome (execExit s) := by
  unfold Machine.execExit
  dsimp only
  refine State.memCanonical.issue h ?_
  intro _ h2
  split
  · exact h2.cutBinds.setCur
  · exact h2.setCur

theorem State.memCanonical.softTrap {x} {s : State} (h : s.memCanonical) :
    (s.softTrap x).Canonical := by
  unfold State.softTrap
  split
  · exact h
  · exact h.takeTrap

theorem State.memCanonical.execTrap {b} {s : State} (h : s.memCanonical) :
    CanonicalOutcome (execTrap b s) :=
  h.issue (fun _ h2 => h2.softTrap)

theorem State.memCanonical.execBrk {s : State} (h : s.memCanonical) :
    CanonicalOutcome (execBrk s) :=
  h.issue (fun _ h2 => h2.softTrap)

theorem State.memCanonical.execSret {s : State} (h : s.memCanonical) :
    CanonicalOutcome (execSret s) := by
  unfold Machine.execSret
  refine State.memCanonical.issue h ?_
  intro _ h2
  split
  · exact h2.askUnseen
  · exact h2.setCur.observe

/-! ## Bind: what the functions of `Machine/Bind` leave of the form -/

theorem State.memCanonical.setSpilled {team reg line on} {s : State} (h : s.memCanonical) :
    (s.setSpilled team reg line on).memCanonical :=
  h.frame.modTeam

theorem State.memCanonical.placeBobbin {extra team reg space loc} {s : State} (h : s.memCanonical) :
    (s.placeBobbin extra team reg space loc).1.memCanonical := by
  unfold State.placeBobbin
  dsimp only
  split
  · exact h
  · split
    · split
      · exact h
      · exact h
    · split
      · exact h
      · split
        · split
          · exact h
          · exact h
        · split
          · dsimp only
            split
            · exact h.setSpilled
            · exact h.frame
          · exact h

theorem State.memCanonical.refill {core n} {s : State} (h : s.memCanonical) :
    (s.refill core n).memCanonical := by
  induction n generalizing s with
  | zero =>
    unfold State.refill
    exact h
  | succ n ih =>
    unfold State.refill
    dsimp only
    split
    · split
      · exact h
      · exact ih h.setSpilled
    · exact h

theorem State.memCanonical.placeLanes {reg xs xs2} {s : State} (h : s.memCanonical) :
    (State.placeLanes reg xs xs2 s).1.memCanonical := by
  induction xs2 generalizing s reg xs with
  | nil =>
    unfold State.placeLanes
    exact h
  | cons x xs2 ih =>
    unfold State.placeLanes
    dsimp only
    split
    · split
      next _ t4 _ heq4 =>
        have ht4 : t4.memCanonical := canonical_fst heq4 h.placeBobbin
        exact ih ht4
      next _ t4 heq4 =>
        have ht4 : t4.memCanonical := canonical_fst heq4 h.placeBobbin
        exact ih ht4
    · exact ih h

theorem State.memCanonical.cutBindsAt {team lanes regs} {s : State} (h : s.memCanonical) :
    (s.cutBindsAt team lanes regs).memCanonical :=
  h

theorem State.memCanonical.runBind {notify size8 d a b} {s : State} (h : s.memCanonical) :
    (State.runBind notify size8 d a b s).Canonical := by
  unfold State.runBind
  dsimp only
  split
  · split
    · exact h
    · split
      · exact h.parkFor
      · exact h.unpark.sites.cutBindsAt.setCur.placeLanes.addLoads.askLoads.takeSeq.afterSites.withAsks
  · split
    · exact h
    · split
      · exact h.parkFor
      · exact h.unpark.sites.cutBindsAt.setCur.placeLanes.addLoads.askLoads.takeSeq.afterSites.withAsks

theorem State.memCanonical.issueBind {notify size8 d a b} {s : State} (h : s.memCanonical) :
    CanonicalOutcome (issueBind notify size8 d a b s) :=
  h.issue (fun _ h2 => h2.runBind)

theorem State.memCanonical.execBld {d a b} {s : State} (h : s.memCanonical) :
    CanonicalOutcome (execBld d a b s) :=
  h.issueBind

theorem State.memCanonical.execBldn {d a b} {s : State} (h : s.memCanonical) :
    CanonicalOutcome (execBldn d a b s) :=
  h.issueBind

theorem State.memCanonical.execBldd {d a b} {s : State} (h : s.memCanonical) :
    CanonicalOutcome (execBldd d a b s) :=
  h.issueBind

theorem State.memCanonical.execUnbind {d} {s : State} (h : s.memCanonical) :
    CanonicalOutcome (execUnbind d s) :=
  h.issue (fun _ h2 => h2.cutBindsAt.setCur)

theorem State.memCanonical.execUnball {s : State} (h : s.memCanonical) :
    CanonicalOutcome (execUnball s) :=
  h.issue (fun _ h2 => h2.cutBindsAt.setCur)

theorem State.memCanonical.endBwait {d a} {s : State} (h : s.memCanonical) :
    (State.endBwait d a s).Canonical :=
  h.observe.unpark.setCur

theorem State.memCanonical.runBwait {d a b} {s : State} (h : s.memCanonical) :
    (State.runBwait d a b s).Canonical := by
  unfold State.runBwait
  dsimp only
  split
  · split
    · exact h.askUnseen.parkOn
    · exact h.askUnseen
  · split
    · exact h.endBwait
    · split
      · exact h.observe.endBwait
      · split
        · exact h.observe.endBwait
        · exact h.observe
        · split
          · exact h.observe.endBwait
          · exact h.observe.parkOn

theorem State.memCanonical.execBwait {d a b} {s : State} (h : s.memCanonical) :
    CanonicalOutcome (execBwait d a b s) :=
  h.issue (fun _ h2 => h2.runBwait)

theorem State.memCanonical.execBchg {d a} {s : State} (h : s.memCanonical) :
    CanonicalOutcome (execBchg d a s) :=
  h.issue (fun _ h2 => h2.setCur)

theorem State.memCanonical.boundSites {size xs} {s : State} (h : s.memCanonical) :
    (State.boundSites size xs s).1.memCanonical := by
  induction xs generalizing s with
  | nil =>
    unfold State.boundSites
    exact h
  | cons x xs ih =>
    unfold State.boundSites
    exact ih h.beforePlace.stage2

theorem State.memCanonical.runBound {op d a b old} {s : State} (h : s.memCanonical) :
    (State.runBound op d a b old s).Canonical := by
  unfold State.runBound
  dsimp only
  split
  · exact h
  · split
    · split
      · exact h.parkFor
      · split
        · split
          · exact h.unpark.boundSites.sites.parkOn
          · exact canonicalRes_getD h.unpark.boundSites.sites.farCheck
              h.unpark.boundSites.sites.addLoads.askLoads.takeSeq.draw.afterSites.withAsks
        · split
          · exact h.unpark.boundSites.sites.parkOn
          · exact canonicalRes_getD h.unpark.boundSites.sites.farCheck
              h.unpark.boundSites.sites.addLoads.askLoads.takeSeq.draw.afterSites.withAsks
    · split
      · exact h.parkFor
      · split
        · split
          · exact h.unpark.boundSites.sites.parkOn
          · exact canonicalRes_getD h.unpark.boundSites.sites.farCheck
              h.unpark.boundSites.sites.addLoads.askLoads.takeSeq.draw.afterSites.withAsks
        · split
          · exact h.unpark.boundSites.sites.parkOn
          · exact canonicalRes_getD h.unpark.boundSites.sites.farCheck
              h.unpark.boundSites.sites.addLoads.askLoads.takeSeq.draw.afterSites.withAsks

theorem State.memCanonical.issueBoundOld {op d a b} {s : State} (h : s.memCanonical) :
    CanonicalOutcome (issueBoundOld op d a b s) :=
  h.issue (fun _ h2 => h2.runBound)

theorem State.memCanonical.execBadd {d a b} {s : State} (h : s.memCanonical) :
    CanonicalOutcome (execBadd d a b s) :=
  h.issueBoundOld

theorem State.memCanonical.execBxch {d a b} {s : State} (h : s.memCanonical) :
    CanonicalOutcome (execBxch d a b s) :=
  h.issueBoundOld

theorem State.memCanonical.execBcas {d a b} {s : State} (h : s.memCanonical) :
    CanonicalOutcome (execBcas d a b s) :=
  h.issue (fun _ h2 => h2.runBound)

/-! ## Region: what the functions of `Machine/Region` leave of the form -/

theorem State.memCanonical.execRbegin {a} {s : State} (h : s.memCanonical) :
    CanonicalOutcome (execRbegin a s) :=
  h.issue (fun _ h2 => h2.setCur)

theorem State.memCanonical.runCommit {s : State} (h : s.memCanonical) :
    s.runCommit.Canonical := by
  unfold State.runCommit
  dsimp only
  split
  · split
    · exact h
    · split
      · split
        · exact h.unpark.setCur
        · exact h.unpark
      · exact h
  · exact h.released (fun _ h4 => h4.parkOn)

theorem State.memCanonical.execRcommit {s : State} (h : s.memCanonical) :
    CanonicalOutcome (execRcommit s) :=
  h.issue (fun _ h2 => h2.runCommit)

theorem State.memCanonical.execRabort {s : State} (h : s.memCanonical) :
    CanonicalOutcome (execRabort s) :=
  h.issue (fun _ h2 => h2.setCur)

theorem State.memCanonical.writeProxy {t dev line seq x cells} {s : State} (h : s.memCanonical) :
    (s.writeProxy t dev line seq x cells).memCanonical :=
  h.writeMem.frame.request

theorem State.memCanonical.drainStore {t core seq r values x} {s : State} (h : s.memCanonical) :
    (s.drainStore t core seq r values x).memCanonical := by
  unfold State.drainStore
  dsimp only
  split
  · refine State.memCanonical.writeProxy ?_
    split
    · exact h.noteStrong
    · exact h
  · refine State.memCanonical.dirtyLine ?_
    refine State.memCanonical.perform ?_
    split
    · exact h.noteStrong
    · exact h

theorem State.memCanonical.takeLine {core ctx line} {s : State} (h : s.memCanonical) :
    (s.takeLine core ctx line).memCanonical := by
  unfold State.takeLine
  dsimp only
  split
  · split
    · exact h
    · exact h.request
  · exact h.askExclusive

theorem State.memCanonical.commitLane {t l r} {s : State} (h : s.memCanonical) :
    (s.commitLane t l r).memCanonical := by
  unfold State.commitLane
  dsimp only
  split
  · exact h.foldl (fun _ _ h4 => h4.snoopLine)
  · split
    · exact h.takeLine
    · split
      · exact h
      · split
        · exact ((h.foldl (fun _ _ h14 => h14.recallCopies)).foldl (fun _ _ h12 => h12.performNow)).modTeam
        · exact ((((h.foldl (fun _ _ h18 => h18.recallCopies)).foldl (fun _ _ h16 => h16.performNow)).takeSeq).foldl (fun _ _ h12 =>
            h12.drainStore)).modTeam

theorem State.memCanonical.execLaneCommit {team lane} {s : State} (h : s.memCanonical) :
    CanonicalOutcome (execLaneCommit team lane s) := by
  unfold Machine.execLaneCommit
  show State.memCanonical _
  split
  · exact h
  · split
    · split
      · exact h.commitLane
      · exact h
    · exact h

theorem State.memCanonical.waitUntil {cycle} {s : State} (h : s.memCanonical) :
    (s.waitUntil cycle).memCanonical :=
  h

theorem State.memCanonical.execRegionTimeout {team lane} {s : State} (h : s.memCanonical) :
    CanonicalOutcome (execRegionTimeout team lane s) := by
  unfold Machine.execRegionTimeout
  show State.memCanonical _
  split
  · exact h
  · split
    · split
      · exact h.waitUntil.modTeam
      · exact h
    · exact h

/-! ## Sync: what the functions of `Machine/Sync` leave of the form -/

theorem State.memCanonical.wakeAwaits {loc} {s : State} (h : s.memCanonical) :
    (s.wakeAwaits loc).memCanonical :=
  h.mapTeams

theorem State.memCanonical.putBarrier {loc w mask} {s : State} (h : s.memCanonical) :
    (s.putBarrier loc w mask).memCanonical := by
  unfold State.putBarrier
  dsimp only
  refine State.memCanonical.wakeAwaits ?_
  refine State.memCanonical.perform ?_
  split
  · exact h.invalidateOthers
  · exact h

theorem State.memCanonical.arriveAt {loc m gen} {s : State} (h : s.memCanonical) :
    (s.arriveAt loc m gen).1.memCanonical := by
  unfold State.arriveAt
  generalize cellNat s.mem loc 8 = w
  generalize cellNat s.mem (loc + 8) 8 = mask
  dsimp only
  refine canonical_ite_fst h ?_
  refine canonical_ite_fst ?_ (canonical_ite_fst ?_ ?_)
  · dsimp only
    exact h.putBarrier
  · dsimp only
    exact h.putBarrier
  · dsimp only
    exact h.putBarrier

theorem State.memCanonical.initAt {loc ctl} {s : State} (h : s.memCanonical) :
    (s.initAt loc ctl).memCanonical :=
  h.frame.putBarrier

theorem State.memCanonical.invAt {loc} {s : State} (h : s.memCanonical) :
    (s.invAt loc).memCanonical := by
  unfold State.invAt
  exact h.frame.putBarrier

theorem State.memCanonical.settleWord {loc} {s : State} (h : s.memCanonical) :
    (s.settleWord loc).memCanonical :=
  h.recallCopies.forceLoads.forceRange

theorem State.memCanonical.remoteBarrier {loc kind arg d} {s : State} (h : s.memCanonical) :
    (s.remoteBarrier loc kind arg d).Canonical := by
  unfold State.remoteBarrier
  exact Res.Canonical.withAsks h.windowRequest

theorem State.memCanonical.barrierOp {a kind arg d here} {s : State} (h : s.memCanonical) (hhere : ∀ t x1, t.memCanonical →
    (here t x1).Canonical) :
    (s.barrierOp a kind arg d here).Canonical := by
  unfold State.barrierOp
  dsimp only
  split
  · exact h
  · split
    · exact h.unpark
    · split
      · exact h.parkOn
      · exact h.remoteBarrier
    · split
      · exact h.parkFor
      · exact hhere _ _ h.settleWord.unpark

theorem State.memCanonical.putStatus {d x} {s : State} (h : s.memCanonical) :
    (s.putStatus d x).Canonical := by
  unfold State.putStatus
  show State.memCanonical _
  split
  · exact h.setCur
  · exact h

theorem State.memCanonical.execBarinit {a b} {s : State} (h : s.memCanonical) :
    CanonicalOutcome (execBarinit a b s) :=
  h.issue (fun _ h2 => h2.barrierOp (fun _ _ h5 => h5.initAt))

theorem State.memCanonical.execBarinv {a} {s : State} (h : s.memCanonical) :
    CanonicalOutcome (execBarinv a s) :=
  h.issue (fun _ h2 => h2.barrierOp (fun _ _ h5 => h5.invAt))

theorem State.memCanonical.execArrive {d a b} {s : State} (h : s.memCanonical) :
    CanonicalOutcome (execArrive d a b s) := by
  unfold Machine.execArrive
  dsimp only
  refine State.memCanonical.issue h ?_
  intro _ h2
  split
  · exact h2
  · split
    · exact h2.released (fun _ h9 => h9.barrierOp (fun _ _ h12 => h12))
    · exact h2.takeSeq

theorem State.memCanonical.raisePending {go} {s : State} (h : s.memCanonical) (hgo : ∀ t, t.memCanonical → (go t).Canonical) :
    (s.raisePending go).Canonical := by
  unfold State.raisePending
  dsimp only
  split
  · exact h.setCur
  · exact hgo _ h

theorem State.memCanonical.waitToken {loc tok d} {s : State} (h : s.memCanonical) :
    (s.waitToken loc tok d).Canonical := by
  unfold State.waitToken
  split
  · exact h.unpark.putStatus
  · exact h.parkOn

theorem State.memCanonical.resumeWait {d status} {s : State} (h : s.memCanonical) :
    (s.resumeWait d status).Canonical := by
  unfold State.resumeWait
  split
  · exact h.unpark.putStatus
  · exact h

theorem State.memCanonical.execAwait {d a b} {s : State} (h : s.memCanonical) :
    CanonicalOutcome (execAwait d a b s) := by
  unfold Machine.execAwait
  refine State.memCanonical.issue h ?_
  intro _ h2
  split
  · exact h2
  · exact h2.resumeWait
  · exact h2.raisePending (fun _ h7 => h7.barrierOp (fun _ _ h10 => h10.waitToken))

theorem State.memCanonical.arrwaitAt {loc m d} {s : State} (h : s.memCanonical) :
    (s.arrwaitAt loc m d).Canonical := by
  unfold State.arrwaitAt
  dsimp only
  split
  next _ t1 heq =>
    have ht1 : t1.memCanonical := canonical_fst heq h.arriveAt
    exact ht1
  next _ t1 _ _ heq =>
    have ht1 : t1.memCanonical := canonical_fst heq h.arriveAt
    exact ht1.waitToken

theorem State.memCanonical.execArrwait {d a b} {s : State} (h : s.memCanonical) :
    CanonicalOutcome (execArrwait d a b s) := by
  unfold Machine.execArrwait
  dsimp only
  refine State.memCanonical.issue h ?_
  intro _ h2
  split
  · exact h2
  · exact h2.resumeWait
  · exact h2.raisePending (fun _ h7 => h7.released (fun _ h10 => h10.barrierOp (fun _ _ h13 => h13.arrwaitAt)))

theorem State.memCanonical.execPark {d b} {s : State} (h : s.memCanonical) :
    CanonicalOutcome (execPark d b s) := by
  unfold Machine.execPark
  dsimp only
  refine State.memCanonical.issue h ?_
  intro _ h2
  split
  · split
    · exact h2.unpark.putStatus
    · split
      · exact h2.unpark.putStatus
      · exact h2
  · split
    · exact h2.setCur.putStatus
    · split
      · exact h2.putStatus
      · exact h2.parkOn

theorem State.memCanonical.execWake {a} {s : State} (h : s.memCanonical) :
    CanonicalOutcome (execWake a s) := by
  unfold Machine.execWake
  dsimp only
  refine State.memCanonical.issue h ?_
  intro _ h2
  split
  · exact h2
  · exact h2.released (fun _ h7 => h7.mapTeams)

theorem State.memCanonical.passDeadline {d} {s : State} (h : s.memCanonical) :
    (s.passDeadline d).memCanonical := by
  unfold State.passDeadline
  split
  · exact h.waitUntil
  · exact h

theorem State.memCanonical.execBwaitTimeout {team} {s : State} (h : s.memCanonical) :
    CanonicalOutcome (execBwaitTimeout team s) := by
  unfold Machine.execBwaitTimeout
  show State.memCanonical _
  split
  · exact h.passDeadline.modTeam
  · exact h

theorem State.memCanonical.execParkTimeout {team} {s : State} (h : s.memCanonical) :
    CanonicalOutcome (execParkTimeout team s) := by
  unfold Machine.execParkTimeout
  show State.memCanonical _
  split
  · exact h.passDeadline.modTeam
  · exact h

/-! ## Engine: what the functions of `Machine/Engine` leave of the form -/

theorem State.memCanonical.execFork {d a b} {s : State} (h : s.memCanonical) :
    CanonicalOutcome (execFork d a b s) := by
  unfold Machine.execFork
  dsimp only
  refine State.memCanonical.issue h ?_
  intro _ h2
  split
  · exact h2
  · exact h2.takeSeq

theorem State.memCanonical.execRdv {d a} {s : State} (h : s.memCanonical) :
    CanonicalOutcome (execRdv d a s) := by
  unfold Machine.execRdv
  dsimp only
  refine State.memCanonical.issue h ?_
  intro _ h2
  split
  · exact h2.parkOn
  · exact h2.unpark.frame.putStatus

theorem State.memCanonical.execSpindleProgramStart {core eng} {s : State} (h : s.memCanonical) :
    CanonicalOutcome (execSpindleProgramStart core eng s) := by
  unfold Machine.execSpindleProgramStart
  dsimp only
  show State.memCanonical _
  split
  · exact h
  · split
    · exact h
    · split
      · exact h.modProg
      · exact h

theorem State.memCanonical.dropOpen {u} {s : State} (h : s.memCanonical) :
    (s.dropOpen u).memCanonical :=
  h

theorem State.memCanonical.execSpindleProgramEnd {core eng} {s : State} (h : s.memCanonical) :
    CanonicalOutcome (execSpindleProgramEnd core eng s) := by
  unfold Machine.execSpindleProgramEnd
  dsimp only
  show State.memCanonical _
  split
  · split
    · exact h.modProg.modWg.dropOpen
    · exact h
  · exact h

theorem State.memCanonical.issueCopy {size adds a b} {s : State} (h : s.memCanonical) :
    CanonicalOutcome (issueCopy size adds a b s) :=
  h.issue (fun _ h2 => h2.takeSeq.draw)

theorem State.memCanonical.execCpy4 {a b} {s : State} (h : s.memCanonical) :
    CanonicalOutcome (execCpy4 a b s) :=
  h.issueCopy

theorem State.memCanonical.execCpy8 {a b} {s : State} (h : s.memCanonical) :
    CanonicalOutcome (execCpy8 a b s) :=
  h.issueCopy

theorem State.memCanonical.execCpy16 {a b} {s : State} (h : s.memCanonical) :
    CanonicalOutcome (execCpy16 a b s) :=
  h.issueCopy

theorem State.memCanonical.execCra4 {a b} {s : State} (h : s.memCanonical) :
    CanonicalOutcome (execCra4 a b s) :=
  h.issueCopy

theorem State.memCanonical.execCra8 {a b} {s : State} (h : s.memCanonical) :
    CanonicalOutcome (execCra8 a b s) :=
  h.issueCopy

theorem State.memCanonical.execCra16 {a b} {s : State} (h : s.memCanonical) :
    CanonicalOutcome (execCra16 a b s) :=
  h.issueCopy

theorem State.memCanonical.failCopy {core seq} {s : State} (h : s.memCanonical) :
    (s.failCopy core seq).memCanonical :=
  h.modCopy.releaseIdle

theorem State.memCanonical.translateEnd {ctx va need space loc} {s : State} (h : s.memCanonical) :
    (s.translateEnd ctx va need space loc).1.memCanonical := by
  unfold State.translateEnd
  split
  · exact h
  · exact h.translate

theorem State.memCanonical.translateCopy {xs} {s : State} (h : s.memCanonical) :
    (s.translateCopy xs).1.memCanonical := by
  unfold State.translateCopy
  dsimp only
  refine canonical_foldl_fst h ?_
  intro _ _ h2
  dsimp only
  split
  · exact h2.translateEnd.translateEnd.modXfer
  · exact h2.translateEnd.translateEnd

theorem State.memCanonical.resolveCopy {core seq} {s : State} (h : s.memCanonical) :
    (s.resolveCopy core seq).memCanonical := by
  unfold State.resolveCopy
  dsimp only
  split
  · exact h.translateCopy.failCopy
  · split
    · exact h.translateCopy
    · split
      · exact h.translateCopy.modCopy
      · split
        · split
          · exact ((h.foldl (fun _ _ h16 => h16.askPage)).modCopy).modProg
          · exact (h.foldl (fun _ _ h14 => h14.askPage)).modCopy
        · exact (h.foldl (fun _ _ h12 => h12.askPage)).modCopy

theorem State.memCanonical.fetchRemote {x} {s : State} (h : s.memCanonical) :
    (s.fetchRemote x).memCanonical := by
  unfold State.fetchRemote
  dsimp only
  split
  · split
    · exact h.modXfer
    · split
      · exact h.request.modXfer
      · exact h.request.modXfer
  · split
    · exact h.modXfer
    · exact h.windowRequest.modXfer
  · exact h

theorem State.memCanonical.stageCopy {core seq} {s : State} (h : s.memCanonical) :
    (s.stageCopy core seq).memCanonical := by
  unfold State.stageCopy
  dsimp only
  refine State.memCanonical.foldl h ?_
  intro _ _ h2
  split
  · exact h2
  · split
    · exact h2.copyPoison
    · exact h2.recallCopies.modXfer

theorem State.memCanonical.holdLines {core seq} {s : State} (h : s.memCanonical) :
    (s.holdLines core seq).memCanonical := by
  unfold State.holdLines
  dsimp only
  refine State.memCanonical.foldl h ?_
  intro _ _ h2
  split
  · exact h2
  · split
    · exact h2.modXfer
    · split
      · exact h2
      · exact h2

theorem State.memCanonical.sendXfer {x} {s : State} (h : s.memCanonical) :
    (s.sendXfer x).memCanonical := by
  unfold State.sendXfer
  dsimp only
  split
  · split
    · exact h.modXfer
    · split
      · exact h.modXfer.windowRequest
      · exact h.modXfer.foldl (fun _ _ h8 => h8.sendStore)
  · split
    · exact h.modXfer
    · split
      · exact h.modXfer.windowRequest
      · exact h.modXfer.foldl (fun _ _ h8 => h8.sendStore)

theorem State.memCanonical.stepCopy {x} {s : State} (h : s.memCanonical) :
    (s.stepCopy x).memCanonical := by
  unfold State.stepCopy
  dsimp only
  split
  · exact h
  · split
    · exact h.resolveCopy
    · split
      · exact h
      · split
        · exact h.foldl (fun _ _ h10 => h10.snoopLine)
        · split
          · exact h.fetchRemote
          · split
            · exact h.stageCopy
            · split
              · exact h.holdLines
              · split
                · exact h.sendXfer
                · exact h.recallCopies

theorem State.memCanonical.execCopyTransfer {s : State} (h : s.memCanonical) :
    CanonicalOutcome (execCopyTransfer s) := by
  unfold Machine.execCopyTransfer
  show State.memCanonical _
  split
  · exact h.stepCopy
  · exact h

theorem State.memCanonical.execSemset {a b} {s : State} (h : s.memCanonical) :
    CanonicalOutcome (execSemset a b s) := by
  unfold Machine.execSemset
  refine State.memCanonical.issue h ?_
  intro _ h2
  split
  · exact h2
  · exact h2.released (fun _ h7 => h7.modWg)

theorem State.memCanonical.execSeminc {a b} {s : State} (h : s.memCanonical) :
    CanonicalOutcome (execSeminc a b s) := by
  unfold Machine.execSeminc
  refine State.memCanonical.issue h ?_
  intro _ h2
  split
  · exact h2
  · exact h2.released (fun _ h7 => h7.modWg)

theorem State.memCanonical.execSemacq {a b} {s : State} (h : s.memCanonical) :
    CanonicalOutcome (execSemacq a b s) := by
  unfold Machine.execSemacq
  dsimp only
  refine State.memCanonical.issue h ?_
  intro _ h2
  split
  · exact h2
  · split
    · split
      · exact h2
      · exact h2.unpark
    · split
      · exact h2.modWg
      · exact h2.takeSeq.modWg.parkOn

theorem State.memCanonical.execSemtry {d a b} {s : State} (h : s.memCanonical) :
    CanonicalOutcome (execSemtry d a b s) := by
  unfold Machine.execSemtry
  dsimp only
  refine State.memCanonical.issue h ?_
  intro _ h2
  split
  · exact h2
  · show State.memCanonical _
    refine State.memCanonical.setCur ?_
    split
    · exact h2.modWg
    · exact h2

theorem State.memCanonical.execClose {d a b} {s : State} (h : s.memCanonical) :
    CanonicalOutcome (execClose d a b s) := by
  unfold Machine.execClose
  dsimp only
  refine State.memCanonical.issue h ?_
  intro _ h2
  split
  · exact h2
  · split
    · exact h2.parkOn
    · split
      · split
        · split
          · split
            · split
              · exact h2.frame.setCur.windowRequest
              · exact Res.Canonical.withAsks h2.frame.setCur.windowRequest
            · dsimp only
              split
              · exact h2.frame.setCur.windowRequest
              · exact Res.Canonical.withAsks h2.frame.setCur.windowRequest
          · dsimp only
            split
            · split
              · exact h2.frame.windowRequest
              · exact Res.Canonical.withAsks h2.frame.windowRequest
            · dsimp only
              split
              · exact h2.frame.windowRequest
              · exact Res.Canonical.withAsks h2.frame.windowRequest
        · show State.memCanonical _
          split
          · exact h2.frame.setCur
          · exact h2.frame
      · split
        · split
          · split
            · split
              · exact h2.frame.setCur.windowRequest
              · exact Res.Canonical.withAsks h2.frame.setCur.windowRequest
            · dsimp only
              split
              · exact h2.frame.setCur.windowRequest
              · exact Res.Canonical.withAsks h2.frame.setCur.windowRequest
          · dsimp only
            split
            · split
              · exact h2.frame.windowRequest
              · exact Res.Canonical.withAsks h2.frame.windowRequest
            · dsimp only
              split
              · exact h2.frame.windowRequest
              · exact Res.Canonical.withAsks h2.frame.windowRequest
        · show State.memCanonical _
          split
          · exact h2.frame.setCur
          · exact h2.frame

theorem State.memCanonical.batchErr {team wg x} {s : State} (h : s.memCanonical) :
    (s.batchErr team wg x).memCanonical := by
  unfold State.batchErr
  dsimp only
  split
  · exact h.modTeam
  · exact h.modWg

theorem State.memCanonical.batchArrive {b} {s : State} (h : s.memCanonical) :
    (s.batchArrive b).memCanonical := by
  unfold State.batchArrive
  dsimp only
  split
  · split
    · split
      · exact h.batchErr
      · exact h.windowRequest
    · exact h
  · split
    next _ t3 heq3 =>
      have ht3 : t3.memCanonical := canonical_fst heq3 h.recallCopies.arriveAt
      exact ht3.batchErr
    next _ t3 heq3 =>
      have ht3 : t3.memCanonical := canonical_fst heq3 h.recallCopies.arriveAt
      exact ht3.batchErr
    next _ t3 heq3 =>
      have ht3 : t3.memCanonical := canonical_fst heq3 h.recallCopies.arriveAt
      exact ht3

theorem State.memCanonical.batchAction {b} {s : State} (h : s.memCanonical) :
    (s.batchAction b).memCanonical := by
  unfold State.batchAction
  split
  · exact h.modWg
  · split
    · exact h.batchArrive
    · exact h

theorem State.memCanonical.endBatch {b} {s : State} (h : s.memCanonical) :
    (s.endBatch b).memCanonical := by
  unfold State.endBatch
  dsimp only
  refine State.memCanonical.batchAction ?_
  split
  · exact h.frame.batchErr
  · exact h.frame

theorem State.memCanonical.execBatchCompletion {s : State} (h : s.memCanonical) :
    CanonicalOutcome (execBatchCompletion s) := by
  unfold Machine.execBatchCompletion
  show State.memCanonical _
  split
  · split
    · exact h.endBatch
    · exact h
  · exact h

theorem State.memCanonical.runWaitb {a} {s : State} (h : s.memCanonical) :
    (State.runWaitb a s).Canonical := by
  unfold State.runWaitb
  dsimp only
  split
  · exact h
  · split
    · show State.memCanonical _
      split
      · exact h
      · exact h.setCur
    · split
      · exact h.unpark
      · split
        · exact h.parkOn
        · exact h.unpark

theorem State.memCanonical.execWaitb {a} {s : State} (h : s.memCanonical) :
    CanonicalOutcome (execWaitb a s) :=
  h.issue (fun _ h2 => h2.runWaitb)

/-! ## Matrix: what the functions of `Machine/Matrix` leave of the form -/

theorem State.memCanonical.setTile {core tile x} {s : State} (h : s.memCanonical) :
    (s.setTile core tile x).memCanonical :=
  h

theorem State.memCanonical.setTilePoison {core tile x} {s : State} (h : s.memCanonical) :
    (s.setTilePoison core tile x).memCanonical :=
  h

theorem State.memCanonical.zeroTile {core tile} {s : State} (h : s.memCanonical) :
    (s.zeroTile core tile).memCanonical :=
  h.setTile.setTilePoison

theorem State.memCanonical.claimTiles {tiles} {s : State} (h : s.memCanonical) :
    (s.claimTiles tiles).memCanonical := by
  unfold State.claimTiles
  refine State.memCanonical.foldl h ?_
  intro _ _ h2
  split
  · exact h2
  · exact h2.zeroTile.modWg

theorem State.memCanonical.setQueue {core q} {s : State} (h : s.memCanonical) :
    (s.setQueue core q).memCanonical :=
  h

theorem State.memCanonical.enqueue {kind tile flag} {s : State} (h : s.memCanonical) :
    (s.enqueue kind tile flag).Canonical := by
  unfold State.enqueue
  dsimp only
  split
  · exact h.parkOn
  · exact h.unpark.takeSeq.setQueue

theorem State.memCanonical.execObres {d a} {s : State} (h : s.memCanonical) :
    CanonicalOutcome (execObres d a s) := by
  unfold Machine.execObres
  dsimp only
  refine State.memCanonical.issue h ?_
  intro _ h2
  split
  · exact h2
  · split
    · exact h2.parkOn
    · split
      · exact h2.unpark.putStatus
      · split
        · exact h2.parkOn
        · exact h2.unpark.frame.modWg.putStatus

theorem State.memCanonical.execObfree {a} {s : State} (h : s.memCanonical) :
    CanonicalOutcome (execObfree a s) := by
  unfold Machine.execObfree
  dsimp only
  refine State.memCanonical.issue h ?_
  intro _ h2
  split
  · exact h2
  · exact h2.frame

theorem State.memCanonical.execMzero {d} {s : State} (h : s.memCanonical) :
    CanonicalOutcome (execMzero d s) := by
  unfold Machine.execMzero
  dsimp only
  refine State.memCanonical.issue h ?_
  intro _ h2
  split
  · exact h2
  · split
    next _ t6 heq6 =>
      have ht6 : t6.memCanonical := canonical_done heq6 h2.enqueue
      exact ht6.claimTiles
    · exact h2.enqueue

theorem State.memCanonical.execMma {d a b} {s : State} (h : s.memCanonical) :
    CanonicalOutcome (execMma d a b s) := by
  unfold Machine.execMma
  dsimp only
  refine State.memCanonical.issue h ?_
  intro _ h2
  split
  · exact h2
  · exact h2.enqueue

theorem State.memCanonical.execMmap {d a b} {s : State} (h : s.memCanonical) :
    CanonicalOutcome (execMmap d a b s) := by
  unfold Machine.execMmap
  dsimp only
  refine State.memCanonical.issue h ?_
  intro _ h2
  split
  · exact h2
  · exact h2.enqueue

theorem State.memCanonical.execLdacc {d a b} {s : State} (h : s.memCanonical) :
    CanonicalOutcome (execLdacc d a b s) := by
  unfold Machine.execLdacc
  dsimp only
  refine State.memCanonical.issue h ?_
  intro _ h2
  split
  · exact h2
  · split
    · exact h2.sites.parkOn
    · refine canonicalRes_getD h2.sites.farCheck ?_
      split
      · exact h2.sites.afterSites
      · split
        next _ t12 heq12 =>
          have ht12 : t12.memCanonical := canonical_done heq12 h2.sites.enqueue
          refine State.memCanonical.afterSites ?_
          show Memory.wf _ = true
          dsimp only
          split
          · exact ht12.dropDests
          · exact ht12
        · exact h2.sites.enqueue

theorem State.memCanonical.execStacc {d a b} {s : State} (h : s.memCanonical) :
    CanonicalOutcome (execStacc d a b s) := by
  unfold Machine.execStacc
  dsimp only
  refine State.memCanonical.issue h ?_
  intro _ h2
  split
  · exact h2
  · split
    next _ t6 heq6 =>
      have ht6 : t6.memCanonical := canonical_done heq6 h2.enqueue
      exact ht6.draw.claimTiles
    · exact h2.enqueue

theorem State.memCanonical.execMtrq {a b} {s : State} (h : s.memCanonical) :
    CanonicalOutcome (execMtrq a b s) := by
  unfold Machine.execMtrq
  dsimp only
  refine State.memCanonical.issue h ?_
  intro _ h2
  split
  · split
    · exact h2.enqueue
    · exact h2
  · exact h2

theorem canonical_pipeLater {x} (hx : x.1.memCanonical) :
    (pipeLater x).1.memCanonical := by
  unfold Machine.pipeLater
  split
  · exact hx
  · exact hx

theorem State.memCanonical.wantLine {who d ctx memSide loc} {s : State} (h : s.memCanonical) :
    (s.wantLine who d ctx memSide loc).memCanonical := by
  unfold State.wantLine
  split
  · exact h
  · exact h.request

theorem State.memCanonical.modOp {core seq f} {s : State} (h : s.memCanonical) :
    (s.modOp core seq f).memCanonical :=
  h.setQueue

theorem State.memCanonical.pipeLine {core m space loc n} {s : State} (h : s.memCanonical) :
    (s.pipeLine core m space loc n).1.memCanonical := by
  unfold State.pipeLine
  dsimp only
  split
  · exact h.recallCopies.fetchManaged
  · split
    · exact h.recallCopies
    · split
      · exact h.recallCopies.modOp
      · exact h.recallCopies.askPipe

theorem State.memCanonical.pipe {core m xs} {s : State} (h : s.memCanonical) :
    (State.pipe core m xs s).1.memCanonical := by
  induction xs generalizing s with
  | nil =>
    unfold State.pipe
    exact h
  | cons x xs ih =>
    unfold State.pipe
    split
    next _ t2 _ heq2 =>
      have ht2 : t2.memCanonical := canonical_fst heq2 h.beforeWalk.translate
      exact ht2
    next _ t2 _ _ heq2 =>
      have ht2 : t2.memCanonical := canonical_fst heq2 h.beforeWalk.translate
      split
      next _ t4 _ heq4 =>
        have ht4 : t4.memCanonical := canonical_fst heq4 (ih ht2)
        exact ht4
      next _ t4 _ heq4 =>
        have ht4 : t4.memCanonical := canonical_fst heq4 (ih ht2)
        exact ht4
      next _ t4 _ _ _ heq4 =>
        have ht4 : t4.memCanonical := canonical_fst heq4 (ih ht2)
        exact ht4
    next _ t2 _ _ heq2 =>
      have ht2 : t2.memCanonical := canonical_fst heq2 h.beforeWalk.translate
      split
      · exact canonical_pipeLater (ih ht2)
      · split
        · split
          · exact ih ht2
          · exact canonical_pipeLater (ih ht2.wantLine)
        · split
          · exact ht2
          · split
            · exact canonical_pipeLater (ih ht2.snoopLine)
            · split
              next _ t12 heq12 =>
                have ht12 : t12.memCanonical := canonical_fst heq12 ht2.pipeLine
                exact ih ht12
              next _ t12 heq12 =>
                have ht12 : t12.memCanonical := canonical_fst heq12 ht2.pipeLine
                exact canonical_pipeLater (ih ht12)

theorem State.memCanonical.pipeBuffer {core m xs} {s : State} (h : s.memCanonical) :
    (State.pipeBuffer core m xs s).1.memCanonical := by
  induction xs generalizing s with
  | nil =>
    unfold State.pipeBuffer
    exact h
  | cons x xs ih =>
    unfold State.pipeBuffer
    dsimp only
    split
    · exact h
    · split
      · exact h.recallCopies
      · exact ih h.recallCopies

theorem State.memCanonical.pipeRows {core m o k rows} {s : State} (h : s.memCanonical) :
    (s.pipeRows core m o k rows).1.memCanonical := by
  unfold State.pipeRows
  split
  next _ t1 heq =>
    have ht1 : t1.memCanonical := canonical_fst heq h.pipeBuffer
    split
    next _ t3 heq3 =>
      have ht3 : t3.memCanonical := canonical_fst heq3 ht1.pipe
      exact ht3.pipe
    · exact ht1.pipe
  · exact h.pipeBuffer

theorem State.memCanonical.dropOpWaits {o} {s : State} (h : s.memCanonical) :
    (s.dropOpWaits o).memCanonical :=
  h

theorem State.memCanonical.popOp {core o} {s : State} (h : s.memCanonical) :
    (s.popOp core o).memCanonical :=
  h.setQueue.dropOpWaits.dropSnaps

theorem State.memCanonical.setHead {core o} {s : State} (h : s.memCanonical) :
    (s.setHead core o).memCanonical :=
  h.setQueue

theorem State.memCanonical.failOp {core o x} {s : State} (h : s.memCanonical) :
    (s.failOp core o x).memCanonical := by
  unfold State.failOp
  dsimp only
  split
  · exact h.popOp.modWg.endProg
  · exact h.popOp.modWg.modTeam

theorem State.memCanonical.stopOp {core o ts} {s : State} (h : s.memCanonical) :
    (s.stopOp core o ts).memCanonical :=
  (h.foldl (fun _ _ h4 => h4.askPage)).modOp

theorem State.memCanonical.readAcc {core o team seq wd} {s : State} (h : s.memCanonical) :
    (s.readAcc core o team seq wd).memCanonical := by
  unfold State.readAcc
  dsimp only
  split
  · exact h.frame.popOp.modTeam
  · exact h.frame.popOp

theorem State.memCanonical.writeAcc {core tile wd xs} {s : State} (h : s.memCanonical) :
    (s.writeAcc core tile wd xs).memCanonical := by
  unfold State.writeAcc
  dsimp only
  refine State.memCanonical.foldl h ?_
  intro _ _ h2
  split
  · exact h2.setTile.setTilePoison.setTile.setTilePoison
  · exact h2.setTile.setTilePoison

theorem State.memCanonical.runMtrq {core o a dst r} {s : State} (h : s.memCanonical) :
    (s.runMtrq core o a dst r).memCanonical := by
  unfold State.runMtrq
  dsimp only
  split
  next _ t1 heq =>
    have ht1 : t1.memCanonical := canonical_fst heq h.pipeRows
    split
    · exact ht1
    · exact ((ht1.foldl (fun _ _ h10 => h10.recallCopies)).foldl (fun _ _ h8 => h8.performIn)).popOp
  next _ t1 heq =>
    have ht1 : t1.memCanonical := canonical_fst heq h.pipeRows
    exact ht1
  next _ t1 _ heq =>
    have ht1 : t1.memCanonical := canonical_fst heq h.pipeRows
    exact ht1.stopOp
  next _ t1 _ heq =>
    have ht1 : t1.memCanonical := canonical_fst heq h.pipeRows
    exact ht1.failOp

theorem State.memCanonical.countMmap {core o} {s : State} (h : s.memCanonical) :
    (s.countMmap core o).memCanonical := by
  unfold State.countMmap
  dsimp only
  split
  · exact h
  · exact h.setCore.setHead

theorem State.memCanonical.failPair {core o x} {s : State} (h : s.memCanonical) :
    (s.failPair core o x).memCanonical := by
  unfold State.failPair
  split
  · exact h.failOp.failOp
  · exact h.failOp

theorem State.memCanonical.stopPair {core o ts} {s : State} (h : s.memCanonical) :
    (s.stopPair core o ts).memCanonical := by
  unfold State.stopPair
  dsimp only
  refine State.memCanonical.stopOp ?_
  split
  · exact h.modOp
  · exact h

theorem State.memCanonical.pairReady {core o} {s : State} (h : s.memCanonical) :
    (s.pairReady core o).memCanonical := by
  unfold State.pairReady
  dsimp only
  refine State.memCanonical.modOp ?_
  split
  · split
    · exact h.modOp
    · exact h
  · exact h

theorem State.memCanonical.prepareRows {core o a} {s : State} (h : s.memCanonical) :
    (s.prepareRows core o a).memCanonical := by
  unfold State.prepareRows
  split
  next _ t1 heq =>
    have ht1 : t1.memCanonical := canonical_fst heq h.pipeRows
    exact ht1.pairReady
  next _ t1 heq =>
    have ht1 : t1.memCanonical := canonical_fst heq h.pipeRows
    exact ht1
  next _ t1 _ heq =>
    have ht1 : t1.memCanonical := canonical_fst heq h.pipeRows
    exact ht1.stopPair
  next _ t1 _ heq =>
    have ht1 : t1.memCanonical := canonical_fst heq h.pipeRows
    exact ht1.failPair

theorem State.memCanonical.preparePair {core o a b} {s : State} (h : s.memCanonical) :
    (s.preparePair core o a b).memCanonical := by
  unfold State.preparePair
  dsimp only
  split
  · exact h.failPair
  · split
    · split
      next _ t5 heq5 =>
        have ht5 : t5.memCanonical := canonical_fst heq5 h.pipeRows
        exact ht5.modOp.prepareRows
      next _ t5 heq5 =>
        have ht5 : t5.memCanonical := canonical_fst heq5 h.pipeRows
        exact ht5
      next _ t5 _ heq5 =>
        have ht5 : t5.memCanonical := canonical_fst heq5 h.pipeRows
        exact ht5.stopPair
      next _ t5 _ heq5 =>
        have ht5 : t5.memCanonical := canonical_fst heq5 h.pipeRows
        exact ht5.failPair
    · exact h.prepareRows

theorem State.memCanonical.startOp {core o} {s : State} (h : s.memCanonical) :
    (s.startOp core o).memCanonical := by
  unfold State.startOp
  dsimp only
  split
  · exact h
  · split
    · exact (h.foldl (fun _ _ h8 => h8.zeroTile)).popOp
    · exact h.writeAcc.popOp
    · exact h.readAcc
    · exact h.runMtrq
    · split
      · exact h
      · split
        · exact h.failOp
        · split
          next _ t9 heq9 =>
            have ht9 : t9.memCanonical := canonical_fst heq9 h.pipeRows
            exact ht9.setHead
          next _ t9 heq9 =>
            have ht9 : t9.memCanonical := canonical_fst heq9 h.pipeRows
            exact ht9
          next _ t9 _ heq9 =>
            have ht9 : t9.memCanonical := canonical_fst heq9 h.pipeRows
            exact ht9.stopOp
          next _ t9 _ heq9 =>
            have ht9 : t9.memCanonical := canonical_fst heq9 h.pipeRows
            exact ht9.failOp
    · split
      · split
        · exact h.countMmap.failOp
        · split
          · exact h.countMmap
          · exact h.countMmap.preparePair
      · exact h.countMmap

theorem State.memCanonical.execEngineOperationStart {core} {s : State} (h : s.memCanonical) :
    CanonicalOutcome (execEngineOperationStart core s) := by
  unfold Machine.execEngineOperationStart
  show State.memCanonical _
  split
  · exact h.startOp
  · exact h

theorem State.memCanonical.addStrip {core o k as bs} {s : State} (h : s.memCanonical) :
    (s.addStrip core o k as bs).memCanonical := by
  unfold State.addStrip
  dsimp only
  refine State.memCanonical.foldl h ?_
  intro _ _ h2
  refine State.memCanonical.foldl h2 ?_
  intro _ _ h5
  split
  · exact h5.setTile.setTile
  · exact h5.setTile

theorem State.memCanonical.stripMismatch {core} {s : State} (h : s.memCanonical) :
    (s.stripMismatch core).memCanonical := by
  unfold State.stripMismatch
  split
  · split
    · exact (h.foldl (fun _ _ h8 => h8.setTilePoison)).failPair
    · exact h
  · exact h

theorem State.memCanonical.sumStrip {core o a bs} {s : State} (h : s.memCanonical) :
    (s.sumStrip core o a bs).memCanonical := by
  unfold State.sumStrip
  dsimp only
  split
  · exact h.addStrip.setHead
  · exact h.addStrip.popOp.modWg

theorem State.memCanonical.runStrip {core o} {s : State} (h : s.memCanonical) :
    (s.runStrip core o).memCanonical := by
  unfold State.runStrip
  split
  · exact h
  · split
    next _ t3 heq3 =>
      have ht3 : t3.memCanonical := canonical_fst heq3 h.pipeRows
      split
      · exact ht3.failPair
      · exact ht3.sumStrip
    next _ t3 heq3 =>
      have ht3 : t3.memCanonical := canonical_fst heq3 h.pipeRows
      exact ht3
    next _ t3 _ heq3 =>
      have ht3 : t3.memCanonical := canonical_fst heq3 h.pipeRows
      exact ht3.stopPair
    next _ t3 _ heq3 =>
      have ht3 : t3.memCanonical := canonical_fst heq3 h.pipeRows
      exact ht3.failPair

theorem State.memCanonical.runPairStrip {c0 o0 o1} {s : State} (h : s.memCanonical) :
    (s.runPairStrip c0 o0 o1).memCanonical := by
  unfold State.runPairStrip
  dsimp only
  split
  · split
    next _ t3 heq3 =>
      have ht3 : t3.memCanonical := canonical_fst heq3 h.pipeRows
      split
      next _ t5 heq5 =>
        have ht5 : t5.memCanonical := canonical_fst heq5 ht3.pipeRows
        split
        · exact ht5.failPair
        · split
          · exact ht5.failPair
          · exact ht5.sumStrip.sumStrip
      next _ t5 heq5 =>
        have ht5 : t5.memCanonical := canonical_fst heq5 ht3.pipeRows
        exact ht5
      next _ t5 _ heq5 =>
        have ht5 : t5.memCanonical := canonical_fst heq5 ht3.pipeRows
        exact ht5.stopPair
      next _ t5 _ heq5 =>
        have ht5 : t5.memCanonical := canonical_fst heq5 ht3.pipeRows
        exact ht5.failPair
    next _ t3 heq3 =>
      have ht3 : t3.memCanonical := canonical_fst heq3 h.pipeRows
      exact ht3
    next _ t3 _ heq3 =>
      have ht3 : t3.memCanonical := canonical_fst heq3 h.pipeRows
      exact ht3.stopPair
    next _ t3 _ heq3 =>
      have ht3 : t3.memCanonical := canonical_fst heq3 h.pipeRows
      exact ht3.failPair
  · exact h

theorem State.memCanonical.stripStep {core} {s : State} (h : s.memCanonical) :
    (s.stripStep core).memCanonical := by
  unfold State.stripStep
  dsimp only
  split
  · exact h
  · split
    · exact h
    · split
      · split
        · exact h
        · exact h.runStrip
      · split
        · split
          · exact h.runPairStrip
          · exact h
        · split
          · exact h.runStrip
          · exact h
      · exact h

theorem State.memCanonical.execMmaStrip {core} {s : State} (h : s.memCanonical) :
    CanonicalOutcome (execMmaStrip core s) :=
  h.stripStep

theorem State.memCanonical.startPair {core} {s : State} (h : s.memCanonical) :
    (s.startPair core).memCanonical := by
  unfold State.startPair
  dsimp only
  split
  · split
    · split
      · exact h.setHead.setHead
      · exact h
    · exact h
  · exact h

theorem State.memCanonical.execMmapStart {core} {s : State} (h : s.memCanonical) :
    CanonicalOutcome (execMmapStart core s) :=
  h.startPair

theorem State.memCanonical.execPairtmo {core} {s : State} (h : s.memCanonical) :
    CanonicalOutcome (execPairtmo core s) := by
  unfold Machine.execPairtmo
  show State.memCanonical _
  split
  · exact h.waitUntil.failPair
  · exact h

theorem State.memCanonical.killOp {core progs} {s : State} (h : s.memCanonical) :
    (s.killOp core progs).memCanonical := by
  unfold State.killOp
  dsimp only
  split
  · split
    · refine State.memCanonical.modWg ?_
      refine State.memCanonical.popOp ?_
      split
      · exact h.failOp
      · exact h
    · exact h
  · exact h

theorem State.memCanonical.killProgs {wg core eng} {s : State} (h : s.memCanonical) :
    (s.killProgs wg core eng).memCanonical := by
  unfold State.killProgs
  dsimp only
  refine State.memCanonical.foldl ((h.foldl (fun _ _ h6 => h6.modProg)).killOp) ?_
  intro _ _ h2
  refine State.memCanonical.modProg ?_
  refine State.memCanonical.endProg ?_
  split
  · exact h2.modWg
  · exact h2

theorem State.memCanonical.execEkill {a} {s : State} (h : s.memCanonical) :
    CanonicalOutcome (execEkill a s) :=
  h.issue (fun _ h2 => h2.killProgs)

/-! ## Cluster: what the functions of `Machine/Cluster` leave of the form -/

theorem State.memCanonical.focusTeam {u} {s : State} (h : s.memCanonical) :
    (s.focusTeam u).memCanonical := by
  unfold State.focusTeam
  split
  · exact h
  · split
    · exact h
    · exact h

theorem State.memCanonical.trapTeam {u x} {s : State} (h : s.memCanonical) :
    (s.trapTeam u x).memCanonical := by
  unfold State.trapTeam
  dsimp only
  split
  · exact h
  · exact h.focusTeam.setCur.trapHere

theorem State.memCanonical.endXch {d own size theirs} {s : State} (h : s.memCanonical) :
    (s.endXch d own size theirs).Canonical := by
  unfold State.endXch
  dsimp only
  split
  next _ t1 heq =>
    have ht1 : t1.memCanonical := canonical_stay heq h.unpark.writeLanes
    exact ht1.setCur
  · exact h.unpark.writeLanes

theorem State.memCanonical.runXch {d a b} {s : State} (h : s.memCanonical) :
    (State.runXch d a b s).Canonical := by
  unfold State.runXch
  dsimp only
  split
  · exact h.endXch
  · exact h
  · split
    · exact h.endXch
    · split
      · exact h.parkOn
      · exact h.modTeam.parkOn

theorem State.memCanonical.execXch {d a b} {s : State} (h : s.memCanonical) :
    CanonicalOutcome (execXch d a b s) :=
  h.issue (fun _ h2 => h2.runXch)

theorem State.memCanonical.execXchtmo {team} {s : State} (h : s.memCanonical) :
    CanonicalOutcome (execXchtmo team s) := by
  unfold Machine.execXchtmo
  show State.memCanonical _
  split
  · exact h.waitUntil.trapTeam
  · exact h

theorem State.memCanonical.execTclass {a b} {s : State} (h : s.memCanonical) :
    CanonicalOutcome (execTclass a b s) := by
  unfold Machine.execTclass
  dsimp only
  refine State.memCanonical.issue h ?_
  intro _ h2
  split
  · exact h2
  · exact h2.setCtx

theorem State.memCanonical.execTender {d a b} {s : State} (h : s.memCanonical) :
    CanonicalOutcome (execTender d a b s) := by
  unfold Machine.execTender
  dsimp only
  refine State.memCanonical.issue h ?_
  intro _ h2
  split
  · exact h2
  · refine State.memCanonical.released h2 ?_
    intro _ h7
    split
    · exact h7.putStatus
    · exact h7.takeSeq.frame.putStatus

/-! ## Launch: what the functions of `Machine/Launch` leave of the form -/

theorem State.memCanonical.distMiss {c access t page} {s : State} (h : s.memCanonical) :
    (s.distMiss c access t page).1.memCanonical := by
  unfold State.distMiss
  dsimp only
  split
  · exact h.setCtx
  · exact h.askPage

theorem State.memCanonical.distPart {c va n} {s : State} (h : s.memCanonical) :
    (s.distPart c va n).1.memCanonical := by
  unfold State.distPart
  split
  next _ t1 _ _ _ heq =>
    have ht1 : t1.memCanonical := canonical_fst heq h.beforeWalk.translate
    split
    · exact ht1
    · exact ht1.wantLine
  next _ t1 _ _ _ heq =>
    have ht1 : t1.memCanonical := canonical_fst heq h.beforeWalk.translate
    split
    · exact ht1
    · split
      · exact ht1.snoopLine
      · exact ht1.recallCopies
  next _ t1 _ heq =>
    have ht1 : t1.memCanonical := canonical_fst heq h.beforeWalk.translate
    exact ht1
  next _ t1 _ _ heq =>
    have ht1 : t1.memCanonical := canonical_fst heq h.beforeWalk.translate
    exact ht1.distMiss

theorem State.memCanonical.distRead {c n x n2} {s : State} (h : s.memCanonical) :
    (State.distRead c n x n2 s).1.memCanonical := by
  induction n generalizing s c x n2 with
  | zero =>
    unfold State.distRead
    exact h
  | succ n ih =>
    unfold State.distRead
    dsimp only
    split
    · exact h
    · split
      next _ t4 _ heq4 =>
        have ht4 : t4.memCanonical := canonical_fst heq4 h.distPart
        split
        next _ t6 _ heq6 =>
          have ht6 : t6.memCanonical := canonical_fst heq6 (ih ht4)
          exact ht6
        · exact ih ht4
      · exact h.distPart

theorem State.memCanonical.dist {c va n} {s : State} (h : s.memCanonical) :
    (s.dist c va n).1.memCanonical := by
  unfold State.dist
  split
  next _ t1 _ heq =>
    have ht1 : t1.memCanonical := canonical_fst heq h.distRead
    exact ht1.dropSnaps
  · exact h.distRead

theorem State.memCanonical.distWritable {c va} {s : State} (h : s.memCanonical) :
    (s.distWritable c va).1.memCanonical := by
  unfold State.distWritable
  split
  next _ t1 _ _ heq =>
    have ht1 : t1.memCanonical := canonical_fst heq h.beforeWalk.translate
    exact ht1
  next _ t1 _ heq =>
    have ht1 : t1.memCanonical := canonical_fst heq h.beforeWalk.translate
    exact ht1
  next _ t1 _ _ heq =>
    have ht1 : t1.memCanonical := canonical_fst heq h.beforeWalk.translate
    exact ht1.distMiss

theorem State.memCanonical.completeLaunch {l status} {s : State} (h : s.memCanonical) :
    (s.completeLaunch l status).memCanonical := by
  unfold State.completeLaunch
  dsimp only
  split
  · exact h.frame
  · exact h.frame.writeCtx

theorem State.memCanonical.takeRecord {c addr r child} {s : State} (h : s.memCanonical) :
    (s.takeRecord c addr r child).1.memCanonical := by
  unfold State.takeRecord
  dsimp only
  split
  next _ t1 heq =>
    have ht1 : t1.memCanonical := by
      refine canonical_fst heq ?_
      split
      · exact h
      · exact h.distWritable
    exact ht1
  next _ t1 heq =>
    have ht1 : t1.memCanonical := by
      refine canonical_fst heq ?_
      split
      · exact h
      · exact h.distWritable
    exact ht1.postFq
  next _ t1 _ heq =>
    have ht1 : t1.memCanonical := by
      refine canonical_fst heq ?_
      split
      · exact h
      · exact h.distWritable
    split
    · exact ht1.takeSeq.frame.completeLaunch
    · split
      · exact ht1.takeSeq.frame.completeLaunch
      · exact ht1.takeSeq.frame

theorem State.memCanonical.passSlot {c} {s : State} (h : s.memCanonical) :
    (s.passSlot c).memCanonical :=
  h.setCtx.writeCtx

theorem State.memCanonical.takeSlot {c} {s : State} (h : s.memCanonical) :
    (s.takeSlot c).memCanonical := by
  unfold State.takeSlot
  dsimp only
  split
  next _ t1 heq =>
    have ht1 : t1.memCanonical := canonical_fst heq h.dist
    exact ht1
  next _ t1 heq =>
    have ht1 : t1.memCanonical := canonical_fst heq h.dist
    exact ht1.postFq.passSlot
  next _ t1 _ heq =>
    have ht1 : t1.memCanonical := canonical_fst heq h.dist
    split
    next _ t3 heq3 =>
      have ht3 : t3.memCanonical := canonical_fst heq3 ht1.dist
      exact ht3
    next _ t3 heq3 =>
      have ht3 : t3.memCanonical := canonical_fst heq3 ht1.dist
      exact ht3.postFq.passSlot
    next _ t3 _ heq3 =>
      have ht3 : t3.memCanonical := canonical_fst heq3 ht1.dist
      split
      next _ t5 heq5 =>
        have ht5 : t5.memCanonical := canonical_fst heq5 ht3.takeRecord
        exact ht5.passSlot
      next _ t5 heq5 =>
        have ht5 : t5.memCanonical := canonical_fst heq5 ht3.takeRecord
        exact ht5

theorem State.memCanonical.tailStep {c} {s : State} (h : s.memCanonical) :
    (s.tailStep c).memCanonical := by
  unfold State.tailStep
  dsimp only
  split
  · exact h
  · split
    · split
      next _ t5 _ heq5 =>
        have ht5 : t5.memCanonical := canonical_fst heq5 h.dist
        exact ht5.setCtx
      next _ t5 heq5 =>
        have ht5 : t5.memCanonical := canonical_fst heq5 h.dist
        exact ht5
      next _ t5 heq5 =>
        have ht5 : t5.memCanonical := canonical_fst heq5 h.dist
        exact ht5.setCtx
    · split
      · split
        · exact h.setCtx
        · split
          · exact h
          · exact h.takeSlot
      · split
        · exact h
        · split
          next _ t9 heq9 =>
            have ht9 : t9.memCanonical := canonical_fst heq9 h.dist
            exact ht9
          next _ t9 heq9 =>
            have ht9 : t9.memCanonical := canonical_fst heq9 h.dist
            exact ht9.setCtx
          next _ t9 _ heq9 =>
            have ht9 : t9.memCanonical := canonical_fst heq9 h.dist
            split
            · exact ht9.setCtx.postFq
            · exact ht9.setCtx.setCtx

theorem State.memCanonical.execTailChange {s : State} (h : s.memCanonical) :
    CanonicalOutcome (execTailChange s) :=
  h.tailStep

theorem State.memCanonical.execChildLaunchTake {s : State} (h : s.memCanonical) :
    CanonicalOutcome (execChildLaunchTake s) := by
  unfold Machine.execChildLaunchTake
  dsimp only
  show State.memCanonical _
  split
  · exact h
  · split
    next _ t5 heq5 =>
      have ht5 : t5.memCanonical := canonical_fst heq5 h.dist
      exact ht5
    next _ t5 heq5 =>
      have ht5 : t5.memCanonical := canonical_fst heq5 h.dist
      exact ht5.postFq
    next _ t5 _ heq5 =>
      have ht5 : t5.memCanonical := canonical_fst heq5 h.dist
      split
      next _ t7 heq7 =>
        have ht7 : t7.memCanonical := canonical_fst heq7 ht5.takeRecord
        exact ht7
      next _ t7 heq7 =>
        have ht7 : t7.memCanonical := canonical_fst heq7 ht5.takeRecord
        exact ht7

theorem State.memCanonical.testDeps {c xs} {s : State} (h : s.memCanonical) :
    (State.testDeps c xs s).1.memCanonical := by
  induction xs generalizing s with
  | nil =>
    unfold State.testDeps
    exact h
  | cons x xs ih =>
    unfold State.testDeps
    dsimp only
    split
    next _ t2 heq2 =>
      have ht2 : t2.memCanonical := canonical_fst heq2 h.dist
      exact ht2
    next _ t2 heq2 =>
      have ht2 : t2.memCanonical := canonical_fst heq2 h.dist
      exact ih ht2
    next _ t2 _ heq2 =>
      have ht2 : t2.memCanonical := canonical_fst heq2 h.dist
      split
      · exact ht2
      · exact ih ht2

theorem State.memCanonical.openGate {l} {s : State} (h : s.memCanonical) :
    (s.openGate l).memCanonical := by
  unfold State.openGate
  dsimp only
  split
  · exact h.modLaunch
  · split
    next _ t3 heq3 =>
      have ht3 : t3.memCanonical := canonical_fst heq3 h.dist
      exact ht3
    next _ t3 heq3 =>
      have ht3 : t3.memCanonical := canonical_fst heq3 h.dist
      exact ht3.completeLaunch
    next _ t3 _ heq3 =>
      have ht3 : t3.memCanonical := canonical_fst heq3 h.dist
      split
      · exact ht3.completeLaunch
      · split
        · exact ht3.completeLaunch
        · exact ht3.modLaunch

theorem State.memCanonical.execGateOpen {s : State} (h : s.memCanonical) :
    CanonicalOutcome (execGateOpen s) := by
  unfold Machine.execGateOpen
  show State.memCanonical _
  split
  · exact h
  · split
    · exact h
    · split
      next _ t7 heq7 =>
        have ht7 : t7.memCanonical := canonical_fst heq7 h.testDeps
        exact ht7.openGate
      next _ t7 heq7 =>
        have ht7 : t7.memCanonical := canonical_fst heq7 h.testDeps
        exact ht7
      next _ t7 heq7 =>
        have ht7 : t7.memCanonical := canonical_fst heq7 h.testDeps
        exact ht7.completeLaunch
      next _ t7 heq7 =>
        have ht7 : t7.memCanonical := canonical_fst heq7 h.testDeps
        exact ht7.completeLaunch

theorem State.memCanonical.execEndLaunchBySystemSoftware {launch} {s : State} (h : s.memCanonical) :
    CanonicalOutcome (execEndLaunchBySystemSoftware launch s) := by
  unfold Machine.execEndLaunchBySystemSoftware
  show State.memCanonical _
  split
  · split
    · exact h.completeLaunch
    · exact h
  · exact h

theorem State.memCanonical.execServiceEndWorkgroup {wg} {s : State} (h : s.memCanonical) :
    CanonicalOutcome (execServiceEndWorkgroup wg s) := by
  unfold Machine.execServiceEndWorkgroup
  show State.memCanonical _
  split
  · exact h.endWg
  · exact h

/-! ## Tender: what the functions of `Machine/Tender` leave of the form -/

theorem State.memCanonical.askPlace {a sub} {s : State} (h : s.memCanonical) :
    (s.askPlace a sub).memCanonical :=
  h.postFq

theorem State.memCanonical.announce {l wg purpose teams byHost} {s : State} (h : s.memCanonical) :
    (s.announce l wg purpose teams byHost).memCanonical := by
  unfold State.announce
  dsimp only
  split
  · exact h.frame.askPlace
  · exact h.frame

theorem State.memCanonical.modAnn {id f} {s : State} (h : s.memCanonical) :
    (s.modAnn id f).memCanonical :=
  h

theorem State.memCanonical.dropAnn {id} {s : State} (h : s.memCanonical) :
    (s.dropAnn id).memCanonical :=
  h

theorem State.memCanonical.sendHank {dst k} {s : State} (h : s.memCanonical) :
    (s.sendHank dst k).memCanonical := by
  unfold State.sendHank
  dsimp only
  split
  · exact h
  · exact h.sendTo

theorem State.memCanonical.hankMsg {dst ctx op tag key attempt member hank payload} {s : State} (h : s.memCanonical) :
    (s.hankMsg dst ctx op tag key attempt member hank payload).memCanonical :=
  h.sendHank

theorem State.memCanonical.sendReserves {l a} {s : State} (h : s.memCanonical) :
    (s.sendReserves l a).memCanonical :=
  h.foldl (fun _ _ h2 => h2.hankMsg)

theorem State.memCanonical.startAttempt {l} {s : State} (h : s.memCanonical) :
    (s.startAttempt l).memCanonical :=
  h.frame.sendReserves

theorem State.memCanonical.noteAward {core} {s : State} (h : s.memCanonical) :
    (s.noteAward core).memCanonical :=
  h.setCore

theorem State.memCanonical.answerReserve {ctx origin attempt key hank member result} {s : State} (h : s.memCanonical) :
    (s.answerReserve ctx origin attempt key hank member result).memCanonical :=
  h.hankMsg

theorem State.memCanonical.freeEvent {s : State} (h : s.memCanonical) :
    s.freeEvent.memCanonical :=
  h

theorem State.memCanonical.clearStore {kind id} {s : State} (h : s.memCanonical) :
    (s.clearStore kind id).memCanonical :=
  clearStore_wf s kind id h

theorem State.memCanonical.moveStore {kind a b} {s : State} (h : s.memCanonical) :
    (s.moveStore kind a b).memCanonical :=
  moveStore_wf s kind a b h

theorem State.memCanonical.claimCluster {core ctx} {s : State} (h : s.memCanonical) :
    (s.claimCluster core ctx).memCanonical := by
  unfold State.claimCluster
  dsimp only
  split
  · exact h
  · exact h.frame.foldl (fun _ _ h4 => h4.clearStore)

theorem State.memCanonical.moveBounds {n d} {s : State} (h : s.memCanonical) :
    (s.moveBounds n d).memCanonical :=
  h.setDie.takeDie

theorem State.memCanonical.claimChip {core ctx smin smax} {s : State} (h : s.memCanonical) :
    (s.claimChip core ctx smin smax).memCanonical := by
  unfold State.claimChip
  dsimp only
  split
  · exact h
  · split
    · exact h.moveBounds
    · exact h.clearStore.moveBounds

theorem State.memCanonical.joinHank {key hank m uid} {s : State} (h : s.memCanonical) :
    (s.joinHank key hank m uid).memCanonical :=
  h

theorem State.memCanonical.admitWg {l w core cls hank} {s : State} (h : s.memCanonical) :
    (s.admitWg l w core cls hank).memCanonical := by
  unfold State.admitWg
  dsimp only
  split
  · refine State.memCanonical.joinHank ?_
    show Memory.wf _ = true
    dsimp only
    refine State.memCanonical.setCtx ?_
    refine State.memCanonical.claimChip ?_
    split
    · exact h.claimCluster
    · exact h
  · show Memory.wf _ = true
    dsimp only
    refine State.memCanonical.setCtx ?_
    refine State.memCanonical.claimChip ?_
    split
    · exact h.claimCluster
    · exact h

/-! ## Coherence: what the functions of `Machine/Coherence` leave of the form -/

theorem State.memCanonical.dropReq {r} {s : State} (h : s.memCanonical) :
    (s.dropReq r).memCanonical :=
  h

theorem State.memCanonical.noteFar {xs} {s : State} (h : s.memCanonical) :
    (State.noteFar xs s).1.memCanonical := by
  induction xs generalizing s with
  | nil =>
    unfold State.noteFar
    exact h
  | cons x xs ih =>
    unfold State.noteFar
    exact ih h.noteStrong

theorem State.memCanonical.replyPeer {kind k line stamp} {s : State} (h : s.memCanonical) :
    (s.replyPeer kind k line stamp).memCanonical := by
  unfold State.replyPeer
  dsimp only
  refine State.memCanonical.ite ?_ ?_
  · refine State.memCanonical.sendTo ?_
    split
    · split
      · exact h.noteFar
      · exact h
    · split
      · exact h.noteFar
      · exact h
  · refine State.memCanonical.sendTo ?_
    split
    · split
      · exact h.noteFar
      · exact h
    · split
      · exact h.noteFar
      · exact h

theorem State.memCanonical.ackPeer {k misc} {s : State} (h : s.memCanonical) :
    (s.ackPeer k misc).memCanonical :=
  h.sendTo

theorem State.memCanonical.grantHold {agent line} {s : State} (h : s.memCanonical) :
    (s.grantHold agent line).memCanonical :=
  h

theorem State.memCanonical.ownedBy {t through} {s : State} (h : s.memCanonical) :
    (s.ownedBy t through).memCanonical := by
  unfold State.ownedBy
  dsimp only
  split
  · exact h.dropCopy.setDir
  · exact h.setCopy.setDir

theorem State.memCanonical.growDone {line} {s : State} (h : s.memCanonical) :
    (s.growDone line).memCanonical := by
  unfold State.growDone
  dsimp only
  split
  · exact h
  · exact h.takeWays

theorem State.memCanonical.bridgeFill {agent line dirty} {s : State} (h : s.memCanonical) :
    (s.bridgeFill agent line dirty).memCanonical := by
  unfold State.bridgeFill
  dsimp only
  split
  · split
    · exact h.setHostPort
    · exact h.setHostPort
  · exact h.dropCopy.setDir
  · exact h

theorem State.memCanonical.fillLoads {core line xs} {s : State} (h : s.memCanonical) :
    (State.fillLoads core line xs s).memCanonical := by
  induction xs generalizing s with
  | nil =>
    unfold State.fillLoads
    exact h
  | cons x xs ih =>
    unfold State.fillLoads
    refine ih ?_
    split
    · exact h.settleLoad
    · exact h

theorem State.memCanonical.fillStores {core line xs} {s : State} (h : s.memCanonical) :
    (State.fillStores core line xs s).memCanonical := by
  induction xs generalizing s with
  | nil =>
    unfold State.fillStores
    exact h
  | cons x xs ih =>
    unfold State.fillStores
    refine ih ?_
    split
    · exact h.performNow.dirtyLine
    · exact h

theorem State.memCanonical.filled {t} {s : State} (h : s.memCanonical) :
    (State.filled t s).memCanonical := by
  unfold State.filled
  dsimp only
  split
  · exact h.bridgeFill
  · split
    · exact h
    · split
      · exact h.fillLoads.fillStores
      · exact h.fillLoads

theorem State.memCanonical.dropped {agent line} {s : State} (h : s.memCanonical) :
    (s.dropped agent line).memCanonical := by
  unfold State.dropped
  dsimp only
  refine State.memCanonical.growDone ?_
  split
  · exact h.setDir.l2Leave
  · split
    · exact h.setDir
    · exact h

theorem State.memCanonical.granted {t} {s : State} (h : s.memCanonical) :
    (s.granted t).memCanonical :=
  h.setCopy.setDir.ite h.setCopy.setDir

theorem State.memCanonical.complete {t} {s : State} (h : s.memCanonical) :
    (s.complete t).memCanonical := by
  unfold State.complete
  dsimp only
  split
  · split
    · exact h.frame.releaseHold.growDone
    · show Memory.wf _ = true
      dsimp only
      exact h.frame.releaseHold
  · split
    · split
      · split
        · exact h.frame.granted.replyPeer
        · exact h.frame.granted
      · split
        · exact h.frame.setDir
        · exact h.frame
    · split
      · exact h.frame.granted
      · split
        · exact h.frame.setDir
        · exact h.frame
    · split
      · exact h.frame.setDir
      · split
        · exact h.frame.grantHold
        · exact h.frame.setCopy.setDir.grantHold
    · exact h.frame.dropped
    · exact h.frame
    · exact h.frame
    · exact h.frame
    · exact h.frame
    · split
      · split
        · refine State.memCanonical.replyPeer ?_
          refine State.memCanonical.ownedBy ?_
          split
          · exact h.frame
          · exact h.frame.perform
        · refine State.memCanonical.ownedBy ?_
          split
          · exact h.frame
          · exact h.frame.perform
      · refine State.memCanonical.setDir ?_
        split
        · exact h.frame
        · exact h.frame.perform

theorem State.memCanonical.finish {t} {s : State} (h : s.memCanonical) :
    (s.finish t).memCanonical :=
  h.complete.filled

theorem State.memCanonical.crossed {r asked} {s : State} (h : s.memCanonical) :
    (s.crossed r asked).memCanonical := by
  unfold State.crossed
  dsimp only
  split
  · exact h
  · refine State.memCanonical.foldl h ?_
    intro _ _ h4
    split
    · refine State.memCanonical.ackPeer ?_
      split
      · exact h4
      · exact h4.perform
    · refine State.memCanonical.ackPeer ?_
      split
      · exact h4
      · exact h4.perform
    · split
      · exact h4
      · exact h4.perform

theorem State.memCanonical.openTxn {r msgs} {s : State} (h : s.memCanonical) :
    (s.openTxn r msgs).memCanonical := by
  unfold State.openTxn
  dsimp only
  split
  · exact h.crossed.frame.finish
  · exact h.crossed.frame

theorem State.memCanonical.renewLease {r} {s : State} (h : s.memCanonical) :
    (s.renewLease r).memCanonical := by
  unfold State.renewLease
  dsimp only
  split
  · exact h.frame.setDir
  · exact h

theorem State.memCanonical.renewPeer {r} {s : State} (h : s.memCanonical) :
    (s.renewPeer r).memCanonical := by
  unfold State.renewPeer
  dsimp only
  split
  · exact h.renewLease
  · refine State.memCanonical.ackPeer ?_
    split
    · exact h.renewLease
    · exact h

theorem State.memCanonical.wroteLine {r} {s : State} (h : s.memCanonical) :
    (s.wroteLine r).memCanonical := by
  unfold State.wroteLine
  dsimp only
  split
  · refine State.memCanonical.ackPeer ?_
    refine State.memCanonical.setDir ?_
    refine State.memCanonical.dropCopy ?_
    split
    · exact h
    · exact h.perform
  · refine State.memCanonical.setDir ?_
    refine State.memCanonical.dropCopy ?_
    split
    · exact h
    · exact h.perform

theorem State.memCanonical.dropGiven {r} {s : State} (h : s.memCanonical) :
    (s.dropGiven r).memCanonical := by
  unfold State.dropGiven
  split
  · exact h.dropCopy
  · exact h

theorem State.memCanonical.perform1 {r} {s : State} (h : s.memCanonical) :
    (s.perform1 r).memCanonical := by
  unfold State.perform1
  dsimp only
  refine State.memCanonical.ite h.openTxn ?_
  split
  · exact h.openTxn
  · exact h.openTxn
  · exact h.openTxn
  · exact h.openTxn
  · exact h.openTxn
  · exact h.openTxn
  · exact h.dropGiven.setDir
  · exact h.wroteLine
  · exact h.setDir
  · exact h.setDir
  · exact h.renewPeer
  · exact h.openTxn
  · exact h.openTxn
  · exact h.openTxn
  · exact h.openTxn

theorem State.memCanonical.countRequest {line} {s : State} (h : s.memCanonical) :
    (s.countRequest line).memCanonical := by
  unfold State.countRequest
  dsimp only
  split
  · exact h
  · exact h.setDie

theorem State.memCanonical.serve {r} {s : State} (h : s.memCanonical) :
    (s.serve r).memCanonical := by
  unfold State.serve
  dsimp only
  split
  · exact h.l2Room
  · split
    · split
      · exact h.askDrop
      · exact h
    · refine State.memCanonical.perform1 ?_
      split
      · exact h.dropReq.countRequest.l2Touch
      · exact h.dropReq.countRequest

theorem State.memCanonical.serveReq {agent line kinds} {s : State} (h : s.memCanonical) :
    (s.serveReq agent line kinds).memCanonical := by
  unfold State.serveReq
  split
  · split
    · exact h.serve
    · exact h
  · exact h

theorem State.memCanonical.chipletWrite {agent line kind} {s : State} (h : s.memCanonical) :
    (s.chipletWrite agent line kind).memCanonical := by
  unfold State.chipletWrite
  dsimp only
  split
  · exact h
  · split
    · exact h.draw.dirtyManaged
    · split
      · exact h.draw.writeMem
      · split
        · exact h
        · split
          · exact h.perform.dirtyLine.draw
          · exact h.draw

theorem State.memCanonical.execGets {agent line} {s : State} (h : s.memCanonical) :
    CanonicalOutcome (execGets agent line s) := by
  unfold Machine.execGets
  show State.memCanonical _
  split
  · exact h.fetchManaged
  · refine State.memCanonical.serveReq ?_
    split
    · exact h.askShared
    · exact h

theorem State.memCanonical.execGetm {agent line} {s : State} (h : s.memCanonical) :
    CanonicalOutcome (execGetm agent line s) :=
  h.chipletWrite.serveReq

theorem State.memCanonical.execUpgrade {agent line} {s : State} (h : s.memCanonical) :
    CanonicalOutcome (execUpgrade agent line s) :=
  h.chipletWrite.serveReq

theorem State.memCanonical.execGeth {agent line} {s : State} (h : s.memCanonical) :
    CanonicalOutcome (execGeth agent line s) :=
  h.serveReq

theorem State.memCanonical.execWatch {agent line} {s : State} (h : s.memCanonical) :
    CanonicalOutcome (execWatch agent line s) := by
  unfold Machine.execWatch
  dsimp only
  show State.memCanonical _
  refine State.memCanonical.serveReq ?_
  split
  · exact h
  · exact h

theorem State.memCanonical.execRenewal {agent line} {s : State} (h : s.memCanonical) :
    CanonicalOutcome (execRenewal agent line s) := by
  unfold Machine.execRenewal
  show State.memCanonical _
  split
  · split
    · exact h.dropReq
    · split
      · exact h.serve
      · exact h
  · exact h

theorem State.memCanonical.execCleanEvictionNotice {agent line} {s : State} (h : s.memCanonical) :
    CanonicalOutcome (execCleanEvictionNotice agent line s) := by
  unfold Machine.execCleanEvictionNotice
  show State.memCanonical _
  split
  · exact h.serveReq
  · split
    · exact h.giveUp
    · exact h

theorem State.memCanonical.execWriteback {agent line} {s : State} (h : s.memCanonical) :
    CanonicalOutcome (execWriteback agent line s) := by
  unfold Machine.execWriteback
  show State.memCanonical _
  split
  · exact h.serveReq
  · split
    · exact h.giveUp
    · exact h

theorem State.memCanonical.setMsg {m ms} {s : State} (h : s.memCanonical) :
    (s.setMsg m ms).memCanonical :=
  h

theorem State.memCanonical.ackMsg {m} {s : State} (h : s.memCanonical) :
    (s.ackMsg m).memCanonical :=
  h.setMsg

theorem State.memCanonical.modTxn {line f} {s : State} (h : s.memCanonical) :
    (s.modTxn line f).memCanonical :=
  h

theorem State.memCanonical.coreInvalidated {core line} {s : State} (h : s.memCanonical) :
    (s.coreInvalidated core line).memCanonical := by
  unfold State.coreInvalidated
  dsimp only
  split
  · exact h.dropCopy
  · split
    · exact h.dropCopy.loseLine.rebind
    · refine State.memCanonical.rebind ?_
      refine State.memCanonical.modTxn ?_
      split
      · exact h.dropCopy.mapTeams
      · exact h.dropCopy

theorem State.memCanonical.sendInv {m op} {s : State} (h : s.memCanonical) :
    (s.sendInv m op).memCanonical :=
  h.sendTo.setMsg

theorem State.memCanonical.dropBridge {port line} {s : State} (h : s.memCanonical) :
    (s.dropBridge port line).memCanonical :=
  h.setHostPort.dropCopy

theorem State.memCanonical.modBridge {port line f} {s : State} (h : s.memCanonical) :
    (s.modBridge port line f).memCanonical :=
  h.setHostPort

theorem State.memCanonical.bridgeShared {port b} {s : State} (h : s.memCanonical) :
    (s.bridgeShared port b).memCanonical := by
  unfold State.bridgeShared
  dsimp only
  split
  · exact h.modBridge.setCopy.modTxn
  · exact h.modBridge.setCopy.modTxn

theorem State.memCanonical.bridgeMessage {m} {s : State} (h : s.memCanonical) :
    (s.bridgeMessage m).memCanonical := by
  unfold State.bridgeMessage
  dsimp only
  split
  · refine State.memCanonical.ackMsg ?_
    split
    · exact h.modTxn
    · exact h.dropCopy
  · refine State.memCanonical.ite h.modBridge.setMsg ?_
    split
    · exact h.bridgeShared.ackMsg
    · exact h.dropBridge.ackMsg

theorem State.memCanonical.execInvalidation {agent line} {s : State} (h : s.memCanonical) :
    CanonicalOutcome (execInvalidation agent line s) := by
  unfold Machine.execInvalidation
  show State.memCanonical _
  split
  · exact h
  · split
    · exact h.sendInv
    · split
      · exact h.bridgeMessage
      · split
        · exact h.coreInvalidated.ackMsg
        · exact h.dropCopy.ackMsg

theorem State.memCanonical.forwardRead {agent line} {s : State} (h : s.memCanonical) :
    (s.forwardRead agent line).memCanonical := by
  unfold State.forwardRead
  split
  · exact h.modTxn
  · split
    · exact h.setCopy.modTxn
    · exact h.setCopy.modTxn

theorem State.memCanonical.execForward {agent line} {s : State} (h : s.memCanonical) :
    CanonicalOutcome (execForward agent line s) := by
  unfold Machine.execForward
  dsimp only
  show State.memCanonical _
  split
  · exact h
  · split
    · exact h.modTxn.sendInv
    · split
      · exact h.bridgeMessage
      · split
        · exact h.forwardRead.ackMsg
        · split
          · refine State.memCanonical.ackMsg ?_
            refine State.memCanonical.coreInvalidated ?_
            split
            · exact h.modTxn
            · exact h
          · refine State.memCanonical.ackMsg ?_
            refine State.memCanonical.dropCopy ?_
            split
            · exact h.modTxn
            · exact h

theorem State.memCanonical.recallHold {m} {s : State} (h : s.memCanonical) :
    (s.recallHold m).memCanonical := by
  unfold State.recallHold
  dsimp only
  split
  · exact h.recallCopies.setMsg
  · exact h.recallCopies.ackMsg

theorem State.memCanonical.execRecall {agent line} {s : State} (h : s.memCanonical) :
    CanonicalOutcome (execRecall agent line s) := by
  unfold Machine.execRecall
  show State.memCanonical _
  split
  · split
    · exact h.sendInv
    · exact h.recallHold
  · exact h.recallHold
  · exact h.serveReq

theorem State.memCanonical.countAck {m} {s : State} (h : s.memCanonical) :
    (s.countAck m).memCanonical := by
  unfold State.countAck
  dsimp only
  split
  · exact h.setMsg
  · split
    · exact h.setMsg.modTxn.finish
    · exact h.setMsg.modTxn

theorem State.memCanonical.execAcknowledgement {agent line} {s : State} (h : s.memCanonical) :
    CanonicalOutcome (execAcknowledgement agent line s) := by
  unfold Machine.execAcknowledgement
  show State.memCanonical _
  split
  · exact h.countAck
  · exact h

theorem State.memCanonical.execChangeNotice {core line} {s : State} (h : s.memCanonical) :
    CanonicalOutcome (execChangeNotice core line s) := by
  unfold Machine.execChangeNotice
  show State.memCanonical _
  split
  · exact h
  · exact h.setMsg.mapTeams

theorem State.memCanonical.expireCopy {k} {s : State} (h : s.memCanonical) :
    (s.expireCopy k).memCanonical := by
  unfold State.expireCopy
  split
  · exact h.flushManaged.refetchBound
  · split
    · exact h.renewLease
    · split
      · split
        · exact h
        · exact h.dropBridge
      · split
        · exact h.dropCopy.loseLine.rebind
        · exact h.dropCopy

theorem State.memCanonical.fetchBound {peer line} {s : State} (h : s.memCanonical) :
    (s.fetchBound peer line).memCanonical := by
  unfold State.fetchBound
  split
  · split
    · exact h
    · exact h.request
  · exact h

theorem State.memCanonical.expireProxy {p} {s : State} (h : s.memCanonical) :
    (s.expireProxy p).memCanonical :=
  h.dropProxy.l2Leave.loseLines.fetchBound

theorem State.memCanonical.sweep {line} {s : State} (h : s.memCanonical) :
    (s.sweep line).memCanonical := by
  unfold State.sweep
  dsimp only
  split
  · exact h.setDir
  · exact h

theorem State.memCanonical.expire {s : State} (h : s.memCanonical) :
    s.expire.memCanonical :=
  ((h.foldl (fun _ _ h6 => h6.expireCopy)).foldl (fun _ _ h4 => h4.expireProxy)).foldl (fun _ _ h2 => h2.sweep)

theorem State.memCanonical.execLeaseExpiry {agent line} {s : State} (h : s.memCanonical) :
    CanonicalOutcome (execLeaseExpiry agent line s) := by
  unfold Machine.execLeaseExpiry
  show State.memCanonical _
  split
  · split
    · exact h.waitUnits.expire
    · exact h
  · split
    · exact h
    · exact h.waitUnits.expire

theorem State.memCanonical.execRenewalDue {agent line} {s : State} (h : s.memCanonical) :
    CanonicalOutcome (execRenewalDue agent line s) := by
  unfold Machine.execRenewalDue
  dsimp only
  show State.memCanonical _
  split
  · exact h
  · split
    · split
      · exact h
      · split
        · exact h
        · split
          · exact h.waitUnits.expire
          · exact h.waitUnits.expire.request
    · split
      · exact h
      · split
        · show Memory.wf _ = true
          dsimp only
          exact h.waitUnits.expire
        · exact h

theorem State.memCanonical.execLeaseSweep {line} {s : State} (h : s.memCanonical) :
    CanonicalOutcome (execLeaseSweep line s) :=
  h.sweep

theorem State.memCanonical.execDirectoryEntryUncorrectable {line} {s : State} (h : s.memCanonical) :
    CanonicalOutcome (execDirectoryEntryUncorrectable line s) :=
  h.recallCopies.frame.setDir.openTxn.foldl (fun _ _ h4 => h4.loseLine.rebind)

theorem State.memCanonical.moveBucket {die b slice} {s : State} (h : s.memCanonical) :
    (s.moveBucket die b slice).memCanonical :=
  h.setDie.foldl (fun _ _ h4 => h4.setDir.l2Leave)

theorem State.memCanonical.execRebalanceEpoch {die} {s : State} (h : s.memCanonical) :
    CanonicalOutcome (execRebalanceEpoch die s) := by
  unfold Machine.execRebalanceEpoch
  dsimp only
  show State.memCanonical _
  split
  · exact h
  · split
    · exact h.waitUntil.setDie.moveBucket
    · exact h.waitUntil.setDie

theorem State.memCanonical.execCarveEpoch {slice counts} {s : State} (h : s.memCanonical) :
    CanonicalOutcome (execCarveEpoch slice counts s) := by
  unfold Machine.execCarveEpoch
  dsimp only
  show State.memCanonical _
  split
  · exact h
  · split
    · split
      · exact h.waitUntil.setDie
      · exact h.waitUntil.setDie.takeWays
    · split
      · exact h.waitUntil.setDie
      · exact h.waitUntil.setDie

/-! ## Fetch: what the functions of `Machine/Fetch` leave of the form -/

theorem State.memCanonical.fetchWord {who core c va} {s : State} (h : s.memCanonical) :
    (s.fetchWord who core c va).1.memCanonical := by
  unfold State.fetchWord
  dsimp only
  split
  · exact h
  · split
    next _ t3 _ _ _ heq3 =>
      have ht3 : t3.memCanonical := canonical_fst heq3 h.beforeWalk.translate
      split
      · exact ht3
      · exact ht3.wantLine
    next _ t3 _ _ _ heq3 =>
      have ht3 : t3.memCanonical := canonical_fst heq3 h.beforeWalk.translate
      split
      · exact ht3
      · split
        · exact ht3.snoopLine
        · exact ht3.recallCopies
    next _ t3 _ heq3 =>
      have ht3 : t3.memCanonical := canonical_fst heq3 h.beforeWalk.translate
      exact ht3
    next _ t3 _ _ heq3 =>
      have ht3 : t3.memCanonical := canonical_fst heq3 h.beforeWalk.translate
      exact ht3

theorem State.memCanonical.fetchWords {who core c n x} {s : State} (h : s.memCanonical) :
    (State.fetchWords who core c n x s).1.memCanonical := by
  induction n generalizing s who core c x with
  | zero =>
    unfold State.fetchWords
    exact h
  | succ n ih =>
    unfold State.fetchWords
    split
    next _ t2 _ heq2 =>
      have ht2 : t2.memCanonical := canonical_fst heq2 h.fetchWord
      split
      next _ t4 _ heq4 =>
        have ht4 : t4.memCanonical := canonical_fst heq4 (ih ht2)
        exact ht4
      · exact ih ht2
    · exact h.fetchWord

theorem State.memCanonical.fetchClause {who core c pc} {s : State} (h : s.memCanonical) :
    (s.fetchClause who core c pc).1.memCanonical := by
  unfold State.fetchClause
  dsimp only
  split
  next _ t1 _ _ heq =>
    have ht1 : t1.memCanonical := canonical_fst heq h.fetchWords
    split
    · exact ht1
    · split
      next _ t5 _ heq5 =>
        have ht5 : t5.memCanonical := canonical_fst heq5 ht1.fetchWords
        exact ht5
      next _ t5 _ heq5 =>
        have ht5 : t5.memCanonical := canonical_fst heq5 ht1.fetchWords
        exact ht5
      next _ t5 _ _ heq5 =>
        have ht5 : t5.memCanonical := canonical_fst heq5 ht1.fetchWords
        exact ht5
      next _ t5 heq5 =>
        have ht5 : t5.memCanonical := canonical_fst heq5 ht1.fetchWords
        exact ht5
  next _ t1 heq =>
    have ht1 : t1.memCanonical := canonical_fst heq h.fetchWords
    exact ht1
  next _ t1 _ heq =>
    have ht1 : t1.memCanonical := canonical_fst heq h.fetchWords
    exact ht1
  next _ t1 _ _ heq =>
    have ht1 : t1.memCanonical := canonical_fst heq h.fetchWords
    exact ht1
  next _ t1 heq =>
    have ht1 : t1.memCanonical := canonical_fst heq h.fetchWords
    exact ht1

theorem State.memCanonical.boundaryTrap {x} {s : State} (h : s.memCanonical) :
    (s.boundaryTrap x).memCanonical := by
  unfold State.boundaryTrap
  split
  · exact h.setCur
  · exact h.takeTrap

theorem State.memCanonical.beginClause {c} {s : State} (h : s.memCanonical) :
    (s.beginClause c).memCanonical := by
  unfold State.beginClause
  dsimp only
  split
  · exact h.dropSnaps.setCur.observe
  · exact h.dropSnaps.setCur

theorem State.memCanonical.fetchMiss {t page} {s : State} (h : s.memCanonical) :
    (s.fetchMiss t page).memCanonical := by
  unfold State.fetchMiss
  dsimp only
  split
  · exact h.askPages.boundaryTrap
  · exact h.askPages.setCur

theorem State.memCanonical.startTeamClause {s : State} (h : s.memCanonical) :
    s.startTeamClause.memCanonical := by
  unfold State.startTeamClause
  dsimp only
  split
  · exact h.setCur.boundaryTrap
  · exact h.setCur.boundaryTrap
  · split
    next _ t3 heq3 =>
      have ht3 : t3.memCanonical := canonical_fst heq3 h.fetchClause
      exact ht3
    next _ t3 _ heq3 =>
      have ht3 : t3.memCanonical := canonical_fst heq3 h.fetchClause
      exact ht3.setCur.boundaryTrap
    next _ t3 _ _ heq3 =>
      have ht3 : t3.memCanonical := canonical_fst heq3 h.fetchClause
      exact ht3.fetchMiss
    next _ t3 _ heq3 =>
      have ht3 : t3.memCanonical := canonical_fst heq3 h.fetchClause
      split
      · exact ht3.setCur.boundaryTrap
      · split
        · exact ht3
        · split
          · exact ht3.askUnseen
          · exact ht3.beginClause

theorem State.memCanonical.startProgClause {p} {s : State} (h : s.memCanonical) :
    (s.startProgClause p).memCanonical := by
  unfold State.startProgClause
  dsimp only
  split
  next _ t1 heq =>
    have ht1 : t1.memCanonical := canonical_fst heq h.fetchClause
    exact ht1
  next _ t1 _ heq =>
    have ht1 : t1.memCanonical := canonical_fst heq h.fetchClause
    exact ht1.endProg
  next _ t1 _ _ heq =>
    have ht1 : t1.memCanonical := canonical_fst heq h.fetchClause
    exact ht1.askPage.modProg
  next _ t1 _ heq =>
    have ht1 : t1.memCanonical := canonical_fst heq h.fetchClause
    split
    · exact ht1
    · exact ht1.modProg

theorem State.memCanonical.execClauseStart {s : State} (h : s.memCanonical) :
    CanonicalOutcome (execClauseStart s) := by
  unfold Machine.execClauseStart
  show State.memCanonical _
  split
  · split
    · exact h.startTeamClause
    · exact h
  · split
    · split
      · exact h.startProgClause
      · exact h
    · exact h

/-! ## CoreEvents: what the functions of `Machine/CoreEvents` leave of the form -/

theorem State.memCanonical.setLoad {k l} {s : State} (h : s.memCanonical) :
    (s.setLoad k l).memCanonical :=
  h

theorem State.memCanonical.dropLoad {k} {s : State} (h : s.memCanonical) :
    (s.dropLoad k).memCanonical :=
  h

theorem State.memCanonical.returnWord {k w l} {s : State} (h : s.memCanonical) :
    (s.returnWord k w l).memCanonical := by
  unfold State.returnWord
  dsimp only
  split
  · refine State.memCanonical.deliverPair ?_
    split
    · exact h.dropLoad
    · exact h.setLoad
  · refine State.memCanonical.foldl ?_ (fun _ _ h4 => h4.deliver)
    split
    · exact h.dropLoad
    · exact h.setLoad

theorem State.memCanonical.performArrive {k m l} {s : State} (h : s.memCanonical) :
    (s.performArrive k m l).memCanonical := by
  unfold State.performArrive
  dsimp only
  split
  · exact h
  · refine State.memCanonical.foldl ?_ (fun _ _ h4 => h4.deliver)
    split
    · exact h.recallCopies.forceRange.arriveAt.dropLoad.modTeam
    · exact h.recallCopies.forceRange.arriveAt.dropLoad

theorem State.memCanonical.returnEngine {k w l value} {s : State} (h : s.memCanonical) :
    (s.returnEngine k w l value).memCanonical := by
  unfold State.returnEngine
  dsimp only
  split
  · exact h.returnWord
  · exact h.setLoad.returnWord
  · exact h.dropLoad

theorem State.memCanonical.returnLoad {k w l} {s : State} (h : s.memCanonical) :
    (s.returnLoad k w l).memCanonical := by
  unfold State.returnLoad
  dsimp only
  split
  · exact h.performArrive
  · split
    · exact h
    · split
      · exact h.prepareLoad
      · exact h.dropLoad.bindReturn
  · split
    · exact h
    · split
      · exact h.prepareLoad
      · exact h.dropLoad.boundReturn
  · split
    · exact h
    · exact h.returnWord
  · exact h.returnEngine
  · exact h.returnEngine
  · split
    · exact h.returnWord
    · split
      · exact h
      · split
        · exact h.prepareLoad
        · exact h.performLoad.setLoad.returnWord

theorem State.memCanonical.execLoadDataReturn {k w} {s : State} (h : s.memCanonical) :
    CanonicalOutcome (execLoadDataReturn k w s) := by
  unfold Machine.execLoadDataReturn
  show State.memCanonical _
  split
  · exact h.returnLoad
  · exact h

theorem State.memCanonical.drainCoherent {e} {s : State} (h : s.memCanonical) :
    (s.drainCoherent e).memCanonical := by
  unfold State.drainCoherent
  dsimp only
  split
  · split
    · exact h
    · exact h.performNow.atHomeSlice
  · split
    · exact h.performNow.dirtyLine
    · exact h.askExclusive

theorem State.memCanonical.drainEntry {e} {s : State} (h : s.memCanonical) :
    (s.drainEntry e).memCanonical := by
  unfold State.drainEntry
  dsimp only
  split
  · split
    · exact h.frame.foldl (fun _ _ h6 => h6.modTeam)
    · exact h.frame.sendStore
  · exact h.frame.sendStore
  · split
    · exact h.drainCoherent
    · split
      · exact h.snoopLine
      · exact h.performNow

theorem State.memCanonical.unholdEntry {i e} {s : State} (h : s.memCanonical) :
    (s.unholdEntry i e).memCanonical := by
  unfold State.unholdEntry
  dsimp only
  split
  · exact h.frame
  · exact h.frame.reachCore

theorem State.memCanonical.execStorePathDrain {s : State} (h : s.memCanonical) :
    CanonicalOutcome (execStorePathDrain s) := by
  unfold Machine.execStorePathDrain
  show State.memCanonical _
  split
  · exact h
  · split
    · split
      · exact h.unholdEntry
      · exact h
    · split
      · exact h
      · exact h.drainEntry

theorem State.memCanonical.countErrors {core row n} {s : State} (h : s.memCanonical) :
    (s.countErrors core row n).memCanonical :=
  h.setCore

theorem State.memCanonical.execRefreshSteal {core bank} {s : State} (h : s.memCanonical) :
    CanonicalOutcome (execRefreshSteal core bank s) := by
  unfold Machine.execRefreshSteal
  dsimp only
  show State.memCanonical _
  split
  · exact h
  · exact h.setCore.countErrors.draw

theorem State.memCanonical.teamCheck {u x} {s : State} (h : s.memCanonical) :
    (s.teamCheck u x).memCanonical := by
  unfold State.teamCheck
  split
  · exact h
  · split
    · exact h
    · split
      · exact h.modTeam
      · split
        · exact h.trapTeam
        · exact h.modTeam

theorem State.memCanonical.dropAgent {a} {s : State} (h : s.memCanonical) :
    (s.dropAgent a).memCanonical :=
  h.frame.foldl (fun _ _ h2 => h2.setDir)

theorem State.memCanonical.dropEngines {core} {s : State} (h : s.memCanonical) :
    (s.dropEngines core).memCanonical :=
  h.frame

theorem State.memCanonical.failCore {core} {s : State} (h : s.memCanonical) :
    (s.failCore core).memCanonical := by
  unfold State.failCore
  dsimp only
  split
  · exact h
  · exact ((((h.foldl (fun _ _ h12 => h12.endWg)).dropEngines).dropAgent).dropAgent).frame

theorem State.memCanonical.machineError {site} {s : State} (h : s.memCanonical) :
    (s.machineError site).memCanonical := by
  unfold State.machineError
  dsimp only
  split
  · exact h.modTeam
  · exact h.teamCheck
  · split
    · exact h.addPoison
    · exact h
  · split
    · split
      · exact h.dropCopy.loseLine.rebind
      · exact h
    · split
      · exact h.dropManaged.refetchBound
      · exact h
    · exact h
  · split
    · split
      · exact h.giveUp.addPoison.loseLine.rebind
      · exact h
    · split
      · exact h
      · exact h.flushManaged.addPoison.refetchBound
    · exact h
  · split
    · exact h.teamCheck
    · exact h
  · split
    · exact h.setTilePoison
    · exact h
  · exact h.stripMismatch
  · exact h.failCore
  · split
    · exact h.frame
    · exact h

theorem State.memCanonical.execMachineError {site} {s : State} (h : s.memCanonical) :
    CanonicalOutcome (execMachineError site s) :=
  h.machineError

theorem State.memCanonical.execCoreReEnable {core} {s : State} (h : s.memCanonical) :
    CanonicalOutcome (execCoreReEnable core s) := by
  unfold Machine.execCoreReEnable
  dsimp only
  show State.memCanonical _
  split
  · exact h.frame
  · exact h

theorem State.memCanonical.execLockstepMismatch {unit} {s : State} (h : s.memCanonical) :
    CanonicalOutcome (execLockstepMismatch unit s) := by
  unfold Machine.execLockstepMismatch
  dsimp only
  show State.memCanonical _
  split
  · split
    · exact h.endWg
    · exact h
  · refine State.memCanonical.foldl h ?_
    intro _ _ h6
    split
    · exact h6.dropAnn.modLaunch
    · exact h6.dropAnn.endWg
    · exact h6.dropAnn.answerReserve

theorem State.memCanonical.fillAssisted {c page} {s : State} (h : s.memCanonical) :
    (s.fillAssisted c page).memCanonical := by
  unfold State.fillAssisted
  dsimp only
  split
  · exact h.beforeWalk.dropTlb.fillTlb
  · exact h.beforeWalk.dropTlb

theorem State.memCanonical.progGoesOn {u} {s : State} (h : s.memCanonical) :
    (s.progGoesOn u).memCanonical := by
  unfold State.progGoesOn
  split
  · exact h
  · exact h.modProg

theorem State.memCanonical.tellParty {r ok p} {s : State} (h : s.memCanonical) :
    (s.tellParty r ok p).memCanonical := by
  unfold State.tellParty
  dsimp only
  split
  · exact h.modTeam
  · split
    · exact h.progGoesOn
    · exact h.endProg
  · split
    · exact h
    · split
      · refine State.memCanonical.progGoesOn ?_
        split
        · exact h.failCopy
        · exact h.modCopy
      · split
        · exact h.failCopy
        · exact h.modCopy
  · split
    · exact h
    · split
      · exact h
      · exact h.failPair
  · split
    · exact h
    · exact h.setCtx
  · exact h

theorem State.memCanonical.execPageResponse {k ok} {s : State} (h : s.memCanonical) :
    CanonicalOutcome (execPageResponse k ok s) := by
  unfold Machine.execPageResponse
  dsimp only
  show State.memCanonical _
  split
  · exact h
  · split
    · split
      · exact h
      · exact h.frame.foldl (fun _ _ h10 => h10.tellParty)
    · refine State.memCanonical.foldl ?_ (fun _ _ h8 => h8.tellParty)
      show Memory.wf _ = true
      dsimp only
      split
      · exact h.fillAssisted
      · exact h

theorem State.memCanonical.execAtsInvalidation {ctx va kind} {s : State} (h : s.memCanonical) :
    CanonicalOutcome (execAtsInvalidation ctx va kind s) := by
  unfold Machine.execAtsInvalidation
  show State.memCanonical _
  split
  · exact h.dropTlb.rewatch
  · exact h

theorem State.memCanonical.execHcallReply {team status} {s : State} (h : s.memCanonical) :
    CanonicalOutcome (execHcallReply team status s) := by
  unfold Machine.execHcallReply
  dsimp only
  show State.memCanonical _
  split
  · exact h
  · split
    · split
      · exact h.modTeam
      · split
        · exact h
        · exact h.setCtx.modTeam
    · exact h

/-! ## Regions: what the functions of `Machine/Regions` leave of the form -/

theorem State.memCanonical.mergeCopies {ks} {s : State} (h : s.memCanonical) :
    (s.mergeCopies ks).memCanonical :=
  h.foldl (fun _ _ h2 => h2.writeMem)

theorem State.memCanonical.clearLines {hit} {s : State} (h : s.memCanonical) :
    (s.clearLines hit).memCanonical :=
  h

theorem State.memCanonical.leaveL2 {hit} {s : State} (h : s.memCanonical) :
    (s.leaveL2 hit).memCanonical :=
  h

theorem State.memCanonical.rewriteLeaves {m ps} {s : State} (h : s.memCanonical) :
    (s.rewriteLeaves m ps).memCanonical :=
  ((h.foldl (fun _ _ h6 => h6.recallCopies.perform)).frame).mapTeams

theorem State.memCanonical.endSwitch {k result conflicts} {s : State} (h : s.memCanonical) :
    (s.endSwitch k result conflicts).memCanonical :=
  h

theorem State.memCanonical.switchBindings {m ps} {s : State} (h : s.memCanonical) :
    (s.switchBindings m ps).memCanonical := by
  unfold State.switchBindings
  dsimp only
  refine State.memCanonical.foldl h.mapTeams ?_
  intro _ _ h2
  split
  · exact h2
  · refine State.memCanonical.foldl h2 ?_
    intro _ _ h7
    split
    · exact h7.fetchManaged
    · exact h7.holdBound

theorem State.memCanonical.drainSwitch {k ps} {s : State} (h : s.memCanonical) :
    (s.drainSwitch k ps).memCanonical :=
  h.frame.foldl (fun _ _ h2 => h2.askDrop)

theorem State.memCanonical.runSwitch {k x} {s : State} (h : s.memCanonical) :
    (s.runSwitch k x).memCanonical := by
  unfold State.runSwitch
  dsimp only
  split
  · exact h.endSwitch
  · split
    · exact h.endSwitch
    · split
      · exact h.drainSwitch
      · refine State.memCanonical.endSwitch ?_
        refine State.memCanonical.switchBindings ?_
        refine State.memCanonical.rewriteLeaves ?_
        split
        · exact h.mergeCopies.clearLines.loseLines.leaveL2
        · exact h.mergeCopies.clearLines.loseLines

theorem State.memCanonical.execRegionSwitch {s : State} (h : s.memCanonical) :
    CanonicalOutcome (execRegionSwitch s) := by
  unfold Machine.execRegionSwitch
  show State.memCanonical _
  split
  · exact h
  · split
    · exact h
    · exact h.runSwitch

theorem State.memCanonical.queueSwitch {d base mode} {s : State} (h : s.memCanonical) :
    (s.queueSwitch d base mode).Canonical :=
  h.frame.putStatus

theorem State.memCanonical.execCrsw {d a b} {s : State} (h : s.memCanonical) :
    CanonicalOutcome (execCrsw d a b s) := by
  unfold Machine.execCrsw
  dsimp only
  refine State.memCanonical.issue h ?_
  intro _ h2
  split
  · exact h2
  · split
    · split
      · exact h2.unpark.queueSwitch
      · exact h2
    · split
      · exact h2.unpark.putStatus
      · split
        · exact h2.unpark.queueSwitch
        · exact h2.parkOn

theorem State.memCanonical.execCrwait {d a} {s : State} (h : s.memCanonical) :
    CanonicalOutcome (execCrwait d a s) := by
  unfold Machine.execCrwait
  refine State.memCanonical.issue h ?_
  intro _ h2
  split
  · exact h2
  · split
    · exact h2.unpark.putStatus
    · exact h2.parkOn

theorem State.memCanonical.setHandover {r h'} {s : State} (h : s.memCanonical) :
    (s.setHandover r h').memCanonical :=
  h

theorem State.memCanonical.settleRegion {r} {s : State} (h : s.memCanonical) :
    (s.settleRegion r).memCanonical := by
  unfold State.settleRegion
  dsimp only
  show Memory.wf _ = true
  dsimp only
  refine State.memCanonical.foldl ?_ ?_
  · refine State.memCanonical.foldl h ?_
    intro _ _ h6
    split
    · exact h6
    · exact h6.perform
  · intro _ _ h4
    split
    · exact h4
    · exact h4.perform

theorem State.memCanonical.dropPeerCopies {r} {s : State} (h : s.memCanonical) :
    (s.dropPeerCopies r).memCanonical :=
  h.foldl (fun _ _ h2 => h2.foldl (fun _ _ h5 => h5.sendTo))

theorem State.memCanonical.flushRegion {r} {s : State} (h : s.memCanonical) :
    (s.flushRegion r).memCanonical :=
  ((((((h.foldl (fun _ _ h14 => h14.recallCopies)).settleRegion).dropPeerCopies).clearLines).loseLines).leaveL2).mapTeams

theorem State.memCanonical.refetchRegion {r} {s : State} (h : s.memCanonical) :
    (s.refetchRegion r).memCanonical := by
  unfold State.refetchRegion
  dsimp only
  refine State.memCanonical.foldl h.clearLines.mapTeams ?_
  intro _ _ h2
  split
  · exact h2
  · exact h2.foldl (fun _ _ h7 => h7.holdBound)

theorem State.memCanonical.giveRegion {r} {s : State} (h : s.memCanonical) :
    (s.giveRegion r).memCanonical := by
  unfold State.giveRegion
  split
  · exact h.flushRegion.setHandover
  · exact h
  · exact h.setHandover

theorem State.memCanonical.takeRegions {xs} {s : State} (h : s.memCanonical) :
    (State.takeRegions xs s).1.memCanonical := by
  induction xs generalizing s with
  | nil =>
    unfold State.takeRegions
    exact h
  | cons x xs ih =>
    unfold State.takeRegions
    split
    · exact ih h
    · exact ih h.setHandover.refetchRegion
    · exact h

theorem State.memCanonical.passSites {c base n} {s : State} (h : s.memCanonical) :
    (State.passSites c base n s).1.memCanonical := by
  induction n generalizing s with
  | zero => exact h
  | succ n ih => exact canonical_of_eq (State.passSites.eq_2 c base s n) (ih h).beforeWalk.translate

theorem State.memCanonical.goPass {p} {s : State} (h : s.memCanonical) :
    (s.goPass p).memCanonical := by
  unfold State.goPass
  dsimp only
  show Memory.wf _ = true
  dsimp only
  split
  · exact h.takeRegions
  · exact h.foldl (fun _ _ h6 => h6.giveRegion)

theorem State.memCanonical.goPasses {who} {s : State} (h : s.memCanonical) :
    (s.goPasses who).memCanonical := by
  unfold State.goPasses
  refine State.memCanonical.foldl h ?_
  intro _ _ h2
  split
  · exact h2.goPass
  · exact h2

theorem State.memCanonical.passNow {take regions} {s : State} (h : s.memCanonical) :
    (s.passNow take regions).memCanonical := by
  unfold State.passNow
  dsimp only
  split
  · exact h.takeSeq.frame.goPass
  · exact h.takeSeq.frame

theorem State.memCanonical.runPass {take a b} {s : State} (h : s.memCanonical) :
    (State.runPass take a b s).Canonical := by
  unfold State.runPass
  dsimp only
  split
  · exact h
  · split
    · exact h.passSites.afterSites
    · split
      · exact h.passSites
      · exact h.passSites.released (fun _ h8 => h8.passNow)

theorem State.memCanonical.issuePass {take a b} {s : State} (h : s.memCanonical) :
    CanonicalOutcome (issuePass take a b s) :=
  h.issue (fun _ h2 => h2.runPass)

theorem State.memCanonical.execHandoff {a b} {s : State} (h : s.memCanonical) :
    CanonicalOutcome (execHandoff a b s) :=
  h.issuePass

theorem State.memCanonical.execTake {a b} {s : State} (h : s.memCanonical) :
    CanonicalOutcome (execTake a b s) :=
  h.issuePass

theorem State.memCanonical.execTakeResume {team} {s : State} (h : s.memCanonical) :
    CanonicalOutcome (execTakeResume team s) :=
  h.goPasses

theorem State.memCanonical.kickStep {port cmd act} {s : State} (h : s.memCanonical) (hact : ∀ t x1, t.memCanonical →
    (act t x1).memCanonical) :
    (s.kickStep port cmd act).memCanonical := by
  unfold State.kickStep
  dsimp only
  split
  · exact (hact _ _ h).setHostPort
  · exact h

theorem State.memCanonical.execKickRelease {port} {s : State} (h : s.memCanonical) :
    CanonicalOutcome (execKickRelease port s) := by
  unfold Machine.execKickRelease
  show State.memCanonical _
  refine State.memCanonical.kickStep h ?_
  intro _ _ h4
  split
  · exact h4.setHandover
  · exact h4

theorem State.memCanonical.execKickAcquire {port} {s : State} (h : s.memCanonical) :
    CanonicalOutcome (execKickAcquire port s) :=
  h.kickStep (fun _ _ h4 => h4.goPasses.giveRegion)

/-! ## Bridge: what the functions of `Machine/Bridge` leave of the form -/

theorem State.memCanonical.bridgeGone {port line} {s : State} (h : s.memCanonical) :
    (s.bridgeGone port line).memCanonical :=
  h.giveUp.dropBridge

theorem State.memCanonical.bridgeRoom {port} {s : State} (h : s.memCanonical) :
    (s.bridgeRoom port).memCanonical := by
  unfold State.bridgeRoom
  dsimp only
  split
  · exact h
  · split
    · exact h
    · split
      · exact h.modBridge
      · exact h.bridgeGone

theorem State.memCanonical.bridgeAsk {port line kind} {s : State} (h : s.memCanonical) :
    (s.bridgeAsk port line kind).memCanonical :=
  h

theorem State.memCanonical.answerHost {port addr bs} {s : State} (h : s.memCanonical) :
    (s.answerHost port addr bs).memCanonical :=
  h.setHostPort

theorem State.memCanonical.refuseHost {port addr read} {s : State} (h : s.memCanonical) :
    (s.refuseHost port addr read).memCanonical := by
  unfold State.refuseHost
  dsimp only
  split
  · exact h.setHostPort.answerHost
  · exact h.setHostPort

theorem State.memCanonical.serveHalf {port line half x} {s : State} (h : s.memCanonical) :
    (s.serveHalf port line half x).memCanonical :=
  h.modBridge.answerHost

theorem State.memCanonical.hostRead {port line half own} {s : State} (h : s.memCanonical) :
    (s.hostRead port line half own).memCanonical := by
  unfold State.hostRead
  dsimp only
  split
  · split
    · exact h.bridgeRoom
    · exact h.bridgeRoom.setHostPort.bridgeAsk
  · split
    · exact h
    · split
      · exact h.modBridge.bridgeAsk
      · split
        · exact h.serveHalf
        · split
          · exact h.serveHalf
          · exact h.modBridge.bridgeAsk

theorem State.memCanonical.inHostWindow {port line half read go} {s : State} (h : s.memCanonical) (hgo : ∀ t, t.memCanonical →
    (go t).memCanonical) :
    (s.inHostWindow port line half read go).memCanonical := by
  unfold State.inHostWindow
  dsimp only
  split
  · exact h
  · split
    · exact h.refuseHost
    · exact hgo _ h

theorem State.memCanonical.execHostReadShared {port line half} {s : State} (h : s.memCanonical) :
    CanonicalOutcome (execHostReadShared port line half s) :=
  h.inHostWindow (fun _ h4 => h4.hostRead)

theorem State.memCanonical.execHostReadOwnership {port line half} {s : State} (h : s.memCanonical) :
    CanonicalOutcome (execHostReadOwnership port line half s) :=
  h.inHostWindow (fun _ h4 => h4.hostRead)

theorem State.memCanonical.mergeHalf {port line half data} {s : State} (h : s.memCanonical) :
    (s.mergeHalf port line half data).memCanonical :=
  h.perform.modBridge

theorem State.memCanonical.execHostWriteback {port line half data keep} {s : State} (h : s.memCanonical) :
    CanonicalOutcome (execHostWriteback port line half data keep s) := by
  unfold Machine.execHostWriteback
  dsimp only
  show State.memCanonical _
  split
  · exact h.inHostWindow (fun _ h6 => h6)
  · split
    · exact h.mergeHalf.modBridge
    · exact h

theorem State.memCanonical.execHostDropClean {port line half} {s : State} (h : s.memCanonical) :
    CanonicalOutcome (execHostDropClean port line half s) := by
  unfold Machine.execHostDropClean
  show State.memCanonical _
  split
  · exact h
  · split
    · exact h.modBridge
    · exact h

theorem State.memCanonical.snoopDone {port b} {s : State} (h : s.memCanonical) :
    (s.snoopDone port b).memCanonical := by
  unfold State.snoopDone
  dsimp only
  split
  · refine State.memCanonical.ackMsg ?_
    split
    · exact h.bridgeShared
    · exact h.dropBridge
  · split
    · exact h.bridgeGone
    · split
      · exact h.bridgeShared
      · exact h.bridgeShared.setDir

theorem State.memCanonical.execBackInvalidateSnoopAnswer {port line half data} {s : State} (h : s.memCanonical) :
    CanonicalOutcome (execBackInvalidateSnoopAnswer port line half data s) := by
  unfold Machine.execBackInvalidateSnoopAnswer
  dsimp only
  show State.memCanonical _
  split
  · exact h
  · refine State.memCanonical.ite h ?_
    split
    · split
      · refine State.memCanonical.modBridge ?_
        split
        · split
          · exact h.mergeHalf
          · exact h
        · exact h
      · refine State.memCanonical.snoopDone ?_
        refine State.memCanonical.modBridge ?_
        split
        · split
          · exact h.mergeHalf
          · exact h
        · exact h
    · refine State.memCanonical.modBridge ?_
      split
      · split
        · exact h.mergeHalf
        · exact h
      · exact h

theorem State.memCanonical.hostLinkDown {port} {s : State} (h : s.memCanonical) :
    (s.hostLinkDown port).memCanonical :=
  h.frame.foldl (fun _ _ h2 => h2.snoopDone)

theorem State.memCanonical.execSnoopTimeout {port} {s : State} (h : s.memCanonical) :
    CanonicalOutcome (execSnoopTimeout port s) := by
  unfold Machine.execSnoopTimeout
  show State.memCanonical _
  split
  · exact h.hostLinkDown
  · exact h

theorem State.memCanonical.execHostPortLinkLoss {port} {s : State} (h : s.memCanonical) :
    CanonicalOutcome (execHostPortLinkLoss port s) := by
  unfold Machine.execHostPortLinkLoss
  show State.memCanonical _
  split
  · exact h.hostLinkDown
  · exact h

theorem State.memCanonical.homeWrite {cells} {s : State} (h : s.memCanonical) :
    (s.homeWrite cells).memCanonical :=
  (h.invalidateOthers.perform.foldl (fun _ _ h4 => h4.setDir)).rebindAll

theorem State.memCanonical.execHostUncachedAccess {port pa size wr} {s : State} (h : s.memCanonical) :
    CanonicalOutcome (execHostUncachedAccess port pa size wr s) := by
  unfold Machine.execHostUncachedAccess
  dsimp only
  show State.memCanonical _
  split
  · exact h
  · split
    · split
      · split
        · exact h.writePast
        · exact h.writeMem
      · split
        · exact h.draw.answerHost
        · exact h.answerHost
    · split
      · exact h
      · refine State.memCanonical.ite (h.foldl (fun _ _ h12 => h12.snoopLine)) ?_
        split
        · exact h.recallCopies.homeWrite
        · exact h.recallCopies.answerHost

/-! ## Service: what the functions of `Machine/Service` leave of the form -/

theorem State.memCanonical.clearPairing {c} {s : State} (h : s.memCanonical) :
    (s.clearPairing c).memCanonical :=
  h

theorem State.memCanonical.execContextDescriptorWrite {ctx off value service} {s : State} (h : s.memCanonical) :
    CanonicalOutcome (execContextDescriptorWrite ctx off value service s) := by
  unfold Machine.execContextDescriptorWrite
  dsimp only
  show State.memCanonical _
  split
  · exact h
  · split
    · exact h.setCtx
    · split
      · exact h
      · split
        · exact h
        · refine State.memCanonical.setCtx ?_
          split
          · exact h.clearPairing
          · exact h

theorem State.memCanonical.execLockInterface {ctx} {s : State} (h : s.memCanonical) :
    CanonicalOutcome (execLockInterface ctx s) := by
  unfold Machine.execLockInterface
  dsimp only
  show State.memCanonical _
  split
  · exact h
  · exact h.frame

theorem State.memCanonical.execRun {ctx} {s : State} (h : s.memCanonical) :
    CanonicalOutcome (execRun ctx s) := by
  unfold Machine.execRun
  dsimp only
  show State.memCanonical _
  split
  · exact h
  · exact h.clearPairing.setCtx

theorem State.memCanonical.execBucketTableWrite {die bucket value} {s : State} (h : s.memCanonical) :
    CanonicalOutcome (execBucketTableWrite die bucket value s) := by
  unfold Machine.execBucketTableWrite
  dsimp only
  show State.memCanonical _
  split
  · exact h.moveBucket
  · exact h

theorem State.memCanonical.execCoherentWindowWrite {port win off value} {s : State} (h : s.memCanonical) :
    CanonicalOutcome (execCoherentWindowWrite port win off value s) := by
  unfold Machine.execCoherentWindowWrite
  dsimp only
  show State.memCanonical _
  split
  · exact h
  · split
    · split
      · exact h.setHostPort
      · exact h.setHostPort
    · exact h.setHostPort
    · exact h

theorem State.memCanonical.kickWrite {port off v} {s : State} (h : s.memCanonical) :
    (s.kickWrite port off v).memCanonical := by
  unfold State.kickWrite
  dsimp only
  split
  · exact h.setHostPort
  · split
    · split
      · exact h.setHostPort
      · exact h
    · split
      · exact h.setHostPort
      · exact h.setHostPort
      · split
        · exact h.setHostPort
        · split
          · exact h.setHostPort
          · exact h.setHostPort
      · exact h

theorem State.memCanonical.execConfigWrite {off value service} {s : State} (h : s.memCanonical) :
    CanonicalOutcome (execConfigWrite off value service s) := by
  unfold Machine.execConfigWrite
  show State.memCanonical _
  split
  · exact h
  · split
    · split
      · exact h.kickWrite
      · exact h
    · split
      · exact h.modTeam
      · exact h

theorem State.memCanonical.execDirectoryDiagnosticRead {pa} {s : State} (h : s.memCanonical) :
    CanonicalOutcome (execDirectoryDiagnosticRead pa s) := by
  unfold Machine.execDirectoryDiagnosticRead
  dsimp only
  show State.memCanonical _
  split
  · exact h
  · exact h

theorem State.memCanonical.execPatrolScrub {pa found} {s : State} (h : s.memCanonical) :
    CanonicalOutcome (execPatrolScrub pa found s) := by
  unfold Machine.execPatrolScrub
  dsimp only
  show State.memCanonical _
  split
  · exact h
  · split
    · exact h
    · exact h
    · exact h.addPoison

theorem State.memCanonical.execClockThrottle {core up} {s : State} (h : s.memCanonical) :
    CanonicalOutcome (execClockThrottle core up s) := by
  unfold Machine.execClockThrottle
  dsimp only
  show State.memCanonical _
  split
  · exact h
  · exact h.setCore

theorem State.memCanonical.settleIssued {s : State} (h : s.memCanonical) :
    s.settleIssued.memCanonical := by
  unfold State.settleIssued
  dsimp only
  refine State.memCanonical.mergeCopies ?_
  refine State.memCanonical.foldl ?_ (fun _ _ h4 => h4.putXfer)
  refine State.memCanonical.foldl ?_ (fun _ _ h6 => h6.performEntry)
  refine State.memCanonical.foldl ?_ (fun _ _ h8 => h8.perform)
  refine State.memCanonical.foldl ?_ (fun _ _ h10 => h10.perform)
  refine State.memCanonical.foldl (h.foldl (fun _ _ h14 => h14.performLoad)) ?_
  intro _ _ h12
  split
  · exact h12.arriveAt
  · exact h12

theorem State.memCanonical.enterReset {s : State} (h : s.memCanonical) :
    s.enterReset.memCanonical :=
  enterReset_wf s h

theorem State.memCanonical.shutdown {s : State} (h : s.memCanonical) :
    s.shutdown.memCanonical :=
  (h.settleIssued.foldl (fun _ _ h4 => h4.completeLaunch)).enterReset

theorem State.memCanonical.execThermalShutdown {die} {s : State} (h : s.memCanonical) :
    CanonicalOutcome (execThermalShutdown die s) := by
  unfold Machine.execThermalShutdown
  show State.memCanonical _
  split
  · exact h.shutdown
  · exact h

theorem State.memCanonical.execDeviceReset {s : State} (h : s.memCanonical) :
    CanonicalOutcome (execDeviceReset s) := by
  unfold Machine.execDeviceReset
  dsimp only
  show State.memCanonical _
  split
  · exact h
  · split
    · exact h
    · exact h

theorem State.memCanonical.execHeaterStep {ring} {s : State} (h : s.memCanonical) :
    CanonicalOutcome (execHeaterStep ring s) := by
  unfold Machine.execHeaterStep
  dsimp only
  show State.memCanonical _
  split
  · exact h
  · exact h.draw

theorem State.memCanonical.execHeaterCodeWrite {ring code} {s : State} (h : s.memCanonical) :
    CanonicalOutcome (execHeaterCodeWrite ring code s) := by
  unfold Machine.execHeaterCodeWrite
  dsimp only
  show State.memCanonical _
  split
  · exact h
  · exact h

theorem State.memCanonical.execRingOutOfLock {channel wavelength} {s : State} (h : s.memCanonical) :
    CanonicalOutcome (execRingOutOfLock channel wavelength s) := by
  unfold Machine.execRingOutOfLock
  dsimp only
  show State.memCanonical _
  split
  · exact h
  · exact h.frame.shutdown.ite h.frame

theorem State.memCanonical.answerSpdm {request body} {s : State} (h : s.memCanonical) :
    (s.answerSpdm request body).memCanonical := by
  unfold State.answerSpdm
  dsimp only
  split
  · exact h.draw
  · exact h

theorem State.memCanonical.execGetVersion {s : State} (h : s.memCanonical) :
    CanonicalOutcome (execGetVersion s) :=
  h.answerSpdm

theorem State.memCanonical.execGetCapabilities {s : State} (h : s.memCanonical) :
    CanonicalOutcome (execGetCapabilities s) :=
  h.answerSpdm

theorem State.memCanonical.execNegotiateAlgorithms {s : State} (h : s.memCanonical) :
    CanonicalOutcome (execNegotiateAlgorithms s) :=
  h.answerSpdm

theorem State.memCanonical.execGetDigests {s : State} (h : s.memCanonical) :
    CanonicalOutcome (execGetDigests s) :=
  h.answerSpdm

theorem State.memCanonical.execGetCertificate {s : State} (h : s.memCanonical) :
    CanonicalOutcome (execGetCertificate s) :=
  h.answerSpdm

theorem State.memCanonical.execChallenge {s : State} (h : s.memCanonical) :
    CanonicalOutcome (execChallenge s) :=
  h.answerSpdm

theorem State.memCanonical.execGetMeasurements {s : State} (h : s.memCanonical) :
    CanonicalOutcome (execGetMeasurements s) :=
  h.answerSpdm

theorem State.memCanonical.execKeyExchange {s : State} (h : s.memCanonical) :
    CanonicalOutcome (execKeyExchange s) :=
  h.answerSpdm

theorem State.memCanonical.execFinish {s : State} (h : s.memCanonical) :
    CanonicalOutcome (execFinish s) :=
  h.answerSpdm

/-! ## Depart: what the functions of `Machine/Depart` leave of the form -/

theorem State.memCanonical.dropTxn {x} {s : State} (h : s.memCanonical) :
    (s.dropTxn x).memCanonical :=
  h

theorem State.memCanonical.failWaits {x t} {s : State} (h : s.memCanonical) :
    (s.failWaits x t).memCanonical :=
  h.frame.mapTeams

theorem State.memCanonical.failWant {want t} {s : State} (h : s.memCanonical) :
    (s.failWant want t).memCanonical := by
  unfold State.failWant
  split
  · exact h.modTeam
  · exact h.endProg
  · split
    · exact h.failPair
    · exact h
  · exact h

theorem State.memCanonical.dropXfers {which} {s : State} (h : s.memCanonical) :
    (s.dropXfers which).memCanonical :=
  h.frame.foldl (fun _ _ h2 => h2.releaseIdle)

theorem State.memCanonical.failWrite {w t} {s : State} (h : s.memCanonical) :
    (s.failWrite w t).memCanonical := by
  unfold State.failWrite
  dsimp only
  split
  · exact h.dropXfers
  · split
    · exact h.modTeam
    · split
      · exact h.endProg
      · exact h

theorem State.memCanonical.dropSent {tag} {s : State} (h : s.memCanonical) :
    (s.dropSent tag).memCanonical :=
  h.dropXfers

theorem State.memCanonical.goOn {tag} {s : State} (h : s.memCanonical) :
    (s.goOn tag).memCanonical :=
  h.mapTeams

theorem State.memCanonical.failTxn {x t} {s : State} (h : s.memCanonical) :
    (s.failTxn x t).memCanonical := by
  unfold State.failTxn
  dsimp only
  split
  · exact h.dropTxn.goOn
  · show Memory.wf _ = true
    dsimp only
    refine State.memCanonical.foldl ?_ ?_
    · split
      · refine State.memCanonical.batchErr ?_
        split
        · exact h.dropTxn.failWant.failWaits.dropSent
        · exact h.dropTxn.failWant.failWaits.foldl (fun _ _ h14 => h14.failWrite)
      · split
        · exact h.dropTxn.failWant.failWaits.dropSent
        · exact h.dropTxn.failWant.failWaits.foldl (fun _ _ h12 => h12.failWrite)
    · intro _ _ h6
      split
      · exact h6.copyPoison
      · exact h6.failCopy

theorem State.memCanonical.markDeparted {u m} {s : State} (h : s.memCanonical) :
    (s.markDeparted u m).memCanonical :=
  h.modWg

theorem State.memCanonical.cutLocal {w u m} {s : State} (h : s.memCanonical) :
    (s.cutLocal w u m).memCanonical := by
  unfold State.cutLocal
  dsimp only
  show Memory.wf _ = true
  dsimp only
  exact (State.memCanonical.foldl h (fun _ _ h1 => h1.performLoad.frame)).dropXfers

theorem State.memCanonical.departFor {m w} {s : State} (h : s.memCanonical) :
    (s.departFor m w).memCanonical := by
  unfold State.departFor
  dsimp only
  refine State.memCanonical.foldl ?_ (fun _ _ h2 => h2.failTxn)
  refine State.memCanonical.dropXfers ?_
  refine State.memCanonical.mapTeams ?_
  refine State.memCanonical.markDeparted ?_
  split
  · exact h.cutLocal
  · exact h

theorem State.memCanonical.departMember {key hank m} {s : State} (h : s.memCanonical) :
    (s.departMember key hank m).memCanonical :=
  h.foldl (fun _ _ h2 => h2.departFor)

theorem State.memCanonical.memberEnded {launch hank m status trap} {s : State} (h : s.memCanonical) :
    (s.memberEnded launch hank m status trap).memCanonical := by
  unfold State.memberEnded
  dsimp only
  split
  · exact h
  · exact h.frame.modLaunch

theorem State.memCanonical.lostPeer {dev} {s : State} (h : s.memCanonical) :
    (s.lostPeer dev).memCanonical :=
  (h.foldl (fun _ _ h4 => h4.departMember)).foldl (fun _ _ h2 => h2.memberEnded)

/-! ## Links: what the functions of `Machine/Links` leave of the form -/

theorem State.memCanonical.forwardTo {k} {s : State} (h : s.memCanonical) :
    (s.forwardTo k).memCanonical := by
  unfold State.forwardTo
  split
  · exact h.setPort
  · exact h

theorem State.memCanonical.sendAgain {ks} {s : State} (h : s.memCanonical) :
    (s.sendAgain ks).memCanonical := by
  unfold State.sendAgain
  refine State.memCanonical.foldl h ?_
  intro _ _ h2
  split
  · exact h2.sendTo
  · exact h2.forwardTo

theorem State.memCanonical.regroup {peer gone change} {s : State} (h : s.memCanonical) (hchange : ∀ t, t.memCanonical →
    (change t).memCanonical) :
    (s.regroup peer gone change).memCanonical :=
  ((hchange _ (h.foldl (fun _ _ h8 => h8.setPort))).foldl (fun _ _ h4 => h4.setPort)).sendAgain

theorem State.memCanonical.takePacket {n k} {s : State} (h : s.memCanonical) :
    CanonicalOption (s.takePacket n k) := by
  unfold State.takePacket
  dsimp only
  split
  · exact h.frame
  · split
    · exact h.frame
    · split
      · exact h.frame
      · split
        · split
          · exact trivial
          · exact h.frame
        · split
          · exact trivial
          · exact h.frame

theorem State.memCanonical.deliverAll {n xs xs2} {s : State} (h : s.memCanonical) :
    (State.deliverAll n xs xs2 s).1.memCanonical := by
  induction xs generalizing s n xs2 with
  | nil =>
    unfold State.deliverAll
    exact h
  | cons x xs ih =>
    unfold State.deliverAll
    dsimp only
    split
    · exact ih h
    · split
      next _ t4 heq4 =>
        have ht4 : t4.memCanonical := canonical_some heq4 h.takePacket
        exact ih ht4
      · exact ih h

theorem State.memCanonical.drainPort {n} {s : State} (h : s.memCanonical) :
    (s.drainPort n).memCanonical := by
  unfold State.drainPort
  dsimp only
  split
  · exact h
  · exact h.deliverAll.setPort

theorem State.memCanonical.openFences {peer} {s : State} (h : s.memCanonical) :
    (s.openFences peer).memCanonical := by
  unfold State.openFences
  dsimp only
  split
  · exact (h.foldl (fun _ _ h6 => h6.setPort)).foldl (fun _ _ h4 => h4.drainPort)
  · exact h

theorem State.memCanonical.linkLost {n} {s : State} (h : s.memCanonical) :
    (s.linkLost n).memCanonical := by
  unfold State.linkLost
  dsimp only
  split
  · exact h
  · split
    · exact h.setPort
    · split
      · exact ((((h.regroup (fun _ h16 => h16.setPort)).openFences).drainPort).draw).lostPeer
      · exact ((h.regroup (fun _ h12 => h12.setPort)).openFences).drainPort

theorem State.memCanonical.execLinkDown {port} {s : State} (h : s.memCanonical) :
    CanonicalOutcome (execLinkDown port s) :=
  h.linkLost

theorem State.memCanonical.execPortUp {port} {s : State} (h : s.memCanonical) :
    CanonicalOutcome (execPortUp port s) := by
  unfold Machine.execPortUp
  dsimp only
  show State.memCanonical _
  split
  · exact h
  · split
    · exact h.setPort
    · exact h.regroup (fun _ h8 => h8.setPort)

theorem State.memCanonical.noteRetry {n} {s : State} (h : s.memCanonical) :
    (s.noteRetry n).memCanonical := by
  unfold State.noteRetry
  dsimp only
  split
  · exact h.setPort.linkLost
  · exact h.setPort

theorem State.memCanonical.pumpPort {n} {s : State} (h : s.memCanonical) :
    (s.pumpPort n).memCanonical :=
  h.setPort

theorem State.memCanonical.receive {n f type go} {s : State} (h : s.memCanonical) (hgo : ∀ t, t.memCanonical → (go t).memCanonical) :
    (s.receive n f type go).memCanonical := by
  unfold State.receive
  dsimp only
  split
  · exact h
  · split
    · exact h.noteRetry
    · exact (hgo _ h.setPort).pumpPort

theorem State.memCanonical.execFlitData {port flit} {s : State} (h : s.memCanonical) :
    CanonicalOutcome (execFlitData port flit s) :=
  h.receive (fun _ h4 => h4.setPort.drainPort)

theorem State.memCanonical.execFlitIdle {port flit} {s : State} (h : s.memCanonical) :
    CanonicalOutcome (execFlitIdle port flit s) :=
  h.receive (fun _ h4 => h4)

theorem State.memCanonical.execFlitResync {port flit} {s : State} (h : s.memCanonical) :
    CanonicalOutcome (execFlitResync port flit s) :=
  h.receive (fun _ h4 => h4.setPort)

theorem State.memCanonical.execFlitRetryRequest {port flit} {s : State} (h : s.memCanonical) :
    CanonicalOutcome (execFlitRetryRequest port flit s) :=
  h.receive (fun _ h4 => h4.noteRetry)

theorem State.memCanonical.execGroupFence {port flit} {s : State} (h : s.memCanonical) :
    CanonicalOutcome (execGroupFence port flit s) := by
  unfold Machine.execGroupFence
  dsimp only
  show State.memCanonical _
  split
  · exact h
  · refine State.memCanonical.receive h ?_
    intro _ h6
    split
    · exact h6.setPort.openFences
    · exact h6.setPort

theorem State.memCanonical.execDetourRelay {s : State} (h : s.memCanonical) :
    CanonicalOutcome (execDetourRelay s) := by
  unfold Machine.execDetourRelay
  dsimp only
  show State.memCanonical _
  split
  · exact h
  · split
    · exact h
    · exact h.frame.forwardTo.drainPort

theorem State.memCanonical.execInvalidationResend {s : State} (h : s.memCanonical) :
    CanonicalOutcome (execInvalidationResend s) := by
  unfold Machine.execInvalidationResend
  show State.memCanonical _
  split
  · exact h
  · split
    · exact h.sendInv
    · exact h

theorem State.memCanonical.execTransactionTimeout {s : State} (h : s.memCanonical) :
    CanonicalOutcome (execTransactionTimeout s) := by
  unfold Machine.execTransactionTimeout
  show State.memCanonical _
  split
  · exact h
  · split
    · exact h
    · split
      · exact h.lostPeer
      · exact h.failTxn

/-! ## Peer: what the functions of `Machine/Peer` leave of the form -/

theorem State.memCanonical.onPacket {op go} {s : State} (h : s.memCanonical) (hgo : ∀ x0 t1, t1.memCanonical → CanonicalOption (go x0 t1)) :
    (s.onPacket op go).memCanonical := by
  unfold State.onPacket
  dsimp only
  split
  · exact h
  · split
    · exact h
    · exact canonical_getD (hgo _ _ h) h

theorem State.memCanonical.answer {k op misc bs} {s : State} (h : s.memCanonical) :
    (s.answer k op misc bs).memCanonical := by
  unfold State.answer
  dsimp only
  split
  · exact h
  · exact h.sendTo

theorem State.memCanonical.refuse {k} {s : State} (h : s.memCanonical) :
    (s.refuse k).memCanonical :=
  h.answer

theorem State.memCanonical.homeAsk {k kind cells} {s : State} (h : s.memCanonical) :
    (s.homeAsk k kind cells).memCanonical := by
  unfold State.homeAsk
  dsimp only
  split
  · exact h.refuse
  · exact h

theorem State.memCanonical.homeGive {k kind cells} {s : State} (h : s.memCanonical) :
    (s.homeGive k kind cells).memCanonical := by
  unfold State.homeGive
  dsimp only
  split
  · split
    · exact h
    · exact h.refuse
  · split
    · exact h.frame
    · exact h.frame.crossed

theorem State.memCanonical.execPktReadShared {s : State} (h : s.memCanonical) :
    CanonicalOutcome (execPktReadShared s) :=
  h.onPacket (fun _ _ h4 => h4.homeAsk)

theorem State.memCanonical.execPktReadExclusive {s : State} (h : s.memCanonical) :
    CanonicalOutcome (execPktReadExclusive s) :=
  h.onPacket (fun _ _ h4 => h4.homeAsk)

theorem State.memCanonical.execPktUpgrade {s : State} (h : s.memCanonical) :
    CanonicalOutcome (execPktUpgrade s) :=
  h.onPacket (fun _ _ h4 => h4.homeAsk)

theorem State.memCanonical.execPktWrite {s : State} (h : s.memCanonical) :
    CanonicalOutcome (execPktWrite s) := by
  unfold Machine.execPktWrite
  dsimp only
  show State.memCanonical _
  refine State.memCanonical.onPacket h ?_
  intro _ _ h4
  split
  · exact h4.refuse
  · split
    · exact h4.noteFar.homeWrite.answer
    · split
      · exact h4.writePast.answer
      · exact h4.homeAsk

theorem State.memCanonical.atHome {k shared go} {s : State} (h : s.memCanonical) (hgo : ∀ t, t.memCanonical → (go t).memCanonical) :
    CanonicalOption (s.atHome k shared go) := by
  unfold State.atHome
  dsimp only
  split
  · exact h.refuse
  · split
    · split
      · exact trivial
      · exact hgo _ h.recallCopies
    · split
      · exact trivial
      · exact hgo _ h.recallCopies

theorem State.memCanonical.snoopFor {op shared} {s : State} (h : s.memCanonical) :
    (s.snoopFor op shared).memCanonical := by
  unfold State.snoopFor
  split
  · split
    · exact h.snoopLine
    · exact h
  · exact h

theorem State.memCanonical.execPktUncachedRead {s : State} (h : s.memCanonical) :
    CanonicalOutcome (execPktUncachedRead s) := by
  unfold Machine.execPktUncachedRead
  dsimp only
  show State.memCanonical _
  refine State.memCanonical.onPacket h.snoopFor ?_
  intro _ _ h4
  refine State.memCanonical.atHome h4 ?_
  intro _ h7
  split
  · exact h7.answer
  · split
    · exact h7.noteFar.draw.answer
    · exact h7.noteFar.answer

theorem State.memCanonical.homeAtomic {k space loc put} {s : State} (h : s.memCanonical) (hput : ∀ t x1, t.memCanonical →
    (put t x1).memCanonical) :
    (s.homeAtomic k space loc put).1.memCanonical :=
  hput _ _ h

theorem State.memCanonical.farAtomic {k op data} {s : State} (h : s.memCanonical) :
    (s.farAtomic k op data).memCanonical := by
  unfold State.farAtomic
  dsimp only
  split
  · exact h.answer
  · refine State.memCanonical.answer ?_
    split
    · exact h.noteFar.homeAtomic (fun _ _ h8 => h8.writePast)
    · exact h.noteFar.homeAtomic (fun _ _ h8 => h8.homeWrite)

theorem State.memCanonical.execPktAtomic {s : State} (h : s.memCanonical) :
    CanonicalOutcome (execPktAtomic s) :=
  h.snoopFor.onPacket (fun _ _ h4 => h4.atHome (fun _ h7 => h7.farAtomic))

theorem State.memCanonical.execPktReduction {s : State} (h : s.memCanonical) :
    CanonicalOutcome (execPktReduction s) :=
  h.snoopFor.onPacket (fun _ _ h4 => h4.atHome (fun _ h7 => h7.farAtomic))

theorem State.memCanonical.execPktRenewal {s : State} (h : s.memCanonical) :
    CanonicalOutcome (execPktRenewal s) :=
  h.onPacket (fun _ _ h4 => h4.homeGive)

theorem State.memCanonical.execPktCleanEvictionNotice {s : State} (h : s.memCanonical) :
    CanonicalOutcome (execPktCleanEvictionNotice s) :=
  h.onPacket (fun _ _ h4 => h4.homeGive)

theorem State.memCanonical.execPktWriteback {s : State} (h : s.memCanonical) :
    CanonicalOutcome (execPktWriteback s) :=
  h.onPacket (fun _ _ h4 => h4.homeGive)

theorem State.memCanonical.stageTag {tag value} {s : State} (h : s.memCanonical) :
    (s.stageTag tag value).memCanonical :=
  h

theorem State.memCanonical.feedLoads {x value} {s : State} (h : s.memCanonical) :
    (s.feedLoads x value).memCanonical :=
  h.frame.foldl (fun _ _ h2 => h2.settleLoad)

theorem State.memCanonical.fillProxy {x k st} {s : State} (h : s.memCanonical) :
    (s.fillProxy x k st).memCanonical := by
  unfold State.fillProxy
  dsimp only
  split
  · exact h.dropProxy.writeMem.l2Room.frame.l2Touch
  · exact h.dropProxy.writeMem.l2Room.frame

theorem State.memCanonical.settleHeld {line} {s : State} (h : s.memCanonical) :
    (s.settleHeld line).memCanonical :=
  h.mapTeams

theorem State.memCanonical.gotLine {x k st} {s : State} (h : s.memCanonical) :
    (s.gotLine x k st).memCanonical :=
  h.dropTxn.fillProxy.settleHeld.feedLoads.stageTag.goOn

theorem State.memCanonical.gotBytes {x k} {s : State} (h : s.memCanonical) :
    (s.gotBytes x k).memCanonical := by
  unfold State.gotBytes
  dsimp only
  refine State.memCanonical.goOn ?_
  refine State.memCanonical.stageTag ?_
  refine State.memCanonical.feedLoads ?_
  split
  · exact h.dropTxn.fillProxy
  · exact h.dropTxn

theorem State.memCanonical.reachedFar {peer line team own} {s : State} (h : s.memCanonical) :
    (s.reachedFar peer line team own).memCanonical :=
  h.reach.fetchBound

theorem State.memCanonical.gotData {x k st} {s : State} (h : s.memCanonical) :
    (s.gotData x k st).memCanonical := by
  unfold State.gotData
  dsimp only
  split
  · refine State.memCanonical.gotLine ?_
    split
    · exact h.foldl (fun _ _ h8 => h8.modTeam)
    · exact h
  · refine State.memCanonical.gotLine ?_
    split
    · exact h.foldl (fun _ _ h8 => h8.modTeam)
    · exact h
  · refine State.memCanonical.gotBytes ?_
    split
    · exact h.foldl (fun _ _ h8 => h8.modTeam)
    · exact h
  · refine State.memCanonical.goOn ?_
    split
    · refine State.memCanonical.reachedFar ?_
      refine State.memCanonical.feedLoads ?_
      refine State.memCanonical.dropTxn ?_
      split
      · exact h.foldl (fun _ _ h16 => h16.modTeam)
      · exact h
    · refine State.memCanonical.feedLoads ?_
      refine State.memCanonical.dropTxn ?_
      split
      · exact h.foldl (fun _ _ h14 => h14.modTeam)
      · exact h
  · split
    · exact h.foldl (fun _ _ h6 => h6.modTeam)
    · exact h

theorem State.memCanonical.execPktData {s : State} (h : s.memCanonical) :
    CanonicalOutcome (execPktData s) := by
  unfold Machine.execPktData
  show State.memCanonical _
  refine State.memCanonical.onPacket h ?_
  intro _ _ h4
  show State.memCanonical _
  split
  · exact h4.gotData
  · exact h4

theorem State.memCanonical.execPktDataAckCount {s : State} (h : s.memCanonical) :
    CanonicalOutcome (execPktDataAckCount s) := by
  unfold Machine.execPktDataAckCount
  show State.memCanonical _
  refine State.memCanonical.onPacket h ?_
  intro _ _ h4
  show State.memCanonical _
  split
  · exact h4.gotData
  · exact h4

theorem State.memCanonical.proxyAnswer {k} {s : State} (h : s.memCanonical) :
    (s.proxyAnswer k).memCanonical := by
  unfold State.proxyAnswer
  split
  · exact h
  · refine State.memCanonical.countAck ?_
    split
    · exact h
    · exact h.perform

theorem State.memCanonical.lineGone {peer line} {s : State} (h : s.memCanonical) :
    (s.lineGone peer line).memCanonical := by
  unfold State.lineGone
  split
  · exact h.dropProxy.l2Leave.loseLines.fetchBound
  · exact h

theorem State.memCanonical.execPktAcknowledgement {s : State} (h : s.memCanonical) :
    CanonicalOutcome (execPktAcknowledgement s) := by
  unfold Machine.execPktAcknowledgement
  dsimp only
  show State.memCanonical _
  refine State.memCanonical.onPacket h ?_
  intro _ _ h4
  show State.memCanonical _
  split
  · exact h4.proxyAnswer
  · split
    · exact h4
    · show Memory.wf _ = true
      dsimp only
      split
      · exact h4.dropTxn.goOn.lineGone
      · exact h4.dropTxn.goOn

theorem State.memCanonical.execPktWritePerformed {s : State} (h : s.memCanonical) :
    CanonicalOutcome (execPktWritePerformed s) := by
  unfold Machine.execPktWritePerformed
  dsimp only
  show State.memCanonical _
  refine State.memCanonical.onPacket h ?_
  intro _ _ h4
  show State.memCanonical _
  split
  · refine State.memCanonical.foldl ?_ (fun _ _ h11 => h11.modTeam)
    split
    · exact h4.dropTxn.goOn.reachedFar
    · exact h4.dropTxn.goOn
  · exact h4

theorem State.memCanonical.execPktError {s : State} (h : s.memCanonical) :
    CanonicalOutcome (execPktError s) := by
  unfold Machine.execPktError
  show State.memCanonical _
  refine State.memCanonical.onPacket h ?_
  intro _ _ h4
  show State.memCanonical _
  split
  · exact h4.failTxn
  · exact h4

theorem State.memCanonical.proxyMessage {k} {s : State} (h : s.memCanonical) :
    (s.proxyMessage k).memCanonical := by
  unfold State.proxyMessage
  dsimp only
  split
  · exact h.recallCopies.frame.answer
  · exact h.recallCopies.dropProxy.l2Leave.mapTeams.answer.fetchBound

theorem State.memCanonical.execPktInvalidate {s : State} (h : s.memCanonical) :
    CanonicalOutcome (execPktInvalidate s) :=
  h.onPacket (fun _ _ h4 => h4.proxyMessage)

theorem State.memCanonical.execPktForward {s : State} (h : s.memCanonical) :
    CanonicalOutcome (execPktForward s) :=
  h.onPacket (fun _ _ h4 => h4.proxyMessage)

theorem State.memCanonical.execPktRecall {s : State} (h : s.memCanonical) :
    CanonicalOutcome (execPktRecall s) :=
  h.onPacket (fun _ _ h4 => h4.proxyMessage)

/-! ## Ending: what the functions of `Machine/Ending` leave of the form -/

theorem State.memCanonical.detachFrom {wg team m} {s : State} (h : s.memCanonical) :
    (s.detachFrom wg team m).memCanonical := by
  unfold State.detachFrom
  split
  · exact h
  · split
    · exact h
    · split
      · exact h.modWg
      · exact h.windowRequest

theorem State.memCanonical.removeTeam {t} {s : State} (h : s.memCanonical) :
    (s.removeTeam t).memCanonical := by
  unfold State.removeTeam
  dsimp only
  show Memory.wf _ = true
  dsimp only
  refine State.memCanonical.clearStore ?_
  split
  · exact h.setCtx
  · exact h

theorem State.memCanonical.recordErrs {t} {s : State} (h : s.memCanonical) :
    (s.recordErrs t).memCanonical := by
  unfold State.recordErrs
  dsimp only
  split
  · exact h
  · exact h.frame.modTeam.batchErr

theorem State.memCanonical.reapTeam {t} {s : State} (h : s.memCanonical) :
    (s.reapTeam t).memCanonical := by
  unfold State.reapTeam
  dsimp only
  split
  · exact h
  · split
    · exact h.recordErrs
    · split
      · exact (h.recordErrs.foldl (fun _ _ h10 => h10.detachFrom)).modTeam
      · exact h.recordErrs.removeTeam

theorem State.memCanonical.tellOrigin {ctx key hank m status trap} {s : State} (h : s.memCanonical) :
    (s.tellOrigin ctx key hank m status trap).memCanonical := by
  unfold State.tellOrigin
  split
  · split
    · exact h.memberEnded
    · exact h
  · exact h.hankMsg

theorem State.memCanonical.announceDeparture {w} {s : State} (h : s.memCanonical) :
    (s.announceDeparture w).memCanonical := by
  unfold State.announceDeparture
  dsimp only
  split
  · exact h
  · exact (h.modWg.departMember.foldl (fun _ _ h6 => h6.hankMsg)).tellOrigin

theorem State.memCanonical.releaseCluster {core ctx} {s : State} (h : s.memCanonical) :
    (s.releaseCluster core ctx).memCanonical := by
  unfold State.releaseCluster
  dsimp only
  split
  · exact h
  · exact h

theorem State.memCanonical.releaseChip {core ctx} {s : State} (h : s.memCanonical) :
    (s.releaseChip core ctx).memCanonical := by
  unfold State.releaseChip
  dsimp only
  split
  · split
    · exact h.moveBounds
    · exact h.setDie
  · exact h

theorem State.memCanonical.saveSegments {w} {s : State} (h : s.memCanonical) :
    (s.saveSegments w).memCanonical := by
  unfold State.saveSegments
  dsimp only
  split
  · exact h
  · split
    · exact h
    · exact h.foldl (fun _ _ h8 => h8.moveStore)

theorem State.memCanonical.leaveCluster {w} {s : State} (h : s.memCanonical) :
    (s.leaveCluster w).memCanonical := by
  unfold State.leaveCluster
  split
  · exact h.saveSegments
  · exact h.releaseCluster

theorem State.memCanonical.countEnd {w} {s : State} (h : s.memCanonical) :
    (s.countEnd w).memCanonical := by
  unfold State.countEnd
  split
  · exact h.modLaunch
  · exact h.tellOrigin

theorem State.memCanonical.removeWg {w} {s : State} (h : s.memCanonical) :
    (s.removeWg w).memCanonical := by
  unfold State.removeWg
  dsimp only
  refine State.memCanonical.freeEvent ?_
  refine State.memCanonical.countEnd ?_
  split
  · refine State.memCanonical.releaseChip ?_
    split
    · exact h.clearStore.frame.leaveCluster
    · exact h.clearStore.frame
  · split
    · exact h.clearStore.frame.leaveCluster
    · exact h.clearStore.frame

theorem State.memCanonical.dropSavedOps {w} {s : State} (h : s.memCanonical) :
    (s.dropSavedOps w).memCanonical := by
  unfold State.dropSavedOps
  dsimp only
  split
  · exact h
  · exact h.killOp

theorem State.memCanonical.reapWg {w} {s : State} (h : s.memCanonical) :
    (s.reapWg w).memCanonical := by
  unfold State.reapWg
  dsimp only
  refine State.memCanonical.ite ?_ ?_
  · refine State.memCanonical.removeWg ?_
    split
    · refine State.memCanonical.dropSavedOps ?_
      split
      · exact h.announceDeparture
      · exact h
    · split
      · exact h.announceDeparture
      · exact h
  · split
    · refine State.memCanonical.dropSavedOps ?_
      split
      · exact h.announceDeparture
      · exact h
    · split
      · exact h.announceDeparture
      · exact h

theorem State.memCanonical.sendReleases {l a tag} {s : State} (h : s.memCanonical) :
    (s.sendReleases l a tag).memCanonical :=
  h.foldl (fun _ _ h2 => h2.hankMsg)

theorem State.memCanonical.giveUpRest {l} {s : State} (h : s.memCanonical) :
    (s.giveUpRest l).memCanonical := by
  unfold State.giveUpRest
  dsimp only
  split
  · exact h
  · refine State.memCanonical.foldl ?_ (fun _ _ h4 => h4.sendReleases.frame)
    split
    · exact h.frame
    · exact h.frame.modLaunch

theorem State.memCanonical.reapLaunch {l} {s : State} (h : s.memCanonical) :
    (s.reapLaunch l).memCanonical := by
  unfold State.reapLaunch
  dsimp only
  split
  · split
    · exact h
    · exact h
  · split
    · split
      · exact h.giveUpRest.completeLaunch
      · exact h.giveUpRest
    · exact h.giveUpRest

theorem State.memCanonical.reap {s : State} (h : s.memCanonical) :
    s.reap.memCanonical := by
  unfold State.reap
  dsimp only
  refine State.memCanonical.foldl ?_ ?_
  · refine State.memCanonical.foldl ?_ ?_
    · refine State.memCanonical.foldl h ?_
      intro _ _ h6
      split
      · split
        · exact h6.reapTeam
        · exact h6
      · exact h6
    · intro _ _ h4
      split
      · exact h4.reapWg
      · exact h4
  · intro _ _ h2
    split
    · exact h2.reapLaunch
    · exact h2

/-! ## Preempt: what the functions of `Machine/Preempt` leave of the form -/

theorem State.memCanonical.stopWg {group w} {s : State} (h : s.memCanonical) :
    (s.stopWg group w).memCanonical := by
  unfold State.stopWg
  dsimp only
  split
  · exact h
  · split
    · exact h.modWg
    · exact h.modWg.foldl (fun _ _ h6 => h6.hankMsg)

theorem State.memCanonical.preempt {u} {s : State} (h : s.memCanonical) :
    (s.preempt u).memCanonical := by
  unfold State.preempt
  dsimp only
  split
  · exact h
  · split
    · exact h
    · exact h.frame.foldl (fun _ _ h6 => h6.stopWg)

theorem State.memCanonical.execPreemption {wg} {s : State} (h : s.memCanonical) :
    CanonicalOutcome (execPreemption wg s) :=
  h.preempt

theorem State.memCanonical.unpair {core o} {s : State} (h : s.memCanonical) :
    (s.unpair core o).memCanonical := by
  unfold State.unpair
  dsimp only
  split
  · exact h
  · split
    · split
      · exact h.setHead
      · exact h
    · split
      · exact h.setCore
      · exact h

theorem State.memCanonical.moveRange {kind a b off size} {s : State} (h : s.memCanonical) :
    (s.moveRange kind a b off size).memCanonical :=
  moveRange_wf s kind a b off size h

theorem State.memCanonical.moveTiles {tiles a b} {s : State} (h : s.memCanonical) :
    (s.moveTiles tiles a b).memCanonical :=
  h.foldl (fun _ _ h2 => h2.setTile.setTilePoison.setTile.setTilePoison)

theorem State.memCanonical.saveChip {w} {s : State} (h : s.memCanonical) :
    (s.saveChip w).memCanonical := by
  unfold State.saveChip
  dsimp only
  split
  · exact h
  · split
    · exact h.moveBounds
    · exact h.moveStore.setDie.modWg

theorem State.memCanonical.moveRecords {w a b} {s : State} (h : s.memCanonical) :
    (s.moveRecords w a b).memCanonical :=
  h.foldl (fun _ _ h4 => h4.moveRange)

theorem State.memCanonical.saveWg {w} {s : State} (h : s.memCanonical) :
    (s.saveWg w).memCanonical :=
  (((((((h.foldl (fun _ _ h16 => h16.unpair)).moveRecords).frame).moveTiles).modWg).saveSegments).saveChip).freeEvent

theorem State.memCanonical.saveSettled {s : State} (h : s.memCanonical) :
    s.saveSettled.memCanonical := by
  unfold State.saveSettled
  refine State.memCanonical.foldl h ?_
  intro _ _ h2
  split
  · split
    · exact h2.saveWg
    · exact h2
  · exact h2

theorem State.memCanonical.askBound {u} {s : State} (h : s.memCanonical) :
    (s.askBound u).memCanonical := by
  unfold State.askBound
  refine State.memCanonical.foldl h ?_
  intro _ _ h2
  refine State.memCanonical.foldl h2 ?_
  intro _ _ h5
  split
  · split
    · exact h5
    · exact h5.fetchBound
  · exact h5

theorem State.memCanonical.pairBack {core u} {s : State} (h : s.memCanonical) :
    (s.pairBack core u).memCanonical := by
  unfold State.pairBack
  split
  · split
    · exact h.failOp
    · exact h
  · exact h

theorem State.memCanonical.restoreSegments {w core} {s : State} (h : s.memCanonical) :
    (s.restoreSegments w core).memCanonical := by
  unfold State.restoreSegments
  dsimp only
  split
  · exact h
  · exact h.claimCluster.foldl (fun _ _ h6 => h6.clearStore.moveStore)

theorem State.memCanonical.restoreChip {w core} {s : State} (h : s.memCanonical) :
    (s.restoreChip w core).memCanonical := by
  unfold State.restoreChip
  dsimp only
  split
  · exact h.clearStore.moveStore.moveBounds
  · exact h.claimChip

theorem State.memCanonical.restoreOnto {w core} {s : State} (h : s.memCanonical) :
    (s.restoreOnto w core).memCanonical :=
  h.restoreSegments.restoreChip.moveTiles.moveRecords.frame.modWg.mapTeams.askBound.pairBack.refill

theorem State.memCanonical.awardTo {core} {s : State} (h : s.memCanonical) :
    (s.awardTo core).memCanonical :=
  h.frame

theorem State.memCanonical.restoreAll {n xs} {s : State} (h : s.memCanonical) :
    CanonicalOptPair (State.restoreAll n xs s) := by
  induction xs generalizing s with
  | nil => exact h
  | cons u us ih =>
    unfold State.restoreAll
    split
    · exact ih h
    · refine canonicalPair_findSome ?_
      intro c
      split
      · exact canonicalPair_map (ih h.frame.restoreOnto)
      · trivial

theorem State.memCanonical.restorePlan {w core} {s : State} (h : s.memCanonical) :
    CanonicalOptPair (s.restorePlan w core) := by
  unfold State.restorePlan
  dsimp only
  split
  · exact h.restoreOnto.restoreAll
  · exact trivial

theorem State.memCanonical.restoreWith {w core} {s : State} (h : s.memCanonical) :
    CanonicalOption (s.restoreWith w core) := by
  unfold State.restoreWith
  refine canonicalOption_map_pair h.restorePlan ?_
  intro p hp
  exact hp.foldl (fun _ _ h1 => h1.awardTo)

theorem State.memCanonical.startRestore {h'} {s : State} (h : s.memCanonical) :
    (s.startRestore h').memCanonical := by
  unfold State.startRestore
  dsimp only
  split
  · exact h
  · split
    · exact h
    · exact h.frame.foldl (fun _ _ h6 => h6.hankMsg)

/-! ## Award: what the functions of `Machine/Award` leave of the form -/

theorem State.memCanonical.execAnnouncement {s : State} (h : s.memCanonical) :
    CanonicalOutcome (execAnnouncement s) := by
  unfold Machine.execAnnouncement
  dsimp only
  show State.memCanonical _
  split
  · exact h.draw
  · split
    · exact h.draw
    · split
      · exact h.draw.frame.startAttempt
      · split
        · exact h.draw
        · exact h.draw.frame.announce.modLaunch

theorem State.memCanonical.execBid {ann core} {s : State} (h : s.memCanonical) :
    CanonicalOutcome (execBid ann core s) := by
  unfold Machine.execBid
  show State.memCanonical _
  split
  · exact h
  · split
    · exact h.modAnn
    · exact h

theorem State.memCanonical.announceAgain {a} {s : State} (h : s.memCanonical) :
    (s.announceAgain a).memCanonical :=
  h.frame

theorem State.memCanonical.holdAnn {a again} {s : State} (h : s.memCanonical) :
    (s.holdAnn a again).memCanonical :=
  h.modAnn

theorem State.memCanonical.starve {a} {s : State} (h : s.memCanonical) :
    (s.starve a).memCanonical :=
  h.postFq.setCtx.foldl (fun _ _ h2 => h2.modAnn.askPlace)

theorem State.memCanonical.failAnn {a noBid} {s : State} (h : s.memCanonical) :
    (s.failAnn a noBid).memCanonical := by
  unfold State.failAnn
  dsimp only
  split
  · exact h.dropAnn.answerReserve
  · split
    · exact h.dropAnn
    · split
      · exact h.holdAnn
      · split
        · exact h.starve
        · split
          · exact h.announceAgain
          · exact h.holdAnn

theorem State.memCanonical.awardNext {a} {s : State} (h : s.memCanonical) :
    (s.awardNext a).memCanonical := by
  unfold State.awardNext
  split
  · exact h.failAnn
  · exact h.noteAward.modAnn

theorem State.memCanonical.execBidWindowClose {s : State} (h : s.memCanonical) :
    CanonicalOutcome (execBidWindowClose s) := by
  unfold Machine.execBidWindowClose
  dsimp only
  show State.memCanonical _
  split
  · exact h
  · split
    · split
      · exact h.waitUntil.failAnn
      · exact h.waitUntil.awardNext
    · exact h

theorem State.memCanonical.passOver {a} {s : State} (h : s.memCanonical) :
    (s.passOver a).memCanonical :=
  h.awardNext

theorem State.memCanonical.execWithdraw {s : State} (h : s.memCanonical) :
    CanonicalOutcome (execWithdraw s) := by
  unfold Machine.execWithdraw
  show State.memCanonical _
  split
  · exact h
  · split
    · split
      · exact h
      · exact h.passOver
    · exact h

theorem State.memCanonical.execConfirmTimeout {s : State} (h : s.memCanonical) :
    CanonicalOutcome (execConfirmTimeout s) := by
  unfold Machine.execConfirmTimeout
  show State.memCanonical _
  split
  · exact h
  · split
    · exact h.waitUntil.passOver
    · exact h

theorem State.memCanonical.tenderAgain {a} {s : State} (h : s.memCanonical) :
    (s.tenderAgain a).memCanonical := by
  unfold State.tenderAgain
  dsimp only
  split
  · exact h.frame.modAnn.askPlace
  · split
    · exact h
    · exact h.frame.announceAgain

theorem State.memCanonical.execReAnnounce {s : State} (h : s.memCanonical) :
    CanonicalOutcome (execReAnnounce s) := by
  unfold Machine.execReAnnounce
  show State.memCanonical _
  split
  · split
    · exact h.tenderAgain
    · exact h
  · exact h

theorem State.memCanonical.settleAnn {a core} {s : State} (h : s.memCanonical) :
    (s.settleAnn a core).memCanonical := by
  unfold State.settleAnn
  dsimp only
  split
  · exact h.dropAnn.admitWg
  · exact canonical_getD (canonicalOption_bind (fun _ => h.dropAnn.restoreWith)) h.dropAnn
  · refine State.memCanonical.answerReserve ?_
    exact State.memCanonical.foldl h.frame (fun _ _ h1 => h1.awardTo)

theorem State.memCanonical.confirmAnn {a core} {s : State} (h : s.memCanonical) :
    (s.confirmAnn a core).memCanonical :=
  h.frame.settleAnn

theorem State.memCanonical.execConfirm {s : State} (h : s.memCanonical) :
    CanonicalOutcome (execConfirm s) := by
  unfold Machine.execConfirm
  show State.memCanonical _
  split
  · exact h
  · split
    · split
      · exact h.confirmAnn
      · exact h
    · exact h

theorem State.memCanonical.execPlacementResponse {ctx k value} {s : State} (h : s.memCanonical) :
    CanonicalOutcome (execPlacementResponse ctx k value s) := by
  unfold Machine.execPlacementResponse
  dsimp only
  show State.memCanonical _
  split
  · exact h
  · split
    · exact h.setCtx
    · split
      · exact h.setCtx.settleAnn
      · exact h.setCtx.askPlace

theorem State.memCanonical.announceSaved {w} {s : State} (h : s.memCanonical) :
    (s.announceSaved w).memCanonical := by
  unfold State.announceSaved
  dsimp only
  split
  · exact h
  · split
    · exact h
    · exact h.frame.announce

theorem State.memCanonical.execRestore {wg core} {s : State} (h : s.memCanonical) :
    CanonicalOutcome (execRestore wg core s) := by
  unfold Machine.execRestore
  show State.memCanonical _
  split
  · exact h
  · split
    · exact h
    · split
      · split
        · exact h.startRestore
        · exact h
      · exact h.announceSaved
      · split
        · exact h.confirmAnn
        · exact h

/-! ## Hank: what the functions of `Machine/Hank` leave of the form -/

theorem State.memCanonical.attach {h' m d} {s : State} (h : s.memCanonical) :
    (s.attach h' m d).Canonical := by
  unfold State.attach
  dsimp only
  split
  · exact h.unpark.putStatus
  · exact h.unpark.setCur.putStatus
  · exact h
  · split
    · exact h.putStatus
    · split
      · exact h.putStatus
      · split
        · exact h.modWg.setCur.putStatus
        · exact h.windowRequest.parkOn

theorem State.memCanonical.execHattach {d a} {s : State} (h : s.memCanonical) :
    CanonicalOutcome (execHattach d a s) := by
  unfold Machine.execHattach
  refine State.memCanonical.issue h ?_
  intro _ h2
  split
  · exact h2.attach
  · exact h2

theorem State.memCanonical.detach {h' m} {s : State} (h : s.memCanonical) :
    (s.detach h' m).Canonical := by
  unfold State.detach
  dsimp only
  split
  · exact h.unpark
  · exact h
  · split
    · exact h.unpark
    · refine State.memCanonical.released h ?_
      intro _ h6
      split
      · exact h6.setCur.modWg
      · exact h6.setCur.windowRequest.parkOn

theorem State.memCanonical.execHdetach {a} {s : State} (h : s.memCanonical) :
    CanonicalOutcome (execHdetach a s) := by
  unfold Machine.execHdetach
  refine State.memCanonical.issue h ?_
  intro _ h2
  split
  · exact h2.detach
  · exact h2

theorem State.memCanonical.execHquery {d a} {s : State} (h : s.memCanonical) :
    CanonicalOutcome (execHquery d a s) := by
  unfold Machine.execHquery
  dsimp only
  refine State.memCanonical.issue h ?_
  intro _ h2
  split
  · exact h2.writeDest
  · exact h2

theorem State.memCanonical.onWindow {op go} {s : State} (h : s.memCanonical) (hgo : ∀ x0 x1 t2, t2.memCanonical → CanonicalOption
    (go x0 x1 t2)) :
    (s.onWindow op go).memCanonical := by
  unfold State.onWindow
  refine State.memCanonical.onPacket h ?_
  intro _ _ h2
  split
  · exact h2.answer
  · exact hgo _ _ _ h2.recallCopies

theorem State.memCanonical.execWindowRead {s : State} (h : s.memCanonical) :
    CanonicalOutcome (execWindowRead s) := by
  unfold Machine.execWindowRead
  show State.memCanonical _
  refine State.memCanonical.onWindow h ?_
  intro _ _ _ h4
  show State.memCanonical _
  split
  · exact h4.answer
  · split
    · exact h4.answer
    · exact h4.answer

theorem State.memCanonical.execWindowWrite {s : State} (h : s.memCanonical) :
    CanonicalOutcome (execWindowWrite s) := by
  unfold Machine.execWindowWrite
  dsimp only
  show State.memCanonical _
  refine State.memCanonical.onWindow h ?_
  intro _ _ _ h4
  show State.memCanonical _
  split
  · exact h4.answer
  · exact h4.perform.answer

theorem State.memCanonical.windowAtomics {k loc} {s : State} (h : s.memCanonical) :
    (s.windowAtomics k loc).1.memCanonical := by
  unfold State.windowAtomics
  refine canonical_foldl_fst h ?_
  intro p i hp
  dsimp only
  refine State.memCanonical.homeAtomic hp ?_
  intro s cells hs
  exact hs.perform

theorem State.memCanonical.execWindowAtomic {s : State} (h : s.memCanonical) :
    CanonicalOutcome (execWindowAtomic s) := by
  unfold Machine.execWindowAtomic
  dsimp only
  show State.memCanonical _
  refine State.memCanonical.onWindow h ?_
  intro _ _ _ h4
  show State.memCanonical _
  split
  · exact h4.answer
  · split
    · exact h4.answer
    · exact h4.windowAtomics.answer

theorem State.memCanonical.windowWait {k loc tok} {s : State} (h : s.memCanonical) :
    CanonicalOption (s.windowWait k loc tok) :=
  canonicalOption_map (fun _ => h.answer)

theorem State.memCanonical.execWindowBarrier {s : State} (h : s.memCanonical) :
    CanonicalOutcome (execWindowBarrier s) := by
  unfold Machine.execWindowBarrier
  dsimp only
  show State.memCanonical _
  refine State.memCanonical.onWindow h ?_
  intro _ _ _ h4
  split
  · exact h4.initAt.answer
  · exact h4.invAt.answer
  · exact h4.arriveAt.answer
  · exact h4.windowWait
  · split
    · exact h4.arriveAt.answer
    · split
      next _ t10 heq10 =>
        have ht10 : t10.memCanonical := canonical_some heq10 h4.arriveAt.windowWait
        exact ht10
      · exact h4.arriveAt
  · exact h4.arriveAt.answer

theorem State.memCanonical.execHankAttach {s : State} (h : s.memCanonical) :
    CanonicalOutcome (execHankAttach s) := by
  unfold Machine.execHankAttach
  show State.memCanonical _
  refine State.memCanonical.onPacket h ?_
  intro _ _ h4
  split
  · exact h4.answer
  · exact h4.modWg.answer

theorem State.memCanonical.execHankDetach {s : State} (h : s.memCanonical) :
    CanonicalOutcome (execHankDetach s) := by
  unfold Machine.execHankDetach
  show State.memCanonical _
  refine State.memCanonical.onPacket h ?_
  intro _ _ h4
  split
  · exact h4.answer
  · exact h4.modWg.answer

theorem State.memCanonical.scalarTo {x v} {s : State} (h : s.memCanonical) :
    (s.scalarTo x v).memCanonical := by
  unfold State.scalarTo
  split
  · exact h
  · exact h.mapTeams

theorem State.memCanonical.keepFor {x t} {s : State} (h : s.memCanonical) :
    (s.keepFor x t).memCanonical :=
  h.mapTeams

theorem State.memCanonical.attachAnswered {x gone} {s : State} (h : s.memCanonical) :
    (s.attachAnswered x gone).memCanonical := by
  unfold State.attachAnswered
  split
  · exact h
  · exact h.modTeam

theorem State.memCanonical.barrierAnswered {x status v} {s : State} (h : s.memCanonical) :
    (s.barrierAnswered x status v).memCanonical := by
  unfold State.barrierAnswered
  dsimp only
  split
  · split
    · exact h.failTxn
    · exact h.scalarTo.dropTxn.goOn
  · refine State.memCanonical.goOn ?_
    refine State.memCanonical.dropTxn ?_
    refine State.memCanonical.scalarTo ?_
    split
    · exact h.keepFor
    · exact h
  · split
    · exact h.dropTxn.batchErr
    · split
      · exact h.dropTxn.batchErr
      · exact h.dropTxn
  · exact h.scalarTo.dropTxn.goOn

theorem State.memCanonical.captureGen {tag w} {s : State} (h : s.memCanonical) :
    (s.captureGen tag w).memCanonical :=
  h

theorem State.memCanonical.sentDone {x} {s : State} (h : s.memCanonical) :
    (s.sentDone x).memCanonical := by
  unfold State.sentDone
  dsimp only
  split
  · exact h
  · exact h

theorem State.memCanonical.seeWindow {fed bytes} {s : State} (h : s.memCanonical) :
    (s.seeWindow fed bytes).memCanonical :=
  h.foldl (fun _ _ h2 => h2.ownView)

theorem State.memCanonical.wroteWindow {x fed bytes} {s : State} (h : s.memCanonical) :
    (s.wroteWindow x fed bytes).memCanonical := by
  unfold State.wroteWindow
  dsimp only
  split
  · exact h.seeWindow.reachWindow
  · exact h.loseView.reachWindow
  · exact h

theorem State.memCanonical.windowDone {x k} {s : State} (h : s.memCanonical) :
    (s.windowDone x k).memCanonical := by
  unfold State.windowDone
  dsimp only
  split
  · exact h.dropTxn.seeWindow.feedLoads.stageTag.captureGen.goOn
  · exact h.dropTxn.wroteWindow.feedLoads.sentDone.goOn
  · exact h.dropTxn.sentDone.goOn

theorem State.memCanonical.execWindowAnswer {s : State} (h : s.memCanonical) :
    CanonicalOutcome (execWindowAnswer s) := by
  unfold Machine.execWindowAnswer
  dsimp only
  show State.memCanonical _
  refine State.memCanonical.onPacket h ?_
  intro _ _ h4
  show State.memCanonical _
  split
  · exact h4
  · split
    · exact h4.dropTxn.attachAnswered
    · split
      · exact h4.failTxn
      · split
        · exact h4.failTxn
        · split
          · exact h4.barrierAnswered
          · exact h4.windowDone

theorem State.memCanonical.execDepartureNotice {s : State} (h : s.memCanonical) :
    CanonicalOutcome (execDepartureNotice s) := by
  unfold Machine.execDepartureNotice
  dsimp only
  show State.memCanonical _
  refine State.memCanonical.onPacket h ?_
  intro _ _ h4
  show State.memCanonical _
  split
  · refine State.memCanonical.memberEnded ?_
    split
    · exact h4.departMember
    · exact h4
  · split
    · exact h4.departMember
    · exact h4

theorem State.memCanonical.execPreemptHank {s : State} (h : s.memCanonical) :
    CanonicalOutcome (execPreemptHank s) := by
  unfold Machine.execPreemptHank
  show State.memCanonical _
  refine State.memCanonical.onPacket h ?_
  intro _ _ h4
  show State.memCanonical _
  split
  · exact h4.preempt
  · exact h4

theorem State.memCanonical.holdFor {l key hank m} {s : State} (h : s.memCanonical) :
    (s.holdFor l key hank m).memCanonical := by
  unfold State.holdFor
  dsimp only
  split
  · exact h
  · split
    · exact h
    · split
      · exact h
      · exact h.setCore

theorem State.memCanonical.preemptHeld {l key hank m} {s : State} (h : s.memCanonical) :
    (s.preemptHeld l key hank m).memCanonical :=
  h.foldl (fun _ _ h2 => h2.preempt)

theorem State.memCanonical.endHolds {key hank} {s : State} (h : s.memCanonical) :
    (s.endHolds key hank).memCanonical :=
  h

theorem State.memCanonical.reserve {k l teams slots} {s : State} (h : s.memCanonical) :
    CanonicalOption (s.reserve k l teams slots) := by
  unfold State.reserve
  dsimp only
  split
  · exact h.answerReserve
  · split
    · exact trivial
    · exact h.announce

theorem State.memCanonical.execHankReserve {s : State} (h : s.memCanonical) :
    CanonicalOutcome (execHankReserve s) := by
  unfold Machine.execHankReserve
  dsimp only
  show State.memCanonical _
  refine State.memCanonical.onPacket h ?_
  intro _ _ h4
  split
  · exact h4.answerReserve
  · split
    · split
      · refine State.memCanonical.reserve ?_
        split
        · refine State.memCanonical.preemptHeld ?_
          split
          · exact h4.holdFor
          · exact h4
        · split
          · exact h4.holdFor
          · exact h4
      · show State.memCanonical _
        refine State.memCanonical.answerReserve ?_
        split
        · refine State.memCanonical.preemptHeld ?_
          split
          · exact h4.holdFor
          · exact h4
        · split
          · exact h4.holdFor
          · exact h4
    · refine State.memCanonical.reserve ?_
      split
      · refine State.memCanonical.preemptHeld ?_
        split
        · exact h4.holdFor
        · exact h4
      · split
        · exact h4.holdFor
        · exact h4

theorem State.memCanonical.memberLaunch {key l} {s : State} (h : s.memCanonical) :
    (s.memberLaunch key l).1.memCanonical := by
  unfold State.memberLaunch
  dsimp only
  split
  · exact h
  · split
    · exact h
    · exact h

theorem State.memCanonical.restoreReserved {w r} {s : State} (h : s.memCanonical) :
    (s.restoreReserved w r).memCanonical := by
  unfold State.restoreReserved
  refine State.memCanonical.foldl h.restoreOnto ?_
  intro _ _ h2
  split
  · exact h2.restoreOnto
  · exact h2

theorem State.memCanonical.execHankCommit {s : State} (h : s.memCanonical) :
    CanonicalOutcome (execHankCommit s) := by
  unfold Machine.execHankCommit
  dsimp only
  show State.memCanonical _
  refine State.memCanonical.onPacket h ?_
  intro _ _ h4
  split
  · exact h4
  · split
    · exact h4.frame.endHolds.restoreReserved
    · exact h4.frame.endHolds.memberLaunch.admitWg

theorem State.memCanonical.execHankRelease {s : State} (h : s.memCanonical) :
    CanonicalOutcome (execHankRelease s) := by
  unfold Machine.execHankRelease
  dsimp only
  show State.memCanonical _
  refine State.memCanonical.onPacket h ?_
  intro _ _ h4
  show State.memCanonical _
  split
  · exact h4.frame.endHolds
  · exact h4.frame

theorem State.memCanonical.setAttempt {a b} {s : State} (h : s.memCanonical) :
    (s.setAttempt a b).memCanonical :=
  h

theorem State.memCanonical.commitAttempt {l a} {s : State} (h : s.memCanonical) :
    (s.commitAttempt l a).memCanonical := by
  unfold State.commitAttempt
  dsimp only
  split
  · exact (h.foldl (fun _ _ h6 => h6.hankMsg)).setAttempt
  · exact ((h.foldl (fun _ _ h8 => h8.hankMsg)).setAttempt).modLaunch

theorem State.memCanonical.noteAnswer {l a m result} {s : State} (h : s.memCanonical) :
    (s.noteAnswer l a m result).memCanonical := by
  unfold State.noteAnswer
  dsimp only
  split
  · exact h
  · split
    · split
      · exact h.setAttempt.commitAttempt
      · exact h.setAttempt
    · split
      · exact h.setAttempt.sendReleases.setAttempt.modLaunch
      · exact h.setAttempt.sendReleases

theorem State.memCanonical.execHankReserveAnswer {s : State} (h : s.memCanonical) :
    CanonicalOutcome (execHankReserveAnswer s) := by
  unfold Machine.execHankReserveAnswer
  show State.memCanonical _
  refine State.memCanonical.onPacket h ?_
  intro _ _ h4
  split
  · exact h4
  · split
    · exact h4
    · exact h4.noteAnswer

theorem State.memCanonical.onAttempt {go} {s : State} (h : s.memCanonical) (hgo : ∀ x0 x1, (go x0 x1).memCanonical) :
    (s.onAttempt go).memCanonical := by
  unfold State.onAttempt
  split
  · exact h
  · split
    · exact h
    · split
      · exact hgo _ _ 
      · exact h

theorem State.memCanonical.execHankReserveTimeout {s : State} (h : s.memCanonical) :
    CanonicalOutcome (execHankReserveTimeout s) := by
  unfold Machine.execHankReserveTimeout
  dsimp only
  show State.memCanonical _
  refine State.memCanonical.onAttempt h ?_
  intro _ _
  split
  · exact h
  · exact h.setAttempt.sendReleases

theorem State.memCanonical.execHankRetry {s : State} (h : s.memCanonical) :
    CanonicalOutcome (execHankRetry s) := by
  unfold Machine.execHankRetry
  dsimp only
  show State.memCanonical _
  refine State.memCanonical.onAttempt h ?_
  intro _ _
  split
  · exact h
  · exact h.frame.setAttempt.foldl (fun _ _ h9 => h9.hankMsg)

theorem State.memCanonical.execDrainHold {s : State} (h : s.memCanonical) :
    CanonicalOutcome (execDrainHold s) := by
  unfold Machine.execDrainHold
  show State.memCanonical _
  refine State.memCanonical.onAttempt h ?_
  intro _ _
  split
  · exact h
  · exact h.setAttempt.foldl (fun _ _ h9 => h9.holdFor)

theorem State.memCanonical.execDrainPreempt {s : State} (h : s.memCanonical) :
    CanonicalOutcome (execDrainPreempt s) := by
  unfold Machine.execDrainPreempt
  show State.memCanonical _
  refine State.memCanonical.onAttempt h ?_
  intro _ _
  split
  · exact h
  · exact h.setAttempt.foldl (fun _ _ h9 => h9.preemptHeld)

theorem State.memCanonical.execHankAbandon {s : State} (h : s.memCanonical) :
    CanonicalOutcome (execHankAbandon s) := by
  unfold Machine.execHankAbandon
  show State.memCanonical _
  refine State.memCanonical.onAttempt h ?_
  intro _ _
  split
  · exact h
  · exact h.sendReleases.setAttempt.modLaunch

/-! ## Stray: what the functions of `Machine/Stray` leave of the form -/

theorem State.memCanonical.execUnlistedOpcode {_w} {s : State} (h : s.memCanonical) :
    CanonicalOutcome (execUnlistedOpcode _w s) :=
  h.issue (fun _ h2 => h2)

theorem State.memCanonical.execUnusedFieldNotZ {w} {s : State} (h : s.memCanonical) :
    CanonicalOutcome (execUnusedFieldNotZ w s) :=
  h.issue (fun _ h2 => h2)

/-! ## Dispatch: what the functions of `Machine/Dispatch` leave of the form -/

theorem State.memCanonical.exec {i} {s : State} (h : s.memCanonical) :
    CanonicalOutcome (exec i s) := by
  unfold Machine.exec
  split
  · exact h.execNop
  · exact h.execMode
  · exact h.execMguard
  · exact h.execGetc
  · exact h.execSetc
  · exact h.execYield
  · exact h.execTrap
  · exact h.execBrk
  · exact h.execSret
  · exact h.execHcall
  · exact h.execTlbinv
  · exact h.execAdd
  · exact h.execSub
  · exact h.execMul
  · exact h.execMulh
  · exact h.execMac
  · exact h.execDiv
  · exact h.execRem
  · exact h.execMin
  · exact h.execMax
  · exact h.execAbs
  · exact h.execNeg
  · exact h.execAnd
  · exact h.execOr
  · exact h.execXor
  · exact h.execShl
  · exact h.execShr
  · exact h.execSra
  · exact h.execClz
  · exact h.execPopc
  · exact h.execBfx
  · exact h.execBfi
  · exact h.execSel
  · exact h.execMov
  · exact h.execCvt
  · exact h.execRndi
  · exact h.execRcp
  · exact h.execRsq
  · exact h.execSqrt
  · exact h.execExp2
  · exact h.execLog2
  · exact h.execSinp
  · exact h.execCosp
  · exact h.execCmpeq
  · exact h.execCmpne
  · exact h.execCmplt
  · exact h.execCmple
  · exact h.execCmpun
  · exact h.execPand
  · exact h.execPor
  · exact h.execPxor
  · exact h.execPnot
  · exact h.execVany
  · exact h.execVall
  · exact h.execBallot
  · exact h.execUnpkQn4
  · exact h.execUnpkF4
  · exact h.execUnpkE4m3
  · exact h.execUnpkE5m2
  · exact h.execUnpkI8
  · exact h.execUnpkBf
  · exact h.execUnpkH
  · exact h.execPackQn4
  · exact h.execPackF4
  · exact h.execPackE4m3
  · exact h.execPackE5m2
  · exact h.execPackI8
  · exact h.execPackBf
  · exact h.execPackH
  · exact h.execXln
  · exact h.execXlnx
  · exact h.execRdlane
  · exact h.execTsum
  · exact h.execTmin
  · exact h.execTmax
  · exact h.execTscan
  · exact h.execBr
  · exact h.execBrc
  · exact h.execBrany
  · exact h.execBrall
  · exact h.execLoop
  · exact h.execMark
  · exact h.execJoin
  · exact h.execCall
  · exact h.execCalli
  · exact h.execRet
  · exact h.execExit
  · exact h.execLdb
  · exact h.execLdh
  · exact h.execLdw
  · exact h.execLdd
  · exact h.execLdq
  · exact h.execStb
  · exact h.execSth
  · exact h.execStw
  · exact h.execStd
  · exact h.execStq
  · exact h.execLdwa
  · exact h.execLdda
  · exact h.execStwl
  · exact h.execStdl
  · exact h.execLds
  · exact h.execLdsd
  · exact h.execPft
  · exact h.execCflush
  · exact h.execCclean
  · exact h.execCinv
  · exact h.execFencea
  · exact h.execFencer
  · exact h.execFences
  · exact h.execAtadd
  · exact h.execAtand
  · exact h.execAtor
  · exact h.execAtxor
  · exact h.execAtmin
  · exact h.execAtmax
  · exact h.execAtxch
  · exact h.execAtcas
  · exact h.execRmadd
  · exact h.execRmand
  · exact h.execRmor
  · exact h.execRmxor
  · exact h.execRmmin
  · exact h.execRmmax
  · exact h.execBld
  · exact h.execBldn
  · exact h.execBldd
  · exact h.execUnbind
  · exact h.execUnball
  · exact h.execBwait
  · exact h.execBchg
  · exact h.execBadd
  · exact h.execBcas
  · exact h.execBxch
  · exact h.execRbegin
  · exact h.execRcommit
  · exact h.execRabort
  · exact h.execRldw
  · exact h.execRldd
  · exact h.execFork
  · exact h.execRdv
  · exact h.execEkill
  · exact h.execCpy4
  · exact h.execCpy8
  · exact h.execCpy16
  · exact h.execCra4
  · exact h.execCra8
  · exact h.execCra16
  · exact h.execClose
  · exact h.execWaitb
  · exact h.execSemset
  · exact h.execSeminc
  · exact h.execSemacq
  · exact h.execSemtry
  · exact h.execObres
  · exact h.execObfree
  · exact h.execMzero
  · exact h.execMma
  · exact h.execMmap
  · exact h.execLdacc
  · exact h.execStacc
  · exact h.execMtrq
  · exact h.execBarinit
  · exact h.execArrive
  · exact h.execAwait
  · exact h.execArrwait
  · exact h.execBarinv
  · exact h.execPark
  · exact h.execWake
  · exact h.execXch
  · exact h.execTender
  · exact h.execTclass
  · exact h.execCrsw
  · exact h.execCrwait
  · exact h.execHandoff
  · exact h.execTake
  · exact h.execHattach
  · exact h.execHdetach
  · exact h.execHquery
  · exact h.execClauseStart
  · exact h.execLoadDataReturn
  · exact h.execStorePathDrain
  · exact h.execRefreshSteal
  · exact h.execMachineError
  · exact h.execGets
  · exact h.execGetm
  · exact h.execUpgrade
  · exact h.execGeth
  · exact h.execCleanEvictionNotice
  · exact h.execWriteback
  · exact h.execWatch
  · exact h.execRenewal
  · exact h.execInvalidation
  · exact h.execForward
  · exact h.execRecall
  · exact h.execAcknowledgement
  · exact h.execChangeNotice
  · exact h.execLeaseExpiry
  · exact h.execRenewalDue
  · exact h.execLeaseSweep
  · exact h.execDirectoryEntryUncorrectable
  · exact h.execRebalanceEpoch
  · exact h.execCarveEpoch
  · exact h.execRegionSwitch
  · exact h.execCopyTransfer
  · exact h.execBatchCompletion
  · exact h.execPatrolScrub
  · exact h.execLaneCommit
  · exact h.execRegionTimeout
  · exact h.execBwaitTimeout
  · exact h.execParkTimeout
  · exact h.execXchtmo
  · exact h.execPairtmo
  · exact h.execSpindleProgramStart
  · exact h.execSpindleProgramEnd
  · exact h.execEngineOperationStart
  · exact h.execMmaStrip
  · exact h.execMmapStart
  · exact h.execPageResponse
  · exact h.execAtsInvalidation
  · exact h.execPlacementResponse
  · exact h.execHcallReply
  · exact h.execTailChange
  · exact h.execGateOpen
  · exact h.execAnnouncement
  · exact h.execBid
  · exact h.execBidWindowClose
  · exact h.execConfirm
  · exact h.execWithdraw
  · exact h.execConfirmTimeout
  · exact h.execReAnnounce
  · exact h.execChildLaunchTake
  · exact h.execServiceEndWorkgroup
  · exact h.execPreemption
  · exact h.execRestore
  · exact h.execClockThrottle
  · exact h.execThermalShutdown
  · exact h.execKickRelease
  · exact h.execKickAcquire
  · exact h.execTakeResume
  · exact h.execHostReadShared
  · exact h.execHostReadOwnership
  · exact h.execHostWriteback
  · exact h.execHostDropClean
  · exact h.execSnoopTimeout
  · exact h.execHostUncachedAccess
  · exact h.execContextDescriptorWrite
  · exact h.execBucketTableWrite
  · exact h.execCoherentWindowWrite
  · exact h.execConfigWrite
  · exact h.execDirectoryDiagnosticRead
  · exact h.execHeaterStep
  · exact h.execHeaterCodeWrite
  · exact h.execRingOutOfLock
  · exact h.execGetVersion
  · exact h.execGetCapabilities
  · exact h.execNegotiateAlgorithms
  · exact h.execGetDigests
  · exact h.execGetCertificate
  · exact h.execChallenge
  · exact h.execGetMeasurements
  · exact h.execKeyExchange
  · exact h.execFinish
  · exact h.execLockInterface
  · exact h.execRun
  · exact h.execDeviceReset
  · exact h.execFlitData
  · exact h.execFlitIdle
  · exact h.execFlitResync
  · exact h.execFlitRetryRequest
  · exact h.execGroupFence
  · exact h.execLinkDown
  · exact h.execPortUp
  · exact h.execPktReadShared
  · exact h.execPktReadExclusive
  · exact h.execPktUpgrade
  · exact h.execPktUncachedRead
  · exact h.execPktWrite
  · exact h.execPktAtomic
  · exact h.execPktReduction
  · exact h.execPktRenewal
  · exact h.execPktCleanEvictionNotice
  · exact h.execPktWriteback
  · exact h.execPktData
  · exact h.execPktDataAckCount
  · exact h.execPktAcknowledgement
  · exact h.execPktWritePerformed
  · exact h.execPktError
  · exact h.execPktInvalidate
  · exact h.execPktForward
  · exact h.execPktRecall
  · exact h.execDetourRelay
  · exact h.execInvalidationResend
  · exact h.execTransactionTimeout
  · exact h.execHankReserve
  · exact h.execHankReserveAnswer
  · exact h.execHankCommit
  · exact h.execHankRelease
  · exact h.execHankAttach
  · exact h.execHankDetach
  · exact h.execDepartureNotice
  · exact h.execWindowRead
  · exact h.execWindowWrite
  · exact h.execWindowAtomic
  · exact h.execWindowAnswer
  · exact h.execPreemptHank
  · exact h.execWindowBarrier
  · exact h.execHankReserveTimeout
  · exact h.execHankRetry
  · exact h.execDrainHold
  · exact h.execDrainPreempt
  · exact h.execHankAbandon
  · exact h.execUnlistedOpcode
  · exact h.execUnusedFieldNotZ
  · exact h.execBackInvalidateSnoopAnswer
  · exact h.execHostPortLinkLoss
  · exact h.execLockstepMismatch
  · exact h.execEndLaunchBySystemSoftware
  · exact h.execCoreReEnable

/-! ## Sched: what the functions of `Machine/Sched` leave of the form -/

theorem State.memCanonical.tick {s : State} (h : s.memCanonical) :
    s.tick.memCanonical :=
  h.frame.mapTeams.expire

theorem State.memCanonical.pickMove {ms} {s : State} (h : s.memCanonical) :
    (s.pickMove ms).2.memCanonical := by
  unfold State.pickMove
  split
  · exact h.draw
  · exact h
  · exact h.draw

theorem State.memCanonical.nextMove {s : State} (h : s.memCanonical) :
    s.nextMove.2.memCanonical := by
  unfold State.nextMove
  split
  · exact h
  · exact h.pickMove

theorem State.memCanonical.beginIssue {s : State} (h : s.memCanonical) :
    s.beginIssue.memCanonical := by
  unfold State.beginIssue
  dsimp only
  split
  · exact h.setCur
  · exact h

theorem State.memCanonical.teamNext {u} {s : State} (h : s.memCanonical) :
    (s.teamNext u).1.memCanonical := by
  unfold State.teamNext
  dsimp only
  split
  · exact h
  · split
    · exact h
    · split
      · exact h.focusTeam.frame
      · exact h.focusTeam.frame.beginIssue

theorem State.memCanonical.progNext {u} {s : State} (h : s.memCanonical) :
    (s.progNext u).1.memCanonical := by
  unfold State.progNext
  dsimp only
  split
  · exact h
  · split
    · exact h
    · split
      · exact h
      · exact h

theorem State.memCanonical.moveNext {x} {s : State} (h : s.memCanonical) :
    (s.moveNext x).1.memCanonical := by
  unfold State.moveNext
  split
  · exact h
  · exact h.teamNext
  · exact h.progNext
  · split
    · exact h
    · exact h

theorem State.memCanonical.select {s : State} (h : s.memCanonical) :
    s.select.1.memCanonical :=
  h.nextMove.moveNext

theorem State.memCanonical.clearFlags {s : State} (h : s.memCanonical) :
    s.clearFlags.memCanonical :=
  h.frame.mapTeams

theorem State.memCanonical.refillAll {s : State} (h : s.memCanonical) :
    s.refillAll.memCanonical :=
  h.foldl (fun _ _ h2 => h2.refill)

theorem State.memCanonical.postOne {c} {s : State} (h : s.memCanonical) :
    (s.postOne c).memCanonical := by
  unfold State.postOne
  dsimp only
  split
  · refine State.memCanonical.ite ?_ ?_
    · refine State.memCanonical.writeQueue ?_
      refine State.memCanonical.setCtx ?_
      split
      · split
        · exact h.setCtx.writeQueue
        · exact h
      · exact h
    · split
      · split
        · exact h.setCtx.writeQueue
        · exact h
      · exact h
  · split
    · split
      · exact h.setCtx.writeQueue
      · exact h
    · exact h

theorem State.memCanonical.postAll {s : State} (h : s.memCanonical) :
    s.postAll.memCanonical :=
  h.foldl (fun _ _ h2 => h2.postOne)

theorem State.memCanonical.flushCtx {c n} {s : State} (h : s.memCanonical) :
    (State.flushCtx c n s).memCanonical := by
  induction n generalizing s with
  | zero =>
    unfold State.flushCtx
    exact h
  | succ n ih =>
    unfold State.flushCtx
    dsimp only
    split
    · exact h
    · split
      next _ t4 heq4 =>
        have ht4 : t4.memCanonical := canonical_fst heq4 h.writeNow
        exact ih ht4.setCtx
      next _ t4 _ _ heq4 =>
        have ht4 : t4.memCanonical := canonical_fst heq4 h.writeNow
        split
        · exact ih ht4.setCtx.setCtx
        · exact ht4.askPage

theorem State.memCanonical.flushWrites {s : State} (h : s.memCanonical) :
    s.flushWrites.memCanonical :=
  h.foldl (fun _ _ h2 => h2.flushCtx)

theorem State.memCanonical.releaseHolds {s : State} (h : s.memCanonical) :
    s.releaseHolds.memCanonical :=
  h.foldl (fun _ _ h2 => h2.releaseIdle)

theorem State.memCanonical.refetchLost {s : State} (h : s.memCanonical) :
    s.refetchLost.memCanonical :=
  h.foldl (fun _ _ h2 => h2.refetchBound)

theorem State.memCanonical.pumpAll {s : State} (h : s.memCanonical) :
    s.pumpAll.memCanonical :=
  h.foldl (fun _ _ h2 => h2.pumpPort)

theorem State.memCanonical.settle {s : State} (h : s.memCanonical) :
    s.settle.memCanonical :=
  h.saveSettled.reap.refillAll.postAll.flushWrites.releaseHolds.refetchLost.pumpAll.clearFlags

/-! ## Steps -/

theorem step_memCanonical {s t : State} (h : s.memCanonical) (hs : step s = .next t) : t.memCanonical := by
  obtain ⟨u, i, v, hu, hv, rfl⟩ | ⟨u, hu, rfl⟩ := step_cases hs
  · have hsel : u.memCanonical := canonical_fst hu h.tick.select
    have hex : CanonicalOutcome (exec i u) := hsel.exec
    rw [hv] at hex
    exact State.memCanonical.settle hex
  · exact (canonical_fst hu h.tick.select).settle

/-- Settles O7: every function that a step is made of keeps the form, the few that write memory by the laws of `writeCells`. -/
theorem stepKeepsMemoryCanonical : Obligations.StepKeepsMemoryCanonical := by
  unfold Obligations.StepKeepsMemoryCanonical
  intro s t h hs
  exact step_memCanonical h hs

end Sys2Proof.Machine
end

section
/-! SUPPORT. What an evaluation over lanes leaves: its results in the destination, its flags, and nothing else (R15, R58, R86, R87). -/

namespace Sys2Proof.Machine

/-! ## Lanes -/

/-- Lanes of a mask below a size. -/
theorem mem_lanesOf {size l : Nat} {m : Mask} : l ∈ lanesOf size m ↔ l < size ∧ m.getLsbD l = true := by
  simp [lanesOf]

/-- No lane stands twice. -/
theorem lanesOf_nodup (size : Nat) (m : Mask) : (lanesOf size m).Nodup := List.nodup_range.filter _

/-- The first of a mask's lanes is the lowest. -/
theorem lanesOf_head_of_lowest {size l : Nat} {m : Mask} (h : l ∈ lanesOf size m) (hlow : ∀ k, k < l → m.getLsbD k = false) :
    (lanesOf size m).head? = some l := by
  obtain ⟨hl, hm⟩ := mem_lanesOf.1 h
  rw [lanesOf, List.head?_filter, List.find?_eq_some_iff_append]
  refine ⟨hm, List.range l, List.range' (l + 1) (size - (l + 1)), ?_, fun k hk => by simp [hlow k (List.mem_range.1 hk)]⟩
  have hsplit := List.range'_append_1 (s := 0) (m := l) (n := size - (l + 1) + 1)
  rw [show l + (size - (l + 1) + 1) = size by omega, Nat.zero_add] at hsplit
  rw [← List.range'_succ, List.range_eq_range', List.range_eq_range', hsplit]

/-- The lanes that an evaluation is made for, of a mask's: the lowest for a scalar, else each (R15, R86). -/
def destLanes (size : Nat) (m : Mask) (d : Code) : List Nat := if isS d then (lanesOf size m).head?.toList else lanesOf size m

/-- They are lanes of the mask. -/
theorem mem_lanesOf_of_destLanes {size l : Nat} {m : Mask} {d : Code} (h : l ∈ destLanes size m d) : l ∈ lanesOf size m := by
  unfold destLanes at h
  split at h
  · exact List.mem_of_mem_head? (by simpa using h)
  · exact h

/-- The lanes of the evaluation of an instruction for its contributing lanes. -/
theorem evalLanes_eq (t : Team) (d : Code) : t.evalLanes d = destLanes t.size t.contrib d := rfl

/-- A code is of one kind. -/
theorem isS_of_isV {d : Code} (h : isV d = true) : isS d = false := by
  simp only [isV, isS, decide_eq_true_eq, Bool.and_eq_false_iff, decide_eq_false_iff_not] at h ⊢
  omega

/-! ## Destinations -/

/-- A destination of one register, or of an aligned pair, as numbers of registers that exist. -/
theorem dstOk_cases {t : Team} {wd : Bool} {d : Code} (h : dstOk t wd d = true) :
    (isV d = true ∧ isS d = false ∧ d.toNat + regs wd ≤ 96) ∨ (isV d = false ∧ isS d = true ∧ sNum d + regs wd ≤ 24) ∨
      (isV d = false ∧ isS d = false) := by
  have hn : regs wd = 1 ∨ regs wd = 2 := by cases wd <;> simp [regs]
  simp only [dstOk, Bool.or_eq_true] at h
  rcases h with (h | h) | h
  · obtain ⟨hv, hd, -⟩ := Team.le_of_vRun hn h
    exact .inl ⟨hv, isS_of_isV hv, hd⟩
  · simp only [sRun, Bool.and_eq_true, decide_eq_true_eq] at h
    obtain ⟨⟨hs, hd⟩, -⟩ := h
    refine .inr (.inl ⟨?_, hs, hd⟩)
    by_contra hv
    simp [isS_of_isV (Bool.eq_true_of_not_eq_false hv)] at hs
  · simp only [isZ, decide_eq_true_eq] at h
    exact .inr (.inr ⟨by simp [isV, h], by simp [isS, h]⟩)

/-- The words of a number, counted. -/
@[simp] theorem wordsOf_length (n x : Nat) : (wordsOf n x).length = n := by
  induction n generalizing x with
  | zero => rfl
  | succ n ih => simp [wordsOf, ih]

/-- Bits of a destination. -/
def destWidth (wd : Bool) : Nat := if wd then 64 else 32

/-- A pair of words of a number is the number, as far as two words go. -/
theorem pairOf_words_toNat (x : Nat) : (pairOf (BitVec.ofNat 32 x) (BitVec.ofNat 32 (x / 2 ^ 32))).toNat = x % 2 ^ 64 := by
  simp only [pairOf, BitVec.toNat_append, BitVec.toNat_ofNat]
  rw [← Nat.shiftLeft_add_eq_or_of_lt (Nat.mod_lt _ (by decide)), Nat.shiftLeft_eq]
  omega

/-- An operand is below the limit of its width. -/
theorem Team.opndN_lt (t : Team) (wd : Bool) (l : Nat) (c : Code) : t.opndN wd l c < 2 ^ destWidth wd := by
  cases wd <;> simp only [Team.opndN, destWidth, Bool.false_eq_true, if_false, if_true] <;> exact BitVec.isLt _

/-- What vector registers that hold the words of a number read as. -/
theorem opndN_of_vectorWords {t : Team} {wd : Bool} {d : Code} {l x : Nat} (hv : isV d = true) (hd : d.toNat + regs wd ≤ 96)
    (h : ∀ r, d.toNat ≤ r → r < d.toNat + regs wd → t.vget l r = (wordsOf (regs wd) x).getD (r - d.toNat) 0) :
    t.opndN wd l d = x % 2 ^ destWidth wd := by
  cases wd
  · have h0 := h d.toNat (by omega) (by simp [regs])
    simp only [regs, wordsOf, Nat.sub_self, Bool.false_eq_true, if_false, List.getD_cons_zero] at h0
    simp [Team.opndN, Team.opnd32, hv, h0, destWidth]
  · have h0 := h d.toNat (by omega) (by simp [regs])
    have h1 := h (d.toNat + 1) (by omega) (by simp [regs])
    simp only [regs, wordsOf, Nat.sub_self, if_true, Nat.add_sub_cancel_left, List.getD_cons_zero, List.getD_cons_succ] at h0 h1
    simp only [Team.opndN, if_true, destWidth]
    rw [opnd64_vector hv hd, h0, h1, pairOf_words_toNat]

/-- What scalars that hold the words of a number read as. -/
theorem opndN_of_scalarWords {t : Team} {wd : Bool} {d : Code} {l x : Nat} (hv : isV d = false) (hs : isS d = true)
    (hd : sNum d + regs wd ≤ 24)
    (h : ∀ k, sNum d ≤ k → k < sNum d + regs wd → t.sget k = (wordsOf (regs wd) x).getD (k - sNum d) 0) :
    t.opndN wd l d = x % 2 ^ destWidth wd := by
  cases wd
  · have h0 := h (sNum d) (by omega) (by simp [regs])
    simp only [regs, wordsOf, Nat.sub_self, Bool.false_eq_true, if_false, List.getD_cons_zero] at h0
    simp [Team.opndN, Team.opnd32, hv, hs, h0, destWidth]
  · have h0 := h (sNum d) (by omega) (by simp [regs])
    have h1 := h (sNum d + 1) (by omega) (by simp [regs])
    simp only [regs, wordsOf, Nat.sub_self, if_true, Nat.add_sub_cancel_left, List.getD_cons_zero, List.getD_cons_succ] at h0 h1
    simp only [Team.opndN, if_true, destWidth]
    rw [opnd64_scalar hs hd, h0, h1, pairOf_words_toNat]

/-! ## Flags -/

/-- The team with other generators, and with exceptions set. -/
def Team.raised (t : Team) (gen : Table Word) (f : Nat) : Team :=
  { t with gen := gen, tstat := t.tstat ||| BitVec.ofNat 32 (f % 32) }

/-- Exceptions raised once are raised. -/
theorem raised_raised (t : Team) (gen gen' : Table Word) (f : Nat) : (t.raised gen f).raised gen' f = t.raised gen' f := by
  simp only [Team.raised, BitVec.or_assoc, BitVec.or_self]

/-- Results that raise the same exceptions, one after the other. -/
theorem foldl_raiseFlags {rs : List (Nat × LaneRes)} {f : Nat} (t : Team) (hf : ∀ r ∈ rs, r.2.flags = f) (hne : rs ≠ []) :
    ∃ gen, rs.foldl (fun t r => (t.gset r.1 r.2.g).raiseFlags r.2.flags) t = t.raised gen f := by
  induction rs generalizing t with
  | nil => exact absurd rfl hne
  | cons r rs ih =>
    have hr : (t.gset r.1 r.2.g).raiseFlags r.2.flags = t.raised (tset 0 t.gen r.1 r.2.g) f := by
      rw [hf r (by simp)]
      rfl
    rw [List.foldl_cons, hr]
    by_cases hrs : rs = []
    · exact ⟨_, by rw [hrs]; rfl⟩
    · obtain ⟨gen, hg⟩ := ih (t.raised (tset 0 t.gen r.1 r.2.g) f) (fun x hx => hf x (by simp [hx])) hrs
      exact ⟨gen, by rw [hg, raised_raised]⟩

/-- Results that raise the same exceptions leave these set, and take the generators on. -/
theorem takeResults_uniform {t : Team} {rs : List (Nat × LaneRes)} {f : Nat} (hf : ∀ r ∈ rs, r.2.flags = f)
    (hne : rs ≠ [] ∨ f = 0) : ∃ gen, t.takeResults rs (rs.map (fun r => r.1)) = t.raised gen f := by
  have hall : rs.filter (fun r => (rs.map (fun r => r.1)).contains r.1) = rs :=
    List.filter_eq_self.2 fun r hr => List.contains_iff_mem.2 (List.mem_map.2 ⟨r, hr, rfl⟩)
  rw [Team.takeResults, hall]
  by_cases hrs : rs = []
  · obtain rfl := hne.resolve_left (not_not.2 hrs)
    exact ⟨t.gen, by simp [hrs, Team.raised]⟩
  · exact foldl_raiseFlags t hf hrs

/-- The exceptions of results that raise the same ones. -/
theorem foldl_flags_uniform {rs : List (Nat × LaneRes)} {f : Nat} (hf : ∀ r ∈ rs, r.2.flags = f) (hne : rs ≠ []) :
    rs.foldl (fun f r => f ||| r.2.flags) 0 = f := by
  have hmore : ∀ (rs : List (Nat × LaneRes)), (∀ r ∈ rs, r.2.flags = f) → rs.foldl (fun f r => f ||| r.2.flags) f = f := by
    intro rs hf
    induction rs with
    | nil => rfl
    | cons r rs ih => simpa [hf r (by simp)] using ih fun x hx => hf x (by simp [hx])
  obtain ⟨r, rs, rfl⟩ := List.exists_cons_of_ne_nil hne
  simpa [hf r (by simp)] using hmore rs fun x hx => hf x (by simp [hx])

/-! ## Results in their destination -/

/-- A team whose lanes of a mask have their results, numbers of `n` words, in the destination: nothing but registers has changed. -/
structure Team.Delivered (t u : Team) (n : Nat) (d : Code) (m : Mask) (f : Nat → Nat) : Prop where
  regsOnly : t.RegsOnly u
  undecayed : u.Undecayed
  vector : ∀ l r, r < 96 → tget 0 u.v (vkey l r) =
    if isV d = true ∧ l ∈ lanesOf t.size m ∧ d.toNat ≤ r ∧ r < d.toNat + n then (wordsOf n (f l)).getD (r - d.toNat) 0
    else tget 0 t.v (vkey l r)
  scalarKept : ∀ k, ¬ (isS d = true ∧ sNum d ≤ k ∧ k < sNum d + n ∧ lanesOf t.size m ≠ []) → u.sget k = t.sget k
  scalar : isS d = true → ∀ l, (lanesOf t.size m).head? = some l → ∀ k, sNum d ≤ k → k < sNum d + n →
    u.sget k = (wordsOf n (f l)).getD (k - sNum d) 0

section
variable {t : Team} {n : Nat} {d : Code} {m : Mask} {f : Nat → Nat} (hu : t.Undecayed)
include hu

/-- Vector registers of the lanes. -/
theorem delivered_putLanes (hv : isV d = true) (hd : d.toNat + n ≤ 96) :
    t.Delivered (t.putLanes d.toNat ((lanesOf t.size m).map (fun l => (l, wordsOf n (f l))))) n d m f := by
  have hlen : ∀ w ∈ (lanesOf t.size m).map (fun l => (l, wordsOf n (f l))), w.2.length = n := by simp
  refine ⟨Team.regsOnly_putLanes _, hu.putLanes _, fun l r hr => ?_, fun k _ => ?_, fun h => by simp [isS_of_isV hv] at h⟩
  · split
    next h =>
      obtain ⟨-, hl, h1, h2⟩ := h
      refine Team.tget_putLanes_of_mem (w := (l, wordsOf n (f l))) hlen hd ?_ (List.mem_map.2 ⟨l, hl, rfl⟩) h1 h2
      simpa [Function.comp_def] using lanesOf_nodup t.size m
    next h =>
      refine Team.tget_putLanes_of_not_mem _ hlen hd hr ?_
      simpa [hv] using h
  · exact congrArg (tget 0 · k) (Team.putLanes_s ..)

/-- Scalars, from the lowest lane. -/
theorem delivered_srun {l₀ : Nat} (hv : isV d = false) (hs : isS d = true) (h₀ : (lanesOf t.size m).head? = some l₀) :
    t.Delivered (t.srun (sNum d) (wordsOf n (f l₀))) n d m f := by
  have hne : lanesOf t.size m ≠ [] := by rintro h; simp [h] at h₀
  obtain ⟨hkeep, hmarks⟩ := Team.srun_v t (sNum d) (wordsOf n (f l₀))
  refine ⟨Team.regsOnly_srun _ _, ?_, fun l r hr => by simp [hkeep, hv], fun k hk => ?_, fun _ l hl k h1 h2 => ?_⟩
  · have hnow : (t.srun (sNum d) (wordsOf n (f l₀))).now = t.now := by
      obtain ⟨_, _, _, _, _, h⟩ := Team.regsOnly_srun (t := t) (sNum d) (wordsOf n (f l₀))
      rw [h]
    simpa [Team.Undecayed, hmarks, hnow] using hu
  · rw [Team.sget_srun, if_neg (by simpa [hs, hne] using hk)]
  · rw [h₀, Option.some.injEq] at hl
    rw [Team.sget_srun, if_pos ⟨h1, by simpa using h2⟩, hl]

/-- No register: z discards, and so does a scalar where no lane qualifies. -/
theorem delivered_self (hv : isV d = false) (hs : isS d = false ∨ lanesOf t.size m = []) : t.Delivered t n d m f := by
  refine ⟨.refl t, hu, fun l r hr => by simp [hv], fun k _ => rfl, fun h l hl => ?_⟩
  rcases hs with hs | hs
  · simp [hs] at h
  · simp [hs] at hl

end

/-- The results of lanes written to the destination of a team without bindings, outside regions. -/
theorem writeDest_delivered {s : State} {wd : Bool} {d : Code} {m : Mask} {f : Nat → Nat} {also : Team → List Nat → Team} {t : Team}
    (hb : s.cur.bindings = []) (hd : dstOk s.cur wd d = true) (ht : also s.cur (destLanes s.cur.size m d) = t)
    (hreg : t.inRegion = false) (hsize : t.size = s.cur.size) (hu : t.Undecayed) :
    ∃ u, s.writeDest wd d ((destLanes s.cur.size m d).map (fun l => (l, wordsOf (regs wd) (f l)))) also = .done (s.setCur u) ∧
      t.Delivered u (regs wd) d m f := by
  have hlanes : ((destLanes s.cur.size m d).map (fun l => (l, wordsOf (regs wd) (f l)))).map (fun w => w.1) =
      destLanes s.cur.size m d := by simp [Function.comp_def]
  rcases dstOk_cases hd with ⟨hv, hs, hd96⟩ | ⟨hv, hs, -⟩ | ⟨hv, hs⟩
  · refine ⟨_, ?_, delivered_putLanes hu hv hd96⟩
    rw [State.writeDest, if_pos hv, writeLanes_unbound hb (by rw [hlanes, ht, hreg]), hlanes, ht, hsize]
    simp [destLanes, hs]
  · cases h₀ : (lanesOf s.cur.size m).head? with
    | none =>
      refine ⟨t, ?_, delivered_self hu hv (.inr (by simpa [List.head?_eq_none_iff, hsize] using h₀))⟩
      simp [State.writeDest, hv, hs, ← ht, destLanes, h₀]
    | some l₀ =>
      refine ⟨_, ?_, delivered_srun hu hv hs (by rw [hsize, h₀])⟩
      simp [State.writeDest, hv, hs, ← ht, destLanes, h₀]
      rfl
  · refine ⟨t, ?_, delivered_self hu hv (.inl hs)⟩
    rw [State.writeDest, hv, if_neg (by simp), hlanes, ht, hs, if_neg (by simp)]

section
variable {s : State} {wd : Bool} {d : Code} {m : Mask} {res : Nat → LaneRes} {f : Nat} {joint : Bool}

/-- Where there is a lane, there is one that the destination is evaluated for. -/
theorem destLanes_ne_nil {size : Nat} (h : lanesOf size m ≠ []) : destLanes size m d ≠ [] := by
  unfold destLanes
  split
  · simpa [List.head?_eq_none_iff] using h
  · exact h

/-- Results of a mask's lanes that no enabled exception stops reach the destination (R58, R86, R87). -/
theorem finishLanes_delivered (hreg : s.cur.inRegion = false) (hshort : s.cur.shortLived = []) (hb : s.cur.bindings = [])
    (hd : dstOk s.cur wd d = true) (hf : ∀ l ∈ lanesOf s.cur.size m, (res l).flags = f)
    (hne : lanesOf s.cur.size m ≠ [] ∨ f = 0) (htrap : s.cur.trapping f = 0) :
    ∃ gen u, s.finishLanes wd d (regs wd) ((destLanes s.cur.size m d).map (fun l => (l, res l))) joint = .done (s.setCur u) ∧
      (s.cur.raised gen f).Delivered u (regs wd) d m (fun l => (res l).bits) := by
  have hfl : ∀ l ∈ destLanes s.cur.size m d, (res l).flags = f := fun l hl => hf l (mem_lanesOf_of_destLanes hl)
  obtain ⟨gen, hgen⟩ := takeResults_uniform (t := s.cur) (rs := (destLanes s.cur.size m d).map (fun l => (l, res l))) (f := f)
    (by simpa using hfl) (hne.imp_left fun h => by simpa using destLanes_ne_nil h)
  obtain ⟨u, hu, hdel⟩ := writeDest_delivered (t := s.cur.raised gen f) (m := m) (f := fun l => (res l).bits)
    (also := fun t lanes => t.takeResults ((destLanes s.cur.size m d).map (fun l => (l, res l))) lanes) hb hd
    (by simpa [Function.comp_def] using hgen) hreg rfl (Team.undecayed_of_nil hshort)
  refine ⟨gen, u, ?_, hdel⟩
  rw [← hu]
  have hquiet : ((destLanes s.cur.size m d).map (fun l => (l, res l))).filter
      (fun r => decide (s.cur.trapping r.2.flags ≠ 0)) = [] := by
    rw [List.filter_eq_nil_iff]
    simp only [List.forall_mem_map]
    intro l hl
    simp [hfl l hl, htrap]
  simp only [State.finishLanes]
  rw [hquiet, if_neg (by simp [State.boundConds, Team.destStoresOf, hb, State.stage1Conds_nil])]
  simp [Function.comp_def]

/-- Results that raise an enabled exception raise FPE with it, and nothing is written (R58, R87). -/
theorem finishLanes_trap (hb : s.cur.bindings = []) (hf : ∀ l ∈ lanesOf s.cur.size m, (res l).flags = f)
    (hne : lanesOf s.cur.size m ≠ []) (htrap : s.cur.trapping f ≠ 0) :
    ∃ c cs, s.finishLanes wd d (regs wd) ((destLanes s.cur.size m d).map (fun l => (l, res l))) joint = .trap s (c :: cs) 0 ∧
      ∀ x ∈ c :: cs, x.2 = tFPE f := by
  have hfl : ∀ l ∈ destLanes s.cur.size m d, (res l).flags = f := fun l hl => hf l (mem_lanesOf_of_destLanes hl)
  have hloud : ((destLanes s.cur.size m d).map (fun l => (l, res l))).filter
      (fun r => decide (s.cur.trapping r.2.flags ≠ 0)) = (destLanes s.cur.size m d).map (fun l => (l, res l)) := by
    rw [List.filter_eq_self]
    simp only [List.forall_mem_map]
    intro l hl
    simp [hfl l hl, htrap]
  obtain ⟨l, ls, hl⟩ := List.exists_cons_of_ne_nil (destLanes_ne_nil (d := d) hne)
  simp only [State.finishLanes]
  rw [hloud, foldl_flags_uniform (by simpa using hfl) (by simpa using destLanes_ne_nil hne)]
  have hbound : ∀ ws, s.boundConds wd d ws = [] := by
    simp [State.boundConds, Team.destStoresOf, hb, State.stage1Conds_nil]
  rw [hbound, hl, if_pos (by simp)]
  exact ⟨_, _, rfl, by simp⟩

end

/-! ## The whole instruction -/

/-- The results as operands: the destination in each lane, or the scalar of the lowest. -/
theorem Team.Delivered.reads {t u : Team} {wd : Bool} {d : Code} {m : Mask} {f : Nat → Nat} (h : t.Delivered u (regs wd) d m f)
    (hd : dstOk t wd d = true) :
    (isV d = true → ∀ l ∈ lanesOf t.size m, u.advance.opndN wd l d = f l % 2 ^ destWidth wd) ∧
      (isS d = true → ∀ l, (lanesOf t.size m).head? = some l → ∀ k, u.advance.opndN wd k d = f l % 2 ^ destWidth wd) := by
  constructor
  · intro hv l hl
    obtain ⟨-, -, hd96⟩ | ⟨hv', -⟩ | ⟨hv', -⟩ := dstOk_cases hd
    · refine opndN_of_vectorWords hv hd96 fun r h1 h2 => ?_
      rw [h.undecayed.advance.vget, Team.advance_v, h.vector l r (by omega), if_pos ⟨hv, hl, h1, h2⟩]
    all_goals simp [hv'] at hv
  · intro hs l hl k
    obtain ⟨-, hs', -⟩ | ⟨hv, -, hd24⟩ | ⟨-, hs'⟩ := dstOk_cases hd
    · simp [hs'] at hs
    · refine opndN_of_scalarWords hv hs hd24 fun k h1 h2 => ?_
      rw [Team.sget, Team.advance_s]
      exact h.scalar hs l hl k h1 h2
    · simp [hs'] at hs

/-- Results delivered, and the next instruction: what else has changed is exception flags (R86, R87). -/
theorem Team.Delivered.regFrame {s : State} {u : Team} {n : Nat} {d : Code} {m : Mask} {f : Nat → Nat} {gen : Table Word} {flags : Nat}
    (h : (s.cur.raised gen flags).Delivered u n d m f)
    (hu : s.cur.Undecayed) : RegFrame s (s.setCur u.advance) n d m := by
  obtain ⟨hp, hmode, hmask, hstack, hstep, hflags, hbind, htstat⟩ := h.regsOnly.kept
  obtain ⟨hpc, hidx, hclause⟩ := h.regsOnly.place
  refine ⟨fun l r hr hn => ?_, fun k hn => ?_, u.advance_p.trans hp, ⟨u.advance_mode.trans hmode, u.advance_mask.trans hmask,
    u.advance_stack.trans hstack, u.advance_stepctl.trans hstep⟩, ⟨u.advance_flags.trans hflags, u.advance_bindings.trans hbind⟩,
    ⟨BitVec.ofNat 5 flags, ?_⟩, ?_, Team.advance_place hpc hidx hclause, fun _ => rfl, rfl⟩
  · rw [State.setCur_cur, h.undecayed.advance.vget, hu.vget, Team.advance_v, h.vector l r hr]
    refine if_neg ?_
    rintro ⟨hv, hl, h1, h2⟩
    obtain ⟨hl, hm⟩ := mem_lanesOf.1 hl
    exact hn ⟨hv, h1, h2, hl, hm⟩
  · rw [State.setCur_cur, Team.sget, Team.advance_s]
    refine h.scalarKept k fun ⟨hs, h1, h2, hne⟩ => hn ⟨hs, h1, h2, ?_⟩
    obtain ⟨l, hl⟩ := List.exists_mem_of_ne_nil _ hne
    exact ⟨l, mem_lanesOf.1 hl⟩
  · rw [State.setCur_cur, Team.advance_tstat, htstat]
    refine congrArg (s.cur.tstat ||| ·) (BitVec.eq_of_toNat_eq ?_)
    simp only [BitVec.toNat_ofNat, BitVec.toNat_setWidth]
  · obtain ⟨hpc, hinfo, hfm, hsm, hsk⟩ := h.regsOnly.fault
    exact ⟨u.advance_faultPc.trans hpc, u.advance_faultInfo.trans hinfo, u.advance_faultMask.trans hfm,
      u.advance_saveMode.trans hsm, u.advance_saveMask.trans hsk⟩

section
variable {s : State} {i : Instr} {sp : Spec} {uses : Uses} {conds : Team → State → List Cond} {run : State → Res} {wd : Bool}
  {d : Code} {m : Mask} {res : Nat → LaneRes} {f : Nat} {joint : Bool}
  (hp : s.plain = true) (hb : s.cur.bindings = []) (he : exec i s = issue sp uses conds run s) (hsp : sp.conds s.cur = [])
  (hc : conds s.cur s = [])
  (hrun : run s = s.finishLanes wd d (regs wd) ((destLanes s.cur.size m d).map (fun l => (l, res l))) joint)
  (hf : ∀ l ∈ lanesOf s.cur.size m, (res l).flags = f)
include hp hb he hsp hc hrun hf

/-- An instruction whose lanes' results no enabled exception stops (R58, R86, R87). -/
theorem exec_delivers (hd : dstOk s.cur wd d = true) (hne : lanesOf s.cur.size m ≠ [] ∨ f = 0) (htrap : s.cur.trapping f = 0) :
    ∃ t, exec i s = .next t ∧ RegFrame s t (regs wd) d m ∧ t.cur.tstat = s.cur.tstat ||| BitVec.ofNat 32 (f % 32) ∧
      (isV d = true → ∀ l ∈ lanesOf s.cur.size m, t.cur.opndN wd l d = (res l).bits % 2 ^ destWidth wd) ∧
      (isS d = true → ∀ l, (lanesOf s.cur.size m).head? = some l → ∀ k, t.cur.opndN wd k d = (res l).bits % 2 ^ destWidth wd) := by
  obtain ⟨-, -, -, -, -, hreg, -, -, -, -, hshort, -⟩ := (State.plain_iff s).1 hp
  obtain ⟨gen, u, hu, hdel⟩ := finishLanes_delivered (joint := joint) hreg hshort hb hd hf hne htrap
  obtain ⟨-, -, -, -, -, -, -, htstat⟩ := hdel.regsOnly.kept
  obtain ⟨hvec, hsca⟩ := hdel.reads hd
  exact ⟨_, he.trans (issue_done_cur hp hsp hc (hrun.trans hu)), hdel.regFrame (Team.undecayed_of_nil hshort),
    u.advance_tstat.trans htstat, hvec, hsca⟩

/-- An instruction with an enabled exception in every lane: FPE (R58, R87). -/
theorem exec_traps_fpe (hh : s.hasHandler = true) (hne : lanesOf s.cur.size m ≠ []) (htrap : s.cur.trapping f ≠ 0) :
    TrapsHere i s (tFPE f) := by
  obtain ⟨c, cs, hcs, hall⟩ := finishLanes_trap (wd := wd) (d := d) (joint := joint) hb hf hne htrap
  refine ⟨s.raise (c :: cs) 0, ?_, raise_entered hh (lowestTrap_eq_some (List.mem_map.2 ⟨c, by simp, hall c (by simp)⟩) ?_)⟩
  · rw [he, issue_plain hp hsp hc, hrun, hcs]
    simp [State.conclude]
  · intro x hx
    obtain ⟨y, hy, rfl⟩ := List.mem_map.1 hx
    exact .inl (hall y hy)

end

end Sys2Proof.Machine
end

section
/-! SUPPORT. Integers of a width (R56, R57, R99, R100): the model's arithmetic is the exact arithmetic of the statements. -/

namespace Sys2Proof.Machine

/-! ## Values of a width (R56) -/

/-- The delivery of an exact integer. -/
theorem fit_eq_intResult (w : Nat) (sg sat : Bool) (v : Int) : fit w sg sat v = intResult w sg sat v := by
  cases sg <;> simp [fit, intResult, wrapInt, clampInt, intMin, intMax]

/-- Without SAT an exact integer wraps. -/
theorem fit_eq_wrapInt (w : Nat) (sg : Bool) (v : Int) : fit w sg false v = wrapInt w v := by
  simp [fit, wrapInt]

/-- A wrapped integer is below the limit of its width. -/
theorem wrapInt_lt (w : Nat) (v : Int) : wrapInt w v < 2 ^ w := by
  have hpos : (0 : Int) < (2 ^ w : Nat) := by positivity
  have hlt := Int.emod_lt_of_pos v hpos
  have hnonneg := Int.emod_nonneg v hpos.ne'
  push_cast at hlt hnonneg
  simp only [wrapInt]
  zify
  omega

/-- So is a delivered one. -/
theorem fit_lt (w : Nat) (sg sat : Bool) (v : Int) : fit w sg sat v < 2 ^ w := fit_eq_intResult w sg sat v ▸ wrapInt_lt ..

/-- A number wraps to its remainder. -/
theorem wrapInt_natCast (w x : Nat) : wrapInt w (x : Int) = x % 2 ^ w := by
  rw [wrapInt]
  norm_cast

/-- A value wraps to its own bits. -/
theorem wrapInt_toInt {w x : Nat} (sg : Bool) (hx : x < 2 ^ w) : wrapInt w (toInt w sg x) = x := by
  rw [wrapInt, toInt_emod, ← wrapInt, wrapInt_natCast, Nat.mod_eq_of_lt hx]

/-- Values of different bits differ. -/
theorem toInt_injective {w x y : Nat} {sg : Bool} (hx : x < 2 ^ w) (hy : y < 2 ^ w) (h : toInt w sg x = toInt w sg y) : x = y := by
  rw [← wrapInt_toInt sg hx, h, wrapInt_toInt sg hy]

/-- A value lies in the range of its type. -/
theorem toInt_range {w x : Nat} (sg : Bool) (hw : 0 < w) (hx : x < 2 ^ w) : intMin w sg ≤ toInt w sg x ∧ toInt w sg x ≤ intMax w sg := by
  have h2 := Nat.two_pow_pred_mul_two hw
  have hz : ((2 ^ w : Nat) : Int) = 2 ^ w := by simp
  have hz' : ((2 ^ (w - 1) : Nat) : Int) = 2 ^ (w - 1) := by simp
  cases sg
  · simp only [intMin, intMax, toInt, Bool.false_and, Bool.false_eq_true, if_false]
    omega
  · simp only [intMin, intMax, toInt, Bool.true_and, decide_eq_true_eq, if_true]
    split <;> omega

/-! ## Operations of two operands (R57, R95) -/

section
variable {w x y : Nat} (hw : 0 < w) (hx : x < 2 ^ w) (hy : y < 2 ^ w)
include hw hx hy

/-- Sum. -/
theorem intBin_add (sg sat : Bool) : intBin .add w sg sat x y = fit w sg sat (asInt w sg x + asInt w sg y) := by
  rw [← toInt_eq_asInt hw sg hx, ← toInt_eq_asInt hw sg hy, fit_eq_intResult]
  rfl

/-- Difference. -/
theorem intBin_sub (sg sat : Bool) : intBin .sub w sg sat x y = fit w sg sat (asInt w sg x - asInt w sg y) := by
  rw [← toInt_eq_asInt hw sg hx, ← toInt_eq_asInt hw sg hy, fit_eq_intResult]
  rfl

/-- Product. -/
theorem intBin_mul (sg sat : Bool) : intBin .mul w sg sat x y = fit w sg sat (asInt w sg x * asInt w sg y) := by
  rw [← toInt_eq_asInt hw sg hx, ← toInt_eq_asInt hw sg hy, fit_eq_intResult]
  rfl

/-- The high half of the product, wrapped under SAT too. -/
theorem intBin_mulh (sg sat : Bool) :
    intBin .mulh w sg sat x y = fit w sg false (asInt w sg x * asInt w sg y / (2 ^ w : Nat)) := by
  rw [← toInt_eq_asInt hw sg hx, ← toInt_eq_asInt hw sg hy, fit_eq_wrapInt, Nat.cast_pow]
  rfl

/-- Quotient. -/
theorem intBin_div (sg sat : Bool) : intBin .div w sg sat x y = divResult w sg sat (asInt w sg x) (asInt w sg y) := by
  rw [← toInt_eq_asInt hw sg hx, ← toInt_eq_asInt hw sg hy, divResult, fit_eq_intResult]
  rfl

/-- Remainder. -/
theorem intBin_rem (sg sat : Bool) : intBin .rem w sg sat x y = remResult w sg (asInt w sg x) (asInt w sg y) := by
  rw [← toInt_eq_asInt hw sg hx, ← toInt_eq_asInt hw sg hy, remResult, fit_eq_wrapInt]
  simp only [intBin, intRem]
  split <;> rfl

/-- The lesser operand. -/
theorem intBin_min (sg sat : Bool) : intBin .min w sg sat x y = fit w sg false (min (asInt w sg x) (asInt w sg y)) := by
  rw [← toInt_eq_asInt hw sg hx, ← toInt_eq_asInt hw sg hy, fit_eq_wrapInt]
  simp only [intBin]
  split
  next h => rw [min_eq_left h, wrapInt_toInt sg hx]
  next h => rw [min_eq_right (by omega), wrapInt_toInt sg hy]

/-- The greater operand. -/
theorem intBin_max (sg sat : Bool) : intBin .max w sg sat x y = fit w sg false (max (asInt w sg x) (asInt w sg y)) := by
  rw [← toInt_eq_asInt hw sg hx, ← toInt_eq_asInt hw sg hy, fit_eq_wrapInt]
  simp only [intBin]
  split
  next h => rw [max_eq_left h, wrapInt_toInt sg hx]
  next h => rw [max_eq_right (by omega), wrapInt_toInt sg hy]

end

/-! ## Operations of one operand (R96) -/

section
variable {w x : Nat} (hw : 0 < w) (hx : x < 2 ^ w)
include hw hx

/-- Magnitude. -/
theorem intUn_abs (sg sat : Bool) : intUn .abs w sg sat x = fit w sg sat |asInt w sg x| := by
  rw [← toInt_eq_asInt hw sg hx, fit_eq_intResult, ← Int.natCast_natAbs]
  rfl

/-- The other sign. -/
theorem intUn_neg (sg sat : Bool) : intUn .neg w sg sat x = fit w sg sat (-asInt w sg x) := by
  rw [← toInt_eq_asInt hw sg hx, fit_eq_intResult]
  rfl

omit hw in
/-- The powers of two that a number reaches are those up to its leading bit. -/
theorem length_filter_two_pow_le : ((List.range w).filter (fun k => decide (2 ^ k ≤ x))).length = if x = 0 then 0 else Nat.log2 x + 1 := by
  by_cases h0 : x = 0
  · simp [h0]
  · have hlog : Nat.log2 x < w := (Nat.log2_lt h0).2 hx
    have hle (k : Nat) : 2 ^ k ≤ x ↔ k < Nat.log2 x + 1 := by rw [Nat.lt_succ_iff, Nat.le_log2 h0]
    simp only [hle, if_neg h0]
    rw [← List.Ico.zero_bot, List.Ico.filter_lt, List.Ico.length]
    omega

omit hw in
/-- Leading zeros. -/
theorem clzElem_eq : clzElem w x = w - ((List.range w).filter (fun k => decide (2 ^ k ≤ x))).length := by
  rw [length_filter_two_pow_le hx, clzElem]
  split <;> omega

end

/-! ## Shifts (R99) -/

section
variable {w x : Nat} (hw : 0 < w) (hx : x < 2 ^ w)
include hw hx

/-- A value other than zero that is shifted by its width or more is out of range, on the side of its sign. -/
theorem clampInt_shifted (sg : Bool) {n : Nat} (hn : w ≤ n) : clampInt w sg (toInt w sg x * 2 ^ n) =
    if toInt w sg x < 0 then intMin w sg else if 0 < toInt w sg x then intMax w sg else 0 := by
  have h2 := Nat.two_pow_pred_mul_two hw
  have hz : ((2 ^ w : Nat) : Int) = 2 ^ w := by simp
  have hz' : ((2 ^ (w - 1) : Nat) : Int) = 2 ^ (w - 1) := by simp
  have hpos : 0 < 2 ^ (w - 1) := by positivity
  have hbig : (2 ^ w : Int) ≤ 2 ^ n := pow_le_pow_right₀ (by norm_num) hn
  have hneg : toInt w sg x < 0 → sg = true := by
    intro h
    by_contra hs
    simp [toInt, hs] at h
    omega
  have hrange : -(2 ^ w : Int) < intMin w sg ∧ intMin w sg ≤ 0 ∧ 0 ≤ intMax w sg ∧ intMax w sg < 2 ^ w := by
    cases sg <;> simp only [intMin, intMax, Bool.false_eq_true, if_false, if_true] <;> omega
  unfold clampInt
  rcases lt_trichotomy (toInt w sg x) 0 with h | h | h
  · have : toInt w sg x * 2 ^ n ≤ -(2 ^ n) := by nlinarith
    rw [if_pos h, min_eq_right (by omega), max_eq_left (by omega)]
  · simp only [h, zero_mul, lt_self_iff_false, if_false]
    omega
  · have : (2 ^ n : Int) ≤ toInt w sg x * 2 ^ n := by nlinarith
    rw [if_neg (by omega), if_pos h, min_eq_left (by omega), max_eq_right (by omega)]

/-- SHL, for every count. -/
theorem shlElem_eq (sg sat : Bool) (n : Nat) : shlElem w sg sat x n = fit w sg sat (asInt w sg x * 2 ^ n) := by
  rw [← toInt_eq_asInt hw sg hx, fit_eq_intResult, shlElem, intResult]
  have hmod : wrapInt w (toInt w sg x * 2 ^ n) = (x * 2 ^ n) % 2 ^ w := by
    rw [wrapInt, Int.mul_emod, toInt_emod, ← Int.mul_emod]
    norm_cast
  split
  next hn =>
    cases sat
    · simp [hmod, Nat.shiftLeft_eq]
    · simp
  next hn =>
    cases sat
    · obtain ⟨k, rfl⟩ := Nat.exists_eq_add_of_le (Nat.le_of_not_lt hn)
      have hz : x * 2 ^ (w + k) % 2 ^ w = 0 := by rw [pow_add, Nat.mul_left_comm, Nat.mul_mod_right]
      simp only [Bool.false_and, Bool.false_eq_true, if_false, hmod, hz]
    · have hzero : toInt w sg x = 0 ↔ x = 0 := by
        refine ⟨fun h => toInt_injective hx (by positivity) (h.trans ?_), fun h => ?_⟩ <;> simp_all [toInt]
      simp only [if_true, Bool.true_and, decide_eq_true_eq, clampInt_shifted hw hx sg (Nat.le_of_not_lt hn)]
      by_cases h0 : x = 0
      · rw [if_neg (by simp [h0]), hzero.2 h0]
        simp [wrapInt]
      · have : toInt w sg x ≠ 0 := fun h => h0 (hzero.1 h)
        rw [if_pos h0]
        congr 1
        split
        · rfl
        · rw [if_pos (by omega)]

omit hw in
/-- SHR, for every count. -/
theorem shrElem_eq (n : Nat) : shrElem w x n = x / 2 ^ n := by
  unfold shrElem
  split
  · exact Nat.shiftRight_eq_div_pow x n
  · exact (Nat.div_eq_of_lt (hx.trans_le (Nat.pow_le_pow_right (by omega) (by omega)))).symm

/-- SRA, for every count: beyond the width every bit is the sign. -/
theorem sraElem_eq (n : Nat) : sraElem w x n = fit w true false (asInt w true x / 2 ^ n) := by
  rw [← toInt_eq_asInt hw true hx, fit_eq_wrapInt, sraElem]
  by_cases hn : n ≤ w
  · rw [min_eq_left hn]
  · rw [min_eq_right (by omega)]
    congr 1
    have hr := toInt_range true hw hx
    have hp1 : (2 ^ (w - 1) : Int) ≤ 2 ^ w := pow_le_pow_right₀ (by norm_num) (by omega)
    have hp2 : (2 ^ w : Int) ≤ 2 ^ n := pow_le_pow_right₀ (by norm_num) (by omega)
    simp only [intMin, intMax, if_true] at hr
    by_cases h0 : 0 ≤ toInt w true x
    · rw [Int.ediv_eq_zero_of_lt h0 (by omega), Int.ediv_eq_zero_of_lt h0 (by omega)]
    · rw [Int.ediv_eq_neg_one_of_neg_of_le (by omega) (by omega), Int.ediv_eq_neg_one_of_neg_of_le (by omega) (by omega)]

end

/-! ## Fields (R100) -/

/-- The field of a control word. -/
theorem fieldOf_eq (w ctl : Nat) : fieldOf w ctl =
    (ctl % 128, if ctl % 128 < w then min (ctl / 256 % 128) (w - ctl % 128) else 0) := by
  simp [fieldOf, bits, Nat.shiftRight_eq_div_pow]

/-- A field lies within the width, or is empty. -/
theorem fieldOf_le (w ctl : Nat) : (fieldOf w ctl).2 = 0 ∨ (fieldOf w ctl).1 + (fieldOf w ctl).2 ≤ w := by
  rw [fieldOf_eq]
  dsimp only
  split <;> omega

/-- BFX: the field as a number of its length, signed by TYPE. -/
theorem bfxValue_eq {w : Nat} (sg : Bool) (x ctl : Nat) : bfxValue w sg x ctl =
    fit w sg false (asInt (fieldOf w ctl).2 sg (x / 2 ^ (fieldOf w ctl).1 % 2 ^ (fieldOf w ctl).2)) := by
  have hle : (fieldOf w ctl).2 ≤ w := by have := fieldOf_le w ctl; omega
  generalize hf : fieldOf w ctl = f at hle ⊢
  obtain ⟨pos, len⟩ := f
  have hv : x / 2 ^ pos % 2 ^ len < 2 ^ len := Nat.mod_lt _ (by positivity)
  have hvw : x / 2 ^ pos % 2 ^ len < 2 ^ w := hv.trans_le (Nat.pow_le_pow_right (by omega) hle)
  simp only [bfxValue, hf, bits, Nat.shiftRight_eq_div_pow, fit_eq_wrapInt]
  by_cases h0 : len = 0
  · subst h0
    simp [asInt, wrapInt, Nat.mod_one]
  · rw [← toInt_eq_asInt (Nat.pos_of_ne_zero h0) sg hv]
    cases sg
    · simp only [toInt, Bool.false_and, Bool.false_eq_true, if_false, wrapInt_natCast, Nat.mod_eq_of_lt hvw]
    · simp [h0]

/-- BFI is below the limit of its width. -/
theorem bfiValue_lt {w old : Nat} (hold : old < 2 ^ w) (x ctl : Nat) : bfiValue w old x ctl < 2 ^ w := by
  have hle := fieldOf_le w ctl
  generalize hf : fieldOf w ctl = f at hle
  obtain ⟨pos, len⟩ := f
  simp only [bfiValue, hf, bits, Nat.shiftRight_zero] at hle ⊢
  rcases hle with rfl | hle
  · have := Nat.mod_add_div' old (2 ^ pos)
    simpa [Nat.mod_one, this] using hold
  · obtain ⟨k, rfl⟩ := Nat.exists_eq_add_of_le hle
    have hhigh : old / 2 ^ (pos + len) < 2 ^ k := Nat.div_lt_of_lt_mul (by rwa [← pow_add])
    have hlow : old % 2 ^ pos + x % 2 ^ len * 2 ^ pos < 2 ^ (pos + len) := by
      have h1 : old % 2 ^ pos < 2 ^ pos := Nat.mod_lt _ (by positivity)
      have h2 : x % 2 ^ len + 1 ≤ 2 ^ len := Nat.mod_lt _ (by positivity)
      calc old % 2 ^ pos + x % 2 ^ len * 2 ^ pos < (x % 2 ^ len + 1) * 2 ^ pos := by rw [Nat.add_mul, Nat.one_mul]; omega
        _ ≤ 2 ^ len * 2 ^ pos := Nat.mul_le_mul_right _ h2
        _ = 2 ^ (pos + len) := by rw [← pow_add, Nat.add_comm]
    calc old % 2 ^ pos + x % 2 ^ len * 2 ^ pos + old / 2 ^ (pos + len) * 2 ^ (pos + len)
        < (old / 2 ^ (pos + len) + 1) * 2 ^ (pos + len) := by rw [Nat.add_mul, Nat.one_mul]; omega
      _ ≤ 2 ^ k * 2 ^ (pos + len) := Nat.mul_le_mul_right _ hhigh
      _ = 2 ^ (pos + len + k) := by rw [← pow_add, Nat.add_comm]

end Sys2Proof.Machine
end

section
/-! SUPPORT. The values of integer arithmetic, bits, shifts, fields, selection and copy (R56, R57, R95, R96, R99–R101). -/

namespace Sys2Proof.Machine

/-! ## Instructions that compute -/

/-- The parts of `State.computes`. -/
theorem State.computes_parts {s : State} (h : s.computes = true) :
    s.plain = true ∧ s.cur.bindings = [] ∧ s.cur.type ≤ 11 ∧ s.cur.tstat.extractLsb' 5 5 = 0 := by
  simpa [State.computes, and_assoc] using h

/-- No exception, nothing enabled. -/
@[simp] theorem Team.trapping_zero (t : Team) : t.trapping 0 = 0 := by simp [Team.trapping]

/-- Outside regions an instruction that carries tags is its body. -/
theorem runTagged_of_plain {s : State} (hp : s.plain = true) (uses : Uses) (d : Code) (tag : Team → Nat → Option RTag)
    (run : State → Res) : runTagged uses d tag run s = run s := by
  obtain ⟨-, -, -, -, -, hreg, -⟩ := (State.plain_iff s).1 hp
  simp [runTagged, hreg]

section
variable {s : State} {i : Instr} {sp : Spec} {uses : Uses} {conds : Team → State → List Cond} {run : State → Res} {wd : Bool}
  {d : Code} {f : Nat → Nat} (hc : s.computes = true) (he : exec i s = issue sp uses conds run s) (hsp : sp.conds s.cur = [])
  (hconds : conds s.cur s = []) (hd : dstOk s.cur wd d = true)
include hc he hsp hconds hd

/-- Results of the contributing lanes without exceptions are what the instruction gives. -/
theorem gives_of_finishLanes {res : Nat → LaneRes} {joint : Bool}
    (hrun : run s = s.finishLanes wd d (regs wd) ((s.cur.evalLanes d).map (fun l => (l, res l))) joint)
    (hres : ∀ l ∈ lanesOf s.cur.size s.cur.contrib, (res l).flags = 0 ∧ (res l).bits = f l ∧ f l < 2 ^ destWidth wd) :
    Gives i s wd d f := by
  rw [evalLanes_eq] at hrun
  obtain ⟨hp, hb, -⟩ := State.computes_parts hc
  obtain ⟨t, ht, hframe, -, hvec, hsca⟩ := exec_delivers (m := s.cur.contrib) (f := 0) hp hb he hsp hconds hrun
    (fun l hl => (hres l hl).1) hd (.inr rfl) s.cur.trapping_zero
  have hval : ∀ l ∈ lanesOf s.cur.size s.cur.contrib, (res l).bits % 2 ^ destWidth wd = f l := fun l hl => by
    rw [(hres l hl).2.1, Nat.mod_eq_of_lt (hres l hl).2.2]
  refine ⟨t, ht, ⟨fun hv l hl hm => ?_, fun hs l hl => ?_⟩, hframe⟩
  · rw [hvec hv l (mem_lanesOf.2 ⟨hl, hm⟩), hval l (mem_lanesOf.2 ⟨hl, hm⟩)]
  · rw [hsca hs l hl, hval l (List.mem_of_mem_head? hl)]

/-- The same for an evaluation under MODE.TYPE (R86). -/
theorem gives_of_evalType {F : Team → Nat → LaneRes} (hwd : wide s.cur.type = wd) (hrun : run s = s.evalType d F)
    (hF : ∀ l, ∃ g, F s.cur l = ⟨f l, 0, g⟩) (hlt : ∀ l, f l < 2 ^ destWidth wd) : Gives i s wd d f := by
  refine gives_of_finishLanes hc he hsp hconds hd (res := F s.cur) (joint := false) (by rw [hrun, ← hwd]; rfl) fun l _ => ?_
  obtain ⟨g, hg⟩ := hF l
  simp [hg, hlt l]

end

/-! ## TYPEs of one integer (R28, R46) -/

/-- A TYPE of one integer: its width, whether it takes a pair, and whether it is signed. -/
structure IntType (ty w : Nat) (wd sg : Bool) : Prop where
  le : ty ≤ 3
  format : typeFmt ty = none
  count : typeCount ty = 1
  width : typeWidth ty = w
  wide : wide ty = wd
  signed : typeSigned ty = sg
  dest : destWidth wd = w
  pos : 0 < w

/-- i32, u32, i64 and u64, by number. -/
theorem intType_of_le {ty : Nat} (h : ty ≤ 3) :
    IntType ty (if 2 ≤ ty then 64 else 32) (decide (2 ≤ ty)) (decide (ty = 0 ∨ ty = 2)) := by
  interval_cases ty <;> exact ⟨by decide, rfl, rfl, rfl, rfl, rfl, rfl, by decide⟩

/-- The same, by whether the TYPE takes a pair. -/
theorem intType_of_wide {ty : Nat} (h : ty ≤ 3) :
    IntType ty (if wide ty then 64 else 32) (wide ty) (decide (ty = 0 ∨ ty = 2)) := by
  interval_cases ty <;> exact ⟨by decide, rfl, rfl, rfl, rfl, rfl, rfl, by decide⟩

/-- The sweep over an operand of one element: the operation on it, with the lane's next draw. -/
theorem sweepType_one {ty : Nat} (h : typeCount ty = 1) (env : Env) (g : Word) (op : Nat → Env → Elem) :
    ∃ env' g', env'.rnd = env.rnd ∧ env'.sat = env.sat ∧ env'.ftz = env.ftz ∧
      sweepType ty env g op = ⟨(op 0 env').bits, (op 0 env').flags, g'⟩ := by
  refine ⟨{ env with g := nextG g }, if env.rnd == 5 && (op 0 { env with g := nextG g }).drew then nextG g else g, rfl, rfl, rfl, ?_⟩
  rw [sweepType, h]
  simp [sweep]

section
variable {ty w : Nat} {wd sg : Bool} (hI : IntType ty w wd sg)
include hI

/-- The one element of an operand is the operand. -/
theorem elemOf_int {x : Nat} (hx : x < 2 ^ w) : elemOf ty x 0 = x := by
  simp [elemOf, bits, hI.width, Nat.mod_eq_of_lt hx]

/-- The sweep of an operation without rounding. -/
theorem sweepType_int {env : Env} {g : Word} {op : Nat → Env → Elem} {v : Nat} (h : ∀ env', env'.sat = env.sat → op 0 env' = .plain v) :
    ∃ g', sweepType ty env g op = ⟨v, 0, g'⟩ := by
  obtain ⟨env', g', -, hsat, -, hg⟩ := sweepType_one hI.count env g op
  rw [h env' hsat] at hg
  exact ⟨g', hg⟩

/-- An operand of the TYPE. -/
theorem opndN_lt_int (t : Team) (l : Nat) (c : Code) : t.opndN wd l c < 2 ^ w := hI.dest ▸ t.opndN_lt wd l c

/-- One element of a two-operand instruction. -/
theorem binElem_intType (op : BinOp) (env : Env) (x y : Nat) : binElem op ty env x y = .plain (intBin op w sg env.sat x y) := by
  rw [binElem, hI.format, hI.width, hI.signed]

/-- One element of a one-operand instruction. -/
theorem unElem_intType (op : UnOp) (env : Env) (x : Nat) : unElem op ty env x = .plain (intUn op w sg env.sat x) := by
  rw [unElem, hI.format, hI.width, hI.signed]

/-- One element of MAC. -/
theorem macElem_intType (env : Env) (x y z : Nat) :
    macElem ty env x y z = .plain (intResult w sg env.sat (toInt w sg x * toInt w sg y + toInt w sg z)) := by
  rw [macElem, hI.format, hI.width, hI.signed]

end

section
variable {s : State} {i : Instr} {sp : Spec} {uses : Uses} {conds : Team → State → List Cond} {run : State → Res} {w : Nat}
  {wd sg : Bool} {d a b : Code} {f : Nat → Nat} (hI : IntType s.cur.type w wd sg) (hc : s.computes = true)
  (he : exec i s = issue sp uses conds run s) (hsp : sp.conds s.cur = []) (hconds : conds s.cur s = [])
  (hd : dstOk s.cur wd d = true) (hlt : ∀ l, f l < 2 ^ w)
include hI hc he hsp hconds hd hlt

/-- A two-operand instruction gives what its operation gives (R95). -/
theorem binary_gives {op : BinOp} (hrun : run s = State.binary op d a b s)
    (hf : ∀ l, intBin op w sg s.cur.sat (s.cur.opndN wd l a) (s.cur.opndN wd l b) = f l) : Gives i s wd d f := by
  refine gives_of_evalType hc he hsp hconds hd hI.wide hrun (fun l => ?_) (by rwa [hI.dest])
  refine sweepType_int hI fun env hsat => ?_
  rw [hI.wide, elemOf_int hI (opndN_lt_int hI ..), elemOf_int hI (opndN_lt_int hI ..), binElem_intType hI, hsat]
  exact congrArg Elem.plain (hf l)

/-- A one-operand instruction gives what its operation gives (R96). -/
theorem unary_gives {op : UnOp} (hrun : run s = State.unary op d a s)
    (hf : ∀ l, intUn op w sg s.cur.sat (s.cur.opndN wd l a) = f l) : Gives i s wd d f := by
  refine gives_of_evalType hc he hsp hconds hd hI.wide hrun (fun l => ?_) (by rwa [hI.dest])
  refine sweepType_int hI fun env hsat => ?_
  rw [hI.wide, elemOf_int hI (opndN_lt_int hI ..), unElem_intType hI, hsat]
  exact congrArg Elem.plain (hf l)

/-- A shift gives what its function gives (R99). -/
theorem shifts_gives {g : Nat → Bool → Bool → Nat → Nat → Nat} (hrun : run s = State.shifts g d a b s)
    (hf : ∀ l, g w sg s.cur.sat (s.cur.opndN wd l a) (s.cur.opndN wd l b) = f l) : Gives i s wd d f := by
  refine gives_of_evalType hc he hsp hconds hd hI.wide hrun (fun l => ?_) (by rwa [hI.dest])
  refine sweepType_int hI fun env hsat => ?_
  rw [hI.wide, elemOf_int hI (opndN_lt_int hI ..), elemOf_int hI (opndN_lt_int hI ..), hI.width, hI.signed]
  exact congrArg Elem.plain (hf l)

end

/-! ## Operand codes -/

/-- Legal codes under a legal TYPE are no condition: two operands. -/
theorem okBinary_conds {t : Team} {ty : Nat → Bool} {wd : Bool} {d a b : Code} (hwd : wide t.type = wd) (hty : ty t.type = true)
    (hd : dstOk t wd d = true) (ha : srcOk t wd a = true) (hb : srcOk t wd b = true) : okCond (okBinary ty d a b t) = [] := by
  simp [okBinary, hwd, hty, hd, ha, hb]

/-- The same: one operand. -/
theorem okUnary_conds {t : Team} {ty : Nat → Bool} {wd : Bool} {d a : Code} (hwd : wide t.type = wd) (hty : ty t.type = true)
    (hd : dstOk t wd d = true) (ha : srcOk t wd a = true) : okCond (okUnary ty d a t) = [] := by
  simp [okUnary, hwd, hty, hd, ha]

/-- The sets of TYPEs of R88 hold the integers of one element. -/
theorem IntType.listed {ty w : Nat} {wd sg : Bool} (hI : IntType ty w wd sg) :
    tyInt ty = true ∧ tyIntAny ty = true ∧ (sg = true → tySignedFloat ty = true) := by
  refine ⟨decide_eq_true hI.le, ?_, fun hs => ?_⟩
  · rw [tyIntAny, decide_eq_true hI.le, Bool.true_or]
  · rw [tySignedFloat, hI.signed, hs, Bool.true_or]

/-! ## Arithmetic (R56, R57, R95, R96) -/

/-- A quotient is below the limit of its width. -/
theorem divResult_lt (w : Nat) (sg sat : Bool) (x y : Int) : divResult w sg sat x y < 2 ^ w := by
  unfold divResult
  split
  · exact Nat.sub_lt (by positivity) Nat.one_pos
  · exact fit_lt ..

/-- A count of a width's bits is below the limit of the width. -/
theorem length_filter_range_lt (w : Nat) (p : Nat → Bool) : ((List.range w).filter p).length < 2 ^ w :=
  ((List.length_filter_le ..).trans_eq List.length_range).trans_lt w.lt_two_pow_self

section
variable {s : State} {w : Nat} {wd sg : Bool} {d a b : Code} (hI : IntType s.cur.type w wd sg) (hc : s.computes = true)
  (hd : dstOk s.cur wd d = true) (ha : srcOk s.cur wd a = true)
include hI hc hd ha

section
variable (hb : srcOk s.cur wd b = true)
include hb

/-- Sum, difference, product and its high half (R95). -/
theorem sums_give :
    Gives (.add d a b) s wd d (fun l => fit w sg s.cur.sat (asInt w sg (s.cur.opndN wd l a) + asInt w sg (s.cur.opndN wd l b))) ∧
    Gives (.sub d a b) s wd d (fun l => fit w sg s.cur.sat (asInt w sg (s.cur.opndN wd l a) - asInt w sg (s.cur.opndN wd l b))) ∧
    Gives (.mul d a b) s wd d (fun l => fit w sg s.cur.sat (asInt w sg (s.cur.opndN wd l a) * asInt w sg (s.cur.opndN wd l b))) ∧
    Gives (.mulh d a b) s wd d (fun l =>
      fit w sg false (asInt w sg (s.cur.opndN wd l a) * asInt w sg (s.cur.opndN wd l b) / (2 ^ w : Nat))) := by
  obtain ⟨hp, -⟩ := State.computes_parts hc
  have hx (l : Nat) (c : Code) := opndN_lt_int hI s.cur l c
  refine ⟨?_, ?_, ?_, ?_⟩
  · exact binary_gives hI hc rfl rfl (okBinary_conds hI.wide rfl hd ha hb) hd (fun l => fit_lt ..) (runTagged_of_plain hp ..)
      fun l => intBin_add hI.pos (hx l a) (hx l b) ..
  · exact binary_gives hI hc rfl rfl (okBinary_conds hI.wide rfl hd ha hb) hd (fun l => fit_lt ..) (runTagged_of_plain hp ..)
      fun l => intBin_sub hI.pos (hx l a) (hx l b) ..
  · exact binary_gives hI hc rfl rfl (okBinary_conds hI.wide rfl hd ha hb) hd (fun l => fit_lt ..) rfl
      fun l => intBin_mul hI.pos (hx l a) (hx l b) ..
  · exact binary_gives hI hc rfl rfl (okBinary_conds hI.wide hI.listed.2.1 hd ha hb) hd (fun l => fit_lt ..) rfl
      fun l => intBin_mulh hI.pos (hx l a) (hx l b) ..

/-- Product and sum with the destination (R95). -/
theorem mac_gives : Gives (.mac d a b) s wd d (fun l => fit w sg s.cur.sat
    (asInt w sg (s.cur.opndN wd l a) * asInt w sg (s.cur.opndN wd l b) + asInt w sg (s.cur.opndN wd l d))) := by
  have hx (l : Nat) (c : Code) := opndN_lt_int hI s.cur l c
  refine gives_of_evalType hc rfl rfl (okBinary_conds hI.wide rfl hd ha hb) hd hI.wide rfl (fun l => ?_)
    (fun l => hI.dest ▸ fit_lt ..)
  refine sweepType_int hI fun env hsat => ?_
  rw [hI.wide, elemOf_int hI (hx ..), elemOf_int hI (hx ..), elemOf_int hI (hx ..), macElem_intType hI, hsat, fit_eq_intResult,
    toInt_eq_asInt hI.pos sg (hx ..), toInt_eq_asInt hI.pos sg (hx ..), toInt_eq_asInt hI.pos sg (hx ..)]
  rfl

/-- Quotient, remainder, least and greatest (R57, R95). -/
theorem quotients_give :
    Gives (.div d a b) s wd d (fun l => divResult w sg s.cur.sat (asInt w sg (s.cur.opndN wd l a)) (asInt w sg (s.cur.opndN wd l b))) ∧
    Gives (.rem d a b) s wd d (fun l => remResult w sg (asInt w sg (s.cur.opndN wd l a)) (asInt w sg (s.cur.opndN wd l b))) ∧
    Gives (.min d a b) s wd d (fun l => fit w sg false (min (asInt w sg (s.cur.opndN wd l a)) (asInt w sg (s.cur.opndN wd l b)))) ∧
    Gives (.max d a b) s wd d (fun l =>
      fit w sg false (max (asInt w sg (s.cur.opndN wd l a)) (asInt w sg (s.cur.opndN wd l b)))) := by
  have hx (l : Nat) (c : Code) := opndN_lt_int hI s.cur l c
  refine ⟨?_, ?_, ?_, ?_⟩
  · exact binary_gives hI hc rfl rfl (okBinary_conds hI.wide rfl hd ha hb) hd (fun l => divResult_lt ..) rfl
      fun l => intBin_div hI.pos (hx l a) (hx l b) ..
  · exact binary_gives hI hc rfl rfl (okBinary_conds hI.wide rfl hd ha hb) hd (fun l => fit_lt ..) rfl
      fun l => intBin_rem hI.pos (hx l a) (hx l b) ..
  · exact binary_gives hI hc rfl rfl (okBinary_conds hI.wide rfl hd ha hb) hd (fun l => fit_lt ..) rfl
      fun l => intBin_min hI.pos (hx l a) (hx l b) ..
  · exact binary_gives hI hc rfl rfl (okBinary_conds hI.wide rfl hd ha hb) hd (fun l => fit_lt ..) rfl
      fun l => intBin_max hI.pos (hx l a) (hx l b) ..

end

/-- Magnitude and sign, of signed TYPEs (R96). -/
theorem signs_give (hs : sg = true) :
    Gives (.abs d a) s wd d (fun l => fit w sg s.cur.sat |asInt w sg (s.cur.opndN wd l a)|) ∧
    Gives (.neg d a) s wd d (fun l => fit w sg s.cur.sat (-asInt w sg (s.cur.opndN wd l a))) := by
  have hx (l : Nat) (c : Code) := opndN_lt_int hI s.cur l c
  refine ⟨?_, ?_⟩
  · exact unary_gives hI hc rfl rfl (okUnary_conds hI.wide (hI.listed.2.2 hs) hd ha) hd (fun l => fit_lt ..) rfl
      fun l => intUn_abs hI.pos (hx l a) ..
  · exact unary_gives hI hc rfl rfl (okUnary_conds hI.wide (hI.listed.2.2 hs) hd ha) hd (fun l => fit_lt ..) rfl
      fun l => intUn_neg hI.pos (hx l a) ..

/-- Leading zeros and ones (R96). -/
theorem counts_give :
    Gives (.clz d a) s wd d (fun l => w - ((List.range w).filter (fun k => decide (2 ^ k ≤ s.cur.opndN wd l a))).length) ∧
    Gives (.popc d a) s wd d (fun l => ((List.range w).filter (fun k => (s.cur.opndN wd l a).testBit k)).length) := by
  have hx (l : Nat) (c : Code) := opndN_lt_int hI s.cur l c
  refine ⟨?_, ?_⟩
  · exact unary_gives hI hc rfl rfl (okUnary_conds hI.wide hI.listed.2.1 hd ha) hd
      (fun l => (Nat.sub_le ..).trans_lt w.lt_two_pow_self) rfl fun l => clzElem_eq (hx l a)
  · exact unary_gives hI hc rfl rfl (okUnary_conds hI.wide hI.listed.2.1 hd ha) hd (fun l => length_filter_range_lt ..) rfl
      fun l => rfl

/-! ## Shifts and fields (R99, R100) -/

variable (hb : srcOk s.cur wd b = true)
include hb

/-- The shifts, for every count (R99). -/
theorem shifts_give :
    Gives (.shl d a b) s wd d (fun l => fit w sg s.cur.sat (asInt w sg (s.cur.opndN wd l a) * 2 ^ s.cur.opndN wd l b)) ∧
    Gives (.shr d a b) s wd d (fun l => s.cur.opndN wd l a / 2 ^ s.cur.opndN wd l b) ∧
    Gives (.sra d a b) s wd d (fun l => fit w true false (asInt w true (s.cur.opndN wd l a) / 2 ^ s.cur.opndN wd l b)) := by
  have hx (l : Nat) (c : Code) := opndN_lt_int hI s.cur l c
  have hconds := okBinary_conds hI.wide hI.listed.2.1 hd ha hb
  refine ⟨?_, ?_, ?_⟩
  · exact shifts_gives hI hc rfl rfl hconds hd (fun l => fit_lt ..) rfl fun l => shlElem_eq hI.pos (hx l a) ..
  · exact shifts_gives hI hc rfl rfl hconds hd (fun l => (Nat.div_le_self ..).trans_lt (hx l a)) rfl fun l => shrElem_eq (hx l a) _
  · exact shifts_gives hI hc rfl rfl hconds hd (fun l => fit_lt ..) rfl fun l => sraElem_eq hI.pos (hx l a) _

/-- A field of a register taken out, and put in (R100). -/
theorem fields_give :
    Gives (.bfx d a b) s wd d (fun l => bfxValue w sg (s.cur.opndN wd l a) (s.cur.opnd32 l b).toNat) ∧
    Gives (.bfi d a b) s wd d (fun l => bfiValue w (s.cur.opndN wd l d) (s.cur.opndN wd l a) (s.cur.opnd32 l b).toNat) := by
  have hconds := okBinary_conds hI.wide hI.listed.1 hd ha hb
  refine ⟨?_, ?_⟩
  · refine gives_of_evalType hc rfl rfl hconds hd hI.wide rfl (fun l => ⟨s.cur.gget l, ?_⟩) fun l => ?_
    · simp only [hI.width, hI.signed, hI.wide]
    · rw [hI.dest, bfxValue_eq]
      exact fit_lt ..
  · refine gives_of_evalType hc rfl rfl hconds hd hI.wide rfl (fun l => ⟨s.cur.gget l, ?_⟩) fun l => ?_
    · simp only [hI.width, hI.wide]
    · rw [hI.dest]
      exact bfiValue_lt (opndN_lt_int hI ..) ..

end

/-! ## Bits, selection and copy (R99, R101) -/

section
variable {s : State} {d a b : Code} (hc : s.computes = true) (hd : dstOk s.cur (wide s.cur.type) d = true)
  (ha : srcOk s.cur (wide s.cur.type) a = true)
include hc hd ha

/-- A copy (R101). -/
theorem mov_gives : Gives (.mov d a) s (wide s.cur.type) d (fun l => s.cur.opndN (wide s.cur.type) l a) := by
  obtain ⟨hp, -⟩ := State.computes_parts hc
  exact gives_of_evalType hc rfl rfl (okUnary_conds rfl rfl hd ha) hd rfl (runTagged_of_plain hp ..)
    (fun l => ⟨s.cur.gget l, rfl⟩) (fun l => s.cur.opndN_lt ..)

variable (hb : srcOk s.cur (wide s.cur.type) b = true)
include hb

/-- The logical operations (R99). -/
theorem logic_gives :
    Gives (.and d a b) s (wide s.cur.type) d (fun l => s.cur.opndN (wide s.cur.type) l a &&& s.cur.opndN (wide s.cur.type) l b) ∧
    Gives (.or d a b) s (wide s.cur.type) d (fun l => s.cur.opndN (wide s.cur.type) l a ||| s.cur.opndN (wide s.cur.type) l b) ∧
    Gives (.xor d a b) s (wide s.cur.type) d (fun l => s.cur.opndN (wide s.cur.type) l a ^^^ s.cur.opndN (wide s.cur.type) l b) := by
  have hconds := okBinary_conds (ty := tyAll) rfl rfl hd ha hb
  refine ⟨?_, ?_, ?_⟩
  · exact gives_of_evalType hc rfl rfl hconds hd rfl rfl (fun l => ⟨s.cur.gget l, rfl⟩)
      fun l => Nat.and_lt_two_pow _ (s.cur.opndN_lt ..)
  · exact gives_of_evalType hc rfl rfl hconds hd rfl rfl (fun l => ⟨s.cur.gget l, rfl⟩)
      fun l => Nat.or_lt_two_pow (s.cur.opndN_lt ..) (s.cur.opndN_lt ..)
  · exact gives_of_evalType hc rfl rfl hconds hd rfl rfl (fun l => ⟨s.cur.gget l, rfl⟩)
      fun l => Nat.xor_lt_two_pow (s.cur.opndN_lt ..) (s.cur.opndN_lt ..)

omit hc hd ha hb in
/-- The guard of a lane. -/
theorem guardMask_getLsbD (t : Team) {l : Nat} (hl : l < 1024) :
    t.guardMask.getLsbD l = true ↔ t.guardEn = false ∨ (t.pget l t.guardP ^^ t.guardInv) = true := by
  unfold Team.guardMask Team.pget
  cases t.guardEn
  · simp only [Bool.false_eq_true, if_false, BitVec.getLsbD_allOnes, decide_eq_true hl, true_or]
  · cases t.guardInv <;> simp [hl]

/-- SEL takes a or b by the guard, in every active lane (R101). -/
theorem sel_selects : ∃ t, exec (.sel d a b) s = .next t ∧ RegFrame s t (regs (wide s.cur.type)) d s.cur.mask ∧
    (isV d = true → ∀ l ∈ lanesOf s.cur.size s.cur.mask, t.cur.opndN (wide s.cur.type) l d =
      s.cur.opndN (wide s.cur.type) l (if s.cur.guardMask.getLsbD l then a else b)) ∧
    (isS d = true → ∀ l, (lanesOf s.cur.size s.cur.mask).head? = some l → t.cur.opndN (wide s.cur.type) l d =
      s.cur.opndN (wide s.cur.type) l (if s.cur.guardMask.getLsbD l then a else b)) := by
  obtain ⟨hp, hbind, -⟩ := State.computes_parts hc
  obtain ⟨-, -, -, -, -, -, -, honly, -⟩ := (State.plain_iff s).1 hp
  have hact : s.cur.activeMask = s.cur.mask := by simp [Team.activeMask, honly]
  obtain ⟨t, ht, hframe, -, hvec, hsca⟩ := exec_delivers (m := s.cur.activeMask) (f := 0) (joint := false)
    (res := fun l => ⟨s.cur.opndN (wide s.cur.type) l (if s.cur.guardMask.getLsbD l then a else b), 0, s.cur.gget l⟩)
    hp hbind (i := .sel d a b) rfl rfl (okBinary_conds rfl rfl hd ha hb) rfl (fun _ _ => rfl) hd (.inr rfl) s.cur.trapping_zero
  rw [hact] at hframe hvec hsca
  simp only [Nat.mod_eq_of_lt (s.cur.opndN_lt ..)] at hvec hsca
  exact ⟨t, ht, hframe, hvec, fun hs l hl => hsca hs l hl l⟩

end

/-- Settles O20: each instruction gives what exact arithmetic gives. -/
theorem integerAndBitValues : Obligations.IntegerAndBitValues := by
  unfold Obligations.IntegerAndBitValues
  refine ⟨fun s d a b hc hty hd ha hb => ?_, fun s d a b hc hd ha hb => ?_⟩
  · have hI := intType_of_le hty
    obtain ⟨hadd, hsub, hmul, hmulh⟩ := sums_give hI hc hd ha hb
    obtain ⟨hdiv, hrem, hmin, hmax⟩ := quotients_give hI hc hd ha hb
    obtain ⟨hclz, hpopc⟩ := counts_give hI hc hd ha
    exact ⟨hadd, hsub, hmul, hmulh, mac_gives hI hc hd ha hb, hdiv, hrem, hmin, hmax, fun hs => (signs_give hI hc hd ha hs).1,
      fun hs => (signs_give hI hc hd ha hs).2, hclz, hpopc⟩
  · obtain ⟨hand, hor, hxor⟩ := logic_gives hc hd ha hb
    refine ⟨hand, hor, hxor, mov_gives hc hd ha, ?_, fun hty => ?_⟩
    · obtain ⟨t, ht, hframe, hvec, hsca⟩ := sel_selects hc hd ha hb
      have hguard (l : Nat) (hm : s.cur.mask.getLsbD l = true) :
          s.cur.opndN (wide s.cur.type) l (if s.cur.guardMask.getLsbD l then a else b) =
            if s.cur.guardEn = false ∨ (s.cur.pget l s.cur.guardP ^^ s.cur.guardInv) = true
              then s.cur.opndN (wide s.cur.type) l a else s.cur.opndN (wide s.cur.type) l b := by
        have hl : l < 1024 := BitVec.lt_of_getLsbD hm
        simp only [guardMask_getLsbD s.cur hl]
        split <;> rfl
      refine ⟨t, ht, hframe, fun hv l hl hm => ?_, fun hs l hl hm hlow => ?_⟩
      · exact (hvec hv l (mem_lanesOf.2 ⟨hl, hm⟩)).trans (hguard l hm)
      · exact (hsca hs l (lanesOf_head_of_lowest (mem_lanesOf.2 ⟨hl, hm⟩) hlow)).trans (hguard l hm)
    · have hI := intType_of_wide hty
      obtain ⟨hshl, hshr, hsra⟩ := shifts_give hI hc hd ha hb
      obtain ⟨hbfx, hbfi⟩ := fields_give hI hc hd ha hb
      refine ⟨hshl, hshr, hsra, ?_, ?_⟩
      · simpa only [bfxValue_eq, fieldOf_eq] using hbfx
      · convert hbfi using 2 with l
        simp only [bfiValue, fieldOf_eq, bits, Nat.shiftRight_zero]
        ring

end Sys2Proof.Machine
end

section
/-! SUPPORT. Trees and scans over a team (R65, R66): what a node stands for. The facts hold for every operation that neither rounds nor
raises exceptions, and for every property of partial results that the operation composes. -/

namespace Sys2Proof.Machine

/-! ## Values of lanes -/

/-- The values of the lanes that take part, from one lane to below another. -/
def partValues (p : Nat → Bool) (x : Nat → Nat) (lo hi : Nat) : List Nat := ((List.Ico lo hi).filter p).map x

/-- Lanes side by side. -/
theorem partValues_append (p : Nat → Bool) (x : Nat → Nat) {lo mid hi : Nat} (h1 : lo ≤ mid) (h2 : mid ≤ hi) :
    partValues p x lo mid ++ partValues p x mid hi = partValues p x lo hi := by
  rw [partValues, partValues, partValues, ← List.map_append, ← List.filter_append, List.Ico.append_consecutive h1 h2]

/-- A lane of the team contributes. -/
def Team.takesPart (t : Team) (l : Nat) : Bool := t.contrib.getLsbD l && decide (l < t.size)

/-- The contributing lanes below a lane. -/
theorem partValues_zero (t : Team) (x : Nat → Nat) (n : Nat) :
    partValues t.takesPart x 0 n = (t.contribLanes.filter (fun k => decide (k < n))).map x := by
  have hpart : (List.Ico 0 n).filter t.takesPart =
      ((List.Ico 0 n).filter (fun l => decide (l < t.size))).filter (fun l => t.contrib.getLsbD l) := by
    rw [List.filter_filter]
    rfl
  rw [partValues, hpart, List.Ico.filter_lt, Team.contribLanes, lanesOf, List.filter_comm, ← List.Ico.zero_bot, List.Ico.filter_lt,
    min_comm]

/-- All of them. -/
theorem partValues_all (t : Team) (x : Nat → Nat) {n : Nat} (h : t.size ≤ n) :
    partValues t.takesPart x 0 n = t.contribLanes.map x := by
  rw [partValues_zero, List.filter_eq_self.2]
  intro l hl
  have := (t.mem_contribLanes l).1 hl
  exact decide_eq_true (by omega)

/-! ## What a node stands for -/

/-- An operation composes a property of partial results. -/
def Composes (P : List Nat → Nat → Prop) (h : Nat → Nat → Nat) : Prop := ∀ xs ys u v, P xs u → P ys v → P (xs ++ ys) (h u v)

/-- A node stands for values: it is absent where there are none, else its number has the property. -/
def Stands (P : List Nat → Nat → Prop) (xs : List Nat) : Option Nat → Prop
  | none => xs = []
  | some v => P xs v

/-- A node that stands for some value is there. -/
theorem Stands.exists_of_ne_nil {P : List Nat → Nat → Prop} {xs : List Nat} {o : Option Nat} (h : Stands P xs o) (hne : xs ≠ []) :
    ∃ v, o = some v ∧ P xs v := by
  cases o with
  | none => exact absurd h hne
  | some v => exact ⟨v, rfl, h⟩

/-- Two nodes combined, a node with one present child taking its value (R65). -/
theorem Stands.merge {P : List Nat → Nat → Prop} {h : Nat → Nat → Nat} (hP : Composes P h) {xs ys : List Nat} {a b : Option Nat}
    (ha : Stands P xs a) (hb : Stands P ys b) : Stands P (xs ++ ys) (a.merge h b) := by
  cases a with
  | none => cases ha; cases b <;> exact hb
  | some u =>
    cases b with
    | none => cases hb; simpa [Stands] using ha
    | some v => exact hP _ _ _ _ ha hb

/-! ## Levels -/

/-- The level above a level. -/
def pairUp (h : Nat → Nat → Nat) : List (Option Nat) → List (Option Nat)
  | x :: y :: rest => x.merge h y :: pairUp h rest
  | l => l

/-- A node of the level above, from its two children. -/
theorem pairUp_getElem? (h : Nat → Nat → Nat) (l : List (Option Nat)) {i : Nat} {a b : Option Nat} (ha : l[2 * i]? = some a)
    (hb : l[2 * i + 1]? = some b) : (pairUp h l)[i]? = some (a.merge h b) := by
  induction l using pairUp.induct generalizing i with
  | case1 x y rest ih =>
    cases i with
    | zero => simp_all [pairUp]
    | succ i => exact ih (by simpa [Nat.mul_succ] using ha) (by simpa [Nat.mul_succ] using hb)
  | case2 l hl =>
    match l, hl with
    | [], _ => simp at ha
    | [_], _ => simp at hb
    | x :: y :: rest, hl => exact absurd rfl (hl x y rest)

section
variable {P : List Nat → Nat → Prop} {h : Nat → Nat → Nat} (hP : Composes P h) {p : Nat → Bool} {x : Nat → Nat}
  {leaves : List (Option Nat)} {N : Nat}
  (hleaf : ∀ i, i < N → ∃ o, leaves[i]? = some o ∧ Stands P (partValues p x i (i + 1)) o)
include hP hleaf

/-- A node stands for the leaves below it. -/
theorem level_stands (k i : Nat) (hi : (i + 1) * 2 ^ k ≤ N) : ∃ o, ((pairUp h)^[k] leaves)[i]? = some o ∧
    Stands P (partValues p x (i * 2 ^ k) ((i + 1) * 2 ^ k)) o := by
  induction k generalizing i with
  | zero => simpa using hleaf i (by omega)
  | succ k ih =>
    have hlo : 2 * i * 2 ^ k = i * 2 ^ (k + 1) := by ring
    have hhi : (2 * i + 1 + 1) * 2 ^ k = (i + 1) * 2 ^ (k + 1) := by ring
    have hmid : (2 * i + 1) * 2 ^ k ≤ (2 * i + 1 + 1) * 2 ^ k := Nat.mul_le_mul_right _ (by omega)
    obtain ⟨a, ha, hsa⟩ := ih (2 * i) (by omega)
    obtain ⟨b, hb, hsb⟩ := ih (2 * i + 1) (by omega)
    refine ⟨a.merge h b, ?_, ?_⟩
    · rw [Function.iterate_succ_apply']
      exact pairUp_getElem? h _ ha hb
    · rw [← hlo, ← hhi, ← partValues_append p x (Nat.mul_le_mul_right _ (by omega)) hmid]
      exact hsa.merge hP hsb

/-- The same of a tree's list of levels. -/
theorem treeNode_stands {n k i : Nat} (hk : k ≤ n) (hi : (i + 1) * 2 ^ k ≤ N) :
    Stands P (partValues p x (i * 2 ^ k) ((i + 1) * 2 ^ k)) (treeNode (List.iterate (pairUp h) leaves (n + 1)) k i) := by
  obtain ⟨o, ho, hs⟩ := level_stands hP hleaf k i hi
  simpa only [treeNode, List.getElem?_iterate _ _ _ _ (Nat.lt_succ_of_le hk), Option.bind_some, ho, Option.getD_some] using hs

end

/-! ## Operations that neither round nor raise exceptions -/

section
variable {env : Env} {f : Env → Nat → Nat → Elem} {h : Nat → Nat → Nat} (hf : ∀ g u v, f { env with g := g } u v = .plain (h u v))
include hf

/-- They combine two children and leave generator and flags. -/
theorem combine_plain (u v : Nat) (acc : TreeAcc) : combine env f u v acc = (h u v, acc) := by
  simp [combine, hf, Elem.plain]

/-- A level. -/
theorem treeLevel_plain (l : List (Option Nat)) (acc : TreeAcc) : treeLevel env f l acc = (pairUp h l, acc) := by
  induction l using pairUp.induct with
  | case1 a b rest ih =>
    cases a <;> cases b <;> simp [treeLevel, pairUp, ih, combine_plain hf, Option.merge]
  | case2 l hl =>
    match l, hl with
    | [], _ => rfl
    | [_], _ => rfl
    | a :: b :: rest, hl => exact absurd rfl (hl a b rest)

/-- Every level. -/
theorem treeLevels_plain (n : Nat) (l : List (Option Nat)) (acc : TreeAcc) :
    treeLevels env f n l acc = (List.iterate (pairUp h) l (n + 1), acc) := by
  induction n generalizing l with
  | zero => rfl
  | succ n ih => simp [treeLevels, treeLevel_plain hf, ih, List.iterate]

/-- The block of 2^k lanes that a scan joins from a lane on, where as many are left (R66). -/
def scanBlock (levels : List (List (Option Nat))) (k start left : Nat) : Option Nat :=
  if 2 ^ k ≤ left then treeNode levels k (start / 2 ^ k) else none

/-- The last join. -/
theorem scanJoin_zero (levels : List (List (Option Nat))) (start left : Nat) (v : Option Nat) (acc : TreeAcc) :
    scanJoin env f levels 0 start left v acc = (v.merge h (scanBlock levels 0 start left), acc) := by
  simp only [scanJoin, scanBlock, decide_eq_true_eq]
  generalize (if 2 ^ 0 ≤ left then treeNode levels 0 (start / 2 ^ 0) else none) = b
  cases v <;> cases b <;> simp [combine_plain hf, Option.merge]

/-- A join before others. -/
theorem scanJoin_succ (levels : List (List (Option Nat))) (k start left : Nat) (v : Option Nat) (acc : TreeAcc) :
    scanJoin env f levels (k + 1) start left v acc =
      scanJoin env f levels k (if 2 ^ (k + 1) ≤ left then start + 2 ^ (k + 1) else start)
        (if 2 ^ (k + 1) ≤ left then left - 2 ^ (k + 1) else left) (v.merge h (scanBlock levels (k + 1) start left)) acc := by
  simp only [scanJoin, scanBlock, decide_eq_true_eq]
  generalize (if 2 ^ (k + 1) ≤ left then treeNode levels (k + 1) (start / 2 ^ (k + 1)) else none) = b
  cases v <;> cases b <;> simp [combine_plain hf, Option.merge]

end

section
variable {P : List Nat → Nat → Prop} {h : Nat → Nat → Nat} (hP : Composes P h) {p : Nat → Bool} {x : Nat → Nat} {N n : Nat}
  {levels : List (List (Option Nat))}
  (hnode : ∀ k i, k ≤ n → (i + 1) * 2 ^ k ≤ N → Stands P (partValues p x (i * 2 ^ k) ((i + 1) * 2 ^ k)) (treeNode levels k i))
include hP hnode

/-- With the block joined the result stands for the lanes up to the block's end. -/
theorem scanBlock_stands {k start left : Nat} {v : Option Nat} (hk : k ≤ n) (hdvd : 2 ^ k ∣ start) (hN : start + left ≤ N)
    (hv : Stands P (partValues p x 0 start) v) :
    Stands P (partValues p x 0 (if 2 ^ k ≤ left then start + 2 ^ k else start)) (v.merge h (scanBlock levels k start left)) := by
  unfold scanBlock
  split
  next hu =>
    obtain ⟨i, rfl⟩ := hdvd
    have hend : (i + 1) * 2 ^ k = 2 ^ k * i + 2 ^ k := by ring
    have hb := hnode k i hk (by omega)
    rw [hend, Nat.mul_comm i] at hb
    rw [Nat.mul_div_cancel_left _ (by positivity), ← partValues_append p x (Nat.zero_le (2 ^ k * i)) (Nat.le_add_right ..)]
    exact hv.merge hP hb
  next => cases v <;> exact hv

/-- The joins of a scan make one node of the blocks that cover the lanes up to one (R66). -/
theorem scanJoin_stands {env : Env} {f : Env → Nat → Nat → Elem} (hf : ∀ g u v, f { env with g := g } u v = .plain (h u v))
    (k start left : Nat) (v : Option Nat) (acc : TreeAcc) (hk : k ≤ n) (hdvd : 2 ^ k ∣ start) (hleft : left < 2 ^ (k + 1))
    (hN : start + left ≤ N) (hv : Stands P (partValues p x 0 start) v) :
    ∃ o, scanJoin env f levels k start left v acc = (o, acc) ∧ Stands P (partValues p x 0 (start + left)) o := by
  have hblock := scanBlock_stands hP hnode hk hdvd hN hv
  induction k generalizing start left v with
  | zero =>
    refine ⟨_, scanJoin_zero hf .., ?_⟩
    convert hblock using 2
    split <;> omega
  | succ k ih =>
    rw [scanJoin_succ hf]
    have hdvd' : 2 ^ k ∣ 2 ^ (k + 1) := pow_dvd_pow 2 (Nat.le_succ k)
    split
    next hu =>
      rw [if_pos hu] at hblock
      have hsum : start + left = start + 2 ^ (k + 1) + (left - 2 ^ (k + 1)) := by omega
      rw [hsum]
      have hstart := Nat.dvd_add (hdvd'.trans hdvd) hdvd'
      refine ih _ _ _ (by omega) hstart (by rw [Nat.pow_succ] at hleft; omega) (by omega) hblock ?_
      exact scanBlock_stands hP hnode (by omega) hstart (by omega) hblock
    next hu =>
      rw [if_neg hu] at hblock
      refine ih _ _ _ (by omega) (hdvd'.trans hdvd) (by omega) hN hblock ?_
      exact scanBlock_stands hP hnode (by omega) (hdvd'.trans hdvd) hN hblock

end

/-! ## The tree of a team -/

/-- The levels of the team's tree for an element, of an operation that neither rounds nor raises exceptions. -/
def teamLevels (t : Team) (h : Nat → Nat → Nat) (a : Code) (e : Nat) : List (List (Option Nat)) :=
  List.iterate (pairUp h) (treeLeaves t a e) (treeDepth t.size + 1)

/-- The leaves cover the team. -/
theorem size_le_two_pow_treeDepth (size : Nat) : size ≤ 2 ^ treeDepth size := by
  unfold treeDepth
  split
  next h => simpa using h
  next h =>
    have := Nat.lt_log2_self (n := size - 1)
    omega

section
variable {t : Team} {P : List Nat → Nat → Prop} {h : Nat → Nat → Nat} {a : Code} {e : Nat} {x : Nat → Nat} (hP : Composes P h)
  (hx : ∀ l, elemOf t.type (t.opndN (wide t.type) l a) e = x l) (hone : ∀ l, P [x l] (x l))
include hx hone

/-- A leaf stands for its lane's value, if the lane contributes. -/
theorem treeLeaves_stands (i : Nat) (hi : i < 2 ^ treeDepth t.size) : ∃ o, (treeLeaves t a e)[i]? = some o ∧
    Stands P (partValues t.takesPart x i (i + 1)) o := by
  refine ⟨if t.takesPart i then some (x i) else none, ?_, ?_⟩
  · simp [treeLeaves, hi, Team.takesPart, hx]
  · cases hp : t.takesPart i
    · simp [Stands, partValues, hp]
    · simpa [Stands, partValues, hp] using hone i

include hP

/-- A node of the team's tree. -/
theorem teamNode_stands (k i : Nat) (hk : k ≤ treeDepth t.size) (hi : (i + 1) * 2 ^ k ≤ 2 ^ treeDepth t.size) :
    Stands P (partValues t.takesPart x (i * 2 ^ k) ((i + 1) * 2 ^ k)) (treeNode (teamLevels t h a e) k i) :=
  treeNode_stands hP (treeLeaves_stands hx hone) hk hi

/-- The root stands for the contributing lanes, where there is one. -/
theorem root_exists (hne : t.contribLanes ≠ []) :
    ∃ v, treeNode (teamLevels t h a e) (treeDepth t.size) 0 = some v ∧ P (t.contribLanes.map x) v := by
  have hroot := teamNode_stands hP hx hone (treeDepth t.size) 0 le_rfl (by simp)
  rw [Nat.zero_mul, Nat.zero_add, Nat.one_mul, partValues_all t x (size_le_two_pow_treeDepth _)] at hroot
  exact hroot.exists_of_ne_nil (by simpa using hne)

/-- The join of a contributing lane stands for the contributing lanes up to it (R66). -/
theorem laneJoin_exists {f : Env → Nat → Nat → Elem} (hf : ∀ g u v, f { t.env with g := g } u v = .plain (h u v)) {l : Nat}
    (hl : l ∈ t.contribLanes) (acc : TreeAcc) :
    ∃ v, scanJoin t.env f (teamLevels t h a e) (treeDepth t.size) 0 (l + 1) none acc = (some v, acc) ∧
      P ((t.contribLanes.filter (fun k => decide (k ≤ l))).map x) v := by
  have hlt := ((t.mem_contribLanes l).1 hl).1
  have hsize := size_le_two_pow_treeDepth t.size
  obtain ⟨o, ho, hstands⟩ := scanJoin_stands hP (teamNode_stands hP hx hone) hf (treeDepth t.size) 0 (l + 1) none acc le_rfl
    (Nat.dvd_zero _) (by rw [Nat.pow_succ]; omega) (by omega) (by simp [Stands, partValues])
  rw [Nat.zero_add, partValues_zero] at hstands
  simp only [Nat.lt_succ_iff] at hstands
  obtain ⟨v, rfl, hv⟩ := hstands.exists_of_ne_nil (by
    rw [ne_eq, List.map_eq_nil_iff]
    exact List.ne_nil_of_mem (List.mem_filter.2 ⟨hl, by simp⟩))
  exact ⟨v, ho, hv⟩

end

/-- The root is the first node of the last level. -/
theorem getLast_head_iterate (g : List (Option Nat) → List (Option Nat)) (l : List (Option Nat)) (n : Nat) :
    (((List.iterate g l (n + 1)).getLast?.bind List.head?).getD none) = treeNode (List.iterate g l (n + 1)) n 0 := by
  simp [treeNode, List.getLast?_eq_getElem?, List.head?_eq_getElem?]

end Sys2Proof.Machine
end

section
/-! SUPPORT. Cross-lane reads, and reductions and scans of integers (R65, R66, R109–R112). -/

namespace Sys2Proof.Machine

/-! ## Cross-lane reads (R109, R110) -/

section
variable {s : State} {d a b : Code} (hc : s.computes = true) (hd : dstOk s.cur (wide s.cur.type) d = true)
  (ha : vOk s.cur (wide s.cur.type) a = true) (hb : srcOk s.cur false b = true)
include hc hd ha hb

/-- A cross-lane read gives each lane the value of its source lane. -/
theorem crossLane_gives {i : Instr} {src : Team → Nat → Nat} {lead : Bool} {f : Nat → Nat}
    (he : exec i s = issueCross src lead d a b (State.crossLane src d a) s)
    (hf : ∀ l, s.cur.opndN (wide s.cur.type) (src s.cur l) a = f l) : Gives i s (wide s.cur.type) d f := by
  refine gives_of_evalType hc he rfl (by simp [hd, ha, hb]) hd rfl rfl (fun l => ⟨s.cur.gget l, ?_⟩) fun l => ?_
  · rw [← hf l]
  · rw [← hf l]
    exact s.cur.opndN_lt ..

/-- XLN, XLNX and RDLANE. -/
theorem crossLanes_give :
    Gives (.xln d a b) s (wide s.cur.type) d (fun l =>
      s.cur.opndN (wide s.cur.type) (sourceLane s.cur l (s.cur.opnd32 l b).toNat) a) ∧
    Gives (.xlnx d a b) s (wide s.cur.type) d (fun l =>
      s.cur.opndN (wide s.cur.type) (sourceLane s.cur l (BitVec.ofNat 32 l ^^^ s.cur.opnd32 l b).toNat) a) ∧
    (∀ ld, s.cur.leader = some ld → Gives (.rdlane d a b) s (wide s.cur.type) d (fun _ =>
      s.cur.opndN (wide s.cur.type) (sourceLane s.cur ld (s.cur.opnd32 ld b).toNat) a)) := by
  refine ⟨crossLane_gives hc hd ha hb rfl fun _ => rfl, crossLane_gives hc hd ha hb rfl fun _ => rfl, fun ld hld => ?_⟩
  refine crossLane_gives hc hd ha hb rfl fun _ => ?_
  simp only [Team.lead32, hld, Option.getD_some]

end

/-! ## What reductions of integers compose (R65) -/

/-- The sum modulo 2^w. -/
def SumOf (w : Nat) (xs : List Nat) (v : Nat) : Prop := v = xs.sum % 2 ^ w

/-- The least of the values. -/
def LeastOf (w : Nat) (sg : Bool) (xs : List Nat) (v : Nat) : Prop := v ∈ xs ∧ ∀ y ∈ xs, toInt w sg v ≤ toInt w sg y

/-- The greatest of the values. -/
def GreatestOf (w : Nat) (sg : Bool) (xs : List Nat) (v : Nat) : Prop := v ∈ xs ∧ ∀ y ∈ xs, toInt w sg y ≤ toInt w sg v

/-- Sums compose without SAT. -/
theorem composes_add (w : Nat) (sg : Bool) : Composes (SumOf w) (intBin .add w sg false) := by
  rintro xs ys u v rfl rfl
  exact (wrapInt_add w sg _ _).trans (by rw [← Nat.add_mod, List.sum_append])

/-- Least values compose. -/
theorem composes_min (w : Nat) (sg sat : Bool) : Composes (LeastOf w sg) (intBin .min w sg sat) := by
  rintro xs ys u v ⟨hu, hxs⟩ ⟨hv, hys⟩
  simp only [intBin, LeastOf, List.mem_append]
  split
  next h => exact ⟨.inl hu, fun y hy => hy.elim (hxs y) fun hy => h.trans (hys y hy)⟩
  next h => exact ⟨.inr hv, fun y hy => hy.elim (fun hy => (by omega : toInt w sg v ≤ toInt w sg u).trans (hxs y hy)) (hys y)⟩

/-- Greatest values compose. -/
theorem composes_max (w : Nat) (sg sat : Bool) : Composes (GreatestOf w sg) (intBin .max w sg sat) := by
  rintro xs ys u v ⟨hu, hxs⟩ ⟨hv, hys⟩
  simp only [intBin, GreatestOf, List.mem_append]
  split
  next h => exact ⟨.inl hu, fun y hy => hy.elim (hxs y) fun hy => (hys y hy).trans h⟩
  next h => exact ⟨.inr hv, fun y hy => hy.elim (fun hy => (hxs y hy).trans (by omega : toInt w sg u ≤ toInt w sg v)) (hys y)⟩

section
variable {w : Nat} {sg : Bool} {xs : List Nat} {m v : Nat} (hw : 0 < w) (hxs : ∀ y ∈ xs, y < 2 ^ w) (hm : m ∈ xs)
include hw hxs hm

/-- One number is the least. -/
theorem LeastOf.unique (hle : ∀ y ∈ xs, asInt w sg m ≤ asInt w sg y) (hv : LeastOf w sg xs v) : v = m := by
  obtain ⟨hv, hleast⟩ := hv
  have h1 := hleast m hm
  have h2 := hle v hv
  rw [← toInt_eq_asInt hw sg (hxs m hm), ← toInt_eq_asInt hw sg (hxs v hv)] at h2
  exact toInt_injective (hxs v hv) (hxs m hm) (le_antisymm h1 h2)

/-- One number is the greatest. -/
theorem GreatestOf.unique (hle : ∀ y ∈ xs, asInt w sg y ≤ asInt w sg m) (hv : GreatestOf w sg xs v) : v = m := by
  obtain ⟨hv, hgreatest⟩ := hv
  have h1 := hgreatest m hm
  have h2 := hle v hv
  rw [← toInt_eq_asInt hw sg (hxs m hm), ← toInt_eq_asInt hw sg (hxs v hv)] at h2
  exact toInt_injective (hxs v hv) (hxs m hm) (le_antisymm h2 h1)

end

/-! ## Reductions and scans of one element -/

/-- The joins of lanes that draw nothing. -/
theorem scanLanes_plain {env : Env} {f : Env → Nat → Nat → Elem} {levels : List (List (Option Nat))} {depth : Nat} {ls : List Nat}
    {acc : TreeAcc} (hacc : ∀ l ∈ ls, (scanJoin env f levels depth 0 (l + 1) none acc).2 = acc) :
    scanLanes env f levels depth ls acc =
      (ls.map (fun l => (l, (scanJoin env f levels depth 0 (l + 1) none acc).1.getD 0)), acc) := by
  induction ls with
  | nil => rfl
  | cons l ls ih =>
    simp only [scanLanes, hacc l (by simp), ih fun k hk => hacc k (by simp [hk]), List.map_cons]

section
variable {t : Team} {f : Env → Nat → Nat → Elem} {h : Nat → Nat → Nat} {a : Code}
  (hf : ∀ g u v, f { t.env with g := g } u v = .plain (h u v))
include hf

/-- A reduction gives the root, and draws nothing. -/
theorem treeRoots_one (acc : TreeAcc) : treeRoots t f a [0] acc = ((treeNode (teamLevels t h a 0) (treeDepth t.size) 0).getD 0, acc) := by
  simp only [treeRoots, treeLevels_plain hf, getLast_head_iterate, Nat.mul_zero, pow_zero, Nat.mul_one, Nat.add_zero, teamLevels]

/-- A scan gives the joins of each lane, and draws nothing. -/
theorem scanElems_one {ls : List Nat} {acc : TreeAcc}
    (hacc : ∀ l ∈ ls, (scanJoin t.env f (teamLevels t h a 0) (treeDepth t.size) 0 (l + 1) none acc).2 = acc) :
    scanElems t f a ls [0] acc (ls.map (fun l => (l, 0))) =
      (ls.map (fun l => (l, (scanJoin t.env f (teamLevels t h a 0) (treeDepth t.size) 0 (l + 1) none acc).1.getD 0)), acc) := by
  simp only [scanElems, treeLevels_plain hf]
  rw [← teamLevels, scanLanes_plain hacc]
  simp only [List.map_map, Function.comp_def, Nat.mul_zero, pow_zero, Nat.mul_one, Nat.zero_add, alook]
  refine congrArg (·, acc) (List.map_congr_left fun l hl => ?_)
  rw [List.lookup_graph _ hl, Option.getD_some]

end

section
variable {s : State} {i : Instr} {sp : Spec} {uses : Uses} {conds : Team → State → List Cond} {run : State → Res} {w : Nat}
  {wd sg : Bool} {d a : Code} {P : List Nat → Nat → Prop} (hI : IntType s.cur.type w wd sg) (hc : s.computes = true)
  (he : exec i s = issue sp uses conds run s) (hsp : sp.conds s.cur = []) (hconds : conds s.cur s = [])
  (hd : dstOk s.cur wd d = true) (hld : s.cur.leader ≠ none) (hone : ∀ x, x < 2 ^ w → P [x] x)
include hI hc he hsp hconds hd hld hone

/-- A reduction gives what its operation composes of the contributing lanes' values (R111). -/
theorem reduce_gives {op : BinOp} {m : Nat} (hP : Composes P (intBin op w sg s.cur.sat)) (hrun : run s = State.reduceTeam op d a s)
    (hm : ∀ v, P (s.cur.contribLanes.map (fun l => s.cur.opndN wd l a)) v → v = m) (hlt : m < 2 ^ w) :
    Gives i s wd d (fun _ => m) := by
  obtain ⟨ld, hld⟩ := Option.ne_none_iff_exists'.1 hld
  have hne : s.cur.contribLanes ≠ [] := by
    intro h
    simp [Team.leader, h] at hld
  have hf (g : Word) (u v : Nat) : binElem op s.cur.type { s.cur.env with g := g } u v = .plain (intBin op w sg s.cur.sat u v) :=
    binElem_intType hI ..
  have hx (l : Nat) : elemOf s.cur.type (s.cur.opndN (wide s.cur.type) l a) 0 = s.cur.opndN wd l a := by
    rw [hI.wide, elemOf_int hI (opndN_lt_int hI ..)]
  obtain ⟨v, hv, hPv⟩ := root_exists hP hx (fun l => hone _ (opndN_lt_int hI ..)) hne
  have hroot (acc : TreeAcc) : treeRoots s.cur (fun env x y => binElem op s.cur.type env x y) a
      (List.range (typeCount s.cur.type)) acc = (m, acc) := by
    rw [hI.count]
    refine (treeRoots_one hf acc).trans ?_
    rw [hv, Option.getD_some, hm v hPv]
  refine gives_of_finishLanes hc he hsp hconds hd (joint := true) ?_ (fun l _ => ⟨rfl, rfl, by rwa [hI.dest]⟩)
    (res := fun l => ⟨m, 0, if l = ld then s.cur.gget ld else s.cur.gget l⟩)
  rw [hrun]
  simp only [State.reduceTeam, hld, hroot, hI.wide]

/-- A scan gives each lane what ADD composes of the contributing lanes' values up to it (R112). -/
theorem scan_gives {m : Nat → Nat} (hP : Composes P (intBin .add w sg s.cur.sat)) (hrun : run s = State.scanTeam d a s)
    (hs : isS d = false)
    (hm : ∀ l ∈ s.cur.contribLanes, ∀ v, P ((s.cur.contribLanes.filter (fun k => decide (k ≤ l))).map (fun l => s.cur.opndN wd l a)) v →
      v = m l) (hlt : ∀ l, m l < 2 ^ w) : Gives i s wd d m := by
  obtain ⟨ld, hld⟩ := Option.ne_none_iff_exists'.1 hld
  have hf (g : Word) (u v : Nat) : binElem .add s.cur.type { s.cur.env with g := g } u v = .plain (intBin .add w sg s.cur.sat u v) :=
    binElem_intType hI ..
  have hx (l : Nat) : elemOf s.cur.type (s.cur.opndN (wide s.cur.type) l a) 0 = s.cur.opndN wd l a := by
    rw [hI.wide, elemOf_int hI (opndN_lt_int hI ..)]
  have hjoin (l : Nat) (hl : l ∈ s.cur.contribLanes) (acc : TreeAcc) : scanJoin s.cur.env
      (fun env x y => binElem .add s.cur.type env x y) (teamLevels s.cur (intBin .add w sg s.cur.sat) a 0) (treeDepth s.cur.size)
      0 (l + 1) none acc = (some (m l), acc) := by
    obtain ⟨v, hv, hPv⟩ := laneJoin_exists hP hx (fun l => hone _ (opndN_lt_int hI ..)) hf hl acc
    rw [hv, hm l hl v hPv]
  have hscan (acc : TreeAcc) : scanElems s.cur (fun env x y => binElem .add s.cur.type env x y) a s.cur.contribLanes
      (List.range (typeCount s.cur.type)) acc (s.cur.contribLanes.map (fun l => (l, 0))) =
      (s.cur.contribLanes.map (fun l => (l, m l)), acc) := by
    rw [hI.count]
    refine (scanElems_one hf fun l hl => by rw [hjoin l hl]).trans (congrArg (·, acc) (List.map_congr_left fun l hl => ?_))
    rw [hjoin l hl, Option.getD_some]
  refine gives_of_finishLanes hc he hsp hconds hd (joint := true) ?_ (fun l _ => ⟨rfl, rfl, by rw [hI.dest]; exact hlt l⟩)
    (res := fun l => ⟨m l, 0, if l = ld then s.cur.gget ld else s.cur.gget l⟩)
  rw [hrun]
  simp only [State.scanTeam, hld, hscan, hI.wide, List.map_map, Function.comp_def, Team.evalLanes, hs, Bool.false_eq_true, if_false]

end

section
variable {s : State} {w : Nat} {wd sg : Bool} {d a : Code} (hI : IntType s.cur.type w wd sg) (hc : s.computes = true)
  (hd : dstOk s.cur wd d = true) (ha : srcOk s.cur wd a = true) (hld : s.cur.leader ≠ none)

/-- Legal codes are no condition of a reduction. -/
theorem okTree_conds (hwd : wide s.cur.type = wd) (hd : dstOk s.cur wd d = true) (ha : srcOk s.cur wd a = true) {scalarOk : Bool}
    (hs : (scalarOk || !isS d) = true) :
    okCond (dstOk s.cur (wide s.cur.type) d && (scalarOk || !isS d) && srcOk s.cur (wide s.cur.type) a) = [] := by
  rw [hwd, hd, hs, ha]
  rfl

include hI hc hd ha hld

/-- TSUM and TSCAN without SAT (R111, R112). -/
theorem sumsOfLanes_give (hsat : s.cur.sat = false) :
    Gives (.tsum d a) s wd d (fun _ => (s.cur.contribLanes.map (fun l => s.cur.opndN wd l a)).sum % 2 ^ w) ∧
    (isS d = false → Gives (.tscan d a) s wd d (fun l =>
      ((s.cur.contribLanes.filter (fun k => decide (k ≤ l))).map (fun l => s.cur.opndN wd l a)).sum % 2 ^ w)) := by
  have hadd : Composes (SumOf w) (intBin .add w sg s.cur.sat) := hsat ▸ composes_add w sg
  have hone (x : Nat) (hx : x < 2 ^ w) : SumOf w [x] x := by rw [SumOf, List.sum_singleton, Nat.mod_eq_of_lt hx]
  refine ⟨?_, fun hs => ?_⟩
  · exact reduce_gives hI hc rfl rfl (okTree_conds hI.wide hd ha rfl) hd hld hone hadd rfl (fun v hv => hv)
      (Nat.mod_lt _ (by positivity))
  · exact scan_gives hI hc rfl rfl (okTree_conds hI.wide hd ha (by simp [hs])) hd hld hone hadd rfl hs (fun l _ v hv => hv)
      (fun l => Nat.mod_lt _ (by positivity))

variable {m : Nat} (hm : m ∈ s.cur.contribLanes.map (fun l => s.cur.opndN wd l a))
include hm

/-- TMIN (R111). -/
theorem tmin_gives (hle : ∀ y ∈ s.cur.contribLanes.map (fun l => s.cur.opndN wd l a), asInt w sg m ≤ asInt w sg y) :
    Gives (.tmin d a) s wd d (fun _ => m) := by
  have hlt : ∀ y ∈ s.cur.contribLanes.map (fun l => s.cur.opndN wd l a), y < 2 ^ w := by
    simpa only [List.forall_mem_map] using fun l _ => opndN_lt_int hI s.cur l a
  exact reduce_gives hI hc rfl rfl (okTree_conds hI.wide hd ha rfl) hd hld (fun x _ => by simp [LeastOf]) (composes_min _ _ _) rfl
    (fun v hv => LeastOf.unique hI.pos hlt hm hle hv) (hlt m hm)

/-- TMAX (R111). -/
theorem tmax_gives (hle : ∀ y ∈ s.cur.contribLanes.map (fun l => s.cur.opndN wd l a), asInt w sg y ≤ asInt w sg m) :
    Gives (.tmax d a) s wd d (fun _ => m) := by
  have hlt : ∀ y ∈ s.cur.contribLanes.map (fun l => s.cur.opndN wd l a), y < 2 ^ w := by
    simpa only [List.forall_mem_map] using fun l _ => opndN_lt_int hI s.cur l a
  exact reduce_gives hI hc rfl rfl (okTree_conds hI.wide hd ha rfl) hd hld (fun x _ => by simp [GreatestOf]) (composes_max _ _ _) rfl
    (fun v hv => GreatestOf.unique hI.pos hlt hm hle hv) (hlt m hm)

end

/-- Settles O22: sources as the instructions name them, and the trees of team reductions and scans. -/
theorem lanesExchangeAndReduce : Obligations.LanesExchangeAndReduce := by
  unfold Obligations.LanesExchangeAndReduce
  refine ⟨fun s d a b hc hd ha hb => crossLanes_give hc hd ha hb, fun s d a hc hty hsat hld _ hd ha => ?_⟩
  have hI := intType_of_le hty
  obtain ⟨htsum, htscan⟩ := sumsOfLanes_give hI hc hd ha hld hsat
  exact ⟨htsum, fun m hm hle => tmin_gives hI hc hd ha hld hm (List.forall_mem_map.2 hle),
    fun m hm hle => tmax_gives hI hc hd ha hld hm (List.forall_mem_map.2 hle), htscan⟩

end Sys2Proof.Machine
end

section
/-! SUPPORT. Exceptions of SQRT and RCP in binary32 (R58, R87, R98). -/

namespace Sys2Proof.Machine

/-! ## One element -/

/-- A word's fraction, exponent and sign, as numbers. -/
theorem binary32_fields (x : Word) : x.toNat = (x.extractLsb' 31 1).toNat * 2 ^ 31 + (x.extractLsb' 23 8).toNat * 2 ^ 23 +
    (x.extractLsb' 0 23).toNat := by
  have := x.isLt
  simp only [BitVec.extractLsb'_toNat, Nat.shiftRight_eq_div_pow]
  omega

/-- A negative normal number is a negative datum other than zero, under FTZ too (R43, R55). -/
theorem input_negative_normal {x : Word} (ftz : Bool) (hs : x.getLsbD 31 = true) (h1 : 0 < (x.extractLsb' 23 8).toNat)
    (h2 : (x.extractLsb' 23 8).toNat < 255) : ∃ m e, m ≠ 0 ∧ binary32.input ftz x.toNat = .fin true m e := by
  have hsign : (x.extractLsb' 31 1).toNat = 1 := by
    have := x.isLt
    rw [BitVec.getLsbD, Nat.testBit_eq_decide_div_mod_eq, decide_eq_true_eq] at hs
    simpa only [BitVec.extractLsb'_toNat, Nat.shiftRight_eq_div_pow] using hs
  have hx := binary32_fields x
  rw [hsign] at hx
  have hfr := (x.extractLsb' 0 23).isLt
  generalize (x.extractLsb' 23 8).toNat = e at h1 h2 hx
  generalize (x.extractLsb' 0 23).toNat = fr at hfr hx
  have hbit : binary32.signBit = 2 ^ 31 := rfl
  have hmag : x.toNat % 2 ^ 31 = e * 2 ^ 23 + fr := by omega
  have hunpack : binary32.unpack x.toNat = .fin true (2 ^ 23 + fr) ((e : Int) - 127 - 23) := by
    rw [Fmt.unpack, hbit, hmag]
    have hneg : 2 ^ 31 ≤ x.toNat % (2 * 2 ^ 31) := by omega
    have hmax : ¬ binary32.maxCode < e * 2 ^ 23 + fr := by simp only [binary32]; omega
    have hexp : (e * 2 ^ 23 + fr) / 2 ^ binary32.mb = e := by simp only [binary32]; omega
    have hfrac : (e * 2 ^ 23 + fr) % 2 ^ binary32.mb = fr := by simp only [binary32]; omega
    simp only [hexp, hfrac, if_neg hmax, if_neg h1.ne', decide_eq_true hneg]
    rfl
  refine ⟨2 ^ 23 + fr, (e : Int) - 127 - 23, by omega, ?_⟩
  have hnormal : ¬ 2 ^ 23 + fr < 2 ^ binary32.mb := by simp only [binary32]; omega
  rw [Fmt.input, hunpack]
  simp only [decide_eq_false hnormal, Bool.and_false, Bool.false_eq_true, if_false]

/-- SQRT of a negative number: the canonical NaN, and NV (R53, R98). -/
theorem sqrt_negative {x : Word} (env : Env) (hs : x.getLsbD 31 = true) (h1 : 0 < (x.extractLsb' 23 8).toNat)
    (h2 : (x.extractLsb' 23 8).toNat < 255) : fltUn .sqrt binary32 env x.toNat = ⟨0x7FC00000, fNV, false⟩ := by
  obtain ⟨m, e, hm, hx⟩ := input_negative_normal env.ftz hs h1 h2
  simp only [fltUn, hx, Fmt.sqrt, if_neg hm, if_true]
  rfl

/-- RCP of +0 without SAT: +∞, and DZ (R98). -/
theorem rcp_zero {env : Env} (hsat : env.sat = false) : fltUn .rcp binary32 env 0 = ⟨0x7F800000, fDZ, false⟩ := by
  have hx : ∃ e, binary32.input env.ftz 0 = .fin false 0 e := by
    cases env.ftz <;> exact ⟨_, rfl⟩
  obtain ⟨e, hx⟩ := hx
  simp only [fltUn, hx, Fmt.rcp, if_true, Fmt.infElem, Fmt.inf, hsat, Bool.false_eq_true, if_false]
  rfl

/-! ## Enables (R71) -/

/-- Nothing enabled, nothing trapped. -/
theorem trapping_of_disabled {t : Team} (h : t.tstat.extractLsb' 5 5 = 0) (f : Nat) : t.trapping f = 0 := by
  have h0 : t.enables = 0 := by
    have := congrArg BitVec.toNat h
    simpa [Team.enables, bits, BitVec.extractLsb'_toNat] using this
  rw [Team.trapping, h0, Nat.and_zero]

/-- An exception whose enable is set is trapped. -/
theorem trapping_of_enabled {t : Team} {i : Nat} (hi : i < 5) (h : t.tstat.getLsbD (5 + i) = true) : t.trapping (2 ^ i) ≠ 0 := by
  intro h0
  have hbit := congrArg (·.testBit i) h0
  rw [BitVec.getLsbD] at h
  simp only [Team.trapping, Team.enables, bits, Nat.testBit_and, Nat.testBit_two_pow_self, Nat.testBit_mod_two_pow,
    Nat.testBit_shiftRight, hi, h, decide_true, Bool.and_true, Nat.zero_testBit, Bool.true_eq_false] at hbit

/-! ## Instructions that raise one exception in every lane -/

/-- A lane's result of a one-operand instruction. -/
def Team.unaryResult (t : Team) (op : UnOp) (a : Code) (l : Nat) : LaneRes :=
  sweepType t.type t.env (t.gget l) (fun e env => unElem op t.type env (elemOf t.type (t.opndN (wide t.type) l a) e))

/-- The evaluation in binary32. -/
theorem unary_eq_finishLanes {s : State} (op : UnOp) (d a : Code) (hty : s.cur.type = 4) : State.unary op d a s =
    s.finishLanes false d (regs false) ((destLanes s.cur.size s.cur.contrib d).map (fun l => (l, s.cur.unaryResult op a l))) := by
  have hwd : wide s.cur.type = false := by rw [hty]; rfl
  change s.finishLanes (wide s.cur.type) d (regs (wide s.cur.type))
    ((destLanes s.cur.size s.cur.contrib d).map (fun l => (l, s.cur.unaryResult op a l))) = _
  rw [hwd]

/-- In binary32 it is the operation on the register, with the lane's next draw. -/
theorem unaryResult_binary32 {t : Team} {op : UnOp} {a : Code} {l : Nat} (hty : t.type = 4) : ∃ env g, env.sat = t.sat ∧
    t.unaryResult op a l =
      ⟨(fltUn op binary32 env (t.opnd32 l a).toNat).bits, (fltUn op binary32 env (t.opnd32 l a).toNat).flags, g⟩ := by
  obtain ⟨env, g, -, hsat, -, hsweep⟩ := sweepType_one (ty := t.type) (by rw [hty]; rfl) t.env (t.gget l)
    (fun e env => unElem op t.type env (elemOf t.type (t.opndN (wide t.type) l a) e))
  have helem : elemOf t.type (t.opndN (wide t.type) l a) 0 = (t.opnd32 l a).toNat := by
    rw [hty]
    exact Nat.mod_eq_of_lt (t.opnd32 l a).isLt
  have hop (y : Nat) : unElem op t.type env y = fltUn op binary32 env y := by
    rw [hty]
    rfl
  rw [helem, hop] at hsweep
  exact ⟨env, g, hsat, hsweep⟩

section
variable {s : State} {i : Instr} {op : UnOp} {d a : Code} {x f : Nat} (hp : s.plain = true) (hb : s.cur.bindings = [])
  (hty : s.cur.type = 4) (hd : dstOk s.cur false d = true) (ha : srcOk s.cur false a = true) (hl : s.cur.leader ≠ none)
  (he : exec i s = issueUnary {} tyFloat d a (State.unary op d a) s) (hx : x < 2 ^ 32)
  (helem : ∀ env, env.sat = s.cur.sat → ∀ k ∈ s.cur.contribLanes, fltUn op binary32 env (s.cur.opnd32 k a).toNat = ⟨x, f, false⟩)
include hp hb hty hd ha hl he hx helem

/-- An operation with one result and one exception in every lane: without enables the result is written and the flag set, with
the exception's enable FPE is raised (R58, R87). -/
theorem unary_exception : (s.cur.tstat.extractLsb' 5 5 = 0 → ∃ t, exec i s = .next t ∧ Wrote s t false d (fun _ => x) ∧
      t.cur.tstat = s.cur.tstat ||| BitVec.ofNat 32 (f % 32) ∧ RegFrame s t 1 d s.cur.contrib) ∧
    (s.cur.trapping f ≠ 0 → s.hasHandler = true → TrapsHere i s (tFPE f)) := by
  have hne : s.cur.contribLanes ≠ [] := fun h => hl (by simp [Team.leader, h])
  have hconds : okCond (okUnary tyFloat d a s.cur) = [] := okUnary_conds (wd := false) (by rw [hty]; rfl) (by rw [hty]; rfl) hd ha
  have hrun := unary_eq_finishLanes op d a hty
  have hres : ∀ k ∈ s.cur.contribLanes, (s.cur.unaryResult op a k).bits = x ∧ (s.cur.unaryResult op a k).flags = f := by
    intro k hk
    obtain ⟨env, g, hsat, hr⟩ := unaryResult_binary32 (op := op) (a := a) (l := k) hty
    rw [helem env hsat k hk] at hr
    simp [hr]
  refine ⟨fun hoff => ?_, fun htrap hh => ?_⟩
  · obtain ⟨t, ht, hframe, htstat, hvec, hsca⟩ := exec_delivers hp hb he rfl hconds hrun (fun k hk => (hres k hk).2) hd (.inl hne)
      (trapping_of_disabled hoff f)
    refine ⟨t, ht, ⟨fun hv k hk hm => ?_, fun hs k hk => ?_⟩, htstat, hframe⟩
    · have hmem := mem_lanesOf.2 ⟨hk, hm⟩
      rw [hvec hv k hmem, (hres k hmem).1]
      exact Nat.mod_eq_of_lt hx
    · rw [hsca hs k hk, (hres k (List.mem_of_mem_head? hk)).1]
      exact Nat.mod_eq_of_lt hx
  · exact exec_traps_fpe hp hb he rfl hconds hrun (fun k hk => (hres k hk).2) hh hne htrap

end

/-- Settles O23: one element of each instruction, and what raising an exception does. -/
theorem floatExceptions : Obligations.FloatExceptions := by
  unfold Obligations.FloatExceptions
  intro s d a l hp hb hty hsat hd ha hl
  have hl : s.cur.leader ≠ none := by simp [hl]
  refine ⟨fun hneg => ?_, fun hzero => ?_⟩
  · obtain ⟨hoff, hon⟩ := unary_exception (i := .sqrt d a) (op := .sqrt) (x := 0x7FC00000) (f := fNV) hp hb hty hd ha hl rfl
      (by decide) fun env _ k hk => by
        obtain ⟨hk, hm⟩ := (s.cur.mem_contribLanes k).1 hk
        obtain ⟨hs, h1, h2⟩ := hneg k hk hm
        exact sqrt_negative env hs h1 h2
    exact ⟨hoff, fun he => hon (trapping_of_enabled (i := 4) (by decide) he)⟩
  · obtain ⟨hoff, hon⟩ := unary_exception (i := .rcp d a) (op := .rcp) (x := 0x7F800000) (f := fDZ) hp hb hty hd ha hl rfl
      (by decide) fun env henv k hk => by
        obtain ⟨hk, hm⟩ := (s.cur.mem_contribLanes k).1 hk
        rw [hzero k hk hm]
        exact rcp_zero (henv.trans hsat)
    exact ⟨hoff, fun he => hon (trapping_of_enabled (i := 3) (by decide) he)⟩

end Sys2Proof.Machine
end

section
/-! SUPPORT. Where transfers through the divergence stack land, and the scalars that they merge (R73–R78, R118–R123). -/

namespace Sys2Proof.Machine

/-! ## The end of a transfer (R22) -/

namespace Team
variable (c : Option Clause) (t : Team)

/-- The parts of a team that the end of a transfer touches. -/
theorem landed_eq : ∃ yielding last, t.landed c = { t with
    only := if t.resumed then t.only else none, focused := t.focused && (t.hlevel || t.resumed), service := none,
    fresh := t.fresh + 1, yielding := yielding, lastIssue := last } := by
  unfold landed yieldsAfter
  split <;> exact ⟨_, _, rfl⟩

@[simp] theorem landed_v : (t.landed c).v = t.v := by obtain ⟨_, _, h⟩ := t.landed_eq c; rw [h]
@[simp] theorem landed_s : (t.landed c).s = t.s := by obtain ⟨_, _, h⟩ := t.landed_eq c; rw [h]
@[simp] theorem landed_p : (t.landed c).p = t.p := by obtain ⟨_, _, h⟩ := t.landed_eq c; rw [h]
@[simp] theorem landed_gen : (t.landed c).gen = t.gen := by obtain ⟨_, _, h⟩ := t.landed_eq c; rw [h]
@[simp] theorem landed_live : (t.landed c).live = t.live := by obtain ⟨_, _, h⟩ := t.landed_eq c; rw [h]
@[simp] theorem landed_wg : (t.landed c).wg = t.wg := by obtain ⟨_, _, h⟩ := t.landed_eq c; rw [h]
@[simp] theorem landed_ending : (t.landed c).ending = t.ending := by obtain ⟨_, _, h⟩ := t.landed_eq c; rw [h]
@[simp] theorem landed_pc : (t.landed c).pc = t.pc := by obtain ⟨_, _, h⟩ := t.landed_eq c; rw [h]
@[simp] theorem landed_idx : (t.landed c).idx = t.idx := by obtain ⟨_, _, h⟩ := t.landed_eq c; rw [h]
@[simp] theorem landed_clause : (t.landed c).clause = t.clause := by obtain ⟨_, _, h⟩ := t.landed_eq c; rw [h]
@[simp] theorem landed_mask : (t.landed c).mask = t.mask := by obtain ⟨_, _, h⟩ := t.landed_eq c; rw [h]
@[simp] theorem landed_mode : (t.landed c).mode = t.mode := by obtain ⟨_, _, h⟩ := t.landed_eq c; rw [h]
@[simp] theorem landed_tstat : (t.landed c).tstat = t.tstat := by obtain ⟨_, _, h⟩ := t.landed_eq c; rw [h]
@[simp] theorem landed_flags : (t.landed c).flags = t.flags := by obtain ⟨_, _, h⟩ := t.landed_eq c; rw [h]
@[simp] theorem landed_stack : (t.landed c).stack = t.stack := by obtain ⟨_, _, h⟩ := t.landed_eq c; rw [h]
@[simp] theorem landed_bindings : (t.landed c).bindings = t.bindings := by obtain ⟨_, _, h⟩ := t.landed_eq c; rw [h]
@[simp] theorem landed_saveMode : (t.landed c).saveMode = t.saveMode := by obtain ⟨_, _, h⟩ := t.landed_eq c; rw [h]
@[simp] theorem landed_saveMask : (t.landed c).saveMask = t.saveMask := by obtain ⟨_, _, h⟩ := t.landed_eq c; rw [h]
@[simp] theorem landed_faultPc : (t.landed c).faultPc = t.faultPc := by obtain ⟨_, _, h⟩ := t.landed_eq c; rw [h]
@[simp] theorem landed_faultInfo : (t.landed c).faultInfo = t.faultInfo := by obtain ⟨_, _, h⟩ := t.landed_eq c; rw [h]
@[simp] theorem landed_faultMask : (t.landed c).faultMask = t.faultMask := by obtain ⟨_, _, h⟩ := t.landed_eq c; rw [h]
@[simp] theorem landed_only : (t.landed c).only = if t.resumed then t.only else none := by
  obtain ⟨_, _, h⟩ := t.landed_eq c
  rw [h]

end Team

/-- What a transfer leaves alone, its end leaves alone too. -/
theorem FlowFrame.landed {s : State} {u : Team} {c : Option Clause} (h : FlowFrame s (s.setCur u)) :
    FlowFrame s (s.setCur (u.landed c)) := by
  obtain ⟨hreg, hstat, hstart, -⟩ := h
  exact ⟨by simpa using hreg, by simpa using hstat, by simpa using hstart, rfl⟩

/-! ## Scalars that merge (R76) -/

/-- Every scalar merged by itself. -/
theorem tget_mergeScalars (low : Option Nat) (done : List PathRec) (base : Table Word) {n : Nat} (hn : n < 24) :
    tget 0 (mergeScalars low done base) n = mergeOne low done base n := by
  have hfold (k : Nat) : n < k → tget 0 ((List.range k).foldl (fun s m => tset 0 s m (mergeOne low done base m)) []) n =
      mergeOne low done base n := by
    induction k with
    | zero => exact nofun
    | succ k ih =>
      intro hk
      rw [List.range_succ, List.foldl_append]
      by_cases h : n = k
      · subst h
        exact tget_tset_self ..
      · exact (tget_tset_of_ne _ _ _ h).trans (ih (by omega))
  exact hfold 24 hn

/-- The three rules of R76. -/
theorem mergedScalars_merge (l : Nat) (paths : List PathRec) (base : Table Word) :
    MergedScalars l paths base (mergeScalars (some l) paths base) := by
  intro n hn
  rw [tget_mergeScalars _ _ _ hn]
  unfold mergeOne
  refine ⟨fun p hp hw hl huniq => ?_, fun pre p post hpaths hw hpost hnone => ?_, fun hnone => ?_⟩
  · cases hf : (paths.filter (fun p => p.written.getLsbD n)).find? (fun p => p.lanes.getLsbD l) with
    | none => exact absurd hl (by simpa using List.find?_eq_none.1 hf p (List.mem_filter.2 ⟨hp, hw⟩))
    | some q =>
      have hq : q = p := huniq q (List.mem_filter.1 (List.mem_of_find?_eq_some hf)).1 (by simpa using List.find?_some hf)
      simp only [hf, hq]
  · have hf : (paths.filter (fun p => p.written.getLsbD n)).find? (fun p => p.lanes.getLsbD l) = none := by
      refine List.find?_eq_none.2 fun q hq => ?_
      obtain ⟨hq, hqw⟩ := List.mem_filter.1 hq
      simp [hnone q hq hqw]
    have hlast : (paths.filter (fun p => p.written.getLsbD n)).getLast? = some p := by
      have hnil : post.filter (fun p => p.written.getLsbD n) = [] := List.filter_eq_nil_iff.2 fun q hq => by simp [hpost q hq]
      rw [hpaths, List.filter_append, List.filter_cons, if_pos hw, hnil, List.getLast?_append]
      rfl
    simp only [hf, hlast]
  · have hnil : paths.filter (fun p => p.written.getLsbD n) = [] := List.filter_eq_nil_iff.2 fun q hq => by simp [hnone q hq]
    simp only [hnil, List.find?_nil, List.getLast?_nil]

/-! ## Entries that are skipped, and entries that take a record (R73, R76) -/

/-- Nothing is skipped before an entry that is not emptied. -/
theorem skipEmptied_cons {e : DivEntry} {rest : List DivEntry} (h : e.mask? ≠ some 0) :
    skipEmptied (e :: rest) = e :: rest ∧ skippedWrites (e :: rest) = 0 := by
  rw [skipEmptied, skippedWrites, if_neg h, if_neg h]
  exact ⟨rfl, rfl⟩

/-- An emptied entry on top is skipped, and its outer writes count. -/
theorem skipEmptied_emptied {e : DivEntry} {rest : List DivEntry} (h : e.mask? = some 0) :
    skipEmptied (e :: rest) = skipEmptied rest ∧ skippedWrites (e :: rest) = e.outer ||| skippedWrites rest := by
  rw [skipEmptied, skippedWrites, if_pos h, if_pos h]
  exact ⟨rfl, rfl⟩

/-- A CALL entry is never skipped. -/
theorem skipEmptied_call (es : List DivEntry) : (∃ e ∈ skipEmptied es, e.mask? = none) ↔ ∃ e ∈ es, e.mask? = none := by
  induction es with
  | nil => rfl
  | cons e es ih =>
    by_cases h : e.mask? = some 0
    · rw [(skipEmptied_emptied h).1, ih]
      simp [h]
    · rw [(skipEmptied_cons h).1]

/-- A path that skipped nothing. -/
@[simp] theorem past_zero (p : PathRec) : p.past 0 = p := by simp [PathRec.past]

/-- A record leaves the masks of the stack alone. -/
theorem recordPath_masks (p : PathRec) (es : List DivEntry) : (recordPath p es).map DivEntry.mask? = es.map DivEntry.mask? := by
  induction es with
  | nil => rfl
  | cons e es ih =>
    cases e with
    | rejoin => rfl
    | call => rfl
    | pending => simp [recordPath, ih]

/-- Lanes that exit leave an entry's mask. -/
theorem mask?_without (lanes : Mask) (e : DivEntry) : (e.without lanes).mask? = e.mask?.map (fun m => m &&& ~~~ lanes) := by
  cases e <;> rfl

/-! ## Going on at an entry -/

/-- What going on at an entry leaves alone. -/
theorem flowFrame_resumeAt {s : State} {u : Team} {p : Option PathRec} {e : DivEntry} {rest : List DivEntry}
    (hr : u.v = s.cur.v ∧ u.p = s.cur.p ∧ u.gen = s.cur.gen)
    (hs : u.flags = s.cur.flags ∧ u.tstat = s.cur.tstat ∧ u.faultPc = s.cur.faultPc ∧ u.faultInfo = s.cur.faultInfo) :
    FlowFrame s (s.setCur (u.resumeAt p e rest)) := by
  cases e with
  | rejoin => exact ⟨hr, hs, ⟨rfl, rfl⟩, rfl⟩
  | call => exact ⟨hr, hs, ⟨rfl, rfl⟩, rfl⟩
  | pending _ _ _ _ handler => cases handler <;> exact ⟨hr, hs, ⟨rfl, rfl⟩, rfl⟩

/-- The stack before it counts for nothing where a team goes on. -/
theorem resumeAt_stack (t : Team) (es : List DivEntry) (p : Option PathRec) (e : DivEntry) (rest : List DivEntry) :
    ({ t with stack := es }).resumeAt p e rest = t.resumeAt p e rest := by
  cases e with
  | rejoin => rfl
  | call => rfl
  | pending _ _ _ _ handler => cases handler <;> rfl

/-- Nothing more is written. -/
theorem written_or_zero (t : Team) : ({ t with written := t.written ||| 0 } : Team) = t :=
  congrArg (fun w => { t with written := w }) BitVec.or_zero

/-! ## JOIN (R73, R119) -/

/-- JOIN goes on at the first entry that is not skipped. -/
theorem join_at {t : Team} {e : DivEntry} {rest : List DivEntry} (p : PathRec) (hs : skipEmptied t.stack = e :: rest)
    (hm : e.mask? ≠ none) : t.join (some p) = some (({ t with written := t.written ||| skippedWrites t.stack }).resumeAt
      (some (p.past (skippedWrites t.stack))) e rest) := by
  unfold Team.join
  rw [hs]
  cases e with
  | call => exact absurd rfl hm
  | rejoin => rfl
  | pending => rfl

/-- JOIN finds no entry, or a CALL entry. -/
theorem join_none {t : Team} (p : Option PathRec) (h : ∀ e rest, skipEmptied t.stack = e :: rest → e.mask? = none) :
    t.join p = none := by
  unfold Team.join
  cases hs : skipEmptied t.stack with
  | nil => rfl
  | cons e rest =>
    cases e with
    | call => rfl
    | rejoin => cases h _ _ hs
    | pending => cases h _ _ hs

/-- JOIN at an entry that has lanes. -/
theorem join_top {t : Team} {e : DivEntry} {rest : List DivEntry} (p : PathRec) {m : Mask} (hs : t.stack = e :: rest)
    (hm : e.mask? = some m) (h0 : m ≠ 0) : t.join (some p) = some (t.resumeAt (some p) e rest) := by
  have h : e.mask? ≠ some 0 := fun h => h0 (Option.some.inj (hm.symm.trans h))
  obtain ⟨h1, h2⟩ := skipEmptied_cons (rest := rest) h
  have hw : skippedWrites t.stack = 0 := by rw [hs, h2]
  rw [join_at (e := e) (rest := rest) p (by rw [hs, h1]) (by rw [hm]; exact nofun), hw, past_zero, written_or_zero]

/-- JOIN with an emptied entry on top acts on the entries below it. -/
theorem join_emptied {t u : Team} {e : DivEntry} {rest : List DivEntry} (hs : t.stack = e :: rest) (hm : e.mask? = some 0)
    (hu : u = { t with stack := rest, written := t.written ||| e.outer }) :
    t.join (some t.pathRec) = u.join (some u.pathRec) := by
  obtain ⟨h1, h2⟩ := skipEmptied_emptied (rest := rest) hm
  have hstack : skipEmptied t.stack = skipEmptied u.stack := by rw [hs, h1, hu]
  by_cases h : ∀ e' rest', skipEmptied t.stack = e' :: rest' → e'.mask? = none
  · rw [join_none _ h, join_none _ (hstack ▸ h)]
  · push Not at h
    obtain ⟨e', rest', ht, he'⟩ := h
    rw [join_at _ ht he', join_at _ (hstack ▸ ht) he']
    subst hu
    simp only [hs, h2, PathRec.past, Team.pathRec, ← BitVec.or_assoc]
    exact congrArg some (resumeAt_stack _ rest _ e' rest').symm

section
variable {s : State} (hp : s.plain = true) (hl : s.lastInClause = true)
include hp hl

/-- JOIN that finds an entry. -/
theorem exec_join {u : Team} (h : s.cur.join (some s.cur.pathRec) = some u) :
    exec .join s = .next (s.setCur (u.landed s.cur.clause)) :=
  issue_jump hp (controlSpec_conds hl 2) (by simp [h]) (by simp [h])

/-- JOIN that finds none is ILLEGAL. -/
theorem exec_join_illegal (hh : s.hasHandler = true) (h : s.cur.join (some s.cur.pathRec) = none) :
    TrapsHere .join s ⟨1, 0, 0⟩ :=
  trapsHere_of_own_conds hp hh rfl (controlSpec_conds hl 2) ⟨(none, tILLEGAL), by simp [h], rfl⟩
    (fun c hc => .inl (by rw [(mem_whenCond.1 hc).2]; rfl)) (by decide)

/-- JOIN at an entry that has lanes goes on there. -/
theorem exec_join_top {e : DivEntry} {rest : List DivEntry} {m : Mask} (hs : s.cur.stack = e :: rest) (hm : e.mask? = some m)
    (h0 : m ≠ 0) : exec .join s = .next (s.setCur ((s.cur.resumeAt (some s.cur.pathRec) e rest).landed s.cur.clause)) :=
  exec_join hp hl (join_top _ hs hm h0)

/-- JOIN with an emptied entry on top does what it does without the entry. -/
theorem exec_join_emptied {e : DivEntry} {rest : List DivEntry} {t : State} {w : BitVec 24} (hs : s.cur.stack = e :: rest)
    (hm : e.mask? = some 0) (hw : w = s.cur.written ||| e.outer)
    (ht : exec .join (s.setCur { s.cur with stack := rest, written := w }) = .next t)
    (hlev : t.cur.hlevel = s.cur.hlevel) (hh : s.hasHandler = true) : exec .join s = .next t := by
  have hj := join_emptied hs hm (u := { s.cur with stack := rest, written := w }) (by rw [hw])
  cases h : s.cur.join (some s.cur.pathRec) with
  | some u =>
    rw [exec_join hp hl h]
    rw [exec_join (s := s.setCur { s.cur with stack := rest, written := w }) hp hl (hj ▸ h)] at ht
    exact ht
  | none =>
    obtain ⟨t', ht', hent⟩ := exec_join_illegal (s := s.setCur { s.cur with stack := rest, written := w }) hp hl hh (hj ▸ h)
    have hsame : t' = t := by simpa using ht'.symm.trans ht
    have hup : t.cur.hlevel = true := by
      rw [← hsame, Team.hlevel, hent.level]
      simp
    simp [State.hasHandler, ← hlev, hup] at hh

end

/-- Settles O26: the cases of the top entry. -/
theorem joinActsOnTopEntry : Obligations.JoinActsOnTopEntry := by
  unfold Obligations.JoinActsOnTopEntry
  intro s hp hl
  refine ⟨fun x m sc w rest hs h0 => ?_, fun x m base o paths rest l hs hlow => ?_, fun e rest t hs hm ht hlev hh => ?_,
    fun hh hs => ?_⟩
  · refine ⟨_, exec_join_top hp hl hs rfl h0, by simp [Team.resumeAt], by simp [Team.resumeAt], by simp [Team.resumeAt],
      by simp [Team.resumeAt], ?_, ?_, (flowFrame_resumeAt ⟨rfl, rfl, rfl⟩ ⟨rfl, rfl, rfl, rfl⟩).landed⟩
    · simpa [Team.resumeAt] using congrArg List.length (recordPath_masks s.cur.pathRec rest)
    · simpa [Team.resumeAt] using recordPath_masks s.cur.pathRec rest
  · have h0 : m ≠ 0 := by
      rintro rfl
      simp [lowestLane] at hlow
    refine ⟨_, exec_join_top hp hl hs rfl h0, by simp [Team.resumeAt], by simp [Team.resumeAt], by simp [Team.resumeAt],
      by simp [Team.resumeAt], ?_, (flowFrame_resumeAt ⟨rfl, rfl, rfl⟩ ⟨rfl, rfl, rfl, rfl⟩).landed⟩
    simp only [State.setCur_cur, Team.landed_s, Team.resumeAt, hlow]
    exact mergedScalars_merge l _ base
  · refine exec_join_emptied hp hl hs hm ?_ ht hlev hh
    cases e with
    | rejoin => rfl
    | pending => exact BitVec.or_zero.symm
    | call => cases hm
  · refine exec_join_illegal hp hl hh (join_none _ fun e rest he => ?_)
    rcases hs with hs | ⟨e', rest', hs, hm⟩
    · rw [hs] at he
      cases he
    · rw [hs, (skipEmptied_cons (by rw [hm]; exact nofun)).1] at he
      cases he
      exact hm

/-! ## RET (R77, R122) -/

/-- Lanes return exactly where the stack holds a CALL entry. -/
theorem returnTo_eq_none (lanes : Mask) (p : PathRec) (crossed : Bool) (es : List DivEntry) :
    returnTo lanes p crossed es = none ↔ ∀ e ∈ es, e.mask? ≠ none := by
  induction es generalizing crossed with
  | nil => simp [returnTo]
  | cons e es ih => cases e <;> simp [returnTo, DivEntry.mask?, ih]

/-- The stack that they leave is not empty. -/
theorem returnTo_ne_nil {lanes : Mask} {p : PathRec} {crossed : Bool} {es : List DivEntry} :
    returnTo lanes p crossed es ≠ some [] := by
  cases es with
  | nil => exact nofun
  | cons e es => cases e <;> simp [returnTo]

/-- What a path that returns has written. -/
def Team.returning (t : Team) : PathRec := t.pathRec.past (skippedWrites t.stack)

/-- RET goes on at the entry on top, once the lanes have been added to the CALL entry. -/
theorem ret_at {t : Team} {e : DivEntry} {rest : List DivEntry}
    (h : returnTo t.mask t.returning false (skipEmptied t.stack) = some (e :: rest)) :
    t.ret = some (({ t with mask := 0 }).resumeAt (some t.returning) e rest) := by
  unfold Team.ret
  rw [Team.returning] at h ⊢
  simp only [h]

/-- RET without a CALL entry. -/
theorem ret_none {t : Team} (h : ∀ e ∈ t.stack, e.mask? ≠ none) : t.ret = none := by
  have hnone : returnTo t.mask t.returning false (skipEmptied t.stack) = none := by
    rw [returnTo_eq_none]
    intro e he hm
    obtain ⟨e', he', hm'⟩ := (skipEmptied_call t.stack).1 ⟨e, he, hm⟩
    exact h e' he' hm'
  unfold Team.ret
  rw [Team.returning] at hnone
  simp only [hnone]

/-- RET with a CALL entry. -/
theorem ret_some {t : Team} (h : ∃ e ∈ t.stack, e.mask? = none) : ∃ e rest,
    t.ret = some (({ t with mask := 0 }).resumeAt (some t.returning) e rest) := by
  cases hr : returnTo t.mask t.returning false (skipEmptied t.stack) with
  | none =>
    obtain ⟨e, he, hm⟩ := (skipEmptied_call t.stack).2 h
    exact absurd hm ((returnTo_eq_none ..).1 hr e he)
  | some es =>
    cases es with
    | nil => exact absurd hr returnTo_ne_nil
    | cons e rest => exact ⟨e, rest, ret_at hr⟩

/-- RET with a stack that skips nothing. -/
theorem returning_top {t : Team} {e : DivEntry} {rest : List DivEntry} (hs : t.stack = e :: rest) (h : e.mask? ≠ some 0) :
    t.returning = t.pathRec ∧ skipEmptied t.stack = e :: rest := by
  obtain ⟨h1, h2⟩ := skipEmptied_cons (rest := rest) h
  rw [Team.returning, hs, h1, h2, past_zero]
  exact ⟨rfl, rfl⟩

/-- What a return leaves alone. -/
theorem flowFrame_returned {s : State} {p : Option PathRec} {e : DivEntry} {rest : List DivEntry} {c : Option Clause} :
    FlowFrame s (s.setCur ((({ s.cur with mask := 0 }).resumeAt p e rest).landed c)) :=
  (flowFrame_resumeAt (u := { s.cur with mask := 0 }) ⟨rfl, rfl, rfl⟩ ⟨rfl, rfl, rfl, rfl⟩).landed

section
variable {s : State} (hp : s.plain = true) (hl : s.lastInClause = true)
include hp hl

/-- RET that finds a CALL entry. -/
theorem exec_ret {u : Team} (h : s.cur.ret = some u) : exec .ret s = .next (s.setCur (u.landed s.cur.clause)) :=
  issue_jump hp (controlSpec_conds hl 2) (by simp [h]) (by simp [h])

/-- RET that finds none is ILLEGAL. -/
theorem exec_ret_illegal (hh : s.hasHandler = true) (h : ∀ e ∈ s.cur.stack, e.mask? ≠ none) : TrapsHere .ret s ⟨1, 0, 0⟩ :=
  trapsHere_of_own_conds hp hh rfl (controlSpec_conds hl 2) ⟨(none, tILLEGAL), by simp [ret_none h], rfl⟩
    (fun c hc => .inl (by rw [(mem_whenCond.1 hc).2]; rfl)) (by decide)

/-- RET with a CALL entry completes. -/
theorem exec_ret_completes (h : ∃ e ∈ s.cur.stack, e.mask? = none) : ∃ t, exec .ret s = .next t ∧ FlowFrame s t := by
  obtain ⟨e, rest, hr⟩ := ret_some h
  exact ⟨_, exec_ret hp hl hr, flowFrame_returned⟩

/-- RET with the CALL entry on top: the lanes that returned go on at the return address. -/
theorem exec_ret_last {x : DWord} {md : ModeVal} {ret cd : Mask} {base : Table Word} {o : BitVec 24} {paths : List PathRec}
    {rest : List DivEntry} {l : Nat} (hs : s.cur.stack = .call x md ret cd base o paths :: rest) (hlow : lowestLane cd = some l) :
    ∃ t, exec .ret s = .next t ∧ t.cur.mask = ret ||| s.cur.mask ∧ t.cur.pc = x ∧ t.cur.mode = md ∧ t.cur.stack = rest ∧
      MergedScalars l (paths ++ [s.cur.pathRec]) base t.cur.s ∧ FlowFrame s t := by
  obtain ⟨h1, h2⟩ := returning_top hs nofun
  have hr := ret_at (t := s.cur) (e := .call x md (ret ||| s.cur.mask) cd base o paths) (rest := rest) (by rw [h2]; rfl)
  refine ⟨_, exec_ret hp hl hr, by simp [Team.resumeAt], by simp [Team.resumeAt], by simp [Team.resumeAt], by simp [Team.resumeAt], ?_,
    flowFrame_returned⟩
  simp only [State.setCur_cur, Team.landed_s, Team.resumeAt, hlow, h1]
  exact mergedScalars_merge l _ base

/-- RET with lanes pending above the CALL entry: they run first. -/
theorem exec_ret_pending {x y : DWord} {m ret cd : Mask} {sc base : Table Word} {w o : BitVec 24} {md : ModeVal}
    {paths : List PathRec} {rest : List DivEntry}
    (hs : s.cur.stack = .pending x m sc w false :: .call y md ret cd base o paths :: rest) (h0 : m ≠ 0) :
    ∃ t, exec .ret s = .next t ∧ t.cur.mask = m ∧ t.cur.pc = x ∧ t.cur.s = sc ∧ t.cur.mode = s.cur.mode ∧
      t.cur.stack = .call y md (ret ||| s.cur.mask) cd base o (paths ++ [s.cur.pathRec]) :: rest ∧ FlowFrame s t := by
  obtain ⟨h1, h2⟩ := returning_top hs (fun h => h0 (Option.some.inj h))
  have hr := ret_at (t := s.cur) (e := .pending x m sc w false) (rest := .call y md (ret ||| s.cur.mask) cd base o paths :: rest)
    (by rw [h2]; rfl)
  refine ⟨_, exec_ret hp hl hr, by simp [Team.resumeAt], by simp [Team.resumeAt], by simp [Team.resumeAt], by simp [Team.resumeAt], ?_,
    flowFrame_returned⟩
  simp [Team.resumeAt, recordPath, h1]

end

/-! ## MARK and CALL (R77, R118, R120) -/

/-- The conditions of MARK and CALL do not hold. -/
theorem callConds_nil {s : State} {b : Code} (hb : skOk s.cur true b = true) (ha : (s.cur.branchTo b).toNat % 4 = 0)
    (hroom : s.cur.stack.length < 4096) : callConds b s.cur s = [] := by
  have hr : s.cur.stackRoom 1 = true := decide_eq_true hroom
  simp [callConds, alignCond, hb, hr, target_eq, ha]

section
variable {s : State} {b : Code} (hp : s.plain = true) (hl : s.lastInClause = true) (hb : skOk s.cur true b = true)
  (ha : (s.cur.branchTo b).toNat % 4 = 0) (hroom : s.cur.stack.length < 4096)
include hp hl hb ha hroom

/-- MARK pushes its entry and goes on at next (R118). -/
theorem exec_mark : exec (.mark b) s = .next (s.setCur { s.cur.landsAt s.cur.nextPc with
    stack := .rejoin (s.cur.branchTo b) s.cur.mask s.cur.s s.cur.written [] :: s.cur.stack
    written := 0 }) :=
  issue_goTo (u := { s.cur with
      stack := .rejoin (s.cur.branchTo b) s.cur.mask s.cur.s s.cur.written [] :: s.cur.stack, written := 0 })
    hp (controlSpec_conds hl 2) (callConds_nil hb ha hroom) rfl ⟨rfl, rfl, rfl⟩

/-- CALL pushes its entry and goes to its target (R120). -/
theorem exec_call : exec (.call b) s = .next (s.setCur { s.cur.landsAt (s.cur.branchTo b) with
    stack := .call s.cur.nextPc s.cur.mode 0 s.cur.mask s.cur.s s.cur.written [] :: s.cur.stack
    written := 0 }) :=
  issue_goTo (u := { s.cur with
      stack := .call s.cur.nextPc s.cur.mode 0 s.cur.mask s.cur.s s.cur.written [] :: s.cur.stack, written := 0 })
    hp (controlSpec_conds hl 2) (callConds_nil hb ha hroom) rfl ⟨rfl, rfl, rfl⟩

end

/-! ## Groups of equal targets (R78, R121) -/

/-- A lane joins the group of its target. -/
def joinGroup (f : Nat → DWord) (gs : List (DWord × Mask)) (l : Nat) : List (DWord × Mask) :=
  if gs.any (fun g => g.1 == f l) then gs.map (fun g => if g.1 == f l then (g.1, g.2 ||| laneBit l) else g)
  else gs ++ [(f l, laneBit l)]

/-- The groups, lane by lane. -/
theorem callGroups_eq (t : Team) (a : Code) :
    t.callGroups a = (lanesOf t.size t.mask).foldl (joinGroup (fun l => t.opnd64 l a)) [] := rfl

/-- The bit of a lane. -/
theorem laneBit_getLsbD {k l : Nat} (hl : l < 1024) : (laneBit l).getLsbD k = decide (k = l) := by
  rw [laneBit, show (1 : Mask) = 1#1024 from rfl, BitVec.getLsbD_shiftLeft, BitVec.getLsbD_one]
  by_cases h : k = l
  · subst h
    simp [hl]
  · have h0 : ¬ (l ≤ k ∧ k - l = 0) := by omega
    simp [h]
    omega

/-- Groups of lanes: one for each target, in the order of their first lanes, with exactly the lanes of the target. -/
structure Grouped (f : Nat → DWord) (ls : List Nat) (gs : List (DWord × Mask)) : Prop where
  targets : gs.map Prod.fst = (ls.map f).eraseDups
  lanes : ∀ g ∈ gs, ∀ k, g.2.getLsbD k = true ↔ k ∈ ls ∧ f k = g.1

section
variable {f : Nat → DWord} {ls : List Nat} {gs : List (DWord × Mask)} (h : Grouped f ls gs)
include h

/-- A target is one of the groups' exactly where a lane has it. -/
theorem Grouped.mem_targets {x : DWord} : (∃ g ∈ gs, g.1 = x) ↔ ∃ k ∈ ls, f k = x := by
  rw [← List.mem_map, ← List.mem_map, h.targets, List.mem_eraseDups]

/-- As many groups as targets. -/
theorem Grouped.length : gs.length = ((ls.map f).eraseDups).length := by
  rw [← h.targets, List.length_map]

/-- One more lane of a target that has a group. -/
theorem Grouped.extend {l : Nat} (hl : l < 1024) (hin : ∃ k ∈ ls, f k = f l) :
    Grouped f (ls ++ [l]) (gs.map (fun g => if g.1 == f l then (g.1, g.2 ||| laneBit l) else g)) := by
  constructor
  · have hsame : (fun g : DWord × Mask => (if g.1 == f l then (g.1, g.2 ||| laneBit l) else g).1) = Prod.fst := by
      funext g
      split <;> rfl
    rw [List.map_map, Function.comp_def, hsame, h.targets, List.map_append, List.eraseDups_append]
    simp [List.removeAll, hin]
  · intro g' hg' k
    obtain ⟨g, hg, rfl⟩ := List.mem_map.1 hg'
    have hm := h.lanes g hg k
    rw [List.mem_append, List.mem_singleton]
    by_cases heq : g.1 = f l
    · simp only [heq, beq_self_eq_true, if_true, BitVec.getLsbD_or, laneBit_getLsbD hl, Bool.or_eq_true, decide_eq_true_eq]
      rw [hm, heq]
      constructor
      · rintro (⟨hk, hf⟩ | rfl)
        · exact ⟨.inl hk, hf⟩
        · exact ⟨.inr rfl, rfl⟩
      · rintro ⟨hk | hk, hf⟩
        · exact .inl ⟨hk, hf⟩
        · exact .inr hk
    · simp only [beq_eq_false_iff_ne.2 heq, Bool.false_eq_true, if_false]
      rw [hm]
      constructor
      · exact fun ⟨hk, hf⟩ => ⟨.inl hk, hf⟩
      · rintro ⟨hk | rfl, hf⟩
        · exact ⟨hk, hf⟩
        · exact absurd hf.symm heq

/-- One more lane, of a new target. -/
theorem Grouped.append {l : Nat} (hl : l < 1024) (hin : ¬ ∃ k ∈ ls, f k = f l) :
    Grouped f (ls ++ [l]) (gs ++ [(f l, laneBit l)]) := by
  constructor
  · have hrem : [f l].removeAll (ls.map f) = [f l] := by simpa [List.removeAll] using hin
    rw [List.map_append, h.targets, List.map_append, List.eraseDups_append, List.map_singleton, List.map_singleton, hrem]
    rfl
  · intro g hg' k
    rw [List.mem_append, List.mem_singleton]
    rcases List.mem_append.1 hg' with hg | hg
    · rw [h.lanes g hg k]
      constructor
      · exact fun ⟨hk, hf⟩ => ⟨.inl hk, hf⟩
      · rintro ⟨hk | rfl, hf⟩
        · exact ⟨hk, hf⟩
        · exact absurd (h.mem_targets.1 ⟨g, hg, hf.symm⟩) hin
    · obtain rfl := List.mem_singleton.1 hg
      rw [laneBit_getLsbD hl, decide_eq_true_eq]
      constructor
      · rintro rfl
        exact ⟨.inr rfl, rfl⟩
      · rintro ⟨hk | hk, hf⟩
        · exact absurd ⟨k, hk, hf⟩ hin
        · exact hk

/-- One more lane. -/
theorem Grouped.joinGroup {l : Nat} (hl : l < 1024) : Grouped f (ls ++ [l]) (joinGroup f gs l) := by
  have hany : gs.any (fun g => g.1 == f l) = true ↔ ∃ k ∈ ls, f k = f l := by
    rw [← h.mem_targets]
    simp [List.any_eq_true]
  unfold Machine.joinGroup
  split
  next hin => exact h.extend hl (hany.1 hin)
  next hin => exact h.append hl (fun hk => hin (hany.2 hk))

end

/-- The groups that a call makes of lanes. -/
theorem grouped_foldl (f : Nat → DWord) (ls : List Nat) (h : ∀ l ∈ ls, l < 1024) : Grouped f ls (ls.foldl (joinGroup f) []) := by
  induction ls using List.reverseRecOn with
  | nil => exact ⟨rfl, by simp⟩
  | append_singleton ls l ih =>
    rw [List.foldl_append]
    exact (ih fun k hk => h k (by simp [hk])).joinGroup (h l (by simp))

/-- The groups of CALLI. -/
theorem callGroups_grouped (t : Team) (a : Code) :
    Grouped (fun l => t.opnd64 l a) (lanesOf t.size t.mask) (t.callGroups a) := by
  rw [callGroups_eq]
  refine grouped_foldl _ _ fun l hl => ?_
  by_contra hge
  have h := (mem_lanesOf.1 hl).2
  rw [BitVec.getLsbD_of_ge _ _ (by omega)] at h
  cases h

/-- The lowest lane's group is the first. -/
theorem Grouped.first {f : Nat → DWord} {l : Nat} {ls : List Nat} {gs : List (DWord × Mask)} (h : Grouped f (l :: ls) gs) :
    ∃ g gs', gs = g :: gs' ∧ g.1 = f l := by
  have ht := h.targets
  rw [List.map_cons, List.eraseDups_cons] at ht
  obtain ⟨g, gs', hgs, hg, -⟩ := List.map_eq_cons_iff.1 ht
  exact ⟨g, gs', hgs, hg⟩

/-! ## CALLI (R78, R121) -/

/-- The conditions of CALLI (R121). -/
def calliConds (a : Code) (t : Team) (_ : State) : List Cond :=
  okCond (vRun t 2 2 a) ++ (t.callGroups a).flatMap (fun g => alignCond g.1) ++
    whenCond (!t.stackRoom ((t.callGroups a).length)) tSPILLFULL

/-- A team that goes to the target of its lowest lane, the lanes of the others pending (R78). -/
def Team.calls (t : Team) (g : DWord × Mask) (gs : List (DWord × Mask)) : Team :=
  { t.goTo g.1 with
    mask := g.2
    stack := gs.map (fun x => DivEntry.pending x.1 x.2 t.s 0 false) ++ t.callEntry :: t.stack
    written := 0 }

/-- The body of CALLI. -/
def calliRun (a : Code) (s : State) : Res :=
  match s.cur.callGroups a with
  | [] => .jump (s.setCur (s.cur.goTo s.cur.nextPc))
  | g :: gs => .jump (s.setCur (s.cur.calls g gs))

/-- CALLI issues them. -/
theorem exec_calli_eq (a : Code) (s : State) : exec (.calli a) s =
    issue { controlSpec 2 with lanes := .active } { reads := [(a, 2)], writes := [] } (calliConds a) (calliRun a) s := rfl

section
variable {s : State} {a : Code} (hp : s.plain = true) (hl : s.lastInClause = true) (ha : vRun s.cur 2 2 a = true)
  (halign : ∀ k, k < s.cur.size → s.cur.mask.getLsbD k = true → (s.cur.opnd64 k a).toNat % 4 = 0)
  (hroom : s.cur.stack.length + (((lanesOf s.cur.size s.cur.mask).map (fun k => s.cur.opnd64 k a)).eraseDups).length ≤ 4096)
include hp hl ha halign hroom

omit hp hl in
/-- The conditions of CALLI do not hold. -/
theorem calliConds_nil : calliConds a s.cur s = [] := by
  have hg := callGroups_grouped s.cur a
  have hr : s.cur.stackRoom ((s.cur.callGroups a).length) = true := decide_eq_true (by rw [hg.length]; exact hroom)
  have hal : (s.cur.callGroups a).flatMap (fun g => alignCond g.1) = [] := by
    refine List.flatMap_eq_nil_iff.2 fun g hm => ?_
    obtain ⟨k, hk, hf⟩ := hg.mem_targets.1 ⟨g, hm, rfl⟩
    obtain ⟨hsize, hmask⟩ := mem_lanesOf.1 hk
    simp [alignCond, ← hf, halign k hsize hmask]
  simp [calliConds, ha, hr, hal]

/-- CALLI with lanes: the group of the lowest goes to its target. -/
theorem exec_calli_groups {g : DWord × Mask} {gs : List (DWord × Mask)} (hg : s.cur.callGroups a = g :: gs) :
    exec (.calli a) s = .next (s.setCur ((s.cur.calls g gs).landed s.cur.clause)) := by
  have hrun : calliRun a s = .jump (s.setCur (s.cur.calls g gs)) := by rw [calliRun, hg]
  exact (exec_calli_eq a s).trans (issue_jump hp (controlSpec_conds hl 2) (calliConds_nil ha halign hroom) hrun)

/-- CALLI completes and keeps MODE and the scalars. -/
theorem exec_calli_completes : ∃ t, exec (.calli a) s = .next t ∧ FlowFrame s t ∧ t.cur.s = s.cur.s ∧ t.cur.mode = s.cur.mode := by
  cases hg : s.cur.callGroups a with
  | nil =>
    have hrun : calliRun a s = .jump (s.setCur (s.cur.goTo s.cur.nextPc)) := by rw [calliRun, hg]
    refine ⟨_, (exec_calli_eq a s).trans (issue_jump hp (controlSpec_conds hl 2) (calliConds_nil ha halign hroom) hrun), ?_, ?_, ?_⟩
    · exact FlowFrame.landed ⟨⟨rfl, rfl, rfl⟩, ⟨rfl, rfl, rfl, rfl⟩, ⟨rfl, rfl⟩, rfl⟩
    · simp [Team.goTo]
    · simp [Team.goTo]
  | cons g gs =>
    refine ⟨_, exec_calli_groups hp hl ha halign hroom hg, ?_, ?_, ?_⟩
    · exact FlowFrame.landed ⟨⟨rfl, rfl, rfl⟩, ⟨rfl, rfl, rfl, rfl⟩, ⟨rfl, rfl⟩, rfl⟩
    · simp [Team.calls, Team.goTo]
    · simp [Team.calls, Team.goTo]

/-- CALLI divides the mask by targets (R78). -/
theorem exec_calli_divides {l : Nat} (hsize : l < s.cur.size) (hmask : s.cur.mask.getLsbD l = true)
    (hlow : ∀ k, k < l → s.cur.mask.getLsbD k = false) :
    ∃ t pend, exec (.calli a) s = .next t ∧ t.cur.pc = s.cur.opnd64 l a ∧
      (∀ k, k < s.cur.size → (t.cur.mask.getLsbD k = true ↔ s.cur.mask.getLsbD k = true ∧ s.cur.opnd64 k a = s.cur.opnd64 l a)) ∧
      t.cur.stack = pend ++ .call s.cur.nextPc s.cur.mode 0 s.cur.mask s.cur.s s.cur.written [] :: s.cur.stack ∧
      (∀ e ∈ pend, ∃ x m, e = DivEntry.pending x m s.cur.s 0 false ∧ m ≠ 0 ∧
        ∀ k, k < s.cur.size → (m.getLsbD k = true ↔ s.cur.mask.getLsbD k = true ∧ s.cur.opnd64 k a = x)) ∧
      (∀ k, k < s.cur.size → s.cur.mask.getLsbD k = true → t.cur.mask.getLsbD k = true ∨
        ∃ e ∈ pend, ∃ m, e.mask? = some m ∧ m.getLsbD k = true) ∧
      t.cur.s = s.cur.s ∧ t.cur.mode = s.cur.mode ∧ FlowFrame s t := by
  have hg := callGroups_grouped s.cur a
  have hhead := lanesOf_head_of_lowest (mem_lanesOf.2 ⟨hsize, hmask⟩) hlow
  obtain ⟨ls, hls⟩ := List.head?_eq_some_iff.1 hhead
  obtain ⟨g, gs, hgs, hfst⟩ := (hls ▸ hg).first
  have hbits : ∀ x ∈ g :: gs, ∀ k, k < s.cur.size →
      (x.2.getLsbD k = true ↔ s.cur.mask.getLsbD k = true ∧ s.cur.opnd64 k a = x.1) := by
    intro x hx k hk
    rw [hg.lanes x (hgs ▸ hx) k, mem_lanesOf]
    simp only [hk, true_and]
  refine ⟨_, gs.map (fun x => DivEntry.pending x.1 x.2 s.cur.s 0 false), exec_calli_groups hp hl ha halign hroom hgs, ?_, ?_, ?_, ?_, ?_,
    ?_, ?_, ?_⟩
  · simp [Team.calls, Team.goTo, hfst]
  · simpa [Team.calls, hfst] using hbits g (by simp)
  · simp [Team.calls, Team.callEntry]
  · intro e he
    obtain ⟨x, hx, rfl⟩ := List.mem_map.1 he
    refine ⟨x.1, x.2, rfl, fun h0 => ?_, hbits x (by simp [hx])⟩
    obtain ⟨k, hk, hf⟩ := hg.mem_targets.1 ⟨x, by simp [hgs, hx], rfl⟩
    have hbit := (hg.lanes x (by simp [hgs, hx]) k).2 ⟨hk, hf⟩
    simp [h0] at hbit
  · intro k hk hm
    obtain ⟨x, hx, hf⟩ := hg.mem_targets.2 ⟨k, mem_lanesOf.2 ⟨hk, hm⟩, rfl⟩
    rw [hgs] at hx
    have hbit := (hbits x hx k hk).2 ⟨hm, hf.symm⟩
    rcases List.mem_cons.1 hx with rfl | hx
    · exact .inl (by simpa [Team.calls] using hbit)
    · exact .inr ⟨_, List.mem_map_of_mem hx, x.2, rfl, hbit⟩
  · simp [Team.calls, Team.goTo]
  · simp [Team.calls, Team.goTo]
  · exact FlowFrame.landed ⟨⟨rfl, rfl, rfl⟩, ⟨rfl, rfl, rfl, rfl⟩, ⟨rfl, rfl⟩, rfl⟩

end

/-- Settles O25: the entries that each call pushes, and where RET goes on. -/
theorem callsPushAndReturn : Obligations.CallsPushAndReturn := by
  unfold Obligations.CallsPushAndReturn
  refine ⟨fun s a b hp hl => ⟨fun hb ha hroom => ?_, fun ha halign hroom => ?_, fun l ha hsize hmask hlow halign hroom => ?_⟩,
    fun s hp hl => ⟨exec_ret_completes hp hl, fun x md ret cd base o paths rest l hs hlow => exec_ret_last hp hl hs hlow,
      fun x m sc w y md ret cd base o paths rest hs h0 => exec_ret_pending hp hl hs h0, exec_ret_illegal hp hl⟩⟩
  · exact ⟨exec_mark hp hl hb ha hroom, exec_call hp hl hb ha hroom⟩
  · exact exec_calli_completes hp hl ha halign hroom
  · exact exec_calli_divides hp hl ha halign hroom hsize hmask hlow

/-! ## EXIT (R74, R123) -/

/-- EXIT with an empty stack ends the team. -/
theorem exitLanes_last {t : Team} (hs : t.stack = []) : t.exitLanes =
    { t with bindings := [], mask := 0, stack := [], clause := none, ending := true, park := .running } := by
  simp [Team.exitLanes, hs, Team.unwind, Team.unbindLanes]

/-- EXIT goes on at a PENDING entry on top that keeps lanes. -/
theorem exitLanes_pending {t : Team} {x : DWord} {m : Mask} {sc : Table Word} {w : BitVec 24} {rest : List DivEntry}
    (hs : t.stack = .pending x m sc w false :: rest) (hm : m &&& ~~~ t.mask ≠ 0) : t.exitLanes =
    { t.unbindLanes t.mask with
      mask := m &&& ~~~ t.mask
      pc := x
      idx := 0
      clause := none
      s := sc
      written := w
      pathExtra := 0
      stack := recordPath t.pathRec (rest.map (DivEntry.without t.mask)) } := by
  have h : (DivEntry.pending x (m &&& ~~~ t.mask) sc w false).mask? ≠ some 0 := fun h => hm (Option.some.inj h)
  simp only [Team.exitLanes, hs, List.map_cons, DivEntry.without, Team.unwind]
  rw [if_neg h]
  rfl

/-- EXIT of a team. -/
theorem exec_exit {s : State} (hp : s.plain = true) (hl : s.lastInClause = true) : exec .exit s =
    .next ((s.cutBinds s.cur.uid s.cur.mask).setCur (s.cur.exitLanes.landed s.cur.clause)) := by
  obtain ⟨hteam, -, -, -, -, -, hstep, -⟩ := (State.plain_iff s).1 hp
  have hspec := Spec.conds_nil (sp := { controlSpec 2 with spindle := true }) (fun _ => hl) (by simp [controlSpec]) (by simp [controlSpec])
  refine (issue_plain hp hspec rfl).trans ?_
  simp only [hteam]
  rw [conclude_jump hstep]
  rfl

/-- Settles O27: an empty stack, and a PENDING entry that keeps lanes. -/
theorem exitEndsLanes : Obligations.ExitEndsLanes := by
  unfold Obligations.ExitEndsLanes
  refine fun s hp hl => ⟨fun hs => ⟨_, exec_exit hp hl, ?_⟩, fun x m sc w rest hs hm => ⟨_, exec_exit hp hl, ?_⟩⟩
  · rw [exitLanes_last hs]
    simp [State.cutBinds]
  · obtain ⟨-, -, hend, -⟩ := (State.plain_iff s).1 hp
    have hmasks : (DivEntry.mask? ∘ DivEntry.without s.cur.mask) = fun e => e.mask?.map (fun k => k &&& ~~~ s.cur.mask) :=
      funext (mask?_without s.cur.mask)
    rw [exitLanes_pending hs hm]
    simp [State.cutBinds, Team.unbindLanes, hend, recordPath_masks, hmasks]

end Sys2Proof.Machine
end

section
/-! SUPPORT. Where software traps and the return from the handler land, and the end of a workgroup whose trap has no handler
(R79–R81, R124–R126, R366, R452). -/

namespace Sys2Proof.Machine

/-! ## Software traps (R124, R125) -/

/-- What trap entry leaves, the end of the transfer leaves too. -/
theorem TrapEntered.landed {s t : State} {x : Trap} {pc : DWord} {m : Mask} {c : Option Clause} (h : TrapEntered s t x pc m) :
    TrapEntered s (t.setCur (t.cur.landed c)) x pc m where
  faultPc := by simpa using h.faultPc
  faultInfo := by simpa using h.faultInfo
  faultMask := by simpa using h.faultMask
  saved := by simpa using h.saved
  level := by simpa using h.level
  mode := by simpa using h.mode
  mask := by simpa using h.mask
  vector := by simpa using h.vector
  registers := by simpa using h.registers
  flags := by simpa using h.flags
  stack := by simpa using h.stack
  memory := h.memory
  outside := by
    have ho : t = { s with cur := t.cur } := h.outside
    rw [ho]
    rfl

/-- A software trap of a team without a region takes its trap and is complete. -/
theorem issue_softTrap {sp : Spec} {uses : Uses} {conds : Team → State → List Cond} {run : State → Res} {s : State} {x : Trap}
    (hp : s.plain = true) (hs : sp.conds s.cur = []) (hc : conds s.cur s = []) (hr : run s = s.softTrap x) :
    issue sp uses conds run s = .next ((s.takeTrap x 0 (faultPcWord s.cur.nextPc 0)).setCur
      ((s.takeTrap x 0 (faultPcWord s.cur.nextPc 0)).cur.landed s.cur.clause)) := by
  obtain ⟨-, -, -, -, -, hreg, hstep, -⟩ := (State.plain_iff s).1 hp
  have hjump : s.softTrap x = .jump (s.takeTrap x 0 (faultPcWord s.cur.nextPc 0)) := by
    simp [State.softTrap, hreg, faultPcOf_eq]
  rw [issue_plain hp hs hc, hr, hjump, conclude_jump hstep]

section
variable {s : State} (hp : s.plain = true) (hl : s.lastInClause = true)
include hp hl

/-- BRK takes its trap (R125). -/
theorem exec_brk : exec .brk s = .next ((s.takeTrap ⟨20, 0, 0⟩ 0 (faultPcWord s.cur.nextPc 0)).setCur
    ((s.takeTrap ⟨20, 0, 0⟩ 0 (faultPcWord s.cur.nextPc 0)).cur.landed s.cur.clause)) :=
  issue_softTrap hp (controlSpec_conds hl 0) rfl rfl

/-- BRK enters the handler. -/
theorem exec_brk_enters (hh : s.hasHandler = true) :
    ∃ t, exec .brk s = .next t ∧ TrapEntered s t ⟨20, 0, 0⟩ (faultPcWord s.cur.nextPc 0) 0 :=
  ⟨_, exec_brk hp hl, (takeTrap_entered hh).landed⟩

/-- TRAP enters the handler with its argument (R124). -/
theorem exec_trap_enters {b : Code} {l : Nat} (hh : s.hasHandler = true) (hlow : lowestLane s.cur.mask = some l)
    (hb : srcOk s.cur false b = true) : ∃ t, exec (.trap b) s = .next t ∧
      TrapEntered s t ⟨19, 0, (s.cur.opnd32 l b).extractLsb' 0 24⟩ (faultPcWord s.cur.nextPc 0) 0 := by
  have hspec := Spec.conds_nil (sp := { controlSpec 2 with lanes := .lowest }) (fun _ => hl) (by simp [controlSpec]) (by simp [controlSpec])
  refine ⟨_, issue_softTrap (x := ⟨19, 0, (s.cur.opnd32 l b).extractLsb' 0 24⟩) hp hspec (by simp [hb]) ?_, (takeTrap_entered hh).landed⟩
  rw [hlow]
  rfl

end

/-! ## The end of a workgroup (R79, R81, R452) -/

/-- What a list holds under a name, after a change of what it holds under the name. -/
theorem find?_map_named {α : Type} {key : α → Nat} {f : α → α} (hf : ∀ x, key (f x) = key x) (u : Nat) (xs : List α) :
    (xs.map (fun x => if key x == u then f x else x)).find? (fun x => key x == u) = (xs.find? (fun x => key x == u)).map f := by
  induction xs with
  | nil => rfl
  | cons x xs ih =>
    by_cases h : key x = u
    · simp [h, hf]
    · simpa [h] using ih

/-- A workgroup just changed. -/
theorem wg?_modWg {s : State} {u : Nat} {f : Wg → Wg} (hf : ∀ w, (f w).uid = w.uid) : (s.modWg u f).wg? u = (s.wg? u).map f :=
  find?_map_named hf u s.wgs

/-- A launch is found among the launches. -/
theorem launch?_congr {s t : State} (h : t.launches = s.launches) (id : Nat) : t.launch? id = s.launch? id := by
  unfold State.launch?
  rw [h]

/-- A launch just changed. -/
theorem launch?_modLaunch {s : State} {id : Nat} {f : Launch → Launch} (hf : ∀ l, (f l).id = l.id) :
    (s.modLaunch id f).launch? id = (s.launch? id).map f :=
  find?_map_named hf id s.launches

/-- A workgroup with a status of its own: its teams stop, and it keeps the status and the code. -/
structure Ended (s t : State) (u status trap : Nat) (w : Wg) : Prop where
  teams : ∀ x ∈ t.teams, x.live = true → x.wg = u → x.ending = true
  wg : ∃ w', t.wg? u = some w' ∧ w'.phase = .finishing ∧ w'.trap = trap ∧ w'.status = status ∧ w'.launch = w.launch ∧ w'.hank = w.hank
  launches : t.launches = s.launches
  faultInfo : t.cur.faultInfo = s.cur.faultInfo
  memory : t.mem = s.mem

/-- The first end of a workgroup gives it its status. -/
theorem endWg_ended {s : State} {u status trap : Nat} {w : Wg} (hw : s.wg? u = some w) (h0 : w.status = 0) :
    Ended s (s.endWg u status trap) u status trap w := by
  unfold State.endWg
  rw [hw]
  refine ⟨fun x hx hlive hwg => ?_, ⟨_, (wg?_modWg ?_).trans (congrArg _ hw), rfl, ?_, ?_, rfl, rfl⟩, rfl, ?_, rfl⟩
  · have hx' : x ∈ s.teams.map (fun t => if t.live && t.wg == u then t.stop else t) := hx
    obtain ⟨t, -, rfl⟩ := List.mem_map.1 hx'
    by_cases h : (t.live && t.wg == u) = true
    · rw [if_pos h]
      rfl
    · rw [if_neg h] at hlive hwg
      simp [hlive, hwg] at h
  · exact fun _ => rfl
  · exact if_pos h0
  · exact if_pos h0
  · change (if s.cur.live && s.cur.wg == u then s.cur.stop else s.cur).faultInfo = _
    split <;> rfl

/-- The end of a transfer leaves an ended workgroup as it is. -/
theorem Ended.landed {s t : State} {u status trap : Nat} {w : Wg} {c : Option Clause} (h : Ended s t u status trap w) :
    Ended s (t.setCur (t.cur.landed c)) u status trap w where
  teams x hx hlive hwg := by
    rcases List.mem_cons.1 hx with rfl | hx
    · simpa using h.teams t.cur (by simp [State.teams]) (by simpa using hlive) (by simpa using hwg)
    · exact h.teams x (List.mem_cons_of_mem _ hx) hlive hwg
  wg := h.wg
  launches := h.launches
  faultInfo := by simpa using h.faultInfo
  memory := h.memory

/-- Without a handler a trap ends the workgroup: 2 at handler level, 1 where TRAPBASE is 0 (R79, R81). -/
theorem takeTrap_ends {s : State} {x : Trap} {m : Mask} {pc : DWord} {w : Wg} (hh : s.hasHandler = false) (hw : s.wg? s.cur.wg = some w)
    (h0 : w.status = 0) : ∃ r : State, Ended r (s.takeTrap x m pc) s.cur.wg (if s.cur.hlevel then 2 else 1) x.code w ∧
      r.launches = s.launches ∧ r.mem = s.mem ∧ (s.cur.hlevel = false → r.cur.faultInfo = x.info) := by
  unfold State.takeTrap
  cases hlev : s.cur.hlevel with
  | true => exact ⟨s, endWg_ended hw h0, rfl, rfl, nofun⟩
  | false =>
    have hbase : s.curCtx.trapBase = 0 := by simpa [State.hasHandler, hlev] using hh
    rw [if_neg (by decide), if_pos hbase]
    exact ⟨{ s with cur := { s.cur with faultPc := pc, faultInfo := x.info, faultMask := m } }, endWg_ended hw h0, rfl, rfl, fun _ => rfl⟩

/-- The first end with a status of its own gives its launch the status, and stops it (R398). -/
theorem countEnd_launch? {s : State} {w : Wg} {l : Launch} (hh : w.hank = none) (hl : s.launch? w.launch = some l) (h0 : l.status = 0)
    (hs : w.status ≠ 0) : (s.countEnd w).launch? w.launch =
      some { l with ended := l.ended + 1, stopped := true, status := w.status, trap := w.trap } := by
  simp only [State.countEnd, hh]
  rw [launch?_modLaunch (fun _ => by rfl), hl]
  simp [h0, hs]

/-- BRK without a handler, or in one, ends the workgroup (R79, R81, R398, R452). -/
theorem exec_brk_ends {s : State} {w : Wg} {l : Launch} (hp : s.plain = true) (hl : s.lastInClause = true) (hh : s.hasHandler = false)
    (hw : s.wg? s.cur.wg = some w) (h0 : w.status = 0) (hlaunch : s.launch? w.launch = some l) (hhank : w.hank = none)
    (hl0 : l.status = 0) : ∃ t, exec .brk s = .next t ∧
      (∀ u ∈ t.teams, u.live = true → u.wg = s.cur.wg → u.ending = true) ∧
      (∃ w', t.wg? s.cur.wg = some w' ∧ w'.phase = .finishing ∧ w'.trap = 20 ∧ (w'.status = if s.cur.hlevel then 2 else 1) ∧
        ∃ l', (t.countEnd w').launch? w.launch = some l' ∧ l'.trap = 20 ∧ l'.stopped = true ∧ l'.ended = l.ended + 1 ∧
          l'.status = if s.cur.hlevel then 2 else 1) ∧
      (s.cur.hlevel = false → t.cur.faultInfo = BitVec.ofNat 5 20 ++ (0 : BitVec 27)) ∧ t.mem = s.mem := by
  obtain ⟨r, hended, hlaunches, hmem, hinfo⟩ := takeTrap_ends (x := ⟨20, 0, 0⟩) (m := 0) (pc := faultPcWord s.cur.nextPc 0) hh hw h0
  obtain ⟨hteams, ⟨w', hw', hphase, htrap, hstatus, hwl, hwh⟩, htl, hti, htm⟩ := hended.landed (c := s.cur.clause)
  have hs : (if s.cur.hlevel then 2 else 1) ≠ 0 := by split <;> decide
  have hcount := countEnd_launch? (s := (s.takeTrap ⟨20, 0, 0⟩ 0 (faultPcWord s.cur.nextPc 0)).setCur
    ((s.takeTrap ⟨20, 0, 0⟩ 0 (faultPcWord s.cur.nextPc 0)).cur.landed s.cur.clause)) (hwh.trans hhank)
    ((launch?_congr (htl.trans hlaunches) _).trans (hwl ▸ hlaunch)) hl0 (hstatus ▸ hs)
  refine ⟨_, exec_brk hp hl, hteams, ⟨w', hw', hphase, htrap, hstatus, _, hwl ▸ hcount, htrap, rfl, rfl, hstatus⟩, fun hlev => ?_,
    htm.trans hmem⟩
  rw [hti, hinfo hlev]
  decide

/-- Settles O10: the traps with a handler, and the end without one. -/
theorem trapsEnterHandlerOrEnd : Obligations.TrapsEnterHandlerOrEnd := by
  unfold Obligations.TrapsEnterHandlerOrEnd
  exact ⟨fun s b l hp hl hh hlow hb => ⟨exec_trap_enters hp hl hh hlow hb, exec_brk_enters hp hl hh⟩,
    fun s w l hp hl hh hw h0 hlaunch hhank hl0 => exec_brk_ends hp hl hh hw h0 hlaunch hhank hl0⟩

/-! ## The return from the handler (R81, R126) -/

/-- A state that differs in the fabric and in what free choices are left. -/
def FabricOnly (s t : State) : Prop := ∃ fab fresh, t = { s with fab := fab, fresh := fresh }

theorem FabricOnly.refl (s : State) : FabricOnly s s := ⟨s.fab, s.fresh, rfl⟩

theorem FabricOnly.trans {s t u : State} (h : FabricOnly s t) (k : FabricOnly t u) : FabricOnly s u := by
  obtain ⟨_, _, rfl⟩ := h
  obtain ⟨fab, fresh, rfl⟩ := k
  exact ⟨fab, fresh, rfl⟩

/-- A packet that leaves. -/
theorem fabricOnly_sendTo (s : State) (peer : Nat) (pa : Option Nat) (k : Packet) : FabricOnly s (s.sendTo peer pa k) := by
  unfold State.sendTo
  split
  · exact ⟨_, s.fresh, rfl⟩
  · split
    · exact ⟨s.fab, _, rfl⟩
    · split
      · exact ⟨_, _, rfl⟩
      · exact ⟨s.fab, _, rfl⟩

/-- A request that leaves. -/
theorem fabricOnly_request (s : State) (peer ctx op misc pa line : Nat) (hasLine : Bool) (payload : List Byte) (w : Waits) :
    FabricOnly s (s.request peer ctx op misc pa line hasLine payload w) :=
  FabricOnly.trans ⟨_, s.fresh, rfl⟩ (fabricOnly_sendTo _ _ _ _)

/-- Peers' lines that an observation point waits for are asked for. -/
theorem fabricOnly_askUnseen (s : State) (t : Team) : FabricOnly s (s.askUnseen t) := by
  unfold State.askUnseen
  induction t.bindings generalizing s with
  | nil => exact .refl s
  | cons e es ih =>
    refine FabricOnly.trans ?_ (ih _)
    dsimp only
    split
    · split
      · exact .refl s
      · exact fabricOnly_request ..
    · exact .refl s

/-- One binding at an observation point. -/
theorem observeOne_eq (s : State) (t : Team) (e : Nat × Binding) :
    ∃ b v fresh, observeOne s t e = { t with bindings := b, v := v, fresh := fresh } := by
  unfold observeOne
  dsimp only
  repeat' split
  all_goals exact ⟨_, _, _, rfl⟩

/-- An observation point changes bindings, and the registers that they refresh (R159). -/
theorem observed_eq (s : State) (t : Team) : ∃ b v fresh, s.observed t = { t with bindings := b, v := v, fresh := fresh } := by
  unfold State.observed
  have hfold (es : List (Nat × Binding)) : ∀ u : Team, ∃ b v fresh,
      es.foldl (fun t e => observeOne s t e) u = { u with bindings := b, v := v, fresh := fresh } := by
    induction es with
    | nil => exact fun u => ⟨_, _, _, rfl⟩
    | cons e es ih =>
      intro u
      obtain ⟨b, v, fresh, h⟩ := observeOne_eq s u e
      obtain ⟨b', v', fresh', h'⟩ := ih (observeOne s u e)
      exact ⟨b', v', fresh', h'.trans (by rw [h])⟩
  exact hfold _ t

/-- A return of a team that owes nothing to a focus stop, field by field. -/
theorem returnTrap_eq {t : Team} (h : t.focusRest = none) : t.returnTrap = { t with
    tstat := t.tstat &&& ~~~ 0x10000
    mode := t.saveMode
    mask := t.saveMask
    pc := (t.faultPc.extractLsb' 0 57).signExtend 64
    idx := (t.faultPc.extractLsb' 60 4).toNat
    clause := none
    resumed := true
    focused := decide (t.faultMask ≠ 0) && t.focused
    only := if t.faultMask = 0 then none else some t.faultMask } := by
  have hidx : (t.faultPc >>> 60).toNat = (t.faultPc.extractLsb' 60 4).toNat := by
    simp only [BitVec.toNat_ushiftRight, BitVec.extractLsb'_toNat]
    have := t.faultPc.isLt
    omega
  unfold Team.returnTrap Team.setHlevel Team.resumePc Team.resumeIdx
  rw [hidx]
  by_cases hm : t.faultMask = 0
  · simp only [h, hm, ne_eq, not_true_eq_false, decide_false, Bool.false_and, Bool.false_eq_true, if_false, if_true, Option.isSome_none]
  · simp only [h, hm, ne_eq, not_false_eq_true, decide_true, Bool.true_and, Bool.false_eq_true, if_false, if_true]

section
variable {s : State} (hp : s.plain = true) (hl : s.lastInClause = true)
include hp hl

/-- SRET waits for peers' lines that a binding's change has still to bring (log entry 15). -/
theorem exec_sret_waits (hh : s.cur.hlevel = true) (hw : s.obsWaits s.cur = true) :
    ∃ t, exec .sret s = .next t ∧ t.cur = s.cur ∧ t.mem = s.mem := by
  obtain ⟨fab, fresh, hask⟩ := fabricOnly_askUnseen s s.cur
  refine ⟨s.askUnseen s.cur, (issue_plain hp (controlSpec_conds hl 0) (by simp [hh])).trans ?_, by rw [hask], by rw [hask]⟩
  rw [if_pos hw, conclude_stay _ _ (by rw [hask])]

/-- SRET returns, with an observation point (R81, R126). -/
theorem exec_sret (hh : s.cur.hlevel = true) (hw : s.obsWaits s.cur = false) :
    exec .sret s = .next (s.setCur ((s.setCur s.cur.returnTrap).observe.cur.landed s.cur.clause)) := by
  obtain ⟨-, -, -, -, -, -, hstep, -⟩ := (State.plain_iff s).1 hp
  refine (issue_plain hp (controlSpec_conds hl 0) (by simp [hh])).trans ?_
  rw [if_neg (by simp [hw]), conclude_jump hstep]
  rfl

/-- SRET outside handler level is ILLEGAL. -/
theorem exec_sret_illegal (hh : s.hasHandler = true) : TrapsHere .sret s ⟨1, 0, 0⟩ := by
  have hlev : s.cur.hlevel = false := by
    simp only [State.hasHandler, Bool.and_eq_true, Bool.not_eq_true'] at hh
    exact hh.1
  exact trapsHere_of_own_conds hp hh rfl (controlSpec_conds hl 0) ⟨(none, tILLEGAL), by simp [hlev], rfl⟩
    (fun c hc => .inl (by rw [(mem_whenCond.1 hc).2]; rfl)) (by decide)

end

/-- Settles O11: the wait, the return, and the trap. -/
theorem sretResumes : Obligations.SretResumes := by
  unfold Obligations.SretResumes
  refine fun s hp hl => ⟨exec_sret_waits hp hl, fun hh hw => ?_, exec_sret_illegal hp hl⟩
  obtain ⟨-, -, -, -, -, -, -, -, -, hrest, -⟩ := (State.plain_iff s).1 hp
  obtain ⟨b, v, fresh, hobs⟩ := observed_eq (s.setCur s.cur.returnTrap) s.cur.returnTrap
  have hcur : (s.setCur s.cur.returnTrap).observe.cur = { s.cur.returnTrap with bindings := b, v := v, fresh := fresh } := hobs
  refine ⟨_, _, exec_sret hp hl hh hw, rfl, ?_⟩
  obtain ⟨_, _, hland⟩ := Team.landed_eq s.cur.clause { s.cur.returnTrap with bindings := b, v := v, fresh := fresh }
  rw [← returnTrap_eq hrest, hcur, hland]
  exact ⟨rfl, rfl, rfl, rfl, rfl, rfl, rfl, rfl, rfl, rfl, rfl, rfl, rfl, fun _ => rfl⟩

end Sys2Proof.Machine
end

section
/-! SUPPORT. What the distributor decides by is not changed by what the device writes to memory of its own accord: entries of service
queues (R403), and stores that are claimed for a workgroup (R317, R332). -/

namespace Sys2Proof.Machine

/-! ## Writes of the device itself (R356, R394, R403) -/

/-- Two contexts that placement does not tell apart: the same requests wait in the fault queue, and placement is host-assisted in both or
in neither. -/
def Context.SamePlacing (x y : Context) : Prop := y.fqWait = x.fqWait ∧ y.placed = x.placed

/-- What placement looks at is as it was. -/
structure PlacingKept (s t : State) : Prop where
  launches : t.launches = s.launches
  anns : t.anns = s.anns
  wgs : t.wgs = s.wgs
  served : t.served = s.served
  cycle : t.cycle = s.cycle
  contexts : ∀ c, (s.ctx c).SamePlacing (t.ctx c)

theorem PlacingKept.refl (s : State) : PlacingKept s s := ⟨rfl, rfl, rfl, rfl, rfl, fun _ => ⟨rfl, rfl⟩⟩

theorem PlacingKept.trans {s t u : State} (h : PlacingKept s t) (k : PlacingKept t u) : PlacingKept s u :=
  ⟨k.launches.trans h.launches, k.anns.trans h.anns, k.wgs.trans h.wgs, k.served.trans h.served, k.cycle.trans h.cycle,
    fun c => ⟨(k.contexts c).1.trans (h.contexts c).1, (k.contexts c).2.trans (h.contexts c).2⟩⟩

/-- Contexts whose bindings of TAIL a write reaches differ in nothing else. -/
theorem tget_tailPend (cs : List (Nat × Context)) (p : Nat × Context → Bool) (c : Nat) :
    ∃ b, tget Context.reset (cs.map (fun e => if p e then (e.1, { e.2 with tailPend := true }) else e)) c =
      { tget Context.reset cs c with tailPend := b } := by
  induction cs with
  | nil => exact ⟨_, rfl⟩
  | cons e cs ih =>
    rw [List.map_cons]
    split
    all_goals
      simp only [tget]
      split
      · exact ⟨_, rfl⟩
      · exact ih

/-- A write that is performed. -/
theorem placingKept_perform (s : State) (cells : List Host.Cell) (team : Nat) (own : Option Nat) (skip : List Nat) :
    PlacingKept s (s.perform cells team own skip) := by
  refine ⟨rfl, rfl, rfl, rfl, rfl, fun c => ?_⟩
  obtain ⟨b, hb⟩ := tget_tailPend s.ctxs (fun e => (e.2.tail.map lineOf).any (fun l => (linesOf cells).contains l)) c
  have hctx : (s.perform cells team own skip).ctx c = { s.ctx c with tailPend := b } := hb
  rw [hctx]
  exact ⟨rfl, rfl⟩

/-- A line that its home slice has written. -/
theorem placingKept_atHomeSlice (s : State) (line : Nat) : PlacingKept s (s.atHomeSlice line) :=
  ⟨rfl, rfl, rfl, rfl, rfl, fun _ => ⟨rfl, rfl⟩⟩

/-- A walk sets A and D. -/
theorem placingKept_touchEntry (s : State) (w : Walk) (wr : Bool) : PlacingKept s (s.touchEntry w wr) := by
  unfold State.touchEntry
  dsimp only
  generalize (w.leaf ||| 0x40 ||| if wr then 0x80 else 0) = e
  split
  · exact .refl s
  · exact (placingKept_perform ..).trans (placingKept_atHomeSlice ..)

/-- A translation is cached. -/
theorem placingKept_fillTlb (s : State) (c : Nat) (va leaf : DWord) (level : Nat) : PlacingKept s (s.fillTlb c va leaf level) := by
  unfold State.fillTlb
  dsimp only
  split
  · exact .refl s
  · exact ⟨rfl, rfl, rfl, rfl, rfl, fun _ => ⟨rfl, rfl⟩⟩

/-- A free choice is made. -/
theorem placingKept_draw (s : State) : PlacingKept s s.draw := ⟨rfl, rfl, rfl, rfl, rfl, fun _ => ⟨rfl, rfl⟩⟩

/-- A translation. -/
theorem placingKept_translate (s : State) (c : Nat) (va : DWord) (need : Need) (x : Bool) :
    PlacingKept s (s.translate c va need x).1 := by
  unfold State.translate
  dsimp only
  split
  · exact .refl s
  split
  · exact .refl s
  split
  · split
    · split
      · exact placingKept_draw s
      · exact placingKept_draw s
    · exact .refl s
  split
  · exact placingKept_draw s
  split
  · exact (placingKept_touchEntry ..).trans (placingKept_fillTlb ..)
  · exact .refl s

/-- A write of the device itself. -/
theorem placingKept_writeNow (s : State) (c : Nat) (va : DWord) (bs : List Byte) : PlacingKept s (s.writeNow c va bs).1 := by
  have h := placingKept_translate s c va Need.store false
  unfold State.writeNow
  split
  next heq =>
    rw [heq] at h
    exact h.trans ⟨rfl, rfl, rfl, rfl, rfl, fun _ => ⟨rfl, rfl⟩⟩
  next heq =>
    rw [heq] at h
    exact h.trans ((placingKept_perform ..).trans (placingKept_atHomeSlice ..))
  next heq =>
    rw [heq] at h
    exact h
  next heq =>
    rw [heq] at h
    exact h

/-- A context that placement does not tell from the one that it replaces. -/
theorem placingKept_setCtx {s : State} {c : Nat} {x : Context} (h : (s.ctx c).SamePlacing x) : PlacingKept s (s.setCtx c x) := by
  refine ⟨rfl, rfl, rfl, rfl, rfl, fun d => ?_⟩
  by_cases hd : d = c
  · subst hd
    rw [State.setCtx_ctx_self]
    exact h
  · rw [State.setCtx_ctx_of_ne _ _ hd]
    exact ⟨rfl, rfl⟩

/-- A write of the device itself, made or kept for later. -/
theorem placingKept_writeCtx (s : State) (c : Nat) (va : DWord) (bs : List Byte) : PlacingKept s (s.writeCtx c va bs) := by
  have h := placingKept_writeNow s c va bs
  unfold State.writeCtx
  dsimp only
  split
  · exact placingKept_setCtx ⟨rfl, rfl⟩
  · split
    next heq =>
      rw [heq] at h
      exact h.trans (placingKept_setCtx ⟨rfl, rfl⟩)
    next heq =>
      rw [heq] at h
      exact h

/-- A request for system software has joined a context's fault queue, and placement looks at nothing else that has changed. -/
structure Posted (s t : State) (c kind sub : Nat) (arg0 arg1 : DWord) : Prop where
  launches : t.launches = s.launches
  anns : t.anns = s.anns
  wgs : t.wgs = s.wgs
  served : t.served = s.served
  cycle : t.cycle = s.cycle
  placed : ∀ d, (t.ctx d).placed = (s.ctx d).placed
  entry : ∃ e, (t.ctx c).fqWait = (s.ctx c).fqWait ++ [e] ∧ e.kind = kind ∧ e.sub = sub ∧ e.arg0 = arg0 ∧ e.arg1 = arg1

/-- What placement does not tell apart may follow. -/
theorem Posted.trans_kept {s t u : State} {c kind sub : Nat} {arg0 arg1 : DWord} (h : Posted s t c kind sub arg0 arg1)
    (k : PlacingKept t u) : Posted s u c kind sub arg0 arg1 :=
  ⟨k.launches.trans h.launches, k.anns.trans h.anns, k.wgs.trans h.wgs, k.served.trans h.served, k.cycle.trans h.cycle,
    fun d => (k.contexts d).2.trans (h.placed d), by rw [(k.contexts c).1]; exact h.entry⟩

/-- The entry is all that a context takes. -/
theorem posted_setCtx {s t : State} (h : PlacingKept s t) (c n : Nat) (e : QueueEntry) :
    Posted s (t.setCtx c { t.ctx c with fqTail := n, fqWait := (t.ctx c).fqWait ++ [e] }) c e.kind e.sub e.arg0 e.arg1 := by
  refine ⟨h.launches, h.anns, h.wgs, h.served, h.cycle, fun d => ?_, e, ?_, rfl, rfl, rfl, rfl⟩
  · rw [← (h.contexts d).2]
    by_cases hd : d = c
    · subst hd
      rw [State.setCtx_ctx_self]
      rfl
    · rw [State.setCtx_ctx_of_ne _ _ hd]
  · rw [State.setCtx_ctx_self, ← (h.contexts c).1]

/-- A request for system software (R403). -/
theorem posted_postFq (s : State) (c kind sub : Nat) (arg0 arg1 : DWord) (party : Nat) :
    Posted s (s.postFq c kind sub arg0 arg1 party) c kind sub arg0 arg1 := by
  have hpost (n : Nat) (room : Bool) := posted_setCtx (placingKept_translate s c ((s.ctx c).fq + 128) Need.load false) c n
    ⟨((s.touchCtx c ((s.ctx c).fq + 128)).ctx c).fqTail, kind, sub, arg0, arg1, party, room⟩
  unfold State.postFq
  dsimp only
  split
  · exact (hpost ..).trans_kept ((placingKept_writeCtx ..).trans (placingKept_writeCtx ..))
  · exact hpost ..

/-! ## Stores that are claimed (R317, R332) -/

/-- A state that differs in claims, in memory, in the dies' scratchpads and in requests to homes. -/
def StoresOnly (s t : State) : Prop := ∃ claims mem poison barriers dies coh,
  t = { s with claims := claims, mem := mem, poison := poison, barriers := barriers, dies := dies, coh := coh }

theorem StoresOnly.refl (s : State) : StoresOnly s s := ⟨_, _, _, _, _, _, rfl⟩

theorem StoresOnly.trans {s t u : State} (h : StoresOnly s t) (k : StoresOnly t u) : StoresOnly s u := by
  obtain ⟨_, _, _, _, _, _, rfl⟩ := h
  obtain ⟨_, _, _, _, _, _, rfl⟩ := k
  exact ⟨_, _, _, _, _, _, rfl⟩

theorem StoresOnly.foldl {α : Type} {f : State → α → State} (hf : ∀ s x, StoresOnly s (f s x)) (xs : List α) (s : State) :
    StoresOnly s (xs.foldl f s) := by
  induction xs generalizing s with
  | nil => exact .refl s
  | cons x xs ih => exact (hf s x).trans (ih _)

/-- The home asks for a line. -/
theorem storesOnly_askDrop (s : State) (agent line : Nat) : StoresOnly s (s.askDrop agent line) := by
  unfold State.askDrop
  split
  · exact .refl s
  · exact ⟨_, _, _, _, _, _, rfl⟩

/-- A slice takes its ways. -/
theorem storesOnly_takeWays (s : State) (slice : Nat) : StoresOnly s (s.takeWays slice) := by
  unfold State.takeWays
  dsimp only
  split
  · exact .refl s
  · split
    · exact ⟨_, _, _, _, _, _, rfl⟩
    · exact .foldl (fun s (x : Nat × Nat) => storesOnly_askDrop s x.1 x.2) _ s

/-- A die's scratchpad changes. -/
theorem storesOnly_moveBounds (s : State) (n : Nat) (d : Die) : StoresOnly s (s.moveBounds n d) :=
  StoresOnly.trans ⟨_, _, _, _, _, _, rfl⟩ (.foldl (fun s i => storesOnly_takeWays s (16 * n + i)) _ _)

/-- A cluster is claimed. -/
theorem storesOnly_claimCluster (s : State) (core ctx : Nat) : StoresOnly s (s.claimCluster core ctx) := by
  unfold State.claimCluster
  dsimp only
  split
  · exact .refl s
  · exact StoresOnly.trans ⟨_, _, _, _, _, _, rfl⟩ (.foldl (fun _ _ => ⟨_, _, _, _, _, _, rfl⟩) _ _)

/-- A chip scratchpad is claimed. -/
theorem storesOnly_claimChip (s : State) (core ctx smin smax : Nat) : StoresOnly s (s.claimChip core ctx smin smax) := by
  unfold State.claimChip
  dsimp only
  split
  · exact .refl s
  · split
    · exact storesOnly_moveBounds ..
    · exact StoresOnly.trans ⟨_, _, _, _, _, _, rfl⟩ (storesOnly_moveBounds ..)

end Sys2Proof.Machine
end

section
/-! SUPPORT. Announcements: which one is next, how bids are ranked, what becomes of one that is changed (R322–R324, R401–R403). -/

namespace Sys2Proof.Machine

/-! ## The best of a list -/

section
variable {α : Type} {f : Option α → α → Option α} (hfirst : ∀ x, f none x = some x)
  (hone : ∀ x y, f (some x) y = some y ∨ f (some x) y = some x)
include hfirst hone

/-- A fold that takes one of two ends at one of the list, or where it began. -/
theorem foldl_best_mem {xs : List α} {r : Option α} {y : α} (h : xs.foldl f r = some y) : y ∈ xs ∨ r = some y := by
  induction xs generalizing r with
  | nil => exact .inr h
  | cons x xs ih =>
    have hstep : f r x = some x ∨ f r x = r := by
      cases r with
      | none => exact .inl (hfirst x)
      | some z => exact hone z x
    rcases ih h with hy | hy
    · exact .inl (List.mem_cons_of_mem _ hy)
    · rcases hstep with hs | hs
      · exact .inl (by rw [Option.some.inj (hs.symm.trans hy)]; exact List.mem_cons_self)
      · exact .inr (hs ▸ hy)

/-- A fold that takes the better of two ends at the one that is better than every other. -/
theorem foldl_best {l : α} {xs : List α} (hl : l ∈ xs) (htake : ∀ x ∈ xs, x ≠ l → f (some x) l = some l)
    (hkeep : ∀ x ∈ xs, x ≠ l → f (some l) x = some l) : xs.foldl f none = some l := by
  have hself : f (some l) l = some l := (or_self _).mp (hone l l)
  obtain ⟨pre, post, rfl⟩ := List.append_of_mem hl
  have hpost (ys : List α) (hys : ∀ y ∈ ys, y ∈ pre ++ l :: post) : ys.foldl f (some l) = some l := by
    induction ys with
    | nil => rfl
    | cons y ys ih =>
      have hy : f (some l) y = some l := by
        by_cases h : y = l
        · rw [h, hself]
        · exact hkeep y (hys y (by simp)) h
      rw [List.foldl_cons, hy]
      exact ih fun z hz => hys z (by simp [hz])
  have hpre : f (pre.foldl f none) l = some l := by
    cases hr : pre.foldl f none with
    | none => exact hfirst l
    | some x =>
      by_cases h : x = l
      · rw [h, hself]
      · rcases foldl_best_mem hfirst hone hr with hx | hx
        · exact htake x (by simp [hx]) h
        · cases hx
  rw [List.foldl_append, List.foldl_cons, hpre]
  exact hpost post fun y hy => by simp [hy]

end

/-! ## The next launch (R401, R402) -/

section
variable {s : State} {c : Nat} {l : Launch}

/-- A context's next launch is one that may go on. -/
theorem nextLaunch_some (h : s.nextLaunch c = some l) :
    l ∈ s.launches ∧ l.ctx = c ∧ l.phase = .open_ ∧ l.stopped = false ∧ l.origin = none ∧ l.next < l.count := by
  have hm := (foldl_best_mem (fun _ => rfl) (fun _ _ => ite_eq_or_eq ..) h).resolve_right nofun
  rw [List.mem_filter] at hm
  simp only [Bool.and_eq_true, beq_iff_eq, Bool.not_eq_true', Option.isNone_iff_eq_none, decide_eq_true_eq] at hm
  obtain ⟨hl, ⟨⟨⟨⟨hc, hphase⟩, hstop⟩, horigin⟩, hnext⟩, -⟩ := hm
  exact ⟨hl, hc, hphase, hstop, horigin, hnext⟩

/-- The launch that is announced next may be announced. -/
theorem pickLaunch_some (h : s.pickLaunch = some l) : l ∈ s.launches ∧ s.mayAnnounce l := by
  have hm := (foldl_best_mem (fun _ => rfl) (fun _ _ => ite_eq_or_eq ..) h).resolve_right nofun
  obtain ⟨c, hc, hl⟩ := List.mem_filterMap.1 hm
  obtain ⟨i, -, rfl⟩ := List.mem_map.1 hc
  obtain ⟨hl, hpass⟩ := Option.filter_eq_some_iff.1 hl
  obtain ⟨hmem, hctx, hphase, hstop, horigin, hnext⟩ := nextLaunch_some hl
  rw [Bool.and_eq_true, ← hctx] at hpass
  exact ⟨hmem, by omega, hphase, hstop, horigin, hnext, hpass.1, hpass.2⟩

/-- The one launch of highest priority that may be announced is the next of its context. -/
theorem nextLaunch_eq (hl : l ∈ s.launches) (hmay : s.mayAnnounce l) (hatt : s.fab.attempts = [])
    (hbest : ∀ x ∈ s.launches, x ≠ l → x.prio < l.prio) : s.nextLaunch l.ctx = some l := by
  obtain ⟨-, hphase, hstop, horigin, hnext, -, -⟩ := hmay
  refine foldl_best (fun _ => rfl) (fun _ _ => ite_eq_or_eq ..)
    (List.mem_filter.2 ⟨hl, by simp [hphase, hstop, horigin, hnext, hatt]⟩) (fun x hx hne => ?_) fun x hx hne => ?_
  · exact if_pos (.inl (hbest x (List.mem_filter.1 hx).1 hne))
  · have := hbest x (List.mem_filter.1 hx).1 hne
    exact if_neg (by omega)

/-- It is announced next (R401). -/
theorem pickLaunch_eq (hl : l ∈ s.launches) (hmay : s.mayAnnounce l) (hatt : s.fab.attempts = [])
    (hbest : ∀ x ∈ s.launches, x ≠ l → x.prio < l.prio) : s.pickLaunch = some l := by
  have hnext := nextLaunch_eq hl hmay hatt hbest
  obtain ⟨hctx, -, -, -, -, hbudget, hslots⟩ := hmay
  have hturn : l.ctx ∈ (List.range 16).map (fun i => (s.served + 1 + i) % 16) :=
    List.mem_map.2 ⟨(l.ctx + 15 - s.served % 16) % 16, by simp; omega, by omega⟩
  have hthere (x : Launch) (hx : x ∈ ((List.range 16).map (fun i => (s.served + 1 + i) % 16)).filterMap (fun c =>
      (s.nextLaunch c).filter (fun l => s.budgetsPass c l.teams && s.slotsLeft c l.teams))) : x ∈ s.launches := by
    obtain ⟨c, -, hx⟩ := List.mem_filterMap.1 hx
    exact (nextLaunch_some (Option.filter_eq_some_iff.1 hx).1).1
  refine foldl_best (fun _ => rfl) (fun _ _ => ite_eq_or_eq ..)
    (List.mem_filterMap.2 ⟨l.ctx, hturn, Option.filter_eq_some_iff.2 ⟨hnext, by simp [hbudget, hslots]⟩⟩)
    (fun x hx hne => ?_) fun x hx hne => ?_
  · exact if_pos (hbest x (hthere x hx) hne)
  · have := hbest x (hthere x hx) hne
    exact if_neg (by omega)

end

/-! ## Announced again (R324, R401) -/

section
variable {s : State} {a : Ann}

/-- The held workgroup that is announced again next is one that may be. -/
theorem pickAgain_some (h : s.pickAgain = some a) : a ∈ s.anns ∧ s.mayAgain a = true :=
  List.mem_filter.1 ((foldl_best_mem (fun _ => rfl) (fun _ _ => (ite_eq_or_eq ..).symm) h).resolve_right nofun)

/-- Priority decides first. -/
theorem comesFirst_of_lt {p p' : Nat} (h : p' < p) (c c' : Nat) : s.comesFirst p c p' c' = true ∧ s.comesFirst p' c' p c = false := by
  have h1 : ¬ p < p' := by omega
  have h2 : p' ≠ p := by omega
  simp [State.comesFirst, h, h1, h2]

/-- The one of highest priority that may be announced again is the next. -/
theorem pickAgain_eq (ha : a ∈ s.anns) (hmay : s.mayAgain a = true)
    (hbest : ∀ x ∈ s.anns, x ≠ a → s.mayAgain x = true → x.spec.prio < a.spec.prio) : s.pickAgain = some a := by
  refine foldl_best (fun _ => rfl) (fun _ _ => (ite_eq_or_eq ..).symm) (List.mem_filter.2 ⟨ha, hmay⟩) (fun x hx hne => ?_)
    fun x hx hne => ?_
  all_goals
    obtain ⟨hx, hmx⟩ := List.mem_filter.1 hx
    obtain ⟨h1, h2⟩ := comesFirst_of_lt (s := s) (hbest x hx hne hmx) a.ctx x.ctx
  · exact if_neg (by simp [h2])
  · exact if_pos h1

/-- A launch of higher priority than all that may be announced again comes before them. -/
theorem againFirst_false {l : Launch} (h : ∀ a ∈ s.anns, s.mayAgain a = true → a.spec.prio < l.prio) : s.againFirst l = false := by
  unfold State.againFirst
  cases hp : s.pickAgain with
  | none => rfl
  | some a =>
    obtain ⟨ha, hmay⟩ := pickAgain_some hp
    exact (comesFirst_of_lt (h a ha hmay) l.ctx a.ctx).2

end

/-! ## Changing one announcement -/

/-- Announcements with the same name are the same. -/
theorem annsApart_unique {s : State} (h : s.annsApart) {x y : Ann} (hx : x ∈ s.anns) (hy : y ∈ s.anns) (hid : x.id = y.id) : x = y := by
  have : Std.Symm (fun x y : Ann => x.id ≠ y.id) := ⟨fun _ _ h => h.symm⟩
  by_contra hne
  exact h.forall hx hy hne hid

/-- One announcement of that name is found. -/
theorem find?_ann {s : State} (h : s.annsApart) {a : Ann} (ha : a ∈ s.anns) : s.anns.find? (fun x => x.id == a.id) = some a := by
  cases hf : s.anns.find? (fun x => x.id == a.id) with
  | none => simpa using List.find?_eq_none.1 hf a ha
  | some x => rw [annsApart_unique h (List.mem_of_find?_eq_some hf) ha (by simpa using List.find?_some hf)]

/-- All but one announcement stay, and no workgroup, no register and no byte of memory changes. -/
def OthersKept (s t : State) (a : Ann) : Prop :=
  (∀ x ∈ s.anns, x.id ≠ a.id → x ∈ t.anns) ∧ t.wgs = s.wgs ∧ t.cur = s.cur ∧ t.mem = s.mem

/-- An announcement changed in its place. -/
theorem modAnn_annIs {s : State} {a : Ann} (h : s.annsApart) (ha : a ∈ s.anns) {f : Ann → Ann} (hf : ∀ x, (f x).id = x.id) :
    OthersKept s (s.modAnn a.id f) a ∧ (s.modAnn a.id f).annIs (f a) := by
  refine ⟨⟨fun x hx hne => List.mem_map.2 ⟨x, hx, by simp [hne]⟩, rfl, rfl, rfl⟩, List.mem_map.2 ⟨a, ha, by simp⟩,
    fun y hy hid => ?_⟩
  obtain ⟨x, hx, rfl⟩ := List.mem_map.1 hy
  by_cases hxa : x.id = a.id
  · rw [annsApart_unique h hx ha hxa]
    simp
  · simp [hxa, hf] at hid

/-- An announcement that comes behind all others. -/
theorem dropped_annIs {s t : State} {a b : Ann} (hid : b.id = a.id) (hanns : t.anns = (s.dropAnn a.id).anns ++ [b])
    (hrest : t.wgs = s.wgs ∧ t.cur = s.cur ∧ t.mem = s.mem) : OthersKept s t a ∧ t.annIs b := by
  refine ⟨⟨fun x hx hne => ?_, hrest⟩, by simp [hanns], fun x hx hxb => ?_⟩
  · rw [hanns]
    exact List.mem_append_left _ (List.mem_filter.2 ⟨hx, by simp [hne]⟩)
  · rw [hanns, List.mem_append] at hx
    rcases hx with hx | hx
    · simpa [hxb, hid] using (List.mem_filter.1 hx).2
    · exact List.mem_singleton.1 hx

/-! ## Bids (R322, R323) -/

/-- The rank of bids: lower cost, then the nearer to the pointer. -/
def bidBefore (pointer : Nat) (y z : Nat × Nat) : Prop :=
  y.1 < z.1 ∨ y.1 = z.1 ∧ (y.2 + 192 - pointer) % 192 ≤ (z.2 + 192 - pointer) % 192

theorem bidBefore_trans {pointer : Nat} {x y z : Nat × Nat} (h : bidBefore pointer x y) (k : bidBefore pointer y z) :
    bidBefore pointer x z := by
  unfold bidBefore at h k ⊢
  omega

/-- A bid joins those that are kept, and nothing else does. -/
theorem mem_insertBid {pointer : Nat} {x k : Nat × Nat} {ks : List (Nat × Nat)} : k ∈ insertBid pointer x ks ↔ k = x ∨ k ∈ ks := by
  induction ks with
  | nil => simp [insertBid]
  | cons y ys ih =>
    unfold insertBid
    split
    · simp
    · rw [List.mem_cons, ih, List.mem_cons]
      tauto

theorem length_insertBid (pointer : Nat) (x : Nat × Nat) (ks : List (Nat × Nat)) : (insertBid pointer x ks).length = ks.length + 1 := by
  induction ks with
  | nil => rfl
  | cons y ys ih =>
    unfold insertBid
    split
    · rfl
    · rw [List.length_cons, ih, List.length_cons]

/-- Bids in rank order stay so. -/
theorem pairwise_insertBid {pointer : Nat} {x : Nat × Nat} {ks : List (Nat × Nat)} (h : ks.Pairwise (bidBefore pointer)) :
    (insertBid pointer x ks).Pairwise (bidBefore pointer) := by
  induction ks with
  | nil => simp [insertBid]
  | cons y ys ih =>
    obtain ⟨hy, hys⟩ := List.pairwise_cons.1 h
    unfold insertBid
    split
    next hlt =>
      have hxy : bidBefore pointer x y := hlt.imp_right fun h => ⟨h.1, h.2.le⟩
      refine List.pairwise_cons.2 ⟨fun z hz => ?_, h⟩
      rcases List.mem_cons.1 hz with rfl | hz
      · exact hxy
      · exact bidBefore_trans hxy (hy z hz)
    next hge =>
      refine List.pairwise_cons.2 ⟨fun z hz => ?_, ih hys⟩
      rcases mem_insertBid.1 hz with rfl | hz
      · unfold bidBefore
        omega
      · exact hy z hz

/-- The cost of a bid is exact, then clamped (R322). -/
theorem cost_eq (s : State) (a : Ann) (core : Nat) : (s.cost a core : Int) = max 0 (min 65535
    (a.cls.w0 * s.counter a core a.cls.c0 + a.cls.w1 * s.counter a core a.cls.c1 + a.cls.w2 * s.counter a core a.cls.c2 +
      a.cls.w3 * s.counter a core a.cls.c3)) := by
  have hterm (w : Int) (c : Nat) : (if w = 0 then 0 else w * (s.counter a core c : Int)) = w * s.counter a core c := by
    split
    next h => rw [h, Int.zero_mul]
    next => rfl
  simp only [State.cost, hterm]
  rw [Int.toNat_of_nonneg (Int.le_max_left ..), Int.min_comm]

/-- A core that fits bids once, in the window. -/
theorem exec_bid {s : State} {a : Ann} {core : Nat} (h : s.annsApart) (ha : a ∈ s.anns) (hphase : a.phase = .bidding)
    (hwin : s.cycle ≤ a.since + 16 * (a.cls.win + 1)) (honce : ∀ k ∈ a.kept, k.2 ≠ core) (hfits : s.annFits a core = true) :
    exec (.bid a.id core) s = .next (s.modAnn a.id (fun a => { a with
      kept := (insertBid s.pointer (s.cost a core, core) a.kept).take 4 })) := by
  have hkept : a.kept.any (fun k => k.2 == core) = false := List.any_eq_false.2 fun k hk => by simp [honce k hk]
  have hguard : (a.phase == .bidding && decide (s.cycle ≤ a.closes) && !a.kept.any (fun k => k.2 == core) && s.annFits a core) = true := by
    simp [hphase, Ann.closes, hwin, hkept, hfits]
  change execBid a.id core s = _
  simp only [execBid, find?_ann h ha, hguard, if_true]

/-! ## Awards, and tenders that fail (R323, R324) -/

/-- An announcement awarded to the core of a kept bid. -/
def Ann.awardedTo (a : Ann) (k : Nat × Nat) (ks : List (Nat × Nat)) (now : Nat) : Ann :=
  { a with phase := .awarded, awarded := some k.2, kept := ks, since := now }

/-- An announcement made afresh. -/
def Ann.afresh (a : Ann) (cls : ClassRec) (now : Nat) : Ann :=
  { a with phase := .bidding, since := now, kept := [], awarded := none, again := false, cls := cls }

/-- An announcement that is held. -/
def Ann.heldFor (a : Ann) (again : Bool) : Ann := { a with phase := .held, kept := [], awarded := none, again := again }

section
variable {s : State} {a : Ann} (h : s.annsApart) (ha : a ∈ s.anns) (w : Option Nat)
include h ha

/-- The next kept bid is awarded. -/
theorem awardNext_kept {k : Nat × Nat} {ks : List (Nat × Nat)} (hk : a.kept = k :: ks) :
    OthersKept s (s.awardNext { a with awarded := w }) a ∧
      (s.awardNext { a with awarded := w }).annIs (a.awardedTo k ks (s.awardNext { a with awarded := w }).cycle) := by
  unfold State.awardNext
  simp only [hk]
  exact modAnn_annIs (s := s.noteAward k.2) h ha (f := fun x => x.awardedTo k ks s.cycle) fun _ => rfl

/-- An announcement is held. -/
theorem holdAnn_annIs (n : Nat) (again : Bool) :
    OthersKept s (s.holdAnn { a with awarded := w, retenders := n } again) a ∧
      (s.holdAnn { a with awarded := w, retenders := n } again).annIs { a.heldFor again with retenders := n } :=
  modAnn_annIs h ha (f := fun x => { x.heldFor again with retenders := n }) fun _ => rfl

omit h ha in
/-- An announcement is made afresh. -/
theorem announceAgain_annIs (n : Nat) : OthersKept s (s.announceAgain { a with awarded := w, retenders := n }) a ∧
    (s.announceAgain { a with awarded := w, retenders := n }).annIs
      { a.afresh ((s.ctx a.ctx).cls a.spec.cls) s.cycle with retenders := n } :=
  dropped_annIs rfl rfl ⟨rfl, rfl, rfl⟩

variable (hfresh : a.purpose = .fresh)
include hfresh

omit h ha in
/-- Nothing saved comes back with a new workgroup, and its teams need slots. -/
theorem annSaved_fresh : s.annSaved { a with awarded := w } = none ∧ s.annSlots { a with awarded := w } = a.spec.teams := by
  have hs : s.annSaved { a with awarded := w } = none := by
    unfold State.annSaved
    simp only [hfresh]
  unfold State.annSlots
  rw [hs]
  exact ⟨rfl, rfl⟩

omit h ha in
/-- What a tender of a new workgroup that fails comes to. -/
theorem failAnn_fresh (noBid : Bool) : s.failAnn { a with awarded := w } noBid =
    if noBid || (s.launch? a.spec.id).any Launch.stopped then s.holdAnn { a with awarded := w } false
    else if 7 ≤ a.retenders then s.starve { a with awarded := w }
    else if s.budgetsPass a.ctx 0 && s.slotsLeft a.ctx a.spec.teams then
      s.announceAgain { a with awarded := w, retenders := a.retenders + 1 }
    else s.holdAnn { a with awarded := w, retenders := a.retenders + 1 } true := by
  unfold State.failAnn
  rw [(annSaved_fresh w hfresh).2]
  simp [hfresh]

/-- A tender without a bid, or of a launch that has stopped, is held until resources are released (R324, R398). -/
theorem failAnn_held {noBid : Bool} (hno : (noBid || (s.launch? a.spec.id).any Launch.stopped) = true) :
    OthersKept s (s.failAnn { a with awarded := w } noBid) a ∧ (s.failAnn { a with awarded := w } noBid).annIs (a.heldFor false) := by
  rw [failAnn_fresh w hfresh, if_pos hno]
  exact holdAnn_annIs h ha w a.retenders false

/-- A tender that the awarded cores gave up is announced afresh, while the budgets pass and the pool has slots (R324). -/
theorem failAnn_again (hstop : (s.launch? a.spec.id).any Launch.stopped = false) (hret : a.retenders < 7) :
    OthersKept s (s.failAnn { a with awarded := w } false) a ∧
      if (s.budgetsPass a.ctx 0 && s.slotsLeft a.ctx a.spec.teams) = true then (s.failAnn { a with awarded := w } false).annIs
        { a.afresh ((s.ctx a.ctx).cls a.spec.cls) (s.failAnn { a with awarded := w } false).cycle with retenders := a.retenders + 1 }
      else (s.failAnn { a with awarded := w } false).annIs { a.heldFor true with retenders := a.retenders + 1 } := by
  rw [failAnn_fresh w hfresh, if_neg (by simp [hstop]), if_neg (by omega)]
  by_cases hmay : (s.budgetsPass a.ctx 0 && s.slotsLeft a.ctx a.spec.teams) = true
  · rw [if_pos hmay, if_pos hmay]
    exact announceAgain_annIs w (a.retenders + 1)
  · rw [if_neg hmay, if_neg hmay]
    exact holdAnn_annIs h ha w (a.retenders + 1) true

end

/-! ## What goes to system software (R324, R403) -/

/-- A workgroup is offered to system software. -/
theorem posted_askPlace (s : State) (a : Ann) (sub : Nat) : ∃ arg1, Posted s (s.askPlace a sub) a.ctx 2 sub a.spec.record arg1 ∧
    (a.purpose = .fresh → arg1 = BitVec.ofNat 64 (a.wg % 65536)) := by
  refine ⟨_, posted_postFq .., fun h => ?_⟩
  simp only [h, Nat.zero_mul, Nat.add_zero, Nat.reducePow]

/-- A pending workgroup goes to system software. -/
def State.handOver (s : State) (a : Ann) : State :=
  (s.modAnn a.id (fun b => { b with phase := .starved, kept := [], awarded := none })).askPlace a 0

/-- All of a list go to system software, and none comes back. -/
theorem foldl_handOver (xs : List Ann) (s : State) : (xs.foldl State.handOver s).cycle = s.cycle ∧
    (∀ c, ((xs.foldl State.handOver s).ctx c).placed = (s.ctx c).placed) ∧
    ∀ y ∈ s.anns, y.phase = .starved ∨ y ∈ xs → ∃ z ∈ (xs.foldl State.handOver s).anns, z.id = y.id ∧ z.phase = .starved := by
  induction xs generalizing s with
  | nil => exact ⟨rfl, fun _ => rfl, fun y hy h => ⟨y, hy, rfl, h.resolve_right (by simp)⟩⟩
  | cons x xs ih =>
    obtain ⟨arg1, hpost, -⟩ := posted_askPlace (s.modAnn x.id (fun b => { b with phase := .starved, kept := [], awarded := none })) x 0
    obtain ⟨hcycle, hplaced, hstarved⟩ := ih (s.handOver x)
    refine ⟨hcycle.trans hpost.cycle, fun c => (hplaced c).trans (hpost.placed c), fun y hy h => ?_⟩
    have hanns : (s.handOver x).anns = s.anns.map (fun a => if a.id == x.id then
        { a with phase := .starved, kept := [], awarded := none } else a) := hpost.anns
    by_cases hid : y.id = x.id
    · refine hstarved { y with phase := .starved, kept := [], awarded := none } ?_ (.inl rfl)
      rw [hanns]
      exact List.mem_map.2 ⟨y, hy, by simp [hid]⟩
    · refine hstarved y ?_ (h.imp id fun h => (List.mem_cons.1 h).resolve_left fun h => hid (by rw [h]))
      rw [hanns]
      exact List.mem_map.2 ⟨y, hy, by simp [hid]⟩

/-- The eighth re-tender hands over all that the context has pending (R324). -/
theorem starve_hands_over (s : State) (a : Ann) : (s.starve a).cycle = s.cycle ∧ ((s.starve a).ctx a.ctx).placed = true ∧
    ∀ x ∈ s.anns, x.ctx = a.ctx → x.forHank = false → ∃ b ∈ (s.starve a).anns, b.id = x.id ∧ b.phase = .starved := by
  have hpost := posted_postFq s a.ctx 3 0 a.spec.record (BitVec.ofNat 64 (a.wg % 2 ^ 16)) 0
  obtain ⟨hcycle, hplaced, hstarved⟩ := foldl_handOver
    ((s.postFq a.ctx 3 0 a.spec.record (BitVec.ofNat 64 (a.wg % 2 ^ 16)) 0).anns.filter (fun b =>
      b.ctx == a.ctx && !b.forHank && b.phase != .starved))
    ((s.postFq a.ctx 3 0 a.spec.record (BitVec.ofNat 64 (a.wg % 2 ^ 16)) 0).setCtx a.ctx
      { (s.postFq a.ctx 3 0 a.spec.record (BitVec.ofNat 64 (a.wg % 2 ^ 16)) 0).ctx a.ctx with placeAssist := true })
  refine ⟨hcycle.trans hpost.cycle, (hplaced a.ctx).trans (by rw [State.setCtx_ctx_self]; rfl), fun x hx hctx hhank => ?_⟩
  have hx' := hpost.anns.symm ▸ hx
  refine hstarved x hx' ?_
  by_cases h : x.phase = .starved
  · exact .inl h
  · exact .inr (List.mem_filter.2 ⟨hx', by simp [hctx, hhank, h]⟩)

/-! ## The end of a bid window, and awards that are not confirmed (R323) -/

section
variable {s : State} {a : Ann} (hsel : s.anns[s.sel]? = some a)
include hsel

/-- The first announcement that still bids. -/
theorem firstBidding_eq (hphase : a.phase = .bidding) (hfirst : ∀ x ∈ s.anns.take s.sel, x.phase ≠ .bidding) :
    s.firstBidding a = true := by
  obtain ⟨hlt, hget⟩ := List.getElem?_eq_some_iff.1 hsel
  have hsplit : s.anns = s.anns.take s.sel ++ a :: s.anns.drop (s.sel + 1) := by
    rw [← hget, List.getElem_cons_drop, List.take_append_drop]
  have hnone : (s.anns.take s.sel).filter (fun x => x.phase == .bidding) = [] :=
    List.filter_eq_nil_iff.2 fun x hx => by simp [hfirst x hx]
  unfold State.firstBidding
  rw [hsplit, List.filter_append, hnone, List.nil_append, List.filter_cons, if_pos (by simp [hphase])]
  simp

/-- The window closes at its end: the best bid is awarded, or none has come. -/
theorem exec_bidWindowClose (hphase : a.phase = .bidding) (hfirst : ∀ x ∈ s.anns.take s.sel, x.phase ≠ .bidding) :
    exec .bidWindowClose s = .next (if a.kept = [] then (s.waitUntil a.closes).failAnn a true else (s.waitUntil a.closes).awardNext a) := by
  change execBidWindowClose s = _
  simp [execBidWindowClose, hsel, hphase, firstBidding_eq hsel hphase hfirst]

variable {core : Nat} (hphase : a.phase = .awarded)
include hphase

/-- An award to a core that cannot confirm passes to the next kept bid. -/
theorem exec_withdraw (haw : a.awarded = some core) (hno : s.canConfirm a core = false) :
    exec .withdraw s = .next (s.awardNext { a with awarded := none }) := by
  change execWithdraw s = _
  simp [execWithdraw, hsel, hphase, haw, hno, State.passOver]

/-- So does one that is not confirmed in 32 cycles. -/
theorem exec_confirmTimeout :
    exec .confirmTimeout s = .next ((s.waitUntil (a.since + 32)).awardNext { a with awarded := none }) := by
  change execConfirmTimeout s = _
  simp [execConfirmTimeout, hsel, hphase, State.passOver]

/-- A core that can confirm does so within 32 cycles. -/
theorem exec_confirm (haw : a.awarded = some core) (hcan : s.canConfirm a core = true) (hin : s.cycle ≤ a.since + 32) :
    exec .confirm s = .next (s.confirmAnn a core) := by
  change execConfirm s = _
  simp [execConfirm, hsel, hphase, haw, hcan, hin]

end

/-- Without a kept bid the tender has failed. -/
theorem awardNext_none {s : State} {a : Ann} (hk : a.kept = []) : s.awardNext a = s.failAnn a false := by
  simp [State.awardNext, hk]

/-- A held workgroup of the highest priority is announced again (R324, R401). -/
theorem exec_reAnnounce {s : State} {a : Ann} (h : s.annsApart) (hsel : s.anns[s.sel]? = some a) (hmay : s.mayAgain a = true)
    (hplaced : (s.ctx a.ctx).placed = false) (hfull : (s.anns.filter Ann.inFlight).length < 8)
    (hbest : ∀ x ∈ s.anns, x.id ≠ a.id → s.mayAgain x = true → x.spec.prio < a.spec.prio)
    (hlaunch : ∀ l ∈ s.launches, s.mayAnnounce l → l.prio < a.spec.prio) :
    exec .reAnnounce s = .next (({ s with served := a.ctx }).announceAgain a) := by
  have ha := List.mem_of_getElem? hsel
  have hpick : s.pickAgain = some a := pickAgain_eq ha hmay fun x hx hne => hbest x hx fun hid => hne (annsApart_unique h hx ha hid)
  have hagain : s.pickLaunch.all s.againFirst = true := by
    cases hl : s.pickLaunch with
    | none => rfl
    | some l =>
      obtain ⟨hmem, hml⟩ := pickLaunch_some hl
      simpa [State.againFirst, hpick] using (comesFirst_of_lt (s := s) (hlaunch l hmem hml) a.ctx l.ctx).1
  have hroom : s.inFlightFull = false := decide_eq_false (by omega)
  change execReAnnounce s = _
  simp [execReAnnounce, hsel, hpick, hagain, State.tenderAgain, hplaced, hroom]

end Sys2Proof.Machine
end

section
/-! SUPPORT. Admission: the teams of a workgroup and their start values (R68, R72, R321, R323). -/

namespace Sys2Proof.Machine

/-! ## Start values (R72) -/

/-- The parameters are the first scalars. -/
theorem tget_startParams (params : List Word) (n : Nat) :
    tget 0 ((params.zipIdx.map (fun e => (e.2, e.1))).foldl (fun s e => tset 0 s e.1 e.2) []) n = params.getD n 0 := by
  induction params using List.reverseRecOn with
  | nil => rfl
  | append_singleton ps p ih =>
    rw [List.zipIdx_append, List.map_append, List.foldl_append]
    by_cases h : n = ps.length
    · subst h
      simp
    · refine (tget_tset_of_ne 0 _ _ (by simpa using h)).trans (ih.trans ?_)
      rcases Nat.lt_or_gt_of_ne h with hlt | hgt
      · simp [List.getD_eq_getElem?_getD, List.getElem?_append_left hlt]
      · rw [List.getD_eq_default _ _ hgt.le, List.getD_eq_default _ _ (by simp; omega)]

/-- The scalars of a team at admission. -/
theorem tget_startScalars (params : List Word) (w t r count : Nat) :
    tget 0 (startScalars params w t r count) 8 = BitVec.ofNat 32 w ∧ tget 0 (startScalars params w t r count) 9 = BitVec.ofNat 32 t ∧
      tget 0 (startScalars params w t r count) 10 = BitVec.ofNat 32 r ∧ tget 0 (startScalars params w t r count) 11 = BitVec.ofNat 32 count ∧
      tget 0 (startScalars params w t r count) 22 = 0 ∧ tget 0 (startScalars params w t r count) 23 = 0xFFFFF000 ∧
      ∀ n, n < 8 → tget 0 (startScalars params w t r count) n = params.getD n 0 := by
  have hother {x : Table Word} {m n : Nat} {v : Word} (hne : m ≠ n) : tget 0 (tset 0 x n v) m = tget 0 x m := tget_tset_of_ne 0 x v hne
  unfold startScalars
  simp only [List.foldl_append, List.foldl_cons, List.foldl_nil]
  refine ⟨?_, ?_, ?_, ?_, ?_, ?_, fun n hn => ?_⟩
  · rw [hother (by omega), hother (by omega), hother (by omega), hother (by omega), hother (by omega), tget_tset_self]
  · rw [hother (by omega), hother (by omega), hother (by omega), hother (by omega), tget_tset_self]
  · rw [hother (by omega), hother (by omega), hother (by omega), tget_tset_self]
  · rw [hother (by omega), hother (by omega), tget_tset_self]
  · rw [hother (by omega), tget_tset_self]
  · rw [tget_tset_self]
  · rw [hother (by omega), hother (by omega), hother (by omega), hother (by omega), hother (by omega), hother (by omega)]
    exact tget_startParams params n

/-! ## Teams of a launch (R68) -/

/-- The role of each team. -/
theorem mem_teamRoles {l : Launch} {k : Nat} {role : Role} (h : (k, role) ∈ l.teamRoles) : l.roles[k]? = some role := by
  obtain ⟨e, he, hr⟩ := List.mem_flatMap.1 h
  obtain ⟨rfl, rfl⟩ := Prod.mk.inj (List.eq_of_mem_replicate hr)
  exact List.mem_zipIdx_iff_getElem?.1 he

/-- As many teams as the roles name. -/
theorem length_teamRoles (l : Launch) : l.teamRoles.length = l.teams := by
  have hsum : l.roles.zipIdx.map (fun e => e.1.nteams) = l.roles.map Role.nteams := by
    rw [show (fun e : Role × Nat => e.1.nteams) = Role.nteams ∘ Prod.fst from rfl, ← List.map_map, List.zipIdx_map_fst]
  unfold Launch.teamRoles Launch.teams
  rw [List.length_flatMap]
  simp only [List.length_replicate, hsum]

/-- The teams of a workgroup at admission. -/
def Launch.startTeams (l : Launch) (wg w : Nat) (slots : List Nat) (now : Nat) : List Team :=
  l.teamRoles.zipIdx.map (fun e => startTeam l e.1.2 e.1.1 wg w (wg + 1 + e.2) e.2 (slots.getD e.2 0) now)

/-- Each of them stands at its role's entry. -/
theorem startTeams_get {l : Launch} {wg w : Nat} {slots : List Nat} {now i : Nat} {x : Team}
    (h : (l.startTeams wg w slots now)[i]? = some x) : ∃ k role, l.roles[k]? = some role ∧
      x = startTeam l role k wg w (wg + 1 + i) i (slots.getD i 0) now := by
  rw [Launch.startTeams, List.getElem?_map, Option.map_eq_some_iff] at h
  obtain ⟨e, he, rfl⟩ := h
  rw [List.getElem?_zipIdx, Option.map_eq_some_iff] at he
  obtain ⟨⟨k, role⟩, hr, rfl⟩ := he
  exact ⟨k, role, mem_teamRoles (List.mem_of_getElem? hr), by simp⟩

/-! ## Admission (R72, R321) -/

/-- A workgroup admitted in the place of its announcement. -/
theorem admitWg_admitted (s : State) (a : Ann) (l : Launch) (core : Nat) (cls : ClassRec) :
    let t := (s.dropAnn a.id).admitWg l a.wg core cls none
    Admitted s t a l core ∧ t.pointer = s.pointer ∧ ∀ c, (t.ctx c).fqWait = (s.ctx c).fqWait := by
  have hclaim : StoresOnly (s.dropAnn a.id)
      ((if cls.clm then (s.dropAnn a.id).claimCluster core l.ctx else s.dropAnn a.id).claimChip core l.ctx l.smin l.smax) := by
    refine StoresOnly.trans ?_ (storesOnly_claimChip ..)
    split
    · exact storesOnly_claimCluster ..
    · exact .refl _
  unfold State.admitWg
  dsimp only
  generalize (if cls.clm then (s.dropAnn a.id).claimCluster core l.ctx else s.dropAnn a.id).claimChip core l.ctx l.smin l.smax = u
    at hclaim ⊢
  obtain ⟨_, _, _, _, _, _, rfl⟩ := hclaim
  refine ⟨⟨fun x hx => ?_, rfl, _, rfl, rfl, rfl, rfl, rfl, rfl, length_teamRoles l, List.length_replicate, fun m hm => ?_, rfl,
    l.startTeams s.nextUid a.wg (((s.dropAnn a.id).freeSlots l.ctx).take l.teamRoles.length) s.cycle, rfl, ?_, fun i x hx => ?_⟩, rfl,
    fun c => ?_⟩
  · simpa using (List.mem_filter.1 hx).2
  · rw [List.eq_of_mem_replicate hm]
    exact ⟨rfl, rfl⟩
  · rw [Launch.startTeams, List.length_map, List.length_zipIdx, length_teamRoles]
  · obtain ⟨k, role, hrole, rfl⟩ := startTeams_get hx
    obtain ⟨h8, h9, h10, h11, h22, h23, hparams⟩ := tget_startScalars l.params a.wg i k l.count
    exact ⟨k, role, hrole, rfl, rfl, rfl, rfl, rfl, rfl, rfl, rfl, rfl, rfl, rfl, rfl, rfl, rfl, rfl, h8, h9, h10, h11, h22, h23, hparams⟩
  · by_cases hc : c = l.ctx
    · subst hc
      exact (congrArg Context.fqWait (tget_tset_self ..)).trans rfl
    · exact congrArg Context.fqWait (tget_tset_of_ne _ _ _ hc)

/-- A core takes a new workgroup: it is admitted. -/
theorem settleAnn_fresh {s : State} {a : Ann} {l : Launch} (core : Nat) (hfresh : a.purpose = .fresh)
    (hlaunch : s.launch? a.spec.id = some l) : Admitted s (s.settleAnn a core) a l core ∧ (s.settleAnn a core).pointer = s.pointer ∧
      ∀ c, ((s.settleAnn a core).ctx c).fqWait = (s.ctx c).fqWait := by
  have hsettle : s.settleAnn a core = (s.dropAnn a.id).admitWg l a.wg core a.cls none := by
    have hthere : (s.dropAnn a.id).launch? a.spec.id = some l := hlaunch
    unfold State.settleAnn
    simp only [hfresh, hthere, Option.getD_some]
  rw [hsettle]
  exact admitWg_admitted s a l core a.cls

/-- The pointer goes to the next core where that is enabled (R323). -/
theorem nextCore_eq {s : State} {p : Nat} (h : s.coreOn ((p + 1) % 192) = true) : s.nextCore p = (p + 1) % 192 := by
  have hrange : (List.range 192).map (fun i => (p + 1 + i) % 192) =
      (p + 1) % 192 :: (List.range 191).map (fun i => (p + 1 + (i + 1)) % 192) := by
    rw [List.range_succ_eq_map, List.map_cons, List.map_map]
    rfl
  rw [State.nextCore, hrange, List.find?_cons_of_pos h, Option.getD_some]

end Sys2Proof.Machine
end

section
/-! SUPPORT. Tender, step by step: announcement, bid, award, confirmation and the answer of system software (R322–R324, R401, R403). -/

namespace Sys2Proof.Machine

/-! ## The launch of highest priority (R401, R403) -/

section
variable {s : State} {l : Launch}

/-- A launch has announced its next workgroup. -/
def State.announced (s : State) (l : Launch) : State :=
  (({ s.draw with served := l.ctx }).announce l l.next .fresh l.teams (s.ctx l.ctx).placed).modLaunch l.id
    (fun x => { x with next := x.next + 1 })

/-- The launch of highest priority is the one that is announced from, unless eight announcements are in flight. -/
theorem exec_announcement (hl : l ∈ s.launches) (hmay : s.mayAnnounce l) (hhank : l.hank = 0) (hatt : s.fab.attempts = [])
    (hagain : ∀ a ∈ s.anns, s.mayAgain a = true → a.spec.prio < l.prio) (hbest : ∀ x ∈ s.launches, x ≠ l → x.prio < l.prio)
    (hroom : (s.ctx l.ctx).placed = true ∨ (s.anns.filter Ann.inFlight).length < 8) :
    exec .announcement s = .next (s.announced l) := by
  have hroom' : ¬ (!(s.ctx l.ctx).placed && s.inFlightFull) = true := by
    simp only [State.inFlightFull, Bool.and_eq_true, Bool.not_eq_true', decide_eq_true_eq, not_and, not_le]
    exact fun hp => hroom.resolve_left (by simp [hp])
  change execAnnouncement s = _
  simp only [execAnnouncement, pickLaunch_eq hl hmay hatt hbest, againFirst_false hagain, hhank, hroom', ne_eq, not_true_eq_false,
    if_false, Bool.false_eq_true, State.announced]

/-- The launch counts the workgroup. -/
theorem modLaunch_launches (s : State) (id : Nat) (f : Launch → Launch) :
    (s.modLaunch id f).launches = s.launches.map (fun x => if x.id = id then f x else x) := by
  simp [State.modLaunch]

/-- Without host assistance the workgroup is announced. -/
theorem announced_bidding (hplaced : (s.ctx l.ctx).placed = false) :
    let t := s.announced l
    t.served = l.ctx ∧ t.launches = s.launches.map (fun x => if x.id = l.id then { x with next := x.next + 1 } else x) ∧
      t.cur = s.cur ∧ t.mem = s.mem ∧ ∃ a, t.anns = s.anns ++ [a] ∧ a.ctx = l.ctx ∧ a.wg = l.next ∧ a.phase = .bidding ∧
        a.since = s.cycle ∧ a.kept = [] ∧ a.cls = (s.ctx l.ctx).cls l.cls := by
  dsimp only
  unfold State.announced
  rw [hplaced, modLaunch_launches]
  exact ⟨rfl, rfl, rfl, rfl, _, rfl, rfl, rfl, rfl, rfl, rfl, rfl⟩

/-- With it the workgroup is offered to system software. -/
theorem announced_offered (hplaced : (s.ctx l.ctx).placed = true) :
    let t := s.announced l
    t.served = l.ctx ∧ t.launches = s.launches.map (fun x => if x.id = l.id then { x with next := x.next + 1 } else x) ∧
      ∃ a e, t.anns = s.anns ++ [a] ∧ a.phase = .starved ∧ a.wg = l.next ∧ (t.ctx l.ctx).fqWait = (s.ctx l.ctx).fqWait ++ [e] ∧
        e.kind = 2 ∧ e.sub = 0 ∧ e.arg0 = l.record ∧ e.arg1 = BitVec.ofNat 64 (l.next % 65536) := by
  dsimp only
  unfold State.announced State.announce
  rw [hplaced, modLaunch_launches]
  simp only [if_true]
  generalize ha : (Ann.mk ..) = a
  obtain ⟨arg1, hpost, harg⟩ := posted_askPlace
    { s.draw with served := l.ctx, nextUid := s.draw.nextUid + 1, anns := s.draw.anns ++ [a] } a 0
  subst ha
  obtain ⟨e, hwait, hkind, hsub, harg0, harg1⟩ := hpost.entry
  exact ⟨hpost.served, by rw [hpost.launches]; rfl, _, e, hpost.anns, rfl, rfl, hwait, hkind, hsub, harg0, harg1.trans (harg rfl)⟩

end

/-! ## The four best bids (R322, R323) -/

/-- Of the bids at most four are kept, in rank order, and a bid that comes while fewer are kept is one of them. -/
theorem take_insertBid (pointer : Nat) (x : Nat × Nat) (ks : List (Nat × Nat)) :
    let kept := (insertBid pointer x ks).take 4
    kept.length ≤ 4 ∧ (ks.length < 4 → x ∈ kept ∧ ∀ k ∈ ks, k ∈ kept) ∧ (∀ k ∈ kept, k = x ∨ k ∈ ks) ∧
      (ks.Pairwise (bidBefore pointer) → kept.Pairwise (bidBefore pointer)) := by
  refine ⟨List.length_take_le .., fun hlt => ?_, fun k hk => mem_insertBid.1 (List.mem_of_mem_take hk),
    fun h => (pairwise_insertBid h).sublist (List.take_sublist ..)⟩
  have hall : (insertBid pointer x ks).take 4 = insertBid pointer x ks :=
    List.take_of_length_le (by rw [length_insertBid]; omega)
  simp only [hall]
  exact ⟨mem_insertBid.2 (.inl rfl), fun k hk => mem_insertBid.2 (.inr hk)⟩

/-! ## An award, and what follows where none comes to anything (R323, R324) -/

section
variable {s : State} {a : Ann} (w : Option Nat) (hfresh : a.purpose = .fresh)
include hfresh

/-- A tender that fails takes no time. -/
theorem failAnn_cycle (noBid : Bool) : (s.failAnn { a with awarded := w } noBid).cycle = s.cycle := by
  rw [failAnn_fresh w hfresh]
  split
  · rfl
  · split
    · exact (starve_hands_over ..).1
    · split
      · rfl
      · rfl

/-- Nor does an award. -/
theorem awardNext_cycle : (s.awardNext { a with awarded := w }).cycle = s.cycle := by
  by_cases hk : a.kept = []
  · rw [awardNext_none (a := { a with awarded := w }) hk]
    exact failAnn_cycle w hfresh false
  · obtain ⟨k, ks, he⟩ := List.exists_cons_of_ne_nil hk
    unfold State.awardNext
    simp only [he]
    rfl

end

/-- An announcement without a kept bid, held. -/
theorem heldFor_of_kept_nil {a : Ann} (hk : a.kept = []) (again : Bool) :
    a.heldFor again = { a with phase := .held, awarded := none, again := again } := by
  rw [Ann.heldFor, ← hk]

/-- Where an award leads that its core does not confirm: to the next kept bid; with none left to a hold where the launch has stopped,
else to a fresh announcement, or a hold until there may be one; the eighth time to system software (R324, R398). -/
structure PassedOver (s t : State) (a : Ann) : Prop where
  next : ∀ k ks, a.kept = k :: ks → OthersKept s t a ∧ t.annIs (a.awardedTo k ks t.cycle)
  stopped : a.kept = [] → (s.launch? a.spec.id).any Launch.stopped = true → OthersKept s t a ∧ t.annIs (a.heldFor false)
  again : a.kept = [] → (s.launch? a.spec.id).any Launch.stopped = false → a.retenders < 7 → OthersKept s t a ∧
    if (s.budgetsPass a.ctx 0 && s.slotsLeft a.ctx a.spec.teams) = true then
      t.annIs { a.afresh ((s.ctx a.ctx).cls a.spec.cls) t.cycle with retenders := a.retenders + 1 }
    else t.annIs { a.heldFor true with retenders := a.retenders + 1 }
  handed : a.kept = [] → (s.launch? a.spec.id).any Launch.stopped = false → a.retenders = 7 → (t.ctx a.ctx).placed = true ∧
    ∀ x ∈ s.anns, x.ctx = a.ctx → x.forHank = false → ∃ b ∈ t.anns, b.id = x.id ∧ b.phase = .starved

/-- An award passes on. -/
theorem passedOver {s : State} {a : Ann} (h : s.annsApart) (ha : a ∈ s.anns) (hfresh : a.purpose = .fresh) :
    PassedOver s (s.awardNext { a with awarded := none }) a where
  next _ _ hk := awardNext_kept h ha none hk
  stopped hk hstop := by
    rw [awardNext_none (a := { a with awarded := none }) hk]
    exact failAnn_held h ha none hfresh hstop
  again hk hstop hret := by
    rw [awardNext_none (a := { a with awarded := none }) hk]
    exact failAnn_again h ha none hfresh hstop hret
  handed hk hstop hret := by
    rw [awardNext_none (a := { a with awarded := none }) hk, failAnn_fresh none hfresh, if_neg (by simp [hstop]), if_pos (by omega)]
    exact (starve_hands_over s { a with awarded := none }).2

section
variable {s : State} {a : Ann} (h : s.annsApart) (hsel : s.anns[s.sel]? = some a) (hfresh : a.purpose = .fresh)
include h hsel hfresh

/-- At its end the window gives the best bid the award, or holds the workgroup. -/
theorem windowClose_awards (hphase : a.phase = .bidding) (hfirst : ∀ x ∈ s.anns.take s.sel, x.phase ≠ .bidding) :
    ∃ t, exec .bidWindowClose s = .next t ∧ a.closes ≤ t.cycle ∧ OthersKept s t a ∧
      (∀ k ks, a.kept = k :: ks → t.annIs (a.awardedTo k ks t.cycle)) ∧
      (a.kept = [] → t.annIs { a with phase := .held, awarded := none, again := false }) := by
  have ha := List.mem_of_getElem? hsel
  refine ⟨_, exec_bidWindowClose hsel hphase hfirst, ?_⟩
  by_cases hk : a.kept = []
  · rw [if_pos hk, ← heldFor_of_kept_nil hk]
    obtain ⟨hrest, hheld⟩ := failAnn_held (s := s.waitUntil a.closes) h ha a.awarded hfresh (noBid := true) rfl
    refine ⟨?_, hrest, fun k ks he => absurd (hk.symm.trans he) (List.cons_ne_nil k ks).symm, fun _ => hheld⟩
    exact (failAnn_cycle a.awarded hfresh true).symm ▸ Nat.le_max_right ..
  · rw [if_neg hk]
    refine ⟨(awardNext_cycle a.awarded hfresh).symm ▸ Nat.le_max_right .., ?_, fun k ks he => ?_, fun he => absurd he hk⟩
    · obtain ⟨k, ks, he⟩ := List.exists_cons_of_ne_nil hk
      exact (awardNext_kept (s := s.waitUntil a.closes) h ha a.awarded he).1
    · exact (awardNext_kept (s := s.waitUntil a.closes) h ha a.awarded he).2

variable {core : Nat} (hphase : a.phase = .awarded)
include hphase

/-- A core that cannot confirm passes its award on. -/
theorem withdraw_passesOver (haw : a.awarded = some core) (hno : s.canConfirm a core = false) :
    ∃ t, exec .withdraw s = .next t ∧ PassedOver s t a :=
  ⟨_, exec_withdraw hsel hphase haw hno, passedOver h (List.mem_of_getElem? hsel) hfresh⟩

/-- So does the end of the 32 cycles. -/
theorem confirmTimeout_passesOver : ∃ t, exec .confirmTimeout s = .next t ∧ a.since + 32 ≤ t.cycle ∧ PassedOver s t a := by
  obtain ⟨hnext, hstopped, hagain, hhanded⟩ := passedOver (s := s.waitUntil (a.since + 32)) h (List.mem_of_getElem? hsel) hfresh
  exact ⟨_, exec_confirmTimeout hsel hphase, (awardNext_cycle none hfresh).symm ▸ Nat.le_max_right .., hnext, hstopped, hagain, hhanded⟩

omit h in
/-- A core that confirms gets the workgroup, and the pointer goes to the next enabled core. -/
theorem confirm_admits {l : Launch} (haw : a.awarded = some core) (hcan : s.canConfirm a core = true) (hin : s.cycle ≤ a.since + 32)
    (hlaunch : s.launch? a.spec.id = some l) : ∃ t, exec .confirm s = .next t ∧ Admitted s t a l core ∧
      (s.coreOn ((s.pointer + 1) % 192) = true → t.pointer = (s.pointer + 1) % 192) := by
  refine ⟨_, exec_confirm hsel hphase haw hcan hin, ?_⟩
  obtain ⟨hadm, hpointer, -⟩ := settleAnn_fresh (s := { s with pointer := s.nextCore s.pointer }) core hfresh hlaunch
  exact ⟨hadm, fun hon => hpointer.trans (nextCore_eq hon)⟩

end

/-- A held workgroup that may be is announced again, and its context is served (R324, R401). -/
theorem reAnnounce_announces {s : State} {a : Ann} (h : s.annsApart) (hsel : s.anns[s.sel]? = some a) (hfresh : a.purpose = .fresh)
    (hphase : a.phase = .held) (hagain : a.again = true)
    (hmay : (s.budgetsPass a.ctx 0 && s.slotsLeft a.ctx a.spec.teams) = true) (hplaced : (s.ctx a.ctx).placed = false)
    (hfull : (s.anns.filter Ann.inFlight).length < 8)
    (hbest : ∀ x ∈ s.anns, x.id ≠ a.id → s.mayAgain x = true → x.spec.prio < a.spec.prio)
    (hlaunch : ∀ l ∈ s.launches, s.mayAnnounce l → l.prio < a.spec.prio) :
    ∃ t, exec .reAnnounce s = .next t ∧ OthersKept s t a ∧ t.served = a.ctx ∧
      t.annIs (a.afresh ((s.ctx a.ctx).cls a.spec.cls) s.cycle) := by
  have hmay' : s.mayAgain a = true := by
    unfold State.mayAgain
    rw [(annSaved_fresh a.awarded hfresh).2, Bool.and_assoc, hmay]
    simp [hphase, hagain]
  obtain ⟨hrest, his⟩ := announceAgain_annIs (s := { s with served := a.ctx }) (a := a) a.awarded a.retenders
  exact ⟨_, exec_reAnnounce h hsel hmay' hplaced hfull hbest hlaunch, hrest, rfl, his⟩

/-! ## The answer of system software (R403) -/

section
variable {s : State} {a : Ann} (hfresh : a.purpose = .fresh)
include hfresh

/-- Whether a core can confirm a new workgroup does not turn on what waits in the fault queue. -/
theorem canConfirm_fqWait (c core : Nat) (es : List QueueEntry) :
    (s.setCtx c { s.ctx c with fqWait := es }).canConfirm a core = s.canConfirm a core := by
  have hslots (n : Nat) : (s.setCtx c { s.ctx c with fqWait := es }).slotsLeft a.ctx n = s.slotsLeft a.ctx n := by
    unfold State.slotsLeft
    by_cases hc : a.ctx = c
    · subst hc
      rw [State.setCtx_ctx_self]
      rfl
    · rw [State.setCtx_ctx_of_ne _ _ hc]
      rfl
  have hfits : (s.setCtx c { s.ctx c with fqWait := es }).annFits a core = s.annFits a core := by
    unfold State.annFits
    rw [(annSaved_fresh a.awarded hfresh).1, (annSaved_fresh a.awarded hfresh).1, hfresh]
    rfl
  unfold State.canConfirm
  rw [hfits, (annSaved_fresh a.awarded hfresh).2, (annSaved_fresh a.awarded hfresh).2, hslots]

variable (h : s.annsApart) (ha : a ∈ s.anns) {e : QueueEntry} (hwait : (s.ctx a.ctx).fqWait = [e]) (hkind : e.kind = 2)
  (hposted : e.posted = true) (hparty : e.party = a.id) (v : Word)
include h ha hwait hkind hposted hparty

/-- The one request that waits is answered: the core takes the workgroup, or system software is asked again. -/
theorem exec_placementResponse : exec (.placementResponse a.ctx e.n v) s = .next (
    if s.canConfirm a v.toNat then (s.setCtx a.ctx { s.ctx a.ctx with fqWait := [] }).settleAnn a v.toNat
    else (s.setCtx a.ctx { s.ctx a.ctx with fqWait := [] }).askPlace a 1) := by
  have hfind : s.anns.find? (fun x => x.id == e.party) = some a := by
    rw [hparty]
    exact find?_ann h ha
  change execPlacementResponse a.ctx e.n v s = _
  simp [execPlacementResponse, hwait, hkind, hposted, hfind, canConfirm_fqWait hfresh]

/-- A core that fits takes the workgroup. -/
theorem placementResponse_admits {l : Launch} (hlaunch : s.launch? a.spec.id = some l) (hcan : s.canConfirm a v.toNat = true) :
    ∃ t, exec (.placementResponse a.ctx e.n v) s = .next t ∧ Admitted s t a l v.toNat ∧ (t.ctx a.ctx).fqWait = [] := by
  refine ⟨_, exec_placementResponse hfresh h ha hwait hkind hposted hparty v, ?_⟩
  rw [if_pos hcan]
  obtain ⟨hadm, -, hfq⟩ := settleAnn_fresh (s := s.setCtx a.ctx { s.ctx a.ctx with fqWait := [] }) v.toNat hfresh hlaunch
  exact ⟨hadm, (hfq a.ctx).trans (by rw [State.setCtx_ctx_self])⟩

/-- Else it is asked for again. -/
theorem placementResponse_asksAgain (hcan : s.canConfirm a v.toNat = false) :
    ∃ t e', exec (.placementResponse a.ctx e.n v) s = .next t ∧ t.wgs = s.wgs ∧ a ∈ t.anns ∧ (t.ctx a.ctx).fqWait = [e'] ∧
      e'.kind = 2 ∧ e'.sub = 1 ∧ e'.arg0 = a.spec.record := by
  obtain ⟨arg1, hpost, -⟩ := posted_askPlace (s.setCtx a.ctx { s.ctx a.ctx with fqWait := [] }) a 1
  obtain ⟨e', hwait', hkind', hsub, harg0, -⟩ := hpost.entry
  rw [State.setCtx_ctx_self] at hwait'
  refine ⟨_, e', exec_placementResponse hfresh h ha hwait hkind hposted hparty v, ?_⟩
  rw [if_neg (by simp [hcan])]
  exact ⟨hpost.wgs, hpost.anns.symm ▸ ha, hwait', hkind', hsub, harg0⟩

end

/-! ## Tender (R72, R322–R324, R401, R403) -/

/-- Settles O48: each step of the tender by the lemma about it, from the launch that is announced to the core that takes its
workgroup. -/
theorem tenderPlacesWorkgroups : Obligations.TenderPlacesWorkgroups := by
  intro s h
  refine ⟨fun l hl hmay hhank hatt hagain hbest => ?announce, fun a core ha hphase hwin honce hfits => ?bid,
    fun a hsel hfresh => ?award, fun c a l e v hwait hkind hposted hparty ha hfresh hctx hlaunch => ?answer⟩
  case announce =>
    have hstep := exec_announcement hl hmay hhank hatt hagain fun x hx hne => (hbest x hx hne).1
    refine ⟨fun hplaced hroom => ?_, fun hplaced => ?_⟩
    · obtain ⟨hserved, hcount, hcur, hmem, a, ha⟩ := announced_bidding hplaced
      exact ⟨_, a, hstep (.inr hroom), ⟨hserved, hcount⟩, hcur, hmem, ha⟩
    · obtain ⟨hserved, hcount, a, e, ha⟩ := announced_offered hplaced
      exact ⟨_, a, e, hstep (.inl hplaced), ⟨hserved, hcount⟩, ha⟩
  case bid =>
    obtain ⟨hlen, hall, honly, hsorted⟩ := take_insertBid s.pointer (s.cost a core, core) a.kept
    obtain ⟨⟨-, -, hcur, hmem⟩, his⟩ := modAnn_annIs h ha
      (f := fun a => { a with kept := (insertBid s.pointer (s.cost a core, core) a.kept).take 4 }) fun _ => rfl
    exact ⟨cost_eq s a core, _, _, exec_bid h ha hphase hwin honce hfits, his, hlen, hall, honly, hsorted, hcur, hmem⟩
  case award =>
    refine ⟨windowClose_awards h hsel hfresh, fun core hphase haw => ⟨fun l hcan hin hlaunch => ?_, fun hno => ?_, ?_⟩,
      fun hphase hagain hmay hplaced hfull hbest hlaunch =>
        reAnnounce_announces h hsel hfresh hphase hagain hmay hplaced hfull hbest hlaunch⟩
    · exact confirm_admits hsel hfresh hphase haw hcan hin hlaunch
    · obtain ⟨t, hstep, hpass⟩ := withdraw_passesOver h hsel hfresh hphase haw hno
      refine ⟨fun k ks hk => ⟨t, hstep, hpass.next k ks hk⟩, fun hk hstop => ⟨t, hstep, ?_⟩,
        fun hk hstop hret => ⟨t, hstep, ?_⟩, fun hk hstop hret => ⟨t, hstep, hpass.handed hk hstop hret⟩⟩
      · rw [← heldFor_of_kept_nil hk]
        exact hpass.stopped hk hstop
      · exact hpass.again hk hstop hret
    · obtain ⟨t, hstep, hlate, hpass⟩ := confirmTimeout_passesOver h hsel hfresh hphase
      exact ⟨t, hstep, hlate, hpass.next, hpass.again⟩
  case answer =>
    subst hctx
    exact ⟨placementResponse_admits hfresh h ha hwait hkind hposted hparty v hlaunch,
      placementResponse_asksAgain hfresh h ha hwait hkind hposted hparty v⟩

end Sys2Proof.Machine
end

section
/-! SUPPORT. NOP and YIELD: the next word of the clause, or the clause that follows in memory (R22, R89, R94, R114). -/

namespace Sys2Proof.Machine

/-- ICNT is the header's highest field (R19). -/
theorem Clause.icnt_eq_extractLsb' (c : Clause) : c.icnt = (c.header.extractLsb' 28 4).toNat := by
  have := c.header.isLt
  simp only [Clause.icnt, BitVec.toNat_ushiftRight, BitVec.extractLsb'_toNat, Nat.shiftRight_eq_div_pow]
  omega

/-- The length of a clause, from its header (R19, R114). -/
theorem Clause.length_eq_extractLsb' (c : Clause) :
    c.length = 4 * (1 + (c.header.extractLsb' 28 4).toNat + (c.header.extractLsb' 25 3).toNat) := by
  rw [Clause.length, c.icnt_eq_extractLsb', Clause.lcnt]

section
variable {t : Team} {c : Clause} (honly : t.only = none) (hchecked : t.checked = false) (hservice : t.service = none)
  (hpark : t.park = .running) (hc : t.clause = some c)
include honly hchecked hservice hpark hc

/-- Within a clause the end of an instruction is the next word. -/
theorem Team.advance_within (hi : t.idx + 1 < c.icnt) : t.advance = { t with
    idx := t.idx + 1, resumed := false, focused := t.focused && t.hlevel, fresh := t.fresh + 1 } := by
  simp [Team.advance, hc, hi, honly, hchecked, hservice, hpark]

/-- At the end of a clause it is the clause that follows, and the team yields if the header says so. -/
theorem Team.advance_past (hi : ¬ t.idx + 1 < c.icnt) : t.advance = { t with
    pc := t.pc + BitVec.ofNat 64 c.length, idx := 0, clause := none, resumed := false, focused := t.focused && t.hlevel,
    yielding := t.yielding || c.yield, lastIssue := if c.yield then some t.now else t.lastIssue, fresh := t.fresh + 1 } := by
  cases hy : c.yield <;>
    simp [Team.advance, Team.yieldsAfter, Team.nextPc, hc, hi, hy, honly, hchecked, hservice, hpark]

end

/-- NOP is the end of an instruction. -/
theorem exec_nop {s : State} (hp : s.plain = true) : exec .nop s = .next (s.setCur s.cur.advance) :=
  issue_done hp rfl (conds := fun _ _ => []) rfl rfl

/-- YIELD makes the team yielding from now on (R94). -/
theorem exec_yield {s : State} (hp : s.plain = true) :
    exec .yield s = .next (s.setCur { s.cur with yielding := true, lastIssue := some s.cur.now }.advance) :=
  issue_done_cur hp rfl (conds := fun _ _ => []) rfl rfl

/-- Settles O14: the two places where an instruction's end leaves the team. -/
theorem nopAndYieldGoOn : Obligations.NopAndYieldGoOn := by
  intro s c hp hc
  obtain ⟨-, -, -, hservice, hpark, -, -, honly, hchecked, -⟩ := (State.plain_iff s).1 hp
  rw [← c.icnt_eq_extractLsb', exec_nop hp]
  refine ⟨fun hi => ?_, fun hi => ?_, exec_yield hp⟩
  · rw [Team.advance_within honly hchecked hservice hpark hc hi]
  · rw [Team.advance_past honly hchecked hservice hpark hc hi, c.length_eq_extractLsb', ← c.icnt_eq_extractLsb']
    rfl

end Sys2Proof.Machine
end

section
/-! SUPPORT. Predicates written by compares, predicate logic and votes (R103–R105). -/

namespace Sys2Proof.Machine

/-! ## Masks of lanes -/

/-- The lanes of a list, one by one, added to a mask. -/
theorem getLsbD_foldl_laneBit (ls : List Nat) (m : Mask) (k : Nat) :
    (ls.foldl (fun m l => m ||| laneBit l) m).getLsbD k = (m.getLsbD k || (decide (k < 1024) && decide (k ∈ ls))) := by
  induction ls generalizing m with
  | nil => simp
  | cons l ls ih =>
    have hbit : (laneBit l).getLsbD k = (decide (k < 1024) && decide (k = l)) := by
      have h : (¬ k < l ∧ k - l = 0) ↔ k = l := by omega
      simp only [laneBit, BitVec.getLsbD_shiftLeft, ← h, Bool.decide_and, decide_not]
      simp [Bool.and_assoc]
    rw [List.foldl_cons, ih, BitVec.getLsbD_or, hbit, Bool.or_assoc, ← Bool.and_or_distrib_left]
    simp only [List.mem_cons, Bool.decide_or]

/-- The mask of some of the contributing lanes, lane by lane. -/
theorem maskOf_filter_contribLanes_getLsbD (t : Team) (p : Nat → Bool) (l : Nat) :
    (maskOf (t.contribLanes.filter p)).getLsbD l = (t.takesPart l && p l) := by
  rw [maskOf, getLsbD_foldl_laneBit, Bool.eq_iff_iff]
  simp only [BitVec.ofNat_eq_ofNat, BitVec.getLsbD_zero, Bool.false_or, Bool.and_eq_true, decide_eq_true_eq, List.mem_filter,
    t.mem_contribLanes, Team.takesPart]
  exact ⟨fun ⟨_, ⟨hl, hm⟩, hp⟩ => ⟨⟨hm, hl⟩, hp⟩, fun ⟨⟨hm, hl⟩, hp⟩ => ⟨BitVec.lt_of_getLsbD hm, ⟨hl, hm⟩, hp⟩⟩

/-- The mask of all of them. -/
theorem maskOf_contribLanes_getLsbD (t : Team) (l : Nat) : (maskOf t.contribLanes).getLsbD l = t.takesPart l := by
  simpa using maskOf_filter_contribLanes_getLsbD t (fun _ => true) l

/-- The lanes that take part are the contributing ones. -/
theorem takesPart_iff_mem {t : Team} {l : Nat} : t.takesPart l = true ↔ l ∈ t.contribLanes := by
  simp [Team.takesPart, t.mem_contribLanes, and_comm]

/-- A mask that shares no lane with the contributing ones. -/
theorem contribLanes_and_eq_zero {t : Team} {m : Mask} :
    maskOf t.contribLanes &&& m = 0 ↔ ∀ l ∈ t.contribLanes, m.getLsbD l = false := by
  rw [BitVec.eq_of_getLsbD_eq_iff]
  simp only [BitVec.getLsbD_and, maskOf_contribLanes_getLsbD, BitVec.ofNat_eq_ofNat, BitVec.getLsbD_zero, Bool.and_eq_false_imp,
    takesPart_iff_mem]
  exact ⟨fun h l hl => h l (BitVec.lt_of_getLsbD ((t.mem_contribLanes l).1 hl).2) hl, fun h l _ hl => h l hl⟩

/-! ## A predicate written (R16) -/

/-- A predicate after it was written in the lanes of a mask. -/
theorem Team.pget_pset_self (t : Team) (n : Nat) (lanes values : Mask) (l : Nat) :
    (t.pset n lanes values).pget l n = if lanes.getLsbD l then values.getLsbD l else t.pget l n := by
  rw [Team.pget, Team.pmask, Team.pset_p, tget_tset_self, BitVec.getLsbD_or, BitVec.getLsbD_and, BitVec.getLsbD_and,
    BitVec.getLsbD_not, Team.pget]
  by_cases hl : l < 1024
  · cases lanes.getLsbD l <;> simp [hl]
  · simp [BitVec.getLsbD_of_ge _ _ (Nat.le_of_not_lt hl)]

/-- Another predicate. -/
theorem Team.pget_pset_of_ne (t : Team) {n k : Nat} (lanes values : Mask) (l : Nat) (h : k ≠ n) :
    (t.pset n lanes values).pget l k = t.pget l k := by
  rw [Team.pget, Team.pmask, Team.pset_p, tget_tset_of_ne _ _ _ h, Team.pget, Team.pmask]

/-- The end of an instruction leaves the predicates. -/
@[simp] theorem Team.advance_pget (t : Team) (l n : Nat) : t.advance.pget l n = t.pget l n := by
  rw [Team.pget, Team.pmask, Team.advance_p, Team.pget, Team.pmask]

/-- The team with predicate d of the contributing lanes written, and exceptions set. -/
def Team.predWritten (t : Team) (fl : Nat) (d : Code) (values : Mask) : Team :=
  (t.raiseFlags fl).pset d.toNat (maskOf t.contribLanes) values

/-- What predicate d is then. -/
theorem predWritten_pget_self (t : Team) (fl : Nat) (d : Code) (values : Mask) (l : Nat) :
    (t.predWritten fl d values).pget l d.toNat = if t.takesPart l then values.getLsbD l else t.pget l d.toNat := by
  rw [Team.predWritten, Team.pget_pset_self, maskOf_contribLanes_getLsbD]
  rfl

/-- Nothing beside the predicate and the exception flags has changed. -/
theorem predWritten_regFrame {s : State} {u : Team} {fl : Nat} {d : Code} {values : Mask} (hshort : s.cur.shortLived = [])
    (hu : u = s.cur.predWritten fl d values) :
    RegFrame { s with cur := { s.cur with p := u.advance.p } } (s.setCur u.advance) 0 124 0 := by
  have hcur : ({ s.cur with p := u.advance.p } : Team).Undecayed := Team.undecayed_of_nil hshort
  have hnew : u.Undecayed := Team.undecayed_of_nil (by rw [hu]; exact hshort)
  subst hu
  refine ⟨fun l r _ _ => ?vector, fun k _ => ?scalar, rfl,
    ⟨Team.advance_mode _, Team.advance_mask _, Team.advance_stack _, Team.advance_stepctl _⟩,
    ⟨Team.advance_flags _, Team.advance_bindings _⟩, ⟨BitVec.ofNat 5 fl, ?status⟩,
    ⟨Team.advance_faultPc _, Team.advance_faultInfo _, Team.advance_faultMask _, Team.advance_saveMode _, Team.advance_saveMask _⟩,
    Team.advance_place rfl rfl rfl, fun _ => rfl, rfl⟩
  case vector =>
    rw [State.setCur_cur, hnew.advance.vget, hcur.vget, Team.advance_v]
    rfl
  case scalar =>
    rw [State.setCur_cur, Team.sget, Team.advance_s]
    rfl
  case status =>
    rw [State.setCur_cur, Team.advance_tstat]
    refine congrArg (s.cur.tstat ||| ·) (BitVec.eq_of_toNat_eq ?_)
    simp only [BitVec.toNat_ofNat, BitVec.toNat_setWidth]

section
variable {s : State} {i : Instr} {sp : Spec} {uses : Uses} {conds : Team → State → List Cond} {run : State → Res} {d : Code}
  {values : Mask} {f : Nat → Bool} {fl : Nat} (hc : s.computes = true) (he : exec i s = issue sp uses conds run s)
  (hsp : sp.conds s.cur = []) (hconds : conds s.cur s = [])
include hc he hsp hconds

/-- An instruction that writes a predicate of the contributing lanes gives what it wrote in each. -/
theorem predGives_of_run (hrun : run s = .done (s.setCur (s.cur.predWritten fl d values)))
    (hval : ∀ l ∈ s.cur.contribLanes, values.getLsbD l = f l) : PredGives i s d f := by
  obtain ⟨hp, -⟩ := State.computes_parts hc
  obtain ⟨-, -, -, -, -, -, -, -, -, -, hshort, -⟩ := (State.plain_iff s).1 hp
  refine ⟨_, he.trans (issue_done_cur hp hsp hconds hrun), predWritten_regFrame hshort rfl, fun l hl => ?_, fun l n hn => ?_⟩
  · rw [State.setCur_cur, Team.advance_pget, predWritten_pget_self]
    cases hm : s.cur.contrib.getLsbD l
    · simp [Team.takesPart, hm]
    · simpa [Team.takesPart, hm, hl] using hval l ((s.cur.mem_contribLanes l).2 ⟨hl, hm⟩)
  · rw [State.setCur_cur, Team.advance_pget]
    exact Team.pget_pset_of_ne _ _ _ _ hn

/-- The same of predicate logic and votes, which raise no exception. -/
theorem predicate_gives {g : Team → Mask} (hrun : run s = State.predicate g d s)
    (hval : ∀ l ∈ s.cur.contribLanes, (g s.cur).getLsbD l = f l) : PredGives i s d f := by
  refine predGives_of_run (fl := 0) hc he hsp hconds (hrun.trans ?_) hval
  have hnone : s.cur.raiseFlags 0 = s.cur := by simp [Team.raiseFlags]
  rw [Team.predWritten, hnone]
  rfl

end

/-! ## Compares (R103) -/

/-- The relation of a lane's operands, and the exceptions of the compare. -/
def Team.related (t : Team) (r : Rel) (a b : Code) (l : Nat) : Bool × Nat :=
  relType r t.type t.ftz (t.opndN (wide t.type) l a) (t.opndN (wide t.type) l b)

/-- The team after a compare. -/
def Team.compared (t : Team) (r : Rel) (d a b : Code) : Team :=
  t.predWritten (t.contribLanes.foldl (fun f l => f ||| (t.related r a b l).2) 0) d
    (maskOf (t.contribLanes.filter (fun l => (t.related r a b l).1)))

/-- Outside regions, and with nothing enabled, a compare writes its predicate. -/
theorem compare_eq_done {s : State} (hc : s.computes = true) (r : Rel) (rel : Nat) (d a b : Code) :
    State.compare r rel d a b s = .done (s.setCur (s.cur.compared r d a b)) := by
  obtain ⟨hp, -, -, hoff⟩ := State.computes_parts hc
  obtain ⟨-, -, -, -, -, hreg, -⟩ := (State.plain_iff s).1 hp
  simp only [State.compare, hreg, Bool.not_false, if_true, trapping_of_disabled hoff, ne_eq, not_true_eq_false, if_false]
  rfl

/-- A lane's predicate after a compare. -/
theorem compared_pget {t : Team} {l : Nat} (hl : l ∈ t.contribLanes) (r : Rel) (d a b : Code) :
    (t.compared r d a b).pget l d.toNat = (t.related r a b l).1 := by
  have ht := takesPart_iff_mem.2 hl
  rw [Team.compared, predWritten_pget_self, if_pos ht, maskOf_filter_contribLanes_getLsbD, ht, Bool.true_and]

/-- A bit of exceptions collected. -/
theorem testBit_foldl_or (ls : List Nat) (g : Nat → Nat) (x i : Nat) :
    (ls.foldl (fun f l => f ||| g l) x).testBit i = (x.testBit i || ls.any (fun l => (g l).testBit i)) := by
  induction ls generalizing x with
  | nil => simp
  | cons l ls ih => rw [List.foldl_cons, ih, Nat.testBit_or, List.any_cons, Bool.or_assoc]

/-- A compare that raises NV in a lane leaves it set (R58). -/
theorem compared_tstat {t : Team} {l : Nat} (hl : l ∈ t.contribLanes) {r : Rel} {a b : Code} (d : Code)
    (h : (t.related r a b l).2 = fNV) : (t.compared r d a b).tstat.getLsbD 4 = true := by
  have hbit : (t.contribLanes.foldl (fun f l => f ||| (t.related r a b l).2) 0).testBit 4 = true := by
    rw [testBit_foldl_or, Nat.zero_testBit, Bool.false_or, List.any_eq_true]
    exact ⟨l, hl, by rw [h]; rfl⟩
  have hmod (n : Nat) : (n % 32).testBit 4 = n.testBit 4 := Nat.testBit_mod_two_pow n 5 4 |>.trans (by simp)
  simp only [Team.compared, Team.predWritten, Team.pset_tstat, Team.raiseFlags, BitVec.getLsbD_or, BitVec.getLsbD_ofNat, hmod,
    hbit, Bool.and_true, Nat.reduceLT, decide_true, Bool.or_true]

section
variable {s : State} {i : Instr} {ty : Nat → Bool} {r : Rel} {rel : Nat} {wd : Bool} {d a b : Code} (hc : s.computes = true)
  (hd : d.toNat < 8) (hwd : wide s.cur.type = wd) (ha : srcOk s.cur wd a = true) (hb : srcOk s.cur wd b = true)
  (he : exec i s = issueCompare ty d a b (State.compare r rel d a b) s) (hty : ty s.cur.type = true)
include hc hd hwd ha hb he hty

omit hc he in
/-- Legal codes under a legal TYPE are no condition of a compare. -/
theorem okCompare_conds :
    okCond (ty s.cur.type && predOk false d && srcOk s.cur (wide s.cur.type) a && srcOk s.cur (wide s.cur.type) b) = [] := by
  simp [hty, predOk, hd, hwd, ha, hb]

/-- A compare, executed. -/
theorem exec_compare : exec i s = .next (s.setCur (s.cur.compared r d a b).advance) := by
  obtain ⟨hp, -⟩ := State.computes_parts hc
  exact he.trans (issue_done_cur hp rfl (okCompare_conds hd hwd ha hb hty) (compare_eq_done hc ..))

/-- A compare gives the relation of each lane's operands. -/
theorem compare_gives {f : Nat → Bool} (hf : ∀ l, (s.cur.related r a b l).1 = f l) : PredGives i s d f := by
  refine predGives_of_run hc he rfl (okCompare_conds hd hwd ha hb hty) (compare_eq_done hc ..) fun l hl => ?_
  rw [maskOf_filter_contribLanes_getLsbD, takesPart_iff_mem.2 hl, Bool.true_and, hf]

end

/-- The relation of integers of one element is that of their values. -/
theorem related_int {t : Team} {w : Nat} {wd sg : Bool} (hI : IntType t.type w wd sg) (r : Rel) (a b : Code) (l : Nat) :
    (t.related r a b l).1 = relInt r (asInt w sg (t.opndN wd l a)) (asInt w sg (t.opndN wd l b)) := by
  rw [← toInt_eq_asInt hI.pos sg (opndN_lt_int hI ..), ← toInt_eq_asInt hI.pos sg (opndN_lt_int hI ..), Team.related, relType,
    hI.format, hI.width, hI.signed, hI.wide]

/-- Compares of integers. -/
theorem compares_give_int {s : State} {w : Nat} {wd sg : Bool} {d a b : Code} (hI : IntType s.cur.type w wd sg)
    (hc : s.computes = true) (hd : d.toNat < 8) (ha : srcOk s.cur wd a = true) (hb : srcOk s.cur wd b = true) :
    PredGives (.cmpeq d a b) s d (fun l => decide (asInt w sg (s.cur.opndN wd l a) = asInt w sg (s.cur.opndN wd l b))) ∧
    PredGives (.cmpne d a b) s d (fun l => decide (asInt w sg (s.cur.opndN wd l a) ≠ asInt w sg (s.cur.opndN wd l b))) ∧
    PredGives (.cmplt d a b) s d (fun l => decide (asInt w sg (s.cur.opndN wd l a) < asInt w sg (s.cur.opndN wd l b))) ∧
    PredGives (.cmple d a b) s d (fun l => decide (asInt w sg (s.cur.opndN wd l a) ≤ asInt w sg (s.cur.opndN wd l b))) := by
  have hty : decide (s.cur.type ≤ 5) = true := decide_eq_true (hI.le.trans (by decide))
  have hgives {i : Instr} {r : Rel} {rel : Nat} (he : exec i s = issueCompare (fun ty => ty ≤ 5) d a b (State.compare r rel d a b) s) :=
    compare_gives hc hd hI.wide ha hb he hty (related_int hI r a b)
  exact ⟨hgives (r := .eq) rfl, hgives (r := .ne) rfl, hgives (r := .lt) rfl, hgives (r := .le) rfl⟩

/-! ## Compares in binary32 -/

/-- FTZ makes no NaN and takes none away (R55). -/
theorem isNan_input (f : Fmt) (ftz : Bool) (x : Nat) : (f.input ftz x).isNan = (f.unpack x).isNan := by
  rw [Fmt.input]
  cases f.unpack x with
  | fin neg m e => dsimp only; split <;> rfl
  | inf neg => rfl
  | nan signalling => rfl

/-- A binary32 code beyond infinity is a NaN (R43). -/
theorem isNan_unpack_binary32 (x : Nat) : (binary32.unpack x).isNan = decide (0x7F800000 < x % 2 ^ 31) := by
  simp only [Fmt.unpack, show binary32.signBit = 2 ^ 31 from rfl, show binary32.maxCode = 0x7F7FFFFF from rfl,
    show binary32.infCode = 0x7F800000 from rfl, show binary32.hasInf = true from rfl, Bool.true_and, beq_iff_eq]
  split
  · split
    · exact (decide_eq_false (by omega)).symm
    · exact (decide_eq_true (by omega)).symm
  · split <;> exact (decide_eq_false (by omega)).symm

/-- The greatest exponent with a fraction. -/
theorem isNan_binary32 (ftz : Bool) (x : Word) : (binary32.input ftz x.toNat).isNan = nan32 x := by
  have hx := binary32_fields x
  have hsign := (x.extractLsb' 31 1).isLt
  have hexp := (x.extractLsb' 23 8).isLt
  have hfrac := (x.extractLsb' 0 23).isLt
  have hbeyond : 0x7F800000 < x.toNat % 2 ^ 31 ↔
      (x.extractLsb' 23 8).toNat = (255 : BitVec 8).toNat ∧ (x.extractLsb' 0 23).toNat ≠ (0 : BitVec 23).toNat := by
    rw [show (255 : BitVec 8).toNat = 255 from rfl, show (0 : BitVec 23).toNat = 0 from rfl]
    omega
  simp only [isNan_input, isNan_unpack_binary32, hbeyond, nan32, ne_eq, BitVec.toNat_inj, Bool.decide_and]

/-- A lane where an operand is a binary32 NaN. -/
def Team.nanLane (t : Team) (a b : Code) (l : Nat) : Bool := nan32 (t.opnd32 l a) || nan32 (t.opnd32 l b)

section
variable {t : Team} (hty : t.type = 4)
include hty

/-- A compare in binary32. -/
theorem related_binary32 (r : Rel) (a b : Code) (l : Nat) : t.related r a b l =
    relNum r (binary32.input t.ftz (t.opnd32 l a).toNat) (binary32.input t.ftz (t.opnd32 l b).toNat) := by
  rw [Team.related, hty]
  rfl

/-- With a NaN only CMPNE and CMPUN are true, and CMPLT and CMPLE are invalid. -/
theorem related_of_nan {a b : Code} {l : Nat} (h : t.nanLane a b l = true) (r : Rel) :
    (t.related r a b l).1 = (r == .ne || r == .un) ∧ ((r == .lt || r == .le) = true → (t.related r a b l).2 = fNV) := by
  simp only [related_binary32 hty, relNum, isNan_binary32]
  have hnan : (nan32 (t.opnd32 l a) || nan32 (t.opnd32 l b)) = true := h
  rw [if_pos hnan]
  exact ⟨rfl, fun hr => if_pos hr⟩

/-- CMPUN is true exactly there. -/
theorem related_un (a b : Code) (l : Nat) : (t.related .un a b l).1 = t.nanLane a b l := by
  cases h : t.nanLane a b l
  · simp only [related_binary32 hty, relNum, isNan_binary32]
    exact congrArg Prod.fst (if_neg (by simpa only [Team.nanLane, Bool.not_eq_true] using h))
  · exact (related_of_nan hty h .un).1

end

/-- Where an operand is a NaN, CMPEQ, CMPLT and CMPLE are false and CMPNE is true, and CMPLT and CMPLE set NV. -/
theorem compares_of_nan {s : State} {d a b : Code} {l : Nat} (hty : s.cur.type = 4) (hc : s.computes = true) (hd : d.toNat < 8)
    (ha : srcOk s.cur false a = true) (hb : srcOk s.cur false b = true) (hl : l ∈ s.cur.contribLanes)
    (hnan : s.cur.nanLane a b l = true) :
    ∃ e n lt le, exec (.cmpeq d a b) s = .next e ∧ exec (.cmpne d a b) s = .next n ∧ exec (.cmplt d a b) s = .next lt ∧
      exec (.cmple d a b) s = .next le ∧ e.cur.pget l d.toNat = false ∧ n.cur.pget l d.toNat = true ∧
      lt.cur.pget l d.toNat = false ∧ le.cur.pget l d.toNat = false ∧ lt.cur.tstat.getLsbD 4 = true ∧
      le.cur.tstat.getLsbD 4 = true := by
  have hrel (r : Rel) := related_of_nan hty hnan r
  have hexec {i : Instr} {r : Rel} {rel : Nat}
      (he : exec i s = issueCompare (fun ty => ty ≤ 5) d a b (State.compare r rel d a b) s) :=
    exec_compare hc hd (show wide s.cur.type = false by rw [hty]; rfl) ha hb he (by rw [hty]; rfl)
  have hval (r : Rel) : (s.setCur (s.cur.compared r d a b).advance).cur.pget l d.toNat = (r == .ne || r == .un) := by
    rw [State.setCur_cur, Team.advance_pget, compared_pget hl, (hrel r).1]
  have hinvalid (r : Rel) (hr : (r == .lt || r == .le) = true) :
      (s.setCur (s.cur.compared r d a b).advance).cur.tstat.getLsbD 4 = true := by
    rw [State.setCur_cur, Team.advance_tstat, compared_tstat hl d ((hrel r).2 hr)]
  exact ⟨_, _, _, _, hexec (r := .eq) rfl, hexec (r := .ne) rfl, hexec (r := .lt) rfl, hexec (r := .le) rfl, hval .eq, hval .ne,
    hval .lt, hval .le, hinvalid .lt rfl, hinvalid .le rfl⟩

/-! ## Predicate logic (R104) -/

/-- A lane's own value of a predicate source, inverted for codes from 8 on (R16). -/
def Team.predAt (t : Team) (c : Code) (l : Nat) : Bool := if c.toNat < 8 then t.pget l c.toNat else !t.pget l (c.toNat - 8)

/-- The source's mask holds it. -/
theorem predMask_getLsbD (t : Team) (c : Code) {l : Nat} (hl : l < 1024) : (t.predMask c).getLsbD l = t.predAt c l := by
  unfold Team.predMask Team.predAt
  split
  · rfl
  · simp [hl, Team.pget]

/-- A contributing lane is one of a mask's. -/
theorem lt_of_mem_contribLanes {t : Team} {l : Nat} (h : l ∈ t.contribLanes) : l < 1024 :=
  BitVec.lt_of_getLsbD ((t.mem_contribLanes l).1 h).2

section
variable {s : State} {d a b : Code} (hc : s.computes = true) (hd : d.toNat < 8) (ha : predOk true a = true)
include hc hd ha

omit hc in
/-- Legal codes are no condition of a vote or of PNOT. -/
theorem okVote_conds : okCond (predOk false d && predOk true a) = [] := by
  rw [show predOk false d = true by simp [predOk, hd], ha]
  rfl

/-- PNOT. -/
theorem pnot_gives : PredGives (.pnot d a) s d (fun l => !s.cur.predAt a l) := by
  refine predicate_gives hc rfl rfl (okVote_conds hd ha) rfl fun l hl => ?_
  rw [BitVec.getLsbD_not, predMask_getLsbD _ _ (lt_of_mem_contribLanes hl)]
  simp [lt_of_mem_contribLanes hl]

/-- PAND, POR and PXOR. -/
theorem logic_of_predicates_gives (hb : predOk true b = true) :
    PredGives (.pand d a b) s d (fun l => s.cur.predAt a l && s.cur.predAt b l) ∧
    PredGives (.por d a b) s d (fun l => s.cur.predAt a l || s.cur.predAt b l) ∧
    PredGives (.pxor d a b) s d (fun l => s.cur.predAt a l ^^ s.cur.predAt b l) := by
  have hconds : okCond (predOk false d && predOk true a && predOk true b) = [] := by
    rw [show predOk false d = true by simp [predOk, hd], ha, hb]
    rfl
  have hmask (c : Code) (l : Nat) (hl : l ∈ s.cur.contribLanes) := predMask_getLsbD s.cur c (lt_of_mem_contribLanes hl)
  refine ⟨?_, ?_, ?_⟩ <;> refine predicate_gives hc rfl rfl hconds rfl fun l hl => ?_
  · rw [BitVec.getLsbD_and, hmask a l hl, hmask b l hl]
  · rw [BitVec.getLsbD_or, hmask a l hl, hmask b l hl]
  · rw [BitVec.getLsbD_xor, hmask a l hl, hmask b l hl]

/-! ## Votes (R105) -/

/-- VANY. -/
theorem vany_gives {any : Bool} (hany : any = true ↔ ∃ l ∈ s.cur.contribLanes, s.cur.predAt a l = true) :
    PredGives (.vany d a) s d (fun _ => any) := by
  refine predicate_gives hc rfl rfl (okVote_conds hd ha) rfl fun l hl => ?_
  have hnone : maskOf s.cur.contribLanes &&& s.cur.predMask a = 0 ↔ ¬ any = true := by
    rw [contribLanes_and_eq_zero, hany]
    simp only [not_exists, not_and, Bool.not_eq_true]
    exact forall₂_congr fun k hk => by rw [predMask_getLsbD _ _ (lt_of_mem_contribLanes hk)]
  rw [if_congr hnone rfl rfl]
  cases any
  · rw [if_pos (by simp), BitVec.ofNat_eq_ofNat, BitVec.getLsbD_zero]
  · rw [if_neg (by simp), BitVec.getLsbD_allOnes, decide_eq_true (lt_of_mem_contribLanes hl)]

/-- VALL. -/
theorem vall_gives {all : Bool} (hall : all = true ↔ ∀ l ∈ s.cur.contribLanes, s.cur.predAt a l = true) :
    PredGives (.vall d a) s d (fun _ => all) := by
  refine predicate_gives hc rfl rfl (okVote_conds hd ha) rfl fun l hl => ?_
  have hnone : maskOf s.cur.contribLanes &&& ~~~ s.cur.predMask a = 0 ↔ all = true := by
    rw [contribLanes_and_eq_zero, hall]
    refine forall₂_congr fun k hk => ?_
    rw [BitVec.getLsbD_not, predMask_getLsbD _ _ (lt_of_mem_contribLanes hk)]
    simp [lt_of_mem_contribLanes hk]
  rw [if_congr hnone rfl rfl]
  cases all
  · rw [if_neg (by simp), BitVec.ofNat_eq_ofNat, BitVec.getLsbD_zero]
  · rw [if_pos rfl, BitVec.getLsbD_allOnes, decide_eq_true (lt_of_mem_contribLanes hl)]

end

/-- Numbers written to the destination of the contributing lanes are what an instruction gives. -/
theorem gives_of_writeDest {s : State} {i : Instr} {sp : Spec} {uses : Uses} {conds : Team → State → List Cond} {run : State → Res}
    {wd : Bool} {d : Code} {f : Nat → Nat} (hc : s.computes = true) (he : exec i s = issue sp uses conds run s)
    (hsp : sp.conds s.cur = []) (hconds : conds s.cur s = []) (hd : dstOk s.cur wd d = true)
    (hrun : run s = s.writeDest wd d ((s.cur.evalLanes d).map (fun l => (l, wordsOf (regs wd) (f l)))))
    (hlt : ∀ l, f l < 2 ^ destWidth wd) : Gives i s wd d f := by
  obtain ⟨hp, hb, -⟩ := State.computes_parts hc
  obtain ⟨-, -, -, -, -, hreg, -, -, -, -, hshort, -⟩ := (State.plain_iff s).1 hp
  have hu := Team.undecayed_of_nil hshort
  have hsame : s.cur.raised s.cur.gen 0 = s.cur := by simp [Team.raised]
  obtain ⟨u, hw, hdel⟩ := writeDest_delivered (m := s.cur.contrib) (f := f) (also := fun t _ => t) hb hd rfl hreg rfl hu
  obtain ⟨hvec, hsca⟩ := hdel.reads hd
  simp only [Nat.mod_eq_of_lt (hlt _)] at hvec hsca
  rw [← hsame] at hdel
  exact ⟨_, he.trans (issue_done_cur hp hsp hconds (hrun.trans hw)),
    ⟨fun hv l hl hm => hvec hv l (mem_lanesOf.2 ⟨hl, hm⟩), fun hs l hl => hsca hs l hl l⟩, hdel.regFrame hu⟩

/-- The word of the vote that a lane asks for. -/
def Team.ballotWord (t : Team) (a b : Code) (l : Nat) : Word :=
  if (t.opnd32 l b).toNat < 32 then maskWord (maskOf t.contribLanes &&& t.predMask a) (t.opnd32 l b).toNat else 0

/-- Its bits are lanes. -/
theorem ballotWord_getLsbD (t : Team) (a b : Code) (l k : Nat) : (t.ballotWord a b l).getLsbD k = true ↔
    k < 32 ∧ (t.opnd32 l b).toNat < 32 ∧ 32 * (t.opnd32 l b).toNat + k ∈ t.contribLanes ∧
      t.predAt a (32 * (t.opnd32 l b).toNat + k) = true := by
  unfold Team.ballotWord
  split
  next hw =>
    simp only [maskWord, BitVec.getLsbD_extractLsb', BitVec.getLsbD_and, maskOf_contribLanes_getLsbD, Bool.and_eq_true, decide_eq_true_eq,
      takesPart_iff_mem, hw, true_and]
    refine and_congr_right fun _ => and_congr_right fun hm => ?_
    rw [predMask_getLsbD _ _ (lt_of_mem_contribLanes hm)]
  next hw => simp [hw]

/-- BALLOT gives the number of these bits. -/
theorem ballot_gives {s : State} {d a b : Code} {f : Nat → Nat} (hc : s.computes = true) (hd : dstOk s.cur false d = true)
    (ha : predOk true a = true) (hb : srcOk s.cur false b = true)
    (hf : ∀ l k, (f l).testBit k = true ↔ k < 32 ∧ (s.cur.opnd32 l b).toNat < 32 ∧
      32 * (s.cur.opnd32 l b).toNat + k ∈ s.cur.contribLanes ∧ s.cur.predAt a (32 * (s.cur.opnd32 l b).toNat + k) = true) :
    Gives (.ballot d a b) s false d f := by
  have hword (l : Nat) : f l = (s.cur.ballotWord a b l).toNat := by
    refine Nat.eq_of_testBit_eq fun k => ?_
    rw [Bool.eq_iff_iff, hf, BitVec.testBit_toNat, ballotWord_getLsbD]
  refine gives_of_writeDest hc rfl rfl (by simp [hd, ha, hb]) hd ?_ fun l => hword l ▸ BitVec.isLt _
  simp only [hword, regs, Bool.false_eq_true, if_false, wordsOf_one, BitVec.ofNat_toNat, BitVec.setWidth_eq]
  rfl

/-- Settles O21: the relations of a lane's operands, and the masks of predicates over the contributing lanes. -/
theorem predicatesAreWrittenAndCounted : Obligations.PredicatesAreWrittenAndCounted := by
  unfold Obligations.PredicatesAreWrittenAndCounted
  refine ⟨fun s d a b hc hd => ⟨fun hty ha hb => compares_give_int (intType_of_le hty) hc hd ha hb, fun hty ha hb => ⟨?un, ?nan⟩⟩,
    fun s d a b hc ha => ⟨fun hd hb => ?logic, fun hd any all hany hall => ?votes, fun hd hb f hf => ?ballot⟩⟩
  case un =>
    exact compare_gives hc hd (by rw [hty]; rfl) ha hb (ty := fun ty => ty == 4 || ty == 5) rfl (by rw [hty]; rfl)
      (related_un hty a b)
  case nan =>
    exact fun l hl hm hnan => compares_of_nan hty hc hd ha hb ((s.cur.mem_contribLanes l).2 ⟨hl, hm⟩) hnan
  case logic =>
    obtain ⟨hand, hor, hxor⟩ := logic_of_predicates_gives hc hd ha hb
    exact ⟨hand, hor, hxor, pnot_gives hc hd ha⟩
  case votes =>
    refine ⟨vany_gives hc hd ha (hany.trans ?_), vall_gives hc hd ha (hall.trans ?_)⟩
    · refine exists_congr fun l => ?_
      rw [s.cur.mem_contribLanes]
      exact ⟨fun ⟨_, hl, hq⟩ => ⟨hl, hq⟩, fun ⟨hl, hq⟩ => ⟨BitVec.lt_of_getLsbD hl.2, hl, hq⟩⟩
    · refine forall_congr' fun l => ?_
      rw [s.cur.mem_contribLanes]
      exact ⟨fun h hl => h (BitVec.lt_of_getLsbD hl.2) hl, fun h _ hl => h hl⟩
  case ballot =>
    refine ballot_gives hc hd ha hb fun l k => ?_
    rw [s.cur.mem_contribLanes]
    exact hf l k

end Sys2Proof.Machine
end

section
/-! SUPPORT. HCALL: the request, the wait, and the status that comes back (R127, R128). -/

namespace Sys2Proof.Machine

/-- A team that waits, and is plain but for that, executes the body of its instruction anew. -/
theorem issue_waiting {sp : Spec} {u : Uses} {conds : Team → State → List Cond} {run : State → Res} {s : State}
    (h : s.unpark.plain = true) (hw : s.cur.park ≠ .running) (hs : sp.conds s.cur = []) (hc : conds s.cur s = []) :
    issue sp u conds run s = .next (State.conclude s.cur 0 none (run s)) := by
  obtain ⟨hissuer, hlive, -, hservice, -, hregion, hstep, -, -, hfocus, hshort, hpoison, -, hhaz, hexp⟩ := (State.plain_iff _).1 h
  change s.issuer = .team at hissuer
  change s.cur.live = true at hlive
  change s.cur.service = none at hservice
  change s.cur.inRegion = false at hregion
  change s.cur.stepping = false at hstep
  change s.cur.focusRest = none at hfocus
  change s.cur.shortLived = [] at hshort
  change s.cur.poison = [] at hpoison
  change s.curCtx.hazchk.getLsbD 0 = false at hhaz
  change s.curCtx.hazchk.getLsbD 1 = false at hexp
  have hcheck : s.cur.dueCheck = none := by simp [Team.dueCheck, hw]
  have hhazard : s.hazardConds sp u = [] := by simp only [State.hazardConds, hhaz, Bool.false_eq_true, if_false]
  have hexpired : s.expiredConds sp u = [] := by simp only [State.expiredConds, hexp, Bool.false_eq_true, if_false]
  have hlanes : s.expiredLanes sp u = [] := by simp [State.expiredLanes, hshort]
  have hbad : s.poisonLanes sp u = [] := by simp [State.poisonLanes, hpoison]
  have hstop : sp.focusStop s.cur = false := by simp [Spec.focusStop, Team.stepsNow, hstep]
  have hrun : withTags sp u run s = run s := by simp [withTags, hregion]
  simp [issue, hissuer, hlive, State.issueTeam, hservice, hcheck, State.execute, hs, hc, hhazard, hexpired, hlanes, hbad, hstop, hrun,
    hregion, hfocus, maskOf]

/-- A team that goes on from a wait runs. -/
theorem Team.advance_park (t : Team) : t.advance.park = .running := by
  obtain ⟨_, _, _, _, _, h⟩ := t.advance_eq
  rw [h]

/-- A scalar destination takes the status; z discards it. -/
theorem sset_destination {t : Team} {d : Code} {st : Word} (hd : isS d = true) :
    (t.sset (sNum d) st).sget (sNum d) = st ∧ ∀ k, isS d = false ∨ k ≠ sNum d → (t.sset (sNum d) st).sget k = t.sget k := by
  refine ⟨Team.sget_sset_self .., fun k hk => Team.sget_sset_of_ne _ _ ?_⟩
  simpa [hd] using hk

/-- Settles O17: the body parks on the request, and executes anew when the status has come. -/
theorem hcallParksAndReturns : Obligations.HcallParksAndReturns := by
  unfold Obligations.HcallParksAndReturns
  intro s d a b hd ha hb hsvc
  have hsmall : s.cur.ctrlIndex a < 0x100 := hsvc
  have hcodes : okCond (szOk false d && kRun s.cur 1 1 a && sbaseOk s.cur true b && decide (s.cur.ctrlIndex a ≤ 0xFFFF)) = [] := by
    simp only [hd, ha, hb, decide_eq_true (show s.cur.ctrlIndex a ≤ 0xFFFF by omega), Bool.and_self, okCond_true]
  refine ⟨fun hp hdone => ?_, fun st n hpark hp => ?_⟩
  · obtain ⟨-, -, -, -, hrun, -⟩ := (State.plain_iff s).1 hp
    refine (issue_plain hp (Spec.conds_free rfl rfl) hcodes).trans ?_
    simp only [hrun, State.released, hdone, if_true, unpark_of_running hrun, hsmall, State.parkOn]
    rw [conclude_stay]
    · rfl
    · rfl
  · have hwait : s.cur.park ≠ .running := by rw [hpark]; simp
    have hstep : s.cur.stepping = false := by
      obtain ⟨-, -, -, -, -, -, h, -⟩ := (State.plain_iff _).1 hp
      exact h
    refine ⟨_, issue_waiting hp hwait (Spec.conds_free rfl rfl) hcodes, ?_⟩
    simp only [hpark, conclude_done hstep]
    cases hs : isS d with
    | false =>
      obtain ⟨hpc, -⟩ := Team.advance_place (t := s.cur) (u := { s.cur with park := .running }) rfl rfl rfl
      simp [State.unpark, hpc, Team.sget, Team.advance_park]
    | true =>
      obtain ⟨hself, hother⟩ := sset_destination (t := { s.cur with park := .running }) (st := st) hs
      obtain ⟨hpc, -⟩ := Team.advance_place (t := s.cur) (u := ({ s.cur with park := .running } : Team).sset (sNum d) st) rfl rfl rfl
      simp only [Team.sget] at hself hother ⊢
      simp only [State.unpark, if_true, State.setCur_cur, State.setCur_mem, Team.advance_park, Team.advance_s, Team.advance_v,
        Team.advance_p, hpc, true_and, true_implies, hself]
      exact ⟨fun k hk => hother k (by simpa [hs] using hk), rfl, rfl, trivial⟩

end Sys2Proof.Machine
end

section
/-! SUPPORT. What leaves the store path: bytes and reductions performed in a line that the core owns, a line asked for, a hold
that ends (R137, R146, R150, R155, R192). -/

namespace Sys2Proof.Machine

/-! ## Bytes -/

/-- A byte after cells are written: the last of the cells at its place, else what it was. -/
theorem cellAt_writeCells (m cs : List Host.Cell) (a : Nat) : cellAt (writeCells m cs) a = (coverByte cs a).getD (cellAt m a) := by
  unfold writeCells coverByte
  rw [← List.reverse_reverse cs]
  induction cs.reverse with
  | nil => rfl
  | cons c cs ih =>
    simp only [List.reverse_cons, List.foldl_append, List.foldl_cons, List.foldl_nil]
    split
    next h =>
      subst h
      exact tget_tset_self _ _ _ _
    next h => exact (tget_tset_of_ne _ _ _ (Ne.symm h)).trans ih

/-! ## Steps that leave the path alone (R136, R155) -/

/-- Strong accesses noted. -/
theorem noteStrong_path (s : State) (team loc size : Nat) : (s.noteStrong team loc size).path = s.path := by
  unfold State.noteStrong
  dsimp only
  split
  · rfl
  · split <;> rfl

/-- The strong accesses of an entry noted: the path, memory and where bytes stand are as before. -/
theorem noteAll_facts (s : State) (xs : List (Nat × Nat × Nat)) : (s.noteAll xs).path = s.path ∧ (s.noteAll xs).mem = s.mem ∧
    ∀ a, (s.noteAll xs).storePlace a = s.storePlace a := by
  unfold State.noteAll
  induction xs generalizing s with
  | nil => exact ⟨rfl, rfl, fun _ => rfl⟩
  | cons x xs ih =>
    obtain ⟨hpath, hmem, hplace⟩ := ih (s.noteStrong x.1 x.2.1 x.2.2)
    obtain ⟨-, hmem', hplace'⟩ := noteStrong_facts s x.1 x.2.1 x.2.2
    exact ⟨hpath.trans (noteStrong_path ..), hmem.trans hmem', fun a => (hplace a).trans (hplace' a)⟩

/-- A read-modify-write of hardware-coherent memory. -/
theorem updateAt_path (s : State) (core team loc size : Nat) (own : Option Nat) (f : Nat → Nat) :
    (s.updateAt core team .hardware loc size own f).1.path = s.path := by
  simp only [State.updateAt, reduceCtorEq, decide_false, Bool.false_eq_true, if_false]
  cases own <;> dsimp only <;> split <;> rfl

/-- The bytes of an integer hold its values. -/
theorem pow_size_eq {r : Reduction} (hn : r.size = if 2 ≤ r.type then 8 else 4) : 256 ^ r.size = 2 ^ intWidth r.type := by
  rw [hn, intWidth]
  split <;> rfl

/-! ## An entry performed (R137, R155, R192) -/

section
variable {s : State} {e : StoreEntry} {skip : List Nat} (hx : s.xfers = []) (hs : e.space = .hardware)
include hx hs

/-- Bytes are written where they stand. -/
theorem performEntry_bytes (hr : e.red = none) (hc : ∀ c ∈ e.cells, s.storePlace c.1 = c.1) :
    (s.performEntry e skip).path = s.path ∧ (s.performEntry e skip).mem = writeCells s.mem e.cells := by
  obtain ⟨hpath, hmem, hplace⟩ := noteAll_facts s e.strong
  have hperform : s.performEntry e skip = (s.noteAll e.strong).perform e.cells e.tag.team e.tag.own skip := by
    simp only [State.performEntry, State.recallCopies, hx, if_true, hr, hs, reduceCtorEq, decide_false, Bool.false_eq_true, if_false]
    cases e.cells <;> rfl
  rw [hperform, perform_path, perform_mem fun c h => (hplace c.1).trans (hc c h), hmem]
  exact ⟨hpath, rfl⟩

/-- A reduction on integers is read, combined and written as one. -/
theorem performEntry_reduces {r : Reduction} (hr : e.red = some r) (ht : r.type ≤ 3) (hn : r.size = if 2 ≤ r.type then 8 else 4)
    (hc : ∀ j, j < r.size → s.storePlace (e.loc + j) = e.loc + j) :
    (s.performEntry e skip).path = s.path ∧ (s.performEntry e skip).mem = writeCells s.mem
      (cellsFrom e.loc (leBytes r.size (rmwValue r.op r.type (cellNat s.mem e.loc r.size) r.operand.toNat 0))) := by
  obtain ⟨hpath, hmem, hplace⟩ := noteAll_facts s e.strong
  have hperform : s.performEntry e skip = ((s.noteAll e.strong).updateAt e.core e.tag.team .hardware e.loc r.size e.tag.own
      (fun old => atomicNew r.op r.type old r.operand.toNat 0)).1 := by
    simp only [State.performEntry, State.recallCopies, hx, if_true, hr, hs]
  obtain ⟨-, -, hwrite⟩ := updateAt_hardware (s := s.noteAll e.strong) (core := e.core) (team := e.tag.team) (own := e.tag.own)
    (f := fun old => atomicNew r.op r.type old r.operand.toNat 0) fun i hi => (hplace _).trans (hc i hi)
  have hold : cellNat s.mem e.loc r.size < 2 ^ intWidth r.type := by
    have h := cellNat_lt s.mem e.loc r.size
    rwa [pow_size_eq hn] at h
  rw [hperform, updateAt_path, hwrite, hmem, atomicNew_eq ht hold]
  exact ⟨hpath, rfl⟩

end

/-- A reduction's value is read back from its bytes. -/
theorem cellNat_reduced {m : List Host.Cell} {loc : Nat} {r : Reduction} (hn : r.size = if 2 ≤ r.type then 8 else 4) :
    cellNat (writeCells m (cellsFrom loc (leBytes r.size (rmwValue r.op r.type (cellNat m loc r.size) r.operand.toNat 0)))) loc r.size =
      rmwValue r.op r.type (cellNat m loc r.size) r.operand.toNat 0 := by
  have hold := cellNat_lt m loc r.size
  rw [pow_size_eq hn] at hold
  rw [cellNat_writeCells, pow_size_eq hn]
  exact Nat.mod_eq_of_lt (rmwValue_lt hold _ _ _)

/-! ## The step (R192) -/

section
variable {s : State} {e : StoreEntry} (he : s.path[s.sel]? = some e)
include he

/-- An entry that is held stays till what holds it is complete. -/
theorem exec_drain_held (hh : e.hold ≠ []) :
    exec .storePathDrain s = .next (if s.holdsMet e then s.unholdEntry s.sel e else s) := by
  change execStorePathDrain s = _
  simp only [execStorePathDrain, he, if_pos hh]

/-- An entry for hardware-coherent memory that nothing keeps back: performed in a line that its core owns, which is asked for else. -/
theorem exec_drain_hardware (hh : e.hold = []) (hb : s.pathBlocked e = false) (hs : e.space = .hardware) (hc : s.coreOn e.core = true) :
    exec .storePathDrain s = .next (if s.owns e.core (lineOf e.loc) then (s.performNow e).dirtyLine e.core (lineOf e.loc)
      else s.askExclusive e.core (lineOf e.loc)) := by
  have hcoh : s.coherent .hardware e.loc = true := rfl
  change execStorePathDrain s = _
  simp [execStorePathDrain, he, hh, hb, State.drainEntry, hs, hcoh, State.drainCoherent, hc]

end

/-- What held an entry is complete: the hold is gone, and memory is as before. -/
theorem unholdEntry_facts (s : State) (i : Nat) (e : StoreEntry) :
    (s.unholdEntry i e).path = s.path.set i { e with hold := [] } ∧ (s.unholdEntry i e).mem = s.mem := by
  unfold State.unholdEntry
  dsimp only
  split
  · exact ⟨rfl, rfl⟩
  · obtain ⟨hmem, hpath⟩ := reachCore_frame { s with path := s.path.set i { e with hold := [] } } e.core e.cells e.tag.team e.tag.own
      (fun t => decide (t.uid ≠ e.tag.team))
    exact ⟨hpath, hmem⟩

/-- A line is asked for once, shared copies by an upgrade (R340). -/
theorem askExclusive_facts (s : State) (agent line : Nat) : (s.askExclusive agent line).path = s.path ∧
    (s.askExclusive agent line).mem = s.mem ∧
    (s.askExclusive agent line).coh.reqs = (if s.asking agent line [.getM, .upgrade] then s.coh.reqs else s.coh.reqs ++
      [⟨if (s.copyAt agent line).map Copy.st = some .s then .upgrade else .getM, agent, line, [], [], none⟩]) := by
  have hkind : s.writeReq agent line = if (s.copyAt agent line).map Copy.st = some .s then .upgrade else .getM := by
    unfold State.writeReq
    cases s.copyAt agent line <;> simp
  unfold State.askExclusive
  split
  · exact ⟨rfl, rfl, rfl⟩
  · rw [← hkind]
    exact ⟨rfl, rfl, rfl⟩

/-- Settles O37: a hold ends or stays; an entry that is free is performed in a line that its core owns, which is asked for else. -/
theorem storePathDrains : Obligations.StorePathDrains := by
  unfold Obligations.StorePathDrains
  intro s e he
  refine ⟨fun hh => ⟨fun hm => ?_, fun hm => ?_⟩, fun hh hb hx hs hc => ⟨fun ho => ?_, fun hr ho hplace => ?_,
    fun r hr ht hn hplace ho => ?_⟩⟩
  · rw [exec_drain_held he hh, hm]
    rfl
  · exact ⟨_, by rw [exec_drain_held he hh, if_pos hm], unholdEntry_facts s s.sel e⟩
  · obtain ⟨hpath, hmem, hreqs⟩ := askExclusive_facts s e.core (lineOf e.loc)
    exact ⟨_, by rw [exec_drain_hardware he hh hb hs hc, ho]; rfl, hpath, hmem, hreqs⟩
  · obtain ⟨hpath, hmem⟩ := performEntry_bytes (skip := [e.core]) hx hs hr hplace
    refine ⟨_, by rw [exec_drain_hardware he hh hb hs hc, if_pos ho], congrArg (List.erase · e) hpath, fun a => ?_⟩
    exact (congrArg (cellAt · a) hmem).trans (cellAt_writeCells ..)
  · obtain ⟨hpath, hmem⟩ := performEntry_reduces (skip := [e.core]) hx hs hr ht hn hplace
    refine ⟨_, by rw [exec_drain_hardware he hh hb hs hc, if_pos ho], congrArg (List.erase · e) hpath, ?_, fun a ha => ?_⟩
    · exact (congrArg (cellNat · e.loc r.size) hmem).trans (cellNat_reduced hn)
    · exact (congrArg (cellAt · a) hmem).trans (cellAt_writeCells_outside _ _ _ _ (by rwa [leBytes_length]))

end Sys2Proof.Machine
end

section
/-! SUPPORT. Refresh, errors, and the answers of host and translation service (R127, R189, R198, R361, R363, R411). -/

namespace Sys2Proof.Machine

/-! ## Units (R189, R198) -/

/-- A state that differs in what coherence keeps. -/
def CohOnly (s t : State) : Prop := ∃ coh, t = { s with coh := coh }

theorem CohOnly.refl (s : State) : CohOnly s s := ⟨_, rfl⟩

theorem CohOnly.trans {s t u : State} (h : CohOnly s t) (k : CohOnly t u) : CohOnly s u := by
  obtain ⟨_, rfl⟩ := h
  obtain ⟨_, rfl⟩ := k
  exact ⟨_, rfl⟩

theorem CohOnly.foldl {α : Type} {f : State → α → State} (hf : ∀ s x, CohOnly s (f s x)) (xs : List α) (s : State) :
    CohOnly s (xs.foldl f s) := by
  induction xs generalizing s with
  | nil => exact .refl s
  | cons x xs ih => exact (hf s x).trans (ih _)

/-- An agent that is lost. -/
theorem cohOnly_dropAgent (s : State) (a : Nat) : CohOnly s (s.dropAgent a) := by
  unfold State.dropAgent
  exact CohOnly.trans ⟨_, rfl⟩ (.foldl (fun _ _ => ⟨_, rfl⟩) _ _)

/-- A line is asked for. -/
theorem cohOnly_askShared (s : State) (core line : Nat) : CohOnly s (s.askShared core line) := by
  unfold State.askShared
  split
  · exact .refl s
  · exact ⟨_, rfl⟩

/-- A binding's line is asked for. -/
theorem cohOnly_holdBound (s : State) (core : Nat) (space : Space) (loc : Nat) (spilled : Bool) :
    CohOnly s (s.holdBound core space loc spilled) := by
  unfold State.holdBound
  dsimp only
  split
  · exact .refl s
  · split
    · split
      · exact cohOnly_askShared ..
      · exact .refl s
    · split
      · exact .refl s
      · exact ⟨_, rfl⟩

/-- REFRESH_STEAL of an enabled core's bank goes on to the next row (R189). -/
theorem exec_refreshSteal {s : State} {core bank : Nat} (hc : s.coreOn core = true) (hb : bank < 16) :
    ∃ u n, exec (.refreshSteal core bank) s = .next u ∧
      tget 0 (u.core core).refreshRow bank = (tget 0 (s.core core).refreshRow bank + 1) % 1024 ∧
      tget 0 (u.core core).errors 0 = tget 0 (s.core core).errors 0 + n ∧ u.cur = s.cur ∧ u.others = s.others ∧ u.mem = s.mem := by
  have hgo : ¬ (!s.coreOn core || decide (16 ≤ bank)) = true := by simp [hc, hb]
  let c := { s.core core with refreshRow := tset 0 (s.core core).refreshRow bank ((tget 0 (s.core core).refreshRow bank + 1) % 1024) }
  have hcore : (((s.setCore core c).countErrors core 0 (Config.corrected s.fresh)).draw).core core =
      { c with errors := tset 0 c.errors 0 (tget 0 c.errors 0 + Config.corrected s.fresh) } := by
    simp only [State.countErrors, State.setCore_core_self]
    exact State.setCore_core_self ..
  refine ⟨_, Config.corrected s.fresh, congrArg Host.Outcome.next (if_neg hgo), ?_, ?_, rfl, rfl, rfl⟩
  · exact (congrArg (fun c => tget 0 c.refreshRow bank) hcore).trans (tget_tset_self _ _ _ _)
  · exact (congrArg (fun c => tget 0 c.errors 0) hcore).trans (tget_tset_self _ _ _ _)

/-- A poisoned register of a team (R198). -/
theorem exec_machineError_register {s : State} {t : Team} {lane reg : Nat} (ht : s.team? t.uid = some t) (hl : lane < t.size)
    (hr : reg < t.allot) : ∃ u t', exec (.machineError (.register t.uid lane reg)) s = .next u ∧ u.team? t.uid = some t' ∧
      vkey lane reg ∈ t'.poison ∧ t'.v = t.v ∧ u.mem = s.mem := by
  refine ⟨_, _, rfl, team?_modTeam (fun t => ?_) ht, ?_⟩
  · split <;> exact ⟨rfl, rfl⟩
  · rw [if_pos ⟨hl, hr⟩]
    exact ⟨List.mem_eraseDups.2 (by simp), rfl, rfl⟩

/-- Poisoned bytes of core store (R198). -/
theorem exec_machineError_coreStore {s : State} {loc : Nat} (hk : locKind loc = 1) :
    ∃ u, exec (.machineError (.coreStore loc)) s = .next u ∧ loc / 8 ∈ u.poison ∧ u.mem = s.mem ∧ u.cur = s.cur := by
  refine ⟨_, congrArg Host.Outcome.next (if_pos (.inl hk)), ?_, rfl, rfl⟩
  exact List.mem_eraseDups.2 (by simp [granuleOf])

/-- Which cores are present, after one is taken out (R198). -/
theorem getLsbD_without (x : BitVec 192) (core : Nat) : (x &&& ~~~ ((1 : BitVec 192) <<< core)).getLsbD core = false := by
  simp only [BitVec.getLsbD_and, BitVec.getLsbD_not, BitVec.getLsbD_shiftLeft]
  by_cases h : core < 192 <;> simp [h]

/-- Which cores are present, after one has come back (R198). -/
theorem getLsbD_with (x : BitVec 192) {core : Nat} (h : core < 192) (c : Nat) :
    (x ||| (1 : BitVec 192) <<< core).getLsbD c = (decide (c = core) || x.getLsbD c) := by
  simp only [BitVec.getLsbD_or, BitVec.getLsbD_shiftLeft]
  by_cases hc : c = core
  · simp [hc, h]
  · by_cases hl : c < core
    · simp [hc, hl]
    · simp [hc, show c - core ≠ 0 by omega]

/-- Whether a workgroup has stopped is a matter of teams and workgroups. -/
theorem State.stopped.congr {s t : State} {u status : Nat} (h : s.stopped u status) (ht : t.teams = s.teams) (hw : t.wgs = s.wgs) :
    t.stopped u status := by
  unfold State.stopped State.wg? at h ⊢
  rw [ht, hw]
  exact h

/-- The first end of a workgroup stops it. -/
theorem endWg_stopped {s : State} {u status trap : Nat} {w : Wg} (hw : s.wg? u = some w) (h0 : w.status = 0) :
    (s.endWg u status trap).stopped u status := by
  obtain ⟨hteams, ⟨w', hw', hphase, -, hstatus, -⟩, -⟩ := endWg_ended (status := status) (trap := trap) hw h0
  exact ⟨hteams, w', hw', hphase, hstatus⟩

/-- A core with one workgroup is lost: the workgroup ends, and the core is absent (R198). -/
theorem failCore_one {s : State} {core : Nat} {w : Wg} (hc : s.coreOn core = true)
    (hw : s.wgs.filter (fun w => w.core == core && w.holdsCore) = [w]) :
    (s.failCore core).teams = (s.endWg w.uid 3 21).teams ∧ (s.failCore core).wgs = (s.endWg w.uid 3 21).wgs ∧
      (s.failCore core).mem = (s.endWg w.uid 3 21).mem ∧ (s.failCore core).coreOn core = false ∧
      ((s.failCore core).core core).failed = true := by
  obtain ⟨_, hdrop⟩ := (cohOnly_dropAgent ((s.endWg w.uid 3 21).dropEngines core) core).trans (cohOnly_dropAgent _ (256 + core))
  have hon : ¬ (!s.coreOn core) = true := by simp [hc]
  simp only [State.failCore, if_neg hon, hw, List.foldl_cons, List.foldl_nil, hdrop]
  refine ⟨rfl, rfl, rfl, getLsbD_without _ core, ?_⟩
  exact congrArg Core.failed (tget_tset_self _ _ _ _)

/-- An error of no one team takes its core out, and ends the workgroup there (R198). -/
theorem exec_machineError_unattributed {s : State} {core : Nat} {w : Wg} (hc : s.coreOn core = true) (hs : s.wgs = [w])
    (hw : w.core = core) (hp : w.phase = .resident) (h0 : w.status = 0) :
    ∃ u, exec (.machineError (.unattributed core)) s = .next u ∧ u.stopped w.uid 3 ∧ u.coreOn core = false ∧
      (u.core core).failed = true ∧ u.mem = s.mem := by
  have hone : s.wgs.filter (fun w => w.core == core && w.holdsCore) = [w] := by simp [hs, hw, Wg.holdsCore, hp]
  have hfind : s.wg? w.uid = some w := by simp [State.wg?, hs]
  obtain ⟨hteams, hwgs, hmem, hon, hfailed⟩ := failCore_one hc hone
  exact ⟨_, rfl, (endWg_stopped hfind h0).congr hteams hwgs, hon, hfailed, hmem.trans (endWg_ended hfind h0).memory⟩

/-- CORE_RE_ENABLE brings a core back (R198). -/
theorem exec_coreReEnable {s : State} {core : Nat} (hf : (s.core core).failed = true) (hc : core < 192) :
    ∃ u, exec (.coreReEnable core) s = .next u ∧ u.coreOn core = true ∧ (u.core core).failed = false ∧
      (∀ c, c ≠ core → u.coreOn c = s.coreOn c) ∧ u.mem = s.mem := by
  refine ⟨_, congrArg Host.Outcome.next (if_pos hf), ?_, ?_, fun c hne => ?_, rfl⟩
  · exact (getLsbD_with _ hc core).trans (by simp)
  · exact congrArg Core.failed (tget_tset_self _ _ _ _)
  · exact (getLsbD_with _ hc c).trans (by simp [hne, State.coreOn])

/-- LOCKSTEP_MISMATCH ends the workgroup of the spindle's program (R411). -/
theorem exec_lockstepMismatch {s : State} {core : Nat} {p : Prog} {w : Wg} (hs : s.progs = [p]) (hc : p.core = core)
    (he : p.ended = false) (hq : p.queued = false) (hw : s.wg? p.wg = some w) (h0 : w.status = 0) :
    ∃ u, exec (.lockstepMismatch (.spindle core p.eng)) s = .next u ∧ u.stopped p.wg 3 ∧ u.mem = s.mem := by
  have hexec : exec (.lockstepMismatch (.spindle core p.eng)) s = .next (s.endWg p.wg 3 21) := by
    change execLockstepMismatch (.spindle core p.eng) s = _
    simp [execLockstepMismatch, hs, hc, he, hq]
  exact ⟨_, hexec, endWg_stopped hw h0, (endWg_ended hw h0).memory⟩

/-! ## Translation and fault service (R361–R363) -/

/-- Bindings that watch other places: translations and memory are as before (R361). -/
theorem rewatch_facts (s : State) (c : Nat) : (s.rewatch c).tlb = s.tlb ∧ (s.rewatch c).mem = s.mem := by
  unfold State.rewatch
  dsimp only
  refine List.foldlRecOn _ _ (motive := fun (t : State) => t.tlb = s.tlb ∧ t.mem = s.mem) ⟨rfl, rfl⟩ fun t ht x _ => ?_
  obtain ⟨_, h⟩ := cohOnly_holdBound (t.modTeam x.1.uid fun y => { y with bindings := aput y.bindings x.2.1 { x.2.2 with
    pend := x.2.2.pend || x.2.2.notify || t.boundDiffers (t.teamCore x.1) x.1 x.2.1 x.2.2, since := t.cycle } }) (t.teamCore x.1)
    x.2.2.space x.2.2.loc x.2.2.spilled
  rw [h]
  exact ht

/-- ATS_INVALIDATION removes translations of its context (R361). -/
theorem exec_atsInvalidation {s : State} {ctx kind : Nat} {va : DWord} (hk : kind ≤ 2) :
    ∃ u, exec (.atsInvalidation ctx va kind) s = .next u ∧ (∀ e ∈ u.tlb, e ∈ s.tlb) ∧ (∀ e ∈ s.tlb, e.ctx ≠ ctx → e ∈ u.tlb) ∧
      (kind = 2 → ∀ e ∈ u.tlb, e.ctx ≠ ctx) ∧ u.mem = s.mem := by
  obtain ⟨htlb, hmem⟩ := rewatch_facts (s.dropTlb ctx va kind) ctx
  refine ⟨_, congrArg Host.Outcome.next (if_pos hk), ?_, ?_, ?_, hmem⟩
  all_goals
    rw [htlb]
    simp only [State.dropTlb, List.mem_filter]
  · exact fun e he => he.1
  · exact fun e he hne => ⟨he, by simp [tlbHit, hne]⟩
  · rintro rfl e ⟨-, he⟩ rfl
    simp [tlbHit] at he

/-- A success in host-assisted mode brings a translation, and no more (R362). -/
theorem fillAssisted_facts {s : State} (hx : s.xfers = []) (c page : Nat) : ∃ tlb, s.fillAssisted c page = { s with tlb := tlb } := by
  have hwalk : s.beforeWalk c (pageVa page) = s := by simp [State.beforeWalk, hx]
  unfold State.fillAssisted State.fillTlb
  dsimp only
  rw [hwalk]
  split
  · split <;> exact ⟨_, rfl⟩
  · exact ⟨_, rfl⟩

/-- What a team that waits for one page knows after the answer (R360, R363). -/
def Service.answered (v : Service) (x : Trap) (ok : Bool) : Service :=
  { v with asked := [], failed := if ok then v.failed else v.failed ++ [(0, x)] }

/-- A team that waits for one page takes the answer (R363). -/
theorem tellParty_team {s : State} {t : Team} {v : Service} {c page access : Nat} {x : Trap} {ok : Bool} {ps : List (Nat × Nat)} {pri : Bool}
    (ht : s.team? t.uid = some t) (hv : t.service = some v) (ha : v.asked = [(page, access)]) (hl : access ≤ 2) :
    (s.tellParty ⟨c, page, access, x, ps, pri⟩ ok (0, t.uid)).team? t.uid = some { t with service := some (v.answered x ok) } := by
  have hne : access ≠ 9 := by omega
  simp only [State.tellParty]
  refine (team?_modTeam ?_ ht).trans ?_
  · exact fun _ => ⟨rfl, rfl⟩
  · simp [hv, ha, hne, Service.answered]

/-- PAGE_RESPONSE ends the wait of the one party of a request (R363). -/
theorem exec_pageResponse {s : State} {t : Team} {v : Service} {c page access : Nat} {x : Trap} {ok : Bool}
    (ht : s.team? t.uid = some t) (hv : t.service = some v) (ha : v.asked = [(page, access)]) (hl : access ≤ 2) (hx : s.xfers = [])
    (hr : s.pageReqs = [⟨c, page, access, x, [(0, t.uid)], true⟩]) :
    ∃ u t' v', exec (.pageResponse 0 ok) s = .next u ∧ u.pageReqs = [] ∧ u.team? t.uid = some t' ∧ t'.service = some v' ∧
      v'.asked = [] ∧ v'.failed = (if ok then v.failed else v.failed ++ [(0, x)]) ∧ t'.v = t.v ∧ u.mem = s.mem := by
  obtain ⟨tlb, hfill⟩ : ∃ tlb, (if ok then s.fillAssisted c page else s) = { s with tlb := tlb } := by
    split
    · exact fillAssisted_facts hx c page
    · exact ⟨_, rfl⟩
  have hexec : exec (.pageResponse 0 ok) s =
      .next (({ s with tlb := tlb, pageReqs := [] } : State).tellParty ⟨c, page, access, x, [(0, t.uid)], true⟩ ok (0, t.uid)) := by
    change execPageResponse 0 ok s = _
    simp only [execPageResponse, hr, List.getElem?_cons_zero, Bool.true_and, hfill, List.eraseIdx_zero, List.tail_cons, List.foldl_cons,
      List.foldl_nil]
  exact ⟨_, _, _, hexec, rfl, tellParty_team (s := { s with tlb := tlb, pageReqs := [] }) ht hv ha hl, rfl, rfl, rfl, rfl, rfl⟩

/-! ## Service calls (R127, R408) -/

/-- HCALL_REPLY brings a team that waits for the service controller its status (R127, R408). -/
theorem exec_hcallReply {s : State} {t : Team} {svc : Nat} {status : Word} (ht : s.team? t.uid = some t) (hp : t.park = .hcall svc none)
    (hs : svc < 0x100) (h2 : svc ≠ 2) : ∃ u t', exec (.hcallReply t.uid status) s = .next u ∧ u.team? t.uid = some t' ∧
      t'.park = .hcall svc (some (if svc = 1 ∨ svc = 3 then status else 0xFFFFFFFF)) ∧ t'.v = t.v ∧ u.mem = s.mem := by
  have hexec : exec (.hcallReply t.uid status) s = .next (s.modTeam t.uid (fun y =>
      { y with park := .hcall svc (some (s.firmware y svc y.hcallArg status)) })) := by
    change execHcallReply t.uid status s = _
    simp only [execHcallReply, ht, hp, if_pos hs]
  have hstatus : s.firmware t svc t.hcallArg status = if svc = 1 ∨ svc = 3 then status else 0xFFFFFFFF := by
    unfold State.firmware
    split <;> simp_all
  exact ⟨_, _, hexec, team?_modTeam (fun _ => ⟨rfl, rfl⟩) ht, by rw [← hstatus], rfl, rfl⟩

/-- Settles O38, event by event. -/
theorem coreEventsHappen : Obligations.CoreEventsHappen := by
  unfold Obligations.CoreEventsHappen
  exact fun s core => ⟨fun _ => exec_refreshSteal, fun _ _ _ => exec_machineError_register, fun _ => exec_machineError_coreStore,
    fun _ => exec_machineError_unattributed, exec_coreReEnable, fun _ _ => exec_lockstepMismatch,
    fun _ _ _ => exec_atsInvalidation, fun _ _ _ _ _ _ _ => exec_pageResponse, fun _ _ _ => exec_hcallReply⟩

end Sys2Proof.Machine
end

section
/-! SUPPORT. Loads and atomics that start: what nothing of the device keeps back is listed, lane by lane (R135, R140, R143, R153). -/

namespace Sys2Proof.Machine

/-! ## Nothing is kept back (R135, R139, R192, R443) -/

/-- A place of this device is not on another. -/
theorem remote_of_onDevice {sp : Space} (h : onDevice sp = true) : sp.remote = false := by
  cases sp with
  | peer d m => cases h
  | member m => cases h
  | _ => rfl

/-- Nothing of the device keeps an access back. -/
theorem mustWait_quiet {s : State} (hq : s.quiet) {how : Touch} {ps : List (Nat × Nat × Nat)}
    (hp : ∀ p ∈ ps, s.memberStopped p.2.1 = false ∧ s.drained p.2.1 = false) : s.mustWait how ps = false := by
  obtain ⟨hx, hloads, hpath, -⟩ := hq
  simp only [State.mustWait, List.any_eq_false]
  intro p hm
  obtain ⟨hstop, hdrain⟩ := hp p hm
  have hload : (s.loads.any fun l => l.team == s.cur.uid && l.value.isNone && l.kind.reads && !l.space.remote &&
      overlaps l.loc l.size p.2.1 p.2.2 && !s.loadReady l) = false := by
    rw [List.any_eq_false]
    intro l hlm
    by_cases hu : l.team = s.cur.uid
    · obtain ⟨v, hv⟩ := Option.ne_none_iff_exists'.1 ((hloads l hlm).2 hu)
      simp [hv]
    · simp [hu]
  simp only [hstop, hdrain, State.copyAhead, State.copiesOpen, hx, hpath, List.any_nil, hload, Bool.and_false, Bool.or_self,
    Bool.false_eq_true, not_false_eq_true]

/-- No store asks for room in the path. -/
@[simp] theorem pathShort_nil (s : State) : s.pathShort [] = false := by simp [State.pathShort]

/-- No store is added to a sweep. -/
@[simp] theorem joinSites_nil (a : List (Nat × Site)) : joinSites a [] = a := by
  refine (List.map_congr_left fun x _ => ?_).trans (List.map_id a)
  split <;> rfl

/-- No access has no place. -/
@[simp] theorem lanePlaces_nil (rs : List (Nat × Site)) : lanePlaces [] rs = [] := rfl

/-- The sites of accesses whose places are known. -/
def sitesAt (f : Nat → Space × Nat) (lanes : List Nat) : List (Nat × Site) := lanes.map (fun l => (l, .at_ (f l).1 (f l).2))

/-- The places of accesses, by address. -/
theorem placesOf_sitesAt (f : Nat → Space × Nat) (acc : List (Nat × DWord × Nat)) :
    placesOf acc (sitesAt f (acc.map (fun x => x.1))) = acc.map (fun x => (x.2.1.toNat, (f x.1).2, x.2.2)) := by
  unfold placesOf sitesAt
  induction acc with
  | nil => rfl
  | cons x acc ih => simpa using ih

/-- The places of accesses, by lane. -/
theorem lanePlaces_sitesAt (f : Nat → Space × Nat) (acc : List (Nat × DWord × Nat)) :
    lanePlaces acc (sitesAt f (acc.map (fun x => x.1))) = acc.map (fun x => (x.1, (f x.1).2, x.2.2)) := by
  unfold lanePlaces sitesAt
  induction acc with
  | nil => rfl
  | cons x acc ih => simpa using ih

/-- Sites on this device complete an instruction. -/
theorem afterSites_sitesAt (s : State) (need : Need) (scalar : Bool) (f : Nat → Space × Nat) (lanes : List Nat) :
    s.afterSites need scalar (sitesAt f lanes) = .done s :=
  afterSites_done fun r hr => by
    obtain ⟨l, -, rfl⟩ := List.mem_map.1 hr
    rfl

section
variable {s : State} {need : Need} {acc : List (Nat × DWord × Nat)} {f : Nat → Space × Nat} (hp : s.placed need acc f)
include hp

/-- The sweep of accesses whose places are known. -/
theorem placed_sites : State.sites need acc s = (s, sitesAt f (acc.map (fun x => x.1))) := by
  obtain ⟨-, hsites, -⟩ := hp
  rw [hsites, sitesAt, List.map_map]
  rfl

/-- Nothing keeps accesses back whose places are known. -/
theorem placed_mustWait (hq : s.quiet) (how : Touch) : s.mustWait how (placesOf acc (sitesAt f (acc.map (fun x => x.1)))) = false := by
  obtain ⟨-, -, hplace⟩ := hp
  refine mustWait_quiet hq fun p hm => ?_
  rw [placesOf_sitesAt] at hm
  obtain ⟨x, hx, rfl⟩ := List.mem_map.1 hm
  obtain ⟨-, hstop, hdrain, -⟩ := hplace x hx
  exact ⟨hstop, hdrain⟩

/-- No check of a member's window elsewhere is made. -/
theorem placed_farCheck (hl : ∀ x ∈ acc, x.1 < 1024) : s.farCheck (lanePlaces acc (sitesAt f (acc.map (fun x => x.1)))) = none := by
  have hfar := placed_not_farMember hp hl
  have hnone : (lanePlaces acc (sitesAt f (acc.map (fun x => x.1)))).filter (fun w => s.farMember w.2.1) = [] := by
    rw [List.filter_eq_nil_iff, lanePlaces_sitesAt]
    rintro p hm
    obtain ⟨x, hx, rfl⟩ := List.mem_map.1 hm
    simp [hfar x hx]
  simp [State.farCheck, hnone]

/-- No place is on another device. -/
theorem placed_remote : ∀ x ∈ acc, (f x.1).1.remote = false := by
  obtain ⟨-, -, hplace⟩ := hp
  exact fun x hx => remote_of_onDevice (hplace x hx).1

end

/-! ## Loads that are listed (R135, R143, R153) -/

/-- Bytes apart do not overlap. -/
theorem overlaps_of_apart {a n b m : Nat} (h : a + n ≤ b ∨ b + m ≤ a) : overlaps a n b m = false := by
  simp only [overlaps, Bool.and_eq_false_iff, decide_eq_false_iff_not]
  omega

/-- Loads that have their values, or read other bytes, are not performed first. -/
theorem forceLoads_apart {team loc size : Nat} {ls : List Load} {s : State}
    (h : ∀ l ∈ ls, l.team = team → l.value ≠ none ∨ overlaps l.loc l.size loc size = false) : State.forceLoads team loc size ls s = s := by
  induction ls with
  | nil => rfl
  | cons l ls ih =>
    have hskip : (l.team == team && overlaps l.loc l.size loc size && l.value.isNone) = false := by
      by_cases hu : l.team = team
      · rcases h l (by simp) hu with hv | hv
        · obtain ⟨v, hv⟩ := Option.ne_none_iff_exists'.1 hv
          simp [hv]
        · simp [hv]
      · simp [hu]
    rw [State.forceLoads, hskip]
    exact ih fun x hx => h x (by simp [hx])

/-- The loads that an instruction lists for some lanes. -/
def State.started (s : State) (kind : Nat → LoadKind) (size : Nat) (ext : Ext) (dests : Nat → List (Nat × Dest)) (f : Nat → Space × Nat)
    (lanes : List Nat) : List Load :=
  lanes.map (fun l => s.mkLoad (kind l) l (f l).1 (f l).2 size ext (dests l))

/-- Lanes whose bytes are apart. -/
def Apart (f : Nat → Space × Nat) (size : Nat) (l m : Nat) : Prop := (f l).2 + size ≤ (f m).2 ∨ (f m).2 + size ≤ (f l).2

/-- One lane after another lists its load. -/
theorem addLoads_cons (kind : Nat → LoadKind) (size : Nat) (ext : Ext) (dests : Nat → List (Nat × Dest)) (f : Nat → Space × Nat)
    (l : Nat) (lanes : List Nat) (s : State) : State.addLoads kind size ext dests (sitesAt f (l :: lanes)) s =
      State.addLoads kind size ext dests (sitesAt f lanes) (s.addLoad (s.mkLoad (kind l) l (f l).1 (f l).2 size ext (dests l))) := rfl

/-- Lanes whose bytes are apart list their loads, and nothing else happens. -/
theorem addLoads_apart {s : State} {kind : Nat → LoadKind} {size : Nat} {ext : Ext} {dests : Nat → List (Nat × Dest)}
    {f : Nat → Space × Nat} {lanes : List Nat} (hapart : lanes.Pairwise (Apart f size))
    (hold : ∀ y ∈ s.loads, y.team = s.cur.uid → y.value ≠ none ∨ ∀ l ∈ lanes, overlaps y.loc y.size (f l).2 size = false) :
    State.addLoads kind size ext dests (sitesAt f lanes) s = { s with loads := s.loads ++ s.started kind size ext dests f lanes } := by
  induction lanes generalizing s with
  | nil => simp [sitesAt, State.addLoads, State.started]
  | cons l lanes ih =>
    obtain ⟨hl, hrest⟩ := List.pairwise_cons.1 hapart
    have hnone : State.forceLoads s.cur.uid (f l).2 size s.loads s = s :=
      forceLoads_apart fun y hy hu => (hold y hy hu).imp_right fun h => h l (by simp)
    have hadd : s.addLoad (s.mkLoad (kind l) l (f l).1 (f l).2 size ext (dests l)) =
        { s with loads := s.loads ++ [s.mkLoad (kind l) l (f l).1 (f l).2 size ext (dests l)] } := by
      unfold State.addLoad
      dsimp only [State.mkLoad]
      rw [hnone]
    have hnext := ih (s := { s with loads := s.loads ++ [s.mkLoad (kind l) l (f l).1 (f l).2 size ext (dests l)] }) hrest ?_
    · rw [addLoads_cons, hadd]
      refine hnext.trans ?_
      rw [List.append_assoc]
      rfl
    · intro y hy hu
      rcases List.mem_append.1 hy with hy | hy
      · exact (hold y hy hu).imp_right fun h m hm => h m (by simp [hm])
      · rw [List.mem_singleton.1 hy]
        exact .inr fun m hm => overlaps_of_apart (hl m hm)

/-- Loads of this device's memory ask no other device. -/
theorem askLoads_none {seq strong : Nat} {ls : List Load} {s : State} (h : ∀ l ∈ ls, l.seq = seq → l.space.remote = false) :
    State.askLoads seq strong ls s = (s, []) := by
  induction ls with
  | nil => rfl
  | cons l ls ih =>
    have hskip : ¬ (decide (l.seq = seq) && l.value.isNone && l.space.remote) = true := by
      by_cases hs : l.seq = seq
      · simp [h l (by simp) hs]
      · simp [hs]
    rw [State.askLoads, if_neg (by simpa using hskip)]
    exact ih fun x hx => h x (by simp [hx])

/-- Of the loads listed, the instruction's own are not on another device. -/
theorem started_remote {s : State} {kind : Nat → LoadKind} {size : Nat} {ext : Ext} {dests : Nat → List (Nat × Dest)} {f : Nat → Space × Nat}
    {lanes : List Nat} (hold : ∀ y ∈ s.loads, y.seq < s.nextSeq) (hnew : ∀ l ∈ lanes, (f l).1.remote = false) :
    ∀ y ∈ s.loads ++ s.started kind size ext dests f lanes, y.seq = s.nextSeq → y.space.remote = false := by
  intro y hy hs
  rcases List.mem_append.1 hy with hy | hy
  · exact absurd hs (Nat.ne_of_lt (hold y hy))
  · obtain ⟨l, hl, rfl⟩ := List.mem_map.1 hy
    exact hnew l hl

/-- Lanes on this device whose bytes are apart list their loads, and ask nobody. -/
theorem askLoads_addLoads {s : State} {kind : Nat → LoadKind} {size strong : Nat} {ext : Ext} {dests : Nat → List (Nat × Dest)}
    {f : Nat → Space × Nat} {lanes : List Nat} (hapart : lanes.Pairwise (Apart f size))
    (hold : ∀ y ∈ s.loads, y.seq < s.nextSeq ∧ (y.team = s.cur.uid → y.value ≠ none)) (hnew : ∀ l ∈ lanes, (f l).1.remote = false) :
    State.askLoads s.nextSeq strong (State.addLoads kind size ext dests (sitesAt f lanes) s).loads
      (State.addLoads kind size ext dests (sitesAt f lanes) s) =
        ({ s with loads := s.loads ++ s.started kind size ext dests f lanes }, []) := by
  rw [addLoads_apart hapart fun y hy hu => .inl ((hold y hy).2 hu)]
  exact askLoads_none (started_remote (fun y hy => (hold y hy).1) hnew)

/-- An instruction that asks nobody ends as it does. -/
@[simp] theorem withAsks_nil (scalar : Bool) (r : Res) : Res.withAsks [] scalar r = r := rfl

/-! ## The order of lanes (R153) -/

/-- Places that are apart do not overlap. -/
theorem anyOverlap_apart {f : Nat → Space × Nat} {size : Nat} {lanes : List Nat} (h : lanes.Pairwise (Apart f size)) :
    anyOverlap (lanes.map (fun l => ((f l).2, size))) = false := by
  induction lanes with
  | nil => rfl
  | cons l lanes ih =>
    obtain ⟨hl, hrest⟩ := List.pairwise_cons.1 h
    simp only [List.map_cons, anyOverlap, ih hrest, Bool.or_false, List.any_map, List.any_eq_false]
    exact fun m hm => by simp [overlaps_of_apart (hl m hm)]

/-- Lanes whose bytes are apart act in their own order. -/
theorem siteOrder_apart (s : State) {f : Nat → Space × Nat} {size : Nat} {lanes : List Nat} (h : lanes.Pairwise (Apart f size)) :
    s.siteOrder size (sitesAt f lanes) = sitesAt f lanes := by
  have hplaces := anyOverlap_apart h
  rw [← List.filterMap_eq_map] at hplaces
  simp only [State.siteOrder, sitesAt, List.filterMap_map]
  exact if_neg (by rw [Bool.not_eq_true]; exact hplaces)

end Sys2Proof.Machine
end

section
/-! SUPPORT. Atomics and reductions at memory (R151–R154). -/

namespace Sys2Proof.Machine

/-! ## Atomics (R151, R153) -/

/-- TYPEs that the statement allows. -/
theorem atTypeOk_of_rmwType {op : AtOp} {ty : Nat} (h : rmwType op ty = true) : atTypeOk op ty = true := by
  cases op with
  | add | min | max => exact h
  | _ => rfl

/-- A v code or z is no scalar. -/
theorem isS_of_vzOk {t : Team} {wd : Bool} {d : Code} (h : vzOk t wd d = true) : isS d = false := by
  simp only [vzOk, vRun, isV, isZ, isS, Bool.or_eq_true, Bool.and_eq_true, Bool.and_eq_false_iff, decide_eq_true_eq,
    decide_eq_false_iff_not] at h ⊢
  omega

/-- An atomic, by its operation and operands. -/
theorem atomicEntry_some {t : Team} {i : Instr} {b : Code} {op : AtOp} {e : MemEntry} (h : t.atomicEntry i = some (b, op, e)) :
    ∃ d a, (∀ s, exec i s = issueAtomic op d a b s) ∧ e = (t.atomicOf op d a b).2 := by
  cases i <;> cases h <;> exact ⟨_, _, fun _ => rfl, rfl⟩

/-- What an atomic reads of its operands. -/
def State.atomicKind (s : State) (op : AtOp) (d b : Code) (l : Nat) : LoadKind :=
  .atomic op s.cur.type (BitVec.ofNat 64 (s.cur.opndN (wide s.cur.type) l b)) (BitVec.ofNat 64 (s.cur.opndN (wide s.cur.type) l d))

/-- Lanes of an instruction whose accesses are apart. -/
theorem pairwise_apart {f : Nat → Space × Nat} {size : Nat} {lanes : List Nat} (hn : lanes.Nodup)
    (h : ∀ l ∈ lanes, ∀ m ∈ lanes, l ≠ m → Apart f size l m) : lanes.Pairwise (Apart f size) :=
  hn.imp_of_mem fun hl hm hne => h _ hl _ hm hne

section
variable {s : State} {op : AtOp} {d a b : Code} {f : Nat → Space × Nat} (hp : s.plain = true) (hq : s.quiet) (hf : s.cur.fencer = [])
  (hb : s.cur.bindings = []) (hpl : s.placed Need.rmw (s.cur.atAccesses a) f)
  (hapart : s.cur.contribLanes.Pairwise (Apart f (if wide s.cur.type then 8 else 4)))
include hp hq hf hb hpl hapart

/-- The body of an atomic whose lanes meet nothing lists their loads. -/
theorem runAtomic_starts : ∃ fresh next, State.runAtomic op d a b s = .done { s with
    fresh := fresh
    nextSeq := next
    loads := s.loads ++ s.started (s.atomicKind op d b) (if wide s.cur.type then 8 else 4) .none (fun l => destsOf l d (regs (wide s.cur.type)))
      f s.cur.contribLanes } := by
  obtain ⟨-, -, -, -, hrun, -⟩ := (State.plain_iff s).1 hp
  have hlanes : (s.cur.atAccesses a).map (fun x => x.1) = s.cur.contribLanes := by
    rw [Team.atAccesses, List.map_map]
    exact List.map_id _
  have hl : ∀ x ∈ s.cur.atAccesses a, x.1 < 1024 := by
    intro x hx
    obtain ⟨l, hl, rfl⟩ := List.mem_map.1 hx
    exact Team.lane_lt_of_contrib hl
  have hsites := placed_sites hpl
  have hwait := placed_mustWait hpl hq .rmw
  have hfar := placed_farCheck hpl hl
  have hremote := placed_remote hpl
  rw [hlanes] at hsites hwait hfar
  unfold State.runAtomic
  dsimp only
  split
  next hnil =>
    have hnone : s.cur.contribLanes = [] := by rw [← hlanes, hnil]; rfl
    refine ⟨s.fresh, s.nextSeq, ?_⟩
    simp [hnone, State.started]
  next =>
    have hfence : s.fenceHolds = false := by simp [State.fenceHolds, hf]
    have hnew : ∀ l ∈ s.cur.contribLanes, (f l).1.remote = false := fun l hl => hremote (l, _, _) (List.mem_map.2 ⟨l, hl, rfl⟩)
    rw [hsites, destStores_nil _ _ _ hb]
    simp only [State.sites, joinSites_nil, hfence, hwait, siteLocs, List.filterMap_nil, pathShort_nil, Bool.or_self, Bool.false_eq_true, if_false,
      lanePlaces_nil, List.append_nil, hfar, Option.getD_none, unpark_of_running hrun, siteOrder_apart s hapart]
    refine ⟨s.fresh + 1, s.nextSeq + 1, ?_⟩
    rw [askLoads_addLoads hapart hq.2.1 hnew, withAsks_nil, afterSites_sitesAt]
    rfl

end

/-- The end of an instruction whose team has not changed. -/
theorem teamKept_same {s t : State} (hp : s.plain = true) (h : t.cur = s.cur) : TeamKept s (t.setCur t.cur.advance) :=
  teamKept_marks hp ⟨s.cur.bindings, s.cur.region, h⟩

/-- The loads of an atomic, as the statement names them. -/
theorem started_atomic {s : State} {op : AtOp} {d b : Code} {size : Nat} {f : Nat → Space × Nat} {lanes : List Nat} (hd : isS d = false)
    (hsize : size = 4 * regs (wide s.cur.type)) {l : Nat} (hl : l ∈ lanes) :
    ∃ x ∈ s.started (s.atomicKind op d b) size .none (fun l => destsOf l d (regs (wide s.cur.type))) f lanes,
      x.team = s.cur.uid ∧ x.lane = l ∧ x.loc = (f l).2 ∧ x.space = (f l).1 ∧ x.size = size ∧ x.value = none ∧ x.flag = s.cur.seta ∧
        x.kind = s.atomicKind op d b l ∧ x.dests = (List.range (size / 4)).map (fun k =>
          (k, if isV d then Dest.vec l (d.toNat + k) else .none)) := by
  refine ⟨_, List.mem_map.2 ⟨l, hl, rfl⟩, rfl, rfl, rfl, rfl, rfl, rfl, rfl, rfl, ?_⟩
  rw [hsize, Nat.mul_div_cancel_left _ (by decide)]
  simp [State.mkLoad, destsOf, hd]

/-- The bytes of an atomic are those of its registers. -/
theorem atomicSize_eq (ty : Nat) : (if wide ty then 8 else 4) = 4 * regs (wide ty) := by
  cases wide ty <;> rfl

/-- An atomic whose lanes meet nothing starts (R153). -/
theorem exec_atomic_starts {s : State} {i : Instr} {e : MemEntry} {op : AtOp} {b : Code} {f : Nat → Space × Nat} (hp : s.plain = true)
    (hq : s.quiet) (hf : s.cur.fencer = []) (hb : s.cur.bindings = []) (hok : e.legal = true)
    (hapart : ∀ x ∈ e.accesses, ∀ y ∈ e.accesses, x.1 ≠ y.1 → (f x.1).2 + e.size ≤ (f y.1).2 ∨ (f y.1).2 + e.size ≤ (f x.1).2)
    (ha : s.hasSeta = true) (he : s.cur.atomicEntry i = some (b, op, e)) (hpl : s.placed Need.rmw e.accesses f) :
    ∃ t, exec i s = .next t ∧ TeamKept s t ∧ (∀ a, t.byte a = s.byte a) ∧
      ∀ a ∈ e.accesses, ∃ x ∈ t.loads, x.team = s.cur.uid ∧ x.lane = a.1 ∧ x.loc = (f a.1).2 ∧ x.space = (f a.1).1 ∧
        x.size = e.size ∧ x.value = none ∧ x.flag = s.cur.seta ∧
        x.kind = .atomic op s.cur.type (BitVec.ofNat 64 (s.cur.opndN (wide s.cur.type) a.1 b))
          (BitVec.ofNat 64 (s.cur.opndN (wide s.cur.type) a.1 e.d)) ∧
        x.dests = (List.range (e.size / 4)).map (fun k => (k, if isV e.d then Dest.vec a.1 (e.d.toNat + k) else .none)) := by
  obtain ⟨d, a, hexec, rfl⟩ := atomicEntry_some he
  simp only [Team.atomicOf, Bool.and_eq_true] at hok
  obtain ⟨⟨⟨htype, hd⟩, hbase⟩, hsrc⟩ := hok
  have hlanes : s.cur.contribLanes.Pairwise (Apart f (if wide s.cur.type then 8 else 4)) := by
    refine pairwise_apart s.cur.contribLanes_nodup fun l hl m hm hne => ?_
    exact hapart (l, _, _) (List.mem_map.2 ⟨l, hl, rfl⟩) (m, _, _) (List.mem_map.2 ⟨m, hm, rfl⟩) hne
  obtain ⟨fresh, next, hbody⟩ := runAtomic_starts (op := op) (d := d) (b := b) hp hq hf hb hpl hlanes
  obtain ⟨hconds, -⟩ := id hpl
  refine ⟨_, (hexec s).trans (issue_done hp (Spec.conds_nil nofun (fun _ => ha) nofun) ?_ hbody), teamKept_same hp rfl, fun _ => rfl, ?_⟩
  · rw [destStores_nil _ _ _ hb]
    simp only [atTypeOk_of_rmwType htype, hd, hbase, hsrc, Bool.and_self, if_true]
    exact (congrArg (· ++ _) hconds).trans rfl
  · intro x hx
    obtain ⟨l, hl, rfl⟩ := List.mem_map.1 hx
    obtain ⟨y, hy, hfacts⟩ := started_atomic (s := s) (op := op) (b := b) (f := f) (isS_of_vzOk hd) (atomicSize_eq s.cur.type) hl
    exact ⟨y, List.mem_append_right _ hy, hfacts⟩

/-! ## Reductions (R154, R192) -/

section
variable {s : State} {need : Need} {release : Bool} {d : Code} {xs : List LaneStore} {f : Nat → Space × Nat} {all : List Nat}

/-- Stores and reductions whose places are known enter one after another, and the instruction completes. -/
theorem runStores_enters_for (hq : s.quiet) (hk : s.cur.park = .running) (hreg : s.cur.inRegion = false)
    (hp : s.placed need (storeAccesses xs) f) (hl : ∀ x ∈ xs, x.lane < 1024) (ha : all.eraseDups.length ≤ 64)
    (hfit : ∀ x ∈ xs, ∀ n ∈ pathLineOf (.at_ (f x.lane).1 (f x.lane).2), n ∈ all) (hne : xs ≠ []) :
    s.runStores release need d xs = .done (State.enterStores s.nextSeq release (s.storeOrder (sited f xs)) s.takeSeq).draw := by
  have hlanes : (storeAccesses xs).map (fun x => x.1) = xs.map LaneStore.lane := by
    rw [storeAccesses, List.map_map]
    rfl
  have hsites := placed_sites hp
  have hwait := placed_mustWait hp hq .write
  have hfar := placed_farCheck hp (by simpa [storeAccesses] using hl)
  rw [hlanes] at hsites hwait hfar
  have hpairs : xs.zip ((sitesAt f (xs.map LaneStore.lane)).map (fun x => x.2)) = sited f xs := by
    rw [sitesAt, List.map_map, List.map_map]
    exact List.map_prod_left_eq_zip.symm
  have hlines : s.pathLines s.curCore = [] := by
    obtain ⟨-, -, hpath, -, -, hthrough⟩ := hq
    simp [State.pathLines, hpath, hthrough]
  have hall : fitPath [] (s.storeOrder (sited f xs)) = (s.storeOrder (sited f xs), []) := by
    refine fitPath_all ha (by simp) fun x hm => ?_
    obtain ⟨y, hy, rfl⟩ := List.mem_map.1 ((storeOrder_perm s _).subset hm)
    exact hfit y hy
  have hroom : ¬ (decide (Config.storePath ≤ ([] : List Nat).length) || false) = true := by decide
  simp only [State.runStores, if_neg hne, hsites, hreg, Bool.false_eq_true, if_false, hwait, hfar, Option.getD_none, hpairs,
    unpark_of_running hk, hlines, if_neg hroom, hall, if_true, afterSites_sitesAt]

end

/-- A reduction merges into no entry. -/
theorem addPath_reduction {x : StoreEntry} (h : x.red.isSome = true) (es : List StoreEntry) : addPath x es = es ++ [x] := by
  have hnone : ∀ es, mergePath x es = none := by
    intro es
    induction es with
    | nil => rfl
    | cons e es ih =>
      have htakes : e.takes x = false := by
        have hred : x.red.isNone = false := by simpa using h
        simp [StoreEntry.takes, hred]
      simp [mergePath, htakes, ih]
  simp [addPath, hnone]

/-- The entry of a lane's reduction (R154). -/
def State.reductionOf (s : State) (seq : Nat) (strong : List (Nat × Nat × Nat)) (x : LaneStore) (space : Space) (loc : Nat) : StoreEntry :=
  ⟨s.curCore, space, loc, [], x.red, [], strong, ⟨s.cur.uid, seq, s.cur.setb, s.cur.scope, none⟩, []⟩

/-- One reduction enters the store path. -/
theorem enterStore_reduction {s : State} {x : LaneStore} {space : Space} {loc seq : Nat} (hlive : s.cur.live = true)
    (hf : s.cur.fencer = []) (hloads : ∀ l ∈ s.loads, l.team = s.cur.uid → l.value ≠ none) (hr : x.red.isSome = true) (ho : x.own = none)
    (hs : space ≠ .store ∧ space ≠ .opBuf) : ∃ strong,
      s.enterStore seq false x space loc = { s with path := s.path ++ [s.reductionOf seq strong x space loc] } := by
  obtain ⟨hstore, hbuf⟩ := hs
  have hteam : s.team? s.cur.uid = some s.cur := by simp [State.team?, State.teams, hlive]
  have hhold : s.holdOf s.cur.uid seq none = [] := by simp [State.holdOf, hteam, hf]
  refine ⟨[(s.cur.uid, loc, s.strongSize x.size)], ?_⟩
  simp only [State.enterStore, forceLoads_done hloads, hr, if_true, Bool.or_true, Bool.false_eq_true, if_false, hhold, ho]
  have hadd := addPath_reduction (x := s.reductionOf seq [(s.cur.uid, loc, s.strongSize x.size)] x space loc) hr s.path
  simp only [State.enterPath, hstore, hbuf, decide_false, Bool.or_self, Bool.false_and, Bool.false_eq_true, if_false, hr, Bool.true_or, if_true]
  exact congrArg (fun p => ({ s with path := p } : State)) hadd

/-- The reductions of an instruction enter the store path, and nothing else happens. -/
theorem enterStores_reductions {s : State} {f : Nat → Space × Nat} {seq : Nat} {L : List (LaneStore × Site)} (hlive : s.cur.live = true)
    (hf : s.cur.fencer = []) (hloads : ∀ l ∈ s.loads, l.team = s.cur.uid → l.value ≠ none)
    (hL : ∀ p ∈ L, p.2 = .at_ (f p.1.lane).1 (f p.1.lane).2 ∧ p.1.red.isSome = true ∧ p.1.own = none ∧ (f p.1.lane).1 ≠ .store ∧
      (f p.1.lane).1 ≠ .opBuf) : ∃ es, State.enterStores seq false L s = { s with path := s.path ++ es } ∧
      ∀ p ∈ L, ∃ strong, s.reductionOf seq strong p.1 (f p.1.lane).1 (f p.1.lane).2 ∈ es := by
  induction L generalizing s with
  | nil => exact ⟨[], by simp [State.enterStores], nofun⟩
  | cons p L ih =>
    obtain ⟨x, site⟩ := p
    obtain ⟨hsite, hred, hown, hspace⟩ := hL (x, site) (by simp)
    obtain rfl : site = .at_ (f x.lane).1 (f x.lane).2 := hsite
    obtain ⟨strong, henter⟩ := enterStore_reduction (seq := seq) (loc := (f x.lane).2) hlive hf hloads hred hown hspace
    obtain ⟨es, hes, hall⟩ := ih (s := { s with path := s.path ++ [s.reductionOf seq strong x (f x.lane).1 (f x.lane).2] }) hlive hf hloads
      fun q hq => hL q (by simp [hq])
    refine ⟨s.reductionOf seq strong x (f x.lane).1 (f x.lane).2 :: es, ?_, fun q hq => ?_⟩
    · simp only [State.enterStores, henter, hes, List.append_assoc, List.singleton_append]
    · rcases List.mem_cons.1 hq with rfl | hq
      · exact ⟨strong, by simp⟩
      · obtain ⟨st, hmem⟩ := hall q hq
        exact ⟨st, List.mem_cons_of_mem _ hmem⟩

/-- A reduction, by its operation and operands. -/
theorem reductionEntry_some {t : Team} {i : Instr} {b : Code} {op : AtOp} {e : MemEntry} (h : t.reductionEntry i = some (b, op, e)) :
    ∃ a, (∀ s, exec i s = issueReduction op a b s) ∧ e = (t.atomicOf op 124 a b).2 := by
  cases i <;> cases h <;> exact ⟨_, fun _ => rfl, rfl⟩

/-- The lane of a reduction, and what it carries. -/
theorem mem_laneReductions {t : Team} {op : AtOp} {a b : Code} {x : LaneStore} (hx : x ∈ t.laneReductions op a b) :
    x.lane ∈ t.contribLanes ∧ x.own = none ∧ x.red = some ⟨op, t.type, BitVec.ofNat 64 (t.opndN (wide t.type) x.lane b),
      if wide t.type then 8 else 4⟩ := by
  obtain ⟨l, hl, rfl⟩ := List.mem_map.1 hx
  exact ⟨hl, rfl, rfl⟩

/-- The accesses of reductions. -/
theorem storeAccesses_laneReductions (t : Team) (op : AtOp) (a b : Code) :
    storeAccesses (t.laneReductions op a b) = (t.atomicOf op 124 a b).2.accesses := by
  simp [storeAccesses, Team.laneReductions, Team.atomicOf]

/-- The body of a reduction leaves the lanes' entries in the store path. -/
theorem runStores_reductions {s : State} {op : AtOp} {a b : Code} {f : Nat → Space × Nat} {all : List Nat} (hp : s.plain = true) (hq : s.quiet)
    (hf : s.cur.fencer = []) (hpl : s.placed Need.red (s.cur.atomicOf op 124 a b).2.accesses f)
    (hs : ∀ l ∈ s.cur.contribLanes, (f l).1 ≠ .store ∧ (f l).1 ≠ .opBuf) (ha : all.eraseDups.length ≤ 64)
    (hfit : ∀ l ∈ s.cur.contribLanes, (f l).2 / 128 ∈ all) : ∃ fresh next es,
      s.runStores false Need.red 124 (s.cur.laneReductions op a b) = .done { s with fresh := fresh, nextSeq := next, path := s.path ++ es } ∧
      ∀ x ∈ s.cur.laneReductions op a b, ∃ strong, s.reductionOf s.nextSeq strong x (f x.lane).1 (f x.lane).2 ∈ es := by
  obtain ⟨-, hlive, -, -, hrun, hreg, -⟩ := (State.plain_iff s).1 hp
  by_cases hne : s.cur.laneReductions op a b = []
  · refine ⟨s.fresh, s.nextSeq, [], ?_, by simp [hne]⟩
    rw [hne, State.runStores, if_pos rfl, List.append_nil]
  · have hperm := storeOrder_perm s (sited f (s.cur.laneReductions op a b))
    have hbody := runStores_enters_for (s := s) (need := Need.red) (release := false) (d := 124) (f := f) hq hrun hreg
      (by rw [storeAccesses_laneReductions]; exact hpl) (fun x hx => Team.lane_lt_of_contrib (mem_laneReductions hx).1) ha
      (fun x hx n hn => lineOf_of_pathLineOf hn ▸ hfit x.lane (mem_laneReductions hx).1) hne
    obtain ⟨es, hes, hall⟩ := enterStores_reductions (s := s.takeSeq) (f := f) (seq := s.nextSeq)
      (L := s.storeOrder (sited f (s.cur.laneReductions op a b))) hlive hf (fun l hl => (hq.2.1 l hl).2) fun p hm => by
        obtain ⟨x, hx, rfl⟩ := List.mem_map.1 (hperm.subset hm)
        obtain ⟨hl, hown, hred⟩ := mem_laneReductions hx
        exact ⟨rfl, by simp [hred], hown, hs _ hl⟩
    refine ⟨s.fresh + 1, s.nextSeq + 1, es, hbody.trans (by rw [hes]; rfl), fun x hx => ?_⟩
    exact hall (x, .at_ (f x.lane).1 (f x.lane).2) (hperm.symm.subset (List.mem_map.2 ⟨x, hx, rfl⟩))

/-- A reduction enters the store path with its operand (R154). -/
theorem exec_reduction_enters {s : State} {i : Instr} {e : MemEntry} {op : AtOp} {b : Code} {f : Nat → Space × Nat} (hp : s.plain = true)
    (hq : s.quiet) (hf : s.cur.fencer = []) (hok : e.legal = true) (hb : s.hasSetb = true)
    (he : s.cur.reductionEntry i = some (b, op, e)) (hpl : s.placed Need.red e.accesses f)
    (hs : ∀ x ∈ e.accesses, (f x.1).1 ≠ .store ∧ (f x.1).1 ≠ .opBuf)
    (hfit : ((e.accesses.map (fun x => (f x.1).2 / 128)).eraseDups).length ≤ 64) :
    ∃ t, exec i s = .next t ∧ TeamKept s t ∧ (∀ a, t.byte a = s.byte a) ∧
      ∀ a ∈ e.accesses, ∃ p ∈ t.path, p.core = s.curCore ∧ p.loc = (f a.1).2 ∧ p.space = (f a.1).1 ∧
        p.tag.team = s.cur.uid ∧ p.tag.flag = s.cur.setb ∧ p.red = some ⟨op, s.cur.type,
          BitVec.ofNat 64 (s.cur.opndN (wide s.cur.type) a.1 b), e.size⟩ := by
  obtain ⟨a, hexec, rfl⟩ := reductionEntry_some he
  have hmem {l : Nat} (hl : l ∈ s.cur.contribLanes) : (l, s.cur.opnd64 l a, if wide s.cur.type then 8 else 4) ∈
      (s.cur.atomicOf op 124 a b).2.accesses := List.mem_map.2 ⟨l, hl, rfl⟩
  have hlegal := hok
  simp only [Team.atomicOf, Bool.and_eq_true] at hlegal
  obtain ⟨⟨⟨htype, -⟩, hbase⟩, hsrc⟩ := hlegal
  obtain ⟨fresh, next, es, hbody, hall⟩ := runStores_reductions (op := op) (a := a) (b := b) hp hq hf hpl (fun l hl => hs _ (hmem hl)) hfit
    fun l hl => List.mem_map.2 ⟨_, hmem hl, rfl⟩
  obtain ⟨hconds, -⟩ := id hpl
  refine ⟨_, (hexec s).trans (issue_done hp (Spec.conds_nil nofun nofun fun _ => hb) ?_ hbody), teamKept_same hp rfl, fun _ => rfl, ?_⟩
  · simp only [atTypeOk_of_rmwType htype, hbase, hsrc, Bool.and_self, if_true, storeAccesses_laneReductions]
    exact hconds
  · intro x hx
    obtain ⟨l, hl, rfl⟩ := List.mem_map.1 hx
    obtain ⟨strong, hp⟩ := hall ⟨l, s.cur.opnd64 l a, if wide s.cur.type then 8 else 4, 0, none, true, some ⟨op, s.cur.type,
      BitVec.ofNat 64 (s.cur.opndN (wide s.cur.type) l b), if wide s.cur.type then 8 else 4⟩⟩ (List.mem_map.2 ⟨l, hl, rfl⟩)
    exact ⟨_, List.mem_append_right _ hp, rfl, rfl, rfl, rfl, rfl, rfl⟩

/-- Settles O30: atomics start a load that reads, combines and writes, reductions an entry of the store path. -/
theorem atomicsAndReductionsStart : Obligations.AtomicsAndReductionsStart := by
  unfold Obligations.AtomicsAndReductionsStart
  exact fun s i e op b f hp hq hf hb hok hapart => ⟨exec_atomic_starts hp hq hf hb hok hapart, exec_reduction_enters hp hq hf hok⟩

end Sys2Proof.Machine
end

section
/-! SUPPORT. What the caches do beside an instruction: lines asked for, fetched, given up and written home. The issuing team keeps all
but marks of its bindings and read sets and traps that are due (R138, R148, R149, R191, R209, R339, R340). -/

namespace Sys2Proof.Machine

/-! ## What is kept -/

/-- A state that caches have moved on: the issuing team, in no region, keeps all but marks and due traps, loads and store path are as
they were, and memory is, where no copy is under way and no core keeps dirty bytes of software-managed lines. -/
structure Beside (s t : State) : Prop where
  cur : ∃ b r p, t.cur = { s.cur with bindings := b, region := r, pendTraps := p }
  region : t.cur.inRegion = false
  loads : t.loads = s.loads
  path : t.path = s.path
  wgs : t.wgs = s.wgs
  seq : t.nextSeq = s.nextSeq
  xfers : s.xfers = [] → t.xfers = []
  memory : s.xfers = [] → s.noneDirty → t.noneDirty ∧ t.mem = s.mem

/-- Nothing moved. -/
theorem Beside.refl {s : State} (h : s.cur.inRegion = false) : Beside s s := ⟨⟨_, _, _, rfl⟩, h, rfl, rfl, rfl, rfl, id, fun _ hd => ⟨hd, rfl⟩⟩

/-- One after the other. -/
theorem Beside.trans {s t u : State} (h : Beside s t) (k : Beside t u) : Beside s u := by
  obtain ⟨b, r, p, hc⟩ := h.cur
  obtain ⟨b', r', p', kc⟩ := k.cur
  refine ⟨⟨b', r', p', by rw [kc, hc]⟩, k.region, k.loads.trans h.loads, k.path.trans h.path, k.wgs.trans h.wgs, k.seq.trans h.seq,
    fun hx => k.xfers (h.xfers hx), fun hx hd => ?_⟩
  obtain ⟨hd', hm⟩ := h.memory hx hd
  obtain ⟨hd'', hm'⟩ := k.memory (h.xfers hx) hd'
  exact ⟨hd'', hm'.trans hm⟩

/-- Many, one after another. -/
theorem Beside.foldl {α : Type} {f : State → α → State} (hf : ∀ s x, s.cur.inRegion = false → Beside s (f s x)) (xs : List α) {s : State}
    (h : s.cur.inRegion = false) : Beside s (xs.foldl f s) := by
  induction xs generalizing s with
  | nil => exact .refl h
  | cons x xs ih => exact (hf s x h).trans (ih (hf s x h).region)

/-- The team's core does not change. -/
theorem Beside.curCore {s t : State} (h : Beside s t) : t.curCore = s.curCore := by
  obtain ⟨b, r, p, hc⟩ := h.cur
  unfold State.curCore State.curWg State.wg?
  rw [h.wgs, hc]

/-- The end of an instruction beside which caches have moved. -/
theorem Beside.teamKept {s t : State} (hp : s.plain = true) (h : ∃ b r p, t.cur = { s.cur with bindings := b, region := r, pendTraps := p }) :
    TeamKept s (t.setCur t.cur.advance) := by
  obtain ⟨b, r, p, hc⟩ := h
  obtain ⟨-, -, hending, -⟩ := (State.plain_iff s).1 hp
  have hplace := Team.advance_place (t := s.cur) (u := t.cur) (by rw [hc]) (by rw [hc]) (by rw [hc])
  obtain ⟨_, _, _, _, _, ha⟩ := t.cur.advance_eq
  have hrest : t.cur.advance.gen = s.cur.gen ∧ t.cur.advance.park = .running ∧ t.cur.advance.ending = false := by
    rw [ha, hc]
    exact ⟨rfl, rfl, hending⟩
  obtain ⟨hgen, hpark, hend⟩ := hrest
  refine ⟨⟨?_, ?_, ?_, hgen⟩, ⟨?_, ?_, ?_, ?_⟩, ?_, ⟨?_, ?_, ?_⟩, hplace, hpark, hend⟩
  all_goals simp [hc]

/-- One more change of the fabric, or none. -/
theorem FabricOnly.ite {s t u : State} {c : Prop} [Decidable c] (h : FabricOnly s t) (k : FabricOnly t u) :
    FabricOnly s (if c then u else t) := by
  split
  · exact h.trans k
  · exact h

section
variable {s : State} (h : s.cur.inRegion = false)
include h

/-- A change of what coherence keeps, which brings no dirty bytes of software-managed lines. -/
theorem beside_coh {coh : Coherence} (hd : s.noneDirty → ∀ k ∈ coh.copies, k.managed = true → k.dirty = []) :
    Beside s { s with coh := coh } :=
  ⟨⟨_, _, _, rfl⟩, h, rfl, rfl, rfl, rfl, id, fun _ hn => ⟨hd hn, rfl⟩⟩

/-- A change of the fabric, or of free choices left. -/
theorem FabricOnly.beside {t : State} (k : FabricOnly s t) : Beside s t := by
  obtain ⟨fab, fresh, rfl⟩ := k
  exact ⟨⟨_, _, _, rfl⟩, h, rfl, rfl, rfl, rfl, id, fun _ hn => ⟨hn, rfl⟩⟩

omit h in
/-- A change of teams that leaves the issuing one alone but for marks. -/
theorem beside_mapTeams {f : Team → Team} (hf : ∃ b r, f s.cur = { s.cur with bindings := b, region := r })
    (hr : (f s.cur).inRegion = false) : Beside s (s.mapTeams f) := by
  obtain ⟨b, r, hf⟩ := hf
  exact ⟨⟨b, r, s.cur.pendTraps, hf⟩, hr, rfl, rfl, rfl, rfl, id, fun _ hn => ⟨hn, rfl⟩⟩

omit h in
/-- No lane is in a region. -/
theorem Team.open_eq_false {t : Team} (h : t.inRegion = false) {e : Nat × RLane} (he : e ∈ t.region) : e.2.open_ = false := by
  simp only [Team.inRegion, List.any_eq_false] at h
  simpa using h e he

omit h in
/-- A team in no region has no lane whose read set a line leaves. -/
theorem Team.losing_nil {t : Team} (h : t.inRegion = false) (p : Nat × RLane → Bool) :
    maskOf ((t.region.filter (fun e => e.2.open_ && p e)).map (fun e => e.1)) = 0 := by
  have hnone : t.region.filter (fun e => e.2.open_ && p e) = [] :=
    List.filter_eq_nil_iff.2 fun e he => by simp [Team.open_eq_false h he]
  rw [hnone]
  rfl

/-- A team in no region loses no line of a read set. -/
theorem loseLine_cur (core line : Nat) : (s.loseLine core line).cur = s.cur := by
  have hlanes := Team.losing_nil h (fun e => e.2.lines.any (fun l => l.1 == line))
  simp only [State.loseLine, State.mapTeams, hlanes, if_true, ite_self]

/-- Read sets of teams in regions lose a line. -/
theorem beside_loseLine (core line : Nat) : Beside s (s.loseLine core line) := by
  have hcur := loseLine_cur h core line
  exact ⟨⟨_, _, _, hcur⟩, hcur ▸ h, rfl, rfl, rfl, rfl, id, fun _ hn => ⟨hn, rfl⟩⟩

/-- Read sets of teams in regions lose lines. -/
theorem beside_loseLines (hit : Nat → Bool) : Beside s (s.loseLines hit) := by
  have hcur : (s.loseLines hit).cur = s.cur := by
    have hlanes := Team.losing_nil h (fun e => e.2.lines.any (fun l => hit l.1))
    simp only [State.loseLines, State.mapTeams, hlanes, if_true, ite_self]
  exact ⟨⟨_, _, _, hcur⟩, hcur ▸ h, rfl, rfl, rfl, rfl, id, fun _ hn => ⟨hn, rfl⟩⟩

/-! ## Requests and copies (R137, R340) -/

/-- A line asked for to read. -/
theorem beside_askShared (core line : Nat) : Beside s (s.askShared core line) := by
  unfold State.askShared
  split
  · exact .refl h
  · exact beside_coh h fun hd => hd

/-- A line asked for to write. -/
theorem beside_askExclusive (core line : Nat) : Beside s (s.askExclusive core line) := by
  unfold State.askExclusive
  split
  · exact .refl h
  · exact beside_coh h fun hd => hd

/-- A copy dropped. -/
theorem beside_dropCopy (agent line : Nat) : Beside s (s.dropCopy agent line) :=
  beside_coh h fun hd k hk => hd k (List.mem_of_mem_filter hk)

/-- An entry replaced. -/
theorem beside_setDir (line : Nat) (e : DirEntry) : Beside s (s.setDir line e) := beside_coh h fun hd => hd

/-- A line given up. -/
theorem beside_giveUp (agent line : Nat) : Beside s (s.giveUp agent line) := by
  have hdrop := beside_dropCopy h agent line
  unfold State.giveUp
  split
  · exact .refl h
  · dsimp only
    split
    · exact hdrop
    · exact hdrop.trans (beside_coh hdrop.region fun hd => hd)

/-- A hold that ends. -/
theorem beside_releaseHold (streamer line : Nat) : Beside s (s.releaseHold streamer line) := by
  have hdrop := beside_dropCopy h streamer line
  unfold State.releaseHold
  dsimp only
  split
  · exact hdrop.trans (beside_setDir hdrop.region ..)
  · exact hdrop

/-- Holds that no transfer needs. -/
theorem beside_releaseIdle (core : Nat) : Beside s (s.releaseIdle core) := by
  unfold State.releaseIdle
  refine .foldl (fun s line hs => ?_) _ h
  split
  · exact .refl hs
  · exact beside_releaseHold hs ..

/-! ## Writes of copies under way (R209, R211) -/

omit h in
/-- Marks open no region and close none. -/
theorem inRegion_markRegions (lines : List Nat) (t : Team) : (markRegions lines t).inRegion = t.inRegion := by
  simp [markRegions, Team.inRegion, List.any_map, Function.comp_def]

/-- A write that is performed while a copy is under way. -/
theorem beside_perform (hx : s.xfers ≠ []) (cells : List Host.Cell) (team : Nat) (own : Option Nat) (skip : List Nat) :
    Beside s (s.perform cells team own skip) := by
  obtain ⟨b, r, hm⟩ : ∃ b r, (s.perform cells team own skip).cur = { s.cur with bindings := b, region := r } := by
    change ∃ b r, (if skip.contains (s.teamCore s.cur) then settleNotices (linesOf cells) s.cur
      else markRegions (linesOf cells) (markBindings (linesOf cells) team own s.cur)) = _
    split <;> exact ⟨_, _, rfl⟩
  have hr : (s.perform cells team own skip).cur.inRegion = false := by
    change (if skip.contains (s.teamCore s.cur) then settleNotices (linesOf cells) s.cur
      else markRegions (linesOf cells) (markBindings (linesOf cells) team own s.cur)).inRegion = false
    split
    · exact h
    · exact (inRegion_markRegions ..).trans h
  exact ⟨⟨b, r, _, hm⟩, hr, rfl, rfl, rfl, rfl, fun hn => absurd hn hx, fun hn => absurd hn hx⟩

/-- A write in a space, while a copy is under way. -/
theorem beside_performIn (hx : s.xfers ≠ []) (space : Space) (cells : List Host.Cell) (team : Nat) (own : Option Nat) (skip : List Nat) :
    Beside s (s.performIn space cells team own skip) := by
  unfold State.performIn
  split
  · split
    · exact beside_perform h hx ..
    · exact ⟨⟨_, _, _, rfl⟩, h, rfl, rfl, rfl, rfl, fun hn => absurd hn hx, fun hn => absurd hn hx⟩
  · exact beside_perform h hx ..

/-- One transfer changed. -/
theorem beside_modXfer (x y : Xfer) : Beside s (s.modXfer x y) :=
  ⟨⟨_, _, _, rfl⟩, h, rfl, rfl, rfl, rfl, fun hx => by simp [State.modXfer, hx], fun _ hn => ⟨hn, rfl⟩⟩

/-- The transfers of a copy changed. -/
theorem beside_modCopy (core seq : Nat) (f : Xfer → Xfer) : Beside s (s.modCopy core seq f) :=
  ⟨⟨_, _, _, rfl⟩, h, rfl, rfl, rfl, rfl, fun hx => by simp [State.modCopy, hx], fun _ hn => ⟨hn, rfl⟩⟩

/-- One transfer written. -/
theorem beside_putXfer (hx : s.xfers ≠ []) (x : Xfer) : Beside s (s.putXfer x) := by
  have hidle {t : State} (k : Beside s t) (core : Nat) : Beside s (t.releaseIdle core) := k.trans (beside_releaseIdle k.region core)
  unfold State.putXfer
  split
  · exact hidle (beside_modXfer h ..) _
  · split
    · unfold State.copyPoison
      split
      · exact hidle (beside_modCopy h ..) _
      · exact hidle (beside_modCopy h ..) _
    · have hput := beside_performIn h hx x.dstSpace
      exact hidle ((hput _ 0 none []).trans (beside_modXfer (hput _ 0 none []).region ..)) _

/-- The copies that hold lines written. -/
theorem beside_forceCopies (n loc size : Nat) : Beside s (State.forceCopies n loc size s) := by
  induction n generalizing s loc size with
  | zero => exact .refl h
  | succ n ih =>
    unfold State.forceCopies
    refine .foldl (fun s x hs => ?_) _ h
    have hsource := ih hs x.src x.size
    dsimp only
    split
    next y hy =>
      have hx : (State.forceCopies n x.src x.size s).xfers ≠ [] := List.ne_nil_of_mem (List.mem_of_find?_eq_some hy)
      exact hsource.trans (beside_putXfer hsource.region hx y)
    next => exact hsource

/-- A recall. -/
theorem beside_recallCopies (loc size : Nat) : Beside s (s.recallCopies loc size) := by
  unfold State.recallCopies
  split
  · exact .refl h
  · exact beside_forceCopies h 3 loc size

/-! ## The ways of an L1 (R138, R191) -/

/-- A line that leaves an L1. -/
theorem beside_dropL1 (core line : Nat) : Beside s (s.dropL1 core line) := by
  unfold State.dropL1
  dsimp only
  split
  next => exact beside_giveUp h ..
  next k hk =>
    have hfilter : Beside s { s with coh := { s.coh with copies := s.coh.copies.filter (fun x => decide (x ≠ k)) } } :=
      beside_coh h fun hd x hx => hd x (List.mem_of_mem_filter hx)
    split
    · exact hfilter.trans (beside_giveUp hfilter.region ..)
    next hdirty =>
      have hrecall := hfilter.trans (beside_recallCopies hfilter.region (line * 128) 128)
      have hwrite : Beside s ((({ s with coh := { s.coh with copies := s.coh.copies.filter (fun x => decide (x ≠ k)) } } : State).recallCopies
          (line * 128) 128).writeMem k.dirty) := by
        refine ⟨hrecall.cur, hrecall.region, hrecall.loads, hrecall.path, hrecall.wgs, hrecall.seq, hrecall.xfers, fun _ hn => ?_⟩
        have hmanaged : k.managed = true := by
          have hfound := List.find?_some hk
          simp only [Bool.and_eq_true] at hfound
          exact hfound.2
        exact absurd (hn k (List.mem_of_find?_eq_some hk) hmanaged) hdirty
      exact hwrite.trans (beside_giveUp hwrite.region ..)

/-- A way for a line. -/
theorem beside_l1Room (core line : Nat) : Beside s (s.l1Room core line) := by
  unfold State.l1Room
  dsimp only
  split
  · exact .refl h
  · split
    next l _ =>
      have hdraw : Beside s s.draw := ⟨⟨_, _, _, rfl⟩, h, rfl, rfl, rfl, rfl, id, fun _ hn => ⟨hn, rfl⟩⟩
      have hlose := hdraw.trans (beside_loseLine hdraw.region core l)
      exact hlose.trans (beside_dropL1 hlose.region core l)
    next => exact .refl h

/-- A copy installed. -/
theorem beside_setCopy (agent line : Nat) (st : CopyState) (stamp : BitVec 16) : Beside s (s.setCopy agent line st stamp) := by
  have hdrop := beside_dropCopy h agent line
  have hroom : Beside s (if agent < 192 then (s.dropCopy agent line).l1Room agent line else s.dropCopy agent line) := by
    split
    · exact hdrop.trans (beside_l1Room hdrop.region ..)
    · exact hdrop
  refine hroom.trans (beside_coh hroom.region fun hd k hk => ?_)
  rcases List.mem_append.1 hk with hk | hk
  · exact hd k hk
  · rw [List.mem_singleton.1 hk]
    exact fun hm => by cases hm

/-- A software-managed line fetched, clean. -/
theorem beside_fetchManaged (core loc : Nat) : Beside s (s.fetchManaged core loc) := by
  unfold State.fetchManaged
  split
  · exact .refl h
  · have hrecall := beside_recallCopies h (lineOf loc * 128) 128
    have hroom := hrecall.trans (beside_l1Room hrecall.region core (lineOf loc))
    refine hroom.trans (beside_coh hroom.region fun hd k hk => ?_)
    rcases List.mem_append.1 hk with hk | hk
    · exact hd k hk
    · rw [List.mem_singleton.1 hk]
      exact fun _ => rfl

/-! ## The L2 and peers (R339, R425) -/

/-- A line that leaves the L2. -/
theorem beside_l2Leave (line : Nat) : Beside s (s.l2Leave line) := beside_coh h fun hd => hd

/-- The proxy gives up a line. -/
theorem beside_yieldProxy (line : Nat) (again : Bool) : Beside s (s.yieldProxy line again) := by
  unfold State.yieldProxy
  split
  · exact beside_l2Leave h line
  next p _ =>
    have hfab : Beside s (s.dropProxy line) := FabricOnly.beside h ⟨_, _, rfl⟩
    have hleave := hfab.trans (beside_l2Leave hfab.region line)
    have hlose := hleave.trans (beside_loseLines hleave.region (fun l => l == line))
    dsimp only
    refine hlose.trans (FabricOnly.beside hlose.region (.ite ?_ (fabricOnly_request ..)))
    split
    · exact fabricOnly_request ..
    · exact .refl _
    · exact fabricOnly_sendTo ..

/-- A line evicted from the L2. -/
theorem beside_l2Room (line : Nat) : Beside s (s.l2Room line) := by
  unfold State.l2Room
  split
  · exact .refl h
  · split
    next v _ =>
      unfold State.l2Evict
      split
      · exact beside_yieldProxy h v true
      · split
        · have hdir := beside_setDir h v DirEntry.empty
          exact hdir.trans (beside_l2Leave hdir.region v)
        · unfold State.askDrop
          split
          · exact .refl h
          · exact beside_coh h fun hd => hd
    next => exact .refl h

/-- A line brought into its home slice. -/
theorem beside_intoHome (line : Nat) : Beside s (s.intoHome line) := by
  unfold State.intoHome
  split
  · exact beside_l2Room h line
  · exact beside_coh h fun hd => hd

/-! ## Prefetch and maintenance (R148, R149) -/

/-- A prefetch. -/
theorem beside_prefetch (hint : Nat) (space : Space) (loc : Nat) : Beside s (s.prefetch hint space loc) := by
  unfold State.prefetch
  dsimp only
  split
  · split
    · exact beside_intoHome h _
    · exact beside_fetchManaged h ..
  · generalize (if hint = 1 then 0x01 else 0x00) = op
    split
    · exact .refl h
    · exact FabricOnly.beside h (fabricOnly_request ..)
  · exact .refl h
  · split
    · exact .refl h
    · split
      · exact beside_askShared h ..
      · split
        · exact .refl h
        · exact beside_askExclusive h ..
      · exact beside_intoHome h _

/-- A line cleaned. -/
theorem beside_cleanLine (core line : Nat) : Beside s (s.cleanLine core line) := by
  unfold State.cleanLine
  split
  · exact .refl h
  · split
    · exact beside_setCopy h ..
    · split
      · exact (beside_setCopy h ..).trans (beside_setDir (beside_setCopy h ..).region ..)
      · exact .refl h

/-- A line flushed. -/
theorem beside_flushLine (core line : Nat) : Beside s (s.flushLine core line) := by
  have hlose := beside_loseLine h core line
  have hgive := hlose.trans (beside_giveUp hlose.region core line)
  unfold State.flushLine
  dsimp only
  split
  · exact hgive.trans (beside_askShared hgive.region ..)
  · exact hgive

end

end Sys2Proof.Machine
end

section
/-! SUPPORT. Fences, prefetch and cache maintenance (R148–R150). -/

namespace Sys2Proof.Machine

/-! ## Instructions that wait or pass (R150) -/

/-- An instruction whose team waits. -/
theorem issue_parks {sp : Spec} {u : Uses} {conds : Team → State → List Cond} {run : State → Res} {s : State} {p : Park}
    (hp : s.plain = true) (hs : sp.conds s.cur = []) (hc : conds s.cur s = []) (hr : run s = s.parkOn p) :
    issue sp u conds run s = .next (s.setCur { s.cur with park := p }) := by
  rw [issue_plain hp hs hc, hr, State.parkOn, conclude_stay]
  rfl

section
variable {s : State} (hp : s.plain = true)
include hp

/-- FENCEA passes, or waits. -/
theorem exec_fencea : (s.readsDone s.cur.uid s.nextSeq = true → exec .fencea s = .next (s.setCur s.cur.advance)) ∧
    (s.readsDone s.cur.uid s.nextSeq = false → exec .fencea s = .next (s.setCur { s.cur with park := .access })) := by
  obtain ⟨-, -, -, -, hrun, -⟩ := (State.plain_iff s).1 hp
  refine ⟨fun h => issue_done hp (Spec.conds_free rfl rfl) rfl ?_, fun h => issue_parks hp (Spec.conds_free rfl rfl) rfl ?_⟩
  · rw [if_pos h, unpark_of_running hrun]
  · rw [if_neg (by simp [h])]

/-- FENCES passes, or waits. -/
theorem exec_fences : (s.accessesDone s.cur.uid s.nextSeq s.cur.scope = true → exec .fences s = .next (s.setCur s.cur.advance)) ∧
    (s.accessesDone s.cur.uid s.nextSeq s.cur.scope = false → exec .fences s = .next (s.setCur { s.cur with park := .access })) := by
  obtain ⟨-, -, -, -, hrun, -⟩ := (State.plain_iff s).1 hp
  refine ⟨fun h => issue_done hp (Spec.conds_free rfl rfl) rfl ?_, fun h => issue_parks hp (Spec.conds_free rfl rfl) rfl ?_⟩
  · rw [State.released, if_pos h, unpark_of_running hrun]
  · rw [State.released, if_neg (by simp [h])]

/-- FENCER passes, with what earlier fences still hold. -/
theorem exec_fencer_passes (h : s.accessesDone s.cur.uid s.nextSeq s.cur.scope = true) :
    exec .fencer s = .next (s.setCur { s.cur with
      fencer := s.cur.fencer.filter (fun (h : Nat × Nat) => !s.accessesDone s.cur.uid h.1 h.2) }.advance) :=
  issue_done_cur hp (Spec.conds_free rfl rfl) rfl (if_pos h)

/-- FENCER holds later writes. -/
theorem exec_fencer_holds (h : s.accessesDone s.cur.uid s.nextSeq s.cur.scope = false) :
    ∃ t, exec .fencer s = .next t ∧ t.cur = { s.cur with
      fencer := s.cur.fencer.filter (fun (h : Nat × Nat) => !s.accessesDone s.cur.uid h.1 h.2) ++ [(s.nextSeq, s.cur.scope)] }.advance ∧
      t.mem = s.mem ∧ t.path = s.path ∧ t.loads = s.loads :=
  ⟨_, issue_done hp (Spec.conds_free rfl rfl) rfl (if_neg (by simp [h])), rfl, rfl, rfl, rfl⟩

/-- PFT asks for lines, and changes nothing that the program sees (R148). -/
theorem exec_pft {d a b : Code} (hd : d.toNat ≤ 2) (ha : baseOk s.cur a = true) (hb : srcOk s.cur false b = true) :
    ∃ t, exec (.pft d a b) s = .next t ∧ TeamKept s t ∧ t.loads = s.loads ∧ t.path = s.path ∧
      (s.noneDirty → s.xfers = [] → ∀ a, t.byte a = s.byte a) := by
  obtain ⟨-, -, -, -, -, hreg, -⟩ := (State.plain_iff s).1 hp
  have hbody : ∃ t, Beside s t ∧ State.runPft d.toNat a b s = .done t := by
    refine ⟨_, .foldl (fun s va hs => ?_) _ hreg, rfl⟩
    split
    · exact .refl hs
    · split
      · exact beside_prefetch hs ..
      · exact .refl hs
  obtain ⟨t, hbeside, hrun⟩ := hbody
  refine ⟨_, issue_done hp (Spec.conds_free rfl rfl) (by simp [hd, ha, hb]) hrun, Beside.teamKept hp hbeside.cur, hbeside.loads,
    hbeside.path, fun hn hx a => ?_⟩
  exact congrArg (cellAt · a) (hbeside.memory hx hn).2

end

/-! ## Copies under the directory (R149, R191) -/

/-- The copy found among those that a filter keeps. -/
theorem copyAt_filter {s t : State} {p : Copy → Bool} (ht : t.coh.copies = s.coh.copies.filter p) {agent line : Nat}
    (h : ∀ k : Copy, (k.agent == agent && k.line == line && !k.managed) = true → p k = true) : t.copyAt agent line = s.copyAt agent line := by
  simp only [State.copyAt, ht, List.find?_filter]
  congr 1
  funext k
  cases hk : k.agent == agent && k.line == line && !k.managed
  · simp
  · simp [h k hk]

/-- No copy is found where a filter keeps none. -/
theorem copyAt_filter_none {s t : State} {p : Copy → Bool} (ht : t.coh.copies = s.coh.copies.filter p) {agent line : Nat}
    (h : ∀ k : Copy, (k.agent == agent && k.line == line && !k.managed) = true → p k = false) : t.copyAt agent line = none := by
  rw [State.copyAt, ht, List.find?_eq_none]
  intro k hk
  obtain ⟨-, hp⟩ := List.mem_filter.1 hk
  intro hq
  simp [h k hq] at hp

/-- An agent's copy of a line is not dirty. -/
def CleanAt (s : State) (agent line : Nat) : Prop := ∀ k, s.copyAt agent line = some k → k.st ≠ .m ∧ k.st ≠ .o

/-- The copy of a line is as it was, or gone. -/
def CopyKept (s t : State) (agent line : Nat) : Prop := t.copyAt agent line = s.copyAt agent line ∨ t.copyAt agent line = none

section
variable {s t u : State} {agent line : Nat}

theorem CopyKept.trans (h : CopyKept s t agent line) (k : CopyKept t u agent line) : CopyKept s u agent line := by
  rcases k with k | k
  · rcases h with h | h
    · exact .inl (k.trans h)
    · exact .inr (k.trans h)
  · exact .inr k

/-- A copy that is not dirty does not become so. -/
theorem CopyKept.clean (h : CopyKept s t agent line) (hc : CleanAt s agent line) : CleanAt t agent line := by
  rcases h with h | h
  · unfold CleanAt
    rwa [h]
  · intro k hk
    rw [h] at hk
    cases hk

/-- Copies are left alone. -/
theorem copyKept_of_eq (h : t.coh.copies = s.coh.copies) : CopyKept s t agent line := by
  unfold CopyKept State.copyAt
  rw [h]
  exact .inl rfl

end

section
variable (s : State) (agent line : Nat)

/-- The copies after one is dropped. -/
theorem dropCopy_copyAt (l : Nat) : (s.dropCopy agent l).copyAt agent line = if line = l then none else s.copyAt agent line := by
  split
  next h =>
    subst h
    refine copyAt_filter_none rfl fun k hk => ?_
    simp only [Bool.and_eq_true, Bool.not_eq_true'] at hk
    obtain ⟨⟨h1, h2⟩, h3⟩ := hk
    simp [h1, h2, h3]
  next h =>
    refine copyAt_filter rfl fun k hk => ?_
    simp only [Bool.and_eq_true, Bool.not_eq_true', beq_iff_eq] at hk
    obtain ⟨⟨-, h2⟩, -⟩ := hk
    simp [h2, h]

/-- A copy dropped. -/
theorem copyKept_dropCopy (l : Nat) : CopyKept s (s.dropCopy agent l) agent line := by
  unfold CopyKept
  rw [dropCopy_copyAt]
  split
  · exact .inr rfl
  · exact .inl rfl

/-- A line given up. -/
theorem copyKept_giveUp (l : Nat) : CopyKept s (s.giveUp agent l) agent line := by
  unfold State.giveUp
  split
  · exact copyKept_of_eq rfl
  · dsimp only
    split
    · exact copyKept_dropCopy ..
    · exact (copyKept_dropCopy s agent line l).trans (copyKept_of_eq rfl)

/-- A line that leaves an L1. -/
theorem copyKept_dropL1 (hx : s.xfers = []) (l : Nat) : CopyKept s (s.dropL1 agent l) agent line := by
  unfold State.dropL1
  dsimp only
  split
  next => exact copyKept_giveUp ..
  next k hk =>
    have hmanaged : k.managed = true := by
      have hfound := List.find?_some hk
      simp only [Bool.and_eq_true] at hfound
      exact hfound.2
    have hfilter : CopyKept s { s with coh := { s.coh with copies := s.coh.copies.filter (fun x => decide (x ≠ k)) } } agent line := by
      refine .inl (copyAt_filter rfl fun x hx => ?_)
      simp only [decide_eq_true_eq]
      rintro rfl
      simp [hmanaged] at hx
    refine hfilter.trans (CopyKept.trans ?_ (copyKept_giveUp ..))
    split
    · exact copyKept_of_eq rfl
    · refine copyKept_of_eq ?_
      rw [State.recallCopies, if_pos hx]
      rfl

/-- A way made free. -/
theorem copyKept_l1Room (hx : s.xfers = []) (l : Nat) : CopyKept s (s.l1Room agent l) agent line := by
  unfold State.l1Room
  dsimp only
  split
  · exact copyKept_of_eq rfl
  · split
    next n _ => exact CopyKept.trans (t := s.draw.loseLine agent n) (copyKept_of_eq rfl) (copyKept_dropL1 (s.draw.loseLine agent n) agent line hx n)
    next => exact copyKept_of_eq rfl

/-- A copy installed: it is the one found, and the others are as they were, or gone. -/
theorem setCopy_copyAt (hx : s.xfers = []) (l : Nat) (st : CopyState) (stamp : BitVec 16) :
    (line = l → ∃ k, (s.setCopy agent l st stamp).copyAt agent line = some k ∧ k.st = st) ∧
      (line ≠ l → CopyKept s (s.setCopy agent l st stamp) agent line) := by
  obtain ⟨r, hr, hkept⟩ : ∃ r : State, (∃ k : Copy, k.agent = agent ∧ k.line = l ∧ k.managed = false ∧ k.st = st ∧
      (s.setCopy agent l st stamp).coh.copies = r.coh.copies ++ [k]) ∧ CopyKept (s.dropCopy agent l) r agent line := by
    unfold State.setCopy
    dsimp only
    split
    · exact ⟨_, ⟨_, rfl, rfl, rfl, rfl, rfl⟩, copyKept_l1Room (s.dropCopy agent l) agent line hx l⟩
    · exact ⟨_, ⟨_, rfl, rfl, rfl, rfl, rfl⟩, copyKept_of_eq rfl⟩
  obtain ⟨k, ha, hl, hm, hst, hcopies⟩ := hr
  have hfind : (s.setCopy agent l st stamp).copyAt agent line = (r.copyAt agent line).or (if line = l then some k else none) := by
    rw [State.copyAt, hcopies, List.find?_append]
    congr 1
    by_cases h : line = l
    · simp [ha, hl, hm, h]
    · simp [hl, h, Ne.symm h]
  rw [hfind]
  refine ⟨fun h => ⟨k, ?_, hst⟩, fun h => ?_⟩
  · have hnone : r.copyAt agent line = none := by
      rcases hkept with hkept | hkept
      · rw [hkept, dropCopy_copyAt, if_pos h]
      · exact hkept
    rw [hnone, if_pos h, Option.none_or]
  · have hrest := (copyKept_dropCopy s agent line l).trans hkept
    unfold CopyKept at hrest ⊢
    rwa [hfind, if_neg h, Option.or_none]

/-- A line cleaned is clean, and no other becomes dirty. -/
theorem cleanLine_clean (hx : s.xfers = []) (l : Nat) : (line = l ∨ CleanAt s agent line) → CleanAt (s.cleanLine agent l) agent line := by
  have hset (st : CopyState) (stamp : BitVec 16) (hst : st ≠ .m ∧ st ≠ .o) :
      (line = l ∨ CleanAt s agent line) → CleanAt (s.setCopy agent l st stamp) agent line := by
    intro hl
    obtain ⟨hsame, hother⟩ := setCopy_copyAt s agent line hx l st stamp
    by_cases h : line = l
    · obtain ⟨k, hk, hks⟩ := hsame h
      intro x hx
      rw [hk] at hx
      cases hx
      rwa [hks]
    · exact (hother h).clean (hl.resolve_left h)
  intro hl
  unfold State.cleanLine
  split
  next hnone =>
    rcases hl with rfl | hl
    · intro k hk
      rw [hnone] at hk
      cases hk
    · exact hl
  next k hk =>
    split
    · exact hset _ _ (by decide) hl
    · split
      · exact (copyKept_of_eq (s := s.setCopy agent l .s (s.grantStamp agent)) rfl).clean (hset _ _ (by decide) hl)
      next hm ho =>
        rcases hl with rfl | hl
        · intro x hx
          rw [hk] at hx
          cases hx
          exact ⟨by simpa using hm, by simpa using ho⟩
        · exact hl

/-- A line flushed leaves the agent without a copy of it, and brings none. -/
theorem flushLine_copies (l : Nat) : (∀ k ∈ (s.flushLine agent l).coh.copies, k ∈ s.coh.copies) ∧
    (∀ k ∈ (s.flushLine agent l).coh.copies, k.agent = agent → k.line = l → k.managed = true) := by
  have hask (t : State) : (t.askShared agent l).coh.copies = t.coh.copies := by
    unfold State.askShared
    split <;> rfl
  have hflush : (s.flushLine agent l).coh.copies = ((s.loseLine agent l).giveUp agent l).coh.copies := by
    unfold State.flushLine
    dsimp only
    split
    · exact hask _
    · rfl
  have hgive : ((s.loseLine agent l).giveUp agent l).coh.copies = s.coh.copies ∧ s.copyAt agent l = none ∨
      ((s.loseLine agent l).giveUp agent l).coh.copies = (s.dropCopy agent l).coh.copies := by
    have hcopy : (s.loseLine agent l).copyAt agent l = s.copyAt agent l := rfl
    unfold State.giveUp
    rw [hcopy]
    split
    next hnone => exact .inl ⟨rfl, hnone⟩
    next =>
      refine .inr ?_
      dsimp only
      split <;> rfl
  rw [hflush]
  rcases hgive with ⟨hsame, hnone⟩ | hdrop
  · rw [hsame]
    refine ⟨fun _ => id, fun k hk ha hl => ?_⟩
    rw [State.copyAt, List.find?_eq_none] at hnone
    simpa [ha, hl] using hnone k hk
  · rw [hdrop]
    refine ⟨fun k hk => List.mem_of_mem_filter hk, fun k hk ha hl => ?_⟩
    obtain ⟨-, hp⟩ := List.mem_filter.1 hk
    simpa [ha, hl] using hp

/-- A line flushed leaves memory alone. -/
theorem flushLine_mem (l : Nat) : (s.flushLine agent l).mem = s.mem := by
  have hask (t : State) : (t.askShared agent l).mem = t.mem := by
    unfold State.askShared
    split <;> rfl
  have hgive (t : State) : (t.giveUp agent l).mem = t.mem := by
    unfold State.giveUp
    split
    · rfl
    · dsimp only
      split <;> rfl
  unfold State.flushLine
  dsimp only
  split
  · exact (hask _).trans (hgive _)
  · exact hgive _

end

/-! ## Many lines (R149, R209) -/

/-- One line of hardware-coherent memory acted on. -/
def State.maintain (s : State) (kind line : Nat) : State :=
  if kind = 1 then s.cleanLine s.curCore line else s.flushLine s.curCore line

/-- What maintenance finds at a line of hardware-coherent memory: nothing of the team is performed first. -/
theorem cacheLine_hardware {s : State} (hx : s.xfers = []) (hl : ∀ x ∈ s.loads, x.team = s.cur.uid → x.value ≠ none) (kind loc : Nat) :
    s.cacheLine kind .hardware loc = s.maintain kind (lineOf loc) := by
  simp only [State.cacheLine, State.recallCopies, hx, if_true, forceLoads_done hl]
  rfl

/-- One line acted on. -/
theorem beside_maintain {s : State} (h : s.cur.inRegion = false) (kind line : Nat) : Beside s (s.maintain kind line) := by
  unfold State.maintain
  split
  · exact beside_cleanLine h ..
  · exact beside_flushLine h ..

/-- Lines of hardware-coherent memory acted on, one after another. -/
theorem foldl_cacheLine {s : State} (h : s.cur.inRegion = false) (hx : s.xfers = [])
    (hl : ∀ x ∈ s.loads, x.team = s.cur.uid → x.value ≠ none) (kind : Nat) {lines : List (Bool × Space × Nat)}
    (hlines : ∀ x ∈ lines, x.1 = false ∧ x.2.1 = .hardware) :
    lines.foldl (fun s x => s.cacheLine (if x.1 && kind = 2 then 0 else kind) x.2.1 x.2.2) s =
        (lines.map (fun x => lineOf x.2.2)).foldl (fun s line => s.maintain kind line) s ∧
      Beside s ((lines.map (fun x => lineOf x.2.2)).foldl (fun s line => s.maintain kind line) s) := by
  induction lines generalizing s with
  | nil => exact ⟨rfl, .refl h⟩
  | cons x lines ih =>
    obtain ⟨hback, hspace⟩ := hlines x (by simp)
    have hone := beside_maintain h kind (lineOf x.2.2)
    obtain ⟨b, r, p, hcur⟩ := hone.cur
    obtain ⟨hfold, hbeside⟩ := ih hone.region (hone.xfers hx) (by rw [hone.loads, hcur]; exact hl) fun y hy => hlines y (by simp [hy])
    refine ⟨?_, hone.trans hbeside⟩
    rw [List.foldl_cons, List.map_cons, List.foldl_cons, hspace, cacheLine_hardware hx hl, hback]
    exact hfold

/-- Lines cleaned. -/
theorem foldl_clean {s : State} (h : s.cur.inRegion = false) (hx : s.xfers = []) (lines : List Nat) :
    ∀ line, line ∈ lines ∨ CleanAt s s.curCore line → CleanAt (lines.foldl (fun s l => s.maintain 1 l) s) s.curCore line := by
  induction lines generalizing s with
  | nil => exact fun line hl => hl.resolve_left (by simp)
  | cons l lines ih =>
    intro line hl
    have hone := beside_maintain h 1 l
    have hrest := ih hone.region (hone.xfers hx) line
    rw [hone.curCore] at hrest
    refine hrest ?_
    by_cases hm : line ∈ lines
    · exact .inl hm
    · refine .inr (cleanLine_clean s s.curCore line hx l (hl.imp_left fun hl => ?_))
      exact (List.mem_cons.1 hl).resolve_right hm

/-- Lines flushed. -/
theorem foldl_flush {s : State} (h : s.cur.inRegion = false) {kind : Nat} (hk : kind ≠ 1) (lines : List Nat) :
    let t := lines.foldl (fun s l => s.maintain kind l) s
    t.mem = s.mem ∧ (∀ k ∈ t.coh.copies, k ∈ s.coh.copies) ∧
      ∀ k ∈ t.coh.copies, k.agent = s.curCore → k.line ∈ lines → k.managed = true := by
  induction lines generalizing s with
  | nil => exact ⟨rfl, fun _ => id, by simp⟩
  | cons l lines ih =>
    have hone := beside_maintain h kind l
    have hflush : s.maintain kind l = s.flushLine s.curCore l := if_neg hk
    obtain ⟨hmem, hsub, hgone⟩ := ih hone.region
    rw [hone.curCore] at hgone
    rw [hflush] at hmem hsub hgone
    obtain ⟨hsub', hgone'⟩ := flushLine_copies s s.curCore l
    simp only [List.foldl_cons, hflush]
    refine ⟨hmem.trans (flushLine_mem ..), fun k hk => hsub' k (hsub k hk), fun k hk ha hl => ?_⟩
    rcases List.mem_cons.1 hl with hl | hl
    · exact hgone' k (hsub k hk) ha hl
    · exact hgone k hk ha hl

/-! ## The instructions (R149) -/

/-- A line begins in its location's page, at the same store. -/
theorem memberStopped_line (s : State) (loc : Nat) : s.memberStopped (loc / 128 * 128) = s.memberStopped loc := by
  have hkind : locKind (loc / 128 * 128) = locKind loc := by
    unfold locKind
    omega
  have hid : locId (loc / 128 * 128) = locId loc := by
    unfold locId
    omega
  simp only [State.memberStopped, hkind, hid]

/-- A line begins in its location's page. -/
theorem drained_line (s : State) (loc : Nat) : s.drained (loc / 128 * 128) = s.drained loc := by
  have hpage : loc / 128 * 128 / 4096 = loc / 4096 := by omega
  simp only [State.drained, hpage]

/-- The bytes that maintenance names, one for each contributing lane. -/
def Team.cacheAccesses (t : Team) (a b : Code) : List (Nat × DWord × Nat) := t.contribLanes.map (fun l => (l, t.effective l a b, 1))

/-- The lines that maintenance names, each once. -/
def cacheLines (f : Nat → Space × Nat) (lanes : List Nat) : List (Bool × Space × Nat) :=
  (lanes.map (fun l => (false, (f l).1, lineOf (f l).2 * 128))).eraseDups

/-- The state when the lines of a maintenance instruction have been acted on. -/
def State.maintained (s : State) (kind : Nat) (f : Nat → Space × Nat) : State :=
  ((cacheLines f s.cur.contribLanes).map (fun x => lineOf x.2.2)).foldl (fun s line => s.maintain kind line) s

/-- The line of a lane is among those that maintenance names. -/
theorem lineOf_mem_cacheLines {f : Nat → Space × Nat} {lanes : List Nat} {l : Nat} (hl : l ∈ lanes) :
    (f l).2 / 128 ∈ (cacheLines f lanes).map (fun x => lineOf x.2.2) := by
  refine List.mem_map.2 ⟨(false, (f l).1, lineOf (f l).2 * 128), List.mem_eraseDups.2 (List.mem_map.2 ⟨l, hl, rfl⟩), ?_⟩
  exact Nat.mul_div_cancel _ (by decide)

/-- The lines of sites whose places are known. -/
theorem linesOf_sitesAt {g : Nat × Site → Option (Bool × Space × Nat)} (f : Nat → Space × Nat) (lanes : List Nat)
    (hg : ∀ l, g (l, .at_ (f l).1 (f l).2) = some (false, (f l).1, lineOf (f l).2 * 128)) :
    ((sitesAt f lanes).filterMap g).eraseDups = cacheLines f lanes := by
  have hcomp : g ∘ (fun l => (l, Site.at_ (f l).1 (f l).2)) = fun l => some (false, (f l).1, lineOf (f l).2 * 128) := funext hg
  rw [sitesAt, List.filterMap_map, hcomp, List.filterMap_eq_map', cacheLines]

/-- An address outside the aperture is translated. -/
theorem stage1_virtual (s : State) (t : Team) (l : Nat) {va : DWord} (need : Need) (h : inAperture va = false) :
    s.stage1 t l va 1 need = .ok (.virtual va) := by
  simp [State.stage1, h, Nat.mod_one]

section
variable {s : State} {a b : Code} {f : Nat → Space × Nat} {kind : Nat} (hp : s.plain = true) (hq : s.quiet)
  (hfab : ∀ x ∈ s.fab.txns, x.write = [])
  (hva : ∀ l ∈ s.cur.contribLanes, inAperture (s.cur.effective l a b) = false ∧ (f l).1 = .hardware)
  (hpl : s.placed (cacheNeed (kind = 2)) (s.cur.cacheAccesses a b) f)

omit hp hq hfab hpl in
include hva in
/-- Every lane's address is translated. -/
theorem cacheAccesses_virtual : ∀ x ∈ s.cur.cacheAccesses a b,
    s.preOf s.cur (cacheNeed false) x.1 x.2.1 1 = .virtual x.2.1 ∧ inAperture x.2.1 = false := by
  intro x hx
  obtain ⟨l, hl, rfl⟩ := List.mem_map.1 hx
  obtain ⟨hout, -⟩ := hva l hl
  exact ⟨by rw [State.preOf, stage1_virtual s s.cur l (cacheNeed false) hout], hout⟩

include hp hq hfab hva hpl in
/-- The body of a maintenance instruction acts on its lines, one after another. -/
theorem runCache_done : State.runCache kind a b s =
    .done (s.maintained kind f).takeSeq := by
  obtain ⟨-, -, -, -, hrun, hregion, -⟩ := (State.plain_iff s).1 hp
  have hquiet := hq
  obtain ⟨hx, hloads, hpath, -, htxns, -⟩ := hq
  have hlanes : (s.cur.cacheAccesses a b).map (fun x => x.1) = s.cur.contribLanes := by
    rw [Team.cacheAccesses, List.map_map]
    exact List.map_id _
  have hvirtual := cacheAccesses_virtual hva
  have hback : (s.cur.cacheAccesses a b).filter (fun x => inAperture x.2.1) = [] :=
    List.filter_eq_nil_iff.2 fun x hx => by simp [(hvirtual x hx).2]
  have hsites := placed_sites hpl
  have hplaces := placesOf_sitesAt f (s.cur.cacheAccesses a b)
  rw [hlanes] at hsites hplaces
  have hwait : s.mustWait .write (((s.cur.cacheAccesses a b).map (fun x => (x.2.1.toNat, (f x.1).2, x.2.2))).map
      (fun p => (p.1 / 128 * 128, p.2.1 / 128 * 128, 128))) = false := by
    refine mustWait_quiet hquiet fun p hm => ?_
    rw [List.map_map] at hm
    obtain ⟨x, hx, rfl⟩ := List.mem_map.1 hm
    obtain ⟨-, hstop, hdrain, -⟩ := hpl.2.2 x hx
    exact ⟨(memberStopped_line ..).trans hstop, (drained_line ..).trans hdrain⟩
  have hway (line : Nat) : s.writesOnWay line = false := by
    simp only [State.writesOnWay, hpath, htxns, List.any_nil, Bool.false_or, List.any_eq_false]
    intro x hm
    simp [hfab x hm]
  have hdone : ∀ x ∈ cacheLines f s.cur.contribLanes, x.1 = false ∧ x.2.1 = .hardware := by
    intro x hm
    obtain ⟨l, hl, rfl⟩ := List.mem_map.1 (List.mem_eraseDups.1 hm)
    exact ⟨rfl, (hva l hl).2⟩
  obtain ⟨hfold, -⟩ := foldl_cacheLine hregion hx (fun y hy => (hloads y hy).2) kind hdone
  have hacc : s.cur.contribLanes.map (fun l => (l, s.cur.addr l a b, 1)) = s.cur.cacheAccesses a b := rfl
  have hany (lines : List (Bool × Space × Nat)) : lines.any (fun x => s.writesOnWay (lineOf x.2.2)) = false :=
    List.any_eq_false.2 fun x _ => by simp [hway]
  unfold State.runCache
  dsimp only
  rw [hacc, List.filter_eq_self.2 fun x hx => by rw [(hvirtual x hx).1], hback, hsites]
  dsimp only
  rw [linesOf_sitesAt f s.cur.contribLanes fun l => by simp [maskOf], hplaces, hwait, hany, unpark_of_running hrun, hfold, afterSites_sitesAt]
  rfl

end

section
variable {s : State} {a b : Code} {f : Nat → Space × Nat} (hp : s.plain = true) (hset : s.hasSetb = true) (hq : s.quiet)
  (hfab : ∀ x ∈ s.fab.txns, x.write = []) (ha : baseOk s.cur a = true) (hb : srcOk s.cur false b = true)
  (hva : ∀ l ∈ s.cur.contribLanes, inAperture (s.cur.effective l a b) = false ∧ (f l).1 = .hardware)
include hp hset hq hfab ha hb hva

/-- A maintenance instruction acts on its lines and goes on. -/
theorem issueCache_done {kind : Nat} (hpl : s.placed (cacheNeed (kind = 2)) (s.cur.cacheAccesses a b) f) :
    issueCache kind a b s = .next ((s.maintained kind f).takeSeq.setCur (s.maintained kind f).cur.advance) := by
  refine issue_done hp (Spec.conds_nil nofun nofun fun _ => hset) ?_ (runCache_done hp hq hfab hva hpl)
  rw [if_pos (by simp [ha, hb])]
  refine List.flatMap_eq_nil_iff.2 fun l hl => ?_
  have hout : inAperture (s.cur.addr l a b) = false := (hva l hl).1
  rw [State.cacheCond, stage1_virtual s s.cur l (cacheNeed false) hout]

omit hset hfab ha hb in
/-- Caches have moved beside the team. -/
theorem beside_maintained (kind : Nat) : Beside s (s.maintained kind f) := by
  obtain ⟨-, -, -, -, -, hregion, -⟩ := (State.plain_iff s).1 hp
  obtain ⟨hx, hloads, -⟩ := hq
  refine (foldl_cacheLine hregion hx (fun y hy => (hloads y hy).2) kind fun x hm => ?_).2
  obtain ⟨l, hl, rfl⟩ := List.mem_map.1 (List.mem_eraseDups.1 hm)
  exact ⟨rfl, (hva l hl).2⟩

/-- CFLUSH and CINV leave the core without copies of their lines. -/
theorem issueCache_flushes {kind : Nat} (hk : kind ≠ 1) (hpl : s.placed (cacheNeed (kind = 2)) (s.cur.cacheAccesses a b) f) :
    ∃ t, issueCache kind a b s = .next t ∧ TeamKept s t ∧ (∀ a, t.byte a = s.byte a) ∧ ∀ l ∈ s.cur.contribLanes,
      ∀ k ∈ t.coh.copies, k.agent = s.curCore → k.line = (f l).2 / 128 → k.managed = true := by
  obtain ⟨-, -, -, -, -, hregion, -⟩ := (State.plain_iff s).1 hp
  obtain ⟨hmem, -, hgone⟩ := foldl_flush hregion hk ((cacheLines f s.cur.contribLanes).map (fun x => lineOf x.2.2))
  refine ⟨_, issueCache_done hp hset hq hfab ha hb hva hpl, Beside.teamKept hp (beside_maintained hp hq hva kind).cur, fun a => ?_,
    fun l hl k hm hagent hline => hgone k hm hagent ?_⟩
  · exact congrArg (cellAt · a) hmem
  · rw [hline]
    exact lineOf_mem_cacheLines hl

/-- CCLEAN leaves the core without dirty copies of its lines. -/
theorem issueCache_cleans (hpl : s.placed Need.load (s.cur.cacheAccesses a b) f) :
    ∃ t, issueCache 1 a b s = .next t ∧ TeamKept s t ∧ (s.noneDirty → ∀ a, t.byte a = s.byte a) ∧
      ∀ l ∈ s.cur.contribLanes, CleanAt t s.curCore ((f l).2 / 128) := by
  obtain ⟨-, -, -, -, -, hregion, -⟩ := (State.plain_iff s).1 hp
  have hbeside := beside_maintained hp hq hva 1
  refine ⟨_, issueCache_done hp hset hq hfab ha hb hva hpl, Beside.teamKept hp hbeside.cur, fun hn a => ?_, fun l hl => ?_⟩
  · exact congrArg (cellAt · a) (hbeside.memory hq.1 hn).2
  · exact foldl_clean hregion hq.1 _ _ (.inl (lineOf_mem_cacheLines hl))

end

/-- Settles O31: fences pass or wait by what is outstanding; prefetch and maintenance act beside the team, line by line. -/
theorem fencesAndCacheMaintenance : Obligations.FencesAndCacheMaintenance := by
  unfold Obligations.FencesAndCacheMaintenance
  refine ⟨fun s d a b hp => ?_, fun s a b f hp hset hq hfab ha hb hva => ⟨fun hpl => ?_, fun hpl => ?_⟩⟩
  · obtain ⟨hdone, hwait⟩ := exec_fencea hp
    obtain ⟨hpass, hstay⟩ := exec_fences hp
    exact ⟨hdone, hwait, fun h => ⟨hpass h, exec_fencer_passes hp h⟩, fun h => ⟨hstay h, exec_fencer_holds hp h⟩,
      fun hd ha hb => exec_pft hp hd ha hb⟩
  · exact ⟨issueCache_flushes (kind := 0) hp hset hq hfab ha hb hva (by decide) hpl, issueCache_cleans hp hset hq hfab ha hb hva hpl⟩
  · exact issueCache_flushes (kind := 2) hp hset hq hfab ha hb hva (by decide) hpl

end Sys2Proof.Machine
end

section
/-! SUPPORT. Loads that start: what an instruction lists, and what it reads at once where its lanes meet (R135, R138, R143, R145). -/

namespace Sys2Proof.Machine

/-! ## Fetching a software-managed line moves caches only (R138, R191) -/

/-- Nothing changes but caches, memory behind them, free choices, and what other teams mark. -/
def CachesOnly (s t : State) : Prop :=
  ∃ coh mem poison fresh others, t = { s with coh := coh, mem := mem, poison := poison, fresh := fresh, others := others }

/-- One after the other. -/
theorem CachesOnly.trans {s t u : State} (h : CachesOnly s t) (k : CachesOnly t u) : CachesOnly s u := by
  obtain ⟨_, _, _, _, _, rfl⟩ := h
  obtain ⟨_, _, _, _, _, rfl⟩ := k
  exact ⟨_, _, _, _, _, rfl⟩

/-- The issuing team stays. -/
theorem CachesOnly.cur {s t : State} (h : CachesOnly s t) : t.cur = s.cur := by
  obtain ⟨_, _, _, _, _, rfl⟩ := h
  rfl

/-- Copies stay under way, or none are. -/
theorem CachesOnly.xfers {s t : State} (h : CachesOnly s t) : t.xfers = s.xfers := by
  obtain ⟨_, _, _, _, _, rfl⟩ := h
  rfl

/-- A line given up. -/
theorem cachesOnly_giveUp (s : State) (agent line : Nat) : CachesOnly s (s.giveUp agent line) := by
  unfold State.giveUp
  split
  · exact ⟨_, _, _, _, _, rfl⟩
  · dsimp only
    split
    · exact ⟨_, _, _, _, _, rfl⟩
    · exact ⟨_, _, _, _, _, rfl⟩

/-- Read sets of teams in regions lose a line. -/
theorem cachesOnly_loseLine {s : State} (h : s.cur.inRegion = false) (core line : Nat) : CachesOnly s (s.loseLine core line) := by
  have hcur := loseLine_cur h core line
  refine ⟨s.coh, s.mem, s.poison, s.fresh, (s.loseLine core line).others, ?_⟩
  conv_rhs => rw [← hcur]
  rfl

/-- A line that leaves an L1. -/
theorem cachesOnly_dropL1 {s : State} (hx : s.xfers = []) (core line : Nat) : CachesOnly s (s.dropL1 core line) := by
  unfold State.dropL1
  dsimp only
  split
  next => exact cachesOnly_giveUp ..
  next k _ =>
    refine CachesOnly.trans ?_ (cachesOnly_giveUp ..)
    split
    · exact ⟨_, _, _, _, _, rfl⟩
    · rw [State.recallCopies, if_pos hx]
      exact ⟨_, _, _, _, _, rfl⟩

/-- A way for a line. -/
theorem cachesOnly_l1Room {s : State} (h : s.cur.inRegion = false) (hx : s.xfers = []) (core line : Nat) :
    CachesOnly s (s.l1Room core line) := by
  unfold State.l1Room
  dsimp only
  split
  · exact ⟨_, _, _, _, _, rfl⟩
  · split
    next l _ =>
      have hlose := CachesOnly.trans (s := s) ⟨_, _, _, _, _, rfl⟩ (cachesOnly_loseLine (s := s.draw) h core l)
      exact hlose.trans (cachesOnly_dropL1 (hlose.xfers.trans hx) core l)
    next => exact ⟨_, _, _, _, _, rfl⟩

/-- A software-managed line fetched. -/
theorem cachesOnly_fetchManaged {s : State} (h : s.cur.inRegion = false) (hx : s.xfers = []) (core loc : Nat) :
    CachesOnly s (s.fetchManaged core loc) := by
  unfold State.fetchManaged
  split
  · exact ⟨_, _, _, _, _, rfl⟩
  · unfold State.putManaged
    rw [State.recallCopies, if_pos hx]
    exact (cachesOnly_l1Room h hx core (lineOf loc)).trans ⟨_, _, _, _, _, rfl⟩

/-! ## Reads of the issuing team that take their values (R135, R145) -/

/-- A load is as it was, or is the team's and has its value now. -/
def Filled (u : Nat) (x y : Load) : Prop := y = x ∨ x.team = u ∧ x.value = none ∧ ∃ v, y = { x with value := some v }

/-- A load without a value has not been read. -/
theorem Filled.eq_of_none {u : Nat} {x y : Load} (h : Filled u x y) (hy : y.value = none) : y = x := by
  rcases h with h | ⟨-, -, v, rfl⟩
  · exact h
  · cases hy

/-- All but the value of a load stays. -/
theorem Filled.same {u : Nat} {x y : Load} (h : Filled u x y) : ∃ v, y = { x with value := v } := by
  rcases h with rfl | ⟨-, -, v, rfl⟩
  · exact ⟨_, rfl⟩
  · exact ⟨_, rfl⟩

/-- One after the other. -/
theorem Filled.trans {u : Nat} {x y z : Load} (h : Filled u x y) (k : Filled u y z) : Filled u x z := by
  rcases k with rfl | ⟨hteam, hnone, v, rfl⟩
  · exact h
  · have hxy := h.eq_of_none hnone
    subst hxy
    exact .inr ⟨hteam, hnone, v, rfl⟩

/-- No unread load of the issuing team is in software-managed memory, whose read fetches a line. -/
def State.fetchesNone (s : State) : Prop := ∀ x ∈ s.loads, x.team = s.cur.uid → x.value = none → x.space ≠ .software

/-- Some loads of the issuing team have been read, and caches have moved with them. -/
structure HasRead (s t : State) : Prop where
  frame : ∃ coh mem poison fresh others loads, t = { s with
    coh := coh, mem := mem, poison := poison, fresh := fresh, others := others, loads := loads }
  forth : ∀ x ∈ s.loads, ∃ y ∈ t.loads, Filled s.cur.uid x y
  back : ∀ y ∈ t.loads, ∃ x ∈ s.loads, Filled s.cur.uid x y
  dirty : s.noneDirty → t.noneDirty ∧ t.mem = s.mem
  plain : s.fetchesNone → t.mem = s.mem

section
variable {s t u : State}

theorem HasRead.cur (h : HasRead s t) : t.cur = s.cur := by
  obtain ⟨_, _, _, _, _, _, rfl⟩ := h.frame
  rfl

theorem HasRead.xfers (h : HasRead s t) : t.xfers = s.xfers := by
  obtain ⟨_, _, _, _, _, _, rfl⟩ := h.frame
  rfl

theorem HasRead.path (h : HasRead s t) : t.path = s.path := by
  obtain ⟨_, _, _, _, _, _, rfl⟩ := h.frame
  rfl

theorem HasRead.seq (h : HasRead s t) : t.nextSeq = s.nextSeq := by
  obtain ⟨_, _, _, _, _, _, rfl⟩ := h.frame
  rfl

/-- A load that is still unread was there before. -/
theorem HasRead.unread (h : HasRead s t) {y : Load} (hy : y ∈ t.loads) (hn : y.value = none) : y ∈ s.loads := by
  obtain ⟨x, hx, hfill⟩ := h.back y hy
  rwa [hfill.eq_of_none hn]

theorem HasRead.fetchesNone (h : HasRead s t) (hn : s.fetchesNone) : t.fetchesNone := by
  intro y hy hteam hnone
  rw [h.cur] at hteam
  exact hn y (h.unread hy hnone) hteam hnone

/-- Nothing read. -/
theorem HasRead.refl (s : State) : HasRead s s :=
  ⟨⟨_, _, _, _, _, _, rfl⟩, fun x hx => ⟨x, hx, .inl rfl⟩, fun x hx => ⟨x, hx, .inl rfl⟩, fun hd => ⟨hd, rfl⟩, fun _ => rfl⟩

/-- One after the other. -/
theorem HasRead.trans (h : HasRead s t) (k : HasRead t u) : HasRead s u := by
  have hcur := h.cur
  refine ⟨?_, fun x hx => ?_, fun z hz => ?_, fun hd => ?_, fun hn => (k.plain (h.fetchesNone hn)).trans (h.plain hn)⟩
  · obtain ⟨_, _, _, _, _, _, rfl⟩ := h.frame
    obtain ⟨_, _, _, _, _, _, rfl⟩ := k.frame
    exact ⟨_, _, _, _, _, _, rfl⟩
  · obtain ⟨y, hy, hxy⟩ := h.forth x hx
    obtain ⟨z, hz, hyz⟩ := k.forth y hy
    rw [hcur] at hyz
    exact ⟨z, hz, hxy.trans hyz⟩
  · obtain ⟨y, hy, hyz⟩ := k.back z hz
    obtain ⟨x, hx, hxy⟩ := h.back y hy
    rw [hcur] at hyz
    exact ⟨x, hx, hxy.trans hyz⟩
  · obtain ⟨hd', hm⟩ := h.dirty hd
    obtain ⟨hd'', hm'⟩ := k.dirty hd'
    exact ⟨hd'', hm'.trans hm⟩

/-- One more load listed. -/
theorem HasRead.append (h : HasRead s t) (xs : List Load) :
    HasRead { s with loads := s.loads ++ xs } { t with loads := t.loads ++ xs } := by
  refine ⟨?_, fun x hx => ?_, fun y hy => ?_, h.dirty, fun hn => h.plain fun x hx => hn x (List.mem_append_left _ hx)⟩
  · obtain ⟨_, _, _, _, _, _, rfl⟩ := h.frame
    exact ⟨_, _, _, _, _, _, rfl⟩
  · rcases List.mem_append.1 hx with hx | hx
    · obtain ⟨y, hy, hxy⟩ := h.forth x hx
      exact ⟨y, List.mem_append_left _ hy, hxy⟩
    · exact ⟨x, List.mem_append_right _ hx, .inl rfl⟩
  · rcases List.mem_append.1 hy with hy | hy
    · obtain ⟨x, hx, hxy⟩ := h.back y hy
      exact ⟨x, List.mem_append_left _ hx, hxy⟩
    · exact ⟨y, List.mem_append_right _ hy, .inl rfl⟩

end

/-- The issuing team's unread loads are plain ones. -/
def State.readsPlain (s : State) : Prop := ∀ x ∈ s.loads, x.team = s.cur.uid → x.value = none → x.kind = .plain

/-- So they stay. -/
theorem HasRead.readsPlain {s t : State} (h : HasRead s t) (hp : s.readsPlain) : t.readsPlain := by
  intro y hy hteam hnone
  rw [h.cur] at hteam
  exact hp y (h.unread hy hnone) hteam hnone

section
variable {s : State} (h : s.cur.inRegion = false) (hx : s.xfers = [])
include h hx

/-- A plain load that is read: its value is fixed, a software-managed line comes into the L1 for it. -/
theorem performLoad_moves {l : Load} (hk : l.kind = .plain) (hv : l.value = none) :
    ∃ r v, s.performLoad l = (r, { l with value := some v }) ∧ CachesOnly s r ∧ Beside s r ∧ (l.space ≠ .software → r.mem = s.mem) := by
  have hmove : ∃ r, CachesOnly s r ∧ Beside s r ∧ (l.space ≠ .software → r.mem = s.mem) ∧
      r = if decide (l.space = .software) then s.fetchManaged (s.coreOf l.team) l.loc else s := by
    refine ⟨_, ?_, ?_, ?_, rfl⟩
    · split
      · exact cachesOnly_fetchManaged h hx ..
      · exact ⟨_, _, _, _, _, rfl⟩
    · split
      · exact beside_fetchManaged h ..
      · exact .refl h
    · exact fun hs => by simp [hs]
  obtain ⟨r, honly, hbeside, hmem, hr⟩ := hmove
  have hdraw : CachesOnly r (if decide (l.space = .handover) then r.draw else r) ∧
      Beside r (if decide (l.space = .handover) then r.draw else r) ∧ (if decide (l.space = .handover) then r.draw else r).mem = r.mem := by
    split
    · exact ⟨⟨_, _, _, _, _, rfl⟩, ⟨⟨_, _, _, rfl⟩, hbeside.region, rfl, rfl, rfl, rfl, id, fun _ hn => ⟨hn, rfl⟩⟩, rfl⟩
    · exact ⟨⟨_, _, _, _, _, rfl⟩, .refl hbeside.region, rfl⟩
  obtain ⟨honly', hbeside', hmem'⟩ := hdraw
  refine ⟨_, BitVec.ofNat 128 (State.readAt (if decide (l.space = .handover) then r.draw else r) (s.coreOf l.team) l.team l.space l.loc l.size),
    ?_, honly.trans honly', hbeside.trans hbeside', fun hs => hmem'.trans (hmem hs)⟩
  unfold State.performLoad
  rw [hv, State.recallCopies, if_pos hx, hk, hr]
  rfl

omit h hx in
/-- A plain load of the list keeps its place there. -/
theorem settleLoad_plain {l : Load} (hk : l.kind = .plain) : s.settleLoad l = { (s.performLoad l).1 with
    loads := (s.performLoad l).1.loads.map (fun x => if x = l then (s.performLoad l).2 else x) } := by
  unfold State.settleLoad
  rw [hk]

/-- A plain load of the list that is read. -/
theorem hasRead_settleLoad {l : Load} (hl : l ∈ s.loads) (hteam : l.team = s.cur.uid) (hk : l.kind = .plain) (hv : l.value = none) :
    HasRead s (s.settleLoad l) ∧ l ∉ (s.settleLoad l).loads := by
  obtain ⟨r, v, hperform, ⟨_, _, _, _, _, hr⟩, hbeside, hmem⟩ := performLoad_moves h hx hk hv
  have hsettle : s.settleLoad l = { r with loads := s.loads.map (fun x => if x = l then { l with value := some v } else x) } := by
    rw [settleLoad_plain hk, hperform, ← hbeside.loads]
  rw [hsettle]
  refine ⟨⟨?_, fun x hx => ⟨_, List.mem_map.2 ⟨x, hx, rfl⟩, ?_⟩, fun y hy => ?_, hbeside.memory hx, fun hn => hmem (hn l hl hteam hv)⟩, ?_⟩
  · rw [hr]
    exact ⟨_, _, _, _, _, _, rfl⟩
  · split
    next hxl =>
      rw [hxl]
      exact .inr ⟨hteam, hv, v, rfl⟩
    next => exact .inl rfl
  · obtain ⟨x, hx, rfl⟩ := List.mem_map.1 hy
    refine ⟨x, hx, ?_⟩
    split
    next hxl =>
      rw [hxl]
      exact .inr ⟨hteam, hv, v, rfl⟩
    next => exact .inl rfl
  · intro hm
    obtain ⟨x, -, hxl⟩ := List.mem_map.1 hm
    split at hxl
    next => 
      rw [← hxl] at hv
      cases hv
    next hne => exact hne hxl

end

/-- Earlier loads of the team from the same bytes are read first (R135). -/
theorem hasRead_forceLoads {s : State} (h : s.cur.inRegion = false) (hx : s.xfers = []) (hp : s.readsPlain) (loc size : Nat) (ls : List Load) :
    HasRead s (State.forceLoads s.cur.uid loc size ls s) := by
  induction ls generalizing s with
  | nil => exact .refl s
  | cons l ls ih =>
    rw [State.forceLoads]
    split
    next hc =>
      simp only [Bool.and_eq_true, beq_iff_eq, Option.isNone_iff_eq_none, List.contains_iff_mem] at hc
      obtain ⟨⟨⟨⟨⟨⟨hteam, -⟩, hv⟩, -⟩, -⟩, hl⟩, -⟩ := hc
      obtain ⟨hread, -⟩ := hasRead_settleLoad h hx hl hteam (hp l hl hteam hv) hv
      have hcur := hread.cur
      have hrest := ih (s := s.settleLoad l) (by rwa [hcur]) (hread.xfers.trans hx) (hread.readsPlain hp)
      rw [hcur] at hrest
      exact hread.trans hrest
    next => exact ih h hx hp

/-- The reads of an acquire: each load of the instruction on this device has its value (R145). -/
theorem hasRead_satisfy {s : State} {seq : Nat} (h : s.cur.inRegion = false) (hx : s.xfers = []) (ls : List Load)
    (hown : ∀ x ∈ s.loads, x.seq = seq → x.value = none → x.team = s.cur.uid ∧ x.kind = .plain) :
    HasRead s (State.satisfy seq ls s) ∧
      ∀ x ∈ (State.satisfy seq ls s).loads, x.seq = seq → x.space.remote = false → x.value = none → x ∉ ls := by
  induction ls generalizing s with
  | nil => exact ⟨.refl s, fun _ _ _ _ _ => List.not_mem_nil⟩
  | cons l ls ih =>
    rw [State.satisfy]
    split
    next hc =>
      simp only [Bool.and_eq_true, decide_eq_true_eq, Option.isNone_iff_eq_none, List.contains_iff_mem] at hc
      obtain ⟨⟨⟨hseq, hv⟩, -⟩, hl⟩ := hc
      obtain ⟨hteam, hk⟩ := hown l hl hseq hv
      obtain ⟨hread, hgone⟩ := hasRead_settleLoad h hx hl hteam hk hv
      have hcur := hread.cur
      obtain ⟨hrest, hdone⟩ := ih (s := s.settleLoad l) (by rwa [hcur]) (hread.xfers.trans hx) fun x hx hs hn => by
        rw [hcur]
        exact hown x (hread.unread hx hn) hs hn
      refine ⟨hread.trans hrest, fun x hx hs hr hn hm => ?_⟩
      rcases List.mem_cons.1 hm with rfl | hm
      · exact hgone (hrest.unread hx hn)
      · exact hdone x hx hs hr hn hm
    next hc =>
      obtain ⟨hrest, hdone⟩ := ih h hx hown
      refine ⟨hrest, fun x hx hs hr hn hm => ?_⟩
      rcases List.mem_cons.1 hm with rfl | hm
      · exact hc (by simp [hs, hr, hn, hrest.unread hx hn])
      · exact hdone x hx hs hr hn hm

/-! ## What a load instruction does (R143, R145) -/

/-- A load listed, after the earlier ones that it meets are read. -/
theorem hasRead_addLoad {s : State} (h : s.cur.inRegion = false) (hx : s.xfers = []) (hp : s.readsPlain) (x : Load) :
    HasRead { s with loads := s.loads ++ [x] } (s.addLoad x) :=
  (hasRead_forceLoads h hx hp x.loc x.size s.loads).append [x]

/-- An instruction lists the same loads when earlier ones have been read. -/
theorem HasRead.started {s t : State} (h : HasRead s t) (kind : Nat → LoadKind) (size : Nat) (ext : Ext) (dests : Nat → List (Nat × Dest))
    (f : Nat → Space × Nat) (lanes : List Nat) : t.started kind size ext dests f lanes = s.started kind size ext dests f lanes := by
  obtain ⟨_, _, _, _, _, _, rfl⟩ := h.frame
  rfl

/-- Lanes list plain loads; where they meet, the earlier ones are read. -/
theorem hasRead_addLoads {s : State} (h : s.cur.inRegion = false) (hx : s.xfers = []) (hp : s.readsPlain) (size : Nat) (ext : Ext)
    (dests : Nat → List (Nat × Dest)) (f : Nat → Space × Nat) (lanes : List Nat) :
    HasRead { s with loads := s.loads ++ s.started (fun _ => .plain) size ext dests f lanes }
      (State.addLoads (fun _ => .plain) size ext dests (sitesAt f lanes) s) := by
  induction lanes generalizing s with
  | nil =>
    rw [State.started, List.map_nil, List.append_nil]
    exact .refl s
  | cons l lanes ih =>
    have hplain : State.readsPlain { s with loads := s.loads ++ [s.mkLoad .plain l (f l).1 (f l).2 size ext (dests l)] } := by
      intro x hx hteam hn
      rcases List.mem_append.1 hx with hx | hx
      · exact hp x hx hteam hn
      · rw [List.mem_singleton.1 hx]
        rfl
    have hone := hasRead_addLoad h hx hp (s.mkLoad .plain l (f l).1 (f l).2 size ext (dests l))
    have hregion : (s.addLoad (s.mkLoad .plain l (f l).1 (f l).2 size ext (dests l))).cur.inRegion = false := by rwa [hone.cur]
    have hrest := ih hregion (hone.xfers.trans hx) (hone.readsPlain hplain)
    have hmore := hone.append (s.started (fun _ => .plain) size ext dests f lanes)
    rw [hone.started] at hrest
    rw [addLoads_cons]
    refine HasRead.trans ?_ hrest
    rw [List.append_assoc] at hmore
    exact hmore

/-- Sizes of strong accesses noted, and the traps of mixed ones kept (R136). -/
def Noted (s t : State) : Prop :=
  (∃ p, t.cur = { s.cur with pendTraps := p }) ∧ t.path = s.path ∧ t.mem = s.mem ∧ t.loads = s.loads

/-- One size noted. -/
theorem noted_noteStrong (s : State) (team loc size : Nat) : Noted s (s.noteStrong team loc size) := by
  have hkeep : ∃ p, s.cur.keepTrap tMIXSIZE = { s.cur with pendTraps := p } := by
    unfold Team.keepTrap
    split <;> exact ⟨_, rfl⟩
  have hcur : ∃ p, (if s.cur.live && s.cur.uid == team then s.cur.keepTrap tMIXSIZE else s.cur) = { s.cur with pendTraps := p } := by
    split
    · exact hkeep
    · exact ⟨_, rfl⟩
  unfold State.noteStrong
  dsimp only
  split
  · exact ⟨⟨_, rfl⟩, rfl, rfl, rfl⟩
  · split
    · exact ⟨hcur, rfl, rfl, rfl⟩
    · exact ⟨⟨_, rfl⟩, rfl, rfl, rfl⟩

/-- The sizes of an acquire's reads noted. -/
theorem noted_acquire (locs : List Nat) (size : Nat) (s : State) :
    Noted s (locs.foldl (fun s loc => s.noteStrong s.cur.uid loc (s.strongSize size)) s) := by
  induction locs generalizing s with
  | nil => exact ⟨⟨_, rfl⟩, rfl, rfl, rfl⟩
  | cons loc locs ih =>
    obtain ⟨⟨p, hcur⟩, hpath, hmem, hloads⟩ := noted_noteStrong s s.cur.uid loc (s.strongSize size)
    obtain ⟨⟨p', hcur'⟩, hpath', hmem', hloads'⟩ := ih (s.noteStrong s.cur.uid loc (s.strongSize size))
    exact ⟨⟨p', by rw [List.foldl_cons, hcur', hcur]⟩, hpath'.trans hpath, hmem'.trans hmem, hloads'.trans hloads⟩

/-- No write asks a member's window elsewhere. -/
@[simp] theorem farCheck_nil (s : State) : s.farCheck [] = none := by simp [State.farCheck]

/-- What a load instruction has done when it is through: its lanes' loads are listed, an acquire's have their values, and nothing else
of the team has changed. -/
structure Loaded (s : State) (form : LoadForm) (d : Code) (f : Nat → Space × Nat) (lanes : List Nat) (t : State) : Prop where
  cur : ∃ p, t.cur = { s.cur with pendTraps := p }
  path : t.path = s.path
  mem : (s.noneDirty ∨ ∀ l ∈ lanes, (f l).1 ≠ .software) → t.mem = s.mem
  kept : ∀ x ∈ s.loads, x ∈ t.loads
  listed : ∀ l ∈ lanes, ∃ x ∈ t.loads,
    Filled s.cur.uid (s.mkLoad .plain l (f l).1 (f l).2 form.size form.ext (destsOf l d form.count)) x ∧
      (form.acquire = true → x.value ≠ none)

section
variable {s : State} {form : LoadForm} {scalar : Bool} {d : Code} {f : Nat → Space × Nat} (hp : s.plain = true) (hq : s.quiet)
include hp hq

/-- Loads of some lanes on this device. -/
theorem takeLoads_done {lanes : List Nat} (hremote : ∀ l ∈ lanes, (f l).1.remote = false) (all window : Mask) :
    ∃ t, s.takeLoads form scalar all window d (sitesAt f lanes) = .done t ∧ Loaded s form d f lanes t := by
  obtain ⟨-, -, -, -, -, hregion, -⟩ := (State.plain_iff s).1 hp
  obtain ⟨hx, hold, -⟩ := hq
  have hplain : s.readsPlain := fun x hx hteam hn => absurd hn ((hold x hx).2 hteam)
  have hadd := hasRead_addLoads hregion hx hplain form.size form.ext (fun l => destsOf l d form.count) f lanes
  generalize hr : State.addLoads (fun _ => .plain) form.size form.ext (fun l => destsOf l d form.count) (sitesAt f lanes) s = r at hadd
  have hmine : ∀ x ∈ s.started (fun _ => .plain) form.size form.ext (fun l => destsOf l d form.count) f lanes,
      x.team = s.cur.uid ∧ x.kind = .plain ∧ x.value = none ∧ ∃ l ∈ lanes, x.space = (f l).1 := by
    intro x hm
    obtain ⟨l, hl, rfl⟩ := List.mem_map.1 hm
    exact ⟨rfl, rfl, rfl, l, hl, rfl⟩
  have hown : ∀ x ∈ r.loads, x.seq = s.nextSeq → x.space.remote = false ∧ x.team = s.cur.uid ∧ x.kind = .plain := by
    intro y hy hs
    obtain ⟨x, hx, hfill⟩ := hadd.back y hy
    obtain ⟨v, rfl⟩ := hfill.same
    rcases List.mem_append.1 hx with hx | hx
    · exact absurd hs (Nat.ne_of_lt (hold x hx).1)
    · obtain ⟨hteam, hkind, -, l, hl, hspace⟩ := hmine x hx
      exact ⟨hspace ▸ hremote l hl, hteam, hkind⟩
  have hask (strong : Nat) : State.askLoads s.nextSeq strong r.loads r = (r, []) := askLoads_none fun x hx hs => (hown x hx hs).1
  obtain ⟨u, hu, hread, hvalue⟩ : ∃ u, (if form.acquire then State.satisfy s.nextSeq r.loads r else r) = u ∧ HasRead r u ∧
      (form.acquire = true → ∀ x ∈ u.loads, x.seq = s.nextSeq → x.value ≠ none) := by
    cases hform : form.acquire
    · exact ⟨r, rfl, .refl r, nofun⟩
    · obtain ⟨hsat, hdone⟩ := hasRead_satisfy (s := r) (seq := s.nextSeq) (by rwa [hadd.cur]) (hadd.xfers.trans hx) r.loads
        fun x hx hs hn => hadd.cur ▸ (hown x hx hs).2
      refine ⟨_, rfl, hsat, fun _ x hm hs hn => ?_⟩
      have hunread := hsat.unread hm hn
      exact hdone x hm hs (hown x hunread hs).1 hn hunread
  have hall := hadd.trans hread
  obtain ⟨locs, hrun⟩ : ∃ locs : List Nat, s.takeLoads form scalar all window d (sitesAt f lanes) = .done
      (if form.acquire then locs.foldl (fun s loc => s.noteStrong s.cur.uid loc (s.strongSize form.size)) u else u).takeSeq := by
    unfold State.takeLoads
    rw [if_neg (by simp [hregion])]
    dsimp only
    rw [hr, hask, withAsks_nil, hu, afterSites_sitesAt]
    exact ⟨_, rfl⟩
  have hnoted : Noted u (if form.acquire then locs.foldl (fun s loc => s.noteStrong s.cur.uid loc (s.strongSize form.size)) u else u) := by
    split
    · exact noted_acquire ..
    · exact ⟨⟨_, rfl⟩, rfl, rfl, rfl⟩
  obtain ⟨⟨p, hcur⟩, hpath, hmem, hloads⟩ := hnoted
  refine ⟨_, hrun, ⟨p, ?_⟩, hpath.trans hall.path, fun hn => hmem.trans ?_, fun x hm => ?_, fun l hl => ?_⟩
  · exact hcur.trans (by rw [hall.cur])
  · rcases hn with hn | hn
    · exact (hall.dirty hn).2
    · refine hall.plain fun x hm hteam hnone => ?_
      rcases List.mem_append.1 hm with hm | hm
      · exact absurd hnone ((hold x hm).2 hteam)
      · obtain ⟨-, -, -, l, hl, hspace⟩ := hmine x hm
        rw [hspace]
        exact hn l hl
  · obtain ⟨y, hy, hfill⟩ := hall.forth x (List.mem_append_left _ hm)
    have hsame : y = x := hfill.resolve_right fun ⟨hteam, hnone, _⟩ => (hold x hm).2 hteam hnone
    rw [hsame] at hy
    exact hloads ▸ hy
  · obtain ⟨y, hy, hfill⟩ := hall.forth _ (List.mem_append_right _ (List.mem_map.2 ⟨l, hl, rfl⟩))
    refine ⟨y, hloads ▸ hy, hfill, fun hform => hvalue hform y hy ?_⟩
    obtain ⟨v, rfl⟩ := hfill.same
    rfl

variable {acc : List (Nat × DWord × Nat)} (hb : s.cur.bindings = []) (hpl : s.placed Need.load acc f)
include hb hpl

/-- A load whose reads can be made. -/
theorem runLoad_done (hserve : form.acquire = true → ∀ x ∈ acc, s.servesNow (f x.1).1 (f x.1).2 form.size = true) :
    ∃ t, s.runLoad form scalar acc d = .done t ∧ Loaded s form d f (acc.map (fun x => x.1)) t := by
  obtain ⟨-, -, -, -, hrun, hregion, -⟩ := (State.plain_iff s).1 hp
  have hwait := placed_mustWait hpl hq .read
  have hremote := placed_remote hpl
  have hlack : (if form.acquire || s.cur.inRegion then s.lacking form.size (sitesAt f (acc.map (fun x => x.1))) else []) = [] := by
    rw [hregion, Bool.or_false]
    split
    next hform =>
      refine List.filterMap_eq_nil_iff.2 fun x hx => ?_
      obtain ⟨l, hl, rfl⟩ := List.mem_map.1 hx
      obtain ⟨y, hy, rfl⟩ := List.mem_map.1 hl
      exact if_pos (hserve hform y hy)
    next => rfl
  unfold State.runLoad
  dsimp only
  split
  next hnil =>
    subst hnil
    exact ⟨s, rfl, ⟨_, rfl⟩, rfl, fun _ => rfl, fun _ => id, nofun⟩
  next =>
    rw [placed_sites hpl, destStores_nil _ _ _ hb]
    dsimp only [State.sites]
    simp only [joinSites_nil, hwait, hlack, siteLocs, List.filterMap_nil, pathShort_nil, Bool.or_self, Bool.false_eq_true, if_false, if_true, lanePlaces_nil, farCheck_nil,
      Option.getD_none, unpark_of_running hrun]
    exact takeLoads_done hp hq (fun l hl => by obtain ⟨x, hx, rfl⟩ := List.mem_map.1 hl; exact hremote x hx) _ _

omit hp hb hpl in
/-- A core reads no bytes of a line under the directory that it does not hold, and that nothing in its store path covers (R192, R336). -/
theorem readsHere_missing {space : Space} {loc size : Nat} (hcoh : s.coherent space loc = true) (hchip : space ≠ .chip)
    (hcopy : s.copyAt s.curCore (loc / 128) = none) (hsize : 0 < size) : s.readsHere s.curCore s.cur.uid space loc size = false := by
  obtain ⟨-, -, hpath, -⟩ := hq
  have hcopy' : s.copyAt s.curCore (lineOf loc) = none := hcopy
  have hcover : (List.range size).all (fun i => (coverByte (s.overlay s.curCore s.cur.uid) (loc + i)).isSome) = false :=
    List.all_eq_false.2 ⟨0, List.mem_range.2 hsize, by simp [State.overlay, hpath, coverByte]⟩
  simp [State.readsHere, hcoh, hchip, hcopy', hcover]

omit hp in
/-- An acquire of one lane whose line the core does not hold asks for it (R145, R340). -/
theorem runLoad_asks {x : Nat × DWord × Nat} (hacc : acc = [x]) (hform : form.acquire = true) (hsize : 0 < form.size)
    (hcoh : s.coherent (f x.1).1 (f x.1).2 = true) (hchip : (f x.1).1 ≠ .chip) (hcopy : s.copyAt s.curCore ((f x.1).2 / 128) = none) :
    s.runLoad form scalar acc d = (s.askShared s.curCore ((f x.1).2 / 128)).parkOn .access := by
  have hwait := placed_mustWait hpl hq .read
  have hremote := placed_remote hpl x (by simp [hacc])
  have hmiss := readsHere_missing hq hcoh hchip hcopy hsize
  subst hacc
  rw [List.map_singleton] at hwait
  have hlack : s.lacking form.size (sitesAt f [x.1]) = [(x.1, (f x.1).1, (f x.1).2)] := by
    simp [State.lacking, sitesAt, State.servesNow, hremote, hmiss]
  have hask : s.askRead s.curCore (f x.1).1 (f x.1).2 = s.askShared s.curCore ((f x.1).2 / 128) := by
    rw [State.askRead, if_pos (by simp [hcoh, hchip])]
    rfl
  unfold State.runLoad
  dsimp only
  rw [if_neg (by simp), placed_sites hpl, destStores_nil _ _ _ hb]
  dsimp only [State.sites]
  simp only [joinSites_nil, hwait, hform, Bool.true_or, if_true, List.map_cons, List.map_nil, hlack, siteLocs, List.filterMap_nil, pathShort_nil,
    Bool.or_self, Bool.false_eq_true, if_false, lanePlaces_nil, farCheck_nil, Option.getD_none]
  simp [sitesAt, hask]

end

/-! ## The instructions (R143, R145, R147) -/

/-- The word of a short load: its value extended as TYPE says (R143). -/
theorem word_short {x : Load} {ty : Nat} (hext : x.ext = if typeSigned ty then .sign else .zero) (hsize : x.size = 1 ∨ x.size = 2)
    (v : BitVec 128) : ({ x with value := some v } : Load).word 0 =
      if ty ∈ [0, 2, 8, 10] then (v.setWidth (8 * x.size)).signExtend 32 else (v.setWidth (8 * x.size)).setWidth 32 := by
  have hsigned : (ty ∈ [0, 2, 8, 10]) ↔ typeSigned ty = true := by simp [typeSigned, or_assoc]
  have hlow (n : Nat) : v.extractLsb' 0 n = v.setWidth n := by
    apply BitVec.eq_of_toNat_eq
    simp
  simp only [Load.word, hext, hsigned]
  generalize x.size = n at hsize ⊢
  cases typeSigned ty
  · refine BitVec.eq_of_toNat_eq ?_
    rcases hsize with rfl | rfl <;> simp
  · rcases hsize with rfl | rfl <;> simp [hlow]

/-- What the loads are: per-lane loads of a form, short ones with the extension of TYPE, and scalar loads of whole words. -/
theorem loadEntry_form {s : State} {i : Instr} {e : MemEntry} (h : s.cur.loadEntry i = some e) :
    (∃ form dOk d a b, exec i s = issueLoad form dOk d a b s ∧ form.acquire = isAcquire i ∧ e = s.cur.laneLoad form (dOk s.cur) d a b ∧
      0 < form.size ∧ (form.size < 4 → form.ext = s.cur.signExtends ∧ (form.size = 1 ∨ form.size = 2))) ∨
    (∃ size d a b, exec i s = issueScalarLoad size d a b s ∧ isAcquire i = false ∧ e = s.cur.scalarLoadOf size d a b ∧ 4 ≤ size) := by
  cases i <;> cases h
  case ldb d a b =>
    exact .inl ⟨{ size := 1, ext := s.cur.signExtends }, fun t => dstOk t false d, d, a, b, rfl, rfl, rfl, Nat.zero_lt_succ _, fun _ => ⟨rfl, .inl rfl⟩⟩
  case ldh d a b =>
    exact .inl ⟨{ size := 2, ext := s.cur.signExtends }, fun t => dstOk t false d, d, a, b, rfl, rfl, rfl, Nat.zero_lt_succ _, fun _ => ⟨rfl, .inr rfl⟩⟩
  case ldw d a b => exact .inl ⟨{ size := 4 }, fun t => dstOk t false d, d, a, b, rfl, rfl, rfl, by decide, by simp⟩
  case ldd d a b => exact .inl ⟨{ size := 8 }, fun t => dstOk t true d, d, a, b, rfl, rfl, rfl, by decide, by simp⟩
  case ldq d a b => exact .inl ⟨{ size := 16 }, fun t => quadOk t false d, d, a, b, rfl, rfl, rfl, by decide, by simp⟩
  case ldwa d a b => exact .inl ⟨{ size := 4, acquire := true }, fun t => dstOk t false d, d, a, b, rfl, rfl, rfl, by decide, by simp⟩
  case ldda d a b => exact .inl ⟨{ size := 8, acquire := true }, fun t => dstOk t true d, d, a, b, rfl, rfl, rfl, by decide, by simp⟩
  case lds d a b => exact .inr ⟨4, d, a, b, rfl, rfl, rfl, by decide⟩
  case ldsd d a b => exact .inr ⟨8, d, a, b, rfl, rfl, rfl, by decide⟩

/-- A load of a form is issued: its own conditions find nothing, and its body is that of its accesses. -/
theorem exec_load {s : State} {i : Instr} {e : MemEntry} (hp : s.plain = true) (hset : s.hasSeta = true) (hb : s.cur.bindings = [])
    (he : s.cur.loadEntry i = some e) (hok : e.legal = true) (hc : s.stage1Conds s.cur Need.load e.accesses = []) :
    ∃ form scalar, form.acquire = isAcquire i ∧ form.size = e.size ∧ 0 < form.size ∧
      (form.size < 4 → form.ext = s.cur.signExtends ∧ (form.size = 1 ∨ form.size = 2)) ∧
      exec i s = .next (State.conclude s.cur 0 none (s.runLoad form scalar e.accesses e.d)) := by
  obtain ⟨-, -, -, -, -, -, -, honly, -⟩ := (State.plain_iff s).1 hp
  rcases loadEntry_form he with ⟨form, dOk, d, a, b, hexec, hform, rfl, hpos, hext⟩ | ⟨size, d, a, b, hexec, hform, rfl, hsize⟩
  · refine ⟨form, false, hform, rfl, hpos, hext, hexec.trans (issue_plain hp (Spec.conds_nil nofun (fun _ => hset) nofun) ?_)⟩
    simp only [Team.laneLoad] at hok hc
    simp [loadConds, hok, hc, destStores_nil, hb, State.stage1Conds_nil]
  · refine ⟨{ size := size }, true, hform.symm, rfl, Nat.lt_of_lt_of_le (by decide) hsize, fun h => absurd h (Nat.not_lt.2 hsize), ?_⟩
    rw [hexec]
    simp only [Team.scalarLoadOf] at hok hc
    refine (issue_plain (sp := { cls := 1, whole := true, lanes := .team }) hp (Spec.conds_nil nofun (fun _ => hset) nofun) ?_).trans ?_
    · rw [if_pos hok]
      exact congrArg _ hc
    · rw [if_neg (by simp [honly])]
      rfl

/-- A team that parks. -/
theorem conclude_parkOn {before : Team} {r : State} {p : Park} (h : r.cur.checked = before.checked) :
    State.conclude before 0 none (r.parkOn p) = r.setCur { r.cur with park := p } := by
  rw [State.parkOn, conclude_stay]
  exact h

section
variable {s : State} {i : Instr} {e : MemEntry} {f : Nat → Space × Nat} (hp : s.plain = true) (hset : s.hasSeta = true)
  (hb : s.cur.bindings = []) (he : s.cur.loadEntry i = some e) (hok : e.legal = true) (hpl : s.placed Need.load e.accesses f) (hq : s.quiet)
include hp hset hb he hok hpl hq

/-- An acquire of one lane whose line the core does not hold asks the home for it and waits. -/
theorem exec_acquire_asks {x : Nat × DWord × Nat} (ha : isAcquire i = true) (hacc : e.accesses = [x])
    (hcoh : s.coherent (f x.1).1 (f x.1).2 = true) (hchip : (f x.1).1 ≠ .chip) (hcopy : s.copyAt s.curCore ((f x.1).2 / 128) = none) :
    ∃ t, exec i s = .next t ∧ t.cur = { s.cur with park := .access } ∧ t.loads = s.loads ∧ t.mem = s.mem ∧
      t.coh.reqs = [⟨.getS, s.curCore, (f x.1).2 / 128, [], [], none⟩] := by
  obtain ⟨form, scalar, hform, hsize, hpos, -, hexec⟩ := exec_load hp hset hb he hok hpl.1
  have hquiet := hq
  obtain ⟨-, -, -, hreqs, htxns, -⟩ := hquiet
  obtain ⟨r, hask, hcur, hloads, hmem, hreq⟩ : ∃ r, s.askShared s.curCore ((f x.1).2 / 128) = r ∧ r.cur = s.cur ∧ r.loads = s.loads ∧
      r.mem = s.mem ∧ r.coh.reqs = [⟨.getS, s.curCore, (f x.1).2 / 128, [], [], none⟩] := by
    rw [State.askShared, hcopy, if_neg (by simp [State.asking, hreqs, htxns]), hreqs]
    exact ⟨_, rfl, rfl, rfl, rfl, rfl⟩
  rw [runLoad_asks hq hb hpl hacc (hform.trans ha) hpos hcoh hchip hcopy, hask, conclude_parkOn (by rw [hcur]), hcur] at hexec
  exact ⟨_, hexec, rfl, hloads, hmem, hreq⟩

/-- Other loads, and acquires whose lines the core holds or the directory does not track, start their reads. -/
theorem exec_load_starts (hhost : isAcquire i = true → ∀ x ∈ e.accesses, s.hostOwned ((f x.1).2 / 128) = false)
    (hheld : isAcquire i = true → ∀ x ∈ e.accesses, s.coherent (f x.1).1 (f x.1).2 = true → (f x.1).1 ≠ .chip →
      s.copyAt s.curCore ((f x.1).2 / 128) ≠ none) :
    ∃ form t, exec i s = .next (t.setCur t.cur.advance) ∧ form.acquire = isAcquire i ∧ form.size = e.size ∧
      (form.size < 4 → form.ext = s.cur.signExtends ∧ (form.size = 1 ∨ form.size = 2)) ∧
      Loaded s form e.d f (e.accesses.map (fun x => x.1)) t := by
  obtain ⟨form, scalar, hform, hsize, hpos, hext, hexec⟩ := exec_load hp hset hb he hok hpl.1
  obtain ⟨-, -, -, -, -, -, hstep, -⟩ := (State.plain_iff s).1 hp
  have hserve : form.acquire = true → ∀ x ∈ e.accesses, s.servesNow (f x.1).1 (f x.1).2 form.size = true := by
    intro ha x hx
    rw [hform] at ha
    have hown : s.hostOwned (lineOf (f x.1).2) = false := hhost ha x hx
    have hhere : s.readsHere s.curCore s.cur.uid (f x.1).1 (f x.1).2 form.size = true := by
      cases hcoh : s.coherent (f x.1).1 (f x.1).2
      · simp [State.readsHere, hcoh]
      · by_cases hchip : (f x.1).1 = .chip
        · simp [State.readsHere, hchip]
        · have hcopy : (s.copyAt s.curCore (lineOf (f x.1).2)).isSome = true := Option.isSome_iff_ne_none.2 (hheld ha x hx hcoh hchip)
          simp [State.readsHere, hcopy]
    simp [State.servesNow, hown, hhere]
  obtain ⟨t, hrun, hloaded⟩ := runLoad_done (scalar := scalar) (d := e.d) hp hq hb hpl hserve
  rw [hrun, conclude_done hstep] at hexec
  exact ⟨form, t, hexec, hform, hsize, hext, hloaded⟩

end

/-- Settles O28: a load lists one read for each lane; where lanes meet, and for an acquire, the reads take their values at once. -/
theorem loadsStartReads : Obligations.LoadsStartReads := by
  unfold Obligations.LoadsStartReads
  intro s i e f hp hset hb he hok hpl hq hhost
  refine ⟨fun ha x hacc hcoh hchip hcopy => exec_acquire_asks hp hset hb he hok hpl hq ha hacc hcoh hchip hcopy, fun hheld => ?_⟩
  obtain ⟨form, t, hexec, hform, hsize, hext, hloaded⟩ := exec_load_starts hp hset hb he hok hpl hq hhost hheld
  obtain ⟨p, hcur⟩ := hloaded.cur
  refine ⟨_, hexec, Beside.teamKept hp ⟨_, _, p, hcur⟩, fun hn a => ?_, hloaded.path, hloaded.kept, fun a ha => ?_⟩
  · exact congrArg (cellAt · a) (hloaded.mem (hn.imp_right fun hsoft l hl => by
      obtain ⟨x, hx, rfl⟩ := List.mem_map.1 hl
      exact hsoft x hx))
  · obtain ⟨x, hx, hfill, hvalue⟩ := hloaded.listed a.1 (List.mem_map.2 ⟨a, ha, rfl⟩)
    obtain ⟨v, rfl⟩ := hfill.same
    refine ⟨_, hx, rfl, rfl, rfl, rfl, rfl, rfl, hsize, rfl, fun hlt v => ?_, fun ha => hvalue (hform.trans ha), ?_⟩
    · rw [← hsize] at hlt ⊢
      obtain ⟨hsign, hshort⟩ := hext hlt
      exact word_short (x := { s.mkLoad .plain a.1 (f a.1).1 (f a.1).2 form.size form.ext (destsOf a.1 e.d form.count) with value := some v })
        hsign hshort v
    · rw [← hsize]
      rfl

end Sys2Proof.Machine
end

section
/-! SUPPORT. Atomics through a binding that start (R178): each lane's place is the binding's. -/

namespace Sys2Proof.Machine

/-! ## What the atomics through a binding are -/

/-- The codes of a bound atomic's operands beside a: legal for BADD and BXCH, or for BCAS. -/
def boundOperands (t : Team) (nw old : Option Code) : Prop :=
  (∀ x, nw = some x → srcOk t (wide t.type) x = true) ∧ ∀ x, old = some x → vzOk t (wide t.type) x = true

/-- An atomic through a binding, by its operation and operands, as it is issued. -/
theorem boundEntry_some {i : Instr} {op : AtOp} {d a : Code} {nw old : Option Code} (h : boundEntry i = some (op, d, a, nw, old)) (s : State) :
    ∃ u bOk, (boundOperands s.cur nw old → bOk s.cur = true) ∧ (s.cur.type ≤ 3 → atTypeOk op s.cur.type = true) ∧
      exec i s = issue { cls := 1, forbidden := 1 } u (fun t s => boundConds op bOk d a old t s) (State.runBound op d a nw old) s := by
  cases i <;> cases h
  case badd =>
    exact ⟨_, fun t => vzOk t (wide t.type) _, fun ht => ht.2 _ rfl, fun ht => decide_eq_true (Nat.lt_of_le_of_lt ht (by decide)), rfl⟩
  case bcas => exact ⟨_, fun t => srcOk t (wide t.type) _, fun ht => ht.1 _ rfl, fun _ => rfl, rfl⟩
  case bxch => exact ⟨_, fun t => vzOk t (wide t.type) _, fun ht => ht.2 _ rfl, fun _ => rfl, rfl⟩

/-- Registers that no binding covers store through none (R161). -/
theorem boundStores_nil {t : Team} {l d n : Nat} (h : ∀ k, k < n → t.boundAt l (d + k) = none) (pair : Bool) (w : Word) :
    t.boundStores pair l d (List.replicate n w) = [] := by
  refine List.filterMap_eq_nil_iff.2 fun e he => ?_
  obtain ⟨w', k⟩ := e
  obtain ⟨-, hk, -⟩ := List.mem_zipIdx he
  rw [Nat.zero_add, List.length_replicate] at hk
  dsimp only
  rw [h k hk]

/-- A destination that no binding covers has no stores. -/
theorem destStores_unbound {s : State} {d : Code} {n : Nat} {lanes : List Nat}
    (h : ∀ l ∈ lanes, ∀ k, k < n → isV d = true → s.cur.boundAt l (d.toNat + k) = none) : s.destStores lanes d n = [] := by
  unfold State.destStores
  split
  · rfl
  next hc =>
    simp only [Bool.or_eq_true, Bool.not_eq_true', decide_eq_true_eq, not_or, Bool.not_eq_false] at hc
    exact List.flatMap_eq_nil_iff.2 fun l hl => by rw [boundStores_nil fun k hk => h l hl k hk hc.1, List.map_nil]

/-! ## The body (R178) -/

/-- Lanes on this device whose bytes are apart list their loads in their own order, and the instruction completes. -/
theorem listed_done {s : State} {kind : Nat → LoadKind} {size : Nat} {ext : Ext} {dests : Nat → List (Nat × Dest)}
    {f : Nat → Space × Nat} {lanes : List Nat} (hapart : lanes.Pairwise (Apart f size))
    (hold : ∀ y ∈ s.loads, y.seq < s.nextSeq ∧ (y.team = s.cur.uid → y.value ≠ none)) (hnew : ∀ l ∈ lanes, (f l).1.remote = false)
    (need : Need) (strong : Nat) :
    let q := State.askLoads s.nextSeq strong (State.addLoads kind size ext dests (s.siteOrder size (sitesAt f lanes)) s).loads
      (State.addLoads kind size ext dests (s.siteOrder size (sitesAt f lanes)) s)
    Res.withAsks q.2 false (q.1.takeSeq.draw.afterSites need false (sitesAt f lanes)) =
      .done { s with loads := s.loads ++ s.started kind size ext dests f lanes, nextSeq := s.nextSeq + 1, fresh := s.fresh + 1 } := by
  dsimp only
  rw [siteOrder_apart s hapart, askLoads_addLoads hapart hold hnew, withAsks_nil, afterSites_sitesAt]
  rfl

/-- What an atomic through a binding reads of its operands, and where the old value goes. -/
def State.boundKind (s : State) (op : AtOp) (a : Code) (nw old : Option Code) (l : Nat) : LoadKind :=
  .bound op s.cur.type (BitVec.ofNat 64 (s.cur.opndN (wide s.cur.type) l a))
    (BitVec.ofNat 64 ((nw.map (fun c => s.cur.opndN (wide s.cur.type) l c)).getD 0))
    ((old.map (fun c => (destsOf l c (regs (wide s.cur.type))).map (fun e => e.2))).getD [])

/-- The place of a lane's binding in hardware-coherent memory. -/
def placeOf (bd : Nat → Binding) (l : Nat) : Space × Nat := (.hardware, (bd l).loc)

/-- A place in hardware-coherent memory is no member's. -/
theorem memberStopped_memory {s : State} {loc : Nat} (h : locKind loc = 0) : s.memberStopped loc = false := by
  simp [State.memberStopped, h]

/-- Writes to hardware-coherent memory ask no member's window. -/
theorem farCheck_memory {s : State} {ws : List (Nat × Nat × Nat)} (h : ∀ w ∈ ws, locKind w.2.1 = 0) : s.farCheck ws = none := by
  have hnone : ws.filter (fun w => s.farMember w.2.1) = [] := List.filter_eq_nil_iff.2 fun w hw => by simp [State.farMember, h w hw]
  simp [State.farCheck, hnone]

section
variable {s : State} {op : AtOp} {d a : Code} {nw old : Option Code} {bd : Nat → Binding} (hp : s.plain = true) (hq : s.quiet)
  (hf : s.cur.fencer = [])
  (hold : ∀ x, old = some x → ∀ l ∈ s.cur.contribLanes, ∀ k, k < regs (wide s.cur.type) → isV x = true → s.cur.boundAt l (x.toNat + k) = none)
  (hbind : ∀ l ∈ s.cur.contribLanes, s.cur.bindingOf d l = some (bd l) ∧ locKind (bd l).loc = 0 ∧ s.drained (bd l).loc = false)
  (hsites : State.boundSites (4 * regs (wide s.cur.type)) (s.cur.contribLanes.map (fun l => (l, bd l))) s =
    (s, sitesAt (placeOf bd) s.cur.contribLanes))
  (hapart : s.cur.contribLanes.Pairwise (Apart (placeOf bd) (4 * regs (wide s.cur.type))))
include hp hq hf hold hbind hsites hapart

/-- The body of an atomic through a binding whose lanes meet nothing lists their loads. -/
theorem runBound_starts : ∃ fresh next, State.runBound op d a nw old s = .done { s with
    fresh := fresh
    nextSeq := next
    loads := s.loads ++ s.started (s.boundKind op a nw old) (4 * regs (wide s.cur.type)) .none
      (fun l => destsOf l d (regs (wide s.cur.type))) (placeOf bd) s.cur.contribLanes } := by
  obtain ⟨-, -, -, -, hrun, -⟩ := (State.plain_iff s).1 hp
  have hbs : s.cur.contribLanes.filterMap (fun l => (s.cur.bindingOf d l).map (fun x => (l, x))) =
      s.cur.contribLanes.map (fun l => (l, bd l)) := by
    rw [← List.filterMap_eq_map]
    exact List.filterMap_congr fun l hl => by rw [(hbind l hl).1]; rfl
  have hwait : s.mustWait .rmw ((s.cur.contribLanes.map (fun l => (l, bd l))).map (fun x => (x.2.addr, x.2.loc, 4 * regs (wide s.cur.type)))) =
      false := by
    refine mustWait_quiet hq fun p hm => ?_
    rw [List.map_map] at hm
    obtain ⟨l, hl, rfl⟩ := List.mem_map.1 hm
    obtain ⟨-, hkind, hdrain⟩ := hbind l hl
    exact ⟨memberStopped_memory hkind, hdrain⟩
  have hfar : s.farCheck ((s.cur.contribLanes.map (fun l => (l, bd l))).map (fun x => (x.1, x.2.loc, 4 * regs (wide s.cur.type)))) = none := by
    refine farCheck_memory fun w hm => ?_
    rw [List.map_map] at hm
    obtain ⟨l, hl, rfl⟩ := List.mem_map.1 hm
    exact (hbind l hl).2.1
  have hfence : s.fenceHolds = false := by simp [State.fenceHolds, hf]
  have hlist := listed_done (kind := s.boundKind op a nw old) (ext := .none) (dests := fun l => destsOf l d (regs (wide s.cur.type)))
    hapart hq.2.1 (fun _ _ => rfl) Need.rmw 0
  unfold State.runBound
  dsimp only
  rw [hbs, atomicSize_eq]
  split
  next hnil =>
    have hnone := List.map_eq_nil_iff.1 hnil
    exact ⟨s.fresh, s.nextSeq, by simp [hnone, State.started]⟩
  next =>
    rw [hwait, hfence, unpark_of_running hrun, hsites]
    refine ⟨s.fresh + 1, s.nextSeq + 1, ?_⟩
    rcases old with _ | c
    case' some => simp only [destStores_unbound (hold c rfl)]
    all_goals
      simp only [State.sites, joinSites_nil, siteLocs, List.filterMap_nil, pathShort_nil, Bool.or_self, Bool.false_eq_true, if_false,
        lanePlaces_nil, List.append_nil, hfar, Option.getD_none]
      cases nw <;> exact hlist

/-- An atomic through a binding whose lanes meet nothing starts. -/
theorem exec_bound_starts {i : Instr} (hset : s.hasSeta = true) (he : boundEntry i = some (op, d, a, nw, old)) (htype : s.cur.type ≤ 3)
    (hops : boundOperands s.cur nw old) (hd : vRun s.cur (regs (wide s.cur.type)) (regs (wide s.cur.type)) d = true)
    (ha : srcOk s.cur (wide s.cur.type) a = true) (hsize : ∀ l ∈ s.cur.contribLanes, (bd l).size8 = wide s.cur.type)
    (hbar : s.barriers = []) :
    ∃ t, exec i s = .next t ∧ TeamKept s t ∧ t.cur.bindings = s.cur.bindings ∧ (∀ a, t.byte a = s.byte a) ∧
      ∀ l ∈ s.cur.contribLanes, s.mkLoad (s.boundKind op a nw old l) l .hardware (bd l).loc (4 * regs (wide s.cur.type)) .none
        (destsOf l d (regs (wide s.cur.type))) ∈ t.loads := by
  obtain ⟨u, bOk, hb, hty, hexec⟩ := boundEntry_some he s
  obtain ⟨fresh, next, hbody⟩ := runBound_starts (op := op) (a := a) (nw := nw) hp hq hf hold hbind hsites hapart
  have hbound : s.cur.boundOk d = true := by
    refine List.all_eq_true.2 fun l hl => ?_
    have hlook : alook s.cur.bindings (vkey l d.toNat) = some (bd l) := (hbind l hl).1
    simp [hlook, hsize l hl]
  have hhits (loc size : Nat) : s.hitsBarrier loc size = false := by simp [State.hitsBarrier, hbar]
  have hdv : vOk s.cur (wide s.cur.type) d = true := hd
  have hconds : boundConds op bOk d a old s.cur s = [] := by
    unfold boundConds
    dsimp only
    rw [if_pos (by simp [hty htype, hdv, ha, hb hops, hbound])]
    refine List.append_eq_nil_iff.2 ⟨List.flatMap_eq_nil_iff.2 fun l hl => ?_, ?_⟩
    · rw [(hbind l hl).1]
      simp [hhits]
    · cases old with
      | none => rfl
      | some c =>
        dsimp only
        rw [destStores_unbound (hold c rfl), State.stage1Conds_nil]
  refine ⟨_, hexec.trans (issue_done hp (Spec.conds_nil nofun (fun _ => hset) nofun) hconds hbody), teamKept_same hp rfl, ?_, fun _ => rfl,
    fun l hl => List.mem_append_right _ (List.mem_map.2 ⟨l, hl, rfl⟩)⟩
  obtain ⟨_, _, _, _, _, hadv⟩ := s.cur.advance_eq
  change s.cur.advance.bindings = s.cur.bindings
  rw [hadv]

end

end Sys2Proof.Machine
end

section
/-! SUPPORT. Places for the bobbins of bind loads in a core that has none (R170, R174). -/

namespace Sys2Proof.Machine

/-! ## Lists of bobbins (R170) -/

/-- A bobbin added is there, the others too, but for their times. -/
theorem mem_addBobbin {b x : Bobbin} {l : List Bobbin} (h : x ∈ addBobbin b l) : ∃ c ∈ b :: l, x.line = c.line ∧ x.spilled = c.spilled := by
  unfold addBobbin at h
  split at h
  · obtain ⟨c, hc, rfl⟩ := List.mem_map.1 h
    refine ⟨c, List.mem_cons_of_mem _ hc, ?_⟩
    split <;> exact ⟨rfl, rfl⟩
  · refine ⟨x, ?_, rfl, rfl⟩
    rcases List.mem_append.1 h with h | h
    · exact List.mem_cons_of_mem _ h
    · exact List.mem_cons.2 (.inl (List.mem_singleton.1 h))

/-- One more bobbin at most. -/
theorem length_addBobbin (b : Bobbin) (l : List Bobbin) : (addBobbin b l).length ≤ l.length + 1 ∧ addBobbin b l ≠ [] := by
  unfold addBobbin
  split
  next h =>
    refine ⟨by simp, ?_⟩
    rintro hnil
    rw [List.map_eq_nil_iff.1 hnil] at h
    cases h
  next => exact ⟨by simp, by simp⟩

/-- A table made of bobbins holds none but these. -/
theorem mem_foldl_addBobbin {x : Bobbin} {bs acc : List Bobbin} (h : x ∈ bs.foldl (fun l b => addBobbin b l) acc) :
    ∃ c ∈ acc ++ bs, x.line = c.line ∧ x.spilled = c.spilled := by
  induction bs generalizing acc with
  | nil => exact ⟨x, by simpa using h, rfl, rfl⟩
  | cons b bs ih =>
    obtain ⟨y, hy, hline, hspill⟩ := ih h
    rcases List.mem_append.1 hy with hy | hy
    · obtain ⟨c, hc, hline', hspill'⟩ := mem_addBobbin hy
      refine ⟨c, ?_, hline.trans hline', hspill.trans hspill'⟩
      rcases List.mem_cons.1 hc with rfl | hc
      · simp
      · simp [hc]
    · exact ⟨y, by simp [hy], hline, hspill⟩

/-- It holds no more than these. -/
theorem length_foldl_addBobbin (bs acc : List Bobbin) : (bs.foldl (fun l b => addBobbin b l) acc).length ≤ acc.length + bs.length := by
  induction bs generalizing acc with
  | nil => exact Nat.le_refl _
  | cons b bs ih =>
    have h := ih (addBobbin b acc)
    have hone := (length_addBobbin b acc).1
    simp only [List.foldl_cons, List.length_cons]
    omega

/-- Only no bobbins make an empty table. -/
theorem foldl_addBobbin_eq_nil {bs acc : List Bobbin} (h : bs.foldl (fun l b => addBobbin b l) acc = []) : bs = [] ∧ acc = [] := by
  induction bs generalizing acc with
  | nil => exact ⟨rfl, h⟩
  | cons b bs ih => exact absurd (ih h).2 (length_addBobbin b acc).2

/-- A load that binds no more is a token; the others stay. -/
theorem mem_cutBindsAt {s : State} {team : Nat} {lanes : Mask} {regs : List Nat} {y : Load} (h : y ∈ (s.cutBindsAt team lanes regs).loads) :
    ∃ x ∈ s.loads, y = x ∨ y = { x with kind := .token } := by
  obtain ⟨x, hx, rfl⟩ := List.mem_map.1 h
  refine ⟨x, hx, ?_⟩
  split
  · split
    · exact .inr rfl
    · exact .inl rfl
  · exact .inl rfl

/-- Loads that bind no more give a core no bobbins. -/
theorem coreBobbins_cutBindsAt {s : State} {core team : Nat} {lanes : Mask} {regs : List Nat} (h : s.coreBobbins core = []) :
    (s.cutBindsAt team lanes regs).coreBobbins core = [] := by
  obtain ⟨hlist, -⟩ := foldl_addBobbin_eq_nil h
  obtain ⟨hbound, hcoming⟩ := List.append_eq_nil_iff.1 hlist
  unfold State.coreBobbins
  dsimp only
  refine (congrArg _ (List.append_eq_nil_iff.2 ⟨hbound, List.flatMap_eq_nil_iff.2 fun t ht => ?_⟩)).trans rfl
  have hnone := List.flatMap_eq_nil_iff.1 hcoming t ht
  rw [List.filterMap_eq_nil_iff] at hnone ⊢
  intro y hy
  obtain ⟨x, hx, rfl | rfl⟩ := mem_cutBindsAt hy
  · exact hnone y hx
  · rfl

/-! ## Places in the table (R170) -/

/-- Bobbins in the table on some lines. -/
def Unspilled (lines : List Nat) (bs : List Bobbin) : Prop := ∀ b ∈ bs, b.spilled = false ∧ b.line ∈ lines

/-- One more of these lines. -/
theorem Unspilled.addBobbin {lines : List Nat} {bs : List Bobbin} (h : Unspilled lines bs) {b : Bobbin} (hs : b.spilled = false)
    (hl : b.line ∈ lines) : Unspilled lines (addBobbin b bs) := by
  intro x hx
  obtain ⟨c, hc, hline, hspill⟩ := mem_addBobbin hx
  rw [hline, hspill]
  rcases List.mem_cons.1 hc with rfl | hc
  · exact ⟨hs, hl⟩
  · exact h c hc

/-- The bobbins of one set do not fill the ways that may be pinned, where the line asked for is not among them. -/
theorem pinned_lt {lines : List Nat} {bs : List Bobbin} {line : Nat} (hbs : Unspilled lines bs) (hline : line ∈ lines)
    (hset : ((lines.eraseDups).filter (fun l => decide (l % 1024 = line % 1024))).length ≤ 8)
    (hnew : line ∉ ((bs.filter (fun b => b.pinned && !b.spilled && b.line % 1024 == line % 1024)).map (fun b => b.line)).eraseDups) :
    ((bs.filter (fun b => b.pinned && !b.spilled && b.line % 1024 == line % 1024)).map (fun b => b.line)).eraseDups.length < 8 := by
  have hnodup := List.nodup_cons.2 ⟨hnew, nodup_eraseDups _⟩
  have hsub : ∀ n ∈ line :: ((bs.filter (fun b => b.pinned && !b.spilled && b.line % 1024 == line % 1024)).map (fun b => b.line)).eraseDups,
      n ∈ (lines.eraseDups).filter (fun l => decide (l % 1024 = line % 1024)) := by
    intro n hn
    rw [List.mem_filter, List.mem_eraseDups]
    rcases List.mem_cons.1 hn with rfl | hn
    · exact ⟨hline, by simp⟩
    · obtain ⟨b, hb, rfl⟩ := List.mem_map.1 (List.mem_eraseDups.1 hn)
      obtain ⟨hb, hcond⟩ := List.mem_filter.1 hb
      simp only [Bool.and_eq_true, beq_iff_eq] at hcond
      exact ⟨(hbs b hb).2, by simp [hcond.2]⟩
  have hlen := hnodup.length_le_of_subset hsub
  simp only [List.length_cons] at hlen
  omega

section
variable {s : State} (hnone : s.coreBobbins s.curCore = []) {lines : List Nat}
  (hset : ∀ line, ((lines.eraseDups).filter (fun l => decide (l % 1024 = line % 1024))).length ≤ 8)
include hnone hset

/-- In a core without bobbins each finds a place in the table. -/
theorem placeBobbin_free {extra : List Bobbin} (hextra : Unspilled lines extra) (hroom : extra.length < Config.bobbins) (team reg : Nat)
    (space : Space) {loc : Nat} (hline : lineOf loc ∈ lines) : s.placeBobbin extra team reg space loc = (s, some false) := by
  have htable : Unspilled lines (extra.foldl (fun l b => addBobbin b l) []) := by
    intro x hx
    obtain ⟨c, hc, hl, hs⟩ := mem_foldl_addBobbin hx
    rw [hl, hs]
    exact hextra c hc
  have hlen : ((extra.foldl (fun l b => addBobbin b l) []).filter (fun b => !b.spilled)).length < Config.bobbins := by
    have h := length_foldl_addBobbin extra []
    have hfilter := List.length_filter_le (fun b : Bobbin => !b.spilled) (extra.foldl (fun l b => addBobbin b l) [])
    simp only [List.length_nil] at h
    omega
  unfold State.placeBobbin
  dsimp only
  rw [hnone]
  split
  next b hb => rw [(htable b (List.mem_of_find?_eq_some hb)).1]
  next =>
    split
    next hc =>
      simp only [Bool.and_eq_true, Bool.not_eq_true', decide_eq_true_eq, ← Bool.not_eq_true, List.contains_iff_mem] at hc
      obtain ⟨⟨-, hnew⟩, hfull⟩ := hc
      exact absurd (pinned_lt htable hline (hset _) hnew) (Nat.not_lt.2 hfull)
    next => rfl

/-- In a core without bobbins each lane finds a place in the table. -/
theorem placeLanes_free (reg : Nat) {f : Nat → Space × Nat} {lanes : List Nat} {extra : List Bobbin} (hextra : Unspilled lines extra)
    (hroom : extra.length + lanes.length ≤ Config.bobbins) (hlines : ∀ l ∈ lanes, lineOf (f l).2 ∈ lines) :
    State.placeLanes reg extra (sitesAt f lanes) s = (s, lanes.map (fun l => (l, .at_ (f l).1 (f l).2, false))) := by
  induction lanes generalizing extra with
  | nil => rfl
  | cons l lanes ih =>
    rw [List.length_cons] at hroom
    have hplace := placeBobbin_free hnone hset hextra (by omega) s.cur.uid reg (f l).1 (hlines l (by simp))
    have hmore (b : Bobbin) (hs : b.spilled = false) (hl : b.line ∈ lines) := ih (extra := addBobbin b extra) (hextra.addBobbin hs hl)
      (by have := (length_addBobbin b extra).1; omega) fun m hm => hlines m (by simp [hm])
    rw [sitesAt, List.map_cons, State.placeLanes]
    dsimp only
    rw [hplace]
    dsimp only
    rw [← sitesAt, hmore _ rfl (hlines l (by simp))]
    rfl

end

end Sys2Proof.Machine
end

section
/-! SUPPORT. Bind loads that are performed while an instruction lists them (R135, R163). -/

namespace Sys2Proof.Machine

/-! ## A bind load returns (R163) -/

/-- Registers of a team are written and bound. -/
def TeamBinds (t u : Team) : Prop :=
  ∃ v sc w b sl po, u = { t with v := v, s := sc, written := w, bindings := b, shortLived := sl, poison := po }

/-- One after the other. -/
theorem TeamBinds.trans {t u w : Team} (h : TeamBinds t u) (k : TeamBinds u w) : TeamBinds t w := by
  obtain ⟨_, _, _, _, _, _, rfl⟩ := h
  obtain ⟨_, _, _, _, _, _, rfl⟩ := k
  exact ⟨_, _, _, _, _, _, rfl⟩

/-- A binding of a register ends. -/
theorem teamBinds_unbindReg (t : Team) (lane r : Nat) : TeamBinds t (t.unbindReg lane r) := by
  unfold Team.unbindReg
  split <;> exact ⟨_, _, _, _, _, _, rfl⟩

/-- Registers of the issuing team are written and bound, and lines are asked for. -/
def Binds (s t : State) : Prop :=
  ∃ c others reqs, TeamBinds s.cur c ∧ t = { s with cur := c, others := others, coh := { s.coh with reqs := reqs } }

/-- Nothing written. -/
theorem Binds.refl (s : State) : Binds s s := ⟨s.cur, _, _, ⟨_, _, _, _, _, _, rfl⟩, rfl⟩

/-- One after the other. -/
theorem Binds.trans {s t u : State} (h : Binds s t) (k : Binds t u) : Binds s u := by
  obtain ⟨_, _, _, hc, rfl⟩ := h
  obtain ⟨_, _, _, kc, rfl⟩ := k
  exact ⟨_, _, _, hc.trans kc, rfl⟩

/-- Many, one after another. -/
theorem Binds.foldl {α : Type} {f : State → α → State} (hf : ∀ s x, Binds s (f s x)) (xs : List α) (s : State) : Binds s (xs.foldl f s) := by
  induction xs generalizing s with
  | nil => exact .refl s
  | cons x xs ih => exact (hf s x).trans (ih _)

/-- A team whose registers, bindings and marks change. -/
theorem binds_modTeam (s : State) (u : Nat) {g : Team → Team} (hg : TeamBinds s.cur (g s.cur)) : Binds s (s.modTeam u g) := by
  refine ⟨if s.cur.live && s.cur.uid == u then g s.cur else s.cur, _, s.coh.reqs, ?_, rfl⟩
  split
  · exact hg
  · exact ⟨_, _, _, _, _, _, rfl⟩

/-- A word delivered for a bind load stores through no binding. -/
theorem binds_deliver (s : State) {l : Load} {n e sp : Bool} {va : Nat} (hk : l.kind = .bind n e va sp) (d : Dest) (w : Word) :
    Binds s (s.deliver l d w) := by
  unfold State.deliver
  split
  · exact .refl s
  · exact binds_modTeam s _ ⟨_, _, _, _, _, _, rfl⟩
  · split
    · exact .refl s
    · rw [hk]
      exact binds_modTeam s _ ⟨_, _, _, _, _, _, rfl⟩

/-- A bobbin's line asked for. -/
theorem binds_holdBound (s : State) (core : Nat) (space : Space) (loc : Nat) (spilled : Bool) : Binds s (s.holdBound core space loc spilled) := by
  have hshared : Binds s (s.askShared core (lineOf loc)) := by
    unfold State.askShared
    split
    · exact .refl s
    · exact ⟨s.cur, _, _, ⟨_, _, _, _, _, _, rfl⟩, rfl⟩
  unfold State.holdBound
  dsimp only
  split
  · exact .refl s
  · split
    · split
      · exact hshared
      · exact .refl s
    · split
      · exact .refl s
      · exact ⟨s.cur, _, _, ⟨_, _, _, _, _, _, rfl⟩, rfl⟩

/-- A bind load that returns is read as a plain load is, and then writes and binds registers. -/
theorem binds_bindReturn (s : State) {l : Load} {n e sp : Bool} {va : Nat} (hk : l.kind = .bind n e va sp) (n' e' sp' : Bool) (va' : Nat) :
    Binds (s.performLoad { l with kind := .plain }).1 (s.bindReturn l n' e' va' sp') := by
  unfold State.bindReturn
  dsimp only
  generalize s.performLoad { l with kind := .plain } = r
  split
  next =>
    have hbind (t : Team) (lane reg : Nat) (b : Binding) (keys : List Nat) :
        TeamBinds t (Team.unmark { t with bindings := aput t.bindings (vkey lane reg) b } keys) := ⟨_, _, _, _, _, _, rfl⟩
    have hdeliver (s : State) (d : Nat × Dest) : Binds s (s.deliver { r.2 with kind := l.kind } d.2 (r.2.word d.1)) :=
      binds_deliver s (l := { r.2 with kind := l.kind }) hk d.2 _
    refine ((Binds.foldl hdeliver r.2.dests r.1).trans (binds_holdBound _ _ _ _ _)).trans (binds_modTeam _ _ ?_)
    split
    · exact (teamBinds_unbindReg ..).trans ((teamBinds_unbindReg ..).trans (hbind ..))
    · exact (teamBinds_unbindReg ..).trans (hbind ..)
  next => exact .refl _

/-! ## Bind loads of the issuing team that return (R135, R163) -/

/-- Some bind loads of the issuing team have returned: they are no longer listed, registers are written and bound, and caches have moved
with the reads. -/
structure HasBound (s t : State) : Prop where
  frame : ∃ c coh mem poison fresh others loads, TeamBinds s.cur c ∧ t = { s with
    cur := c, coh := coh, mem := mem, poison := poison, fresh := fresh, others := others, loads := loads }
  back : ∀ y ∈ t.loads, y ∈ s.loads
  dirty : s.noneDirty → t.noneDirty ∧ t.mem = s.mem
  plain : s.fetchesNone → t.mem = s.mem

section
variable {s t u : State}

theorem HasBound.cur (h : HasBound s t) : TeamBinds s.cur t.cur := by
  obtain ⟨_, _, _, _, _, _, _, hc, rfl⟩ := h.frame
  exact hc

theorem HasBound.uid (h : HasBound s t) : t.cur.uid = s.cur.uid := by
  obtain ⟨_, _, _, _, _, _, hc⟩ := h.cur
  rw [hc]

theorem HasBound.region (h : HasBound s t) (hr : s.cur.inRegion = false) : t.cur.inRegion = false := by
  obtain ⟨_, _, _, _, _, _, hc⟩ := h.cur
  rw [hc]
  exact hr

theorem HasBound.xfers (h : HasBound s t) : t.xfers = s.xfers := by
  obtain ⟨_, _, _, _, _, _, _, _, rfl⟩ := h.frame
  rfl

theorem HasBound.fetchesNone (h : HasBound s t) (hn : s.fetchesNone) : t.fetchesNone := by
  intro y hy hteam
  rw [h.uid] at hteam
  exact hn y (h.back y hy) hteam

/-- Nothing returned. -/
theorem HasBound.refl (s : State) : HasBound s s :=
  ⟨⟨_, _, _, _, _, _, _, ⟨_, _, _, _, _, _, rfl⟩, rfl⟩, fun _ => id, fun hd => ⟨hd, rfl⟩, fun _ => rfl⟩

/-- One after the other. -/
theorem HasBound.trans (h : HasBound s t) (k : HasBound t u) : HasBound s u := by
  refine ⟨?_, fun y hy => h.back y (k.back y hy), fun hd => ?_, fun hn => (k.plain (h.fetchesNone hn)).trans (h.plain hn)⟩
  · obtain ⟨_, _, _, _, _, _, _, hc, rfl⟩ := h.frame
    obtain ⟨_, _, _, _, _, _, _, kc, rfl⟩ := k.frame
    exact ⟨_, _, _, _, _, _, _, hc.trans kc, rfl⟩
  · obtain ⟨hd', hm⟩ := h.dirty hd
    obtain ⟨hd'', hm'⟩ := k.dirty hd'
    exact ⟨hd'', hm'.trans hm⟩

/-- More loads listed. -/
theorem HasBound.append (h : HasBound s t) (xs : List Load) :
    HasBound { s with loads := s.loads ++ xs } { t with loads := t.loads ++ xs } := by
  refine ⟨?_, fun y hy => ?_, h.dirty, fun hn => h.plain fun x hx => hn x (List.mem_append_left _ hx)⟩
  · obtain ⟨_, _, _, _, _, _, _, hc, rfl⟩ := h.frame
    exact ⟨_, _, _, _, _, _, _, hc, rfl⟩
  · rcases List.mem_append.1 hy with hy | hy
    · exact List.mem_append_left _ (h.back y hy)
    · exact List.mem_append_right _ hy

end

/-- The issuing team's unread loads are bind loads. -/
def State.readsBind (s : State) : Prop := ∀ x ∈ s.loads, x.team = s.cur.uid → x.value = none → ∃ n e va sp, x.kind = .bind n e va sp

/-- So they stay. -/
theorem HasBound.readsBind {s t : State} (h : HasBound s t) (hb : s.readsBind) : t.readsBind := by
  intro y hy hteam
  rw [h.uid] at hteam
  exact hb y (h.back y hy) hteam

section
variable {s : State} (h : s.cur.inRegion = false) (hx : s.xfers = [])
include h hx

/-- A bind load of the list that returns. -/
theorem hasBound_settleLoad {l : Load} {n e sp : Bool} {va : Nat} (hl : l ∈ s.loads) (hteam : l.team = s.cur.uid)
    (hk : l.kind = .bind n e va sp) (hv : l.value = none) : HasBound s (s.settleLoad l) := by
  obtain ⟨r, v, hperform, ⟨_, _, _, _, _, hr⟩, hbeside, hmem⟩ := performLoad_moves (s := { s with
    loads := s.loads.filter (fun (x : Load) => decide (x ≠ l)) }) h hx (l := { l with kind := .plain }) rfl hv
  have hreturn := binds_bindReturn { s with loads := s.loads.filter (fun (x : Load) => decide (x ≠ l)) } hk n e sp va
  have hsettle : s.settleLoad l = State.bindReturn { s with loads := s.loads.filter (fun (x : Load) => decide (x ≠ l)) } l n e va sp := by
    unfold State.settleLoad
    rw [hk]
  rw [hperform] at hreturn
  obtain ⟨c, others, reqs, hc, hbind⟩ := hreturn
  rw [hsettle, hbind]
  refine ⟨?_, fun y hy => ?_, hbeside.memory hx, fun hn => hmem (hn l hl hteam hv)⟩
  · rw [hr] at hc ⊢
    exact ⟨c, _, _, _, _, _, _, hc, rfl⟩
  · have hloads : r.loads = s.loads.filter (fun (x : Load) => decide (x ≠ l)) := hbeside.loads
    exact List.mem_of_mem_filter (hloads ▸ hy)

end

/-- Earlier loads of the team from the same bytes return first (R135). -/
theorem hasBound_forceLoads {s : State} (h : s.cur.inRegion = false) (hx : s.xfers = []) (hb : s.readsBind) (loc size : Nat) (ls : List Load) :
    HasBound s (State.forceLoads s.cur.uid loc size ls s) := by
  induction ls generalizing s with
  | nil => exact .refl s
  | cons l ls ih =>
    rw [State.forceLoads]
    split
    next hc =>
      simp only [Bool.and_eq_true, beq_iff_eq, Option.isNone_iff_eq_none, List.contains_iff_mem] at hc
      obtain ⟨⟨⟨⟨⟨⟨hteam, -⟩, hv⟩, -⟩, -⟩, hl⟩, -⟩ := hc
      obtain ⟨n, e, va, sp, hk⟩ := hb l hl hteam hv
      have hone := hasBound_settleLoad h hx hl hteam hk hv
      have hrest := ih (s := s.settleLoad l) (hone.region h) (hone.xfers.trans hx) (hone.readsBind hb)
      rw [hone.uid] at hrest
      exact hone.trans hrest
    next => exact ih h hx hb

/-- A load listed, after the earlier ones that it meets have returned. -/
theorem hasBound_addLoad {s : State} (h : s.cur.inRegion = false) (hx : s.xfers = []) (hb : s.readsBind) (x : Load) :
    HasBound { s with loads := s.loads ++ [x] } (s.addLoad x) :=
  (hasBound_forceLoads h hx hb x.loc x.size s.loads).append [x]

/-- The bind loads that an instruction lists for some lanes. -/
def State.bindStarted (s : State) (notify size8 : Bool) (va : Nat → Nat) (size : Nat) (dests : Nat → List (Nat × Dest)) (f : Nat → Space × Nat)
    (lanes : List Nat) : List Load :=
  s.started (fun l => .bind notify size8 (va l) false) size .none dests f lanes

/-- An instruction lists the same bind loads when earlier ones have returned. -/
theorem HasBound.started {s t : State} (h : HasBound s t) (notify size8 : Bool) (va : Nat → Nat) (size : Nat) (dests : Nat → List (Nat × Dest))
    (f : Nat → Space × Nat) (lanes : List Nat) :
    t.bindStarted notify size8 va size dests f lanes = s.bindStarted notify size8 va size dests f lanes := by
  obtain ⟨_, _, _, _, _, _, _, ⟨_, _, _, _, _, _, rfl⟩, rfl⟩ := h.frame
  rfl

/-- Lanes list bind loads; where they meet, the earlier ones return. -/
theorem hasBound_addLoads {s : State} (h : s.cur.inRegion = false) (hx : s.xfers = []) (hb : s.readsBind) (notify size8 : Bool) (va : Nat → Nat)
    (size : Nat) (dests : Nat → List (Nat × Dest)) (f : Nat → Space × Nat) (lanes : List Nat) :
    HasBound { s with loads := s.loads ++ s.bindStarted notify size8 va size dests f lanes }
      (State.addLoads (fun l => .bind notify size8 (va l) false) size .none dests (sitesAt f lanes) s) := by
  induction lanes generalizing s with
  | nil =>
    rw [State.bindStarted, State.started, List.map_nil, List.append_nil]
    exact .refl s
  | cons l lanes ih =>
    have hbind : State.readsBind { s with
        loads := s.loads ++ [s.mkLoad (.bind notify size8 (va l) false) l (f l).1 (f l).2 size .none (dests l)] } := by
      intro x hx hteam hn
      rcases List.mem_append.1 hx with hx | hx
      · exact hb x hx hteam hn
      · rw [List.mem_singleton.1 hx]
        exact ⟨_, _, _, _, rfl⟩
    have hone := hasBound_addLoad h hx hb (s.mkLoad (.bind notify size8 (va l) false) l (f l).1 (f l).2 size .none (dests l))
    have hrest := ih (hone.region h) (hone.xfers.trans hx) (hone.readsBind hbind)
    have hmore := hone.append (s.bindStarted notify size8 va size dests f lanes)
    rw [hone.started] at hrest
    rw [addLoads_cons]
    refine HasBound.trans ?_ hrest
    rw [List.append_assoc] at hmore
    exact hmore

end Sys2Proof.Machine
end

section
/-! SUPPORT. Bind loads that start (R163, R170, R174). -/

namespace Sys2Proof.Machine

/-! ## The body (R174) -/

/-- A team without bindings has none to end. -/
theorem unbindAll_nil {t : Team} (h : t.bindings = []) (lanes regs : List Nat) : t.unbindAll lanes regs = t := by
  have hone (l r : Nat) : t.unbindReg l r = t := by simp [Team.unbindReg, Team.boundAt, h, alook]
  have hlane (l : Nat) : regs.foldl (fun t r => t.unbindReg l r) t = t := List.foldl_fixed' (fun r => hone l r) regs
  exact List.foldl_fixed' hlane lanes

/-- Lanes on this device list bind loads and ask nobody, and the instruction completes. -/
theorem bindLoads_done {c : State} {lanes : List Nat} {f : Nat → Space × Nat} (hregion : c.cur.inRegion = false) (hx : c.xfers = [])
    (hold : ∀ y ∈ c.loads, y.seq < c.nextSeq ∧ (y.team = c.cur.uid → y.value ≠ none)) (hremote : ∀ l ∈ lanes, (f l).1.remote = false)
    (notify size8 : Bool) (va : Nat → Nat) (size : Nat) (dests : Nat → List (Nat × Dest)) :
    let r := State.addLoads (fun l => .bind notify size8 (va l) false) size .none dests (sitesAt f lanes) c
    let q := State.askLoads c.nextSeq 0 r.loads r
    ∃ t, Res.withAsks q.2 false (q.1.takeSeq.afterSites Need.binding false (sitesAt f lanes)) = .done t ∧ TeamBinds c.cur t.cur ∧
      ((c.noneDirty ∨ ∀ l ∈ lanes, (f l).1 ≠ .software) → t.mem = c.mem) ∧
      (lanes.Pairwise (Apart f size) → t.cur = c.cur ∧ t.loads = c.loads ++ c.bindStarted notify size8 va size dests f lanes) := by
  dsimp only
  have hadd := hasBound_addLoads hregion hx (fun x hx hteam hn => absurd hn ((hold x hx).2 hteam)) notify size8 va size dests f lanes
  have hask : State.askLoads c.nextSeq 0 (State.addLoads (fun l => .bind notify size8 (va l) false) size .none dests (sitesAt f lanes) c).loads
      (State.addLoads (fun l => .bind notify size8 (va l) false) size .none dests (sitesAt f lanes) c) = (_, []) :=
    askLoads_none fun y hy => started_remote (fun y hy => (hold y hy).1) hremote y (hadd.back y hy)
  rw [hask, withAsks_nil, afterSites_sitesAt]
  refine ⟨_, rfl, hadd.cur, fun hn => ?_, fun hapart => ?_⟩
  · rcases hn with hn | hn
    · exact (hadd.dirty hn).2
    · refine hadd.plain fun x hm hteam hnone => ?_
      rcases List.mem_append.1 hm with hm | hm
      · exact absurd hnone ((hold x hm).2 hteam)
      · obtain ⟨l, hl, rfl⟩ := List.mem_map.1 hm
        exact hn l hl
  · rw [addLoads_apart hapart fun y hy hu => .inl ((hold y hy).2 hu)]
    exact ⟨rfl, rfl⟩

/-- What a bind load instruction has done when it is through. -/
structure BindLoaded (s : State) (notify size8 : Bool) (d a b : Code) (f : Nat → Space × Nat) (t : State) : Prop where
  cur : TeamBinds s.cur t.cur
  mem : (s.noneDirty ∨ ∀ l ∈ s.cur.contribLanes, (f l).1 ≠ .software) → t.mem = s.mem
  apart : s.cur.contribLanes.Pairwise (Apart f (4 * regs size8)) → t.cur = s.cur ∧ ∀ l ∈ s.cur.contribLanes,
    s.mkLoad (.bind notify size8 (s.cur.effective l a b).toNat false) l (f l).1 (f l).2 (4 * regs size8) .none
      (destsOf l d (regs size8)) ∈ t.loads

/-- The accesses of a bind load. -/
def Team.bindAccesses (t : Team) (size8 : Bool) (a b : Code) : List (Nat × DWord × Nat) :=
  t.contribLanes.map (fun l => (l, t.effective l a b, 4 * regs size8))

section
variable {s : State} {notify size8 : Bool} {d a b : Code} {f : Nat → Space × Nat} (hp : s.plain = true) (hq : s.quiet)
  (hb : s.cur.bindings = []) (hpl : s.placed Need.binding (s.cur.bindAccesses size8 a b) f) (hnone : s.coreBobbins s.curCore = [])
  (hpin : pinnable (s.cur.contribLanes.map (fun l => (f l).2))) (hsize : s.cur.size ≤ 1024) (hd : isV d = true)
include hp hq hb hpl hnone hpin hsize hd

omit hp hq hb hpl hd in
/-- The lanes of a bind load find places for their bobbins in the table. -/
theorem placeLanes_bind (team : Nat) (lanes : Mask) (rs : List Nat) (reg : Nat) :
    State.placeLanes reg [] (sitesAt f s.cur.contribLanes) (s.cutBindsAt team lanes rs) =
      (s.cutBindsAt team lanes rs, s.cur.contribLanes.map (fun l => (l, .at_ (f l).1 (f l).2, false))) := by
  have hlen : s.cur.contribLanes.length ≤ s.cur.size := (List.length_filter_le _ _).trans_eq List.length_range
  refine placeLanes_free (lines := (s.cur.contribLanes.map (fun l => (f l).2)).map lineOf) (coreBobbins_cutBindsAt hnone) ?_ _ nofun ?_ ?_
  · exact fun line => hpin (line % 1024) (Nat.mod_lt _ (by decide))
  · have hmany : 1024 ≤ Config.bobbins := by decide
    simp only [List.length_nil]
    omega
  · intro l hl
    exact List.mem_map.2 ⟨_, List.mem_map.2 ⟨l, hl, rfl⟩, rfl⟩

/-- The body of a bind load. -/
theorem runBind_done : ∃ t, State.runBind notify size8 d a b s = .done t ∧ BindLoaded s notify size8 d a b f t := by
  obtain ⟨-, -, -, -, hrun, hregion, -⟩ := (State.plain_iff s).1 hp
  have hquiet := hq
  obtain ⟨hx, hold, -⟩ := hquiet
  have hlanes : (s.cur.bindAccesses size8 a b).map (fun x => x.1) = s.cur.contribLanes := by
    rw [Team.bindAccesses, List.map_map]
    exact List.map_id _
  have hacc : s.cur.loadAccesses (if size8 then 8 else 4) d a b = s.cur.bindAccesses size8 a b := by
    simp only [Team.loadAccesses, Team.evalLanes, isS_of_isV hd, Bool.false_eq_true, if_false]
    cases size8 <;> rfl
  have hsites := placed_sites hpl
  have hwait := placed_mustWait hpl hq .read
  have hremote := placed_remote hpl
  rw [hlanes] at hsites hwait
  unfold State.runBind
  dsimp only
  rw [hacc]
  split
  next hnil =>
    have hempty : s.cur.contribLanes = [] := by rw [← hlanes, hnil]; rfl
    exact ⟨s, rfl, ⟨_, _, _, _, _, _, rfl⟩, fun _ => rfl, fun _ => ⟨rfl, by simp [hempty]⟩⟩
  next =>
    rw [hsites]
    dsimp only
    rw [hwait, unpark_of_running hrun, hsites]
    dsimp only
    generalize (sitesAt f s.cur.contribLanes).filter (fun x => x.2.ok) = ok
    generalize (List.range (regs size8)).map (fun i => d.toNat + i) = rs
    have hcut : (s.cutBindsAt s.cur.uid (maskOf (ok.map (fun x => x.1))) rs).setCur
        ((s.cutBindsAt s.cur.uid (maskOf (ok.map (fun x => x.1))) rs).cur.unbindAll (ok.map (fun x => x.1)) rs) =
          s.cutBindsAt s.cur.uid (maskOf (ok.map (fun x => x.1))) rs :=
      congrArg (State.setCur _) (unbindAll_nil hb _ _)
    rw [hcut, placeLanes_bind hnone hpin hsize]
    have hplaces : (s.cur.contribLanes.map (fun l => (l, Site.at_ (f l).1 (f l).2, false))).map (fun x => (x.1, x.2.1)) =
        sitesAt f s.cur.contribLanes := by
      rw [List.map_map]
      rfl
    have hspill (l : Nat) : ((s.cur.contribLanes.map (fun l => (l, Site.at_ (f l).1 (f l).2, false))).filter (fun x => x.2.1.ok)).any
        (fun x => x.1 == l && x.2.2) = false := by
      refine List.any_eq_false.2 fun x hx => ?_
      obtain ⟨m, -, rfl⟩ := List.mem_map.1 (List.mem_filter.1 hx).1
      simp
    have hva (l : Nat) : ((s.cutBindsAt s.cur.uid (maskOf (ok.map (fun x => x.1))) rs).cur.addr l a b).toNat % 2 ^ 64 =
        (s.cur.effective l a b).toNat := Nat.mod_eq_of_lt (BitVec.isLt _)
    have hbytes : (if size8 then 8 else 4) = 4 * regs size8 := by cases size8 <;> rfl
    have hrest := bindLoads_done (c := s.cutBindsAt s.cur.uid (maskOf (ok.map (fun x => x.1))) rs) hregion hx (fun y hy => ?_)
      (fun l hl => hremote (l, _, _) (List.mem_map.2 ⟨l, hl, rfl⟩)) notify size8 (fun l => (s.cur.effective l a b).toNat) (4 * regs size8)
      (fun l => destsOf l d (regs size8))
    · obtain ⟨t, hdone, hcur, hmem, hapart⟩ := hrest
      refine ⟨t, ?_, hcur, hmem, fun h => ?_⟩
      · simp only [hplaces, hspill, hva, hbytes]
        exact hdone
      · obtain ⟨hsame, hloads⟩ := hapart h
        exact ⟨hsame, fun l hl => hloads ▸ List.mem_append_right _ (List.mem_map.2 ⟨l, hl, rfl⟩)⟩
    · obtain ⟨x, hx, rfl | rfl⟩ := mem_cutBindsAt hy
      · exact hold y hx
      · exact hold x hx

end

/-! ## The instructions (R174) -/

/-- A bind load, by its size and operands. -/
theorem bindEntry_some {s : State} {i : Instr} {n : Bool} {e : MemEntry} (h : s.cur.bindEntry i = some (n, e)) :
    ∃ size8 d a b, exec i s = issueBind n size8 d a b s ∧
      e = ⟨d, 4 * regs size8, vOk s.cur size8 d && baseOk s.cur a && srcOk s.cur false b, (s.cur.evalLanes d).map (fun l =>
        (l, s.cur.effective l a b, 4 * regs size8))⟩ := by
  cases i <;> cases h
  case bld d a b => exact ⟨false, d, a, b, rfl, rfl⟩
  case bldn d a b =>
    refine ⟨wide s.cur.type, d, a, b, rfl, ?_⟩
    rw [← atomicSize_eq]
    rfl
  case bldd d a b => exact ⟨true, d, a, b, rfl, rfl⟩

/-- The conditions of a bind load that find nothing. -/
theorem exec_bind {s : State} {i : Instr} {n : Bool} {e : MemEntry} {f : Nat → Space × Nat} (hp : s.plain = true) (hset : s.hasSeta = true)
    (hb : s.cur.bindings = []) (he : s.cur.bindEntry i = some (n, e)) (hok : e.legal = true) (hpl : s.placed Need.binding e.accesses f)
    (hq : s.quiet) (hnone : s.coreBobbins s.curCore = []) (hpin : pinnable (e.accesses.map (fun x => (f x.1).2))) (hsize : s.cur.size ≤ 1024) :
    ∃ size8 a b t, exec i s = .next (t.setCur t.cur.advance) ∧ BindLoaded s n size8 e.d a b f t ∧ isV e.d = true ∧ e.size = 4 * regs size8 ∧
      e.accesses = s.cur.bindAccesses size8 a b := by
  obtain ⟨size8, d, a, b, hexec, rfl⟩ := bindEntry_some he
  simp only [Bool.and_eq_true] at hok
  obtain ⟨⟨hd, hbase⟩, hsrc⟩ := hok
  have hv : isV d = true := by
    simp only [vOk, vRun, Bool.and_eq_true] at hd
    exact hd.1.1
  have hacc : (s.cur.evalLanes d).map (fun l => (l, s.cur.effective l a b, 4 * regs size8)) = s.cur.bindAccesses size8 a b := by
    rw [Team.evalLanes, if_neg (by simp [isS_of_isV hv]), Team.bindAccesses]
  dsimp only at hpl hpin
  rw [hacc] at hpl hpin
  rw [Team.bindAccesses, List.map_map] at hpin
  obtain ⟨t, hrun, hloaded⟩ := runBind_done (notify := n) hp hq hb hpl hnone hpin hsize hv
  refine ⟨size8, a, b, t, hexec.trans (issue_done hp (Spec.conds_nil nofun (fun _ => hset) nofun) ?_ hrun), hloaded, hv, rfl, hacc⟩
  have hloads : s.cur.loadAccesses (if size8 then 8 else 4) d a b = s.cur.bindAccesses size8 a b := by
    rw [← hacc]
    cases size8 <;> rfl
  rw [hloads]
  simp only [hd, hbase, hsrc, Bool.and_self, if_true]
  exact hpl.1

/-- The registers of a lane that an access of whole registers fills. -/
theorem destsOf_vector {d : Code} (h : isV d = true) (l n : Nat) :
    destsOf l d n = (List.range n).map (fun k => (k, Dest.vec l (d.toNat + k))) := by
  simp [destsOf, h]

/-- The team goes on where it stood, whatever its registers and bindings are. -/
theorem advance_of_binds {t u : Team} (h : TeamBinds t u) :
    u.advance.pc = t.advance.pc ∧ u.advance.idx = t.advance.idx ∧ u.advance.park = .running := by
  obtain ⟨_, _, _, _, _, _, hu⟩ := h
  obtain ⟨hpc, hidx, -⟩ := Team.advance_place (t := t) (u := u) (by rw [hu]) (by rw [hu]) (by rw [hu])
  obtain ⟨_, _, _, _, _, ha⟩ := u.advance_eq
  exact ⟨hpc, hidx, by rw [ha]⟩

/-- Where the old value of an atomic through a binding goes (R178). -/
theorem oldDests_vector {t : Team} {wd : Bool} {old : Option Code} (h : ∀ x, old = some x → vzOk t wd x = true) (l n : Nat) :
    (old.map (fun c => (destsOf l c n).map (fun e => e.2))).getD [] =
      (old.map (fun c => (List.range n).map (fun k => if isV c then Dest.vec l (c.toNat + k) else .none))).getD [] := by
  cases old with
  | none => rfl
  | some c => simp [destsOf, isS_of_vzOk (h c rfl), Function.comp_def]

/-- Settles O32: bind loads list a read for each lane, which return at once only where lanes read bytes of one another; atomics through
bindings list one for each lane at its binding's place. -/
theorem boundAccessesStart : Obligations.BoundAccessesStart := by
  unfold Obligations.BoundAccessesStart
  refine ⟨fun s i n e f hp hset hb he hok hpl hq hnone hpin hsize => ?_, fun s i op d a nw old bd hp hset hq hf _ hbar he htype => ?_⟩
  · obtain ⟨size8, a, b, t, hexec, hloaded, hv, hbytes, hacc⟩ := exec_bind hp hset hb he hok hpl hq hnone hpin hsize
    obtain ⟨hpc, hidx, hpark⟩ := advance_of_binds hloaded.cur
    have hmem {l : Nat} (hl : l ∈ s.cur.contribLanes) : (l, s.cur.effective l a b, 4 * regs size8) ∈ e.accesses :=
      hacc ▸ List.mem_map.2 ⟨l, hl, rfl⟩
    refine ⟨_, hexec, hpc, hidx, hpark, fun hn x => ?_, fun hapart => ?_⟩
    · exact congrArg (cellAt · x) (hloaded.mem (hn.imp_right fun hsoft l hl => hsoft _ (hmem hl)))
    · rw [hbytes] at hapart ⊢
      obtain ⟨hcur, hlisted⟩ := hloaded.apart (pairwise_apart s.cur.contribLanes_nodup fun l hl m hm hne =>
        hapart _ (hmem hl) _ (hmem hm) hne)
      refine ⟨teamKept_same hp hcur, fun x hx => ?_⟩
      rw [hacc] at hx
      obtain ⟨l, hl, rfl⟩ := List.mem_map.1 hx
      have hwide : decide (4 * regs size8 = 8) = size8 := by cases size8 <;> rfl
      rw [hwide, Nat.mul_div_cancel_left _ (by decide), ← destsOf_vector hv]
      exact ⟨_, hlisted l hl, rfl, rfl, rfl, rfl, rfl, rfl, rfl, rfl, rfl, rfl⟩
  · dsimp only
    intro hd ha hnw hold hbind hsites hapart
    have hv : isV d = true := by
      simp only [vRun, Bool.and_eq_true] at hd
      exact hd.1.1
    obtain ⟨t, hexec, hkept, hbindings, hbytes, hlisted⟩ := exec_bound_starts (bd := bd) hp hq hf
      (fun x hx l hl k hk hx' => (hold x hx).2 l hl k hk hx')
      (fun l hl => by obtain ⟨hlook, -, -, hkind, hdrain⟩ := hbind l hl; exact ⟨hlook, hkind, hdrain⟩)
      hsites (pairwise_apart s.cur.contribLanes_nodup fun l hl m hm hne => hapart l hl m hm hne) hset he htype
      ⟨hnw, fun x hx => (hold x hx).1⟩ hd ha (fun l hl => (hbind l hl).2.1) hbar
    refine ⟨t, hexec, hkept, hbindings, hbytes, fun l hl => ⟨_, hlisted l hl, rfl, rfl, rfl, rfl, rfl, rfl, ?_, ?_⟩⟩
    · exact destsOf_vector hv l _
    · exact congrArg (LoadKind.bound op s.cur.type _ _) (oldDests_vector (fun x hx => (hold x hx).1) l (regs (wide s.cur.type)))

end Sys2Proof.Machine
end
